-- ==== Sys2Proof/Word.lean ====
section
/-! DEFINITION. Word types of the HK96 and their plainest arithmetic (spec 00 R3, 06 R79). -/

namespace Sys2Proof

/-- A byte of memory. -/
abbrev Byte := BitVec 8
/-- A 16-bit immediate or code. -/
abbrev W16 := BitVec 16
/-- One vector lane (03 R28). -/
abbrev W32 := BitVec 32
/-- A scalar, a system register, a counter (03 R27). -/
abbrev W64 := BitVec 64
/-- One instruction word (06 R79). -/
abbrev W128 := BitVec 128

/-- Bits [hi:lo] of a word as a number, both ends inclusive (00 R3). -/
def fld (w : BitVec n) (hi lo : Nat) : Nat := (w.toNat >>> lo) % 2 ^ (hi + 1 - lo)

/-- Bit `i` of a word. -/
def bit (w : BitVec n) (i : Nat) : Bool := w.getLsbD i

/-- Place the low `width` bits of `v` at bit `lo` of `w`, the other bits kept. -/
def setFld (w : BitVec n) (lo width : Nat) (v : Nat) : BitVec n :=
  let mask : BitVec n := BitVec.ofNat n ((2 ^ width - 1) <<< lo)
  (w &&& ~~~mask) ||| (BitVec.ofNat n ((v % 2 ^ width) <<< lo))

/-- A truth value as one bit. -/
def b2n (b : Bool) : Nat := if b then 1 else 0

/-- Sign extension of the low `k` bits of `v` to 64 bits. -/
def sext64 (k : Nat) (v : Nat) : W64 := (BitVec.ofNat k v).signExtend 64

end Sys2Proof
end

