-- ==== Sys2Proof/Syntax.lean ====
section
/-! DEFINITION. The instructions and events of the HK96: one constructor of `Instr` per row of the opcode table.
The first 202 rows are forms of the 128-bit instruction word (06 R92); the other 137 are steps of engines, timers,
messages, the host and firmware, which have no encoding and carry plain arguments. -/

namespace Sys2Proof

/-! ## Fields shared by all words (06 R79 to R85) -/

/-- Cache hint CH (06 R81). -/
inductive Hint | normal | stream | keep | last
  deriving DecidableEq, Repr

/-- Guards, cache hint and scheduling control of a word (06 R80 to R84). -/
structure Head where
  ga : Fin 16
  gan : Bool
  gb : Fin 16
  gbn : Bool
  ch : Hint
  stall : Fin 16
  yld : Bool
  pb : BitVec 2
  pa : BitVec 2
  deriving DecidableEq, Repr

/-- Format tags (03 R34); the reserved codes 0xC to 0xE have no constructor, since they never stand in an entry. -/
inductive Fmt | int32 | fp32 | bf16 | fp16 | e4m3 | e5m2 | e2m1s | int16 | int8 | int4 | uint8 | acc12 | none
  deriving DecidableEq, Repr

/-- Part selectors (03 R36, 06 R95). -/
inductive Part | whole | h0 | h1 | b0 | b1 | b2 | b3 | n0 | n1 | n2 | n3 | n4 | n5 | n6 | n7
  deriving DecidableEq, Repr

/-- A scalar source: S0 to S63, peeked or popped, or LS (07 R100). -/
inductive SSrc | s (n : Fin 64) (pk : Bool) | ls
  deriving DecidableEq, Repr

/-- A scalar source or an integer immediate (code si). -/
inductive SOp | src (x : SSrc) | imm (v : W16)
  deriving DecidableEq, Repr

/-- A scalar destination; none is WB 0b00, latch only (06 R85). -/
abbrev SDst := Option (Fin 64)

/-- Where a vector operand stands (06 R86). -/
inductive VLoc | main (n : Fin 1024) (pk : Bool) | opf (n : Fin 8) | lv | ll
  deriving DecidableEq, Repr

/-- A vector source with its part selector and swap (03 R36). -/
structure VSrc where
  loc : VLoc
  part : Part
  swp : Bool
  deriving DecidableEq, Repr

/-- A vector source or an immediate (code vi). -/
inductive VOp | src (x : VSrc) | imm (v : W16)
  deriving DecidableEq, Repr

/-- A vector destination; `latch` is WB 0b00 (06 R85). -/
inductive VDst | latch | main (n : Fin 1024) | opf (n : Fin 8)
  deriving DecidableEq, Repr

/-- A reference (code ri, 09 R152): a raw immediate in range or a scalar. -/
inductive Ref | imm (n : BitVec 12) | src (x : SSrc)
  deriving DecidableEq, Repr

/-- A tile reference (code t, 10 R192). -/
inductive TileRef | imm (n : Fin 32) | src (x : SSrc)
  deriving DecidableEq, Repr

/-- A repeat slot (code rp, 06 R90). -/
inductive Rep | imm (n : BitVec 12) | src (x : SSrc)
  deriving DecidableEq, Repr

/-- A location word (code lw, 09 R152, R175). -/
inductive Lw | imm (v : W16) | src (x : SSrc)
  deriving DecidableEq, Repr

/-- An array input (codes vl and vl-int, 10 R192): a register, or #0 for input from LM. -/
inductive VLm | src (x : VSrc) | lm
  deriving DecidableEq, Repr

/-- Source of PMOV (07 R124). -/
inductive PredOp | p (n : Fin 16) | imm (b : Bool)
  deriving DecidableEq, Repr

/-- Conditions of BRC and CMP (07 R106). -/
inductive Cond | eq | ne | lt | ge | ltu | geu
  deriving DecidableEq, Repr

/-- Fence scopes (07 R119). -/
inductive Scope | core | gang | dev | dom | sys
  deriving DecidableEq, Repr

/-- Rounding modes (04 R49). -/
inductive RM | rne | rz | rd | ru | sr
  deriving DecidableEq, Repr

/-- Kinds of a micro-batch token (07 R113). -/
inductive MbKind | fwd | bwd | upd
  deriving DecidableEq, Repr

/-- System registers (03 R39). -/
inductive SysReg
  | cyc | lcy | phs | xwin | core | gang | berth | heat | lend | seed0 | seed1 | layer | srmode | fpf
  | psize | wdp | trapv | tcause | tval | epc | drpth | drpst | pmc (n : Fin 16) | pmsel (n : Fin 16)
  deriving DecidableEq, Repr

/-- Quad power registers reached by MTSP and MFSP (20 R321, 15 R276). -/
inductive QuadReg | qpew (n : Fin 48) | qpest | qplvl | qpslk
  deriving DecidableEq, Repr

/-- What MFS reads (07 R117). -/
inductive MfsName | sys (r : SysReg) | bar (n : Fin 96) | win (n : Fin 8)
  deriving DecidableEq, Repr

/-- What MTSP and MFSP name (20 R321). -/
inductive PrivName | sys (r : SysReg) | quad (r : QuadReg)
  deriving DecidableEq, Repr

/-- The FIFO named by FCNT, FDROP and FCLR (07 R125). -/
inductive FifoName | v (n : Fin 1024) | s (n : Fin 64)
  deriving DecidableEq, Repr

/-- Comparison conditions of VCMP (08 R135). -/
inductive VCond | eq | ne | lt | le | gt | ge
  deriving DecidableEq, Repr

/-- Reduction kinds (08 R142); scans take the first three. -/
inductive RedKind | add | max | min | and | or | xor
  deriving DecidableEq, Repr

/-- Draw kinds of VRNG (08 R146). -/
inductive DrawKind | u32 | f32 | bf16
  deriving DecidableEq, Repr

/-- Access sizes of LDSC and STSC (09 R157); LDA and STL take the last two. -/
inductive Size | b | h | w | d
  deriving DecidableEq, Repr

/-- Operations of the atomics (09 R166). -/
inductive AmoOp | add | and | or | xor | min | max | minu | maxu | swap | cas | fadd
  deriving DecidableEq, Repr

/-- Orders of the atomics (09 R165). -/
inductive AmoOrd | rlx | acq | rel | ar
  deriving DecidableEq, Repr

/-- Kinds of RED, CPYR and MLR (09 R168, R182, R184). -/
inductive Comb3 | add | max | min
  deriving DecidableEq, Repr

/-- Kinds of UPDR (09 R169). -/
inductive UpdKind | sgd | mom | adamw
  deriving DecidableEq, Repr

/-! ## Arguments of events -/

/-- A physical core (01 R17). -/
abbrev CoreId := Fin 128
abbrev BerthId := Fin 4
abbrev DieId := Fin 4
abbrev QuadId := Fin 32
abbrev PartId := Fin 32
/-- A physical tile pair, die x 136 + local pair (25 R357). -/
abbrev PairId := Fin 1088

/-- The engine of an LDE or STE step. -/
inductive MemUnit | lde | ste
  deriving DecidableEq, Repr

/-- Whose queue block a launch queue stands in: a partition's or PF0's (19 R291, R294). -/
inductive Block | part (p : PartId) | pf0
  deriving DecidableEq, Repr

/-- Holders of a line's tokens (14 R264): the home holder, or the RDC of a die. -/
inductive Holder | home | rdc (d : DieId)
  deriving DecidableEq, Repr

/-- What another agent answers to one transfer: nothing is needed, data arrive, or it fails
(09 R151, 20 R312, 22 R348). -/
inductive Reply
  | ok | data (bs : List Byte) | xlate | uce (a : W64) | link (d : W64) | absent (m : W64) | notsync | bounds
  deriving DecidableEq, Repr

/-- A resource that passes through the scrub gate (21 R335). -/
inductive Resource | quad (q : QuadId) | l2 (g : Fin 128) | hbm (g : Fin 64) | sync (d : DieId) (k : Fin 64)
  deriving DecidableEq, Repr

/-- Registers of a partition-table entry (21 R328); the masks are written through their twins. -/
inductive PtReg
  | ctl | s2 | quad | l2 (k : Fin 2) | l2m (k : Fin 2) | hbm | sync (d : DieId) | mem | ingb | fab
  deriving DecidableEq, Repr

/-- Registers that the host and firmware reach through the BARs (15 R276, 19 R291, 21 R328, R330, 22 R338 to R343, 25 R357,
R358, 27 R375), MSI-X tables among them; `bar0` names a register by its offset in BAR 0 of a function, and `unassigned` is any other
offset. -/
inductive HostReg
  | qbase (b : Block) (q : Fin 64) | qctl (b : Block) (q : Fin 64) | qstat (b : Block) (q : Fin 64)
  | iqbase (b : Block) | iqctl (b : Block) | iqhead (b : Block)
  | fqbase (b : Block) | fqctl (b : Block) | fqhead (b : Block) | fqovf (b : Block)
  | ctxt (p : PartId) | saveb (p : PartId) | hwin (p : PartId) | mntpol (p : PartId)
  | modid | qpew (q : QuadId) (n : Fin 48) | qpest (q : QuadId) | qplvl (q : QuadId) | qpslk (q : QuadId)
  | bport (n : Fin 48) | mntst (t : PairId) | mntctl
  | mbarg (n : Fin 4) | mbbuf (n : Fin 16384) | veclvl
  | qtail (b : Block) (q : Fin 64) | qhead (b : Block) (q : Fin 64) | gctl (b : Block) | iqtail (b : Block) | fqtail (b : Block)
  | tinv (p : PartId) | rsz (p : PartId) (n : Fin 8) | rszack (p : PartId) | bind (p : PartId) (i : Fin 1024)
  | latency (p : PartId) (c : Fin 128) (slice : Fin 512) | pt (p : PartId) (r : PtReg) | ptAdd (p : PartId) (r : PtReg)
  | ptRel (p : PartId) (r : PtReg) | domctl | domst | dommem | mntstTimes (t : PairId) | mbcmd | mbst | unassigned
  | msix (b : Block) (n : Fin 64) (hi : Bool) | pba (b : Block) | bar0 (b : Block) (off : BitVec 24)
  deriving DecidableEq, Repr

/-- Where an error of storage or of a link shows (27 R372): a DPA, a line of a die's RDC, an 8-byte granule of an LM, a name of a main
file (from 256 on an operand-file register, then LV and LL), a granule of a resident code image, a tile's periphery, the
special-function die, an entry of a die's TLB, of a copy engine's, of a record cache, a die joint, or module flash. -/
inductive ErrAt
  | mem (a : W64) | rdc (d : DieId) (line : Nat) | lm (c : CoreId) (g : Fin 524288) | file (c : CoreId) (n : Fin 266)
  | code (d : DieId) (n g : Nat) | tile (t : PairId) | sfd | dieTlb (d : DieId) (n : Nat) | coreTlb (c : CoreId) (n : Nat)
  | record (d : DieId) (n : Nat) | joint (j : Fin 24) | flash
  deriving DecidableEq, Repr

/-- The operations and events of the part (opcode_table.json), one constructor a row, in the table's order. -/
inductive Instr
  -- control (07 R104 to R118)
  | nop (h : Head) | br (h : Head) (dist : W32) | brc (h : Head) (c : Cond) (a : SSrc) (b : SOp) (dist : W16)
  | bri (h : Head) (a : SSrc) | call (h : Head) (d : SDst) (dist : W32) | ret (h : Head) (a : SSrc)
  | loop (h : Head) (d : SDst) (a : SSrc) (dist : W16)
  | wait (h : Head) | yield (h : Head) | exit (h : Head) | beat (h : Head) | phase (h : Head) (d : SDst)
  | lock (h : Head) | bara (h : Head) (d : SDst) (n : Fin 96) (count : SOp) | barw (h : Head) (n : Fin 96) (ph : SOp)
  | baraw (h : Head) (n : Fin 96) (count : SOp)
  | tokin (h : Head) (k : MbKind) (mb : SOp) | tokout (h : Head) (k : MbKind) (stage mb : SOp)
  | stamp (h : Head) (d : SDst) (off : SOp) | tsr (h : Head) (d e : Fin 64)
  | sleepc (h : Head) (a : SSrc) | sleepp (h : Head) (bo ph : SOp) | waitp (h : Head) (bo ph : SOp)
  | trap (h : Head) (code : W16) | rtt (h : Head) | mfs (h : Head) (d : SDst) (n : MfsName)
  | mts (h : Head) (r : SysReg) (a : SOp) | loc (h : Head) (slice : Bool) (d : SDst) (a : SOp)
  -- fences (07 R119 to R122)
  | fence (h : Head) (sc : Scope) (pre post : BitVec 3) | fsc (h : Head) (sc : Scope) | mark (h : Head)
  | tfence (h : Head) (va : Option SSrc) | rcfence (h : Head) (tid : Option SOp) | icfence (h : Head)
  -- scalar (07 R123)
  | li (h : Head) (d : SDst) (v : W64) | mov (h : Head) (d : SDst) (a : SOp)
  | add (h : Head) (d : SDst) (a : SSrc) (b : SOp) | sub (h : Head) (d : SDst) (a : SSrc) (b : SOp)
  | mul (h : Head) (d : SDst) (a : SSrc) (b : SOp) | mulh (h : Head) (d : SDst) (a : SSrc) (b : SOp)
  | mulhu (h : Head) (d : SDst) (a : SSrc) (b : SOp) | div (h : Head) (d : SDst) (a : SSrc) (b : SOp)
  | divu (h : Head) (d : SDst) (a : SSrc) (b : SOp) | rem (h : Head) (d : SDst) (a : SSrc) (b : SOp)
  | remu (h : Head) (d : SDst) (a : SSrc) (b : SOp) | and (h : Head) (d : SDst) (a : SSrc) (b : SOp)
  | or (h : Head) (d : SDst) (a : SSrc) (b : SOp) | xor (h : Head) (d : SDst) (a : SSrc) (b : SOp)
  | andn (h : Head) (d : SDst) (a : SSrc) (b : SOp) | shl (h : Head) (d : SDst) (a : SSrc) (b : SOp)
  | shr (h : Head) (d : SDst) (a : SSrc) (b : SOp) | sar (h : Head) (d : SDst) (a : SSrc) (b : SOp)
  | rol (h : Head) (d : SDst) (a : SSrc) (b : SOp) | clz (h : Head) (d : SDst) (a : SSrc)
  | ctz (h : Head) (d : SDst) (a : SSrc) | popc (h : Head) (d : SDst) (a : SSrc) | abs (h : Head) (d : SDst) (a : SSrc)
  | min (h : Head) (d : SDst) (a : SSrc) (b : SOp) | max (h : Head) (d : SDst) (a : SSrc) (b : SOp)
  | minu (h : Head) (d : SDst) (a : SSrc) (b : SOp) | maxu (h : Head) (d : SDst) (a : SSrc) (b : SOp)
  | sel (h : Head) (d : SDst) (p : Fin 16) (a : SSrc) (b : SOp)
  | cmp (h : Head) (c : Cond) (d : Fin 16) (a : SSrc) (b : SOp)
  | sext (h : Head) (d : SDst) (a : SSrc) (w : W16) | zext (h : Head) (d : SDst) (a : SSrc) (w : W16)
  | aidx (h : Head) (d : SDst) (a : SSrc) (b : SOp) (k : W16)
  | bfx (h : Head) (d : SDst) (a : SSrc) (pos len : W16)
  | bfi (h : Head) (d : SDst) (a : SSrc) (b : SOp) (pos len : W16)
  -- predicate and FIFO (07 R124, R125)
  | pand (h : Head) (d a b : Fin 16) | por (h : Head) (d a b : Fin 16) | pxor (h : Head) (d a b : Fin 16)
  | pnot (h : Head) (d a : Fin 16) | pmov (h : Head) (d : Fin 16) (a : PredOp)
  | fcnt (h : Head) (d : SDst) (n : FifoName) | fdrop (h : Head) (n : FifoName) | fclr (h : Head) (n : FifoName)
  -- vector arithmetic (08 R132 to R136)
  | vadd (h : Head) (d : VDst) (b : VSrc) (c : VOp) (m : Fin 8) (rm : RM) (sat : Bool)
  | vsub (h : Head) (d : VDst) (b : VSrc) (c : VOp) (m : Fin 8) (rm : RM) (sat : Bool)
  | vmul (h : Head) (d : VDst) (b : VSrc) (c : VOp) (m : Fin 8) (rm : RM) (sat : Bool)
  | vfma (h : Head) (d : VDst) (b : VSrc) (c e : VOp) | vfms (h : Head) (d : VDst) (b : VSrc) (c e : VOp)
  | vnfma (h : Head) (d : VDst) (b : VSrc) (c e : VOp)
  | vmin (h : Head) (d : VDst) (b : VSrc) (c : VOp) (m : Fin 8) | vmax (h : Head) (d : VDst) (b : VSrc) (c : VOp) (m : Fin 8)
  | vabs (h : Head) (d : VDst) (b : VSrc) (m : Fin 8) | vneg (h : Head) (d : VDst) (b : VSrc) (m : Fin 8)
  | vclamp (h : Head) (d : VDst) (b : VSrc) (c e : VOp)
  | vcmp (h : Head) (k : VCond) (d : Fin 8) (b : VSrc) (c : VOp) (m : Fin 8)
  | vsel (h : Head) (d : VDst) (k : Fin 8) (b : VSrc) (c : VOp)
  | vand (h : Head) (d : VDst) (b : VSrc) (c : VOp) (m : Fin 8) | vor (h : Head) (d : VDst) (b : VSrc) (c : VOp) (m : Fin 8)
  | vxor (h : Head) (d : VDst) (b : VSrc) (c : VOp) (m : Fin 8) | vnot (h : Head) (d : VDst) (b : VSrc) (m : Fin 8)
  | vshl (h : Head) (d : VDst) (b : VSrc) (c : VOp) (m : Fin 8) | vshr (h : Head) (d : VDst) (b : VSrc) (c : VOp) (m : Fin 8)
  | vsar (h : Head) (d : VDst) (b : VSrc) (c : VOp) (m : Fin 8) | vmulh (h : Head) (d : VDst) (b : VSrc) (c : VOp) (m : Fin 8)
  | vclz (h : Head) (d : VDst) (b : VSrc) (m : Fin 8) | vpopc (h : Head) (d : VDst) (b : VSrc) (m : Fin 8)
  | vcvt (h : Head) (d : VDst) (b : VSrc) (m : Fin 8) (rm : RM) (ft : Fmt) (draw : Option (SSrc × SSrc))
  | vtag (h : Head) (d : VDst) (b : VSrc) (m : Fin 8) (ft : Fmt) | vround (h : Head) (d : VDst) (b : VSrc) (m : Fin 8) (rm : RM)
  -- packing and blocks (08 R137 to R140)
  | vpack (h : Head) (d : VDst) (b c : VSrc) (m : Fin 8) (rm : RM) (ft : Fmt)
  | vunpkl (h : Head) (d : VDst) (b : VSrc) (m : Fin 8) (rm : RM) | vunpkh (h : Head) (d : VDst) (b : VSrc) (m : Fin 8) (rm : RM)
  | vblks (h : Head) (d : VDst) (b : VSrc) (c : Option VSrc) (rm : RM) (ft : Fmt) (q : Fin 8)
  | vblkg (h : Head) (d : VDst) (b : VSrc) (m : Fin 8) (rm : RM) (ft : Fmt) (q : Fin 8)
  | vacc12 (h : Head) (d : VDst) (a : VSrc) (x : VOp) (sg sp : SSrc)
  -- dot products (08 R141)
  | vdot2 (h : Head) (d : VDst) (a b : VSrc) (c : VOp) | vdot4 (h : Head) (d : VDst) (a b : VSrc) (c : VOp)
  | vdot8 (h : Head) (d : VDst) (a b : VSrc) (c : VOp)
  -- shape (08 R142, R143)
  | vrotr (h : Head) (d : VDst) (b : VSrc) (k : SOp) (m : Fin 8) | vrotc (h : Head) (d : VDst) (b : VSrc) (k : SOp) (m : Fin 8)
  | vbcr (h : Head) (d : VDst) (b : VSrc) (k : SOp) (m : Fin 8) | vbcc (h : Head) (d : VDst) (b : VSrc) (k : SOp) (m : Fin 8)
  | vredr (h : Head) (d : VDst) (b : VSrc) (m : Fin 8) (rm : RM) (k : RedKind)
  | vredc (h : Head) (d : VDst) (b : VSrc) (m : Fin 8) (rm : RM) (k : RedKind)
  | vscanr (h : Head) (d : VDst) (b : VSrc) (m : Fin 8) (rm : RM) (k : RedKind)
  | vscanc (h : Head) (d : VDst) (b : VSrc) (m : Fin 8) (rm : RM) (k : RedKind)
  | vshfr (h : Head) (d : VDst) (b x : VSrc) (m : Fin 8) | vtrb (h : Head) (d : VDst) (b : VSrc) (m : Fin 8)
  | viota (h : Head) (d : VDst) (st sd : SOp) (m : Fin 8) (ft : Fmt) | vmov (h : Head) (d : VDst) (b : VSrc)
  -- exchange, draws, masks (08 R144 to R147)
  | vsplat (h : Head) (d : VDst) (a : SOp) (m : Fin 8) (ft : Fmt)
  | vext (h : Head) (d : Fin 64) (b : VSrc) (e : SOp) (sx : Bool) | vins (h : Head) (d : VDst) (b : VSrc) (a : SSrc) (e : SOp)
  | vrng (h : Head) (d : VDst) (sg sp : SSrc) (m : Fin 8) (k : DrawKind)
  | vdrop (h : Head) (d : VDst) (b : VSrc) (sg sp : SSrc) (kt : W16)
  | mand (h : Head) (d a b : Fin 8) | mor (h : Head) (d a b : Fin 8) | mxor (h : Head) (d a b : Fin 8)
  | mnot (h : Head) (d a : Fin 8) | mcnt (h : Head) (d : Fin 64) (a : Fin 8) | mfirst (h : Head) (d : Fin 64) (a : Fin 8)
  -- load and store (09 R157)
  | ldv (h : Head) (d : VDst) (tid : Ref) (off : SOp) (rep : Rep) | stv (h : Head) (v : VSrc) (tid : Ref) (off : SOp) (rep : Rep)
  | ldvt (h : Head) (d : VDst) (tid : Ref) (sc : SSrc) (tr : Bool)
  | ldvg (h : Head) (d : VDst) (tid : Ref) (vi : VSrc) (col : SOp) | stvs (h : Head) (v : VSrc) (tid : Ref) (vi : VSrc) (col : SOp)
  | ldsc (h : Head) (d : Fin 64) (tid : Ref) (off : SOp) (sz : Size) (sx : Bool) (rep : Rep)
  | stsc (h : Head) (a : SSrc) (tid : Ref) (off : SOp) (sz : Size)
  | lda (h : Head) (d : Fin 64) (tid : Ref) (off : SOp) (dbl : Bool) (sc : Scope)
  | stl (h : Head) (a : SSrc) (tid : Ref) (off : SOp) (dbl : Bool) (sc : Scope)
  | ldm (h : Head) (d : Fin 8) (tid : Ref) (off : SOp) (rep : Rep) | stm (h : Head) (a : Fin 8) (tid : Ref) (off : SOp) (rep : Rep)
  -- atomics and near-memory (09 R165 to R169)
  | amo (h : Head) (d : Fin 64) (a : SSrc) (b : SOp) (c : Option SOp) (op : AmoOp) (dbl : Bool) (ord : AmoOrd) (sc : Scope)
  | famo (h : Head) (d : Fin 64) (a : SSrc) (b : SOp) (st : SSrc) (op : AmoOp) (dbl : Bool) (ord : AmoOrd) (sc : Scope)
  | amor (h : Head) (d : Fin 64) (a : SSrc) (b : SOp) (c : Option SOp) (op : AmoOp) (dbl : Bool) (sc : Scope)
  | red (h : Head) (v : VSrc) (tid : Ref) (off : SOp) (k : Comb3)
  | updr (h : Head) (v : VSrc) (tid : Ref) (sr : SSrc) (k : UpdKind)
  -- barrier objects (09 R172)
  | boarm (h : Head) (bo : Ref) (n : SOp) | boclr (h : Head) (bo : Ref) | bord (h : Head) (d : Fin 64) (bo : Ref) (w : Fin 4)
  -- copy and fabric (09 R179)
  | cpy (h : Head) (bo : Ref) (dst src : Lw) (rep : Rep) | cpym (h : Head) (bo : Ref) (dst src : Lw) (m : SSrc)
  | cpyr (h : Head) (bo : Ref) (dst src : Lw) (k : Comb3) | cpyd (h : Head) (bo : Ref) (dst src : Lw) (dig : SOp)
  | mlr (h : Head) (bo : Ref) (dst src : Lw) (k : Comb3) | mst (h : Head) (bo : Ref) (dst src : Lw) (m : SSrc)
  | rls (h : Head) (bo : Ref) (ch : SSrc) (val : SOp) | acqw (h : Head) (bo : Ref) (flag val : SOp)
  | agset (h : Head) (bo : Ref) (grp rec : SOp)
  -- array (10 R202)
  | xfwd (h : Head) (t : TileRef) (cb : SSrc) (x : VLm) (rep : Rep) | xfwdb (h : Head) (t : TileRef) (cb : SSrc) (x : VLm)
  | xbwd (h : Head) (t : TileRef) (cb : SSrc) (x : VLm) (rep : Rep) | xupd (h : Head) (t : TileRef) (cb : SSrc) (x d : VLm)
  | xxfr (h : Head) (t : TileRef) (cb : SSrc) | xtopk (h : Head) (t : TileRef) (cb : SSrc) (x : VLm)
  | xdist (h : Head) (t : TileRef) (cb : SSrc) (x : VLm) | xsym (h : Head) (t : TileRef) (cb : SSrc)
  | xckr (h : Head) (t : TileRef) (cb : SSrc) | xprg (h : Head) (t : TileRef) (cb : SSrc)
  | xscrb (h : Head) (t : TileRef) (cb : SSrc) | xcal (h : Head) (t : TileRef) (cb : SSrc)
  | xnorm (h : Head) (t : TileRef) (cb : SSrc) | xwset (h : Head) (w : Fin 8) (a : SOp)
  | xgset (h : Head) (t : TileRef) (cb : SSrc)
  | xfenceDrain (h : Head) (t : TileRef) (bo : SOp) (all : Bool) | xfenceHold (h : Head) (t : TileRef) (bo : SOp) (all : Bool)
  | xfenceRel (h : Head) (t : TileRef) (bo : SOp) (all : Bool) | xstat (h : Head) (t : TileRef) (cb : SSrc)
  -- special function (10 R213)
  | fexp (h : Head) (bo : Ref) (cb : SSrc) (acc : Bool) (rep : Rep) | fexp2 (h : Head) (bo : Ref) (cb : SSrc) (acc : Bool) (rep : Rep)
  | flog (h : Head) (bo : Ref) (cb : SSrc) (acc : Bool) (rep : Rep) | flog2 (h : Head) (bo : Ref) (cb : SSrc) (acc : Bool) (rep : Rep)
  | frcp (h : Head) (bo : Ref) (cb : SSrc) (acc : Bool) (rep : Rep) | frsq (h : Head) (bo : Ref) (cb : SSrc) (acc : Bool) (rep : Rep)
  | fsqrt (h : Head) (bo : Ref) (cb : SSrc) (acc : Bool) (rep : Rep) | ftanh (h : Head) (bo : Ref) (cb : SSrc) (acc : Bool) (rep : Rep)
  | fsig (h : Head) (bo : Ref) (cb : SSrc) (acc : Bool) (rep : Rep) | fgelu (h : Head) (bo : Ref) (cb : SSrc) (acc : Bool) (rep : Rep)
  | fsilu (h : Head) (bo : Ref) (cb : SSrc) (acc : Bool) (rep : Rep) | fsin (h : Head) (bo : Ref) (cb : SSrc) (acc : Bool) (rep : Rep)
  | fcos (h : Head) (bo : Ref) (cb : SSrc) (acc : Bool) (rep : Rep) | ferf (h : Head) (bo : Ref) (cb : SSrc) (acc : Bool) (rep : Rep)
  | fsmax (h : Head) (bo : Ref) (cb : SSrc) (acc : Bool) (rep : Rep)
  -- privileged (20 R321)
  | halt (h : Head) | snap (h : Head) (a : SSrc) | rstr (h : Head) (a : SSrc) | mtsp (h : Head) (r : PrivName) (a : SOp)
  | mfsp (h : Head) (d : SDst) (r : PrivName) | idle (h : Head)
  -- events of the sequencer and of waits (06 R83, 07 R103 to R115, 02 R24)
  | stallExpiry (c : CoreId) (b : BerthId) | berthSwitch (c : CoreId) | waitWake (c : CoreId) (b : BerthId)
  | sleepcWake (c : CoreId) (b : BerthId) | sleeppWake (c : CoreId) (b : BerthId) | waitpWake (c : CoreId) (b : BerthId)
  | barrierWake (c : CoreId) (b : BerthId) | barrierWaitTimeout (c : CoreId) (b : BerthId)
  | tokinWake (c : CoreId) (b : BerthId) | tokoutWake (c : CoreId) (b : BerthId) | tokenInboxRoom (c : CoreId)
  | idleWake (c : CoreId) | droopAlarm (q : QuadId) | stretchEnd (q : QuadId) | halfRateWindowEnd (q : QuadId)
  -- events of the core's engines (02 R22, 06 R84, 09 R150 to R178)
  | resultWriteback (c : CoreId) | enginePushResume (c : CoreId) | vxeEntryStart (c : CoreId) | ldeEntryStart (c : CoreId)
  | steEntryStart (c : CoreId) | memoryTransferPerformed (c : CoreId) (u : MemUnit) (r : Reply)
  | engineEntryComplete (c : CoreId) | deferredTrapTaken (c : CoreId) (b : BerthId)
  | copyAccept (c : CoreId) (absent : W64) | copyUnitPerformed (c : CoreId) (k : Fin 8) (r : Reply)
  | objectCount (c : CoreId)
  -- events of the array and special-function dies (05 R61 to R76, 10 R194 to R220)
  | bargeSend (c : CoreId) (sf : Bool) | operandLatched (t : PairId) | gateFlipSeen (t : PairId) | bargeIssue (t : PairId)
  | stampWindowExpiry (t : PairId) | arrCeilingAdmit (t : PairId) | arrayCommandComplete (t : PairId) (fail : Bool)
  | sfBargeStart | sfTransferComplete (k : Nat) (fail : Bool) | dieJointFailure (j : Fin 24)
  -- lock and named barriers (12 R225 to R229)
  | lockArrivalCount (c : CoreId) | lockReportReceived (l : Nat) (m : BitVec 6 × Bool) (d : DieId)
  | trelReceived (l : Nat) (d : DieId) (trel : Option W64)
  | lockRelease (l : Nat) | barrierReleaseMessage (l : Nat) (d : DieId) (n : Fin 96)
  -- power (15 R272 to R284, 27 R382)
  | estimatorWindow (q : QuadId) | intervalBoundary | thermalCeiling (d : Fin 13) | vecStepChange (up : Bool) | clockStopEnd
  | thermalTrip (d : Fin 13) | quadPowerGate (q : QuadId) | wakeRequest (q : QuadId) | wakeHoldExpiry (q : QuadId)
  | inrushAdmit (d : DieId) | railsStable (q : QuadId)
  -- token coherence (14 R264 to R266)
  | transientRequest (d : DieId) (line : Nat) (wr : Bool) | tokenMessageReceived (k : Nat)
  | requestResendTimeout (d : DieId) (line : Nat) | persistentActivation (at_ d : DieId) (line : Nat) (wr : Bool)
  | persistentDeactivation (at_ d : DieId) (line : Nat) | lineEviction (h : Holder) (line : Nat)
  -- fabric (09 R186, R187, 22 R345)
  | rlsMessageReceived (p : PartId) (g : Fin 64) (rank : Fin 64) (scnt sseq : W32) (flag : BitVec 12) (val : W64)
  | rlsAckReceived (p : PartId) (g : Fin 64) (rank : Fin 64) (sseq : W32)
  | fabricWriteReceived (p : PartId) (g : Fin 64) (rank : Fin 64) (num : W32) (ppa : Bool) (va : W64)
    (bs : List Byte) (comb : Option (Comb3 × Fmt)) (obj : Option (Byte × Option (Fin 4096)) × Option (Byte × W64))
  | fabricResend (p : PartId) (g : Fin 64) (rank : Fin 64) | agsetInstall (c : CoreId)
  -- launches (19)
  | qtailWrite (b : Block) (q : Fin 64) (v : W16) | slotRead (b : Block) (q : Fin 64) | dependenceTest (l : Nat)
  | turnGrant (p : PartId) | placement (p : PartId) | copyLaunch (l : Nat) | loadingComplete (l : Nat)
  | startingLockRelease (l : Nat) | completionWrite (l : Nat) | watchdogTest | preemptionRequest (l : Nat)
  | imageWritten (l : Nat) | gangResume (l : Nat) | gctlResume (b : Block) (q : Fin 64) (seq : W16)
  | gctlDiscard (b : Block) (q : Fin 64) (seq : W16) | prepare (l : Nat) (gid : W32) (tlim : W64) (gang : Nat) (heat : Nat)
  | prepareReply (l : Nat) (rank : Fin 64) (ack : Option (BitVec 4)) | commit (gid : W32) (tc : W64) | abort (gid : W32)
  | tlimExpiry (l : Nat) | gangBarrierTimeout (l : Nat)
  -- partitions and translation (21)
  | partitionTableWrite (p : PartId) (r : PtReg) (v : W64) | addTwinWrite (p : PartId) (r : PtReg) (v : W64)
  | relTwinWrite (p : PartId) (r : PtReg) (v : W64) (deadline : W64) | rszackWrite (p : PartId) (rid : W16)
  | resizeDeadline (p : PartId) | scrubGateDone (x : Resource) (fails : W32) | tinvWrite (p : PartId) (v : W64)
  | tinvComplete (p : PartId) | pageWalkComplete (d : DieId) (p : PartId) (ctx : Byte) (va : W64)
  | bindUnbind (p : PartId) (idx : Fin 1024)
  -- host port (22 R337 to R340)
  | flr (p : PartId) | flrReady (p : PartId) | hostWindowRead (p : PartId) (off : BitVec 36) (n : Fin 4097)
  | hostWindowWrite (p : PartId) (off : BitVec 36) (bs : List Byte) | hostCompletion (c : CoreId) (u : MemUnit) (r : Reply)
  -- domain and Bluvy (22 R341 to R345)
  | domainJoin | domainLeave | offsetMeasure (off : Byte) | pllLockLoss | bportEnableWrite (n : Fin 48) (en : Bool)
  | linkTrained (n : Fin 48) (peer : BitVec 6) | trainingTimeout (n : Fin 48) | linkError (n : Fin 48)
  | retrainResult (n : Fin 48) (ok : Bool) | downRetry (n : Fin 48) | flitReplay (n : Fin 48)
  | portStateFlit (m : BitVec 6) (ups : BitVec 49)
  -- maintenance and health (25, 27)
  | maintenanceDue (t : PairId) (sym : Bool) | wornSet (t : PairId) | healthRecordAppend
  | patrolScrub (a : ErrAt) (bad : Bool)
  | readhealth | readtotals | readcert | quote | signman | install | remap | loadfw | mailboxBadOp (op : Byte) | mailboxDone
  | moduleReset | bootVerify | perstRelease | powerLoss | registerWrite (r : HostReg) (v : W64) | rcRegisterRead (r : HostReg)
  | fabricRequestReceived (p : PartId) (grp : Option (Fin 64)) (va : W64) (n : Fin 129) (op : Option (AmoOp × Bool × W64 × W64)) (from_ : BitVec 6)
  | dieJointRetrained (j : Fin 24) | fabricPllLock | timeExchange (off : W64) | junctionTemperatureSample (t : List Byte)
  | doeRequest (req : List Byte)
  deriving DecidableEq, Repr

end Sys2Proof
end

