-- ==== Sys2Proof/Config.lean ====
section
/-! DEFINITION. What one part fixes and the spec does not give: constants without a body, of which no proof can see
the value. -/

namespace Sys2Proof.Config

open Sys2Proof

/-- The n-th free value: what the spec leaves open and the machine goes on (log 8). The step reads `State.free` and
advances it. -/
opaque free : Nat → W64

/-! ## Signed configuration records (02 R25, 15 R272 to R276, 25 R359, 27 R380; log 4)

A function here reads a field of a record's bytes, whose layout the spec does not give. -/

/-- The record of each kind that the module is delivered with. -/
opaque delivered : Fin 6 → List Byte
/-- KIND and SEQ. -/
opaque recKind : List Byte → Nat
opaque recSeq : List Byte → W32
/-- The certificate hash names another module. -/
opaque recForeign : List Byte → Bool
opaque recMagic : List Byte → W32
/-- Kind 1: the module ceiling in mW, and the rest. -/
opaque moduleCeil : List Byte → Nat
opaque qsigWeight : List Byte → Fin 48 → W16
opaque fixedTerms : List Byte → W32
opaque qceil : List Byte → W32
/-- Kind 3: bounds of DRPTH.THR and its first value, and the VEC range in steps of 100 MHz. -/
opaque thrFloor : List Byte → Byte
opaque thrCeil : List Byte → Byte
opaque thrInit : List Byte → Byte
opaque vecLow : List Byte → Nat
opaque vecHigh : List Byte → Nat
/-- Kind 4: WLIM. -/
opaque wearLimit : List Byte → W64
/-- Kind 2: the code of a drift gain that a reading of the reference cells gives. -/
opaque driftGain : List Byte → W64 → W16
/-- Kind 6. -/
opaque qpewInit : List Byte → Fin 48 → W16
opaque minVersion : W32
/-- What authenticates a minimum security version under a key of this part's PUF (27 R377). -/
opaque minTag : W32 → List Byte

/-! ## Values fixed on a part (log 9) -/

/-- Where on its range of 141 ticks a latency-table entry of a core and a slice lies (13 R244). -/
opaque latency : CoreId → Nat → Nat

/-- The sum of products of VDOT as the part forms it, a fixed function of the inputs in their lane (04 R54): lane,
count of products, tags, accumulator, then code, scale and clove of each product's two elements. It is used only where
it lies within the bound. -/
opaque dot : List Nat → W32

/-- The tag that TVAL of a TAGX at issue reports for a destination (20 R305; log 54), by the number of the word. -/
opaque destTag : Nat → BitVec 4

/-- Whether an intermediate rounding of that sum discarded a nonzero bit, asked only where the result is exact. -/
opaque dotNx : List Nat → Bool

/-- A reading of an array in units of 1/512 of full scale, before the ADC clips it (05 R63, R77): of the conductances
of that name, in the read of that number, on that line. -/
opaque analog : Nat → Nat → Nat → Int

/-- The name of the conductances that a program's pulses leave (05 R71, R73): under the step model of a calibration record, of those
of a name, by the steps that each cell takes, upward where positive, and a free value. -/
opaque pulsed : List Byte → Nat → List (Nat × Int) → Nat → Nat

/-- A special function's result bits: opcode, accurate grade, source and destination formats, and the row and the
element's place in it (10 R217). -/
opaque special : Fin 15 → Bool → Fmt → Fmt → List W32 → Nat → W32

/-- Bytes of a section of a context image whose layout is not given: section offset, and number of the image
(20 R317; log 21). -/
opaque imageBytes : Nat → Nat → List Byte

/-- Word n of the fields that the bytes of a header or of a tag area give, and the tag of such a word (20 R317; log 21). -/
opaque headerField : List (Nat × Byte) → Nat → W64
opaque headerTag : W64 → BitVec 4

/-- Entries of queue n in the bytes of a queue section: word, captured values, and vector operands with their tags (20 R317; log 21). -/
opaque queueEntries : List (Nat × Byte) → Nat → List (BitVec 128 × List W64 × List (BitVec 4 × List Byte))

/-- Word number at which a berth above 0 starts: CODE of the launch, and the berth (06 R98, 12 R225; log 22). -/
opaque berthEntry : W64 → Nat → Nat

/-! ## Keys, certificates, flash and the mailbox (25 R360, 27 R374 to R380; log 10)

Layouts that the spec does not give are functions here too. -/

opaque certificate : List Byte
/-- A signature by the identity key: r and s, 64 bytes. -/
opaque sign : List Byte → Vector Byte 64
/-- A signature check of a configuration record under the key that its kind asks for. -/
opaque verify : List Byte → Bool
/-- Bytes of a configuration record that a buffer begins with. -/
opaque recLength : List Byte → Nat
/-- Remap entries of a record, and the record of given entries and SEQ: worn pair and spare. -/
opaque recRemaps : List Byte → List (PairId × PairId)
opaque remapRecord : W32 → List (PairId × PairId) → List Byte
/-- Die, worn and spare local pair of a REMAP's ARG0. -/
opaque remapFields : W64 → Fin 8 × Fin 136 × Fin 136
/-- The boot ROM's check of an image's bytes, its security version, the minimum it sets, and its signed part. -/
opaque fwPasses : List (Nat × Byte) → Bool
opaque fwVersion : List (Nat × Byte) → W32
opaque fwMinimum : List (Nat × Byte) → W32
opaque fwBody : List (Nat × Byte) → List Byte
/-- M0, the measurement of the boot ROM. -/
opaque romMeasure : List Byte
/-- Bytes 4 to 63 of an hourly record: hour, CYC at close, firmware version and trips. -/
opaque hourHeader : W64 → W64 → W32 → Nat → List Byte
/-- The bytes of a totals slot that holds given counts. -/
opaque totalsSlot : List Nat → List Byte
/-- What the security block answers to a DOE request, given the measurements. -/
opaque doe : List Byte → List (List Byte) → List Byte

end Sys2Proof.Config
end

