-- ==== Sys2Proof/WellFormed.lean ====
section
/-! DEFINITION. Which instructions the 128-bit word can hold: what the types of `Syntax` leave to check
(spec 06 R84, R87, R90, R93 order 1, and the limits that each form's own rule gives on its encoding). -/

namespace Sys2Proof

/-- Which engine's neighbours the token bits PB and PA of a word name (06 R84). -/
inductive Cls | vxe | lde | ste | other
  deriving DecidableEq, Repr

/-- PB or PA is allowed for the word's engine (06 R84). -/
def Cls.tokOk : Cls → BitVec 2 → Bool
  | .vxe, _ => true
  | .lde, t => !bit t 0
  | .ste, t => !bit t 1
  | .other, t => decide (t = 0)

/-- The token bits of a header are allowed. -/
def Head.ok (h : Head) (c : Cls) : Bool := c.tokOk h.pb && c.tokOk h.pa

/-- A rounding mode other than SR. -/
def RM.det (r : RM) : Bool := decide (r ≠ .sr)

/-- An immediate operand below a limit; a register operand is checked when the word runs (07 R102). -/
def SOp.below (n : Nat) : SOp → Bool
  | .src _ => true
  | .imm v => decide (v.toNat < n)

/-- A vector source that stores whole entries (09 R157). -/
def VSrc.plain (v : VSrc) : Bool := decide (v.part = .whole) && !v.swp

/-- A location word whose immediate KIND is assigned (09 R175, 07 R102). -/
def Lw.ok : Lw → Bool
  | .src _ => true
  | .imm v => decide (fld v 13 12 ≠ 3)

/-- Field position and length of BFX and BFI (07 R123). -/
def fieldOk (pos len : W16) : Bool :=
  decide (pos.toNat ≤ 63 ∧ 1 ≤ len.toNat ∧ len.toNat ≤ 64 ∧ pos.toNat + len.toNat ≤ 64)

/-- Integer tags that VIOTA accepts (08 R142). -/
def Fmt.isInteger : Fmt → Bool
  | .int32 | .int16 | .int8 | .int4 | .uint8 => true
  | _ => false

/-- Block formats, the targets of VBLKS (08 R139). -/
def Fmt.isBlk : Fmt → Bool
  | .e4m3 | .e5m2 | .e2m1s => true
  | _ => false

/-- Targets of VBLKG (08 R139). -/
def Fmt.isBlkGet : Fmt → Bool
  | .fp32 | .bf16 | .fp16 => true
  | _ => false

/-- Targets of VCVT (08 R136). -/
def Fmt.isCvt : Fmt → Bool
  | .e2m1s | .none => false
  | _ => true

/-- Targets of VPACK: the narrow column of 08 R137 where a wide-to-narrow conversion exists. -/
def Fmt.isPack : Fmt → Bool
  | .bf16 | .fp16 | .e4m3 | .e5m2 | .int16 | .int8 | .uint8 | .int4 => true
  | _ => false

/-- The bitwise reduction kinds (08 R142). -/
def RedKind.bitwise : RedKind → Bool
  | .and | .or | .xor => true
  | _ => false

/-- Scopes that FAMO accepts (09 R165). -/
def Scope.fabric : Scope → Bool
  | .dom | .sys => true
  | _ => false

/-- Operation, size and compare operand of an atomic agree (09 R165, R166). -/
def amoOk (c : Bool) (op : AmoOp) (dbl : Bool) : Bool :=
  decide (c = decide (op = .cas)) && !(decide (op = .fadd) && dbl)

/-- A repeat of XFWD or XBWD needs LM input (10 R202). -/
def repLm (x : VLm) : Rep → Bool
  | .imm n => decide (x = .lm) || decide (n = 0)
  | .src _ => true

/-- XFENCE with ALL set has #0 in slot B, and an immediate object is in range (10 R212). -/
def xfenceOk (t : TileRef) (bo : SOp) (all : Bool) : Bool :=
  (!all || decide (t = .imm 0)) && bo.below 4096

/-- The instruction can stand in a word. Event constructors have no encoding and are not well formed. -/
def Instr.wf : Instr → Bool
  | .nop h | .br h _ | .brc h _ _ _ _ | .bri h _ | .call h _ _ | .ret h _ | .loop h _ _ _ | .wait h | .yield h
  | .exit h | .beat h | .phase h _ | .lock h | .bara h _ _ _ | .barw h _ _ | .baraw h _ _ | .tokin h _ _
  | .tokout h _ _ _ | .stamp h _ _ | .sleepc h _ | .trap h _ | .rtt h | .mfs h _ _ | .mts h _ _ | .loc h _ _ _
  | .fsc h _ | .mark h | .tfence h _ | .icfence h => h.ok .other
  | .tsr h d e => h.ok .other && decide (d ≠ e)
  | .sleepp h bo _ | .waitp h bo _ => h.ok .other && bo.below 4096
  | .fence h _ pre post => h.ok .other && decide (pre ≠ 0) && decide (post ≠ 0)
  | .rcfence h tid => h.ok .other && (match tid with | some t => t.below 4096 | none => true)
  | .li h _ _ | .mov h _ _ | .add h _ _ _ | .sub h _ _ _ | .mul h _ _ _ | .mulh h _ _ _ | .mulhu h _ _ _
  | .div h _ _ _ | .divu h _ _ _ | .rem h _ _ _ | .remu h _ _ _ | .and h _ _ _ | .or h _ _ _ | .xor h _ _ _
  | .andn h _ _ _ | .shl h _ _ _ | .shr h _ _ _ | .sar h _ _ _ | .rol h _ _ _ | .clz h _ _ | .ctz h _ _
  | .popc h _ _ | .abs h _ _ | .min h _ _ _ | .max h _ _ _ | .minu h _ _ _ | .maxu h _ _ _ | .sel h _ _ _ _
  | .cmp h _ _ _ _ => h.ok .other
  | .sext h _ _ w | .zext h _ _ w => h.ok .other && decide (1 ≤ w.toNat ∧ w.toNat ≤ 64)
  | .aidx h _ _ _ k => h.ok .other && decide (k.toNat ≤ 7)
  | .bfx h _ _ pos len => h.ok .other && fieldOk pos len
  | .bfi h _ _ _ pos len => h.ok .other && fieldOk pos len
  | .pand h _ _ _ | .por h _ _ _ | .pxor h _ _ _ | .pnot h _ _ | .pmov h _ _ | .fcnt h _ _ | .fdrop h _
  | .fclr h _ => h.ok .other
  | .vadd h _ _ _ _ rm _ | .vsub h _ _ _ _ rm _ | .vmul h _ _ _ _ rm _ => h.ok .vxe && rm.det
  | .vfma h _ _ _ _ | .vfms h _ _ _ _ | .vnfma h _ _ _ _ | .vmin h _ _ _ _ | .vmax h _ _ _ _ | .vabs h _ _ _
  | .vneg h _ _ _ | .vclamp h _ _ _ _ | .vcmp h _ _ _ _ _ | .vsel h _ _ _ _ | .vand h _ _ _ _ | .vor h _ _ _ _
  | .vxor h _ _ _ _ | .vnot h _ _ _ | .vshl h _ _ _ _ | .vshr h _ _ _ _ | .vsar h _ _ _ _ | .vmulh h _ _ _ _
  | .vclz h _ _ _ | .vpopc h _ _ _ | .vtag h _ _ _ _ | .vacc12 h _ _ _ _ _ | .vdot2 h _ _ _ _ | .vdot4 h _ _ _ _
  | .vdot8 h _ _ _ _ | .vrotr h _ _ _ _ | .vrotc h _ _ _ _ | .vshfr h _ _ _ _ | .vtrb h _ _ _ | .vmov h _ _
  | .vext h _ _ _ _ | .vins h _ _ _ _ | .vrng h _ _ _ _ _ | .vdrop h _ _ _ _ _ | .mand h _ _ _ | .mor h _ _ _
  | .mxor h _ _ _ | .mnot h _ _ | .mcnt h _ _ | .mfirst h _ _ => h.ok .vxe
  | .vround h _ _ _ rm | .vunpkl h _ _ _ rm | .vunpkh h _ _ _ rm => h.ok .vxe && rm.det
  | .vcvt h _ _ _ rm ft draw => h.ok .vxe && ft.isCvt && decide (draw.isSome = decide (rm = .sr))
  | .vpack h _ _ _ _ rm ft => h.ok .vxe && rm.det && ft.isPack
  | .vblks h _ _ _ rm ft _ => h.ok .vxe && rm.det && ft.isBlk
  | .vblkg h _ _ _ rm ft _ => h.ok .vxe && rm.det && ft.isBlkGet
  | .vbcr h _ _ k _ => h.ok .vxe && k.below 64
  | .vbcc h _ _ k _ => h.ok .vxe && k.below 16
  | .vredr h _ _ _ rm k | .vredc h _ _ _ rm k => h.ok .vxe && rm.det && (!k.bitwise || decide (rm = .rne))
  | .vscanr h _ _ _ rm k | .vscanc h _ _ _ rm k => h.ok .vxe && rm.det && !k.bitwise
  | .viota h _ _ _ _ ft => h.ok .vxe && ft.isInteger
  | .vsplat h _ _ _ ft => h.ok .vxe && decide (ft ≠ .none)
  | .ldv h _ _ _ _ | .ldvt h _ _ _ _ | .ldvg h _ _ _ _ | .ldsc h _ _ _ _ _ _ | .lda h _ _ _ _ _
  | .ldm h _ _ _ _ | .bord h _ _ _ => h.ok .lde
  | .stv h v _ _ _ | .stvs h v _ _ _ | .red h v _ _ _ | .updr h v _ _ _ => h.ok .ste && v.plain
  | .stsc h _ _ _ _ | .stl h _ _ _ _ _ | .stm h _ _ _ _ | .boclr h _ => h.ok .ste
  | .boarm h _ n => h.ok .ste && (match n with | .src _ => true | .imm v => decide (1 ≤ v.toNat ∧ v.toNat < 32768))
  | .amo h _ _ _ c op dbl _ _ | .amor h _ _ _ c op dbl _ => h.ok .lde && amoOk c.isSome op dbl
  | .famo h _ _ _ _ op dbl _ sc => h.ok .lde && amoOk false op dbl && sc.fabric
  | .cpy h _ dst src _ | .cpym h _ dst src _ | .cpyr h _ dst src _ | .cpyd h _ dst src _ | .mlr h _ dst src _
  | .mst h _ dst src _ => h.ok .other && dst.ok && src.ok
  | .rls h _ _ _ | .acqw h _ _ _ => h.ok .other
  | .agset h _ grp _ => h.ok .other && grp.below 64
  | .xfwd h _ _ x rep | .xbwd h _ _ x rep => h.ok .other && repLm x rep
  | .xfwdb h _ _ _ | .xupd h _ _ _ _ | .xxfr h _ _ | .xtopk h _ _ _ | .xdist h _ _ _ | .xsym h _ _ | .xckr h _ _
  | .xprg h _ _ | .xscrb h _ _ | .xcal h _ _ | .xnorm h _ _ | .xgset h _ _ | .xstat h _ _ => h.ok .other
  | .xwset h _ _ => h.ok .other
  | .xfenceDrain h t bo all | .xfenceHold h t bo all | .xfenceRel h t bo all => h.ok .other && xfenceOk t bo all
  | .fexp h _ _ _ _ | .fexp2 h _ _ _ _ | .flog h _ _ _ _ | .flog2 h _ _ _ _ | .frcp h _ _ _ _ | .frsq h _ _ _ _
  | .fsqrt h _ _ _ _ | .ftanh h _ _ _ _ | .fsig h _ _ _ _ | .fgelu h _ _ _ _ | .fsilu h _ _ _ _ | .fsin h _ _ _ _
  | .fcos h _ _ _ _ | .ferf h _ _ _ _ | .fsmax h _ _ _ _ => h.ok .other
  | .halt h | .snap h _ | .rstr h _ | .mtsp h _ _ | .mfsp h _ _ | .idle h => h.ok .other
  | .stallExpiry .. | .berthSwitch .. | .waitWake .. | .sleepcWake .. | .sleeppWake .. | .waitpWake ..
  | .barrierWake .. | .barrierWaitTimeout .. | .tokinWake .. | .tokoutWake .. | .tokenInboxRoom .. | .idleWake ..
  | .droopAlarm .. | .stretchEnd .. | .halfRateWindowEnd .. | .resultWriteback .. | .enginePushResume ..
  | .vxeEntryStart .. | .ldeEntryStart .. | .steEntryStart .. | .memoryTransferPerformed ..
  | .engineEntryComplete .. | .deferredTrapTaken .. | .copyAccept .. | .copyUnitPerformed .. | .objectCount ..
  | .bargeSend .. | .operandLatched .. | .gateFlipSeen .. | .bargeIssue .. | .stampWindowExpiry ..
  | .arrCeilingAdmit .. | .arrayCommandComplete .. | .sfBargeStart | .sfTransferComplete .. | .dieJointFailure ..
  | .lockArrivalCount .. | .lockReportReceived .. | .trelReceived .. | .lockRelease .. | .barrierReleaseMessage ..
  | .estimatorWindow .. | .intervalBoundary | .thermalCeiling .. | .vecStepChange .. | .clockStopEnd
  | .thermalTrip .. | .quadPowerGate .. | .wakeRequest .. | .wakeHoldExpiry .. | .inrushAdmit .. | .railsStable ..
  | .transientRequest .. | .tokenMessageReceived .. | .requestResendTimeout .. | .persistentActivation ..
  | .persistentDeactivation .. | .lineEviction .. | .rlsMessageReceived .. | .rlsAckReceived ..
  | .fabricWriteReceived .. | .fabricResend .. | .agsetInstall .. | .qtailWrite .. | .slotRead ..
  | .dependenceTest .. | .turnGrant .. | .placement .. | .copyLaunch .. | .loadingComplete ..
  | .startingLockRelease .. | .completionWrite .. | .watchdogTest | .preemptionRequest .. | .imageWritten ..
  | .gangResume .. | .gctlResume .. | .gctlDiscard .. | .prepare .. | .prepareReply .. | .commit .. | .abort ..
  | .tlimExpiry .. | .gangBarrierTimeout .. | .partitionTableWrite .. | .addTwinWrite .. | .relTwinWrite ..
  | .rszackWrite .. | .resizeDeadline .. | .scrubGateDone .. | .tinvWrite .. | .tinvComplete ..
  | .pageWalkComplete .. | .bindUnbind .. | .flr .. | .flrReady .. | .hostWindowRead .. | .hostWindowWrite ..
  | .hostCompletion .. | .domainJoin | .domainLeave | .offsetMeasure .. | .pllLockLoss | .bportEnableWrite ..
  | .linkTrained .. | .trainingTimeout .. | .linkError .. | .retrainResult .. | .downRetry .. | .flitReplay ..
  | .portStateFlit .. | .maintenanceDue .. | .wornSet .. | .healthRecordAppend | .patrolScrub .. | .readhealth
  | .readtotals | .readcert | .quote | .signman | .install | .remap | .loadfw | .mailboxBadOp .. | .mailboxDone
  | .moduleReset | .bootVerify | .perstRelease | .powerLoss | .registerWrite .. | .rcRegisterRead ..
  | .fabricRequestReceived .. | .dieJointRetrained .. | .fabricPllLock | .timeExchange ..
  | .junctionTemperatureSample .. | .doeRequest .. => false

end Sys2Proof
end

