-- ==== Sys2Proof/Decode.lean ====
section
/-! DEFINITION. The decoder of the 128-bit word, total on any word and refusing by name, and after it the encoder
(spec 06 R79 to R93 and the slot tables of chapters 07 to 10 and 20 R321). -/

namespace Sys2Proof

/-! ## Fields of a word -/

/-- Why a word raises ILLOP under order 1 of 06 R93. `slot k` names operand slot A to E as 0 to 4, and `value k v` an immediate
operand whose value v is outside the range that the form allows (07 R102). -/
inductive Reject | opcode | reserved | hint | writeback | tokens | slot (k : Fin 5) | value (k : Fin 5) (v : W64)
  deriving DecidableEq, Repr

/-- TCAUSE.SLOT of the trap: the slot, or 7 (06 R93). -/
def Reject.slotNo : Reject → Nat
  | .slot k | .value k _ => k.val
  | _ => 7

/-- TVAL of the trap: the offending value, or bits [127:64] of the word (07 R102, 20 R305; log 11). -/
def Reject.tval (r : Reject) (w : W128) : W64 :=
  match r with
  | .value _ v => v
  | _ => w.extractLsb' 64 64

/-- The fields of a word as numbers (06 R79, R82). -/
structure Raw where
  opc : Nat
  ga : Nat
  gan : Nat
  gb : Nat
  gbn : Nat
  ch : Nat
  stall : Nat
  yld : Nat
  pb : Nat
  pa : Nat
  wb : Nat
  /-- bit 93 and bits [92:90] together, reserved -/
  rsv : Nat
  a : Nat
  b : Nat
  c : Nat
  d : Nat
  e : Nat
  deriving DecidableEq, Repr

/-- Take a word apart (06 R79). -/
def Raw.ofWord (w : W128) : Raw :=
  { opc := fld w 127 118, ga := fld w 117 114, gan := fld w 113 113, gb := fld w 112 109, gbn := fld w 108 108,
    ch := fld w 107 105, stall := fld w 104 101, yld := fld w 100 100, pb := fld w 99 98, pa := fld w 97 96,
    wb := fld w 95 94, rsv := fld w 93 90, a := fld w 89 72, b := fld w 71 54, c := fld w 53 36, d := fld w 35 18,
    e := fld w 17 0 }

/-- Put a word together (06 R79). -/
def Raw.toWord (r : Raw) : W128 :=
  BitVec.ofNat 128 (r.opc * 2 ^ 118 + r.ga * 2 ^ 114 + r.gan * 2 ^ 113 + r.gb * 2 ^ 109 + r.gbn * 2 ^ 108
    + r.ch * 2 ^ 105 + r.stall * 2 ^ 101 + r.yld * 2 ^ 100 + r.pb * 2 ^ 98 + r.pa * 2 ^ 96 + r.wb * 2 ^ 94
    + r.rsv * 2 ^ 90 + r.a * 2 ^ 72 + r.b * 2 ^ 54 + r.c * 2 ^ 36 + r.d * 2 ^ 18 + r.e)

/-- The decoder's answers. -/
abbrev P := Except Reject

/-! ## Codes -/

/-- CH (06 R81). -/
def Hint.code : Hint → Nat | .normal => 0 | .stream => 1 | .keep => 2 | .last => 3

/-- Tag codes (03 R34). -/
def Fmt.code : Fmt → Nat
  | .int32 => 0 | .fp32 => 1 | .bf16 => 2 | .fp16 => 3 | .e4m3 => 4 | .e5m2 => 5 | .e2m1s => 6 | .int16 => 7
  | .int8 => 8 | .int4 => 9 | .uint8 => 10 | .acc12 => 11 | .none => 15

def Fmt.all : List Fmt :=
  [.int32, .fp32, .bf16, .fp16, .e4m3, .e5m2, .e2m1s, .int16, .int8, .int4, .uint8, .acc12, .none]

/-- The format of a tag code; 0xC to 0xE are reserved. -/
def Fmt.ofCode (n : Nat) : Option Fmt := if n = 15 then some .none else if n < 12 then Fmt.all[n]? else Option.none

/-- Part codes (06 R95). -/
def Part.code : Part → Nat
  | .whole => 0 | .h0 => 1 | .h1 => 2 | .b0 => 3 | .b1 => 4 | .b2 => 5 | .b3 => 6 | .n0 => 7 | .n1 => 8 | .n2 => 9
  | .n3 => 10 | .n4 => 11 | .n5 => 12 | .n6 => 13 | .n7 => 14

/-- The part of a code; 15 raises ILLOP (03 R36). -/
def Part.ofCode (n : Nat) : Option Part :=
  ([.whole, .h0, .h1, .b0, .b1, .b2, .b3, .n0, .n1, .n2, .n3, .n4, .n5, .n6, .n7] : List Part)[n]?

/-- Rounding modes (04 R49). -/
def RM.code : RM → Nat | .rne => 0 | .rz => 1 | .rd => 2 | .ru => 3 | .sr => 4

def RM.ofCode (n : Nat) : Option RM := ([.rne, .rz, .rd, .ru, .sr] : List RM)[n]?

/-- Conditions (07 R106). -/
def Cond.code : Cond → Nat | .eq => 0 | .ne => 1 | .lt => 2 | .ge => 3 | .ltu => 4 | .geu => 5

def Cond.ofCode (n : Nat) : Option Cond := ([.eq, .ne, .lt, .ge, .ltu, .geu] : List Cond)[n]?

/-- Scopes (07 R119). -/
def Scope.code : Scope → Nat | .core => 0 | .gang => 1 | .dev => 2 | .dom => 3 | .sys => 4

def Scope.ofCode (n : Nat) : Option Scope := ([.core, .gang, .dev, .dom, .sys] : List Scope)[n]?

/-- Token kinds (07 R113). -/
def MbKind.code : MbKind → Nat | .fwd => 0 | .bwd => 1 | .upd => 2

def MbKind.ofCode (n : Nat) : Option MbKind := ([.fwd, .bwd, .upd] : List MbKind)[n]?

/-- VCMP conditions (08 R135). -/
def VCond.code : VCond → Nat | .eq => 0 | .ne => 1 | .lt => 2 | .le => 3 | .gt => 4 | .ge => 5

def VCond.ofCode (n : Nat) : Option VCond := ([.eq, .ne, .lt, .le, .gt, .ge] : List VCond)[n]?

/-- Reduction kinds (08 R142). -/
def RedKind.code : RedKind → Nat | .add => 0 | .max => 1 | .min => 2 | .and => 3 | .or => 4 | .xor => 5

def RedKind.ofCode (n : Nat) : Option RedKind := ([.add, .max, .min, .and, .or, .xor] : List RedKind)[n]?

/-- Draw kinds (08 R146). -/
def DrawKind.code : DrawKind → Nat | .u32 => 0 | .f32 => 1 | .bf16 => 2

def DrawKind.ofCode (n : Nat) : Option DrawKind := ([.u32, .f32, .bf16] : List DrawKind)[n]?

/-- Access sizes (09 R157). -/
def Size.code : Size → Nat | .b => 0 | .h => 1 | .w => 2 | .d => 3

def Size.ofCode (n : Nat) : Option Size := ([.b, .h, .w, .d] : List Size)[n]?

/-- Atomic operations (09 R166). -/
def AmoOp.code : AmoOp → Nat
  | .add => 0 | .and => 1 | .or => 2 | .xor => 3 | .min => 4 | .max => 5 | .minu => 6 | .maxu => 7 | .swap => 8
  | .cas => 9 | .fadd => 10

def AmoOp.ofCode (n : Nat) : Option AmoOp :=
  ([.add, .and, .or, .xor, .min, .max, .minu, .maxu, .swap, .cas, .fadd] : List AmoOp)[n]?

/-- Atomic orders (09 R165). -/
def AmoOrd.code : AmoOrd → Nat | .rlx => 0 | .acq => 1 | .rel => 2 | .ar => 3

def AmoOrd.ofCode (n : Nat) : Option AmoOrd := ([.rlx, .acq, .rel, .ar] : List AmoOrd)[n]?

/-- Kinds of RED, CPYR and MLR. -/
def Comb3.code : Comb3 → Nat | .add => 0 | .max => 1 | .min => 2

def Comb3.ofCode (n : Nat) : Option Comb3 := ([.add, .max, .min] : List Comb3)[n]?

/-- Kinds of UPDR (09 R169). -/
def UpdKind.code : UpdKind → Nat | .sgd => 0 | .mom => 1 | .adamw => 2

def UpdKind.ofCode (n : Nat) : Option UpdKind := ([.sgd, .mom, .adamw] : List UpdKind)[n]?

/-- System register numbers (03 R39). -/
def SysReg.code : SysReg → Nat
  | .cyc => 0x000 | .lcy => 0x001 | .phs => 0x002 | .xwin => 0x003 | .core => 0x008 | .gang => 0x009
  | .berth => 0x00A | .heat => 0x00B | .lend => 0x00C | .seed0 => 0x010 | .seed1 => 0x011 | .layer => 0x012
  | .srmode => 0x018 | .fpf => 0x019 | .psize => 0x020 | .wdp => 0x021 | .trapv => 0x028 | .tcause => 0x029
  | .tval => 0x02A | .epc => 0x02B | .drpth => 0x030 | .drpst => 0x031 | .pmc n => 0x040 + n.val
  | .pmsel n => 0x050 + n.val

/-- The register of an assigned number. -/
def SysReg.ofCode (n : Nat) : Option SysReg :=
  if 0x040 ≤ n ∧ n < 0x050 then some (.pmc (Fin.ofNat 16 (n - 0x040)))
  else if 0x050 ≤ n ∧ n < 0x060 then some (.pmsel (Fin.ofNat 16 (n - 0x050)))
  else ([.cyc, .lcy, .phs, .xwin, .core, .gang, .berth, .heat, .lend, .seed0, .seed1, .layer, .srmode, .fpf, .psize,
    .wdp, .trapv, .tcause, .tval, .epc, .drpth, .drpst] : List SysReg).find? (fun r => r.code == n)

/-- Numbers of MTSP and MFSP (20 R321). -/
def PrivName.code : PrivName → Nat
  | .sys r => r.code
  | .quad (.qpew n) => 0x100 + n.val
  | .quad .qpest => 0x130
  | .quad .qplvl => 0x131
  | .quad .qpslk => 0x132

def PrivName.ofCode (n : Nat) : Option PrivName :=
  if 0x100 ≤ n ∧ n < 0x130 then some (.quad (.qpew (Fin.ofNat 48 (n - 0x100))))
  else if n = 0x130 then some (.quad .qpest)
  else if n = 0x131 then some (.quad .qplvl)
  else if n = 0x132 then some (.quad .qpslk)
  else (SysReg.ofCode n).map .sys

/-! ## Slots (06 R86 to R88) -/

/-- The level 0b11 mark of an immediate slot. -/
def immMark : Nat := 3 * 65536

/-- A refusal that names slot `k`. -/
def bad (k : Fin 5) : P α := .error (.slot k)

/-- An operand whose immediate value lies below `n`, or a refusal that names the value. -/
def pBelow (k : Fin 5) (n : Nat) (x : SOp) : P Unit :=
  match x with
  | .src _ => .ok ()
  | .imm v => if v.toNat < n then .ok () else .error (.value k (v.signExtend 64))

/-- An assigned code, or a refusal of its slot. -/
def opt (k : Fin 5) : Option α → P α
  | some x => .ok x
  | none => bad k

/-- A slot that must be zero. -/
def pZ (k : Fin 5) (x : Nat) : P Unit := if x = 0 then .ok () else bad k

/-- An immediate slot, read raw. -/
def pI (k : Fin 5) (x : Nat) : P W16 := if immMark ≤ x then .ok (BitVec.ofNat 16 (x - immMark)) else bad k

/-- A modifier slot: its 16 bits as a number. -/
def pM (k : Fin 5) (x : Nat) : P Nat := if immMark ≤ x then .ok (x - immMark) else bad k

/-- A register number below `n` of another file, at level 0b00 with PK, PART and SWP zero (06 R87). -/
def pN (k : Fin 5) (n : Nat) [NeZero n] (x : Nat) : P (Fin n) :=
  if x % 64 = 0 ∧ x / 64 < n ∧ x < 65536 then .ok (Fin.ofNat n (x / 64)) else bad k

/-- A scalar source: S0 to S63, or LS at level 0b10 (07 R100). -/
def pS (k : Fin 5) (x : Nat) : P SSrc :=
  if x % 32 = 0 ∧ x / 64 < 64 then .ok (.s (Fin.ofNat 64 (x / 64)) (decide (x / 32 % 2 = 1)))
  else if x = 2 * 65536 + 2 * 64 then .ok .ls
  else bad k

/-- A scalar source or an integer immediate. -/
def pSI (k : Fin 5) (x : Nat) : P SOp :=
  if immMark ≤ x then .ok (.imm (BitVec.ofNat 16 (x - immMark))) else SOp.src <$> pS k x

/-- The place a vector slot names: main file, operand file, LV or LL (06 R86, 03 R33). -/
def vloc (x : Nat) : Option VLoc :=
  if x < 65536 then some (.main (Fin.ofNat 1024 (x / 64)) (decide (x / 32 % 2 = 1)))
  else if x / 32 % 2 = 1 then none
  else if x < 2 * 65536 then (if x / 64 - 1024 < 8 then some (.opf (Fin.ofNat 8 (x / 64 - 1024))) else none)
  else if x / 64 = 2048 then some .lv
  else if x / 64 = 2049 then some .ll
  else none

/-- A vector source. -/
def pV (k : Fin 5) (x : Nat) : P VSrc :=
  match vloc x, Part.ofCode (x / 2 % 16) with
  | some l, some p => .ok ⟨l, p, decide (x % 2 = 1)⟩
  | _, _ => bad k

/-- A vector source or an immediate. -/
def pVI (k : Fin 5) (x : Nat) : P VOp :=
  if immMark ≤ x then .ok (.imm (BitVec.ofNat 16 (x - immMark))) else VOp.src <$> pV k x

/-- An array input: a vector source or #0 (10 R192). -/
def pVL (k : Fin 5) (x : Nat) : P VLm :=
  if x = immMark then .ok .lm else if immMark < x then bad k else VLm.src <$> pV k x

/-- A reference: a raw immediate up to 4095 or a scalar (09 R152). -/
def pR (k : Fin 5) (x : Nat) : P Ref :=
  if immMark ≤ x then (if x - immMark < 4096 then .ok (.imm (BitVec.ofNat 12 (x - immMark))) else bad k)
  else Ref.src <$> pS k x

/-- A tile reference (10 R192). -/
def pT (k : Fin 5) (x : Nat) : P TileRef :=
  if immMark ≤ x then (if x - immMark < 32 then .ok (.imm (Fin.ofNat 32 (x - immMark))) else bad k)
  else TileRef.src <$> pS k x

/-- A repeat slot (06 R90). -/
def pRep (k : Fin 5) (x : Nat) : P Rep :=
  if immMark ≤ x then (if x - immMark < 4096 then .ok (.imm (BitVec.ofNat 12 (x - immMark))) else bad k)
  else Rep.src <$> pS k x

/-- A location word; KIND 3 in an immediate is refused here (09 R175, 07 R102). -/
def pLw (k : Fin 5) (x : Nat) : P Lw :=
  if immMark ≤ x then
    (if (x - immMark) / 4096 % 4 = 3 then bad k else .ok (.imm (BitVec.ofNat 16 (x - immMark))))
  else Lw.src <$> pS k x

/-- A scalar destination under writeback level `wb`; level 0 is latch only with a zero slot (06 R85). -/
def pSD (wb x : Nat) : P SDst :=
  if wb = 0 then (if x = 0 then .ok none else bad 0) else some <$> pN 0 64 x

/-- A vector destination. -/
def pVD (wb x : Nat) : P VDst :=
  if wb = 0 then (if x = 0 then .ok .latch else bad 0)
  else if x % 64 ≠ 0 then bad 0
  else if x < 65536 then .ok (.main (Fin.ofNat 1024 (x / 64)))
  else if x < 2 * 65536 ∧ x / 64 - 1024 < 8 then .ok (.opf (Fin.ofNat 8 (x / 64 - 1024)))
  else bad 0

/-- A destination that must be written (WB 0b01): with WB 0b00 the slot must be zero and the header fails. -/
def pReq (n : Nat) [NeZero n] (wb x : Nat) : P (Fin n) :=
  if wb = 0 then (if x = 0 then .ok (Fin.ofNat n 0) else bad 0) else pN 0 n x

/-! ## Header -/

/-- Which writeback levels a form may carry (06 R85). -/
inductive WbRule | zero | any | one
  deriving DecidableEq, Repr

/-- The writeback level is allowed. -/
def WbRule.ok : WbRule → Nat → Bool
  | .zero, w => w == 0
  | .any, w => w == 0 || w == 1
  | .one, w => w == 1

/-- The cache hint of a code. -/
def Hint.ofCode (n : Nat) : Option Hint := ([.normal, .stream, .keep, .last] : List Hint)[n]?

/-- Guards, hint and scheduling fields, checked after every slot (06 R80 to R85, R93). -/
def pHead (cls : Cls) (wr : WbRule) (r : Raw) : P Head :=
  match Hint.ofCode r.ch with
  | none => .error .hint
  | some ch =>
    if r.rsv ≠ 0 then .error .reserved
    else if !wr.ok r.wb then .error .writeback
    else if !(cls.tokOk (BitVec.ofNat 2 r.pb) && cls.tokOk (BitVec.ofNat 2 r.pa)) then .error .tokens
    else .ok
      { ga := Fin.ofNat 16 r.ga, gan := decide (r.gan = 1), gb := Fin.ofNat 16 r.gb, gbn := decide (r.gbn = 1),
        ch := ch, stall := Fin.ofNat 16 r.stall, yld := decide (r.yld = 1), pb := BitVec.ofNat 2 r.pb,
        pa := BitVec.ofNat 2 r.pa }

/-! ## Shapes of forms shared by several opcodes -/

/-- All slots zero. -/
def fZ (mk : Head → Instr) (r : Raw) : P Instr := do
  pZ 0 r.a; pZ 1 r.b; pZ 2 r.c; pZ 3 r.d; pZ 4 r.e
  mk <$> pHead .other .zero r

/-- d s si z z. -/
def fDSS (mk : Head → SDst → SSrc → SOp → Instr) (r : Raw) : P Instr := do
  let d ← pSD r.wb r.a; let a ← pS 1 r.b; let b ← pSI 2 r.c
  pZ 3 r.d; pZ 4 r.e
  let h ← pHead .other .any r
  .ok (mk h d a b)

/-- d s z z z. -/
def fDS (mk : Head → SDst → SSrc → Instr) (r : Raw) : P Instr := do
  let d ← pSD r.wb r.a; let a ← pS 1 r.b
  pZ 2 r.c; pZ 3 r.d; pZ 4 r.e
  let h ← pHead .other .any r
  .ok (mk h d a)

/-- z s z z z. -/
def fS (mk : Head → SSrc → Instr) (r : Raw) : P Instr := do
  pZ 0 r.a; let a ← pS 1 r.b
  pZ 2 r.c; pZ 3 r.d; pZ 4 r.e
  let h ← pHead .other .zero r
  .ok (mk h a)

/-- p p p z z. -/
def fPPP (mk : Head → Fin 16 → Fin 16 → Fin 16 → Instr) (r : Raw) : P Instr := do
  let d ← pReq 16 r.wb r.a; let a ← pN 1 16 r.b; let b ← pN 2 16 r.c
  pZ 3 r.d; pZ 4 r.e
  let h ← pHead .other .one r
  .ok (mk h d a b)

/-- Rounding modes without SR. -/
def rmDet (k : Fin 5) (n : Nat) : P RM := if n < 4 then opt k (RM.ofCode n) else bad k

/-- d v vi m z with MSK, RM and SAT. -/
def fV3r (mk : Head → VDst → VSrc → VOp → Fin 8 → RM → Bool → Instr) (r : Raw) : P Instr := do
  let d ← pVD r.wb r.a; let b ← pV 1 r.b; let c ← pVI 2 r.c; let m ← pM 3 r.d
  let rm ← rmDet 3 (m / 8 % 8)
  if m < 128 then pure () else bad 3
  pZ 4 r.e
  let h ← pHead .vxe .any r
  .ok (mk h d b c (Fin.ofNat 8 (m % 8)) rm (decide (m / 64 = 1)))

/-- d v vi m z with MSK. -/
def fV3 (mk : Head → VDst → VSrc → VOp → Fin 8 → Instr) (r : Raw) : P Instr := do
  let d ← pVD r.wb r.a; let b ← pV 1 r.b; let c ← pVI 2 r.c; let m ← pM 3 r.d
  if m < 8 then pure () else bad 3
  pZ 4 r.e
  let h ← pHead .vxe .any r
  .ok (mk h d b c (Fin.ofNat 8 m))

/-- d v vi vi z. -/
def fV4 (mk : Head → VDst → VSrc → VOp → VOp → Instr) (r : Raw) : P Instr := do
  let d ← pVD r.wb r.a; let b ← pV 1 r.b; let c ← pVI 2 r.c; let e ← pVI 3 r.d
  pZ 4 r.e
  let h ← pHead .vxe .any r
  .ok (mk h d b c e)

/-- d v m z z with MSK. -/
def fV2 (mk : Head → VDst → VSrc → Fin 8 → Instr) (r : Raw) : P Instr := do
  let d ← pVD r.wb r.a; let b ← pV 1 r.b; let m ← pM 2 r.c
  if m < 8 then pure () else bad 2
  pZ 3 r.d; pZ 4 r.e
  let h ← pHead .vxe .any r
  .ok (mk h d b (Fin.ofNat 8 m))

/-- d v m z z with MSK and RM. -/
def fV2r (mk : Head → VDst → VSrc → Fin 8 → RM → Instr) (r : Raw) : P Instr := do
  let d ← pVD r.wb r.a; let b ← pV 1 r.b; let m ← pM 2 r.c
  let rm ← rmDet 2 (m / 8)
  pZ 3 r.d; pZ 4 r.e
  let h ← pHead .vxe .any r
  .ok (mk h d b (Fin.ofNat 8 (m % 8)) rm)

/-- d v v vi z. -/
def fDot (mk : Head → VDst → VSrc → VSrc → VOp → Instr) (r : Raw) : P Instr := do
  let d ← pVD r.wb r.a; let b ← pV 1 r.b; let c ← pV 2 r.c; let e ← pVI 3 r.d
  pZ 4 r.e
  let h ← pHead .vxe .any r
  .ok (mk h d b c e)

/-- d v si m z with MSK; an immediate at or above `lim` is refused. -/
def fVK (lim : Nat) (mk : Head → VDst → VSrc → SOp → Fin 8 → Instr) (r : Raw) : P Instr := do
  let d ← pVD r.wb r.a; let b ← pV 1 r.b; let k ← pSI 2 r.c
  pBelow 2 lim k
  let m ← pM 3 r.d
  if m < 8 then pure () else bad 3
  pZ 4 r.e
  let h ← pHead .vxe .any r
  .ok (mk h d b k (Fin.ofNat 8 m))

/-- d v m z z with MSK, RM and a reduction kind; a bitwise kind takes no RM, and a scan no bitwise kind. -/
def fRed (scan : Bool) (mk : Head → VDst → VSrc → Fin 8 → RM → RedKind → Instr) (r : Raw) : P Instr := do
  let d ← pVD r.wb r.a; let b ← pV 1 r.b; let m ← pM 2 r.c
  let rm ← rmDet 2 (m / 8 % 8)
  let k ← opt 2 (RedKind.ofCode (m / 128))
  if m / 64 % 2 = 0 ∧ (k.bitwise = false ∨ scan = false ∧ rm = .rne) then pure () else bad 2
  pZ 3 r.d; pZ 4 r.e
  let h ← pHead .vxe .any r
  .ok (mk h d b (Fin.ofNat 8 (m % 8)) rm k)

/-- k k k z z. -/
def fMMM (mk : Head → Fin 8 → Fin 8 → Fin 8 → Instr) (r : Raw) : P Instr := do
  let d ← pReq 8 r.wb r.a; let a ← pN 1 8 r.b; let b ← pN 2 8 r.c
  pZ 3 r.d; pZ 4 r.e
  let h ← pHead .vxe .one r
  .ok (mk h d a b)

/-- d(scalar) k z z z. -/
def fMS (mk : Head → Fin 64 → Fin 8 → Instr) (r : Raw) : P Instr := do
  let d ← pReq 64 r.wb r.a; let a ← pN 1 8 r.b
  pZ 2 r.c; pZ 3 r.d; pZ 4 r.e
  let h ← pHead .vxe .one r
  .ok (mk h d a)

/-- z ri lw lw and a last slot. -/
def fCpy (mk : Head → Ref → Lw → Lw → α → Instr) (last : Nat → P α) (r : Raw) : P Instr := do
  pZ 0 r.a; let bo ← pR 1 r.b; let dst ← pLw 2 r.c; let src ← pLw 3 r.d; let x ← last r.e
  let h ← pHead .other .zero r
  .ok (mk h bo dst src x)

/-- z t s z z. -/
def fTS (mk : Head → TileRef → SSrc → Instr) (r : Raw) : P Instr := do
  pZ 0 r.a; let t ← pT 1 r.b; let cb ← pS 2 r.c
  pZ 3 r.d; pZ 4 r.e
  let h ← pHead .other .zero r
  .ok (mk h t cb)

/-- z t s vl z. -/
def fTSV (mk : Head → TileRef → SSrc → VLm → Instr) (r : Raw) : P Instr := do
  pZ 0 r.a; let t ← pT 1 r.b; let cb ← pS 2 r.c; let x ← pVL 3 r.d
  pZ 4 r.e
  let h ← pHead .other .zero r
  .ok (mk h t cb x)

/-- z t s vl rp, where a repeat needs LM input (10 R202). -/
def fTSVR (mk : Head → TileRef → SSrc → VLm → Rep → Instr) (r : Raw) : P Instr := do
  pZ 0 r.a; let t ← pT 1 r.b; let cb ← pS 2 r.c; let x ← pVL 3 r.d; let rep ← pRep 4 r.e
  if repLm x rep then pure () else bad 4
  let h ← pHead .other .zero r
  .ok (mk h t cb x rep)

/-- z ri s m rp (10 R213). -/
def fSf (mk : Head → Ref → SSrc → Bool → Rep → Instr) (r : Raw) : P Instr := do
  pZ 0 r.a; let bo ← pR 1 r.b; let cb ← pS 2 r.c; let m ← pM 3 r.d
  if m < 2 then pure () else bad 3
  let rep ← pRep 4 r.e
  let h ← pHead .other .zero r
  .ok (mk h bo cb (decide (m = 1)) rep)

/-! ## Control and fences (07 R105 to R122) -/

/-- BR and CALL distances are two immediates (07 R105). -/
def dist32 (b c : W16) : W32 := b ++ c

/-- BRC: z s si m i. -/
def fBrc (r : Raw) : P Instr := do
  pZ 0 r.a; let a ← pS 1 r.b; let b ← pSI 2 r.c; let m ← pM 3 r.d
  let c ← opt 3 (Cond.ofCode m)
  let dist ← pI 4 r.e
  let h ← pHead .other .zero r
  .ok (.brc h c a b dist)

def fBr (r : Raw) : P Instr := do
  pZ 0 r.a; let b ← pI 1 r.b; let c ← pI 2 r.c
  pZ 3 r.d; pZ 4 r.e
  let h ← pHead .other .zero r
  .ok (.br h (dist32 b c))

def fCall (r : Raw) : P Instr := do
  let d ← pSD r.wb r.a; let b ← pI 1 r.b; let c ← pI 2 r.c
  pZ 3 r.d; pZ 4 r.e
  let h ← pHead .other .any r
  .ok (.call h d (dist32 b c))

def fLoop (r : Raw) : P Instr := do
  let d ← pSD r.wb r.a; let a ← pS 1 r.b; let c ← pI 2 r.c
  pZ 3 r.d; pZ 4 r.e
  let h ← pHead .other .any r
  .ok (.loop h d a c)

def fPhase (r : Raw) : P Instr := do
  let d ← pSD r.wb r.a
  pZ 1 r.b; pZ 2 r.c; pZ 3 r.d; pZ 4 r.e
  let h ← pHead .other .any r
  .ok (.phase h d)

def fBara (r : Raw) : P Instr := do
  let d ← pSD r.wb r.a; let n ← pN 1 96 r.b; let c ← pSI 2 r.c
  pZ 3 r.d; pZ 4 r.e
  let h ← pHead .other .any r
  .ok (.bara h d n c)

/-- z x si z z with a named barrier. -/
def fBar (mk : Head → Fin 96 → SOp → Instr) (r : Raw) : P Instr := do
  pZ 0 r.a; let n ← pN 1 96 r.b; let c ← pSI 2 r.c
  pZ 3 r.d; pZ 4 r.e
  let h ← pHead .other .zero r
  .ok (mk h n c)

def fTokin (r : Raw) : P Instr := do
  pZ 0 r.a; let mb ← pSI 1 r.b; let m ← pM 2 r.c
  let k ← opt 2 (MbKind.ofCode m)
  pZ 3 r.d; pZ 4 r.e
  let h ← pHead .other .zero r
  .ok (.tokin h k mb)

def fTokout (r : Raw) : P Instr := do
  pZ 0 r.a; let st ← pSI 1 r.b; let mb ← pSI 2 r.c; let m ← pM 3 r.d
  let k ← opt 3 (MbKind.ofCode m)
  pZ 4 r.e
  let h ← pHead .other .zero r
  .ok (.tokout h k st mb)

/-- d si z z z. -/
def fDSI (mk : Head → SDst → SOp → Instr) (r : Raw) : P Instr := do
  let d ← pSD r.wb r.a; let a ← pSI 1 r.b
  pZ 2 r.c; pZ 3 r.d; pZ 4 r.e
  let h ← pHead .other .any r
  .ok (mk h d a)

def fTsr (r : Raw) : P Instr := do
  let d ← pReq 64 r.wb r.a; let e ← pN 1 64 r.b
  if r.wb = 1 ∧ d = e then bad 1 else pure ()
  pZ 2 r.c; pZ 3 r.d; pZ 4 r.e
  let h ← pHead .other .one r
  .ok (.tsr h d e)

/-- z si si z z with an object index in slot B. -/
def fBoPh (mk : Head → SOp → SOp → Instr) (r : Raw) : P Instr := do
  pZ 0 r.a; let bo ← pSI 1 r.b
  pBelow 1 4096 bo
  let ph ← pSI 2 r.c
  pZ 3 r.d; pZ 4 r.e
  let h ← pHead .other .zero r
  .ok (mk h bo ph)

def fTrap (r : Raw) : P Instr := do
  pZ 0 r.a; let c ← pI 1 r.b
  pZ 2 r.c; pZ 3 r.d; pZ 4 r.e
  let h ← pHead .other .zero r
  .ok (.trap h c)

/-- A slot that holds the number of another file; the number is checked against the file its modifier names. -/
def pX (k : Fin 5) (x : Nat) : P Nat := if x % 64 = 0 ∧ x < 65536 then .ok (x / 64) else bad k

/-- The name MFS reads, by number and kind (07 R117). -/
def mfsName (n m : Nat) : Option MfsName :=
  if m = 0 then (SysReg.ofCode n).map .sys
  else if m = 1 then (if n < 96 then some (.bar (Fin.ofNat 96 n)) else none)
  else if m = 2 then (if n < 8 then some (.win (Fin.ofNat 8 n)) else none)
  else none

/-- A kind modifier: a code that is not assigned is the modifier slot's fault, and the file slot is then read as
kind 0 (07 R117). -/
def pKind (k : Fin 5) (lim x : Nat) : P Nat := do
  let m ← pM k x
  if m < lim then pure m else bad k

def fMfs (r : Raw) : P Instr := do
  let d ← pSD r.wb r.a; let n ← pX 1 r.b; let m ← pKind 2 3 r.c
  let nm ← opt 1 (mfsName n m)
  pZ 3 r.d; pZ 4 r.e
  let h ← pHead .other .any r
  .ok (.mfs h d nm)

def fMts (r : Raw) : P Instr := do
  pZ 0 r.a; let n ← pX 1 r.b
  let x ← opt 1 (SysReg.ofCode n)
  let a ← pSI 2 r.c
  pZ 3 r.d; pZ 4 r.e
  let h ← pHead .other .zero r
  .ok (.mts h x a)

def fLoc (r : Raw) : P Instr := do
  let d ← pSD r.wb r.a; let a ← pSI 1 r.b; let m ← pKind 2 2 r.c
  pZ 3 r.d; pZ 4 r.e
  let h ← pHead .other .any r
  .ok (.loc h (decide (m = 1)) d a)

def fFence (r : Raw) : P Instr := do
  pZ 0 r.a; let m ← pM 1 r.b
  let sc ← opt 1 (Scope.ofCode m)
  let s ← pM 2 r.c
  if s < 128 ∧ s / 8 % 2 = 0 ∧ s % 8 ≠ 0 ∧ s / 16 ≠ 0 then pure () else bad 2
  pZ 3 r.d; pZ 4 r.e
  let h ← pHead .other .zero r
  .ok (.fence h sc (BitVec.ofNat 3 (s % 8)) (BitVec.ofNat 3 (s / 16)))

def fFsc (r : Raw) : P Instr := do
  pZ 0 r.a; let m ← pM 1 r.b
  let sc ← opt 1 (Scope.ofCode m)
  pZ 2 r.c; pZ 3 r.d; pZ 4 r.e
  let h ← pHead .other .zero r
  .ok (.fsc h sc)

def fTfence (r : Raw) : P Instr := do
  pZ 0 r.a; let m ← pKind 1 2 r.b
  let va ← (if m = 0 then (do pZ 2 r.c; pure none) else some <$> pS 2 r.c)
  pZ 3 r.d; pZ 4 r.e
  let h ← pHead .other .zero r
  .ok (.tfence h va)

def fRcfence (r : Raw) : P Instr := do
  pZ 0 r.a; let m ← pKind 1 2 r.b
  let tid ← (if m = 1 then (do pZ 2 r.c; pure none) else (do
    let t ← pSI 2 r.c
    pBelow 2 4096 t
    pure (some t)))
  pZ 3 r.d; pZ 4 r.e
  let h ← pHead .other .zero r
  .ok (.rcfence h tid)

/-- OPC 0x000 to 0x025. -/
def decControl (r : Raw) : P Instr :=
  match r.opc with
  | 0x000 => fZ .nop r | 0x001 => fBr r | 0x002 => fBrc r | 0x003 => fS .bri r | 0x004 => fCall r
  | 0x005 => fS .ret r | 0x006 => fLoop r | 0x007 => fZ .wait r | 0x008 => fZ .yield r | 0x009 => fZ .exit r
  | 0x00A => fZ .beat r | 0x00B => fPhase r | 0x00C => fZ .lock r | 0x00D => fBara r | 0x00E => fBar .barw r
  | 0x00F => fBar .baraw r | 0x010 => fTokin r | 0x011 => fTokout r | 0x012 => fDSI .stamp r | 0x013 => fTsr r
  | 0x014 => fS .sleepc r | 0x015 => fBoPh .sleepp r | 0x016 => fBoPh .waitp r | 0x017 => fTrap r
  | 0x018 => fZ .rtt r | 0x019 => fMfs r | 0x01A => fMts r | 0x01B => fLoc r
  | 0x020 => fFence r | 0x021 => fFsc r | 0x022 => fZ .mark r | 0x023 => fTfence r | 0x024 => fRcfence r
  | 0x025 => fZ .icfence r
  | _ => .error .opcode

/-! ## Scalar, predicate and FIFO forms (07 R123 to R125) -/

def fLi (r : Raw) : P Instr := do
  let d ← pSD r.wb r.a; let b ← pI 1 r.b; let c ← pI 2 r.c; let x ← pI 3 r.d; let e ← pI 4 r.e
  let h ← pHead .other .any r
  .ok (.li h d (b ++ c ++ x ++ e))

def fSel (r : Raw) : P Instr := do
  let d ← pSD r.wb r.a; let p ← pN 1 16 r.b; let a ← pS 2 r.c; let b ← pSI 3 r.d
  pZ 4 r.e
  let h ← pHead .other .any r
  .ok (.sel h d p a b)

def fCmp (r : Raw) : P Instr := do
  let d ← pReq 16 r.wb r.a; let a ← pS 1 r.b; let b ← pSI 2 r.c; let m ← pM 3 r.d
  let c ← opt 3 (Cond.ofCode m)
  pZ 4 r.e
  let h ← pHead .other .one r
  .ok (.cmp h c d a b)

def fExt (mk : Head → SDst → SSrc → W16 → Instr) (r : Raw) : P Instr := do
  let d ← pSD r.wb r.a; let a ← pS 1 r.b; let w ← pI 2 r.c
  if 1 ≤ w.toNat ∧ w.toNat ≤ 64 then pure () else bad 2
  pZ 3 r.d; pZ 4 r.e
  let h ← pHead .other .any r
  .ok (mk h d a w)

def fAidx (r : Raw) : P Instr := do
  let d ← pSD r.wb r.a; let a ← pS 1 r.b; let b ← pSI 2 r.c; let k ← pI 3 r.d
  if k.toNat ≤ 7 then pure () else bad 3
  pZ 4 r.e
  let h ← pHead .other .any r
  .ok (.aidx h d a b k)

/-- A field's position: above 63 it is its own slot's fault, any other limit is the length's. -/
def pPos (k : Fin 5) (x : Nat) : P W16 := do
  let p ← pI k x
  if p.toNat ≤ 63 then pure p else bad k

def fBfx (r : Raw) : P Instr := do
  let d ← pSD r.wb r.a; let a ← pS 1 r.b; let p ← pPos 2 r.c; let l ← pI 3 r.d
  if fieldOk p l then pure () else bad 3
  pZ 4 r.e
  let h ← pHead .other .any r
  .ok (.bfx h d a p l)

def fBfi (r : Raw) : P Instr := do
  let d ← pSD r.wb r.a; let a ← pS 1 r.b; let b ← pSI 2 r.c; let p ← pPos 3 r.d; let l ← pI 4 r.e
  if fieldOk p l then pure () else bad 4
  let h ← pHead .other .any r
  .ok (.bfi h d a b p l)

def fPnot (r : Raw) : P Instr := do
  let d ← pReq 16 r.wb r.a; let a ← pN 1 16 r.b
  pZ 2 r.c; pZ 3 r.d; pZ 4 r.e
  let h ← pHead .other .one r
  .ok (.pnot h d a)

/-- PMOV's source: a predicate, or an immediate 0 or 1 (07 R124). -/
def pPOp (k : Fin 5) (x : Nat) : P PredOp :=
  if immMark ≤ x then (if x - immMark < 2 then .ok (.imm (decide (x - immMark = 1))) else bad k)
  else PredOp.p <$> pN k 16 x

def fPmov (r : Raw) : P Instr := do
  let d ← pReq 16 r.wb r.a; let a ← pPOp 1 r.b
  pZ 2 r.c; pZ 3 r.d; pZ 4 r.e
  let h ← pHead .other .one r
  .ok (.pmov h d a)

/-- The FIFO a number and a file modifier name (07 R125). -/
def fifoName (n m : Nat) : Option FifoName :=
  if m = 0 then (if n < 1024 then some (.v (Fin.ofNat 1024 n)) else none)
  else if n < 64 then some (.s (Fin.ofNat 64 n)) else none

def fFcnt (r : Raw) : P Instr := do
  let d ← pSD r.wb r.a; let n ← pX 1 r.b; let m ← pKind 2 2 r.c
  let nm ← opt 1 (fifoName n m)
  pZ 3 r.d; pZ 4 r.e
  let h ← pHead .other .any r
  .ok (.fcnt h d nm)

def fFifo (mk : Head → FifoName → Instr) (r : Raw) : P Instr := do
  pZ 0 r.a; let n ← pX 1 r.b; let m ← pKind 2 2 r.c
  let nm ← opt 1 (fifoName n m)
  pZ 3 r.d; pZ 4 r.e
  let h ← pHead .other .zero r
  .ok (mk h nm)

/-- OPC 0x030 to 0x062. -/
def decScalar (r : Raw) : P Instr :=
  match r.opc with
  | 0x030 => fLi r | 0x031 => fDSI .mov r | 0x032 => fDSS .add r | 0x033 => fDSS .sub r | 0x034 => fDSS .mul r
  | 0x035 => fDSS .mulh r | 0x036 => fDSS .mulhu r | 0x037 => fDSS .div r | 0x038 => fDSS .divu r
  | 0x039 => fDSS .rem r | 0x03A => fDSS .remu r | 0x03B => fDSS .and r | 0x03C => fDSS .or r
  | 0x03D => fDSS .xor r | 0x03E => fDSS .andn r | 0x03F => fDSS .shl r | 0x040 => fDSS .shr r
  | 0x041 => fDSS .sar r | 0x042 => fDSS .rol r | 0x043 => fDS .clz r | 0x044 => fDS .ctz r | 0x045 => fDS .popc r
  | 0x046 => fDSS .min r | 0x047 => fDSS .max r | 0x048 => fDSS .minu r | 0x049 => fDSS .maxu r | 0x04A => fSel r
  | 0x04B => fCmp r | 0x04C => fExt .sext r | 0x04D => fExt .zext r | 0x04E => fAidx r | 0x04F => fBfx r
  | 0x050 => fBfi r | 0x051 => fDS .abs r
  | 0x058 => fPPP .pand r | 0x059 => fPPP .por r | 0x05A => fPPP .pxor r | 0x05B => fPnot r | 0x05C => fPmov r
  | 0x060 => fFcnt r | 0x061 => fFifo .fdrop r | 0x062 => fFifo .fclr r
  | _ => .error .opcode

/-! ## Vector forms (08) -/

/-- Target tag in bits [10:7] of a modifier. -/
def ftOf (m : Nat) : Option Fmt := Fmt.ofCode (m / 128 % 16)

def fVcmp (r : Raw) : P Instr := do
  let d ← pReq 8 r.wb r.a; let b ← pV 1 r.b; let c ← pVI 2 r.c; let m ← pM 3 r.d
  let k ← opt 3 (VCond.ofCode (m / 128))
  if m % 128 < 8 then pure () else bad 3
  pZ 4 r.e
  let h ← pHead .vxe .one r
  .ok (.vcmp h k d b c (Fin.ofNat 8 (m % 8)))

def fVsel (r : Raw) : P Instr := do
  let d ← pVD r.wb r.a; let k ← pN 1 8 r.b; let b ← pV 2 r.c; let c ← pVI 3 r.d
  pZ 4 r.e
  let h ← pHead .vxe .any r
  .ok (.vsel h d k b c)

def fVcvt (r : Raw) : P Instr := do
  let d ← pVD r.wb r.a; let b ← pV 1 r.b; let m ← pM 2 r.c
  let rm ← opt 2 (RM.ofCode (m / 8 % 8))
  let ft ← opt 2 (ftOf m)
  if m < 2048 ∧ m / 64 % 2 = 0 ∧ ft.isCvt = true then pure () else bad 2
  let draw ← (if rm = .sr then (do
      let sg ← pS 3 r.d; let sp ← pS 4 r.e
      pure (some (sg, sp)))
    else (do pZ 3 r.d; pZ 4 r.e; pure none))
  let h ← pHead .vxe .any r
  .ok (.vcvt h d b (Fin.ofNat 8 (m % 8)) rm ft draw)

def fVtag (r : Raw) : P Instr := do
  let d ← pVD r.wb r.a; let b ← pV 1 r.b; let m ← pM 2 r.c
  let ft ← opt 2 (ftOf m)
  if m < 2048 ∧ m % 128 < 8 then pure () else bad 2
  pZ 3 r.d; pZ 4 r.e
  let h ← pHead .vxe .any r
  .ok (.vtag h d b (Fin.ofNat 8 (m % 8)) ft)

def fVpack (r : Raw) : P Instr := do
  let d ← pVD r.wb r.a; let b ← pV 1 r.b; let c ← pV 2 r.c; let m ← pM 3 r.d
  let rm ← rmDet 3 (m / 8 % 8)
  let ft ← opt 3 (ftOf m)
  if m < 2048 ∧ m / 64 % 2 = 0 ∧ ft.isPack = true then pure () else bad 3
  pZ 4 r.e
  let h ← pHead .vxe .any r
  .ok (.vpack h d b c (Fin.ofNat 8 (m % 8)) rm ft)

/-- VBLKS's partial result: a register or #0 (08 R139). -/
def pVZ (k : Fin 5) (x : Nat) : P (Option VSrc) :=
  if x = immMark then .ok none else if immMark < x then bad k else some <$> pV k x

def fVblks (r : Raw) : P Instr := do
  let d ← pVD r.wb r.a; let b ← pV 1 r.b; let c ← pVZ 2 r.c; let m ← pM 3 r.d
  let rm ← rmDet 3 (m / 8 % 8)
  let ft ← opt 3 (ftOf m)
  if m < 16384 ∧ m % 8 = 0 ∧ m / 64 % 2 = 0 ∧ ft.isBlk = true then pure () else bad 3
  pZ 4 r.e
  let h ← pHead .vxe .any r
  .ok (.vblks h d b c rm ft (Fin.ofNat 8 (m / 2048)))

def fVblkg (r : Raw) : P Instr := do
  let d ← pVD r.wb r.a; let b ← pV 1 r.b; let m ← pM 2 r.c
  let rm ← rmDet 2 (m / 8 % 8)
  let ft ← opt 2 (ftOf m)
  if m < 16384 ∧ m / 64 % 2 = 0 ∧ ft.isBlkGet = true then pure () else bad 2
  pZ 3 r.d; pZ 4 r.e
  let h ← pHead .vxe .any r
  .ok (.vblkg h d b (Fin.ofNat 8 (m % 8)) rm ft (Fin.ofNat 8 (m / 2048)))

def fVacc12 (r : Raw) : P Instr := do
  let d ← pVD r.wb r.a; let a ← pV 1 r.b; let x ← pVI 2 r.c; let sg ← pS 3 r.d; let sp ← pS 4 r.e
  let h ← pHead .vxe .any r
  .ok (.vacc12 h d a x sg sp)

def fVshfr (r : Raw) : P Instr := do
  let d ← pVD r.wb r.a; let b ← pV 1 r.b; let x ← pV 2 r.c; let m ← pM 3 r.d
  if m < 8 then pure () else bad 3
  pZ 4 r.e
  let h ← pHead .vxe .any r
  .ok (.vshfr h d b x (Fin.ofNat 8 m))

def fViota (r : Raw) : P Instr := do
  let d ← pVD r.wb r.a; let st ← pSI 1 r.b; let sd ← pSI 2 r.c; let m ← pM 3 r.d
  let ft ← opt 3 (ftOf m)
  if m < 2048 ∧ m % 128 < 8 ∧ ft.isInteger = true then pure () else bad 3
  pZ 4 r.e
  let h ← pHead .vxe .any r
  .ok (.viota h d st sd (Fin.ofNat 8 (m % 8)) ft)

def fVmov (r : Raw) : P Instr := do
  let d ← pVD r.wb r.a; let b ← pV 1 r.b
  pZ 2 r.c; pZ 3 r.d; pZ 4 r.e
  let h ← pHead .vxe .any r
  .ok (.vmov h d b)

def fVsplat (r : Raw) : P Instr := do
  let d ← pVD r.wb r.a; let a ← pSI 1 r.b; let m ← pM 2 r.c
  let ft ← opt 2 (ftOf m)
  if m < 2048 ∧ m % 128 < 8 ∧ ft ≠ .none then pure () else bad 2
  pZ 3 r.d; pZ 4 r.e
  let h ← pHead .vxe .any r
  .ok (.vsplat h d a (Fin.ofNat 8 (m % 8)) ft)

def fVext (r : Raw) : P Instr := do
  let d ← pReq 64 r.wb r.a; let b ← pV 1 r.b; let e ← pSI 2 r.c; let m ← pM 3 r.d
  if m = 0 ∨ m = 128 then pure () else bad 3
  pZ 4 r.e
  let h ← pHead .vxe .one r
  .ok (.vext h d b e (decide (m = 128)))

def fVins (r : Raw) : P Instr := do
  let d ← pVD r.wb r.a; let b ← pV 1 r.b; let a ← pS 2 r.c; let e ← pSI 3 r.d
  pZ 4 r.e
  let h ← pHead .vxe .any r
  .ok (.vins h d b a e)

def fVrng (r : Raw) : P Instr := do
  let d ← pVD r.wb r.a; let sg ← pS 1 r.b; let sp ← pS 2 r.c; let m ← pM 3 r.d
  let k ← opt 3 (DrawKind.ofCode (m / 128))
  if m % 128 < 8 then pure () else bad 3
  pZ 4 r.e
  let h ← pHead .vxe .any r
  .ok (.vrng h d sg sp (Fin.ofNat 8 (m % 8)) k)

def fVdrop (r : Raw) : P Instr := do
  let d ← pVD r.wb r.a; let b ← pV 1 r.b; let sg ← pS 2 r.c; let sp ← pS 3 r.d; let kt ← pI 4 r.e
  let h ← pHead .vxe .any r
  .ok (.vdrop h d b sg sp kt)

def fMnot (r : Raw) : P Instr := do
  let d ← pReq 8 r.wb r.a; let a ← pN 1 8 r.b
  pZ 2 r.c; pZ 3 r.d; pZ 4 r.e
  let h ← pHead .vxe .one r
  .ok (.mnot h d a)

/-- OPC 0x080 to 0x0A5. -/
def decVec1 (r : Raw) : P Instr :=
  match r.opc with
  | 0x080 => fV3r .vadd r | 0x081 => fV3r .vsub r | 0x082 => fV3r .vmul r | 0x083 => fV4 .vfma r
  | 0x084 => fV4 .vfms r | 0x085 => fV4 .vnfma r | 0x086 => fV3 .vmin r | 0x087 => fV3 .vmax r
  | 0x088 => fV2 .vabs r | 0x089 => fV2 .vneg r | 0x08A => fV4 .vclamp r | 0x08B => fVcmp r | 0x08C => fVsel r
  | 0x08D => fV3 .vand r | 0x08E => fV3 .vor r | 0x08F => fV3 .vxor r | 0x090 => fV2 .vnot r
  | 0x091 => fV3 .vshl r | 0x092 => fV3 .vshr r | 0x093 => fV3 .vsar r | 0x094 => fV3 .vmulh r
  | 0x095 => fV2 .vclz r | 0x096 => fV2 .vpopc r | 0x097 => fVcvt r | 0x098 => fVtag r | 0x099 => fV2r .vround r
  | 0x0A0 => fVpack r | 0x0A1 => fV2r .vunpkl r | 0x0A2 => fV2r .vunpkh r | 0x0A3 => fVblks r
  | 0x0A4 => fVblkg r | 0x0A5 => fVacc12 r
  | _ => .error .opcode

/-- OPC 0x0B0 to 0x0F5. -/
def decVec2 (r : Raw) : P Instr :=
  match r.opc with
  | 0x0B0 => fDot .vdot2 r | 0x0B1 => fDot .vdot4 r | 0x0B2 => fDot .vdot8 r
  | 0x0C0 => fVK 65536 .vrotr r | 0x0C1 => fVK 65536 .vrotc r | 0x0C2 => fVK 64 .vbcr r | 0x0C3 => fVK 16 .vbcc r
  | 0x0C4 => fRed false .vredr r | 0x0C5 => fRed false .vredc r | 0x0C6 => fRed true .vscanr r
  | 0x0C7 => fRed true .vscanc r | 0x0C8 => fVshfr r | 0x0C9 => fV2 .vtrb r | 0x0CA => fViota r | 0x0CB => fVmov r
  | 0x0D0 => fVsplat r | 0x0D1 => fVext r | 0x0D2 => fVins r
  | 0x0E0 => fVrng r | 0x0E1 => fVdrop r
  | 0x0F0 => fMMM .mand r | 0x0F1 => fMMM .mor r | 0x0F2 => fMMM .mxor r | 0x0F3 => fMnot r
  | 0x0F4 => fMS .mcnt r | 0x0F5 => fMS .mfirst r
  | _ => .error .opcode

/-! ## Memory, barrier-object, copy and fabric forms (09) -/

def fLdv (r : Raw) : P Instr := do
  let d ← pVD r.wb r.a; let t ← pR 1 r.b; let o ← pSI 2 r.c
  pZ 3 r.d
  let rep ← pRep 4 r.e
  let h ← pHead .lde .any r
  .ok (.ldv h d t o rep)

/-- A vector source that stores whole entries (09 R157). -/
def pVP (k : Fin 5) (x : Nat) : P VSrc := do
  let v ← pV k x
  if v.plain then pure v else bad k

def fStv (r : Raw) : P Instr := do
  pZ 0 r.a; let v ← pVP 1 r.b; let t ← pR 2 r.c; let o ← pSI 3 r.d; let rep ← pRep 4 r.e
  let h ← pHead .ste .zero r
  .ok (.stv h v t o rep)

def fLdvt (r : Raw) : P Instr := do
  let d ← pVD r.wb r.a; let t ← pR 1 r.b; let s ← pS 2 r.c; let m ← pKind 3 2 r.d
  pZ 4 r.e
  let h ← pHead .lde .any r
  .ok (.ldvt h d t s (decide (m = 1)))

def fLdvg (r : Raw) : P Instr := do
  let d ← pVD r.wb r.a; let t ← pR 1 r.b; let v ← pV 2 r.c; let c ← pSI 3 r.d
  pZ 4 r.e
  let h ← pHead .lde .any r
  .ok (.ldvg h d t v c)

def fStvs (r : Raw) : P Instr := do
  pZ 0 r.a; let v ← pVP 1 r.b; let t ← pR 2 r.c; let x ← pV 3 r.d; let c ← pSI 4 r.e
  let h ← pHead .ste .zero r
  .ok (.stvs h v t x c)

def fLdsc (r : Raw) : P Instr := do
  let d ← pReq 64 r.wb r.a; let t ← pR 1 r.b; let o ← pSI 2 r.c; let m ← pKind 3 8 r.d; let rep ← pRep 4 r.e
  let sz ← opt 3 (Size.ofCode (m % 4))
  let h ← pHead .lde .one r
  .ok (.ldsc h d t o sz (decide (m / 4 = 1)) rep)

def fStsc (r : Raw) : P Instr := do
  pZ 0 r.a; let a ← pS 1 r.b; let t ← pR 2 r.c; let o ← pSI 3 r.d; let m ← pKind 4 4 r.e
  let sz ← opt 4 (Size.ofCode m)
  let h ← pHead .ste .zero r
  .ok (.stsc h a t o sz)

/-- Scope and size of LDA and STL: sizes w and d only (09 R157). -/
def ldaMod (k : Fin 5) (x : Nat) : P (Bool × Scope) := do
  let m ← pM k x
  let sc ← opt k (Scope.ofCode (m % 8))
  if m / 8 = 2 then pure (false, sc) else if m / 8 = 3 then pure (true, sc) else bad k

def fLda (r : Raw) : P Instr := do
  let d ← pReq 64 r.wb r.a; let t ← pR 1 r.b; let o ← pSI 2 r.c; let m ← ldaMod 3 r.d
  pZ 4 r.e
  let h ← pHead .lde .one r
  .ok (.lda h d t o m.1 m.2)

def fStl (r : Raw) : P Instr := do
  pZ 0 r.a; let a ← pS 1 r.b; let t ← pR 2 r.c; let o ← pSI 3 r.d; let m ← ldaMod 4 r.e
  let h ← pHead .ste .zero r
  .ok (.stl h a t o m.1 m.2)

def fLdm (r : Raw) : P Instr := do
  let d ← pReq 8 r.wb r.a; let t ← pR 1 r.b; let o ← pSI 2 r.c
  pZ 3 r.d
  let rep ← pRep 4 r.e
  let h ← pHead .lde .one r
  .ok (.ldm h d t o rep)

def fStm (r : Raw) : P Instr := do
  pZ 0 r.a; let k ← pN 1 8 r.b; let t ← pR 2 r.c; let o ← pSI 3 r.d; let rep ← pRep 4 r.e
  let h ← pHead .ste .zero r
  .ok (.stm h k t o rep)

/-- Slot D of an atomic: the compare operand of CAS, else zero (09 R165). -/
def pCas (op : AmoOp) (x : Nat) : P (Option SOp) :=
  if op = .cas then some <$> pSI 3 x else (do pZ 3 x; pure none)

/-- The parts of an atomic's modifier, in slot E. -/
structure AmoMod where
  op : AmoOp
  dbl : Bool
  ord : AmoOrd
  sc : Scope

/-- OP, SZ, ORD and SCOPE (09 R165, R166). -/
def amoMod (m : Nat) : Option AmoMod :=
  match AmoOp.ofCode (m % 16), AmoOrd.ofCode (m / 32 % 4), Scope.ofCode (m / 128) with
  | some op, some ord, some sc =>
    if op = .fadd ∧ m / 16 % 2 = 0 then none else some ⟨op, decide (m / 16 % 2 = 0), ord, sc⟩
  | _, _, _ => none

/-- The modifier in slot E of an atomic. -/
def amoSlot (x : Nat) : Option AmoMod := if immMark ≤ x then amoMod (x - immMark) else none

/-- Slot D of an atomic as slot E's operation code asks for it; with an unassigned code it must be zero or an operand. -/
def pAmoOf (op : Option AmoOp) (d : Nat) : P (Option SOp) :=
  match op with
  | some op => pCas op d
  | none => if d = 0 then .ok none else some <$> pSI 3 d

/-- Slot D of an atomic, whose operation slot E names. -/
def pAmoD (d e : Nat) : P (Option SOp) := pAmoOf (AmoOp.ofCode ((e - immMark) % 16)) d

def fAmo (r : Raw) : P Instr := do
  let d ← pReq 64 r.wb r.a; let a ← pS 1 r.b; let b ← pSI 2 r.c
  let c ← pAmoD r.d r.e
  let m ← opt 4 (amoSlot r.e)
  let h ← pHead .lde .one r
  .ok (.amo h d a b c m.op m.dbl m.ord m.sc)

def fAmor (r : Raw) : P Instr := do
  let d ← pReq 64 r.wb r.a; let a ← pS 1 r.b; let b ← pSI 2 r.c
  let c ← pAmoD r.d r.e
  let m ← opt 4 (amoSlot r.e)
  if m.ord = .rlx then pure () else bad 4
  let h ← pHead .lde .one r
  .ok (.amor h d a b c m.op m.dbl m.sc)

def fFamo (r : Raw) : P Instr := do
  let d ← pReq 64 r.wb r.a; let a ← pS 1 r.b; let b ← pSI 2 r.c; let st ← pS 3 r.d
  let m ← opt 4 (amoSlot r.e)
  if m.op ≠ .cas ∧ m.sc.fabric = true then pure () else bad 4
  let h ← pHead .lde .one r
  .ok (.famo h d a b st m.op m.dbl m.ord m.sc)

def fRed' (r : Raw) : P Instr := do
  pZ 0 r.a; let v ← pVP 1 r.b; let t ← pR 2 r.c; let o ← pSI 3 r.d; let m ← pM 4 r.e
  let k ← opt 4 (Comb3.ofCode m)
  let h ← pHead .ste .zero r
  .ok (.red h v t o k)

def fUpdr (r : Raw) : P Instr := do
  pZ 0 r.a; let v ← pVP 1 r.b; let t ← pR 2 r.c; let s ← pS 3 r.d; let m ← pM 4 r.e
  let k ← opt 4 (UpdKind.ofCode m)
  let h ← pHead .ste .zero r
  .ok (.updr h v t s k)

def fBoarm (r : Raw) : P Instr := do
  pZ 0 r.a; let bo ← pR 1 r.b; let n ← pSI 2 r.c
  match n with
  | .src _ => pure ()
  | .imm v => if 1 ≤ v.toNat ∧ v.toNat < 32768 then pure () else .error (.value 2 (v.signExtend 64))
  pZ 3 r.d; pZ 4 r.e
  let h ← pHead .ste .zero r
  .ok (.boarm h bo n)

def fBoclr (r : Raw) : P Instr := do
  pZ 0 r.a; let bo ← pR 1 r.b
  pZ 2 r.c; pZ 3 r.d; pZ 4 r.e
  let h ← pHead .ste .zero r
  .ok (.boclr h bo)

def fBord (r : Raw) : P Instr := do
  let d ← pReq 64 r.wb r.a; let bo ← pR 1 r.b; let m ← pKind 2 4 r.c
  pZ 3 r.d; pZ 4 r.e
  let h ← pHead .lde .one r
  .ok (.bord h d bo (Fin.ofNat 4 m))

/-- OPC 0x180 to 0x1A2. -/
def decMem (r : Raw) : P Instr :=
  match r.opc with
  | 0x180 => fLdv r | 0x181 => fStv r | 0x182 => fLdvt r | 0x183 => fLdvg r | 0x184 => fStvs r | 0x185 => fLdsc r
  | 0x186 => fStsc r | 0x187 => fLda r | 0x188 => fStl r | 0x189 => fLdm r | 0x18A => fStm r | 0x190 => fAmo r
  | 0x191 => fRed' r | 0x192 => fUpdr r | 0x193 => fFamo r | 0x194 => fAmor r | 0x1A0 => fBoarm r
  | 0x1A1 => fBoclr r | 0x1A2 => fBord r
  | _ => .error .opcode

/-- A combining kind in slot E. -/
def pComb (x : Nat) : P Comb3 := do
  let m ← pM 4 x
  opt 4 (Comb3.ofCode m)

def fRls (r : Raw) : P Instr := do
  pZ 0 r.a; let bo ← pR 1 r.b; let ch ← pS 2 r.c; let v ← pSI 3 r.d
  pZ 4 r.e
  let h ← pHead .other .zero r
  .ok (.rls h bo ch v)

/-- z ri si si z; an immediate in slot C is below `lim`. -/
def fAcq (lim : Nat) (mk : Head → Ref → SOp → SOp → Instr) (r : Raw) : P Instr := do
  pZ 0 r.a; let bo ← pR 1 r.b; let f ← pSI 2 r.c
  pBelow 2 lim f
  let v ← pSI 3 r.d
  pZ 4 r.e
  let h ← pHead .other .zero r
  .ok (mk h bo f v)

/-- OPC 0x200 to 0x208. -/
def decCopy (r : Raw) : P Instr :=
  match r.opc with
  | 0x200 => fCpy .cpy (pRep 4) r | 0x201 => fCpy .cpym (pS 4) r | 0x202 => fCpy .cpyr pComb r
  | 0x203 => fCpy .cpyd (pSI 4) r | 0x204 => fCpy .mlr pComb r | 0x205 => fCpy .mst (pS 4) r | 0x206 => fRls r
  | 0x207 => fAcq 65536 .acqw r | 0x208 => fAcq 64 .agset r
  | _ => .error .opcode

/-! ## Array, special-function and privileged forms (10, 20 R321) -/

def fXupd (r : Raw) : P Instr := do
  pZ 0 r.a; let t ← pT 1 r.b; let cb ← pS 2 r.c; let x ← pVL 3 r.d; let y ← pVL 4 r.e
  let h ← pHead .other .zero r
  .ok (.xupd h t cb x y)

/-- XWSET, whose source may be an immediate by its form; no immediate holds a valid window, and R211 refuses its value. -/
def fXwset (r : Raw) : P Instr := do
  let w ← pReq 8 r.wb r.a; let a ← pSI 1 r.b
  pZ 2 r.c; pZ 3 r.d; pZ 4 r.e
  let h ← pHead .other .one r
  .ok (.xwset h w a)

def fXfence (r : Raw) : P Instr := do
  pZ 0 r.a; let t ← pT 1 r.b
  let all := decide (immMark + 4 ≤ r.d ∧ r.d < immMark + 8)
  if all = true ∧ t ≠ .imm 0 then bad 1 else pure ()
  let bo ← pSI 2 r.c
  pBelow 2 4096 bo
  let m ← pKind 3 8 r.d
  if m % 4 = 3 then bad 3 else pure ()
  pZ 4 r.e
  let h ← pHead .other .zero r
  .ok (if m % 4 = 0 then .xfenceDrain h t bo all else if m % 4 = 1 then .xfenceHold h t bo all
    else .xfenceRel h t bo all)

/-- OPC 0x280 to 0x290. -/
def decArray (r : Raw) : P Instr :=
  match r.opc with
  | 0x280 => fTSVR .xfwd r | 0x281 => fTSV .xfwdb r | 0x282 => fTSVR .xbwd r | 0x283 => fXupd r
  | 0x284 => fTS .xxfr r | 0x285 => fTSV .xtopk r | 0x286 => fTSV .xdist r | 0x287 => fTS .xsym r
  | 0x288 => fTS .xckr r | 0x289 => fTS .xprg r | 0x28A => fTS .xscrb r | 0x28B => fTS .xcal r
  | 0x28C => fTS .xnorm r | 0x28D => fXwset r | 0x28E => fTS .xgset r | 0x28F => fXfence r | 0x290 => fTS .xstat r
  | _ => .error .opcode

/-- OPC 0x300 to 0x30E. -/
def decSf (r : Raw) : P Instr :=
  match r.opc with
  | 0x300 => fSf .fexp r | 0x301 => fSf .fexp2 r | 0x302 => fSf .flog r | 0x303 => fSf .flog2 r
  | 0x304 => fSf .frcp r | 0x305 => fSf .frsq r | 0x306 => fSf .fsqrt r | 0x307 => fSf .ftanh r
  | 0x308 => fSf .fsig r | 0x309 => fSf .fgelu r | 0x30A => fSf .fsilu r | 0x30B => fSf .fsin r
  | 0x30C => fSf .fcos r | 0x30D => fSf .ferf r | 0x30E => fSf .fsmax r
  | _ => .error .opcode

def fMtsp (r : Raw) : P Instr := do
  pZ 0 r.a; let n ← pX 1 r.b
  let x ← opt 1 (PrivName.ofCode n)
  let a ← pSI 2 r.c
  pZ 3 r.d; pZ 4 r.e
  let h ← pHead .other .zero r
  .ok (.mtsp h x a)

def fMfsp (r : Raw) : P Instr := do
  let d ← pSD r.wb r.a; let n ← pX 1 r.b
  let x ← opt 1 (PrivName.ofCode n)
  pZ 2 r.c; pZ 3 r.d; pZ 4 r.e
  let h ← pHead .other .any r
  .ok (.mfsp h d x)

/-- OPC 0x340 to 0x345. -/
def decPriv (r : Raw) : P Instr :=
  match r.opc with
  | 0x340 => fZ .halt r | 0x341 => fS .snap r | 0x342 => fS .rstr r | 0x343 => fMtsp r | 0x344 => fMfsp r
  | 0x345 => fZ .idle r
  | _ => .error .opcode

/-- The opcode map (06 R91, R92). -/
def decodeRaw (r : Raw) : P Instr :=
  if r.opc < 0x030 then decControl r
  else if r.opc < 0x080 then decScalar r
  else if r.opc < 0x0B0 then decVec1 r
  else if r.opc < 0x180 then decVec2 r
  else if r.opc < 0x200 then decMem r
  else if r.opc < 0x280 then decCopy r
  else if r.opc < 0x300 then decArray r
  else if r.opc < 0x340 then decSf r
  else decPriv r

/-- The instruction of a word, or why it raises ILLOP (06 R93 order 1). -/
def decode (w : W128) : P Instr := decodeRaw (Raw.ofWord w)

/-- The decoder over a word whose bits are a number: the row's first `nbits` bits, the rest zero. -/
def decodeTableWord (nbits w : Nat) : Option Instr :=
  match decode (BitVec.ofNat 128 (w % 2 ^ nbits)) with
  | .ok i => some i
  | .error _ => none

/-! ## The encoder (06 R79 to R90 and the slot tables) -/

def eI (v : W16) : Nat := immMark + v.toNat

def eM (m : Nat) : Nat := immMark + m

def eN (n : Nat) : Nat := n * 64

def eS : SSrc → Nat
  | .s n pk => n.val * 64 + b2n pk * 32
  | .ls => 2 * 65536 + 2 * 64

def eSI : SOp → Nat
  | .src x => eS x
  | .imm v => eI v

def eLoc : VLoc → Nat
  | .main n pk => n.val * 64 + b2n pk * 32
  | .opf n => 65536 + n.val * 64
  | .lv => 2 * 65536
  | .ll => 2 * 65536 + 64

def eV (v : VSrc) : Nat := eLoc v.loc + v.part.code * 2 + b2n v.swp

def eVI : VOp → Nat
  | .src x => eV x
  | .imm v => eI v

def eVL : VLm → Nat
  | .src x => eV x
  | .lm => immMark

def eVZ : Option VSrc → Nat
  | some x => eV x
  | none => immMark

def eR : Ref → Nat
  | .imm n => immMark + n.toNat
  | .src x => eS x

def eT : TileRef → Nat
  | .imm n => immMark + n.val
  | .src x => eS x

def eRep : Rep → Nat
  | .imm n => immMark + n.toNat
  | .src x => eS x

def eLw : Lw → Nat
  | .imm v => eI v
  | .src x => eS x

def eSD : SDst → Nat
  | none => 0
  | some n => eN n.val

def eVD : VDst → Nat
  | .latch => 0
  | .main n => eN n.val
  | .opf n => 65536 + n.val * 64

/-- WB of an optional destination. -/
def SDst.wb (d : SDst) : Nat := b2n d.isSome

def VDst.wb : VDst → Nat
  | .latch => 0
  | _ => 1

def ePOp : PredOp → Nat
  | .p n => eN n.val
  | .imm b => immMark + b2n b

def FifoName.num : FifoName → Nat
  | .v n => n.val
  | .s n => n.val

def FifoName.kind : FifoName → Nat
  | .v _ => 0
  | .s _ => 1

def MfsName.num : MfsName → Nat
  | .sys r => r.code
  | .bar n => n.val
  | .win n => n.val

def MfsName.kind : MfsName → Nat
  | .sys _ => 0
  | .bar _ => 1
  | .win _ => 2

/-- A word from its opcode, header, writeback level and slots. -/
def enc (opc : Nat) (h : Head) (wb a b c d e : Nat) : Raw :=
  { opc := opc, ga := h.ga.val, gan := b2n h.gan, gb := h.gb.val, gbn := b2n h.gbn, ch := h.ch.code,
    stall := h.stall.val, yld := b2n h.yld, pb := h.pb.toNat, pa := h.pa.toNat, wb := wb, rsv := 0,
    a := a, b := b, c := c, d := d, e := e }

def eDSS (opc : Nat) (h : Head) (d : SDst) (a : SSrc) (b : SOp) : Raw := enc opc h d.wb (eSD d) (eS a) (eSI b) 0 0

def eDS (opc : Nat) (h : Head) (d : SDst) (a : SSrc) : Raw := enc opc h d.wb (eSD d) (eS a) 0 0 0

def eV3 (opc : Nat) (h : Head) (d : VDst) (b : VSrc) (c : VOp) (m : Nat) : Raw :=
  enc opc h d.wb (eVD d) (eV b) (eVI c) (eM m) 0

def eV4 (opc : Nat) (h : Head) (d : VDst) (b : VSrc) (c e : VOp) : Raw :=
  enc opc h d.wb (eVD d) (eV b) (eVI c) (eVI e) 0

def eV2 (opc : Nat) (h : Head) (d : VDst) (b : VSrc) (m : Nat) : Raw :=
  enc opc h d.wb (eVD d) (eV b) (eM m) 0 0

/-- MSK, RM and target tag of a modifier (08 R127). -/
def mFt (m : Nat) (rm : RM) (ft : Fmt) : Nat := m + rm.code * 8 + ft.code * 128

/-- The modifier of an atomic (09 R165). -/
def eAmo (op : AmoOp) (dbl : Bool) (ord : AmoOrd) (sc : Scope) : Nat :=
  eM (op.code + b2n (!dbl) * 16 + ord.code * 32 + sc.code * 128)

/-- Slot D of an atomic. -/
def eCas : Option SOp → Nat
  | some c => eSI c
  | none => 0

/-- Scope and size of LDA and STL. -/
def eLdaMod (dbl : Bool) (sc : Scope) : Nat := eM (sc.code + (2 + b2n dbl) * 8)

def eTS (opc : Nat) (h : Head) (t : TileRef) (cb : SSrc) (x y : Nat) : Raw := enc opc h 0 0 (eT t) (eS cb) x y

def eSf (opc : Nat) (h : Head) (bo : Ref) (cb : SSrc) (acc : Bool) (rep : Rep) : Raw :=
  enc opc h 0 0 (eR bo) (eS cb) (eM (b2n acc)) (eRep rep)

def eXfence (h : Head) (t : TileRef) (bo : SOp) (mode : Nat) (all : Bool) : Raw :=
  enc 0x28F h 0 0 (eT t) (eSI bo) (eM (mode + b2n all * 4)) 0

/-- The fields of an instruction's word; an event has none. -/
def encodeRaw : Instr → Option Raw
  | .nop h => some (enc 0x000 h 0 0 0 0 0 0)
  | .br h d => some (enc 0x001 h 0 0 (eI (d.extractLsb' 16 16)) (eI (d.extractLsb' 0 16)) 0 0)
  | .brc h c a b d => some (enc 0x002 h 0 0 (eS a) (eSI b) (eM c.code) (eI d))
  | .bri h a => some (enc 0x003 h 0 0 (eS a) 0 0 0)
  | .call h d t => some (enc 0x004 h d.wb (eSD d) (eI (t.extractLsb' 16 16)) (eI (t.extractLsb' 0 16)) 0 0)
  | .ret h a => some (enc 0x005 h 0 0 (eS a) 0 0 0)
  | .loop h d a t => some (enc 0x006 h d.wb (eSD d) (eS a) (eI t) 0 0)
  | .wait h => some (enc 0x007 h 0 0 0 0 0 0)
  | .yield h => some (enc 0x008 h 0 0 0 0 0 0)
  | .exit h => some (enc 0x009 h 0 0 0 0 0 0)
  | .beat h => some (enc 0x00A h 0 0 0 0 0 0)
  | .phase h d => some (enc 0x00B h d.wb (eSD d) 0 0 0 0)
  | .lock h => some (enc 0x00C h 0 0 0 0 0 0)
  | .bara h d n c => some (enc 0x00D h d.wb (eSD d) (eN n.val) (eSI c) 0 0)
  | .barw h n p => some (enc 0x00E h 0 0 (eN n.val) (eSI p) 0 0)
  | .baraw h n c => some (enc 0x00F h 0 0 (eN n.val) (eSI c) 0 0)
  | .tokin h k mb => some (enc 0x010 h 0 0 (eSI mb) (eM k.code) 0 0)
  | .tokout h k st mb => some (enc 0x011 h 0 0 (eSI st) (eSI mb) (eM k.code) 0)
  | .stamp h d o => some (enc 0x012 h d.wb (eSD d) (eSI o) 0 0 0)
  | .tsr h d e => some (enc 0x013 h 1 (eN d.val) (eN e.val) 0 0 0)
  | .sleepc h a => some (enc 0x014 h 0 0 (eS a) 0 0 0)
  | .sleepp h bo ph => some (enc 0x015 h 0 0 (eSI bo) (eSI ph) 0 0)
  | .waitp h bo ph => some (enc 0x016 h 0 0 (eSI bo) (eSI ph) 0 0)
  | .trap h c => some (enc 0x017 h 0 0 (eI c) 0 0 0)
  | .rtt h => some (enc 0x018 h 0 0 0 0 0 0)
  | .mfs h d n => some (enc 0x019 h d.wb (eSD d) (eN n.num) (eM n.kind) 0 0)
  | .mts h r a => some (enc 0x01A h 0 0 (eN r.code) (eSI a) 0 0)
  | .loc h sl d a => some (enc 0x01B h d.wb (eSD d) (eSI a) (eM (b2n sl)) 0 0)
  | .fence h sc pre post => some (enc 0x020 h 0 0 (eM sc.code) (eM (pre.toNat + post.toNat * 16)) 0 0)
  | .fsc h sc => some (enc 0x021 h 0 0 (eM sc.code) 0 0 0)
  | .mark h => some (enc 0x022 h 0 0 0 0 0 0)
  | .tfence h none => some (enc 0x023 h 0 0 (eM 0) 0 0 0)
  | .tfence h (some a) => some (enc 0x023 h 0 0 (eM 1) (eS a) 0 0)
  | .rcfence h none => some (enc 0x024 h 0 0 (eM 1) 0 0 0)
  | .rcfence h (some t) => some (enc 0x024 h 0 0 (eM 0) (eSI t) 0 0)
  | .icfence h => some (enc 0x025 h 0 0 0 0 0 0)
  | .li h d v => some (enc 0x030 h d.wb (eSD d) (eI (v.extractLsb' 48 16)) (eI (v.extractLsb' 32 16))
      (eI (v.extractLsb' 16 16)) (eI (v.extractLsb' 0 16)))
  | .mov h d a => some (enc 0x031 h d.wb (eSD d) (eSI a) 0 0 0)
  | .add h d a b => some (eDSS 0x032 h d a b)
  | .sub h d a b => some (eDSS 0x033 h d a b)
  | .mul h d a b => some (eDSS 0x034 h d a b)
  | .mulh h d a b => some (eDSS 0x035 h d a b)
  | .mulhu h d a b => some (eDSS 0x036 h d a b)
  | .div h d a b => some (eDSS 0x037 h d a b)
  | .divu h d a b => some (eDSS 0x038 h d a b)
  | .rem h d a b => some (eDSS 0x039 h d a b)
  | .remu h d a b => some (eDSS 0x03A h d a b)
  | .and h d a b => some (eDSS 0x03B h d a b)
  | .or h d a b => some (eDSS 0x03C h d a b)
  | .xor h d a b => some (eDSS 0x03D h d a b)
  | .andn h d a b => some (eDSS 0x03E h d a b)
  | .shl h d a b => some (eDSS 0x03F h d a b)
  | .shr h d a b => some (eDSS 0x040 h d a b)
  | .sar h d a b => some (eDSS 0x041 h d a b)
  | .rol h d a b => some (eDSS 0x042 h d a b)
  | .clz h d a => some (eDS 0x043 h d a)
  | .ctz h d a => some (eDS 0x044 h d a)
  | .popc h d a => some (eDS 0x045 h d a)
  | .abs h d a => some (eDS 0x051 h d a)
  | .min h d a b => some (eDSS 0x046 h d a b)
  | .max h d a b => some (eDSS 0x047 h d a b)
  | .minu h d a b => some (eDSS 0x048 h d a b)
  | .maxu h d a b => some (eDSS 0x049 h d a b)
  | .sel h d p a b => some (enc 0x04A h d.wb (eSD d) (eN p.val) (eS a) (eSI b) 0)
  | .cmp h c d a b => some (enc 0x04B h 1 (eN d.val) (eS a) (eSI b) (eM c.code) 0)
  | .sext h d a w => some (enc 0x04C h d.wb (eSD d) (eS a) (eI w) 0 0)
  | .zext h d a w => some (enc 0x04D h d.wb (eSD d) (eS a) (eI w) 0 0)
  | .aidx h d a b k => some (enc 0x04E h d.wb (eSD d) (eS a) (eSI b) (eI k) 0)
  | .bfx h d a p l => some (enc 0x04F h d.wb (eSD d) (eS a) (eI p) (eI l) 0)
  | .bfi h d a b p l => some (enc 0x050 h d.wb (eSD d) (eS a) (eSI b) (eI p) (eI l))
  | .pand h d a b => some (enc 0x058 h 1 (eN d.val) (eN a.val) (eN b.val) 0 0)
  | .por h d a b => some (enc 0x059 h 1 (eN d.val) (eN a.val) (eN b.val) 0 0)
  | .pxor h d a b => some (enc 0x05A h 1 (eN d.val) (eN a.val) (eN b.val) 0 0)
  | .pnot h d a => some (enc 0x05B h 1 (eN d.val) (eN a.val) 0 0 0)
  | .pmov h d a => some (enc 0x05C h 1 (eN d.val) (ePOp a) 0 0 0)
  | .fcnt h d n => some (enc 0x060 h d.wb (eSD d) (eN n.num) (eM n.kind) 0 0)
  | .fdrop h n => some (enc 0x061 h 0 0 (eN n.num) (eM n.kind) 0 0)
  | .fclr h n => some (enc 0x062 h 0 0 (eN n.num) (eM n.kind) 0 0)
  | .vadd h d b c m rm sat => some (eV3 0x080 h d b c (m.val + rm.code * 8 + b2n sat * 64))
  | .vsub h d b c m rm sat => some (eV3 0x081 h d b c (m.val + rm.code * 8 + b2n sat * 64))
  | .vmul h d b c m rm sat => some (eV3 0x082 h d b c (m.val + rm.code * 8 + b2n sat * 64))
  | .vfma h d b c e => some (eV4 0x083 h d b c e)
  | .vfms h d b c e => some (eV4 0x084 h d b c e)
  | .vnfma h d b c e => some (eV4 0x085 h d b c e)
  | .vmin h d b c m => some (eV3 0x086 h d b c m.val)
  | .vmax h d b c m => some (eV3 0x087 h d b c m.val)
  | .vabs h d b m => some (eV2 0x088 h d b m.val)
  | .vneg h d b m => some (eV2 0x089 h d b m.val)
  | .vclamp h d b c e => some (eV4 0x08A h d b c e)
  | .vcmp h k d b c m => some (enc 0x08B h 1 (eN d.val) (eV b) (eVI c) (eM (m.val + k.code * 128)) 0)
  | .vsel h d k b c => some (enc 0x08C h d.wb (eVD d) (eN k.val) (eV b) (eVI c) 0)
  | .vand h d b c m => some (eV3 0x08D h d b c m.val)
  | .vor h d b c m => some (eV3 0x08E h d b c m.val)
  | .vxor h d b c m => some (eV3 0x08F h d b c m.val)
  | .vnot h d b m => some (eV2 0x090 h d b m.val)
  | .vshl h d b c m => some (eV3 0x091 h d b c m.val)
  | .vshr h d b c m => some (eV3 0x092 h d b c m.val)
  | .vsar h d b c m => some (eV3 0x093 h d b c m.val)
  | .vmulh h d b c m => some (eV3 0x094 h d b c m.val)
  | .vclz h d b m => some (eV2 0x095 h d b m.val)
  | .vpopc h d b m => some (eV2 0x096 h d b m.val)
  | .vcvt h d b m rm ft none => some (eV2 0x097 h d b (mFt m.val rm ft))
  | .vcvt h d b m rm ft (some (sg, sp)) =>
    some (enc 0x097 h d.wb (eVD d) (eV b) (eM (mFt m.val rm ft)) (eS sg) (eS sp))
  | .vtag h d b m ft => some (eV2 0x098 h d b (m.val + ft.code * 128))
  | .vround h d b m rm => some (eV2 0x099 h d b (m.val + rm.code * 8))
  | .vpack h d b c m rm ft => some (enc 0x0A0 h d.wb (eVD d) (eV b) (eV c) (eM (mFt m.val rm ft)) 0)
  | .vunpkl h d b m rm => some (eV2 0x0A1 h d b (m.val + rm.code * 8))
  | .vunpkh h d b m rm => some (eV2 0x0A2 h d b (m.val + rm.code * 8))
  | .vblks h d b c rm ft q => some (enc 0x0A3 h d.wb (eVD d) (eV b) (eVZ c) (eM (mFt 0 rm ft + q.val * 2048)) 0)
  | .vblkg h d b m rm ft q => some (eV2 0x0A4 h d b (mFt m.val rm ft + q.val * 2048))
  | .vacc12 h d a x sg sp => some (enc 0x0A5 h d.wb (eVD d) (eV a) (eVI x) (eS sg) (eS sp))
  | .vdot2 h d a b c => some (enc 0x0B0 h d.wb (eVD d) (eV a) (eV b) (eVI c) 0)
  | .vdot4 h d a b c => some (enc 0x0B1 h d.wb (eVD d) (eV a) (eV b) (eVI c) 0)
  | .vdot8 h d a b c => some (enc 0x0B2 h d.wb (eVD d) (eV a) (eV b) (eVI c) 0)
  | .vrotr h d b k m => some (enc 0x0C0 h d.wb (eVD d) (eV b) (eSI k) (eM m.val) 0)
  | .vrotc h d b k m => some (enc 0x0C1 h d.wb (eVD d) (eV b) (eSI k) (eM m.val) 0)
  | .vbcr h d b k m => some (enc 0x0C2 h d.wb (eVD d) (eV b) (eSI k) (eM m.val) 0)
  | .vbcc h d b k m => some (enc 0x0C3 h d.wb (eVD d) (eV b) (eSI k) (eM m.val) 0)
  | .vredr h d b m rm k => some (eV2 0x0C4 h d b (m.val + rm.code * 8 + k.code * 128))
  | .vredc h d b m rm k => some (eV2 0x0C5 h d b (m.val + rm.code * 8 + k.code * 128))
  | .vscanr h d b m rm k => some (eV2 0x0C6 h d b (m.val + rm.code * 8 + k.code * 128))
  | .vscanc h d b m rm k => some (eV2 0x0C7 h d b (m.val + rm.code * 8 + k.code * 128))
  | .vshfr h d b x m => some (enc 0x0C8 h d.wb (eVD d) (eV b) (eV x) (eM m.val) 0)
  | .vtrb h d b m => some (eV2 0x0C9 h d b m.val)
  | .viota h d st sd m ft => some (enc 0x0CA h d.wb (eVD d) (eSI st) (eSI sd) (eM (m.val + ft.code * 128)) 0)
  | .vmov h d b => some (enc 0x0CB h d.wb (eVD d) (eV b) 0 0 0)
  | .vsplat h d a m ft => some (enc 0x0D0 h d.wb (eVD d) (eSI a) (eM (m.val + ft.code * 128)) 0 0)
  | .vext h d b e sx => some (enc 0x0D1 h 1 (eN d.val) (eV b) (eSI e) (eM (b2n sx * 128)) 0)
  | .vins h d b a e => some (enc 0x0D2 h d.wb (eVD d) (eV b) (eS a) (eSI e) 0)
  | .vrng h d sg sp m k => some (enc 0x0E0 h d.wb (eVD d) (eS sg) (eS sp) (eM (m.val + k.code * 128)) 0)
  | .vdrop h d b sg sp kt => some (enc 0x0E1 h d.wb (eVD d) (eV b) (eS sg) (eS sp) (eI kt))
  | .mand h d a b => some (enc 0x0F0 h 1 (eN d.val) (eN a.val) (eN b.val) 0 0)
  | .mor h d a b => some (enc 0x0F1 h 1 (eN d.val) (eN a.val) (eN b.val) 0 0)
  | .mxor h d a b => some (enc 0x0F2 h 1 (eN d.val) (eN a.val) (eN b.val) 0 0)
  | .mnot h d a => some (enc 0x0F3 h 1 (eN d.val) (eN a.val) 0 0 0)
  | .mcnt h d a => some (enc 0x0F4 h 1 (eN d.val) (eN a.val) 0 0 0)
  | .mfirst h d a => some (enc 0x0F5 h 1 (eN d.val) (eN a.val) 0 0 0)
  | .ldv h d t o rep => some (enc 0x180 h d.wb (eVD d) (eR t) (eSI o) 0 (eRep rep))
  | .stv h v t o rep => some (enc 0x181 h 0 0 (eV v) (eR t) (eSI o) (eRep rep))
  | .ldvt h d t s tr => some (enc 0x182 h d.wb (eVD d) (eR t) (eS s) (eM (b2n tr)) 0)
  | .ldvg h d t v c => some (enc 0x183 h d.wb (eVD d) (eR t) (eV v) (eSI c) 0)
  | .stvs h v t x c => some (enc 0x184 h 0 0 (eV v) (eR t) (eV x) (eSI c))
  | .ldsc h d t o sz sx rep => some (enc 0x185 h 1 (eN d.val) (eR t) (eSI o) (eM (sz.code + b2n sx * 4)) (eRep rep))
  | .stsc h a t o sz => some (enc 0x186 h 0 0 (eS a) (eR t) (eSI o) (eM sz.code))
  | .lda h d t o dbl sc => some (enc 0x187 h 1 (eN d.val) (eR t) (eSI o) (eLdaMod dbl sc) 0)
  | .stl h a t o dbl sc => some (enc 0x188 h 0 0 (eS a) (eR t) (eSI o) (eLdaMod dbl sc))
  | .ldm h d t o rep => some (enc 0x189 h 1 (eN d.val) (eR t) (eSI o) 0 (eRep rep))
  | .stm h a t o rep => some (enc 0x18A h 0 0 (eN a.val) (eR t) (eSI o) (eRep rep))
  | .amo h d a b c op dbl ord sc => some (enc 0x190 h 1 (eN d.val) (eS a) (eSI b) (eCas c) (eAmo op dbl ord sc))
  | .famo h d a b st op dbl ord sc => some (enc 0x193 h 1 (eN d.val) (eS a) (eSI b) (eS st) (eAmo op dbl ord sc))
  | .amor h d a b c op dbl sc => some (enc 0x194 h 1 (eN d.val) (eS a) (eSI b) (eCas c) (eAmo op dbl .rlx sc))
  | .red h v t o k => some (enc 0x191 h 0 0 (eV v) (eR t) (eSI o) (eM k.code))
  | .updr h v t s k => some (enc 0x192 h 0 0 (eV v) (eR t) (eS s) (eM k.code))
  | .boarm h bo n => some (enc 0x1A0 h 0 0 (eR bo) (eSI n) 0 0)
  | .boclr h bo => some (enc 0x1A1 h 0 0 (eR bo) 0 0 0)
  | .bord h d bo w => some (enc 0x1A2 h 1 (eN d.val) (eR bo) (eM w.val) 0 0)
  | .cpy h bo dst src rep => some (enc 0x200 h 0 0 (eR bo) (eLw dst) (eLw src) (eRep rep))
  | .cpym h bo dst src m => some (enc 0x201 h 0 0 (eR bo) (eLw dst) (eLw src) (eS m))
  | .cpyr h bo dst src k => some (enc 0x202 h 0 0 (eR bo) (eLw dst) (eLw src) (eM k.code))
  | .cpyd h bo dst src dig => some (enc 0x203 h 0 0 (eR bo) (eLw dst) (eLw src) (eSI dig))
  | .mlr h bo dst src k => some (enc 0x204 h 0 0 (eR bo) (eLw dst) (eLw src) (eM k.code))
  | .mst h bo dst src m => some (enc 0x205 h 0 0 (eR bo) (eLw dst) (eLw src) (eS m))
  | .rls h bo ch v => some (enc 0x206 h 0 0 (eR bo) (eS ch) (eSI v) 0)
  | .acqw h bo f v => some (enc 0x207 h 0 0 (eR bo) (eSI f) (eSI v) 0)
  | .agset h bo g rec => some (enc 0x208 h 0 0 (eR bo) (eSI g) (eSI rec) 0)
  | .xfwd h t cb x rep => some (eTS 0x280 h t cb (eVL x) (eRep rep))
  | .xfwdb h t cb x => some (eTS 0x281 h t cb (eVL x) 0)
  | .xbwd h t cb x rep => some (eTS 0x282 h t cb (eVL x) (eRep rep))
  | .xupd h t cb x y => some (eTS 0x283 h t cb (eVL x) (eVL y))
  | .xxfr h t cb => some (eTS 0x284 h t cb 0 0)
  | .xtopk h t cb x => some (eTS 0x285 h t cb (eVL x) 0)
  | .xdist h t cb x => some (eTS 0x286 h t cb (eVL x) 0)
  | .xsym h t cb => some (eTS 0x287 h t cb 0 0)
  | .xckr h t cb => some (eTS 0x288 h t cb 0 0)
  | .xprg h t cb => some (eTS 0x289 h t cb 0 0)
  | .xscrb h t cb => some (eTS 0x28A h t cb 0 0)
  | .xcal h t cb => some (eTS 0x28B h t cb 0 0)
  | .xnorm h t cb => some (eTS 0x28C h t cb 0 0)
  | .xwset h w a => some (enc 0x28D h 1 (eN w.val) (eSI a) 0 0 0)
  | .xgset h t cb => some (eTS 0x28E h t cb 0 0)
  | .xfenceDrain h t bo all => some (eXfence h t bo 0 all)
  | .xfenceHold h t bo all => some (eXfence h t bo 1 all)
  | .xfenceRel h t bo all => some (eXfence h t bo 2 all)
  | .xstat h t cb => some (eTS 0x290 h t cb 0 0)
  | .fexp h bo cb acc rep => some (eSf 0x300 h bo cb acc rep)
  | .fexp2 h bo cb acc rep => some (eSf 0x301 h bo cb acc rep)
  | .flog h bo cb acc rep => some (eSf 0x302 h bo cb acc rep)
  | .flog2 h bo cb acc rep => some (eSf 0x303 h bo cb acc rep)
  | .frcp h bo cb acc rep => some (eSf 0x304 h bo cb acc rep)
  | .frsq h bo cb acc rep => some (eSf 0x305 h bo cb acc rep)
  | .fsqrt h bo cb acc rep => some (eSf 0x306 h bo cb acc rep)
  | .ftanh h bo cb acc rep => some (eSf 0x307 h bo cb acc rep)
  | .fsig h bo cb acc rep => some (eSf 0x308 h bo cb acc rep)
  | .fgelu h bo cb acc rep => some (eSf 0x309 h bo cb acc rep)
  | .fsilu h bo cb acc rep => some (eSf 0x30A h bo cb acc rep)
  | .fsin h bo cb acc rep => some (eSf 0x30B h bo cb acc rep)
  | .fcos h bo cb acc rep => some (eSf 0x30C h bo cb acc rep)
  | .ferf h bo cb acc rep => some (eSf 0x30D h bo cb acc rep)
  | .fsmax h bo cb acc rep => some (eSf 0x30E h bo cb acc rep)
  | .halt h => some (enc 0x340 h 0 0 0 0 0 0)
  | .snap h a => some (enc 0x341 h 0 0 (eS a) 0 0 0)
  | .rstr h a => some (enc 0x342 h 0 0 (eS a) 0 0 0)
  | .mtsp h r a => some (enc 0x343 h 0 0 (eN r.code) (eSI a) 0 0)
  | .mfsp h d r => some (enc 0x344 h d.wb (eSD d) (eN r.code) 0 0 0)
  | .idle h => some (enc 0x345 h 0 0 0 0 0 0)
  | .stallExpiry .. | .berthSwitch .. | .waitWake .. | .sleepcWake .. | .sleeppWake .. | .waitpWake ..
  | .barrierWake .. | .barrierWaitTimeout .. | .tokinWake .. | .tokoutWake .. | .tokenInboxRoom .. | .idleWake ..
  | .droopAlarm .. | .stretchEnd .. | .halfRateWindowEnd .. | .resultWriteback .. | .enginePushResume ..
  | .vxeEntryStart .. | .ldeEntryStart .. | .steEntryStart .. | .memoryTransferPerformed ..
  | .engineEntryComplete .. | .deferredTrapTaken .. | .copyAccept .. | .copyUnitPerformed .. | .objectCount ..
  | .bargeSend .. | .operandLatched .. | .gateFlipSeen .. | .bargeIssue .. | .stampWindowExpiry ..
  | .arrCeilingAdmit .. | .arrayCommandComplete .. | .sfBargeStart | .sfTransferComplete .. | .dieJointFailure ..
  | .lockArrivalCount .. | .lockReportReceived .. | .trelReceived .. | .lockRelease .. | .barrierReleaseMessage ..
  | .estimatorWindow .. | .intervalBoundary | .thermalCeiling .. | .vecStepChange .. | .clockStopEnd
  | .thermalTrip .. | .quadPowerGate .. | .wakeRequest .. | .wakeHoldExpiry .. | .inrushAdmit .. | .railsStable ..
  | .transientRequest .. | .tokenMessageReceived .. | .requestResendTimeout .. | .persistentActivation ..
  | .persistentDeactivation .. | .lineEviction .. | .rlsMessageReceived .. | .rlsAckReceived ..
  | .fabricWriteReceived .. | .fabricResend .. | .agsetInstall .. | .qtailWrite .. | .slotRead ..
  | .dependenceTest .. | .turnGrant .. | .placement .. | .copyLaunch .. | .loadingComplete ..
  | .startingLockRelease .. | .completionWrite .. | .watchdogTest | .preemptionRequest .. | .imageWritten ..
  | .gangResume .. | .gctlResume .. | .gctlDiscard .. | .prepare .. | .prepareReply .. | .commit .. | .abort ..
  | .tlimExpiry .. | .gangBarrierTimeout .. | .partitionTableWrite .. | .addTwinWrite .. | .relTwinWrite ..
  | .rszackWrite .. | .resizeDeadline .. | .scrubGateDone .. | .tinvWrite .. | .tinvComplete ..
  | .pageWalkComplete .. | .bindUnbind .. | .flr .. | .flrReady .. | .hostWindowRead .. | .hostWindowWrite ..
  | .hostCompletion .. | .domainJoin | .domainLeave | .offsetMeasure .. | .pllLockLoss | .bportEnableWrite ..
  | .linkTrained .. | .trainingTimeout .. | .linkError .. | .retrainResult .. | .downRetry .. | .flitReplay ..
  | .portStateFlit .. | .maintenanceDue .. | .wornSet .. | .healthRecordAppend | .patrolScrub .. | .readhealth
  | .readtotals | .readcert | .quote | .signman | .install | .remap | .loadfw | .mailboxBadOp .. | .mailboxDone
  | .moduleReset | .bootVerify | .perstRelease | .powerLoss | .registerWrite .. | .rcRegisterRead ..
  | .fabricRequestReceived .. | .dieJointRetrained .. | .fabricPllLock | .timeExchange ..
  | .junctionTemperatureSample .. | .doeRequest .. => none

/-- The word of an instruction (06 R79). -/
def encode (i : Instr) : Option W128 := (encodeRaw i).map Raw.toWord

end Sys2Proof
end

