-- ==== Sys2Proof/Machine/Event.lean ====
section
/-! DEFINITION. The events of the opcode table as data that the state can queue: `Ev` has the event constructors of
`Instr` alone, so that a queue of events holds no word of a program (log 1). -/

namespace Sys2Proof.Machine

open Sys2Proof

/-- One constructor per event row of the opcode table, as in `Instr`. -/
inductive Ev
  -- events of the sequencer and of waits (06 R83, 07 R103 to R115, 02 R24)
  | stallExpiry (c : CoreId) (b : BerthId) | berthSwitch (c : CoreId) | waitWake (c : CoreId) (b : BerthId)
  | sleepcWake (c : CoreId) (b : BerthId) | sleeppWake (c : CoreId) (b : BerthId) | waitpWake (c : CoreId) (b : BerthId)
  | barrierWake (c : CoreId) (b : BerthId) | barrierWaitTimeout (c : CoreId) (b : BerthId)
  | tokinWake (c : CoreId) (b : BerthId) | tokoutWake (c : CoreId) (b : BerthId) | tokenInboxRoom (c : CoreId)
  | idleWake (c : CoreId) | droopAlarm (q : QuadId) | stretchEnd (q : QuadId) | halfRateWindowEnd (q : QuadId)
  -- events of the core's engines (02 R22, 06 R84, 09 R150 to R178)
  | resultWriteback (c : CoreId) | enginePushResume (c : CoreId) | vxeEntryStart (c : CoreId) | ldeEntryStart (c : CoreId)
  | steEntryStart (c : CoreId) | memoryTransferPerformed (c : CoreId) (u : MemUnit) (r : Reply)
  | engineEntryComplete (c : CoreId) | deferredTrapTaken (c : CoreId) (b : BerthId)
  | copyAccept (c : CoreId) (absent : W64) | copyUnitPerformed (c : CoreId) (k : Fin 8) (r : Reply)
  | objectCount (c : CoreId)
  -- events of the array and special-function dies (05 R61 to R76, 10 R194 to R220)
  | bargeSend (c : CoreId) (sf : Bool) | operandLatched (t : PairId) | gateFlipSeen (t : PairId) | bargeIssue (t : PairId)
  | stampWindowExpiry (t : PairId) | arrCeilingAdmit (t : PairId) | arrayCommandComplete (t : PairId) (fail : Bool)
  | sfBargeStart | sfTransferComplete (k : Nat) (fail : Bool) | dieJointFailure (j : Fin 24)
  -- lock and named barriers (12 R225 to R229)
  | lockArrivalCount (c : CoreId) | lockReportReceived (l : Nat) (m : BitVec 6 × Bool) (d : DieId)
  | trelReceived (l : Nat) (d : DieId) (trel : Option W64)
  | lockRelease (l : Nat) | barrierReleaseMessage (l : Nat) (d : DieId) (n : Fin 96)
  -- power (15 R272 to R284, 27 R382)
  | estimatorWindow (q : QuadId) | intervalBoundary | thermalCeiling (d : Fin 13) | vecStepChange (up : Bool) | clockStopEnd
  | thermalTrip (d : Fin 13) | quadPowerGate (q : QuadId) | wakeRequest (q : QuadId) | wakeHoldExpiry (q : QuadId)
  | inrushAdmit (d : DieId) | railsStable (q : QuadId)
  -- token coherence (14 R264 to R266)
  | transientRequest (d : DieId) (line : Nat) (wr : Bool) | tokenMessageReceived (k : Nat)
  | requestResendTimeout (d : DieId) (line : Nat) | persistentActivation (at_ d : DieId) (line : Nat) (wr : Bool)
  | persistentDeactivation (at_ d : DieId) (line : Nat) | lineEviction (h : Holder) (line : Nat)
  -- fabric (09 R186, R187, 22 R345)
  | rlsMessageReceived (p : PartId) (g : Fin 64) (rank : Fin 64) (scnt sseq : W32) (flag : BitVec 12) (val : W64)
  | rlsAckReceived (p : PartId) (g : Fin 64) (rank : Fin 64) (sseq : W32)
  | fabricWriteReceived (p : PartId) (g : Fin 64) (rank : Fin 64) (num : W32) (ppa : Bool) (va : W64)
    (bs : List Byte) (comb : Option (Comb3 × Fmt)) (obj : Option (Byte × Option (Fin 4096)) × Option (Byte × W64))
  | fabricResend (p : PartId) (g : Fin 64) (rank : Fin 64) | agsetInstall (c : CoreId)
  -- launches (19)
  | qtailWrite (b : Block) (q : Fin 64) (v : W16) | slotRead (b : Block) (q : Fin 64) | dependenceTest (l : Nat)
  | turnGrant (p : PartId) | placement (p : PartId) | copyLaunch (l : Nat) | loadingComplete (l : Nat)
  | startingLockRelease (l : Nat) | completionWrite (l : Nat) | watchdogTest | preemptionRequest (l : Nat)
  | imageWritten (l : Nat) | gangResume (l : Nat) | gctlResume (b : Block) (q : Fin 64) (seq : W16)
  | gctlDiscard (b : Block) (q : Fin 64) (seq : W16) | prepare (l : Nat) (gid : W32) (tlim : W64) (gang : Nat) (heat : Nat)
  | prepareReply (l : Nat) (rank : Fin 64) (ack : Option (BitVec 4)) | commit (gid : W32) (tc : W64) | abort (gid : W32)
  | tlimExpiry (l : Nat) | gangBarrierTimeout (l : Nat)
  -- partitions and translation (21)
  | partitionTableWrite (p : PartId) (r : PtReg) (v : W64) | addTwinWrite (p : PartId) (r : PtReg) (v : W64)
  | relTwinWrite (p : PartId) (r : PtReg) (v : W64) (deadline : W64) | rszackWrite (p : PartId) (rid : W16)
  | resizeDeadline (p : PartId) | scrubGateDone (x : Resource) (fails : W32) | tinvWrite (p : PartId) (v : W64)
  | tinvComplete (p : PartId) | pageWalkComplete (d : DieId) (p : PartId) (ctx : Byte) (va : W64)
  | bindUnbind (p : PartId) (idx : Fin 1024)
  -- host port (22 R337 to R340)
  | flr (p : PartId) | flrReady (p : PartId) | hostWindowRead (p : PartId) (off : BitVec 36) (n : Fin 4097)
  | hostWindowWrite (p : PartId) (off : BitVec 36) (bs : List Byte) | hostCompletion (c : CoreId) (u : MemUnit) (r : Reply)
  -- domain and Bluvy (22 R341 to R345)
  | domainJoin | domainLeave | offsetMeasure (off : Byte) | pllLockLoss | bportEnableWrite (n : Fin 48) (en : Bool)
  | linkTrained (n : Fin 48) (peer : BitVec 6) | trainingTimeout (n : Fin 48) | linkError (n : Fin 48)
  | retrainResult (n : Fin 48) (ok : Bool) | downRetry (n : Fin 48) | flitReplay (n : Fin 48)
  | portStateFlit (m : BitVec 6) (ups : BitVec 49)
  -- maintenance and health (25, 27)
  | maintenanceDue (t : PairId) (sym : Bool) | wornSet (t : PairId) | healthRecordAppend
  | patrolScrub (a : ErrAt) (bad : Bool)
  | readhealth | readtotals | readcert | quote | signman | install | remap | loadfw | mailboxBadOp (op : Byte) | mailboxDone
  | moduleReset | bootVerify | perstRelease | powerLoss | registerWrite (r : HostReg) (v : W64) | rcRegisterRead (r : HostReg)
  | fabricRequestReceived (p : PartId) (grp : Option (Fin 64)) (va : W64) (n : Fin 129) (op : Option (AmoOp × Bool × W64 × W64)) (from_ : BitVec 6)
  | dieJointRetrained (j : Fin 24) | fabricPllLock | timeExchange (off : W64) | junctionTemperatureSample (t : List Byte)
  | doeRequest (req : List Byte)
  deriving DecidableEq, Repr

end Sys2Proof.Machine
end

