-- ==== Sys2Proof/Machine/Num.lean ====
section
/-! DEFINITION. Number formats and exact arithmetic (spec 04 R42 to R58): exact reals, RoundTo, EncodeBlock, Cumin. -/

namespace Sys2Proof.Machine

open Sys2Proof

/-! ## Flags (04 R57) -/

/-- FPF values: NV [0], DZ [1], OF [2], UF [3], NX [4], SAT [5]. -/
abbrev Flags := BitVec 6

def Flags.nv : Flags := 1
def Flags.dz : Flags := 2
def Flags.ovf : Flags := 4
def Flags.uf : Flags := 8
def Flags.nx : Flags := 16
def Flags.sat : Flags := 32

/-! ## Formats (03 R34, 04 R42) -/

/-- Width of an element in bits. -/
def width : Fmt → Nat
  | .int32 | .fp32 | .acc12 | .none => 32
  | .bf16 | .fp16 | .int16 => 16
  | .e4m3 | .e5m2 | .int8 | .uint8 => 8
  | .e2m1s | .int4 => 4

/-- Elements per lane (03 R34); NONE counts as one 32-bit element. -/
def count (f : Fmt) : Nat := 32 / width f

/-- The formats that carry block scales (03 R35, 04 R46). -/
def isBlock : Fmt → Bool
  | .e4m3 | .e5m2 | .e2m1s => true
  | _ => false

/-- The integer formats (04 R48). -/
def isInt : Fmt → Bool
  | .int32 | .int16 | .int8 | .int4 | .uint8 => true
  | _ => false

/-- The floating arithmetic tags F of 08 R132. -/
def isFloat : Fmt → Bool
  | .fp32 | .bf16 | .fp16 | .acc12 => true
  | _ => false

/-- The arithmetic tags A of 08 R132. -/
def isArith (f : Fmt) : Bool := isInt f || isFloat f

/-- Mantissa bits (04 R50). -/
def mBits : Fmt → Nat
  | .fp32 => 23 | .fp16 => 10 | .bf16 => 7 | .acc12 => 12 | .e4m3 => 3 | .e5m2 => 2 | .e2m1s => 1
  | _ => 0

/-- Exponent bias (04 R42, R45). -/
def bias : Fmt → Nat
  | .fp32 | .bf16 | .acc12 => 127
  | .fp16 | .e5m2 => 15
  | .e4m3 => 7
  | .e2m1s => 1
  | _ => 0

/-- EMin(f) = 1 - bias (04 R50). -/
def eMin (f : Fmt) : Int := 1 - (bias f : Int)

/-- Width of the exponent field (04 R42). -/
def eBits : Fmt → Nat
  | .fp32 | .bf16 | .acc12 => 8
  | .fp16 | .e5m2 => 5
  | .e4m3 => 4
  | .e2m1s => 2
  | _ => 0

/-- Zero bits below the mantissa field: an ACC12 lane is an FP32 lane with bits [10:0] zero (04 R43). -/
def lowPad : Fmt → Nat
  | .acc12 => 11
  | _ => 0

/-- IsIEEE(f) (04 R50). -/
def isIEEE : Fmt → Bool := isFloat

/-- HasInf(f) (04 R50). -/
def hasInf : Fmt → Bool
  | .e5m2 => true
  | f => isIEEE f

/-- MaxFin(f) as mantissa and exponent (04 R42). -/
def maxFin : Fmt → Nat × Int
  | .fp32 => (2 ^ 24 - 1, 104) | .fp16 => (2047, 5) | .bf16 => (255, 120) | .acc12 => (2 ^ 13 - 1, 115)
  | .e4m3 => (14, 5) | .e5m2 => (7, 13) | .e2m1s => (3, 1)
  | _ => (0, 0)

/-- The canonical NaN (04 R42); E2M1 has none. -/
def nanCode : Fmt → W32
  | .fp32 | .acc12 => 0x7FC00000 | .fp16 => 0x7E00 | .bf16 => 0x7FC0 | .e4m3 => 0x7F | .e5m2 => 0x7E
  | _ => 0

/-- Place of the sign bit. -/
def signBit (f : Fmt) : Nat := width f - 1

/-- InfCode(f, sign) (04 R42). -/
def infCode (f : Fmt) (neg : Bool) : W32 :=
  BitVec.ofNat 32 (((2 ^ eBits f - 1) <<< (mBits f + lowPad f)) ||| (b2n neg <<< signBit f))

/-- Least value of an integer format. -/
def iMin : Fmt → Int
  | .int32 => -2147483648 | .int16 => -32768 | .int8 => -128 | .int4 => -8
  | _ => 0

/-- Greatest value of an integer format. -/
def iMax : Fmt → Int
  | .int32 => 2147483647 | .int16 => 32767 | .int8 => 127 | .int4 => 7 | .uint8 => 255
  | _ => 0

/-! ## Exact reals -/

/-- An exact extended real. `fin n m e st` is m x 2^e with sign n when `st` is false; with `st` true it is an
irrational or unfinished value strictly between m x 2^e and (m + 1) x 2^e in magnitude. -/
inductive XR | nan | inf (neg : Bool) | fin (neg : Bool) (m : Nat) (e : Int) (st : Bool)
  deriving DecidableEq, Repr

def XR.zero : XR := .fin false 0 0 false

/-- The exact real of an integer. -/
def XR.ofInt (i : Int) : XR := .fin (decide (i < 0)) i.natAbs 0 false

def XR.isNaN : XR → Bool
  | .nan => true
  | _ => false

def XR.isInf : XR → Bool
  | .inf _ => true
  | _ => false

def XR.isZero : XR → Bool
  | .fin _ 0 _ false => true
  | _ => false

def XR.neg : XR → Bool
  | .nan => false
  | .inf n => n
  | .fin n _ _ _ => n

/-- Sign change. -/
def XR.negate : XR → XR
  | .nan => .nan
  | .inf n => .inf (!n)
  | .fin n m e st => .fin (!n) m e st

/-- Magnitude. -/
def XR.abs : XR → XR
  | .nan => .nan
  | .inf _ => .inf false
  | .fin _ m e st => .fin false m e st

/-- Multiplication by 2^k. -/
def XR.scale (k : Int) : XR → XR
  | .fin n m e st => .fin n m (e + k) st
  | x => x

/-- A dyadic as an integer at exponent `at_`, which must not exceed its own. -/
def XR.mant (at_ : Int) : XR → Int
  | .fin n m e _ => let v : Int := (m <<< (e - at_).toNat : Nat); if n then -v else v
  | _ => 0

def XR.expo : XR → Int
  | .fin _ _ e _ => e
  | _ => 0

/-- The lower exponent of two dyadics. -/
def loExp (a b : XR) : Int := if a.expo ≤ b.expo then a.expo else b.expo

/-- Exact order of two numbers neither of which is NaN. -/
def XR.lt : XR → XR → Bool
  | .nan, _ => false
  | _, .nan => false
  | .inf na, .inf nb => na && !nb
  | .inf na, .fin .. => na
  | .fin .., .inf nb => !nb
  | a, b => decide (a.mant (loExp a b) < b.mant (loExp a b))

/-- Exact sum; `rd` is rounding mode RD, in which an exact cancellation is -0 (04 R44). The flag is NV on
infinities of both signs. -/
def XR.add (rd : Bool) : XR → XR → XR × Flags
  | .nan, _ => (.nan, 0)
  | _, .nan => (.nan, 0)
  | .inf na, .inf nb => if na = nb then (.inf na, 0) else (.nan, Flags.nv)
  | .inf na, .fin .. => (.inf na, 0)
  | .fin .., .inf nb => (.inf nb, 0)
  | .fin na ma ea sa, .fin nb mb eb sb =>
    let e := if ea ≤ eb then ea else eb
    let va : Int := (XR.fin na ma ea sa).mant e
    let vb : Int := (XR.fin nb mb eb sb).mant e
    let v := va + vb
    if v = 0 then (.fin (if ma = 0 ∧ mb = 0 ∧ na = nb then na else rd) 0 e false, 0)
    else (.fin (decide (v < 0)) v.natAbs e (sa || sb), 0)

/-- Exact difference. -/
def XR.sub (rd : Bool) (a b : XR) : XR × Flags := XR.add rd a b.negate

/-- Exact product; NV on 0 x infinity (04 R57). -/
def XR.mul : XR → XR → XR × Flags
  | .nan, _ => (.nan, 0)
  | _, .nan => (.nan, 0)
  | .inf na, .inf nb => (.inf (na != nb), 0)
  | .inf na, .fin nb mb _ _ => if mb = 0 then (.nan, Flags.nv) else (.inf (na != nb), 0)
  | .fin na ma _ _, .inf nb => if ma = 0 then (.nan, Flags.nv) else (.inf (na != nb), 0)
  | .fin na ma ea _, .fin nb mb eb _ => (.fin (na != nb) (ma * mb) (ea + eb) false, 0)

/-- floor(log2 |x|) of a nonzero finite value. -/
def XR.log2 : XR → Int
  | .fin _ m e _ => (Nat.log2 m : Int) + e
  | _ => 0

/-! ## RoundTo (04 R50) -/

/-- The mantissa step chosen by a rounding: `n` units below, remainder `r` of `2^k`, and a sticky part. -/
def roundUp (rm : RM) (neg : Bool) (n r k : Nat) (st : Bool) (d : W16) : Bool :=
  if r = 0 ∧ st = false then false
  else match rm with
    | .rne =>
      if 2 * r < 2 ^ k then false
      else if 2 * r > 2 ^ k then true
      else if st then true else n % 2 = 1
    | .rz => false
    | .ru => !neg
    | .rd => neg
    | .sr => decide ((if 16 ≤ k then r >>> (k - 16) else r <<< (16 - k)) + d.toNat ≥ 65536)

/-- RoundTo of a finite value into an integer format: code as a two's complement element. -/
def encInt (f : Fmt) (v : Int) : W32 := BitVec.ofNat 32 ((v % (2 ^ width f : Int)).toNat)

/-- Sat(v, f) for an integer format, with its SAT flag. -/
def satInt (f : Fmt) (v : Int) : W32 × Flags :=
  if v < iMin f then (encInt f (iMin f), Flags.sat)
  else if iMax f < v then (encInt f (iMax f), Flags.sat)
  else (encInt f v, 0)

/-- Sat at the largest finite value of a floating format. -/
def satCode (f : Fmt) (neg : Bool) : W32 :=
  let (m, e) := maxFin f
  BitVec.ofNat 32
    (((((e - (eMin f - (mBits f : Int))).toNat <<< mBits f) + m) <<< lowPad f) ||| (b2n neg <<< signBit f))

/-- The quantum exponent of a rounding: q = 2^(max(floor(log2 |x|), EMin) - MBits), or 1 for an integer. -/
def quantum (f : Fmt) (m : Nat) (e : Int) : Int :=
  if isInt f then 0
  else (if (Nat.log2 m : Int) + e < eMin f then eMin f else (Nat.log2 m : Int) + e) - (mBits f : Int)

/-- RoundTo (04 R50): the code in format `f` of the exact value, and the flags it sets. The format e2m1s stands
for the E2M1 element. -/
def roundTo (x : XR) (f : Fmt) (rm : RM) (d : W16) : W32 × Flags :=
  match x with
  | .nan => if isInt f then (0, Flags.nv) else (nanCode f, 0)
  | .inf neg =>
    if hasInf f then (infCode f neg, 0)
    else if isInt f then (encInt f (if neg then iMin f else iMax f), Flags.sat ||| Flags.nv)
    else (satCode f neg, Flags.sat)
  | .fin neg m e st =>
    let qe := quantum f m e
    let k := (qe - e).toNat
    let n := if e ≥ qe then m <<< (e - qe).toNat else m >>> k
    let r := if e ≥ qe then 0 else m % 2 ^ k
    let n' := if roundUp rm neg n r k st d then n + 1 else n
    let nx : Flags := if r = 0 ∧ st = false then 0 else Flags.nx
    if isInt f then
      let (c, fl) := satInt f (if neg then -(n' : Int) else n')
      (c, nx ||| fl)
    else
      let (xm, xe) := maxFin f
      let tooBig := decide ((XR.fin false xm xe false).lt (.fin false n' qe false))
      if tooBig then
        if isIEEE f ∧ (rm = .rne ∨ rm = .sr ∨ (rm = .ru ∧ neg = false) ∨ (rm = .rd ∧ neg = true)) then
          (infCode f neg, nx ||| Flags.ovf)
        else (satCode f neg, nx ||| Flags.ovf ||| (if isIEEE f then 0 else Flags.sat))
      else
        let uf : Flags := if n' < 2 ^ mBits f ∧ nx ≠ 0 then Flags.uf else 0
        if n' = 0 then
          (if f = .e2m1s then 0 else BitVec.ofNat 32 (b2n neg <<< signBit f), nx ||| uf)
        else
          let ex := (qe - (eMin f - (mBits f : Int))).toNat
          (BitVec.ofNat 32 ((((ex <<< mBits f) + n') <<< lowPad f) ||| (b2n neg <<< signBit f)), nx ||| uf)

/-! ## Decoding codes (04 R42, R45, R46) -/

/-- The value of a floating code without block scale; e2m1s gives the E2M1 element other than the clove code. -/
def decFloat (f : Fmt) (c : W32) : XR :=
  let v := (c.toNat >>> lowPad f) % 2 ^ (width f - lowPad f)
  let man := v % 2 ^ mBits f
  let ex := (v >>> mBits f) % 2 ^ eBits f
  let neg := bit c (signBit f)
  if hasInf f ∧ ex = 2 ^ eBits f - 1 then (if man = 0 then .inf neg else .nan)
  else if f = .e4m3 ∧ ex = 15 ∧ man = 7 then .nan
  else if ex = 0 then .fin neg man (eMin f - (mBits f : Int)) false
  else .fin neg (man + 2 ^ mBits f) ((ex : Int) - (bias f : Int) - (mBits f : Int)) false

/-- The value of an integer code (04 R48). -/
def decInt (f : Fmt) (c : W32) : Int :=
  let v : Int := (c.toNat % 2 ^ width f : Nat)
  if f = .uint8 ∨ v < (2 ^ (width f - 1) : Nat) then v else v - (2 ^ width f : Nat)

/-- The value of a code without block scale. -/
def decPlain (f : Fmt) (c : W32) : XR := if isInt f then XR.ofInt (decInt f c) else decFloat f c

/-- ElemValue and Decode for a code with scale byte `s` and clove byte `k` (04 R46). -/
def decBlock (f : Fmt) (c : W32) (s k : Byte) : XR :=
  if isBlock f then
    if s = 0xFF then .nan
    else ((if f = .e2m1s ∧ c.toNat % 16 = 8 then decFloat .e4m3 (k.zeroExtend 32) else decFloat f c).scale
      ((s.toNat : Int) - 127))
  else decPlain f c

/-! ## EncodeBlock (04 R47) -/

/-- EMaxElem(f). -/
def eMaxElem : Fmt → Int
  | .e2m1s => 2 | .e4m3 => 8 | .e5m2 => 15
  | _ => 0

/-- The largest finite magnitude of a block, zero if none. -/
def amax (v : List XR) : XR :=
  v.foldl (fun a x => match x with
    | .fin _ m e _ => if a.lt (.fin false m e false) then .fin false m e false else a
    | _ => a) .zero

/-- Lowest index whose magnitude is `a`. -/
def idxOfMax (a : XR) (v : List XR) : Nat :=
  v.findIdx (fun x => match x with
    | .fin _ m e _ => !(a.lt (.fin false m e false)) && !((XR.fin false m e false).lt a)
    | _ => false)

/-- EncodeBlock (04 R47): scale, clove, the 32 codes, and the flags per element. -/
def encodeBlock (v : List XR) (f : Fmt) (rm : RM) (d : Nat → W16) : Byte × Byte × List (W32 × Flags) :=
  let e2 := decide (f = .e2m1s)
  let nan := v.any (fun x => x.isNaN || (e2 && x.isInf))
  let a := amax v
  let x0 : Int := if a.isZero then -127 else a.log2 - eMaxElem f
  let x : Int := if x0 < -127 then -127 else x0
  let scale : Byte := BitVec.ofNat 8 (x + 127).toNat
  let el (i : Nat) (y : XR) : W32 × Flags := roundTo (y.scale (-x)) f rm (d i)
  if e2 && nan then
    (scale, 0x7F, v.mapIdx (fun i y =>
      if y.isNaN then (8, 0) else if y.isInf then (8, Flags.nv) else el i y))
  else if e2 then
    let k := idxOfMax a v
    let cl := roundTo ((v.getD k .zero).scale (-x)) .e4m3 rm (d k)
    (scale, cl.1.truncate 8, v.mapIdx (fun i y => if i = k then (8, cl.2) else el i y))
  else (scale, 0, v.mapIdx el)

/-! ## The Cumin generator (04 R55) -/

/-- `n` rounds of the generator. -/
def cuminRounds : Nat → W64 → W64 → W64
  | 0, x, _ => x
  | n + 1, x, y =>
    let x := (x ^^^ y) * 0x8E3B5C71D29AF46B
    cuminRounds n (x ^^^ (x >>> 31)) (y + 0x6F1D93C42B87E5A9)

/-- Cumin(k, c) (04 R55). -/
def cumin (k c : W64) : W64 :=
  let x := cuminRounds 6 c k
  x ^^^ (x >>> 29)

/-- Key(dom) from SEED0, SEED1 and LAYER (04 R55). -/
def domKey (seed0 seed1 : W64) (layer : W32) (dom : Nat) : W64 :=
  cumin seed0 (seed1 ^^^ layer.zeroExtend 64 ^^^ BitVec.ofNat 64 (dom * 2 ^ 62))

/-- G(e) of 08 R145 from Sg and Sp. -/
def coordG (sg sp : W64) (e : Nat) : Nat :=
  let w := fld sp 15 0
  (fld sg 55 0 + (e / w) * fld sp 55 16 + e % w) % 2 ^ 56

/-- D(e): the draw word of element e under a key (08 R145, R146). -/
def drawWord (key sg sp : W64) (e : Nat) : W64 :=
  cumin key (BitVec.ofNat 64 (coordG sg sp e * 256 + fld sg 63 56))

/-- The 16-bit draw of a stochastic rounding (04 R56). -/
def draw16 (key sg sp : W64) (e : Nat) : W16 := (drawWord key sg sp e).truncate 16

/-! ## Quotients and square roots, for UPDR (09 R169) -/

/-- Integer square root by bits, from bit `n` down. -/
def isqrtFrom : Nat → Nat → Nat → Nat
  | 0, v, r => if (r + 1) * (r + 1) ≤ v then r + 1 else r
  | n + 1, v, r =>
    let t := r + 2 ^ (n + 1)
    isqrtFrom n v (if t * t ≤ v then t else r)

/-- Floor of the square root. -/
def isqrt (v : Nat) : Nat := isqrtFrom (Nat.log2 v / 2 + 1) v 0

/-- a / b for nonzero finite dyadics, kept to 2^-k with a sticky part. -/
def XR.quot (a b : XR) (k : Nat) : XR :=
  match a, b with
  | .fin na ma ea _, .fin nb mb eb _ =>
    let sh := (ea - eb) + (k : Int)
    let num := if sh ≥ 0 then ma <<< sh.toNat else ma
    let den := if sh ≥ 0 then mb else mb <<< (-sh).toNat
    .fin (na != nb) (num / den) (-(k : Int)) (decide (num % den ≠ 0))
  | _, _ => .nan

/-- (p + s x sqrt r) / q for integers p, q > 0 and a non-square r > 0, kept to 2^-k. -/
def surdQuot (p : Int) (s : Bool) (r q k : Nat) : XR :=
  let pk : Int := p * (2 ^ k : Nat)
  let root := isqrt (r * 2 ^ (2 * k))
  -- the numerator's floor in magnitude, its root part irrational
  let (neg, num) :=
    if s = false then
      (if pk ≥ 0 then (false, pk.toNat + root)
       else if (root : Int) ≥ -pk then (false, root - (-pk).toNat) else (true, (-pk).toNat - root - 1))
    else
      (if pk ≤ 0 then (true, (-pk).toNat + root)
       else if (root : Int) ≥ pk then (true, root - pk.toNat) else (false, pk.toNat - root - 1))
  .fin neg (num / q) (-(k : Int)) true

/-- The square root where it is rational, or infinite. -/
def ratRoot : XR → Option XR
  | .fin n m e _ =>
    let (m, e) := if e % 2 = 0 then (m, e) else (2 * m, e - 1)
    let root := isqrt m
    if root * root = m then some (.fin n root (e / 2) false) else none
  | .inf n => some (.inf n)
  | .nan => none

/-- a + b x sqrt v lies below zero, for an irrational root and a, b not both zero. -/
def surdNeg (a b v : XR) : Bool :=
  if a.isZero then b.neg
  else if b.isZero || a.neg == b.neg then a.neg
  else if (XR.mul a a).1.lt (XR.mul (XR.mul b b).1 v).1 then b.neg else a.neg

/-- The kind and sign of a quotient; 1 stands for any number that is neither zero nor infinite. -/
def quotKind (a b : XR) : XR :=
  match a, b with
  | .nan, _ | _, .nan => .nan
  | .inf _, .inf _ => .nan
  | .inf m, .fin n _ _ _ => .inf (m != n)
  | .fin m _ _ _, .inf n => .fin (m != n) 0 0 false
  | .fin _ 0 _ _, .fin _ 0 _ _ => .nan
  | .fin m 0 _ _, .fin n _ _ _ => .fin (m != n) 0 0 false
  | .fin m _ _ _, .fin n 0 _ _ => .inf (m != n)
  | .fin m _ _ _, .fin n _ _ _ => .fin (m != n) 1 0 false

/-- Finite and not zero. -/
def XR.proper : XR → Bool
  | .fin _ m _ _ => decide (m ≠ 0)
  | _ => false

/-- The exact new parameter of UPDR.adamw: p - lr*q with q = m/(Sqrt(v) + eps) + wd*p, special values as IEEE 754 gives
them at each operation (09 R169). Where p, lr or q is zero or infinite, q's kind and sign tell the result. -/
def adamwValue (p lr m v eps wd : XR) : XR :=
  let wp := (wd.mul p).1
  let less := fun (q : XR) => (XR.sub false p (lr.mul q).1).1
  let plain := fun (q : XR) => !lr.proper || !q.proper || p.isInf
  let below := match v with
    | .fin n m _ _ => n && decide (m ≠ 0)
    | .inf n => n
    | .nan => true
  if below || [p, lr, m, eps, wd].any XR.isNaN then .nan
  else match ratRoot v with
  | some root =>
    let den := (XR.add false root eps).1
    let num := (XR.add false m (wp.mul den).1).1
    let quo := quotKind m den
    let q := if quo.proper && wp.proper then (if num.isZero then .zero else .fin (num.neg != den.neg) 1 0 false)
      else (XR.add false quo wp).1
    if plain q || !quo.proper then less q
    else
      -- ((p - lr*wp)*den - lr*m) / den
      let top := (XR.sub false ((less wp).mul den).1 (lr.mul m).1).1
      if top.isZero then .zero else top.quot den 200
  | none =>
    let den := if eps.isInf then eps else .fin (surdNeg eps (XR.ofInt 1) v) 1 0 false
    let quo := quotKind m den
    let q := if quo.proper && wp.proper then
        .fin (surdNeg (XR.add false m (wp.mul eps).1).1 wp v != den.neg) 1 0 false
      else (XR.add false quo wp).1
    if plain q || !quo.proper then less q
    else
      -- (k*d + n*eps - n*sqrt v) / d with d = v - eps^2, k = p - lr*wp, n = lr*m
      let d := (XR.sub false v (eps.mul eps).1).1
      let nn := (lr.mul m).1
      let pp := (XR.add false ((less wp).mul d).1 (nn.mul eps).1).1
      let rr := ((nn.mul nn).1.mul v).1
      let e1 := loExp d pp
      let e2 := if rr.expo ≤ 2 * e1 then (rr.expo - 1) / 2 else e1
      let e := if e1 ≤ e2 then e1 else e2
      let di := d.mant e
      let flip := decide (di < 0)
      surdQuot (if flip then -pp.mant e else pp.mant e) ((!nn.neg) != flip) (rr.mant (2 * e)).natAbs di.natAbs 200

end Sys2Proof.Machine
end

