-- ==== Sys2Proof/Machine/Types.lean ====
section
/-! DEFINITION. Plain data of the tile core: register entries, results in flight, queue entries, waits, berths, cores
(spec 02, 03, 06, 07, 09, 10, 20). -/

namespace Sys2Proof.Machine

open Sys2Proof

/-- Bytes by address, rising, none listed that holds 0. -/
abbrev Mem := List Host.Cell

/-- A vector lane block. -/
abbrev Lanes := Vector W32 1024

/-- One main-file entry: lanes, tag and side field (03 R28, R34, R35). Side entry k is scale in [7:0] and clove in
[15:8]. -/
structure VEntry where
  lanes : Lanes
  tag : Fmt
  side : Vector W16 256
  deriving DecidableEq, Repr

/-- A lane mask (03 R27). -/
abbrev Mask := BitVec 1024

/-- A trap code (03 R40). -/
inductive Code
  | illop | fifoOvf | fifoUnf | tagx | lendx | phaseviol | smiss | pmiss | bobjerr | align | priv | barto | trap
  deriving DecidableEq, Repr

/-- The unit that raises a result (03 R41). -/
inductive ResUnit | seq | vxe | lde
  deriving DecidableEq, Repr

/-- Where a result in flight goes besides its latch (06 R85, 03 R32). -/
inductive Dst
  | none | s (n : Fin 64) | s2 (n m : Fin 64) | v (n : Fin 1024) | opf (n : Fin 8) | p (n : Fin 16) | m (n : Fin 8)
  deriving DecidableEq, Repr

/-- The value of a result in flight; `pair` is TSR's (07 R114) and `pred` carries CMP's copy for LS (07 R123). -/
inductive RVal
  | s (x : W64) | pair (x y : W64) | v (x : VEntry) | pred (b : Bool) (ls : Bool) | m (x : Mask)
  deriving DecidableEq, Repr

/-- A result issued and not yet written back (03 R41): it is written in step 6 of the cycle in which `rem` is 0. -/
structure Pend where
  unit : ResUnit
  dst : Dst
  val : RVal
  rem : Nat
  berth : BerthId
  /-- address of the producing word -/
  addr : W64
  /-- serial number of the producing word -/
  id : Nat
  flags : Flags
  /-- tokens the entry pushes once this result is written, when it is the entry's last (06 R84) -/
  tok : BitVec 2
  deriving DecidableEq, Repr

/-- An entry of an engine queue: the engine command word and what was captured at dispatch (06 R89, R90). The
48-bit command word is EOP, REP, STEP and REF; EOP is `ins`'s own opcode. -/
structure QEntry where
  ins : Instr
  id : Nat
  addr : W64
  berth : BerthId
  /-- issued in a communication phase -/
  comm : Bool
  ref : Nat
  rep : Nat
  step : Int
  /-- scalar operand values, slot order, with a command block's eight words and the window after them -/
  vals : List W64
  /-- vector operands, slot order -/
  vops : List VEntry
  key0 : W64
  key1 : W64
  key2 : W64
  srmode : BitVec 2
  xwin : Byte
  deriving DecidableEq, Repr

/-- A shape record as read, eight words (13 R248). -/
abbrev Rec := Vector W64 8

/-- How far one transfer, or one unit of a copy, has come in HBM, where each line is an access of its own (14 R265, R267):
the lines read, each with its bytes, the lines written, the lines that counted as hits or misses (03 R40), and the data
that another module sent. -/
structure Lines where
  got : List (Nat × List Byte)
  put : List Nat
  seen : List Nat
  data : Option (List Byte)
  /-- fabric writes that have gone, as group, rank and the last number on that channel (22 R345) -/
  nums : List (Fin 64 × Fin 64 × W32)
  deriving DecidableEq, Repr

/-- The entry the LDE or STE is performing. -/
structure Active where
  q : QEntry
  shape : Option Rec
  /-- next transfer -/
  n : Nat
  /-- vector operand of transfer n, once popped (09 R152) -/
  src : Option VEntry
  /-- a request of transfer n has gone to the host or to another module (22 R340, R348) -/
  sent : Bool
  /-- lines of transfer n -/
  lines : Lines
  /-- core cycles until an atomic's value returns (09 R167) -/
  busy : Nat
  /-- units of transfer n that the sluices have let in (15 R277) -/
  paid : Nat
  /-- stopped by an access fault until the gang resumes (09 R151) -/
  fault : Bool
  /-- the berth whose RTT its results await after a FIFO_OVF, and the core cycles from that trap to the RTT (03 R30) -/
  hold : Option BerthId
  age : Nat
  deriving DecidableEq, Repr

/-- An access issued and not yet performed (07 R119, R120), or a command not yet complete (07 R107, 12 R228). -/
structure Acc where
  id : Nat
  berth : BerthId
  /-- kinds l, s, e that the word takes part in and that are not yet performed -/
  kinds : BitVec 3
  /-- a BOARM or BOCLR not yet applied (09 R173) -/
  bo : Bool
  /-- an array or special-function command that has not counted its bytes (12 R228) -/
  arr : Bool
  /-- a copy or fabric command that has not counted its bytes (07 R107) -/
  cpy : Bool
  deriving DecidableEq, Repr

/-- What a translation or record fence does once its first wait is over (07 R122). -/
inductive FenceAct | none | tinv (va : Option W64) | rcinv (tid : Option (Fin 4096))
  deriving DecidableEq, Repr

/-- A fence that still holds words of kinds `post` back: it waits for this berth's accesses of kinds `pre` with
serial numbers below `upto`, or for the one access `only` (07 R120, R122, 09 R162). -/
structure Fence where
  pre : BitVec 3
  post : BitVec 3
  upto : Nat
  only : Option Nat
  act : FenceAct
  deriving DecidableEq, Repr

/-- What a waiting berth waits for; the pc stays at the waiting word (07 R104). -/
inductive Wait
  | none
  | wait
  | lock
  | bar (n : Fin 96) (ph : Bool) (deadline : W64)
  | tokin (k : MbKind) (mb : Byte)
  | tokout (k : MbKind) (stage : BitVec 6) (mb : Byte)
  | sleepc (t : W64)
  | sleepp (bo : Fin 4096) (ph : Bool) (prom : W64)
  | waitp (bo : Fin 4096) (ph : Bool)
  | idle
  deriving DecidableEq, Repr

/-- The unit whose RTT releases the entries it holds (20 R306). -/
inductive TrapUnit | lde | ste | arr | sf
  deriving DecidableEq, Repr

/-- A trap whose handler has not returned, by what its RTT lets go: the entries that its unit holds (20 R306), or the results held
since a FIFO_OVF, before which `n` were held already (03 R30). -/
inductive Handler | other | unit (u : TrapUnit) | ovf (n : Nat)
  deriving DecidableEq, Repr

/-- A trap raised by an engine and not yet taken (20 R305, R306). `epc` names the waiting word of a berth that the
trap made ready. -/
structure DTrap where
  unit : TrapUnit
  code : Code
  tval : W64
  deriving DecidableEq, Repr

/-- A berth (03 R27, R39, 07 R103, R104). -/
structure Berth where
  started : Bool
  exited : Bool
  pc : W64
  /-- address of the word that set pc (07 R106) -/
  setter : W64
  s : Vector (List W64) 64
  p : Vector Bool 16
  ls : W64
  /-- core cycles of STALL left (06 R83) -/
  stall : Nat
  wait : Wait
  lockArrived : Bool
  /-- the lock released while this berth's LOCK awaited a handler's RTT (07 R104, 20 R307) -/
  lockPassed : Bool
  /-- address of the LOCK at which it arrived -/
  lockAt : W64
  /-- BARAW's arrival marks: the barriers at which its arrival has been made in their present phase (07 R104, 20 R307) -/
  barMarks : List (Fin 96)
  trapv : W64
  tcode : Byte
  tslot : BitVec 3
  tval : W64
  epc : W64
  pend : List DTrap
  /-- units that hold this berth's entries until RTT (09 R150, 10 R196) -/
  unitHolds : List TrapUnit
  /-- handlers that have not returned, the innermost first, from the outermost that lets something go at its RTT on -/
  handlers : List Handler
  /-- results held for this berth's RTT (03 R30) -/
  held : List Pend
  fences : List Fence
  /-- an escalated trap is to be taken again on resume, with TCAUSE, TVAL and EPC as they stand (20 R308) -/
  again : Bool
  /-- a handler entry whose first fetch has not yet succeeded (20 R308): the trapped word -/
  entering : Option W64
  deriving DecidableEq, Repr

/-- The four token FIFOs, as counts 0 to 8 (06 R84). -/
structure Tokens where
  ldeVxe : Nat
  vxeLde : Nat
  vxeSte : Nat
  steVxe : Nat
  deriving DecidableEq, Repr

/-- Why bytes were counted with an error (09 R174). -/
structure Err where
  code : Byte
  det : W64
  deriving DecidableEq, Repr

/-- A count on its way to a barrier object of this core (09 R171); without a number it counts what the object still
expects (09 R178). -/
structure Count where
  bo : Fin 4096
  n : Option Nat
  err : Option Err
  /-- promise to be set instead of a count (09 R177) -/
  prom : Option W64
  deriving DecidableEq, Repr

/-- A location that bytes of a copy go to or come from: an LM of a core of this module, virtual memory in the
issuing context, or a member of an address group (09 R175). -/
inductive Place | lm (core : CoreId) | va | member (grp : Fin 64) (rank : Fin 64)
  deriving DecidableEq, Repr

/-- A destination of an accepted copy: where it is, its bit in a mask, its object here or at the member (DCORE, and
DBO with DV), the bytes not yet counted there, and whether it failed (09 R175, R178, R181). -/
structure Target where
  place : Place
  bit : Nat
  obj : Option (CoreId × Fin 4096)
  far : Option (Byte × Option (Fin 4096))
  left : Nat
  failed : Bool
  /-- number of its next fabric write message, of those that its acceptance reserved (14 R270) -/
  num : W32
  deriving DecidableEq, Repr

/-- An accepted copy or fabric command (09 R176 to R188). -/
structure Copy where
  q : QEntry
  src : Rec
  dst : Rec
  srcPlace : Place
  targets : List Target
  /-- next 128-byte unit of the first target not yet through -/
  unit : Nat
  /-- a request for this unit has gone to another module -/
  sent : Bool
  /-- lines of this unit -/
  lines : Lines
  /-- bytes of the issuer's count not yet counted -/
  left : Nat
  /-- data bytes for the digest so far (09 R183) -/
  digest : List Byte
  /-- tick from which units move (09 R177) -/
  at_ : W64
  /-- bytes of earlier commands on the path at acceptance, and bytes of the count since then (09 R177) -/
  ahead : Nat
  bytes : Nat
  /-- sluice that the path charges: 0 LM, 1 L2, 2 HBM (15 R277) -/
  path : Fin 3
  deriving DecidableEq, Repr

/-- A cached translation: partition, context, page base and size, DPA base, permissions; or a stage-2 entry of a table pointer, whose
page is one of PPAs and whose context is 0 (21 R326). -/
structure TlbE where
  s2 : Bool
  part : PartId
  ctx : Byte
  va : Nat
  size : Nat
  dpa : Nat
  rd : Bool
  wr : Bool
  deriving DecidableEq, Repr

/-- A core (03 R27, R39). -/
structure Core where
  -- static for a strand (03 R39, 12 R235)
  active : Bool
  lender : Bool
  launch : Option Nat
  rank : Nat
  vcore : Byte
  heat : BitVec 2
  lend : BitVec 3
  lenders : Vector CoreId 3
  priv : Bool
  -- registers
  lcy : W64
  phs : W64
  xwin : Byte
  seed0 : W64
  seed1 : W64
  layer : W32
  srmode : BitVec 2
  fpf : Flags
  psize : W16
  wdp : W32
  pmc : Vector W64 16
  pmsel : Vector Byte 16
  /-- events selected in this cycle: a PMSEL written in it selects from the next (03 R40) -/
  pmon : Vector Byte 16
  drpCnt : W16
  /-- flips of barrier objects: the phase that an object last flipped to and whether it then held an error (18 R289) -/
  flips : List (Fin 4096 × Bool × Bool)
  /-- shape records that the heads of the copy, array and special-function queues have read, by entry and TID (13 R252) -/
  recsRead : List (Nat × Nat × Rec)
  file : Vector (List VEntry) 256
  opf : Vector VEntry 8
  lv : VEntry
  ll : VEntry
  masks : Vector Mask 8
  wins : Vector W64 8
  bars : Vector (W16 × W16 × Bool) 96
  berths : Vector Berth 4
  -- sequencer
  cur : BerthId
  /-- a block is running -/
  running : Bool
  /-- cycles left in which nothing issues (07 R103, 20 R306) -/
  skip : Nat
  halted : Bool
  /-- the core stops at its next cycle boundary (20 R313) -/
  stopping : Bool
  /-- nothing issues: pre-empted, saved or not yet released -/
  stopped : Bool
  /-- a cycle from P on (20 R313): what is in flight stands still -/
  frozen : Bool
  /-- cycles gone by from P on (20 R315) -/
  since : Nat
  /-- an image has replaced the strand, which resumes with the next cycle (20 R321) -/
  restart : Bool
  /-- address of the image that a SNAP writes (20 R321) -/
  snap : Option W64
  serial : Nat
  /-- PMC events counted in this cycle: words issued and berth switches -/
  issued : Nat
  switched : Nat
  -- engines
  inflight : List Pend
  ldPush : List Pend
  ldeQ : List QEntry
  vxeQ : List QEntry
  steQ : List QEntry
  cpyQ : List QEntry
  arrQ : List QEntry
  sfQ : List QEntry
  lde : Option Active
  ste : Option Active
  /-- entries completed, with the cycles until their tokens are pushed and the FIFOs they push (06 R84) -/
  retire : List (Cls × BitVec 2)
  tokens : Tokens
  vbuf : Nat
  acc : List Acc
  copies : Vector (Option Copy) 8
  counts : List Count
  /-- tiles under an XFENCE hold, with the serial number of the hold (10 R212) -/
  holds : List (Fin 32 × Nat)
  inbox : List (MbKind × Byte)
  lm : Mem
  /-- 8-byte granules of own LM with an uncorrectable error, by number (20 R312, 27 R372). -/
  lmBad : List Nat
  /-- main-file names with such an error, operand-file registers from 256 on, LV and LL as 264 and 265 (27 R372) -/
  fileBad : List Nat
  /-- an error that the sequencer has met in this cycle: its class, the line, the berth (20 R312, 27 R372) -/
  uce : Option (Fin 16 × W64 × BerthId)
  -- translation (21 R326)
  tlb : List TlbE
  /-- tick of the last watchdog restart (19 R303) -/
  beat : W64
  deriving DecidableEq, Repr

/-- A context image that has been written: the DPA of its first byte, the number of its open sections, and the strand that they
stand for, with the cores that lend to it (20 R317; log 21). -/
structure Saved where
  place : Nat
  name : Nat
  ctx : Byte
  gid : W32
  core : Core
  lenders : List Core
  deriving DecidableEq, Repr

end Sys2Proof.Machine
end

