-- ==== Sys2Proof/Machine/Device.lean ====
section
/-! DEFINITION. Plain data of what stands around the cores: tile pairs and barges, launches and gangs, partitions,
quads, token coherence, ports, mailbox and health (spec 05, 10, 12, 14, 15, 19, 21, 22, 25, 27). -/

namespace Sys2Proof.Machine

open Sys2Proof

/-! ## Array dies (05, 10) -/

/-- Where a barge stands (10 R194): sent, its operands latched, waiting under the write ceiling (05 R74), or driving,
with the ticks at which its slot is free and at which its bytes are counted. -/
inductive BargeState | sent | latched | ceiling | driving (free_ ready : W64) | fenced
  deriving DecidableEq, Repr

/-- The registers of a pair that commands set (05 R59). -/
structure TileRegs where
  gain : W16
  da : W16
  dc : W16
  /-- SPR[j], 12 bits signed -/
  spr : Vector (BitVec 12) 1024
  /-- NRM[j], FP32 -/
  nrm : Vector W32 1024
  seed : W64
  tusn : W32
  deriving DecidableEq, Repr

/-- A command sent to a pair or to the special-function die (10 R194). -/
structure Barge where
  q : QEntry
  core : CoreId
  state : BargeState
  /-- tick at which it was sent, and at which its operands arrive -/
  sent : W64
  at_ : W64
  /-- tick at which the die sees its gate flipped, and whether it flipped with an error (10 R195) -/
  gate : Option (W64 × Bool)
  /-- IN, IN2 and OUT records as read -/
  inR : Rec
  in2R : Rec
  outR : Rec
  /-- output bytes by LM address, and the status word, formed at the drive -/
  out : List (Nat × List Byte)
  status : W64
  /-- bytes of the whole count (10 R198) -/
  count : Nat
  /-- next transfer of a special-function barge -/
  n : Nat
  /-- the pair's registers before the drive, for a TILEFAULT (10 R199) -/
  regs : Option TileRegs
  /-- launch that sent it; its failure is recorded even after its gang has been stopped (20 R309) -/
  launch : Option Nat
  deriving DecidableEq, Repr

/-- A physical tile pair (05 R59, R60). `ag` and `cg` name the pair's present conductances: cell (i, j) of array A
is an analogue value that the free constant of `Config` gives for that name (05 R60, R77). -/
structure Pair where
  gain : W16
  da : W16
  dc : W16
  /-- SPR[j], 12 bits signed -/
  spr : Vector (BitVec 12) 1024
  /-- NRM[j], FP32 -/
  nrm : Vector W32 1024
  seed : W64
  tusn : W32
  tend : W64
  ag : Nat
  cg : Nat
  slots : List Barge
  busyUntil : W64
  -- 25 R357
  insv : Bool
  spare : Bool
  worn : Bool
  fails : Byte
  tile : Fin 1024
  lcal : W64
  lsym : W64
  driftRun : Nat
  verifyRun : Nat
  deriving DecidableEq, Repr

/-! ## Launches and gangs (12, 19) -/

/-- Per-launch states (19 R299). -/
inductive LState
  | waiting | ready | placing | loading | prepared | started | held | saved | resuming | completing | done
  deriving DecidableEq, Repr

/-- Gang lock states (12 R226). -/
inductive GState | placed | starting | running | releasing | ended
  deriving DecidableEq, Repr

/-- Why a pre-emption was asked for (20 R313). -/
inductive PreWhy | priority | drain | watchdog | fault | escalated
  deriving DecidableEq, Repr

/-- A launch and its gang (19 R295, R299, 12 R226). -/
structure Launch where
  blk : Block
  queue : Fin 64
  seq : W16
  ctx : Byte
  part : PartId
  record : Vector W64 16
  deps : List W64
  state : LState
  gang : GState
  /-- strand cores in rank order, and all their quads -/
  cores : List CoreId
  quads : List QuadId
  /-- physical core of each partition-virtual index, fixed at placement (21 R333) -/
  vmap : List CoreId
  /-- strands that precede this module's in a gang that spans modules -/
  rank0 : Nat
  size : Nat
  comm : Bool
  trel : W64
  /-- tick at which each die got the broadcast -/
  trelAt : List DieId
  /-- cores counted as arrived, and the module and die of each report at the master (12 R228) -/
  counted : List CoreId
  reports : List (BitVec 6 × DieId)
  /-- of these, in whatever phase, the dies whose strands have all ended, and the word that the whole gang has (12 R226; log 85) -/
  gone : List (BitVec 6 × DieId)
  allOver : Bool
  /-- dies of the other members that hold strands, as their replies to PREPARE name them (19 R304; log 58) -/
  expects : List (BitVec 6 × DieId)
  /-- dies of this module that have carried out the present release (12 R228) -/
  released : List DieId
  firstReport : Option W64
  bars : Vector (W16 × W16 × Bool) 96
  phs : W64
  start : W64
  resumed : W64
  fcode : Byte
  det : W64
  aborted : Bool
  pre : Option PreWhy
  savedCores : List CoreId
  turn : Bool
  copied : Nat
  tlim : W64
  acks : List (Fin 64)
  ended : W64
  deriving DecidableEq, Repr

/-- A launch queue's registers (19 R291). -/
structure Queue where
  base : W64
  en : Bool
  logn : BitVec 4
  wt : Byte
  ctx : Byte
  part : BitVec 5
  tail : W16
  head : W16
  err : Bool
  code : Byte
  credit : Nat
  deriving DecidableEq, Repr

/-- An interrupt or fault queue's registers (21 R330). -/
structure IFQueue where
  base : W64
  en : Bool
  logn : BitVec 4
  vec : BitVec 6
  head : W16
  tail : W16
  ovf : W32
  deriving DecidableEq, Repr

/-- A queue block: launch queues and event queues (19 R291, R294, 21 R330). -/
structure QBlock where
  queues : Vector Queue 64
  iq : IFQueue
  fq : IFQueue
  /-- vectors that have been raised; the MSI-X table, address then data with the vector's mask in bit 32; and the pending bits of vectors
  raised while masked (22 R337, R338; log 92) -/
  msix : W64
  msixTab : Vector (W64 × W64) 64
  msixPend : W64
  deriving DecidableEq, Repr

/-- A release-flag message (09 R186). -/
structure FlagMsg where
  scnt : W32
  sseq : W32
  flag : BitVec 12
  val : W64
  /-- port by which it was last sent (22 R345) -/
  via : Option (Fin 48)
  deriving DecidableEq, Repr

/-- A fabric write message of a channel (22 R345). -/
structure FabMsg where
  num : W32
  /-- the address is a PPA of the other-module window, not a VA (22 R348) -/
  ppa : Bool
  va : W64
  bytes : List Byte
  /-- combination at the receiver, with its format (09 R182) -/
  comb : Option (Comb3 × Fmt)
  /-- DCORE of the command, and DBO where the receiver counts the bytes into that object (09 R175) -/
  obj : Option (Byte × Option (Fin 4096))
  /-- code and DET of bytes that do not move and are counted with this error (09 R178) -/
  err : Option (Byte × W64)
  /-- port by which it was last sent (22 R345) -/
  via : Option (Fin 48)
  deriving DecidableEq, Repr

/-- A channel to one member of a group (09 R186). -/
structure Channel where
  scnt : W32
  sseq : W32
  rcnt : W32
  rseq : W32
  unacked : List FabMsg
  /-- messages that the limit of unacknowledged ones holds back (09 R186) -/
  waiting : List FabMsg
  /-- numbers of writes to the own rank performed ahead of earlier ones (14 R270) -/
  ahead : List W32
  unackedFlags : List FlagMsg
  heldFlags : List FlagMsg
  early : List FabMsg
  deriving DecidableEq, Repr

/-- An installed address group (22 R347). -/
structure Group where
  record : Vector W64 64
  chans : Vector Channel 64
  deriving DecidableEq, Repr

/-- Resources named by masks (21 R328). -/
structure Masks where
  quads : W32
  l2 : Vector W64 2
  stg : Vector W64 2
  hbm : W64
  sync : Vector W64 4
  deriving DecidableEq, Repr

/-- A micro-batch token in the layer-pipeline table: it is passed on at a lock release of its gang, and a copy is
then owed to each core in `owed` (07 R113). -/
structure Tok where
  kind : MbKind
  mb : Byte
  stage : BitVec 6
  launch : Nat
  passed : Bool
  owed : List CoreId
  deriving DecidableEq, Repr

/-- A PREPARE that came before the member's record was read: GID, Tlim, GANG and HEAT (19 R304). -/
structure Prepare where
  gid : W32
  tlim : W64
  gang : Nat
  heat : Nat
  deriving DecidableEq, Repr

/-- States of a partition (21 R328, R334). -/
inductive PState | unused | active | releasing | scrubbing
  deriving DecidableEq, Repr

/-- A partition: its table entry, its block and what it holds (21 R328, R330). -/
structure Partition where
  en : Bool
  state : PState
  err : Bool
  host : Bool
  ecode : Byte
  s2 : W64
  held : Masks
  add : Masks
  rel : Masks
  pendAdd : Bool
  chil : BitVec 2
  /-- RDCS as written, and the share in force since the last interval boundary (21 R329) -/
  rdcs : BitVec 6
  share : BitVec 6
  ingb : W32
  mods : BitVec 49
  maxg : BitVec 7
  blk : QBlock
  /-- queue served last at each priority; PF0's queues come after the partition's own (19 R300) -/
  last : Vector (Fin 128) 4
  ctxt : W64
  saveb : W64
  tinvDone : Bool
  tinv : W64
  /-- once the entries are gone, what the completion still awaits: the last message on each channel that an old entry may have given its
  address, and the entries whose request has gone to another module, by core and serial number (21 R327) -/
  tinvWait : Option (List (Fin 64 × Fin 64 × W32) × List (CoreId × Nat))
  rsz : Masks
  rid : W16
  requested : Bool
  /-- tick of the pending request (log 87) -/
  reqAt : W64
  deadline : W64
  bind : Vector (Option Byte) 1024
  hwinCtx : Byte
  hwin : W64
  /-- MNTPOL (25 R358) -/
  calr : Bool
  sym : Bool
  tokens : List Tok
  groups : Vector (Option Group) 64
  flr : Bool
  deriving DecidableEq, Repr

/-! ## Translation and records (13 R251, 21 R326) -/

/-- A cached shape record: partition, context, TID and the words read so far, eight when whole (13 R252); the list is in order
of use, most recent first. -/
structure RecE where
  part : PartId
  ctx : Byte
  tid : Fin 4096
  shape : Rec
  words : Nat
  deriving DecidableEq, Repr

/-- A miss of a die TLB: the page of 64 KiB that it is about. It waits for a walker, has one, or has failed and is about to be told to
the access that asked (21 R326). -/
structure Walk where
  part : PartId
  ctx : Byte
  va : W64
  begun : Bool
  failed : Bool
  deriving DecidableEq, Repr

/-- A persistent-request table row (14 R266). -/
structure Persist where
  die : DieId
  line : Nat
  wr : Bool
  deriving DecidableEq, Repr

/-- What a die keeps of a line's persistent requests: the first die to be looked at, and the present winner
(14 R266). -/
structure PTurn where
  line : Nat
  p : DieId
  cur : Option DieId
  deriving DecidableEq, Repr

/-- A resident code image (19 R301): its record's CODE, CSIZE and context, its partition, and its bytes. -/
structure Image where
  code : W64
  csize : Nat
  ctx : Byte
  part : PartId
  bytes : Mem
  /-- 8-byte granules with an uncorrectable error, by number (27 R372) -/
  bad : List Nat
  /-- launches that run it -/
  users : List Nat
  deriving DecidableEq, Repr

/-- A control die (01 R12, 13 R251, 14 R266, 15 R280, R284, 21 R326). -/
structure Die where
  images : List Image
  recs : List RecE
  tlb : List TlbE
  /-- misses in arrival order (21 R326) -/
  walks : List Walk
  persist : List Persist
  turns : List PTurn
  /-- quads waiting in the in-rush arbiter, and admitted ones -/
  rush : List QuadId
  admitted : List QuadId
  ingress : Vector Nat 32
  /-- lines of synchronisation space that the engine's SRAM holds, most recently used first (13 R246) -/
  sync : List Nat
  /-- lines homed on this die that its caching slices hold, most recently used first (13 R242, R245) -/
  cached : List Nat
  deriving DecidableEq, Repr

/-- Power state of a quad (15 R283, R284). -/
inductive QPower | on | gated (since : W64) (wake : Bool) | waiting | ramping
  deriving DecidableEq, Repr

/-- A quad (02 R24, R25, 15 R274 to R284). -/
structure Quad where
  thr : Byte
  stretch : Nat
  window : Nat
  /-- the second half of a stretched cycle comes next -/
  half : Bool
  qpew : Vector W16 48
  qest : W32
  qsig : W32
  fwcap : BitVec 4
  ceil : BitVec 4
  slk : BitVec 4
  eff : BitVec 4
  slkMin : W16
  ecnt : W16
  lcnt : W16
  dwell : Byte
  /-- windows in a row below 7/8 of QCEIL, and the change of CEILLVL due at the next boundary (15 R275) -/
  low : Nat
  fall : Bool
  rise : Bool
  cycles : Nat
  /-- what is left of the sluices' grants (15 R277) -/
  sluice : Vector Nat 3
  /-- the wear record in force on the quad's tiles (27 R380) -/
  wear : List Byte
  /-- the record of writable-weight defaults that QPEW was last loaded from (15 R276, 27 R380) -/
  defaults : List Byte
  /-- the calibration record in force on the quad's tiles (27 R380) -/
  cal : List Byte
  power : QPower
  countedAt : W64
  deriving DecidableEq, Repr

/-! ## Token coherence (14 R264 to R266) -/

/-- What a holder has of a line. -/
structure TokHold where
  t : Nat
  owner : Bool
  valid : Bool
  data : List Byte
  /-- replacement priority: 0 lowest, 1 normal, 2 protected (06 R81) -/
  prio : Fin 3
  deriving DecidableEq, Repr

/-- Tokens on their way. -/
structure TokMsg where
  line : Nat
  dest : Holder
  t : Nat
  owner : Bool
  valid : Bool
  data : List Byte
  deriving DecidableEq, Repr

/-- An outstanding request of a die. -/
structure TokReq where
  die : DieId
  line : Nat
  wr : Bool
  sent : W64
  resent : Bool
  deriving DecidableEq, Repr

/-- A line of which not all tokens stand at home. -/
structure TokLine where
  line : Nat
  home : TokHold
  rdc : Vector TokHold 4
  deriving DecidableEq, Repr

/-! ## Fabric ports, mailbox, health (22, 25, 27) -/

/-- States of a Bluvy port (22 R343). -/
inductive PortState | off | training | up | retraining | down
  deriving DecidableEq, Repr

/-- A Bluvy port (22 R343, R344). -/
structure Port where
  en : Bool
  state : PortState
  peer : BitVec 6
  rtr : W16
  rpl : W32
  fails : Nat
  since : W64
  deriving DecidableEq, Repr

/-- States of the domain (22 R341). -/
inductive DomState | alone | joining | joined | lost
  deriving DecidableEq, Repr

/-- The firmware mailbox (27 R375). -/
structure Mbox where
  op : Byte
  busy : Bool
  err : Bool
  code : Byte
  len : W32
  args : Vector W64 4
  buf : Mem
  /-- bytes of the buffer that the host has written since the last command, and what the running command read -/
  filled : Nat
  input : List Byte
  inLen : Nat
  inArg : W64
  /-- flash has failed under the running command (27 R372) -/
  flashBad : Bool
  deriving DecidableEq, Repr

/-- Flash contents that survive module reset (27 R374 to R380). -/
structure Flash where
  /-- 16 MiB: image A, then image B from 8 MiB -/
  fw : Mem
  cert : List Byte
  /-- minimum security version, and what authenticates it (27 R377) -/
  minVer : W32
  minTag : List Byte
  configs : List (Nat × W32 × List Byte)
  /-- lifetime totals, count by count, in two alternating slots, and the current one (27 R374) -/
  totals : Vector (List Nat) 2
  current : Fin 2
  hours : List (List Byte)
  /-- the thermal trip is latched; trips counted since the last hourly record (27 R382) -/
  trip : Bool
  trips : Nat
  deriving DecidableEq, Repr

/-- Boot state (27 R377, R383): the boot ROM verifies, joints and towpath train, HBM4 stacks train, the scrub gate runs on everything;
then the module runs. Where no image passes it stays in recovery. -/
inductive Boot | rom | joints | stacks | gate | running | recovery
  deriving DecidableEq, Repr

end Sys2Proof.Machine
end

