-- ==== Sys2Proof/Machine/State.lean ====
section
/-! DEFINITION. The machine's state, its faults and refusals, and the state right after module reset. -/

namespace Sys2Proof.Machine

open Sys2Proof

/-- Stops of the machine. -/
inductive Fault
  /-- The module has no power: logic rails are off after a thermal trip or a power loss, and only module reset or
  power-up brings it back (27 R382, R383). Raised by `step` alone. Safe: nothing runs on the part either. -/
  | noPower
  deriving DecidableEq, Repr

/-- Instructions without a meaning in the model. -/
inductive Refusal
  /-- An instruction whose meaning is not written. Raised by `exec`. Safe: nothing is claimed of it. -/
  | notModelled (mnemonic : String)
  deriving DecidableEq, Repr

/-- The part of a core's cycle that comes next (02 R22, 07 R103); `tick` ends a round of all cores (02 R20, R21). -/
inductive Stage | wake | issue | engines | writeback | advance | tick
  deriving DecidableEq, Repr

/-- The machine. The fields from `cur` to `free` are the model's scheduler, not the spec's. -/
structure State where
  /-- core whose cycle is run, and the part of it that comes next -/
  cur : CoreId
  stage : Stage
  /-- events to take now, those that end with the round of core cycles after its ticks, and events of the outside with the tick at
  which they arrive -/
  todo : List Ev
  ends : List Ev
  inputs : List (W64 × Ev)
  /-- number of the next free value -/
  free : Nat
  /-- twentieths of a tick gone by since CYC last advanced, scaled by the core frequency -/
  frac : Nat
  -- module (02 R21, 01, 22, 25, 27)
  cyc : W64
  powered : Bool
  freq : Nat
  clockStop : Bool
  stopEnd : W64
  thermal : Bool
  modid : BitVec 6
  dom : DomState
  domLock : Bool
  domOffs : Byte
  domMods : BitVec 49
  joinRounds : Nat
  joinSum : Int
  ports : Vector Port 48
  /-- port states of the other modules as last received (22 R345) -/
  peerUps : Vector (BitVec 49) 49
  joints : Vector Bool 24
  /-- the records of kinds 1 and 3 in force (27 R380) -/
  ceilings : List Byte
  rails : List Byte
  mbox : Mbox
  flash : Flash
  /-- the open hourly record, by record byte (27 R374) -/
  health : Mem
  hourly : W64
  temps : Vector Byte 13
  boot : Boot
  fwVer : W32
  /-- image B runs; the PUF does not yield the certified key (27 R377, R378) -/
  fwB : Bool
  pufBad : Bool
  /-- measurement of the running image, none before one runs (27 R379) -/
  fwMeas : List Byte
  /-- the last answer to a DOE request (22 R337) -/
  doe : List Byte
  /-- bytes that the last host read returned; none before the first, and where it ends with Unsupported Request (22 R338; log 73) -/
  hostData : Option (List Byte)
  perst : Bool
  pcieUp : Bool
  freeRes : Masks
  scrubbing : List Resource
  /-- tiles of quads in the scrub gate, with the tick at which their XSCRB ends (21 R335) -/
  gate : List (PairId × Option W64)
  /-- installed remaps: worn pair and spare (25 R360) -/
  remaps : List (PairId × PairId)
  writing : List W64
  writeWait : List PairId
  calPer : W16
  symPer : W16
  symP : W16
  mntEn : Bool
  -- special-function die (10 R220)
  sfRun : List Barge
  -- cores, quads, dies, pairs
  cores : Vector Core 128
  quads : Vector Quad 32
  dies : Vector Die 4
  pairs : Vector Pair 1088
  -- launches and partitions
  launches : List Launch
  prepares : List Prepare
  parts : Vector Partition 32
  pf0 : QBlock
  -- memory by device physical address, host memory included (13 R239), and locations with an error (20 R312)
  mem : Mem
  bad : List Nat
  -- context images that stand in memory (20 R317)
  saved : List Saved
  -- token coherence (14 R264)
  lines : List TokLine
  tokMsgs : List TokMsg
  tokReqs : List TokReq
  deriving DecidableEq, Repr

/-! ## Reset values -/

/-- An entry of zeros with tag NONE (03 R27). -/
def VEntry.zero : VEntry := ⟨.replicate 1024 0, .none, .replicate 256 0⟩

/-- A berth before its strand starts (03 R27, R39). -/
def Berth.reset : Berth :=
  { started := false, exited := false, pc := 0, setter := 0, s := .replicate 64 [],
    p := (Vector.replicate 16 false).set 0 true, ls := 0, stall := 0, wait := .none, lockArrived := false, lockPassed := false, lockAt := 0,
    barMarks := [], trapv := 0, tcode := 0, tslot := 7, tval := 0, epc := 0, pend := [], unitHolds := [],
    handlers := [], held := [], fences := [], again := false, entering := none }

/-- A window over the whole tile (03 R37). -/
def wholeWin : W64 := 0x0400000004000000

/-- A core with no strand (03 R27, R39); registers loaded at launch are zero until then (log 7). -/
def Core.reset : Core :=
  { active := false, lender := false, launch := none, rank := 0, vcore := 0, heat := 0, lend := 0,
    lenders := .replicate 3 0, priv := false, lcy := 0, phs := 0, xwin := 0, seed0 := 0, seed1 := 0, layer := 0,
    srmode := 0, fpf := 0, psize := 0, wdp := 0, pmc := .replicate 16 0, pmsel := .replicate 16 0, pmon := .replicate 16 0, drpCnt := 0,
    flips := [], recsRead := [], file := .replicate 256 [], opf := .replicate 8 VEntry.zero, lv := VEntry.zero, ll := VEntry.zero,
    masks := .replicate 8 (BitVec.allOnes 1024), wins := .replicate 8 wholeWin, bars := .replicate 96 (0, 0, false),
    berths := .replicate 4 Berth.reset, cur := 3, running := false, skip := 0, halted := false, stopping := false,
    stopped := true, frozen := false, since := 0, restart := false, snap := none,
    serial := 0, issued := 0, switched := 0, inflight := [], ldPush := [], ldeQ := [], vxeQ := [], steQ := [],
    cpyQ := [], arrQ := [], sfQ := [], lde := none, ste := none, retire := [], tokens := ⟨0, 0, 0, 0⟩, vbuf := 0,
    acc := [], copies := .replicate 8 none, counts := [], holds := [], inbox := [], lm := [], lmBad := [], fileBad := [], uce := none,
    tlb := [], beat := 0 }

/-- A tile pair after the scrub gate of module reset (05 R59, 25 R357). -/
def Pair.reset (t : Nat) : Pair :=
  { gain := 0x3C00, da := 0x3C00, dc := 0x3C00, spr := .replicate 1024 0, nrm := .replicate 1024 0, seed := 0,
    tusn := 0, tend := 0, ag := 2 * t, cg := 2 * t + 1, slots := [], busyUntil := 0, insv := decide (t % 136 < 128),
    spare := decide (128 ≤ t % 136), worn := false, fails := 0,
    tile := if t % 136 < 128 then Fin.ofNat 1024 (t / 136 * 128 + t % 136) else 0, lcal := 0, lsym := 0, driftRun := 0,
    verifyRun := 0 }

def Queue.reset : Queue :=
  { base := 0, en := false, logn := 0, wt := 1, ctx := 0, part := 0, tail := 0, head := 0, err := false, code := 0,
    credit := 0 }

def IFQueue.reset : IFQueue := { base := 0, en := false, logn := 0, vec := 0, head := 0, tail := 0, ovf := 0 }

def QBlock.reset : QBlock :=
  { queues := .replicate 64 Queue.reset, iq := IFQueue.reset, fq := IFQueue.reset, msix := 0,
    msixTab := .replicate 64 (0, 1 <<< 32), msixPend := 0 }

def Masks.none : Masks := ⟨0, .replicate 2 0, .replicate 2 0, 0, .replicate 4 0⟩

/-- Every resource (21 R335: module reset runs the gate on everything). -/
def Masks.all : Masks :=
  ⟨BitVec.allOnes 32, .replicate 2 (BitVec.allOnes 64), .replicate 2 0, BitVec.allOnes 64,
    .replicate 4 (BitVec.allOnes 64)⟩

def Partition.reset : Partition :=
  { en := false, state := .unused, err := false, host := false, ecode := 0, s2 := 0, held := Masks.none,
    add := Masks.none, rel := Masks.none, pendAdd := false, chil := 0, rdcs := 0, share := 0, ingb := 0xFFFFFFFF, mods := 0,
    maxg := 0, blk := QBlock.reset, last := .replicate 4 127, ctxt := 0, saveb := 0, tinvDone := true, tinv := 0, tinvWait := none,
    rsz := Masks.none, rid := 0,
    requested := false, reqAt := 0, deadline := 0, bind := .replicate 1024 none, hwinCtx := 0, hwin := 0, calr := false, sym := false,
    tokens := [], groups := .replicate 64 none, flr := false }

def Die.reset : Die :=
  { images := [], recs := [], tlb := [], walks := [], persist := [], turns := [], rush := [], admitted := [],
    ingress := .replicate 32 0xFFFFFFFF, sync := [], cached := [] }

/-- Bytes per interval at level 15 of the LM, L2 and HBM sluices (15 R277). -/
def sluiceFull : Vector Nat 3 := #v[20971520, 524288, 409600]

/-- A quad after reset: level 15 everywhere (15 R276), values of the signed record free (log 4). -/
def Quad.reset : Quad :=
  { thr := Config.thrInit (Config.delivered 2), stretch := 0, window := 0, half := false,
    qpew := ⟨((List.finRange 48).map (Config.qpewInit (Config.delivered 5))).toArray, by simp⟩, qest := 0, qsig := 0, fwcap := 15, ceil := 15,
    slk := 15, eff := 15, slkMin := 1024, ecnt := 0, lcnt := 0, dwell := 0, low := 0, fall := false, rise := false,
    cycles := 0, sluice := sluiceFull, wear := Config.delivered 3, defaults := Config.delivered 5, cal := Config.delivered 1,
    power := .on, countedAt := 0 }

def Port.reset : Port :=
  { en := false, state := .off, peer := 0x3F, rtr := 0, rpl := 0, fails := 0, since := 0 }

def Mbox.reset : Mbox :=
  { op := 0, busy := false, err := false, code := 0, len := 0, args := .replicate 4 0, buf := [], filled := 0, input := [],
    inLen := 0, inArg := 0, flashBad := false }

/-- Flash as delivered, its contents a DESIGN CHOICE (log 4). -/
def Flash.factory : Flash :=
  { fw := [], cert := Config.certificate, minVer := Config.minVersion, minTag := Config.minTag Config.minVersion,
    totals := .replicate 2 (List.replicate 564 0), current := 0, hours := [], trip := false, trips := 0,
    configs := [0, 1, 2, 3, 5].map (fun (k : Fin 6) => (k.val + 1, Config.recSeq (Config.delivered k), Config.delivered k)) }

/-- The machine right after module reset. The boot ROM ends its checks a typical 64,000,000 ticks later (27 R377); the first core
cycle starts on a tick's edge (DESIGN CHOICE, log 3). -/
def State.reset : State :=
  { cur := 0, stage := .wake, todo := [], ends := [], inputs := [(64000000, .bootVerify)],
    free := 2176, frac := 0, cyc := 0, powered := true, freq := 20,
    clockStop := false, stopEnd := 0, thermal := false, modid := 0, dom := .alone, domLock := false, domOffs := 0,
    domMods := 1, joinRounds := 0, joinSum := 0, ports := .replicate 48 Port.reset, peerUps := .replicate 49 0, joints := .replicate 24 false,
    ceilings := Config.delivered 0, rails := Config.delivered 2,
    mbox := Mbox.reset, flash := Flash.factory, health := [], hourly := 0, temps := .replicate 13 0,
    boot := .rom, fwVer := 0, fwB := false, pufBad := false, fwMeas := [], doe := [], hostData := none, perst := true,
    pcieUp := false, freeRes := Masks.none, scrubbing := [], gate := [], remaps := [], writing := [],
    writeWait := [], calPer := 916, symPer := 2747, symP := 256, mntEn := true, sfRun := [],
    cores := .replicate 128 Core.reset, quads := .replicate 32 Quad.reset, dies := .replicate 4 Die.reset,
    pairs := ⟨((List.range 1088).map Pair.reset).toArray, by simp⟩, launches := [], prepares := [], parts := .replicate 32 Partition.reset,
    pf0 := QBlock.reset, mem := [], bad := [], saved := [], lines := [], tokMsgs := [], tokReqs := [] }

end Sys2Proof.Machine
end

