-- ==== Sys2Proof/Machine/Ops.lean ====
section
/-! DEFINITION. The named operations over cores, registers, memory and time that every meaning uses, and taking a
trap and returning from one (02 R22, 03 R27 to R33, 06 R80 to R84, 07 R116, 20 R305 to R308). -/

namespace Sys2Proof.Machine

open Sys2Proof

/-! ## Reading and replacing parts of the state -/

/-- The outcome of a step of this machine. -/
abbrev Out := Host.Outcome State Fault Refusal

def State.core (s : State) (c : CoreId) : Core := s.cores.get c
def State.setCore (s : State) (c : CoreId) (k : Core) : State := { s with cores := s.cores.set c.val k c.isLt }
def State.updCore (s : State) (c : CoreId) (f : Core → Core) : State := s.setCore c (f (s.core c))
def State.pair (s : State) (t : PairId) : Pair := s.pairs.get t
def State.setPair (s : State) (t : PairId) (p : Pair) : State := { s with pairs := s.pairs.set t.val p t.isLt }
def State.part (s : State) (p : PartId) : Partition := s.parts.get p
def State.setPart (s : State) (p : PartId) (x : Partition) : State := { s with parts := s.parts.set p.val x p.isLt }
def State.die (s : State) (d : DieId) : Die := s.dies.get d
def State.setDie (s : State) (d : DieId) (x : Die) : State := { s with dies := s.dies.set d.val x d.isLt }
def State.quad (s : State) (q : QuadId) : Quad := s.quads.get q
def State.setQuad (s : State) (q : QuadId) (x : Quad) : State := { s with quads := s.quads.set q.val x q.isLt }
def State.launch (s : State) (l : Nat) : Option Launch := s.launches[l]?
def State.setLaunch (s : State) (l : Nat) (x : Launch) : State := { s with launches := s.launches.set l x }
/-- Change a launch, if there is one of that number. -/
def State.updLaunch (s : State) (l : Nat) (f : Launch → Launch) : State :=
  match s.launch l with
  | some x => s.setLaunch l (f x)
  | none => s
/-- Events to be taken before anything else, in order, after those already there. -/
def State.push (s : State) (es : List Ev) : State := { s with todo := s.todo ++ es }
/-- A fresh free value (log 8). -/
def State.draw (s : State) : W64 × State := (Config.free s.free, { s with free := s.free + 1 })

def Core.berth (k : Core) (b : BerthId) : Berth := k.berths.get b
def Core.setBerth (k : Core) (b : BerthId) (x : Berth) : Core := { k with berths := k.berths.set b.val x b.isLt }
def Core.updBerth (k : Core) (b : BerthId) (f : Berth → Berth) : Core := k.setBerth b (f (k.berth b))
def State.berth (s : State) (c : CoreId) (b : BerthId) : Berth := (s.core c).berth b
def State.updBerth (s : State) (c : CoreId) (b : BerthId) (f : Berth → Berth) : State :=
  s.updCore c (fun k => k.updBerth b f)

/-- The gang's launch of a core, with its number. -/
def State.gangOf (s : State) (c : CoreId) : Option (Nat × Launch) :=
  match (s.core c).launch with
  | some l => (s.launch l).map (fun x => (l, x))
  | none => none

/-- Control die and quad of a core (01 R17): 32 cores a die, 4 a quad. -/
def dieOf (c : CoreId) : DieId := ⟨c.val / 32, by have := c.isLt; omega⟩

/-- The quad of a core (01 R17). -/
def quadOf (c : CoreId) : QuadId :=
  Fin.ofNat 32 (c.val / 32 * 8 + c.val % 32 / 16 * 4 + c.val % 8 / 2)

/-! ## Byte lists (00 R3) -/

/-- `n` bytes of a number, lowest first. -/
def toBytes : Nat → Nat → List Byte
  | 0, _ => []
  | n + 1, v => BitVec.ofNat 8 v :: toBytes n (v / 256)

/-- The number whose bytes these are, lowest first. -/
def ofBytes : List Byte → Nat
  | [] => 0
  | b :: r => b.toNat + 256 * ofBytes r

/-! ## Sparse memory: rising addresses, no entry that holds 0 -/

/-- One byte; an address not listed holds 0. -/
def Mem.read : Mem → Nat → Byte
  | [], _ => 0
  | (k, v) :: r, a => if a = k then v else if a < k then 0 else Mem.read r a

/-- Put a cell in front, unless it holds 0. -/
def Mem.cell (a : Nat) (v : Byte) (r : Mem) : Mem := if v = 0 then r else (a, v) :: r

/-- Write one byte, keeping the canonical form. -/
def Mem.write : Mem → Nat → Byte → Mem
  | [], a, v => Mem.cell a v []
  | (k, w) :: r, a, v =>
    if a < k then Mem.cell a v ((k, w) :: r)
    else if a = k then Mem.cell a v r
    else (k, w) :: Mem.write r a v

/-- The canonical form. -/
def Mem.wf : Mem → Bool
  | [] => true
  | [(_, v)] => decide (v ≠ 0)
  | (k, v) :: (k', v') :: r => decide (v ≠ 0) && decide (k < k') && Mem.wf ((k', v') :: r)

/-- `n` bytes from an address. -/
def Mem.reads (m : Mem) (a : Nat) : Nat → List Byte
  | 0 => []
  | n + 1 => m.read a :: Mem.reads m (a + 1) n

/-- Write bytes from an address upward. -/
def Mem.writes (m : Mem) (a : Nat) : List Byte → Mem
  | [] => m
  | b :: r => Mem.writes (m.write a b) (a + 1) r

/-- A little-endian number of `n` bytes. -/
def Mem.num (m : Mem) (a n : Nat) : Nat := ofBytes (m.reads a n)

/-- An 8-byte word. -/
def Mem.word (m : Mem) (a : Nat) : W64 := BitVec.ofNat 64 (m.num a 8)

def Mem.setWord (m : Mem) (a : Nat) (v : W64) : Mem := m.writes a (toBytes 8 v.toNat)

/-- Zero a range. -/
def Mem.clear (m : Mem) (a n : Nat) : Mem := m.filter (fun c => decide (c.1 < a ∨ a + n ≤ c.1))

/-! ## Local memory and lenders (12 R236, 13 R240, 03 R31) -/

/-- Core whose own storage a lent index reaches: 0 is the core itself, k is lender k if it is present. -/
def Core.owner (k : Core) (self : CoreId) (i : Nat) : Option CoreId :=
  if i = 0 then some self
  else if h : i - 1 < 3 then (if bit k.lend (i - 1) then some (k.lenders.get ⟨i - 1, h⟩) else none)
  else none

/-- The core and own address behind an LM-map address of a core; none when the lender is absent. -/
def State.lmOwner (s : State) (c : CoreId) (a : Nat) : Option (CoreId × Nat) :=
  ((s.core c).owner c (a / 2 ^ 22 % 4)).map (fun o => (o, a % 2 ^ 22))

/-- Every byte of a range of a core's LM map has its window present. -/
def State.lmOk (s : State) (c : CoreId) (a n : Nat) : Bool :=
  n == 0 || (List.range (min 4 ((a + n - 1) / 2 ^ 22 + 1 - a / 2 ^ 22))).all (fun w =>
    ((s.core c).owner c ((a / 2 ^ 22 + w) % 4)).isSome)

/-- One byte of the LM map; an absent window reads 0 and is checked before. -/
def State.lmByte (s : State) (c : CoreId) (a : Nat) : Byte :=
  match s.lmOwner c (a % 2 ^ 24) with
  | some (o, x) => (s.core o).lm.read x
  | none => 0

def State.lmReads (s : State) (c : CoreId) (a : Nat) : Nat → List Byte
  | 0 => []
  | n + 1 => s.lmByte c a :: State.lmReads s c (a + 1) n

/-- Write one byte of the LM map. -/
def State.lmPut (s : State) (c : CoreId) (a : Nat) (v : Byte) : State :=
  match s.lmOwner c (a % 2 ^ 24) with
  | some (o, x) => s.updCore o (fun k => { k with lm := k.lm.write x v })
  | none => s

def State.lmWrites (s : State) (c : CoreId) (a : Nat) : List Byte → State
  | [] => s
  | b :: r => State.lmWrites (s.lmPut c a b) c (a + 1) r

/-! ## Uncorrectable errors of local memory (20 R312, 27 R372 class 0) -/

/-- Granules of 8 bytes with an error in a core's LM map, by address. -/
def State.lmBads (s : State) (c : CoreId) : List Nat :=
  (List.range 4).flatMap (fun w => match (s.core c).owner c w with
    | some o => (s.core o).lmBad.map (fun g => w * 2 ^ 22 + 8 * g)
    | none => [])

/-- Where a granule lies in a range of the LM map, which wraps: bytes after the range's first. -/
def lmAfter (g a : Nat) : Nat := (g + 2 ^ 24 - a % 2 ^ 24) % 2 ^ 24

/-- A granule meets a range. -/
def lmMeets (g a n : Nat) : Bool := decide (n ≠ 0 ∧ (lmAfter g a + 7) % 2 ^ 24 < n + 7)

/-- A range covers a whole granule. -/
def lmCovers (g a n : Nat) : Bool := decide (lmAfter g a + 8 ≤ n)

/-- The line of the LM map with an error that a read of a range finds. -/
def State.lmErr (s : State) (c : CoreId) (a n : Nat) : Option Nat :=
  ((s.lmBads c).find? (fun g => lmMeets g a n)).map (fun g => g / 128 * 128)

/-- The same for a write, which fails on a granule that it covers in part. -/
def State.lmPart (s : State) (c : CoreId) (a n : Nat) : Option Nat :=
  ((s.lmBads c).find? (fun g => lmMeets g a n && !lmCovers g a n)).map (fun g => g / 128 * 128)

/-- Granules wholly written lose their error. -/
def State.lmMend (s : State) (c : CoreId) (a n : Nat) : State :=
  (List.range 4).foldl (fun s w => match (s.core c).owner c w with
    | some o => s.updCore o (fun k => { k with lmBad := k.lmBad.filter (fun g => !lmCovers (w * 2 ^ 22 + 8 * g) a n) })
    | none => s) s

/-- A granule of the LM map gets an error. -/
def State.lmSpoil (s : State) (c : CoreId) (a : Nat) : State :=
  match s.lmOwner c (a % 2 ^ 24) with
  | some (o, x) => s.updCore o (fun k => { k with lmBad := k.lmBad.filter (fun g => !decide (g = x / 8)) ++ [x / 8] })
  | none => s

/-- A range of the LM map is written whole. -/
def State.lmStore (s : State) (c : CoreId) (a : Nat) (bs : List Byte) : State :=
  (s.lmWrites c a bs).lmMend c a bs.length

/-- An 8-byte word of a core's own LM. -/
def Core.word (k : Core) (a : Nat) : W64 := k.lm.word a

/-! ## Main-file FIFOs (03 R29 to R31) -/

/-- Depth of every FIFO. -/
def fifoDepth : Nat := 2

/-- Core and name behind a main-file name; none when the lender is absent. -/
def State.vOwner (s : State) (c : CoreId) (n : Fin 1024) : Option (CoreId × Fin 256) :=
  ((s.core c).owner c (n.val / 256)).map (fun o => (o, Fin.ofNat 256 (n.val % 256)))

/-- The entries of a main-file name, oldest first. -/
def State.vFifo (s : State) (c : CoreId) (n : Fin 1024) : List VEntry :=
  match s.vOwner c n with
  | some (o, i) => (s.core o).file.get i
  | none => []

/-- Replace the entries of a main-file name. -/
def State.setVFifo (s : State) (c : CoreId) (n : Fin 1024) (q : List VEntry) : State :=
  match s.vOwner c n with
  | some (o, i) => s.updCore o (fun k => { k with file := k.file.set i.val q i.isLt })
  | none => s

/-- Replace the entries of a scalar name. -/
def Berth.setS (x : Berth) (n : Fin 64) (q : List W64) : Berth := { x with s := x.s.set n.val q n.isLt }

/-- Write a predicate; writes to P0 are discarded (07 R101). -/
def Berth.setP (x : Berth) (n : Fin 16) (v : Bool) : Berth :=
  if n = 0 then x else { x with p := x.p.set n.val v n.isLt }

/-- P0 reads true (06 R80). -/
def Berth.readP (x : Berth) (n : Fin 16) : Bool := decide (n = 0) || x.p.get n

/-! ## Traps (07 R116, 20 R305 to R308) -/

/-- Add to a 4-byte count of the hourly record; it saturates (27 R374). -/
def bump (o n : Nat) (s : State) : State :=
  { s with health := s.health.writes o (toBytes 4 (min (s.health.num o 4 + n) 0xFFFFFFFF)) }

/-- Count of PMISS traps in a quad (27 R374). -/
def hPmiss (q : QuadId) : Nat := 0x140 + 4 * q.val

/-- TCAUSE.CODE (03 R40). -/
def Code.num : Code → Byte
  | .illop => 0x01 | .fifoOvf => 0x02 | .fifoUnf => 0x03 | .tagx => 0x04 | .lendx => 0x05 | .phaseviol => 0x06
  | .smiss => 0x07 | .pmiss => 0x08 | .bobjerr => 0x09 | .align => 0x0A | .priv => 0x0B | .barto => 0x0C
  | .trap => 0x20

/-- TCAUSE as a register (03 R39). -/
def Berth.tcause (x : Berth) : W64 := BitVec.ofNat 64 (x.tcode.toNat + x.tslot.toNat * 256)

/-- Escalation: the gang is pre-empted into saved state without deferral, with code UNHANDLED (20 R308). -/
def escalate (c : CoreId) (b : BerthId) (word : W64) (s : State) : State :=
  let s := s.updBerth c b (fun x => { x with pc := word, again := true, wait := .none })
  match (s.core c).launch with
  | some l =>
    let det := BitVec.ofNat 64 ((s.berth c b).tcause.toNat % 2048 + (s.core c).rank * 65536)
    (s.updLaunch l (fun x => { x with pre := some .escalated, fcode := 0x85, det := det })).push
      [.preemptionRequest l]
  | none => s

/-- A trap within a handler whose RTT is awaited: the next RTT is its own (20 R306). -/
def Berth.nest (x : Berth) : List Handler := if x.handlers = [] then [] else .other :: x.handlers

/-- Taking a trap: TCAUSE, TVAL and EPC are set, the pc goes to TRAPV, nothing issues on the core for two cycles, and the
handler's first word is the next to issue (07 R116, 20 R306). With TRAPV 0 it is escalated (20 R308). `word` is the word
that trapped. -/
def takeTrap (c : CoreId) (b : BerthId) (code : Code) (slot : Nat) (tval epc word : W64) (s : State) : State :=
  let s := if code = .pmiss then bump (hPmiss (quadOf c)) 1 s else s
  let s := s.updBerth c b (fun x =>
    { x with tcode := code.num, tslot := BitVec.ofNat 3 slot, tval := tval, epc := epc &&& ~~~0xF, wait := .none,
             stall := 0, handlers := x.nest })
  if (s.berth c b).trapv = 0 then escalate c b word s
  else
    s.updCore c (fun k =>
      { k.updBerth b (fun x => { x with pc := x.trapv, setter := word, entering := some word }) with
        skip := 2, cur := b, running := true })

/-- A waiting berth takes its trap at the start of a cycle, in which, as in the two after it, nothing issues (20 R306). -/
def takeTrapWaiting (c : CoreId) (b : BerthId) (code : Code) (slot : Nat) (tval epc word : W64) (s : State) : State :=
  let t := takeTrap c b code slot tval epc word s
  if (s.berth c b).trapv = 0 then t else t.updCore c (fun k => { k with skip := 3 })

/-- The unit's hold on this berth's entries ends (09 R150, 10 R196). -/
def Berth.release (x : Berth) (u : TrapUnit) : Berth :=
  { x with unitHolds := x.unitHolds.filter (fun v => !decide (v = u)) }

/-- A result joins a list in the order of issue, behind those of its own word. -/
def insertPend (r : Pend) : List Pend → List Pend
  | [] => [r]
  | x :: l => if r.id < x.id then r :: x :: l else x :: insertPend r l

/-- Results in the order in which their words issued, which within a unit is that of their starts (08 R130). -/
def startOrder (l : List Pend) : List Pend := l.foldl (fun l r => insertPend r l) []

/-- Results that an RTT of the berth puts in flight again: those held since the FIFO_OVF whose handler it ends (03 R30). -/
def Berth.freed (x : Berth) : List Pend :=
  match x.handlers with
  | .ovf n :: _ => x.held.drop n
  | _ => []

/-- An RTT ends the innermost handler. At the outermost the mark of a lock that has released goes where EPC no longer names its
LOCK (07 R104, 20 R306, R307). -/
def Berth.returned (x : Berth) : Berth :=
  match x.handlers with
  | [] => x
  | h :: r =>
    let y := { x with handlers := r, lockPassed := x.lockPassed && !(r.isEmpty && x.epc != x.lockAt) }
    match h with
    | .unit u => y.release u
    | .ovf n => { y with held := x.held.take n }
    | .other => y

/-- An RTT of the berth ends the handler of a FIFO_OVF. -/
def Berth.endsOvf (x : Berth) : Bool :=
  match x.handlers with
  | .ovf _ :: _ => true
  | _ => false

/-- Return from a trap: the pc goes to EPC. The RTT that ends a FIFO_OVF's handler puts the results held for it in flight again at
their remaining latencies, counted from the next cycle and in start order, and the one that ends the handler of an engine's trap
releases the entries of its unit (07 R116, 08 R130, 20 R306, R307). -/
def returnTrap (c : CoreId) (b : BerthId) (word : W64) (s : State) : State :=
  s.updCore c (fun k =>
    let x := k.berth b
    { k.setBerth b { x.returned with pc := x.epc, setter := word } with
      inflight := startOrder (x.freed.map (fun r => { r with rem := r.rem + 1 }) ++ k.inflight),
      lde := k.lde.map (fun a => if x.endsOvf && decide (a.hold = some b) then { a with hold := none } else a) })

/-! ## Guards and the issue of a word (02 R22, 06 R80, R83, R93) -/

/-- Why a word does not take effect: a trap with its slot and TVAL, it is held and tried again, or what it reads has an uncorrectable
error, by class and line (20 R312, 27 R372). -/
inductive Stop | trap (code : Code) (slot : Nat) (tval : W64) | hold | uce (n : Fin 16) (line : W64)
  deriving DecidableEq, Repr

/-- Reading operands and acting, with every effect dropped on a trap (03 R29). -/
abbrev M := StateT State (Except Stop)

def raise (code : Code) (slot : Nat) (tval : W64) : M α := fun _ => .error (.trap code slot tval)

def holdWord : M α := fun _ => .error .hold

/-- A read that finds an uncorrectable error. -/
def failing (n : Fin 16) : Option Nat → M Unit
  | some l => fun _ => .error (.uce n (BitVec.ofNat 64 l))
  | none => pure ()

/-- The sequencer meets an error: its core stops with the cycle's issue (27 R372). -/
def State.meetsUce (s : State) (c : CoreId) (b : BerthId) (n : Fin 16) (line : W64) : State :=
  s.updCore c (fun k => { k with uce := some (n, line, b) })

/-- A check that raises a trap when it fails. -/
def need (ok : Bool) (code : Code) (slot : Nat) (tval : W64) : M Unit :=
  if ok then pure () else raise code slot tval

/-- The guard of a header (06 R80). -/
def Berth.guard (x : Berth) (h : Head) : Bool := (x.readP h.ga != h.gan) && (x.readP h.gb != h.gbn)

/-- Opcode of an instruction; an event has none and reads 0. -/
def opcOf (i : Instr) : Nat :=
  match encodeRaw i with
  | some r => r.opc
  | none => 0

/-- Bits [127:64] of an instruction's word, TVAL of a refused word (20 R305). -/
def wordHi (i : Instr) : W64 :=
  match encode i with
  | some w => w.extractLsb' 64 64
  | none => 0

/-- Kinds of access of a word: l, s and e as bits 0 to 2 (07 R119). R119 does not place the words on a barrier object: BOARM and BOCLR,
which write one, are taken as s and BORD, which reads one, as l (DESIGN CHOICE, log 80). -/
def kindsOf (opc : Nat) : BitVec 3 :=
  if opc = 0x181 ∨ opc = 0x184 ∨ opc = 0x186 ∨ opc = 0x188 ∨ opc = 0x18A ∨ opc = 0x191 ∨ opc = 0x192 then 2
  else if opc = 0x190 ∨ opc = 0x193 ∨ opc = 0x194 then 3
  else if opc = 0x1A0 ∨ opc = 0x1A1 then 2
  else if 0x180 ≤ opc ∧ opc < 0x200 then 1
  else if 0x200 ≤ opc ∧ opc < 0x340 ∧ opc ≠ 0x28D then 4
  else 0

/-- A fence of the berth still holds words of these kinds (07 R120, R122, 09 R162). -/
def Berth.fenced (x : Berth) (k : BitVec 3) : Bool := x.fences.any (fun f => decide (f.post &&& k ≠ 0))

/-- Main-file names in the slots of a word, with their slots; the system-register numbers of MTSP and MFSP stand at
the same level and are left out (03 R31, 20 R321). -/
def mainNames (r : Raw) : List (Nat × Nat) :=
  if 0x340 ≤ r.opc then []
  else ([(0, r.a), (1, r.b), (2, r.c), (3, r.d), (4, r.e)] : List (Nat × Nat)).filterMap
    (fun p => if p.2 < 65536 then some (p.1, p.2 / 64) else none)

/-- Lender k is present, and 0 is the core itself. -/
def Core.lent (k : Core) (i : Nat) : Bool := i == 0 || bit k.lend (i - 1)

/-- An immediate tile of an array word (10 R192). -/
def immTile (r : Raw) : Option Nat :=
  if 0x280 ≤ r.opc ∧ r.opc < 0x300 ∧ r.opc ≠ 0x28D ∧ immMark ≤ r.b then some (r.b - immMark) else none

/-- A refused word whose immediate tile is above 7, issued on a core with no lender, fails in slot B too: of the slots that fail
the first is named (06 R90, R93). -/
def rejectOn (k : Core) (w : W128) (r : Reject) : Reject :=
  match immTile (Raw.ofWord w) with
  | some t => if r ≠ .opcode ∧ 7 < t ∧ t < 32 ∧ k.lend = 0 ∧ 1 < r.slotNo then .slot 1 else r
  | none => r

/-- An immediate tile above 7 on a core with no lender is outside the encoding (06 R90, order 1 of R93). -/
def tileIllop (i : Instr) (k : Core) : Bool :=
  match (encodeRaw i).bind immTile with
  | some t => decide (7 < t) && decide (k.lend = 0)
  | none => false

/-- The first lent name or tile whose lender is absent, with its slot (order 4 of 06 R93). -/
def lendMissing (i : Instr) (k : Core) : Option (Nat × Nat) :=
  match encodeRaw i with
  | some r =>
    let t : List (Nat × Nat) := match immTile r with
      | some t => if k.lent (t / 8) then [] else [(1, t)]
      | none => []
    let v := (mainNames r).filter (fun p => !k.lent (p.2 / 256))
    (t ++ v).foldl (fun (a : Option (Nat × Nat)) p => match a with
      | some q => if p.1 < q.1 then some p else some q
      | none => some p) none
  | none => none

/-- Results that a word of this opcode gives: TSR gives two scalars, a repeated load counts as one until its transfers are
made (03 R41; log 54). -/
def resultCount (opc : Nat) : Nat :=
  if opc = 0x013 then 2
  else if opc = 0x004 ∨ opc = 0x006 ∨ opc = 0x00B ∨ opc = 0x00D ∨ opc = 0x012 ∨ opc = 0x019 ∨ opc = 0x01B ∨ opc = 0x060
      ∨ opc = 0x344 ∨ (0x030 ≤ opc ∧ opc < 0x060) ∨ (0x080 ≤ opc ∧ opc < 0x180) then 1
  else if 0x180 ≤ opc ∧ opc < 0x200 ∧ kindsOf opc ≠ 2 ∧ opc ≠ 0x1A0 ∧ opc ≠ 0x1A1 then 1
  else 0

/-- Results that a result in flight stands for. -/
def Pend.count (r : Pend) : Nat :=
  match r.val with
  | .pair .. => 2
  | _ => 1

/-- Results issued and not yet written back: in flight, waiting for room or for RTT, and those of entries that have not given
theirs (03 R41). -/
def Core.pending (k : Core) : Nat :=
  ((k.inflight ++ k.ldPush ++ k.berths.toList.flatMap (fun x => x.held)).map Pend.count).sum
  + k.vxeQ.length + ((k.ldeQ ++ (k.lde.map (fun a => [a.q])).getD []).map (fun q => resultCount (opcOf q.ins))).sum

/-- Room in the queues that the word enters (02 R23). -/
def Core.queueRoom (k : Core) (opc : Nat) : Bool :=
  let q := fun (l : List QEntry) => decide (l.length < 16)
  if opc = 0x022 then q k.ldeQ && q k.steQ
  else if opc < 0x080 ∨ opc = 0x28D ∨ 0x340 ≤ opc then true
  else if opc < 0x180 then q k.vxeQ
  else if opc < 0x200 then (if kindsOf opc = 2 then q k.steQ else q k.ldeQ)
  else if opc < 0x280 then q k.cpyQ
  else if opc < 0x300 then q k.arrQ
  else q k.sfQ

/-- The word makes no 129th result in flight (03 R41). -/
def Core.resultRoom (k : Core) (opc : Nat) : Bool := decide (resultCount opc = 0 ∨ k.pending + resultCount opc ≤ 128)

/-- Room for a word whose guard holds. -/
def Core.room (k : Core) (opc : Nat) : Bool := k.queueRoom opc && k.resultRoom opc

/-- A privileged opcode (20 R321). -/
def privileged (opc : Nat) : Bool := decide (0x340 ≤ opc)

/-- The core whose word is issued, and its running berth. -/
def State.self (s : State) : Core := s.core s.cur
def State.me (s : State) : Berth := s.self.berth s.self.cur

/-- Change the issuing core or berth. -/
def updSelf (f : Core → Core) : M Unit := modify (fun s => s.updCore s.cur f)
def updMe (f : Berth → Berth) : M Unit := updSelf (fun k => k.updBerth k.cur f)

/-- The scheduling effect of a word that leaves the queue of fetches: the pc moves past it, its STALL is applied, and
with YLD the block ends (06 R80, R83). -/
def scheduled (h : Head) (s : State) : State :=
  s.updCore s.cur (fun k =>
    let k := k.updBerth k.cur (fun x =>
      { x with pc := x.pc + 16, setter := x.pc, stall := h.stall.val, entering := none })
    { k with running := !h.yld, issued := 1, serial := k.serial + 1 })

/-- An issue restriction that comes before the word is checked: its engine's queue is full, or a fence of the berth holds
words of its kind (02 R22 step 1, 07 R120). -/
def State.holdsOff (s : State) (opc : Nat) : Bool := s.me.fenced (kindsOf opc) || !s.self.queueRoom opc

/-- A word that writes a vector register: opcodes of the vector pipe but those that write a mask or a scalar, and the vector
loads, with a destination beside the latch (06 R85, 08 R126). -/
def vectorDest (r : Raw) : Bool :=
  decide (r.wb = 1 ∧
    ((0x080 ≤ r.opc ∧ r.opc < 0x0F0 ∧ r.opc ≠ 0x08B ∧ r.opc ≠ 0x0D1) ∨ r.opc = 0x180 ∨ r.opc = 0x182 ∨ r.opc = 0x183))

/-- TVAL of a trap at issue: for TAGX, bit 20 stands for a vector register in slot 0, the destination, whose tag the spec
leaves open (20 R305; log 54). -/
def trapTval (i : Instr) (code : Code) (tval : W64) (s : State) : W64 :=
  if code = .tagx ∧ ((encodeRaw i).map vectorDest).getD false then
    tval ||| BitVec.ofNat 64 (2 ^ 20 + (Config.destTag s.self.serial).toNat)
  else tval

/-- Issue of a word: the checks of 06 R93 in their order, then its own effect. A word whose queue is full is held before it
is checked; a guard that is false drops the word; a trap leaves the state as it was and is taken; a held word is tried
again, and so is one that meets an uncorrectable error, once the gang resumes. -/
def issue (i : Instr) (h : Head) (body : M Unit) (s : State) : Out :=
  let x := s.me
  let k := s.self
  let opc := opcOf i
  let trap := fun (code : Code) (slot : Nat) (tval epc : W64) =>
    takeTrap s.cur k.cur code slot tval epc x.pc
      (s.updBerth s.cur k.cur (fun x => { x with entering := none }))
  if s.holdsOff opc then .next s
  else if tileIllop i k then .next (trap .illop 1 (wordHi i) x.pc)
  else if !x.guard h then .next (scheduled h s)
  else if !k.resultRoom opc then .next s
  else if privileged opc && !k.priv then .next (trap .priv 7 (wordHi i) x.pc)
  else match lendMissing i k with
    | some (slot, name) => .next (trap .lendx slot (BitVec.ofNat 64 name) x.pc)
    | none =>
      match body (scheduled h s) with
      | .ok (_, s') => .next s'
      | .error .hold => .next s
      | .error (.uce n line) => .next (s.meetsUce s.cur k.cur n line)
      | .error (.trap code slot tval) => .next (trap code slot (trapTval i code tval s) (if code = .trap then x.pc + 16 else x.pc))

/-- The word being issued, seen from its body: its serial number and address. -/
def State.wordId (s : State) : Nat := s.self.serial
def State.wordAddr (s : State) : W64 := s.me.setter

/-- A result of the word being issued, of latency `lat` (07 R101). -/
def result (unit : ResUnit) (dst : Dst) (val : RVal) (lat : Nat) (fl : Flags) : M Unit :=
  modify (fun s => s.updCore s.cur (fun k =>
    { k with inflight := k.inflight ++
        [{ unit := unit, dst := dst, val := val, rem := lat - 1, berth := k.cur, addr := s.wordAddr, id := k.serial,
           flags := fl, tok := 0 }] }))

/-- The block ends and the berth waits at this word (07 R104). -/
def waitHere (w : Wait) : M Unit :=
  updSelf (fun k => { k.updBerth k.cur (fun x => { x with pc := x.setter, wait := w }) with running := false })

/-- The block ends with the berth ready at the next word (07 R104). -/
def endBlock : M Unit := updSelf (fun k => { k with running := false })

/-- The running berth's pc goes to a target; the next issue cycle is empty and counts as the first of STALL
(07 R105). -/
def branch (target : W64) : M Unit :=
  updMe (fun x => { x with pc := target, stall := max x.stall 1 })

/-! ## Time (02 R20, R21) -/

/-- Unsigned order of CYC values. -/
def cycGe (a b : W64) : Bool := decide (b.toNat ≤ a.toNat)

end Sys2Proof.Machine
end

