-- ==== Sys2Proof/Machine/Operands.lean ====
section
/-! DEFINITION. Every operand form: scalars, immediates, vector registers with part and swap, masks, draw coordinates,
references, repeats and location words (03 R29, R32, R36, 06 R86 to R90, 08 R128, R145, 09 R152, R175, 10 R192). -/

namespace Sys2Proof.Machine

open Sys2Proof

/-! ## Scalars -/

/-- A scalar source, popped or peeked; too few entries raise FIFO_UNF (03 R29, R30). -/
def readS (slot : Nat) (x : SSrc) : M W64 := do
  match x with
  | .ls => return (← get).me.ls
  | .s n pk =>
    match (← get).me.s.get n with
    | [] => raise .fifoUnf slot 0
    | v :: r => do
      if pk then pure () else updMe (fun b => b.setS n r)
      return v

/-- A scalar source or an integer immediate, sign-extended (06 R88). -/
def readSI (slot : Nat) : SOp → M W64
  | .src x => readS slot x
  | .imm v => pure (v.signExtend 64)

/-- A scalar destination as the place of a result. -/
def dstS : SDst → Dst
  | none => .none
  | some n => .s n

/-! ## Vector registers -/

/-- A vector register with an uncorrectable error has no address (27 R372; log 20). -/
def State.fileErr (s : State) (c : CoreId) : VLoc → Option Nat
  | .opf n => if (s.core c).fileBad.contains (256 + n.val) then some 0 else none
  | .lv => if (s.core c).fileBad.contains 264 then some 0 else none
  | .ll => if (s.core c).fileBad.contains 265 then some 0 else none
  | .main n _ => match s.vOwner c n with
    | some (o, i) => if (s.core o).fileBad.contains i.val then some 0 else none
    | none => none

/-- A vector source's entry, popped or peeked; a latch reads as at the start of the cycle (03 R29, R32). -/
def readV (slot : Nat) (x : VSrc) : M VEntry := do
  let s ← get
  failing 1 (s.fileErr s.cur x.loc)
  match x.loc with
  | .opf n => return s.self.opf.get n
  | .lv => return s.self.lv
  | .ll => return s.self.ll
  | .main n pk =>
    match s.vFifo s.cur n with
    | [] => raise .fifoUnf slot 0
    | v :: r => do
      if pk then pure () else set (s.setVFifo s.cur n r)
      return v

/-- A vector destination as the place of a result. -/
def dstV : VDst → Dst
  | .latch => .none
  | .main n => .v n
  | .opf n => .opf n

/-- Lane `l` of a lane block. -/
def Lanes.at (v : Lanes) (l : Nat) : W32 := v.get (Fin.ofNat 1024 l)

/-- A lane block from a function of the lane number. -/
def mkLanes (f : Nat → W32) : Lanes := ⟨((List.range 1024).map f).toArray, by simp⟩

/-- A side field from a function of the block number. -/
def mkSide (f : Nat → W16) : Vector W16 256 := ⟨((List.range 256).map f).toArray, by simp⟩

/-- Side entry `k` (03 R35). -/
def VEntry.sideAt (e : VEntry) (k : Nat) : W16 := e.side.get (Fin.ofNat 256 k)
def VEntry.scale (e : VEntry) (k : Nat) : Byte := (e.sideAt k).truncate 8
def VEntry.clove (e : VEntry) (k : Nat) : Byte := (e.sideAt k >>> 8).truncate 8

/-- Exchange of the halves of a lane (03 R36). -/
def swapHalves (x : W32) : W32 := (x <<< 16) ||| (x >>> 16)

/-- Width and lowest bit of a part; whole is the lane (03 R36). -/
def partPlace : Part → Nat × Nat
  | .whole => (32, 0) | .h0 => (16, 0) | .h1 => (16, 16) | .b0 => (8, 0) | .b1 => (8, 8) | .b2 => (8, 16)
  | .b3 => (8, 24) | .n0 => (4, 0) | .n1 => (4, 4) | .n2 => (4, 8) | .n3 => (4, 12) | .n4 => (4, 16)
  | .n5 => (4, 20) | .n6 => (4, 24) | .n7 => (4, 28)

/-- A field of a lane. -/
def sub (x : W32) (lo w : Nat) : W32 := BitVec.ofNat 32 (x.toNat / 2 ^ lo % 2 ^ w)

/-- A source as the operations see it: its entry with the swap applied, and its part. -/
structure Src where
  e : VEntry
  swp : Bool
  part : Part

/-- A lane after the swap. -/
def Src.lane (x : Src) (l : Nat) : W32 := if x.swp then swapHalves (x.e.lanes.at l) else x.e.lanes.at l

/-- A lane read raw: the part, zero-extended (03 R36). -/
def Src.raw (x : Src) (l : Nat) : W32 := let (w, lo) := partPlace x.part; sub (x.lane l) lo w

/-- Element code i of lane l; a part stands in every position (08 R128). -/
def Src.code (x : Src) (l i : Nat) : W32 :=
  match x.part with
  | .whole => sub (x.lane l) (i * width x.e.tag) (width x.e.tag)
  | _ => x.raw l

/-- Element i of lane l as an exact value, with its block scale (04 R46, 08 R128); the block is that of the element
the code was taken from. -/
def Src.val (x : Src) (l i : Nat) : XR :=
  let n := count x.e.tag
  let i' := match x.part with
    | .whole => i
    | p => (partPlace p).2 / width x.e.tag
  let k := (l * n + i') / 32
  decBlock x.e.tag (x.code l i) (x.e.scale k) (x.e.clove k)

/-- The part fits the entry's tag (03 R36). -/
def Src.partOk (x : Src) : Bool := decide (x.part = .whole) || decide ((partPlace x.part).1 = width x.e.tag)

/-- Read a vector source. -/
def readSrc (slot : Nat) (x : VSrc) : M Src := do
  let e ← readV slot x
  return ⟨e, x.swp, x.part⟩

/-- A vector operand that may be an immediate. -/
inductive VArg | src (x : Src) | imm (v : W16)

def readVI (slot : Nat) : VOp → M VArg
  | .src x => do return .src (← readSrc slot x)
  | .imm v => pure (.imm v)

/-- The tags TVAL reports for TAGX at issue: the tag of each vector register, and a bit for its slot
(20 R305). -/
def tagTval (l : List (Nat × Fmt)) : W64 :=
  l.foldl (fun a p => a ||| BitVec.ofNat 64 (p.2.code <<< (4 * p.1) ||| 1 <<< (20 + p.1))) 0

/-- Slot and tag of a register operand, for `tagTval`. -/
def VArg.tags (slot : Nat) : VArg → List (Nat × Fmt)
  | .src x => [(slot, x.e.tag)]
  | .imm _ => []

/-! ## Immediates in vector operations (06 R88, 08 R128) -/

/-- The element code an immediate stands for under tag `t`, with the flags of its conversion. -/
def immCode (t : Fmt) (v : W16) : W32 × Flags :=
  if isFloat t then roundTo (decFloat .bf16 (v.zeroExtend 32)) t .rne 0
  else (BitVec.ofNat 32 ((v.signExtend 32).toNat % 2 ^ width t), 0)

/-- An element code of an operand under the word's tag. -/
def VArg.code (t : Fmt) (x : VArg) (l i : Nat) : W32 :=
  match x with
  | .src y => y.code l i
  | .imm v => (immCode t v).1

/-- Its exact value. -/
def VArg.val (t : Fmt) (x : VArg) (l i : Nat) : XR :=
  match x with
  | .src y => y.val l i
  | .imm v => decPlain t (immCode t v).1

/-- Flags of the immediate's conversion. -/
def VArg.flags (t : Fmt) : VArg → Flags
  | .src _ => 0
  | .imm v => (immCode t v).2

/-- A lane of a raw operand: an immediate is carried in every element position of tag `t` (06 R88, 08 R128). -/
def VArg.raw (t : Fmt) (x : VArg) (l : Nat) : W32 :=
  match x with
  | .src y => y.raw l
  | .imm v =>
    let w := width t
    let c := (v.signExtend 32).toNat % 2 ^ w
    BitVec.ofNat 32 ((List.range (32 / w)).foldl (fun a i => a + c <<< (i * w)) 0)

/-! ## Read latency (08 R130) -/

/-- Cycles that reading a source adds. -/
def locCost : VLoc → Nat
  | .main n _ => if n.val < 256 then 2 else 4
  | .opf _ => 1
  | .lv | .ll => 0

def srcCost (x : VSrc) : Nat := locCost x.loc

def opCost : VOp → Nat
  | .src x => srcCost x
  | .imm _ => 0

/-! ## References, repeats, draw coordinates -/

/-- A reference: an immediate is in range already; a scalar is checked after the order of 06 R93 (06 R90). The value
is returned unchecked and checked by `refOk`. -/
def readRef (slot : Nat) : Ref → M W64
  | .imm n => pure (n.zeroExtend 64)
  | .src x => readS slot x

def refOk (slot : Nat) (v : W64) : M Unit := need (decide (v.toNat < 4096)) .illop slot v

/-- REP and STEP of a repeat slot with natural step `nat` (06 R90). -/
def readRep (slot : Nat) (nat : Int) : Rep → M (Nat × Int)
  | .imm n => pure (n.toNat, nat)
  | .src x => do
    let v ← readS slot x
    return (fld v 11 0, (BitVec.ofNat 16 (fld v 27 12)).toInt)

/-- A location word (09 R175): an immediate is zero-extended. -/
def readLw (slot : Nat) : Lw → M W64
  | .imm v => pure (v.zeroExtend 64)
  | .src x => readS slot x

/-- The check of Sp (08 R145). -/
def spOk (slot : Nat) (sp : W64) : M Unit :=
  need (decide (1 ≤ fld sp 15 0 ∧ fld sp 15 0 ≤ 8192 ∧ fld sp 63 56 = 0)) .illop slot sp

/-- Key(dom) of the issuing core at issue (04 R55, 08 R130). -/
def State.key (s : State) (dom : Nat) : W64 := domKey s.self.seed0 s.self.seed1 s.self.layer dom

/-- A mask bit. -/
def Mask.at (m : Mask) (l : Nat) : Bool := m.getLsbD l

end Sys2Proof.Machine
end

