-- ==== Sys2Proof/Machine/Flags.lean ====
section
/-! DEFINITION. Where flags are gathered and written: conditions of scalar words, flag sums over lanes, and FPF
(03 R39, 04 R57, R58, 07 R106, 08 R130). -/

namespace Sys2Proof.Machine

open Sys2Proof

/-- Cond(a, b) (07 R106). -/
def condHolds : Cond → W64 → W64 → Bool
  | .eq, a, b => decide (a = b)
  | .ne, a, b => decide (a ≠ b)
  | .lt, a, b => a.slt b
  | .ge, a, b => !a.slt b
  | .ltu, a, b => a.ult b
  | .geu, a, b => !a.ult b

/-- Flags take effect at writeback: FPF gathers them (04 R58). -/
def Core.raise (k : Core) (fl : Flags) : Core := { k with fpf := k.fpf ||| fl }

/-- The flags of all enabled lanes of a vector word together (04 R58, 08 R129). -/
def laneFlags (m : Mask) (f : Nat → Flags) : Flags :=
  (List.range 1024).foldl (fun a l => if m.at l then a ||| f l else a) 0

/-- Flags of the first `n` elements of a lane. -/
def elemFlags (n : Nat) (f : Nat → Flags) : Flags := (List.range n).foldl (fun a i => a ||| f i) 0

/-- Write-one-to-clear of FPF by MTS (00 R4, 03 R39). -/
def clearFlags (old : Flags) (v : W64) : Flags := old &&& ~~~(v.truncate 6)

/-- Elements of a lane packed from element 0 up. -/
def packLane (w n : Nat) (f : Nat → W32) : W32 :=
  BitVec.ofNat 32 ((List.range n).foldl (fun a i => a + ((f i).toNat % 2 ^ w) <<< (i * w)) 0)

end Sys2Proof.Machine
end

