-- ==== Sys2Proof/Machine/Control.lean ====
section
/-! DEFINITION. Control words: branches, ends of blocks, locks, named barriers, tokens, time, system registers,
locality and fences (spec 07 R104 to R122). -/

namespace Sys2Proof.Machine

open Sys2Proof

/-- A result of latency 1 written by the sequencer into a scalar and LS. -/
def seqResult (d : SDst) (v : W64) : M Unit := result .seq (dstS d) (.s v) 1 0

/-! ## Branches (07 R105) -/

/-- Target of a distance in words from the branch word. -/
def target (addr : W64) (dist : W64) : W64 := addr + dist * 16

/-- A register target has bits [3:0] zero, or the word raises ALIGN. -/
def branchReg (slot : Nat) (v : W64) : M Unit := do
  need (decide (v.toNat % 16 = 0)) .align slot v
  branch v

def execNop (h : Head) (s : State) : Out := issue (.nop h) h (pure ()) s

def execBr (h : Head) (dist : W32) (s : State) : Out :=
  issue (.br h dist) h (do branch (target (← get).wordAddr (dist.signExtend 64))) s

def execBrc (h : Head) (c : Cond) (a : SSrc) (b : SOp) (dist : W16) (s : State) : Out :=
  issue (.brc h c a b dist) h (do
    let x ← readS 1 a
    let y ← readSI 2 b
    if condHolds c x y then branch (target (← get).wordAddr (dist.signExtend 64)) else pure ()) s

def execBri (h : Head) (a : SSrc) (s : State) : Out :=
  issue (.bri h a) h (do
    let x ← readS 1 a
    branchReg 1 x) s

def execCall (h : Head) (d : SDst) (dist : W32) (s : State) : Out :=
  issue (.call h d dist) h (do
    let a := (← get).wordAddr
    seqResult d (a + 16)
    branch (target a (dist.signExtend 64))) s

def execRet (h : Head) (a : SSrc) (s : State) : Out :=
  issue (.ret h a) h (do
    let x ← readS 1 a
    branchReg 1 x) s

def execLoop (h : Head) (d : SDst) (a : SSrc) (dist : W16) (s : State) : Out :=
  issue (.loop h d a dist) h (do
    let x ← readS 1 a
    let t := x - 1
    seqResult d t
    if t ≠ 0 then branch (target (← get).wordAddr (dist.signExtend 64)) else pure ()) s

/-! ## Ends of blocks, heartbeat, schedules (07 R104, R107 to R109) -/

/-- The block ends; the berth is ready again once the next word can read and nothing of its is in flight. -/
def execWait (h : Head) (s : State) : Out :=
  issue (.wait h) h (do
    updMe (fun x => { x with wait := .wait })
    endBlock) s

def execYield (h : Head) (s : State) : Out := issue (.yield h) h endBlock s

/-- The berth ends; once the strand's berths have all ended, the holds of its XFENCE words do (07 R107, 10 R201). -/
def execExit (h : Head) (s : State) : Out :=
  issue (.exit h) h (do
    updMe (fun x => { x with exited := true })
    updSelf (fun k =>
      if k.berths.toList.all (fun b => !b.started || b.exited) then { k with holds := [] } else k)
    endBlock) s

/-- PERS of a launch record (19 R295). -/
def Launch.pers (l : Launch) : Bool := bit (l.record.get 1) 28

/-- The watchdog period of a persistent kernel's strand restarts (07 R108, 19 R303). -/
def execBeat (h : Head) (s : State) : Out :=
  issue (.beat h) h (do
    let s ← get
    match s.gangOf s.cur with
    | some (_, l) => if l.pers then updSelf (fun k => { k with beat := s.cyc }) else pure ()
    | none => pure ()) s

/-- The first entry of a schedule table whose class is at least `size`, with its label (07 R109). -/
def schedule (l : Launch) (size : W16) : Option (Nat × W64) :=
  ((List.range 8).filter (fun k => decide (k < fld (l.record.get 1) 53 50))).findSome? (fun k =>
    let w := l.record.get (Fin.ofNat 16 (k + 8))
    if size.toNat ≤ fld w 15 0 then some (k, BitVec.ofNat 64 (fld w 39 16)) else none)

def execPhase (h : Head) (d : SDst) (s : State) : Out :=
  issue (.phase h d) h (do
    let s ← get
    match (s.gangOf s.cur).bind (fun g => schedule g.2 s.self.psize) with
    | some (k, off) => do
      seqResult d (BitVec.ofNat 64 k)
      branch off
    | none => seqResult d 8) s

/-! ## Lock and named barriers (07 R110 to R112) -/

/-- The berth arrives at the gang's lock and waits for its release; the arrival is recorded once (07 R104). A LOCK that
executes again after its lock has released ends the block, and the berth is ready at once. -/
def execLock (h : Head) (s : State) : Out :=
  issue (.lock h) h (do
    let s ← get
    if s.me.lockPassed && s.me.lockAt == s.wordAddr then
      updMe (fun x => { x with lockPassed := false })
      endBlock
    else
      updMe (fun x => { x with lockArrived := true, lockPassed := false, lockAt := s.wordAddr })
      waitHere .lock) s

/-- Every core of a gang mirrors EXP and ARR of its barrier (03 R38). -/
def mirrorBar (l : Launch) (n : Fin 96) (s : State) : State :=
  l.cores.foldl (fun s c => s.updCore c (fun k =>
    let (_, _, ph) := k.bars.get n
    let (e, a, _) := l.bars.get n
    { k with bars := k.bars.set n.val (e, a, ph) n.isLt })) s

/-- Typical ticks from the last arrival to the release message (07 R111). -/
def barRelease (l : Launch) : Nat :=
  match l.cores.map dieOf with
  | [] => 60
  | d :: r => if r.all (fun x => x == d) then 60 else 190

/-- One arrival at a barrier: the first of a phase sets EXP, and the last toggles the phase, whose message then goes to
every die of the gang (07 R111, 12 R229). -/
def arrive (n : Fin 96) (count : W16) (s : State) : State :=
  match s.gangOf s.cur with
  | none => s
  | some (i, l) =>
    let (e, a, ph) := l.bars.get n
    let e := if a = 0 then count else e
    let a := a + 1
    if a = e then
      let l := { l with bars := l.bars.set n.val (e, 0, !ph) n.isLt }
      let at_ := s.cyc + BitVec.ofNat 64 (barRelease l)
      let s := (mirrorBar l n s).setLaunch i l
      { s with inputs := s.inputs ++ (l.cores.map dieOf).eraseDups.map (fun d => (at_, .barrierReleaseMessage i d n)) }
    else
      let l := { l with bars := l.bars.set n.val (e, a, ph) n.isLt }
      (mirrorBar l n s).setLaunch i l

/-- The count checks of BARA and BARAW (07 R112). -/
def countOk (n : Fin 96) (v : W64) : M Unit := do
  let s ← get
  let (size, e, a) := match s.gangOf s.cur with
    | some (_, l) => (l.size, (l.bars.get n).1, (l.bars.get n).2.1)
    | none => (0, 0, 0)
  need (decide (1 ≤ v.toNat ∧ v.toNat ≤ size)) .barto 2 (BitVec.ofNat 64 (2 ^ 63 + v.toNat % 65536))
  need (decide (a = 0 ∨ e.toNat = v.toNat)) .barto 2 (BitVec.ofNat 64 (2 ^ 63 + e.toNat))

/-- Phase of a named barrier as the core mirrors it. -/
def Core.barPh (k : Core) (n : Fin 96) : Bool := (k.bars.get n).2.2

def execBara (h : Head) (d : SDst) (n : Fin 96) (count : SOp) (s : State) : Out :=
  issue (.bara h d n count) h (do
    let v ← readSI 2 count
    countOk n v
    seqResult d (BitVec.ofNat 64 (b2n ((← get).self.barPh n)))
    modify (arrive n (v.truncate 16))) s

/-- Ticks a berth waits at a named barrier before BARTO (07 R112). -/
def barLimit : W64 := 160000

def execBarw (h : Head) (n : Fin 96) (ph : SOp) (s : State) : Out :=
  issue (.barw h n ph) h (do
    let v ← readSI 2 ph
    let s ← get
    if s.self.barPh n ≠ bit v 0 then pure () else waitHere (.bar n (bit v 0) (s.cyc + barLimit))) s

/-- The berth has made its arrival at a barrier in the barrier's present phase. -/
def Berth.marked (x : Berth) (n : Fin 96) : Bool := x.barMarks.contains n

/-- A barrier's arrival mark goes. -/
def Berth.unmark (n : Fin 96) (x : Berth) : Berth := { x with barMarks := x.barMarks.filter (fun m => !decide (m = n)) }

/-- A word executed again in the same phase finds its arrival made and counts no second (07 R104, 20 R307). -/
def execBaraw (h : Head) (n : Fin 96) (count : SOp) (s : State) : Out :=
  issue (.baraw h n count) h (do
    let v ← readSI 2 count
    let s ← get
    let here := Wait.bar n (s.self.barPh n) (s.cyc + barLimit)
    if s.me.marked n then waitHere here
    else do
      countOk n v
      modify (arrive n (v.truncate 16))
      updMe (fun x => { x with barMarks := x.barMarks ++ [n] })
      waitHere here) s

/-! ## Micro-batch tokens (07 R113) -/

/-- Take the oldest token of a kind and id out of an inbox. -/
def takeToken (k : MbKind) (mb : Byte) : List (MbKind × Byte) → Option (List (MbKind × Byte))
  | [] => none
  | t :: r => if t = (k, mb) then some r else (takeToken k mb r).map (fun r => t :: r)

def execTokin (h : Head) (k : MbKind) (mb : SOp) (s : State) : Out :=
  issue (.tokin h k mb) h (do
    let v ← readSI 1 mb
    match takeToken k (v.truncate 8) (← get).self.inbox with
    | some r => updSelf (fun c => { c with inbox := r })
    | none => waitHere (.tokin k (v.truncate 8))) s

/-- Tokens the layer-pipeline table holds. -/
def tokenTable : Nat := 256

/-- Enter a token into the table of the gang's partition. -/
def enterToken (k : MbKind) (stage : BitVec 6) (mb : Byte) (c : CoreId) (s : State) : State :=
  match s.gangOf c with
  | none => s
  | some (i, l) =>
    let p := s.part l.part
    s.setPart l.part { p with tokens := p.tokens ++ [⟨k, mb, stage, i, false, []⟩] }

/-- The table of the core's partition has room. -/
def tokenRoom (s : State) (c : CoreId) : Bool :=
  match s.gangOf c with
  | none => true
  | some (_, l) => decide ((s.part l.part).tokens.length < tokenTable)

def execTokout (h : Head) (k : MbKind) (stage mb : SOp) (s : State) : Out :=
  issue (.tokout h k stage mb) h (do
    let st ← readSI 1 stage
    let v ← readSI 2 mb
    let s ← get
    if tokenRoom s s.cur then modify (enterToken k (st.truncate 6) (v.truncate 8) s.cur)
    else waitHere (.tokout k (st.truncate 6) (v.truncate 8))) s

/-! ## Time and waits on objects (07 R114, R115) -/

def execStamp (h : Head) (d : SDst) (off : SOp) (s : State) : Out :=
  issue (.stamp h d off) h (do
    let v ← readSI 1 off
    seqResult d ((← get).self.phs + v)) s

/-- CYC and LCY as one pair; LS gets CYC. -/
def execTsr (h : Head) (d e : Fin 64) (s : State) : Out :=
  issue (.tsr h d e) h (do
    let s ← get
    result .seq (.s2 d e) (.pair s.cyc s.self.lcy) 1 0) s

def execSleepc (h : Head) (a : SSrc) (s : State) : Out :=
  issue (.sleepc h a) h (do
    let v ← readS 1 a
    if cycGe (← get).cyc v then pure () else waitHere (.sleepc v)) s

/-- Address of a barrier object in own LM (06 R90). -/
def objAddr (bo : Fin 4096) : Nat := bo.val * 32

def Core.objPh (k : Core) (bo : Fin 4096) : Bool := bit (k.word (objAddr bo)) 48
def Core.objErr (k : Core) (bo : Fin 4096) : Bool := bit (k.word (objAddr bo)) 49
def Core.objProm (k : Core) (bo : Fin 4096) : W64 := k.word (objAddr bo + 16)

/-- The line of an object with an uncorrectable error (20 R312). -/
def State.objErrs (s : State) (c : CoreId) (bo : Fin 4096) : Option Nat := s.lmErr c (objAddr bo) 32

/-- TVAL of BOBJERR: the object and its error code (07 R115). -/
def bobjTval (k : Core) (bo : Fin 4096) : W64 :=
  BitVec.ofNat 64 (bo.val + fld (k.word (objAddr bo)) 63 56 * 65536)

/-- An object index operand (07 R115). -/
def objIndex (slot : Nat) (v : W64) : M (Fin 4096) := do
  refOk slot v
  return Fin.ofNat 4096 v.toNat

/-- The phase has changed: the word completes, or raises BOBJERR when ERR is set. -/
def flipped (bo : Fin 4096) : M Unit := do
  let k := (← get).self
  need (!k.objErr bo) .bobjerr 7 (bobjTval k bo)

def execSleepp (h : Head) (bo ph : SOp) (s : State) : Out :=
  issue (.sleepp h bo ph) h (do
    let b ← readSI 1 bo
    let p ← readSI 2 ph
    let o ← objIndex 1 b
    let s ← get
    failing 0 (s.objErrs s.cur o)
    let prom := s.self.objProm o
    if s.self.objPh o ≠ bit p 0 then flipped o
    else if prom ≠ 0 ∧ cycGe s.cyc prom then raise .pmiss 7 prom
    else waitHere (.sleepp o (bit p 0) prom)) s

def execWaitp (h : Head) (bo ph : SOp) (s : State) : Out :=
  issue (.waitp h bo ph) h (do
    let b ← readSI 1 bo
    let p ← readSI 2 ph
    let o ← objIndex 1 b
    let s ← get
    failing 0 (s.objErrs s.cur o)
    if s.self.objPh o ≠ bit p 0 then flipped o else waitHere (.waitp o (bit p 0))) s

/-! ## Traps (07 R116) -/

def execTrap (h : Head) (code : W16) (s : State) : Out :=
  issue (.trap h code) h (raise .trap 7 (code.zeroExtend 64)) s

def execRtt (h : Head) (s : State) : Out :=
  issue (.rtt h) h (modify (fun s => returnTrap s.cur s.self.cur s.wordAddr s)) s

/-! ## System registers (03 R39, 07 R117, 20 R321) -/

/-- DRPST: ACT, HALF, REM and CNT (02 R25). -/
def drpst (q : Quad) (k : Core) : W64 :=
  BitVec.ofNat 64 (b2n (decide (q.stretch ≠ 0)) + b2n (decide (q.stretch = 0 ∧ q.window ≠ 0)) * 2
    + (if q.stretch ≠ 0 then q.stretch else q.window) * 256 + k.drpCnt.toNat * 65536)

/-- What a system register reads. -/
def readSys (s : State) (c : CoreId) : SysReg → W64
  | .cyc => s.cyc
  | .lcy => (s.core c).lcy
  | .phs => (s.core c).phs
  | .xwin => (s.core c).xwin.zeroExtend 64
  | .core => (s.core c).vcore.zeroExtend 64
  | .gang => BitVec.ofNat 64 ((s.core c).rank % 65536)
  | .berth => BitVec.ofNat 64 (s.core c).cur.val
  | .heat => (s.core c).heat.zeroExtend 64
  | .lend => (s.core c).lend.zeroExtend 64
  | .seed0 => (s.core c).seed0
  | .seed1 => (s.core c).seed1
  | .layer => (s.core c).layer.zeroExtend 64
  | .srmode => (s.core c).srmode.zeroExtend 64
  | .fpf => (s.core c).fpf.zeroExtend 64
  | .psize => (s.core c).psize.zeroExtend 64
  | .wdp => (s.core c).wdp.zeroExtend 64
  | .trapv => (s.berth c (s.core c).cur).trapv
  | .tcause => (s.berth c (s.core c).cur).tcause
  | .tval => (s.berth c (s.core c).cur).tval
  | .epc => (s.berth c (s.core c).cur).epc
  | .drpth => (s.quad (quadOf c)).thr.zeroExtend 64
  | .drpst => drpst (s.quad (quadOf c)) (s.core c)
  | .pmc n => (s.core c).pmc.get n
  | .pmsel n => ((s.core c).pmsel.get n).zeroExtend 64

/-- A register with no field that a kernel may write (07 R117). -/
def sysReadOnly : SysReg → Bool
  | .cyc | .lcy | .phs | .core | .gang | .berth | .heat | .lend | .wdp | .tcause | .tval | .drpth | .drpst => true
  | _ => false

/-- Bits [63:4] of a code address. -/
def codeAddr (v : W64) : W64 := v &&& ~~~0xF

/-- Write a system register's RW fields, and FPF as W1C; reserved bits are ignored (00 R4, R6). -/
def writeSys (r : SysReg) (v : W64) (k : Core) : Core :=
  match r with
  | .xwin => { k with xwin := v.truncate 8 }
  | .seed0 => { k with seed0 := v }
  | .seed1 => { k with seed1 := v }
  | .layer => { k with layer := v.truncate 32 }
  | .srmode => { k with srmode := v.truncate 2 }
  | .fpf => { k with fpf := clearFlags k.fpf v }
  | .psize => { k with psize := v.truncate 16 }
  | .trapv => k.updBerth k.cur (fun x => { x with trapv := codeAddr v })
  | .epc => k.updBerth k.cur (fun x => { x with epc := codeAddr v })
  | .pmc n => { k with pmc := k.pmc.set n.val v n.isLt }
  | .pmsel n => { k with pmsel := k.pmsel.set n.val (v.truncate 8) n.isLt }
  | .cyc | .lcy | .phs | .core | .gang | .berth | .heat | .lend | .wdp | .tcause | .tval | .drpth | .drpst => k

/-- A named barrier register (03 R38). -/
def barReg (b : W16 × W16 × Bool) : W64 :=
  BitVec.ofNat 64 (b.1.toNat + b.2.1.toNat * 65536 + b2n b.2.2 * 2 ^ 32)

def execMfs (h : Head) (d : SDst) (n : MfsName) (s : State) : Out :=
  issue (.mfs h d n) h (do
    let s ← get
    seqResult d (match n with
      | .sys r => readSys s s.cur r
      | .bar n => barReg (s.self.bars.get n)
      | .win n => s.self.wins.get n)) s

/-- PRIV comes before the operands are read (06 R93 order 3). -/
def execMts (h : Head) (r : SysReg) (a : SOp) (s : State) : Out :=
  issue (.mts h r a) h (do
    need (!sysReadOnly r) .priv 1 (BitVec.ofNat 64 r.code)
    let v ← readSI 2 a
    updSelf (writeSys r v)) s

/-! ## Locality (07 R118, 13 R244) -/

/-- Towpath hops between two dies with every hop up (01 R16). -/
def hops (a b : DieId) : Nat :=
  let d := (a.val + 4 - b.val) % 4
  if d = 3 then 1 else d

/-- Every hop up of n hops from a die on. -/
def State.arcHops (s : State) (a : DieId) (n : Nat) : Bool :=
  (List.range n).all (fun j => s.joints.get (Fin.ofNat 24 ((a.val + j) % 4)))

/-- Towpath hops that a message between two dies crosses: the short way, or the other way round a hop that is down (01 R16). -/
def State.route (s : State) (a b : DieId) : Nat :=
  let f := (b.val + 4 - a.val) % 4
  let r := (a.val + 4 - b.val) % 4
  if s.arcHops a f && (decide (f ≤ r) || !s.arcHops b r) then f
  else if s.arcHops b r then r else Machine.hops a b

/-- An L2 granule is held, and in staging mode (21 R328). -/
def Masks.l2Held (m : Masks) (g : Nat) : Bool := bit (m.l2.get (Fin.ofNat 2 (g / 64))) (g % 64)
def Masks.l2Stg (m : Masks) (g : Nat) : Bool := m.l2Held g && bit (m.stg.get (Fin.ofNat 2 (g / 64))) (g % 64)

/-- The latency-table entry of a core and a slice of the module (13 R244). -/
def latEntry (c : CoreId) (slice : Nat) : Nat :=
  120 + Config.latency c slice % 141 + 180 * hops (dieOf c) (Fin.ofNat 4 (slice / 128))

/-- The result of LOC. -/
def locResult (die : DieId) (hop lat : Nat) : W64 := BitVec.ofNat 64 (die.val + hop * 4 + lat * 65536)

/-- LOC.core: the target core by partition-virtual index; LAT is that of a copy between the LMs (09 R154). -/
def locCore (s : State) (c : CoreId) (v : W64) : W64 :=
  match (s.gangOf c).bind (fun g => g.2.vmap[v.toNat]?) with
  | some t => locResult (dieOf t) (hops (dieOf c) (dieOf t)) (96 + 180 * hops (dieOf c) (dieOf t))
  | none => BitVec.allOnes 64

/-- LOC.slice: a slice of the partition's staging granules. -/
def locSlice (s : State) (c : CoreId) (v : W64) : W64 :=
  let n := v.toNat % 512
  match s.gangOf c with
  | some (_, l) =>
    if (s.part l.part).held.l2Stg (n / 4) then
      locResult (Fin.ofNat 4 (n / 128)) (hops (dieOf c) (Fin.ofNat 4 (n / 128))) (latEntry c n)
    else BitVec.allOnes 64
  | none => BitVec.allOnes 64

def execLoc (h : Head) (slice : Bool) (d : SDst) (a : SOp) (s : State) : Out :=
  issue (.loc h slice d a) h (do
    let v ← readSI 1 a
    let s ← get
    result .seq (dstS d) (.s (if slice then locSlice s s.cur v else locCore s s.cur v)) 4 0) s

/-! ## Fences (07 R119 to R122) -/

/-- A fence of the word being issued over what the berth issued before it. -/
def fence (pre post : BitVec 3) (act : FenceAct) : M Unit := do
  let n := (← get).wordId
  updMe (fun x => { x with fences := x.fences ++ [⟨pre, post, n, none, act⟩] })

def execFence (h : Head) (sc : Scope) (pre post : BitVec 3) (s : State) : Out :=
  issue (.fence h sc pre post) h (fence pre post .none) s

def execFsc (h : Head) (sc : Scope) (s : State) : Out := issue (.fsc h sc) h (fence 7 7 .none) s

/-- The phase kind of a core's gang; a die that has carried out a release has the new kind (07 R110, 12 R228). -/
def State.commOf (s : State) (c : CoreId) : Bool :=
  match s.gangOf c with
  | some (_, l) => if l.released.contains (dieOf c) then !l.comm else l.comm
  | none => false

/-- A queue entry of the word being issued. -/
def entry (i : Instr) (ref rep : Nat) (step : Int) (vals : List W64) (vops : List VEntry) (s : State) : QEntry :=
  let k := s.self
  { ins := i, id := s.wordId, addr := s.wordAddr, berth := k.cur,
    comm := s.commOf s.cur,
    ref := ref, rep := rep, step := step, vals := vals, vops := vops, key0 := s.key 0, key1 := s.key 1, key2 := s.key 2,
    srmode := k.srmode, xwin := k.xwin }

/-- MARK enters the STE queue behind the earlier stores and the LDE queue before the later loads (07 R121). -/
def execMark (h : Head) (s : State) : Out :=
  issue (.mark h) h (modify (fun s =>
    let e := entry (.mark h) 0 0 0 [] [] s
    s.updCore s.cur (fun k => { k with ldeQ := k.ldeQ ++ [e], steQ := k.steQ ++ [e] }))) s

def execTfence (h : Head) (va : Option SSrc) (s : State) : Out :=
  issue (.tfence h va) h (do
    let v ← (match va with
      | some a => do return some (← readS 2 a)
      | none => pure none)
    fence 2 7 (.tinv v)) s

def execRcfence (h : Head) (tid : Option SOp) (s : State) : Out :=
  issue (.rcfence h tid) h (do
    let t ← (match tid with
      | some a => do
        let v ← readSI 2 a
        refOk 2 v
        return some (Fin.ofNat 4096 v.toNat)
      | none => pure none)
    fence 2 7 (.rcinv t)) s

/-- The model fetches every word when it issues it, so there are no prefetched words to discard (07 R122). -/
def execIcfence (h : Head) (s : State) : Out := issue (.icfence h) h (pure ()) s

end Sys2Proof.Machine
end

