-- ==== Sys2Proof/Machine/Access.lean ====
section
/-! DEFINITION. Memory by device physical address, its coherent value, the regions of the address space, two-stage
translation and its caches (spec 13 R238 to R251, 14 R264, 20 R312, 21 R322 to R327, 22 R340, R348). -/

namespace Sys2Proof.Machine

open Sys2Proof

/-! ## Time and messages -/

/-- An event that arrives `n` ticks from now. -/
def State.later (n : Nat) (e : Ev) (s : State) : State := { s with inputs := s.inputs ++ [(s.cyc + BitVec.ofNat 64 n, e)] }

/-- Core cycles that cover a number of ticks at the present core clock (00 R2). -/
def State.cycles (s : State) (ticks : Nat) : Nat := (ticks * s.freq + 15) / 16

/-! ## Lines and their coherent value (14 R264, R265) -/

/-- Home die of an HBM address (13 R239). -/
def homeDie (a : Nat) : DieId := Fin.ofNat 4 (a / (48 * 2 ^ 30) / 2)

def isHbm (a : Nat) : Bool := decide (a < 0x6000000000)

def State.tline (s : State) (line : Nat) : Option TokLine := s.lines.find? (fun x => decide (x.line = line))

/-- The data of the holder or message that has the owner token away from home. -/
def State.ownerData (s : State) (line : Nat) : Option (List Byte) :=
  match s.tline line with
  | none => none
  | some l =>
    match l.rdc.toList.find? (fun h => h.owner) with
    | some h => some h.data
    | none => (s.tokMsgs.find? (fun m => decide (m.line = line) && m.owner)).map (fun m => m.data)

/-- The present value of a byte, wherever its owner token is. -/
def State.byte (s : State) (a : Nat) : Byte :=
  match s.ownerData (a / 128) with
  | some d => d.getD (a % 128) 0
  | none => s.mem.read a

/-- All tokens of a line come home, with its data. -/
def gather (line : Nat) (s : State) : State :=
  match s.tline line with
  | none => { s with tokMsgs := s.tokMsgs.filter (fun m => !decide (m.line = line)) }
  | some _ =>
    { s with
      mem := s.mem.writes (line * 128) ((List.range 128).map (fun i => s.byte (line * 128 + i)))
      lines := s.lines.filter (fun x => !decide (x.line = line))
      tokMsgs := s.tokMsgs.filter (fun m => !decide (m.line = line)) }

/-- Put a byte into a holder's copy. -/
def TokHold.put (h : TokHold) (i : Nat) (v : Byte) : TokHold := { h with data := h.data.set i v }

/-- Write a byte, in every valid copy of its line. -/
def State.putByte (s : State) (a : Nat) (v : Byte) : State :=
  let s := { s with mem := s.mem.write a v }
  match s.tline (a / 128) with
  | none => s
  | some _ =>
    { s with
      lines := s.lines.map (fun l => if l.line = a / 128 then { l with rdc := l.rdc.map (fun h => h.put (a % 128) v) } else l)
      tokMsgs := s.tokMsgs.map (fun m => if m.line = a / 128 then { m with data := m.data.set (a % 128) v } else m) }

def State.bytes (s : State) (a : Nat) : Nat → List Byte
  | 0 => []
  | n + 1 => s.byte a :: State.bytes s (a + 1) n

/-! ## Tokens (14 R264 to R266) -/

/-- Tokens of a line. -/
def lineTokens : Nat := 16

def TokHold.none : TokHold := { t := 0, owner := false, valid := false, data := [], prio := 1 }
def TokHold.all : TokHold := { t := lineTokens, owner := true, valid := true, data := [], prio := 1 }

/-- A line with every token at home. -/
def TokLine.home_ (line : Nat) : TokLine := { line := line, home := TokHold.all, rdc := .replicate 4 TokHold.none }

def State.tokLine (s : State) (line : Nat) : TokLine := (s.tline line).getD (TokLine.home_ line)

/-- The holder through which a die's agents reach a line: the home holder, or the die's RDC. -/
def holderOf (line : Nat) (d : DieId) : Holder := if homeDie (line * 128) = d then .home else .rdc d

def TokLine.get (l : TokLine) : Holder → TokHold
  | .home => l.home
  | .rdc d => l.rdc.get d

def TokLine.set (l : TokLine) (h : Holder) (x : TokHold) : TokLine :=
  match h with
  | .home => { l with home := x }
  | .rdc d => { l with rdc := l.rdc.set d.val x d.isLt }

/-- The die a holder stands on. -/
def holderDie (line : Nat) : Holder → DieId
  | .home => homeDie (line * 128)
  | .rdc d => d

/-- The home holder and the RDCs of the other three dies. -/
def holders (line : Nat) : List Holder :=
  .home :: ((List.finRange 4).filter (fun d => !decide (homeDie (line * 128) = d))).map .rdc

/-- Keep a line in the table only while some token of it is away from home. -/
def putLine (l : TokLine) (s : State) : State :=
  let rest := s.lines.filter (fun x => !decide (x.line = l.line))
  { s with lines := if l = TokLine.home_ l.line then rest else rest ++ [l] }

/-- A read needs a token and valid data, a write all tokens (14 R265). -/
def TokHold.enough (h : TokHold) (wr : Bool) : Bool := h.valid && decide ((if wr then lineTokens else 1) ≤ h.t)

/-- A holder may perform an access to a line. -/
def State.mayAccess (s : State) (line : Nat) (h : Holder) (wr : Bool) : Bool := ((s.tokLine line).get h).enough wr

/-- Data of a line as a message carries it. -/
def State.lineData (s : State) (line : Nat) : List Byte := s.bytes (line * 128) 128

/-- Typical ticks of a message between two holders' dies (01 R15, R16). -/
def tokTicks (s : State) (line : Nat) (a b : Holder) : Nat := 180 * s.route (holderDie line a) (holderDie line b)

/-- Tokens leave a holder for another. With all its tokens gone a holder drops V. -/
def sendTokens (line : Nat) (from_ dest : Holder) (n : Nat) (owner : Bool) (s : State) : State :=
  let l := s.tokLine line
  let h := l.get from_
  let data := s.lineData line
  let left := h.t - n
  let h' : TokHold := if left = 0 then TokHold.none else { h with t := left, owner := h.owner && !owner }
  let m : TokMsg := { line := line, dest := dest, t := n, owner := owner, valid := owner || h.owner,
                      data := if owner || h.owner then data else [] }
  let s := putLine (l.set from_ h') s
  ({ s with tokMsgs := s.tokMsgs ++ [m] }).later (tokTicks s line from_ dest) (.tokenMessageReceived 0)

/-- The present winner of a line's persistent requests, in a die's table. -/
def Die.winner (x : Die) (line : Nat) : Option DieId :=
  (x.turns.find? (fun t => decide (t.line = line))).bind (fun t => t.cur)

/-- While a persistent request's winner stands in the home die's table, the home holder sends it all tokens that it has (14 R266
item 3). -/
def homeObeys (line : Nat) (s : State) : State :=
  let h := (s.tokLine line).home
  match (s.die (homeDie (line * 128))).winner line with
  | some w => if w = homeDie (line * 128) || h.t == 0 then s else sendTokens line .home (holderOf line w) h.t h.owner s
  | none => s

/-- The device itself writes a byte at home, where all tokens of its line have come (14 R265; log 59). -/
def State.putHome (s : State) (a : Nat) (v : Byte) : State :=
  let s := gather (a / 128) s
  { s with mem := s.mem.write a v }

def State.putRun (s : State) (a : Nat) : List Byte → State
  | [] => s
  | b :: r => State.putRun (s.putHome a b) (a + 1) r

/-- Lines of 128 bytes that a range meets. -/
def rangeLines (a n : Nat) : List Nat :=
  if n = 0 then [] else (List.range ((a % 128 + n + 127) / 128)).map (fun i => a / 128 + i)

/-- The device itself writes bytes at home, after which a line's tokens go to the winner that waits for them. -/
def State.putBytes (s : State) (a : Nat) (bs : List Byte) : State :=
  (rangeLines a bs.length).foldl (fun s n => homeObeys n s) (s.putRun a bs)

/-- One single-copy atomic 8-byte word. -/
def State.word (s : State) (a : Nat) : W64 := BitVec.ofNat 64 (ofBytes (s.bytes a 8))

def State.putWord (s : State) (a : Nat) (v : W64) : State := s.putBytes a (toBytes 8 v.toNat)

/-! ## Uncorrectable errors (20 R312, 27 R372) -/

/-- Bytes of the ECC granule at an address: 64 in HBM, 8 in the L2 and the synchronisation SRAM (27 R372). -/
def eccBytes (a : Nat) : Nat := if isHbm a then 64 else 8

/-- The host answers no access within the completion timeout while the link to it is down (22 R340). -/
def State.hostDown (s : State) (a : Nat) : Bool := decide (0xC00000000000 ≤ a) && !s.pcieUp

/-- The 128-byte line of a granule that a range meets and that holds an error, or of host memory that does not answer. -/
def State.badIn (s : State) (a n : Nat) : Option Nat :=
  if s.hostDown a then some (a / 128 * 128) else
  (s.bad.find? (fun g => decide (g < a + n ∧ a < g + eccBytes g))).map (fun g => g / 128 * 128)

/-! ## Regions (13 R239, R243, 21 R325, 22 R348) -/

/-- Why an access fails (09 R151, R174). -/
inductive AFault
  | xlate (va : W64) | uce (line : Nat) | link (d : W64) | absent (m : W64) | notsync (va : W64) | notl2 (va : W64)
  | notstg (va : W64)
  /-- An uncorrectable error of local memory, by the line of the core's LM map (log 20). -/
  | uceLm (line : Nat)
  /-- An uncorrectable error of the main file (27 R372). -/
  | uceFile
  deriving DecidableEq, Repr

/-- Fault code (09 R174, 20 R310). -/
def AFault.code : AFault → Byte
  | .xlate _ => 0x01 | .uce _ | .uceLm _ | .uceFile => 0x02 | .link _ => 0x03 | .absent _ => 0x04 | .notsync _ => 0x0C | .notl2 _ => 0x0D
  | .notstg _ => 0x0E

/-- DET: the faulting VA with bits [6:0] zero for XLATE, the physical line of UCE (09 R174). -/
def AFault.det : AFault → W64
  | .xlate va => va &&& ~~~0x7F
  | .uce l | .uceLm l => BitVec.ofNat 64 l
  | .uceFile => 0
  | .link d => d
  | .absent m => m
  | .notsync va | .notl2 va | .notstg va => va

/-- ADDR of the fault record: a VA or a line, 0 when none (20 R310). -/
def AFault.addr : AFault → W64
  | .xlate va | .notsync va | .notl2 va | .notstg va => va
  | .uce l | .uceLm l => BitVec.ofNat 64 l
  | .link _ | .absent _ | .uceFile => 0

/-- Who performs an access: HBM, a staging slice, the synchronisation engine of a die, another module, the host. -/
inductive Site | hbm | stg | sync | module (m : Nat) (ppa : Nat) | host
  deriving DecidableEq, Repr

def stgBase : Nat := 0x800000000000
def syncBase : Nat := 0x900000000000
def modBase : Nat := 0xA00000000000
def hostBase : Nat := 0xC00000000000

/-- Fields of a group record (22 R347). -/
def Group.nmem (g : Group) : Nat := fld (g.record.get 0) 5 0
def Group.rank (g : Group) : Nat := fld (g.record.get 0) 13 8
def Group.flagva (g : Group) : W64 := g.record.get 1
def Group.fctx (g : Group) : Byte := BitVec.ofNat 8 (fld (g.record.get 2) 7 0)
def Group.mod (g : Group) (k : Nat) : Nat := fld (g.record.get (Fin.ofNat 64 (8 + k))) 5 0
def Group.part (g : Group) (k : Nat) : Nat := fld (g.record.get (Fin.ofNat 64 (8 + k))) 12 8

/-- The member rank of a module in a group. -/
def Group.rankOf (g : Group) (m : Nat) : Option Nat := (List.range g.nmem).find? (fun k => decide (g.mod k = m))

/-- The lowest-numbered installed group that names a module, with the module's rank. -/
def Partition.groupOf (p : Partition) (m : Nat) : Option (Fin 64 × Nat) :=
  (List.finRange 64).findSome? (fun i => (p.groups.get i).bind (fun g => (g.rankOf m).map (fun r => (i, r))))

/-- The site of a DPA that a partition may reach; none is a translation fault. -/
def State.site (s : State) (p : PartId) (a : Nat) : Option Site :=
  let x := s.part p
  if isHbm a then (if bit x.held.hbm (a / (6 * 2 ^ 30)) then some .hbm else none)
  else if stgBase ≤ a ∧ a < stgBase + 2 ^ 32 then
    let sl := a - stgBase
    if x.held.l2Stg (sl / 2 ^ 30 * 32 + sl / 2 ^ 23 % 128 / 4) && decide (sl % 2 ^ 23 < 0x600000) then some .stg else none
  else if syncBase ≤ a ∧ a < syncBase + 2 ^ 28 then
    let o := a - syncBase
    if bit (x.held.sync.get (Fin.ofNat 4 (o / 2 ^ 26))) (o % 2 ^ 26 / 2 ^ 20) then some .sync else none
  else if modBase ≤ a ∧ a < hostBase then
    let m := (a - modBase) / 2 ^ 39
    if m ≤ 48 ∧ m ≠ s.modid.toNat ∧ (x.groupOf m).isSome then some (.module m ((a - modBase) % 2 ^ 39)) else none
  else if hostBase ≤ a ∧ a < 2 ^ 48 then (if x.host then some .host else none)
  else none

/-! ## The page walk (21 R322 to R324) -/

/-- An access fault or a value. -/
abbrev Acc? := Except AFault

/-- Low bit of the index of a level: L0, L1, L2, L3 with 3, 2, 1, 0 levels below. -/
def levelShift : Nat → Nat
  | 3 => 39
  | 2 => 30
  | 1 => 21
  | _ => 16

/-- A walk with `n` levels to go, from a table: page size, page base, RD and WR. `va` is what a fault reports. -/
def walk (va : W64) (rd : Nat → Acc? W64) : Nat → Nat → Nat → Acc? (Nat × Nat × Bool × Bool)
  | 0, _, _ => .error (.xlate va)
  | n + 1, table, a => do
    let sh := levelShift n
    let e ← rd (table + 8 * (a / 2 ^ sh % (if n = 0 then 32 else 512)))
    let addr := fld e 47 8 * 256
    if !bit e 0 || fld e 7 4 ≠ 0 || fld e 63 48 ≠ 0 then .error (.xlate va)
    else if bit e 1 then
      if n = 3 ∨ addr % 2 ^ sh ≠ 0 then .error (.xlate va) else .ok (2 ^ sh, addr, bit e 2, bit e 3)
    else if n = 0 ∨ addr % (if n = 1 then 256 else 4096) ≠ 0 then .error (.xlate va)
    else walk va rd n addr a

/-- A table entry at a DPA. -/
def State.tableWord (s : State) (a : Nat) : Acc? W64 :=
  match s.badIn a 8 with
  | some l => .error (.uce l)
  | none => .ok (s.word a)

/-- Stage 2: PPA to DPA. -/
def State.stage2 (s : State) (p : PartId) (va : W64) (ppa : Nat) : Acc? (Nat × Nat × Bool × Bool) :=
  walk va s.tableWord 4 (fld (s.part p).s2 47 12 * 4096) ppa

/-- The stage-2 entry of a table pointer: one that the die's TLB holds, or that of a walk (21 R326). -/
def State.pointer (s : State) (d : DieId) (p : PartId) (va : W64) (ppa : Nat) : Acc? TlbE :=
  match (s.die d).tlb.find? (fun e => e.s2 && decide (e.part = p ∧ e.va ≤ ppa ∧ ppa < e.va + e.size)) with
  | some e => .ok e
  | none => do
    let (size, base, rd, wr) ← s.stage2 p va ppa
    .ok { s2 := true, part := p, ctx := 0, va := ppa / size * size, size := size, dpa := base, rd := rd, wr := wr }

/-- A stage-1 entry at a PPA: its address is translated by stage 2, and must be one that may be read. -/
def State.ppaWord (s : State) (d : DieId) (p : PartId) (va : W64) (ppa : Nat) : Acc? W64 := do
  let e ← s.pointer d p va ppa
  let a := e.dpa + (ppa - e.va)
  if e.rd && (s.site p a).isSome then s.tableWord a else .error (.xlate va)

/-- PPA of a context's entry in its partition's table (21 R330). -/
def Partition.ctxEntry (x : Partition) (ctx : Byte) : Nat := fld x.ctxt 47 12 * 4096 + 8 * ctx.toNat

/-- The whole walk of a VA by a die's walker, as one combined entry (21 R326). -/
def State.walkVa (s : State) (d : DieId) (p : PartId) (ctx : Byte) (va : W64) : Acc? TlbE := do
  if fld va 63 48 ≠ 0 then .error (.xlate va)
  else
    let c ← s.ppaWord d p va ((s.part p).ctxEntry ctx)
    if !bit c 0 then .error (.xlate va)
    else
      let (n1, b1, r1, w1) ← walk va (s.ppaWord d p va) 4 (fld c 47 12 * 4096) va.toNat
      let ppa := b1 + va.toNat % n1
      let (n2, b2, r2, w2) ← s.stage2 p va ppa
      let n := min n1 n2
      .ok { s2 := false, part := p, ctx := ctx, va := va.toNat / n * n, size := n, dpa := b2 + ppa % n2 - va.toNat % n,
            rd := r1 && r2, wr := w1 && w2 }

/-- PPAs of the stage-1 entries that a walk reads, with `n` levels to go. -/
def walkReads (rd : Nat → Acc? W64) : Nat → Nat → Nat → List Nat
  | 0, _, _ => []
  | n + 1, table, a =>
    let q := table + 8 * (a / 2 ^ levelShift n % (if n = 0 then 32 else 512))
    q :: match rd q with
      | .ok e => if bit e 0 && !bit e 1 then walkReads rd n (fld e 47 8 * 256) a else []
      | .error _ => []

/-- The stage-2 entries of the table pointers of a walk. -/
def State.pointers (s : State) (d : DieId) (p : PartId) (ctx : Byte) (va : W64) : List TlbE :=
  let q := (s.part p).ctxEntry ctx
  let l := match s.ppaWord d p va q with
    | .ok c => q :: walkReads (s.ppaWord d p va) 4 (fld c 47 12 * 4096) va.toNat
    | .error _ => [q]
  (l.filterMap (fun ppa => match s.pointer d p va ppa with
    | .ok e => some e
    | .error _ => none)).eraseDups

/-! ## TLBs (21 R326, R327) -/

def TlbE.hit (e : TlbE) (p : PartId) (ctx : Byte) (va : W64) : Bool :=
  !e.s2 && decide (e.part = p ∧ e.ctx = ctx ∧ e.va ≤ va.toNat ∧ va.toNat < e.va + e.size)

/-- Entries of a die TLB and of a copy engine's. -/
def dieTlb : Nat := 16384
def coreTlb : Nat := 256

/-- Put an entry into a TLB in order of use, most recent first. -/
def useTlb (cap : Nat) (e : TlbE) (l : List TlbE) : List TlbE := (e :: l.filter (fun x => !decide (x = e))).take cap

/-- A die TLB takes an entry; a failed walk of its page is over. -/
def fillDie (d : DieId) (e : TlbE) (s : State) : State :=
  s.setDie d { s.die d with tlb := useTlb dieTlb e (s.die d).tlb,
                            walks := (s.die d).walks.filter (fun w => !(w.failed && e.hit w.part w.ctx w.va)) }

/-- A walk's result goes into the die's TLB, with the stage-2 entries of its table pointers (21 R326). -/
def fillWalk (d : DieId) (va : W64) (e : TlbE) (s : State) : State :=
  fillDie d e ((s.pointers d e.part e.ctx va).foldl (fun s x => fillDie d x s) s)

/-- A copy engine's TLB takes an entry. -/
def fillCore (c : CoreId) (e : TlbE) (s : State) : State := s.updCore c (fun k => { k with tlb := useTlb coreTlb e k.tlb })

/-- Who translates: a die's agents, or a core's copy engine before them. -/
structure Ctx where
  part : PartId
  ctx : Byte
  die : DieId
  copy : Option CoreId
  deriving DecidableEq, Repr

/-- The entry that translates a VA: of the copy engine's TLB, the die's, or of a walk. -/
def State.entryFor (s : State) (x : Ctx) (va : W64) : Acc? TlbE :=
  let own := match x.copy with
    | some c => (s.core c).tlb
    | none => []
  match own.find? (fun e => e.hit x.part x.ctx va) with
  | some e => .ok e
  | none =>
    match (s.die x.die).tlb.find? (fun e => e.hit x.part x.ctx va) with
    | some e => .ok e
    | none => s.walkVa x.die x.part x.ctx va

/-- Link number of a die joint: it follows the 48 Bluvy ports (27 R374; log 19). -/
def jointLink (j : Nat) : W64 := BitVec.ofNat 64 (48 + j)

/-- Towpath hops that are down. -/
def State.hopsDown (s : State) : List Nat := (List.range 4).filter (fun j => !s.joints.get (Fin.ofNat 24 j))

/-- The arcs of the ring between two dies: hops a to b - 1, and the rest. -/
def arcUp (s : State) (a b : Nat) : Bool :=
  let lo := min a b
  let hi := max a b
  let inner := (List.range 4).filter (fun j => decide (lo ≤ j ∧ j < hi))
  let outer := (List.range 4).filter (fun j => !decide (lo ≤ j ∧ j < hi))
  (s.hopsDown.all (fun j => !inner.contains j)) || (s.hopsDown.all (fun j => !outer.contains j))

/-- The port that a message to a module takes: the lowest that is up to it, or else the lowest to the lowest-numbered
module that has one (22 R345). -/
def State.portTo (s : State) (m : Nat) : Option (Fin 48) :=
  let up := fun (k : Nat) =>
    (List.finRange 48).find? (fun n => decide ((s.ports.get n).state = .up ∧ (s.ports.get n).peer.toNat = k))
  match up m with
  | some n => some n
  | none => (List.range 49).findSome? (fun k => if bit (s.peerUps.get (Fin.ofNat 49 k)) m then up k else none)

/-- The die through which data of a module come and go (01 R17). -/
def State.portDie (s : State) (m : Nat) : DieId := ((s.portTo m).map (fun n => Fin.ofNat 4 (n.val / 12))).getD 0

/-- The die that an address belongs to; of another module's, the die of the port to it. -/
def State.siteDie (s : State) (a : Nat) : Site → DieId
  | .hbm => homeDie a
  | .stg => Fin.ofNat 4 ((a - stgBase) / 2 ^ 30)
  | .sync => Fin.ofNat 4 ((a - syncBase) / 2 ^ 26)
  | .module m _ => s.portDie m
  | .host => 0

/-- LINK to a module: bit 63 and its number (09 R174). -/
def lostModule (m : Nat) : AFault := .link (BitVec.ofNat 64 (2 ^ 63 + m))

/-- A link failure between a die and the place of an address: the towpath is cut, the stack's interface is down, or no path
reaches the other module (01 R15, R16, 22 R345). DESIGN CHOICE (log 64): of two hops that are down, the lower-numbered is named. -/
def State.linkDown (s : State) (d : DieId) (a : Nat) (w : Site) : Option AFault :=
  if !arcUp s d.val (s.siteDie a w).val then (s.hopsDown.head?).map (fun j => .link (jointLink j))
  else if isHbm a && !s.joints.get (Fin.ofNat 24 (16 + a / (48 * 2 ^ 30))) then some (.link (jointLink (16 + a / (48 * 2 ^ 30))))
  else match w with
    | .module m _ => if bit s.domMods m then none else some (lostModule m)
    | _ => none

/-- A byte address translated for an access: the entry, its DPA and the site that performs it (21 R324, R325). -/
def State.translate (s : State) (x : Ctx) (va : W64) (rd wr : Bool) : Acc? (TlbE × Nat × Site) := do
  let e ← s.entryFor x va
  if (rd && !e.rd) || (wr && !e.wr) then .error (.xlate va)
  else
    let a := e.dpa + (va.toNat - e.va)
    match s.site x.part a with
    | some w => match s.linkDown x.die a w with
      | some f => .error f
      | none => .ok (e, a, w)
    | none => .error (.xlate va)

/-- The die's TLB after an entry was used; one that it does not hold came from a walk. -/
def useDie (x : Ctx) (e : TlbE) (s : State) : State :=
  if (s.die x.die).tlb.contains e then fillDie x.die e s else fillWalk x.die (BitVec.ofNat 64 e.va) e s

/-- The TLBs after an entry was used: the die's serves what a copy engine's does not hold. -/
def useEntry (x : Ctx) (e : TlbE) (s : State) : State :=
  match x.copy with
  | some c => fillCore c e (if (s.core c).tlb.contains e then s else useDie x e s)
  | none => useDie x e s

/-! ## Ranges of virtual memory -/

/-- A run of bytes that one page maps. -/
structure Seg where
  va : W64
  len : Nat
  dpa : Nat
  site : Site
  deriving DecidableEq, Repr

/-- Bytes of the smallest page. -/
def pageBytes : Nat := 65536

/-! ## Walkers (21 R326) -/

/-- Walkers of a die, and the typical ticks of a walk (log 33). -/
def walkerCount : Nat := 96
def walkTicks : Nat := 700

/-- The 64 KiB pages of a range. -/
def pagesOf (r : W64 × Nat) : List W64 :=
  let a := r.1.toNat / pageBytes
  if r.2 = 0 then []
  else (List.range ((r.1.toNat % pageBytes + r.2 - 1) / pageBytes + 1)).map (fun i => BitVec.ofNat 64 ((a + i) * pageBytes))

/-- A walk of a page has failed, and the access that asked may look. -/
def Walk.told (w : Walk) (x : Ctx) (va : W64) : Bool := w.failed && decide (w.part = x.part ∧ w.ctx = x.ctx ∧ w.va = va)

/-- The pages of some ranges that no TLB of the agent's holds and no walk has been made for. -/
def State.unwalked (s : State) (x : Ctx) (l : List (W64 × Nat)) : List W64 :=
  let own := match x.copy with
    | some c => (s.core c).tlb
    | none => []
  ((l.flatMap pagesOf).filter (fun va =>
    !(own.any (fun e => e.hit x.part x.ctx va) || (s.die x.die).tlb.any (fun e => e.hit x.part x.ctx va)
      || (s.die x.die).walks.any (fun w => w.told x va)))).eraseDups

/-- Waiting misses take the walkers that are free, in arrival order. -/
def beginWalks (d : DieId) (s : State) : State :=
  let l := (s.die d).walks
  let busy := (l.filter (fun w => w.begun && !w.failed)).length
  let go := (l.filter (fun w => !w.begun)).take (walkerCount - busy)
  go.foldl (fun s w => s.later walkTicks (.pageWalkComplete d w.part w.ctx w.va))
    (s.setDie d { s.die d with walks := l.map (fun w => if go.contains w then { w with begun := true } else w) })

/-- A miss joins the queue, unless it stands there. -/
def askWalk (x : Ctx) (va : W64) (s : State) : State :=
  let y := s.die x.die
  if y.walks.any (fun w => decide (w.part = x.part ∧ w.ctx = x.ctx ∧ w.va = va)) then s
  else beginWalks x.die (s.setDie x.die { y with walks := y.walks ++ [⟨x.part, x.ctx, va, false, false⟩] })

/-- An access waits while pages of its ranges are to be walked; none where it may go on. -/
def awaitWalks (x : Ctx) (l : List (W64 × Nat)) (s : State) : Option State :=
  match s.unwalked x l with
  | [] => none
  | ps => some (ps.foldl (fun s va => askWalk x va s) s)

/-- Cut a range at page boundaries and translate each part. -/
def State.segs (s : State) (x : Ctx) (rd wr : Bool) : Nat → W64 → Nat → Acc? (List (Seg × TlbE))
  | 0, _, _ => .ok []
  | fuel + 1, va, n => do
    if n = 0 then .ok []
    else
      let (e, a, w) ← s.translate x va rd wr
      let k := min n (pageBytes - va.toNat % pageBytes)
      let rest ← s.segs x rd wr fuel (va + BitVec.ofNat 64 k) (n - k)
      .ok ((⟨va, k, a, w⟩, e) :: rest)

/-- Translate a list of ranges. -/
def State.ranges (s : State) (x : Ctx) (rd wr : Bool) : List (W64 × Nat) → Acc? (List (Seg × TlbE))
  | [] => .ok []
  | (va, n) :: r => do
    let a ← s.segs x rd wr (n / pageBytes + 2) va n
    let b ← s.ranges x rd wr r
    .ok (a ++ b)

/-- The segment and place of a byte. -/
def Seg.at (g : Seg) (va : W64) : Option Nat :=
  let o := (va - g.va).toNat
  if o < g.len then some (g.dpa + o) else none

/-- The DPA of a byte of translated ranges. -/
def dpaOf (l : List Seg) (va : W64) : Option Nat := l.findSome? (fun g => g.at va)

/-- The place of a run is another module (22 R348). -/
def Seg.away (g : Seg) : Bool :=
  match g.site with
  | .module .. => true
  | _ => false

/-- What a run holds; memory of another module is not this machine's, and reads as free values (log 29). -/
def State.content (s : State) (g : Seg) : List Byte :=
  if g.away then (List.range g.len).map (fun i => (Config.free (s.free + i)).truncate 8) else s.bytes g.dpa g.len

/-! ## Channels to members (09 R186, 22 R345, R348) -/

/-- Change a channel of a group. -/
def updChan (p : PartId) (g : Fin 64) (rank : Fin 64) (f : Channel → Channel) (s : State) : State :=
  let x := s.part p
  match x.groups.get g with
  | none => s
  | some y =>
    let y : Group := { y with chans := y.chans.set rank.val (f (y.chans.get rank)) rank.isLt }
    s.setPart p { x with groups := x.groups.set g.val (some y) g.isLt }

/-- A channel of a group. -/
def State.chan (s : State) (p : PartId) (g rank : Fin 64) : Option Channel := ((s.part p).groups.get g).map (fun x => x.chans.get rank)

/-- Unacknowledged fabric writes that a channel holds at most (09 R186). -/
def chanLimit : Nat := 2 ^ 20

/-- A channel takes another fabric write (09 R186). -/
def State.chanOpen (s : State) (p : PartId) (g rank : Fin 64) : Bool :=
  ((s.chan p g rank).map (fun ch => decide (ch.unacked.length < chanLimit ∧ ch.waiting = []))).getD true

/-- A message goes out on a channel, or waits behind those that its limit holds back. -/
def Channel.send (m : FabMsg) (ch : Channel) : Channel :=
  if ch.unacked.length < chanLimit ∧ ch.waiting = [] then { ch with unacked := ch.unacked ++ [m] }
  else { ch with waiting := ch.waiting ++ [m] }

/-- Serial comparison modulo 2^32. -/
def serialGe (a b : W32) : Bool := decide ((a - b).toNat < 2 ^ 31)

/-- Messages up to a number are acknowledged: the receiver applies a channel's messages in their order, so that an acknowledgement
of one is one of all before it (DEDUCED, log 81). Those held back by the limit go out. -/
def Channel.acked (n : W32) (ch : Channel) : Channel :=
  let l := ch.unacked.filter (fun m => !serialGe n m.num)
  { ch with unacked := l ++ ch.waiting.take (chanLimit - l.length), waiting := ch.waiting.drop (chanLimit - l.length) }

/-- A fabric write message joins the channel to a member, on the path of this moment (22 R345, R348). -/
def sendFabric (p : PartId) (grp rank : Fin 64) (m : FabMsg) (s : State) : State :=
  let via := ((s.part p).groups.get grp).bind (fun x => s.portTo (x.mod rank.val))
  updChan p grp rank (Channel.send { m with via := via }) s

/-- Numbers of a channel are taken for `n` messages (14 R270); the first of them. -/
def reserveNums (p : PartId) (grp rank : Fin 64) (n : Nat) (s : State) : W32 × State :=
  (((s.chan p grp rank).map (fun ch => ch.scnt + 1)).getD 0,
   updChan p grp rank (fun ch => { ch with scnt := ch.scnt + BitVec.ofNat 32 n }) s)

/-- A write to another module's memory by its PPA: a message with the channel's next number. -/
def sendPpa (p : PartId) (m ppa : Nat) (bs : List Byte) (comb : Option (Comb3 × Fmt)) (s : State) : State :=
  match (s.part p).groupOf m with
  | some (grp, rank) =>
    let r := Fin.ofNat 64 rank
    let (n, s) := reserveNums p grp r 1 s
    sendFabric p grp r
      { num := n, ppa := true, va := BitVec.ofNat 64 ppa, bytes := bs, comb := comb, obj := none, err := none, via := none } s
  | none => s

/-! ## The device's own reads and writes -/

/-- Lines that a synchronisation engine's SRAM holds (13 R246). -/
def syncLines : Nat := 32768

/-- The engine's SRAM holds a line of synchronisation space. -/
def State.inSram (s : State) (a : Nat) : Bool := (s.die (s.siteDie a .sync)).sync.contains (a / 128)

/-- An access to synchronisation space brings its line into the SRAM, and makes it the most recently used (13 R246). -/
def useSync (g : Seg) (s : State) : State :=
  if g.site = .sync then
    let d := s.siteDie g.dpa .sync
    let x := s.die d
    s.setDie d { x with sync := ((g.dpa / 128) :: x.sync.erase (g.dpa / 128)).take syncLines }
  else s

/-- A range of memory read through a translation, or the fault it meets. -/
def State.readVa (s : State) (x : Ctx) (va : W64) (n : Nat) : Acc? (List Byte × State) := do
  let l ← s.ranges x true false [(va, n)]
  match l.findSome? (fun g => s.badIn g.1.dpa g.1.len) with
  | some b => .error (.uce b)
  | none =>
    let t := l.foldl (fun s g => useSync g.1 (useEntry x g.2 s)) s
    .ok (l.flatMap (fun g => s.content g.1), if l.any (fun g => g.1.away) then { t with free := t.free + n } else t)

/-- A granule with an error that a range covers in part, by its line (20 R312). -/
def State.partBad (s : State) (a n : Nat) : Option Nat :=
  if s.hostDown a then some (a / 128 * 128) else
  (s.bad.find? (fun g => decide (g < a + n ∧ a < g + eccBytes g ∧ ¬(a ≤ g ∧ g + eccBytes g ≤ a + n)))).map
    (fun g => g / 128 * 128)

/-- Granules wholly written lose their error (20 R312). -/
def clearBad (a n : Nat) (s : State) : State :=
  { s with bad := s.bad.filter (fun g => !decide (a ≤ g ∧ g + eccBytes g ≤ a + n)) }

/-- One run of a write of the device itself: bytes here, or a message to the module that has them (22 R348). -/
def writeSeg (p : PartId) (g : Seg) (bs : List Byte) (s : State) : State :=
  match g.site with
  | .module m ppa => sendPpa p m ppa bs none s
  | _ => useSync g ((clearBad g.dpa g.len s).putBytes g.dpa bs)

/-- A range of memory written through a translation, or the fault it meets. -/
def State.writeVa (s : State) (x : Ctx) (va : W64) (bs : List Byte) : Acc? State := do
  let l ← s.ranges x false true [(va, bs.length)]
  match l.findSome? (fun g => s.partBad g.1.dpa g.1.len) with
  | some b => .error (.uce b)
  | none =>
    .ok (l.foldl (fun s g => writeSeg x.part g.1 (bs.drop (g.1.va - va).toNat |>.take g.1.len) (useEntry x g.2 s)) s)

end Sys2Proof.Machine
end

