-- ==== Sys2Proof/Machine/Report.lean ====
section
/-! DEFINITION. What the device reports: fault records, interrupt-queue entries, health counters and performance
counters (spec 03 R40, 20 R310, R311, 21 R330, R331, 27 R374). -/

namespace Sys2Proof.Machine

open Sys2Proof

/-! ## Counters -/

/-- The performance counters of a core that have selected an event (03 R40). -/
def Core.count (k : Core) (ev n : Nat) : Core :=
  { k with pmc := ⟨((List.finRange 16).map (fun i =>
      if (k.pmon.get i).toNat = ev then k.pmc.get i + BitVec.ofNat 64 n else k.pmc.get i)).toArray, by simp⟩ }

/-- Record offsets of the hourly counts (27 R374). -/
def hDroop (q : QuadId) : Nat := 0x40 + 4 * q.val
def hSmiss (q : QuadId) : Nat := 0xC0 + 4 * q.val
def hPersist (d : DieId) : Nat := 0x1C0 + 4 * d.val
def hCorr (cls : Nat) : Nat := 0x1D0 + 4 * cls
def hUncorr (cls : Nat) : Nat := 0x210 + 4 * cls
def hRetrain (link : Nat) : Nat := 0x250 + 4 * link
def hTemp (die bin : Nat) : Nat := 0x370 + 4 * (16 * die + bin)
def hDrift (ad bin : Nat) : Nat := 0x6B0 + 4 * (16 * ad + bin)
def hTile (ad kind : Nat) : Nat := 0x8B0 + 4 * (3 * ad + kind)

/-! ## Sluices (15 R277 to R279) -/

/-- Bytes per interval that a sluice grants at a level. -/
def sluiceGrant (level : BitVec 4) (cls : Fin 3) : Nat := (level.toNat + 1) * sluiceFull.get cls / 16

/-! ## Queues of the host (21 R330, R331) -/

def State.block (s : State) : Block → QBlock
  | .part p => (s.part p).blk
  | .pf0 => s.pf0

def State.setBlock (s : State) (b : Block) (x : QBlock) : State :=
  match b with
  | .part p => s.setPart p { s.part p with blk := x }
  | .pf0 => { s with pf0 := x }

/-- Write a queue entry: at a DPA for PF0, else at a VA of context 0, translated by die 0 (19 R294, 21 R330). -/
def writeSlot (b : Block) (va : W64) (bs : List Byte) (s : State) : Option State :=
  match b with
  | .pf0 => some (s.putBytes va.toNat bs)
  | .part p =>
    match s.writeVa ⟨p, 0, 0, none⟩ va bs with
    | .ok t => some t
    | .error _ => none

/-- A queue holds no further entry: entries written and not yet consumed fill it (21 R330). -/
def IFQueue.full (q : IFQueue) : Bool := decide (2 ^ q.logn.toNat ≤ (q.tail - q.head).toNat)

/-- VA of the next entry. -/
def IFQueue.slot (q : IFQueue) : W64 := q.base + BitVec.ofNat 64 (32 * (q.tail.toNat % 2 ^ q.logn.toNat))

/-- A vector's mask bit in the MSI-X table. -/
def QBlock.masked (x : QBlock) (vec : BitVec 6) : Bool := bit (x.msixTab.get vec.toFin).2 32

/-- The vector of a queue is raised: its message goes to the host, or pends while the vector is masked (22 R337). -/
def QBlock.raise (x : QBlock) (vec : BitVec 6) : QBlock :=
  { x with msix := x.msix ||| (1#64 <<< vec.toNat),
           msixPend := if x.masked vec then x.msixPend ||| (1#64 <<< vec.toNat) else x.msixPend }

/-- A fault record (20 R310). -/
structure FRec where
  code : Byte
  src : Nat
  core : Byte
  brth : Nat
  ctx : Byte
  queue : Nat
  seq : W16
  det : W64
  addr : W64
  deriving DecidableEq, Repr

/-- Its 32 bytes. -/
def FRec.bytes (f : FRec) (cyc : W64) : List Byte :=
  toBytes 8 (f.code.toNat + f.src * 2 ^ 8 + f.core.toNat * 2 ^ 16 + f.brth * 2 ^ 24 + f.ctx.toNat * 2 ^ 32
    + f.queue * 2 ^ 40 + f.seq.toNat * 2 ^ 48)
  ++ toBytes 8 cyc.toNat ++ toBytes 8 f.det.toNat ++ toBytes 8 f.addr.toNat

/-- Post a fault record: the entry is written before TAIL advances, and TAIL before the vector is raised. A full or
disabled queue, or one whose entry cannot be written, drops the record and counts it (20 R311; log 14). -/
def postFault (b : Block) (f : FRec) (s : State) : State :=
  let q := (s.block b).fq
  let drop := s.setBlock b { s.block b with fq := { q with ovf := if q.ovf = BitVec.allOnes 32 then q.ovf else q.ovf + 1 } }
  if !q.en || q.full then drop
  else match writeSlot b q.slot (f.bytes s.cyc) s with
    | none => drop
    | some t => t.setBlock b (({ t.block b with fq := { q with tail := q.tail + 1 } } : QBlock).raise q.vec)

/-- Post an interrupt-queue entry; a full queue drops it and raises the vector anyway (21 R331). -/
def postInt (b : Block) (kind : Nat) (queue : Nat) (seq : W16) (d0 d1 : W64) (s : State) : State :=
  let q := (s.block b).iq
  if !q.en then s
  else
    let bs := toBytes 8 (kind + queue * 2 ^ 8 + seq.toNat * 2 ^ 16) ++ toBytes 8 s.cyc.toNat ++ toBytes 8 d0.toNat
      ++ toBytes 8 d1.toNat
    let t := if q.full then s
      else match writeSlot b q.slot bs s with
        | none => s
        | some t => t.setBlock b { t.block b with iq := { q with tail := q.tail + 1 } }
    t.setBlock b ((t.block b).raise q.vec)

/-- Class of a location's storage in the health records (27 R372). -/
def eccClass (a : Nat) : Nat := if isHbm a then 6 else if stgBase ≤ a ∧ a < stgBase + 2 ^ 32 then 3 else 5

/-- An uncorrectable error that an access meets is counted by its class; the host's memory has none (27 R372, R374). -/
def countError (f : AFault) (s : State) : State :=
  match f with
  | .uce l => if l < hostBase then bump (hUncorr (eccClass l)) 1 s else s
  | .uceLm _ => bump (hUncorr 0) 1 s
  | .uceFile => bump (hUncorr 1) 1 s
  | _ => s

/-- A record about a launch, with a core and berth. -/
def launchRec (l : Launch) (code : Byte) (src : Nat) (core : Byte) (brth : Nat) (det addr : W64) : FRec :=
  { code := code, src := src, core := core, brth := brth, ctx := l.ctx, queue := l.queue.val, seq := l.seq, det := det,
    addr := addr }

/-- A record about a launch and no core, SRC 4 (20 R310). -/
def launchFault (l : Launch) (code : Byte) (det addr : W64) (s : State) : State :=
  postFault l.blk (launchRec l code 4 0xFF 0 det addr) s

/-- A record about an operation of a strand of a launch. -/
def gangFault (i : Option Nat) (c : CoreId) (b : BerthId) (code : Byte) (src : Nat) (det addr : W64) (s : State) : State :=
  match i.bind s.launch with
  | some l => postFault l.blk (launchRec l code src (BitVec.ofNat 8 (l.vmap.findIdx (fun x => x == c))) b.val det addr) s
  | none => s

/-- A record about an operation of a core's strand. -/
def coreFault (c : CoreId) (b : BerthId) (code : Byte) (src : Nat) (det addr : W64) (s : State) : State :=
  gangFault (s.core c).launch c b code src det addr s

/-- A record of SRC 5 or 8 about a partition and no launch (20 R309, R310). -/
def moduleFault (b : Block) (code : Byte) (src : Nat) (det addr : W64) (s : State) : State :=
  postFault b { code := code, src := src, core := 0xFF, brth := 0, ctx := 0, queue := 0, seq := 0, det := det, addr := addr } s

/-- Such a record to every enabled partition. -/
def everyFault (code : Byte) (src : Nat) (det addr : W64) (s : State) : State :=
  (List.finRange 32).foldl (fun s p => if (s.part p).en then moduleFault (.part p) code src det addr s else s) s

end Sys2Proof.Machine
end

