-- ==== Sys2Proof/Machine/Coherence.lean ====
section
/-! DEFINITION. Token coherence of HBM lines: holders, transient and persistent requests, messages and eviction
(spec 14 R264 to R267). -/

namespace Sys2Proof.Machine

open Sys2Proof

/-- A holder's answer to a transient request. -/
def answer (line : Nat) (req from_ : Holder) (wr : Bool) (s : State) : State :=
  let h := (s.tokLine line).get from_
  if from_ = req || decide ((s.die (holderDie line from_)).winner line = some (holderDie line from_)) then s
  else if wr then (if h.t = 0 then s else sendTokens line from_ req h.t h.owner s)
  else if h.owner then sendTokens line from_ req 1 (decide (h.t < 2)) s
  else s

/-- The three other holders see the request, which waits 512 ticks for its tokens. -/
def broadcast (d : DieId) (line : Nat) (wr : Bool) (s : State) : State :=
  ((holders line).foldl (fun s h => answer line (holderOf line d) h wr s) s).later 512 (.requestResendTimeout d line)

def State.request (s : State) (d : DieId) (line : Nat) : Option TokReq :=
  s.tokReqs.find? (fun r => decide (r.die = d ∧ r.line = line))

def dropRequest (d : DieId) (line : Nat) (s : State) : State :=
  { s with tokReqs := s.tokReqs.filter (fun r => !decide (r.die = d ∧ r.line = line)) }

def execTransientRequest (d : DieId) (line : Nat) (wr : Bool) (s : State) : Out :=
  match s.request d line with
  | some _ => .next s
  | none =>
    .next (broadcast d line wr
      { s with tokReqs := s.tokReqs ++ [{ die := d, line := line, wr := wr, sent := s.cyc, resent := false }] })

/-- A request of a die stands in the die's own table (14 R266). -/
def Die.own (x : Die) (d : DieId) (line : Nat) : Option Persist := x.persist.find? (fun p => decide (p.die = d ∧ p.line = line))

/-- A holder takes tokens; a line back home whole leaves the table. -/
def takeTokens (m : TokMsg) (s : State) : State :=
  let l := s.tokLine m.line
  let h := l.get m.dest
  let valid := h.valid || m.valid
  let data := match m.dest with
    | .home => []
    | .rdc _ => if m.valid then m.data else h.data
  let s := putLine (l.set m.dest { h with t := h.t + m.t, owner := h.owner || m.owner, valid := valid, data := data }) s
  if m.dest = .home && m.valid then { s with mem := s.mem.writes (m.line * 128) m.data } else s

/-- A die's agents are waiting for tokens of a line. -/
def State.wants (s : State) (line : Nat) (h : Holder) : Bool :=
  (s.request (holderDie line h) line).isSome || ((s.die (holderDie line h)).own (holderDie line h) line).isSome

/-! ## Room in an RDC (06 R81, 13 R245) -/

/-- The partition that holds a line. -/
def State.linePart (s : State) (line : Nat) : Option PartId :=
  (List.finRange 32).find? (fun p => bit (s.part p).held.hbm (line * 128 / (6 * 2 ^ 30)))

/-- The lines of a partition that a die's RDC holds, with their priorities. -/
def State.rdcLines (s : State) (p : PartId) (d : DieId) : List (Nat × Fin 3) :=
  s.lines.filterMap (fun l =>
    let h := l.rdc.get d
    if h.t ≠ 0 ∧ s.linePart l.line = some p then some (l.line, h.prio) else none)

/-- Lines in one thirty-second of an RDC. -/
def rdcUnit : Nat := 16384

/-- The line of lowest priority that goes when an RDC is full; of several, and there are no sets, any (DESIGN CHOICE, log 65).
Lines that the die is waiting for stay. -/
def State.victim (s : State) (p : PartId) (d : DieId) (line : Nat) : Option Nat :=
  let l := (s.rdcLines p d).filter (fun x => !decide (x.1 = line) && !s.wants x.1 (.rdc d))
  let low := l.filter (fun x => l.all (fun y => decide (x.2 ≤ y.2)))
  (low[(Config.free s.free).toNat % low.length]?).map (fun x => x.1)

/-- All that a holder has of a line goes home. -/
def sendHome (h : Holder) (line : Nat) (s : State) : State :=
  let x := (s.tokLine line).get h
  if h = .home || x.t == 0 then s else sendTokens line h .home x.t x.owner s

/-- Lines that a die's RDC holds, of every partition. -/
def State.rdcTotal (s : State) (d : DieId) : Nat := (s.lines.filter (fun l => decide ((l.rdc.get d).t ≠ 0))).length

/-- A line of a partition leaves a die's RDC, if it has one that may. -/
def evictOne (p : PartId) (d : DieId) (line : Nat) (s : State) : State :=
  match s.victim p d line with
  | some v => sendHome (.rdc d) v { s with free := s.free + 1 }
  | none => s

/-- The partitions, that of the line first and then the others. -/
def partsFrom (p : PartId) : List PartId := p :: (List.finRange 32).filter (fun x => !decide (x = p))

/-- A line that came into an RDC beyond the share of its partition makes another of it go; one that came into a full RDC, whose
64 MiB are less than the shares add up to, one of its partition, or else of any (13 R245). -/
def evictFor (line : Nat) (h : Holder) (s : State) : State :=
  match h, s.linePart line with
  | .rdc d, some p =>
    if (s.part p).share.toNat * rdcUnit < (s.rdcLines p d).length then evictOne p d line s
    else if 32 * rdcUnit < s.rdcTotal d then
      match (partsFrom p).find? (fun x => (s.victim x d line).isSome) with
      | some x => evictOne x d line s
      | none => s
    else s
  | _, _ => s

/-- Lines beyond a partition's share leave a die's RDC (21 R329). -/
def evictExcess (p : PartId) (d : DieId) : Nat → State → State
  | 0, s => s
  | n + 1, s =>
    if (s.rdcLines p d).length ≤ (s.part p).share.toNat * rdcUnit then s else evictExcess p d n (evictOne p d (2 ^ 64) s)

/-- Tokens arrive: passed on to a winner that is not the receiver; those that an RDC asked for by no request go home, the rest
are taken (14 R265, R266). -/
def execTokenMessageReceived (k : Nat) (s : State) : Out :=
  match s.tokMsgs[k]? with
  | none => .next s
  | some m =>
    let s := takeTokens m { s with tokMsgs := s.tokMsgs.eraseIdx k }
    let d := holderDie m.line m.dest
    let h := (s.tokLine m.line).get m.dest
    match (s.die d).winner m.line with
    | some w =>
      if w = d then .next (evictFor m.line m.dest s) else .next (sendTokens m.line m.dest (holderOf m.line w) h.t h.owner s)
    | none =>
      if s.wants m.line m.dest then .next (evictFor m.line m.dest s)
      else if m.dest = .home then .next s
      else .next (sendTokens m.line m.dest .home m.t m.owner s)

/-! ## Persistent requests (14 R266) -/

/-- Active requests of one die in its own table. -/
def Die.active (x : Die) (d : DieId) : Nat := (x.persist.filter (fun p => decide (p.die = d))).length

/-- The first die with an active request, in the order from p on. -/
def nextWinner (x : Die) (line : Nat) (p : DieId) : Option DieId :=
  ((List.finRange 4).map (fun i => p + i)).find? (fun d => (x.own d line).isSome)

def Die.turn (x : Die) (line : Nat) : PTurn :=
  (x.turns.find? (fun t => decide (t.line = line))).getD { line := line, p := 0, cur := none }

def Die.setTurn (x : Die) (t : PTurn) : Die :=
  { x with turns := x.turns.filter (fun u => !decide (u.line = t.line)) ++ [t] }

/-- A die's holder sends the winner all the tokens it has. -/
def obey (at_ : DieId) (line : Nat) (s : State) : State :=
  let h := holderOf line at_
  let x := (s.tokLine line).get h
  match (s.die at_).winner line with
  | some w => if w = at_ || x.t == 0 then s else sendTokens line h (holderOf line w) x.t x.owner s
  | none => s

/-- A request enters a die's table; the winner is the first from p on among those that stand there. -/
def enterRow (at_ d : DieId) (line : Nat) (wr : Bool) (s : State) : State :=
  let x := s.die at_
  let x : Die := { x with persist := x.persist ++ [{ die := d, line := line, wr := wr }] }
  let t := x.turn line
  obey at_ line (s.setDie at_ (x.setTurn { t with cur := nextWinner x line t.p }))

/-- A request leaves a die's table, and p goes on to the die after it. -/
def leaveRow (at_ d : DieId) (line : Nat) (s : State) : State :=
  let x := s.die at_
  let x : Die := { x with persist := x.persist.filter (fun r => !decide (r.die = d ∧ r.line = line)) }
  obey at_ line (s.setDie at_ (x.setTurn { line := line, p := d + 1, cur := nextWinner x line (d + 1) }))

def execPersistentActivation (at_ d : DieId) (line : Nat) (wr : Bool) (s : State) : Out := .next (enterRow at_ d line wr s)

def execPersistentDeactivation (at_ d : DieId) (line : Nat) (s : State) : Out := .next (leaveRow at_ d line s)

/-- The other three dies. -/
def otherDies (d : DieId) : List DieId := (List.finRange 4).filter (fun e => !decide (e = d))

/-- A die looks at its request again after 512 ticks. -/
def lookAgain (d : DieId) (line : Nat) (s : State) : State := s.later 512 (.requestResendTimeout d line)

/-- A persistent request enters the die's own table, and its activation goes to the other dies. -/
def activate (d : DieId) (line : Nat) (wr : Bool) (s : State) : State :=
  let s := (bump (hPersist d) 1 s)
  let s := (List.finRange 128).foldl (fun s c => if dieOf c = d then s.updCore c (fun k => k.count 7 1) else s) s
  let s := (otherDies d).foldl (fun s e => s.later (180 * s.route d e) (.persistentActivation e d line wr)) s
  lookAgain d line (enterRow d d line wr s)

/-- A persistent request is over: it leaves the die's own table, and its deactivation goes to the other dies. -/
def deactivate (d : DieId) (line : Nat) (s : State) : State :=
  leaveRow d d line ((otherDies d).foldl (fun s e => s.later (180 * s.route d e) (.persistentDeactivation e d line)) s)

/-- A request unmet after 512 ticks is sent again; unmet after 512 more it becomes persistent, unless the die has 8 active
ones. A request that has had its tokens for so long that its access must have gone is over (log 62). -/
def execRequestResendTimeout (d : DieId) (line : Nat) (s : State) : Out :=
  let met := fun (wr : Bool) => s.mayAccess line (holderOf line d) wr
  match s.request d line with
  | none =>
    match (s.die d).own d line with
    | none => .next s
    | some p => .next (if met p.wr then deactivate d line s else lookAgain d line s)
  | some r =>
    if decide ((s.cyc - r.sent).toNat < 512) then .next s
    else if met r.wr then .next (dropRequest d line s)
    else if r.resent && decide ((s.die d).active d < 8) then .next (activate d line r.wr (dropRequest d line s))
    else
      let r' : TokReq := { r with resent := true, sent := s.cyc }
      .next (broadcast d line r.wr
        { s with tokReqs := s.tokReqs.map (fun x => if x = r then r' else x) })

/-- A line is evicted: all tokens go to the home holder, with the data when O is set. -/
def execLineEviction (h : Holder) (line : Nat) (s : State) : Out := .next (sendHome h line s)

/-! ## Use by the engines -/

/-- The lines of translated ranges that live in HBM. -/
def hbmLines (l : List Seg) : List Nat :=
  (l.flatMap (fun g => if g.site = .hbm then
    (List.range ((g.dpa % 128 + g.len + 127) / 128)).map (fun i => g.dpa / 128 + i) else [])).eraseDups

/-- The holder that performs a die's access to a line: a RED or CPYR is performed at home (14 R268). -/
def performer (d : DieId) (home : Bool) (line : Nat) : Holder := if home then .home else holderOf line d

/-- Ask for the tokens of lines. -/
def askTokens (d : DieId) (lines : List Nat) (wr home : Bool) (s : State) : State :=
  s.push ((lines.filter (fun n => !s.wants n (performer d home n))).map
    (fun n => .transientRequest (if home then homeDie (n * 128) else d) n wr))

/-- Replacement priority that a hint gives a line (06 R81). -/
def Hint.prio : Hint → Fin 3
  | .stream | .last => 0
  | .normal => 1
  | .keep => 2

/-- A line leaves the RDC at once after a last use, and where its partition has no share of the RDC. -/
def State.leavesRdc (s : State) (ch : Hint) (line : Nat) : Bool :=
  decide (ch = .last) || ((s.linePart line).map (fun p => decide ((s.part p).share = 0))).getD false

/-! ## Caching slices (13 R242, R245) -/

/-- Lines in the four slices of 6 MiB of a granule. -/
def granuleLines : Nat := 196608

/-- Lines that the caching granules of a partition on a die hold. -/
def State.cacheLines (s : State) (p : PartId) (d : DieId) : Nat :=
  granuleLines * ((List.range 32).filter (fun i =>
    let g := d.val * 32 + i
    (s.part p).held.l2Held g && !(s.part p).held.l2Stg g)).length

/-- A caching slice of its home die holds a line. -/
def State.cachedAt (s : State) (line : Nat) : Bool :=
  match s.linePart line with
  | some p => decide (0 < s.cacheLines p (homeDie (line * 128))) && (s.die (homeDie (line * 128))).cached.contains line
  | none => false

/-- An access from its home die brings a line into the partition's caching slices there, which lose their least recently used line
where they are full, and with `ch=last` the line itself (06 R81, 13 R245). DESIGN CHOICE (log 65): the other hints leave the order
of use as it is. -/
def keepCached (ch : Hint) (line : Nat) (s : State) : State :=
  let d := homeDie (line * 128)
  match s.linePart line with
  | none => s
  | some p =>
    let x := s.die d
    let rest := x.cached.erase line
    if ch = .last ∨ s.cacheLines p d = 0 then s.setDie d { x with cached := rest }
    else
      let mine := rest.filter (fun n => decide (s.linePart n = some p))
      s.setDie d { x with cached := line :: (if mine.length < s.cacheLines p d then rest else rest.erase (mine.getLast?.getD line)) }

/-- After an access to a line: the requests that it meets are over, the line has the priority of the hint, and one that leaves
the RDC is evicted (06 R81, 14 R265, R266). -/
def afterLine (d : DieId) (home wr : Bool) (ch : Hint) (line : Nat) (s : State) : State :=
  let e := holderDie line (performer d home line)
  let s := match s.request e line with
    | some r => if r.wr && !wr then s else dropRequest e line s
    | none => s
  let s := match (s.die e).own e line with
    | some p => if p.wr && !wr then s else deactivate e line s
    | none => s
  match performer d home line with
  | .home => if homeDie (line * 128) = d then keepCached ch line s else s
  | .rdc _ =>
    let l := s.tokLine line
    let s := putLine (l.set (.rdc d) { l.get (.rdc d) with prio := Hint.prio ch }) s
    if s.leavesRdc ch line then s.push [.lineEviction (.rdc d) line] else s

/-- The lines that an access looks at for the first time count: RDC hits and misses, and the towpath hops of the requests
(03 R40). -/
def lookLines (c : CoreId) (home wr : Bool) (ls : List Nat) (x : Lines × State) : Lines × State :=
  ls.foldl (fun x n =>
    if x.1.seen.contains n then x
    else
      let d := dieOf c
      let h := homeDie (n * 128)
      let far := x.2.route d h
      ({ x.1 with seen := n :: x.1.seen },
       if h = d then x.2
       else if home then x.2.updCore c (fun k => k.count 4 far)
       else if x.2.mayAccess n (.rdc d) wr then x.2.updCore c (fun k => k.count 5 1)
       else x.2.updCore c (fun k => (k.count 6 1).count 4 far))) x

/-- Lines not yet read whose tokens stand there are read. -/
def readLines (d : DieId) (ch : Hint) (ls : List Nat) (x : Lines × State) : Lines × State :=
  ls.foldl (fun x n =>
    if x.1.got.any (fun g => decide (g.1 = n)) || !x.2.mayAccess n (holderOf n d) false then x
    else ({ x.1 with got := x.1.got ++ [(n, x.2.lineData n)] }, afterLine d false false ch n x.2)) x

/-- Lines still to be read, and still to be written. -/
def Lines.unread (g : Lines) (ls : List Nat) : List Nat := ls.filter (fun n => !g.got.any (fun x => decide (x.1 = n)))
def Lines.unwritten (g : Lines) (ls : List Nat) : List Nat := ls.filter (fun n => !g.put.contains n)

/-- Nothing is done of a transfer. -/
def Lines.start : Lines := { got := [], put := [], seen := [], data := .none, nums := [] }

end Sys2Proof.Machine
end

