-- ==== Sys2Proof/Machine/Shape.lean ====
section
/-! DEFINITION. Shape records: fields, what makes one malformed, the record cache, and element addresses
(spec 13 R247 to R252, 09 R148). -/

namespace Sys2Proof.Machine

open Sys2Proof

/-! ## Fields (13 R248) -/

def recBase (r : Rec) : W64 := r.get 0
def recScale (r : Rec) : W64 := r.get 1

/-- Extents and strides of dimensions 0 to 3. -/
def recExt (r : Rec) (i : Nat) : Nat := fld (r.get (Fin.ofNat 8 (2 + i / 2))) (32 * (i % 2) + 31) (32 * (i % 2))
def recStr (r : Rec) (i : Nat) : Nat := fld (r.get (Fin.ofNat 8 (4 + i / 2))) (32 * (i % 2) + 31) (32 * (i % 2))

/-- Element format; NONE stands for a code that no record may hold. -/
def recFmt (r : Rec) : Fmt := (Fmt.ofCode (fld (r.get 6) 3 0)).getD .none
def recRank (r : Rec) : Nat := fld (r.get 6) 5 4 + 1
def recBlk (r : Rec) : Nat := fld (r.get 6) 7 6
def recLm (r : Rec) : Bool := bit (r.get 6) 8

/-- Extent of a dimension; beyond the rank it counts as 1. -/
def recDim (r : Rec) (i : Nat) : Nat := if i < recRank r then recExt r i else 1

/-- Elements of the record. -/
def recCount (r : Rec) : Nat := recDim r 0 * recDim r 1 * recDim r 2 * recDim r 3

/-- Whether a record may be used (13 R249). -/
inductive RecState | good | misaligned | bad
  deriving DecidableEq, Repr

/-- A defect other than a misaligned BASE. -/
def recDefect (r : Rec) : Bool :=
  let f := recFmt r
  decide (fld (r.get 6) 63 9 ≠ 0) || decide (f = .none) || decide (recBlk r ≠ (if isBlock f then 1 else 0))
  || (List.range 4).any (fun i =>
      if i < recRank r then decide (recExt r i = 0) else decide (recExt r i ≠ 0) || decide (recStr r i ≠ 0))
  || (decide (recBlk r = 1) && decide ((recScale r).toNat % 64 ≠ 0))
  || (decide (recBlk r = 0) && decide (recScale r ≠ 0))
  || (recLm r && (decide (fld (recBase r) 63 24 ≠ 0) || decide (fld (recScale r) 63 24 ≠ 0)))

def recState (r : Rec) : RecState :=
  if recDefect r then .bad else if (recBase r).toNat % 128 ≠ 0 then .misaligned else .good

/-! ## The record cache (13 R251) -/

/-- Entries of a die's record cache. -/
def recEntries : Nat := 512

/-- Partition, context and die of a core's accesses. -/
def State.coreCtx (s : State) (c : CoreId) : Ctx :=
  match s.gangOf c with
  | some (_, l) => ⟨l.part, l.ctx, dieOf c, none⟩
  | none => ⟨0, 0, dieOf c, none⟩

/-- TID table of a core's launch. -/
def State.tidTable (s : State) (c : CoreId) : W64 :=
  match s.gangOf c with
  | some (_, l) => l.record.get 3
  | none => 0

/-- Drop the last element that satisfies a test, or the last of all. -/
def dropLast (p : RecE → Bool) (l : List RecE) : List RecE :=
  match l.reverse.find? p with
  | some e => (l.reverse.erase e).reverse
  | none => l.dropLast

/-- Fill an entry; a full cache loses the least recently used entry of the context, or of the die. -/
def fillRec (e : RecE) (l : List RecE) : List RecE :=
  e :: (if l.length < recEntries then l else dropLast (fun x => decide (x.part = e.part ∧ x.ctx = e.ctx)) l)

/-- A record of 64 bytes. -/
def recOfBytes (bs : List Byte) : Rec :=
  ⟨((List.range 8).map (fun i => BitVec.ofNat 64 (ofBytes ((bs.drop (8 * i)).take 8)))).toArray, by simp⟩

/-- The entry of a TID in the record cache of the core's die, whole or in part. -/
def State.recEntry (s : State) (c : CoreId) (tid : Nat) : Option RecE :=
  let x := s.coreCtx c
  (s.die x.die).recs.find? (fun e => decide (e.part = x.part ∧ e.ctx = x.ctx ∧ e.tid = Fin.ofNat 4096 tid))

/-- The next word of a record that the cache does not hold whole is read, one atomic access of its own (13 R252); none where
the record is whole, or where the read of it faults. -/
def recMore (c : CoreId) (tid : Nat) (s : State) : Option State :=
  let x := s.coreCtx c
  let e := (s.recEntry c tid).getD ⟨x.part, x.ctx, Fin.ofNat 4096 tid, .replicate 8 0, 0⟩
  if 8 ≤ e.words then none
  else
    match s.readVa x (s.tidTable c + BitVec.ofNat 64 (64 * tid + 8 * e.words)) 8 with
    | .error _ => none
    | .ok (bs, s') =>
      let e' : RecE := { e with shape := e.shape.set! e.words (BitVec.ofNat 64 (ofBytes bs)), words := e.words + 1 }
      let d := s'.die x.die
      some (s'.setDie x.die { d with recs := if e.words = 0 then fillRec e' d.recs else e' :: d.recs.erase e })

/-- A record that the head of a queue has read whole. -/
def Core.recRead (k : Core) (id tid : Nat) : Option Rec :=
  (k.recsRead.find? (fun x => decide (x.1 = id ∧ x.2.1 = tid))).map (fun x => x.2.2)

/-- The head of a queue has a record: it uses it as read, whatever becomes of the cached entry; records of entries that have left
their queues go. -/
def Core.takeRec (k : Core) (id tid : Nat) (r : Rec) : Core :=
  { k with recsRead := k.recsRead.filter (fun x => (k.cpyQ ++ k.arrQ ++ k.sfQ).any (fun q => decide (q.id = x.1))) ++ [(id, tid, r)] }

/-- One step of reading a record for the head of a queue: it is taken where the cache holds it whole, else its next word is read;
none where the head has it, or where the read faults. -/
def recStep (c : CoreId) (id tid : Nat) (s : State) : Option State :=
  if ((s.core c).recRead id tid).isSome then none
  else match s.recEntry c tid with
    | some e =>
      if e.words < 8 then recMore c tid s
      else
        let d := s.die (dieOf c)
        some ((s.setDie (dieOf c) { d with recs := e :: d.recs.erase e }).updCore c (fun k => k.takeRec id tid e.shape))
    | none => recMore c tid s

/-- The head of a queue reads its records, by entry and TID, one after another, the words of each in rising order (DESIGN CHOICE,
log 80). -/
def recsMore (c : CoreId) (tids : List (Nat × Nat)) (s : State) : Option State := tids.findSome? (fun t => recStep c t.1 t.2 s)

/-- The record of a TID: from the cache of the core's die, else read from the table and cached. -/
def readRec (c : CoreId) (tid : Nat) (s : State) : Acc? (Rec × State) := do
  let x := s.coreCtx c
  let d := s.die x.die
  let miss : Acc? (Rec × State) := do
    let (bs, s') ← s.readVa x (s.tidTable c + BitVec.ofNat 64 (64 * tid)) 64
    let r := recOfBytes bs
    let d' := s'.die x.die
    let rest := d'.recs.filter (fun e => !decide (e.part = x.part ∧ e.ctx = x.ctx ∧ e.tid = Fin.ofNat 4096 tid))
    .ok (r, s'.setDie x.die { d' with recs := fillRec ⟨x.part, x.ctx, Fin.ofNat 4096 tid, r, 8⟩ rest })
  match s.recEntry c tid with
  | some e => if e.words = 8 then .ok (e.shape, s.setDie x.die { d with recs := e :: d.recs.erase e }) else miss
  | none => miss

/-- A record that the head of a queue has read, or reads at once. -/
def headRec (c : CoreId) (id tid : Nat) (s : State) : Acc? (Rec × State) :=
  match (s.core c).recRead id tid with
  | some r => .ok (r, s)
  | none => readRec c tid s

/-! ## Element addresses (13 R250) -/

/-- Bit offset of element (k0, k1, k2, k3). -/
def elemBit (r : Rec) (k0 k1 k2 k3 : Nat) : Nat :=
  (k0 * recStr r 0 + k1 * recStr r 1 + k2 * recStr r 2 + k3 * recStr r 3) * width (recFmt r)

/-- An address of the record's space: LM addresses wrap at 2^24 where they are used. -/
def recAddr (r : Rec) (off : Nat) : W64 := recBase r + BitVec.ofNat 64 off
def sideAddr (r : Rec) (block : Nat) : W64 := recScale r + BitVec.ofNat 64 (2 * block)

/-- Block index of a bit offset. -/
def blockAt (r : Rec) (b : Nat) : Nat := b / (32 * width (recFmt r))

/-- Coordinates of element number e in row-major order, dimension 0 fastest. -/
def coords (r : Rec) (e : Nat) : Nat × Nat × Nat × Nat :=
  let d0 := recDim r 0
  let d1 := recDim r 1
  let d2 := recDim r 2
  (e % d0, e / d0 % d1, e / d0 / d1 % d2, e / d0 / d1 / d2)

/-- Bit offset of element number e. -/
def elemNo (r : Rec) (e : Nat) : Nat :=
  let (a, b, c, d) := coords r e
  elemBit r a b c d

/-- A read of one byte of the record's space. -/
abbrev Reader := W64 → Byte

/-- The element code at a bit offset; sub-byte elements sit low nibble first. -/
def readElem (r : Rec) (rd : Reader) (b : Nat) : W32 :=
  match width (recFmt r) with
  | 4 => BitVec.ofNat 32 ((rd (recAddr r (b / 8))).toNat / 2 ^ (b % 8) % 16)
  | w => BitVec.ofNat 32 (ofBytes ((List.range (w / 8)).map (fun i => rd (recAddr r (b / 8 + i)))))

/-- Scale and clove of a block as a side entry (03 R35). -/
def readSide (r : Rec) (rd : Reader) (k : Nat) : W16 :=
  BitVec.ofNat 16 ((rd (sideAddr r k)).toNat + 256 * (rd (sideAddr r k + 1)).toNat)

/-- One byte written: its address, the bits that stay, and the bits put in. -/
structure Put where
  addr : W64
  keep : Byte
  val : Byte
  deriving DecidableEq, Repr

/-- Whole bytes from an address up. -/
def putRun (a : W64) (bs : List Byte) : List Put := bs.mapIdx (fun i v => ⟨a + BitVec.ofNat 64 i, 0, v⟩)

/-- An element code written at a bit offset. -/
def putElem (r : Rec) (b : Nat) (v : W32) : List Put :=
  match width (recFmt r) with
  | 4 =>
    [⟨recAddr r (b / 8), if b % 8 = 0 then 0xF0 else 0x0F, BitVec.ofNat 8 (v.toNat % 16 * 2 ^ (b % 8))⟩]
  | w => putRun (recAddr r (b / 8)) (toBytes (w / 8) v.toNat)

/-- A side entry written. -/
def putSide (r : Rec) (k : Nat) (v : W16) : List Put := putRun (sideAddr r k) (toBytes 2 v.toNat)

/-- The bytes that a run of n bits at a bit offset touches. -/
def bitRun (r : Rec) (b n : Nat) : W64 × Nat := (recAddr r (b / 8), (b % 8 + n + 7) / 8)

/-- Convert an element's value into a format: RNE into a floating format, RZ into an integer (04 R51). -/
def convert (f : Fmt) (x : XR) : W32 × Flags := roundTo x f (if isInt f then .rz else .rne) 0

end Sys2Proof.Machine
end

