-- ==== Sys2Proof/Machine/MemIssue.lean ====
section
/-! DEFINITION. Load, store, atomic, near-memory and barrier-object words: what each checks and captures at issue
(spec 09 R152, R157 to R172). -/

namespace Sys2Proof.Machine

open Sys2Proof

/-! ## Dispatch into the LDE and STE queues -/

/-- Entries of the vector operand buffer (09 R152). -/
def operandBuffer : Nat := 8

/-- The access of a word, not yet performed (07 R119, R120, 09 R173). -/
def memAccess (i : Instr) (id : Nat) (b : BerthId) : Acc :=
  { id := id, berth := b, kinds := kindsOf (opcOf i), bo := decide (opcOf i = 0x1A0 ∨ opcOf i = 0x1A1), arr := false,
    cpy := false }

/-- An entry joins the queue of its engine. -/
def Core.memQueue (k : Core) (q : QEntry) : Core :=
  let k := { k with acc := k.acc ++ [memAccess q.ins q.id q.berth], vbuf := k.vbuf + q.vops.length }
  if kindsOf (opcOf q.ins) = 2 then { k with steQ := k.steQ ++ [q] } else { k with ldeQ := k.ldeQ ++ [q] }

/-- A load or store word with `nv` vector operands. -/
def memWord (i : Instr) (h : Head) (nv : Nat) (body : M QEntry) (s : State) : Out :=
  issue i h (do
    if operandBuffer < (← get).self.vbuf + nv then holdWord else pure ()
    let q ← body
    updSelf (fun k => k.memQueue q)) s

/-- The entry of the word being issued. -/
def captured (i : Instr) (ref : W64) (rep : Nat × Int) (vals : List W64) (vops : List VEntry) : M QEntry := do
  return entry i ref.toNat rep.1 rep.2 vals vops (← get)

/-- An operand value is a multiple of a size (09 R157). -/
def aligned (slot : Nat) (v : W64) (n : Nat) : M Unit := need (decide (v.toNat % n = 0)) .align slot v

/-- Bytes of an access size (09 R157). -/
def sizeBytes : Size → Nat
  | .b => 1 | .h => 2 | .w => 4 | .d => 8

/-- Bytes of LDA, STL and the atomics. -/
def wordBytes (dbl : Bool) : Nat := if dbl then 8 else 4

/-- A whole entry as the source of a store; NONE has no values to convert (09 R158). -/
def storeTag (t : List (Nat × Fmt)) (e : VEntry) : M Unit := need (notNoneTag e.tag) .tagx 1 (tagTval t)
where notNoneTag (f : Fmt) : Bool := decide (f ≠ .none)

/-- An index vector: INT32, read after part and swap (09 R160). -/
def indexEntry (y : Src) : VEntry := { y.e with lanes := mkLanes y.raw }
def indexOk (y : Src) : Bool := decide (y.e.tag = .int32) && y.partOk

/-! ## Loads -/

def execLdv (h : Head) (d : VDst) (tid : Ref) (off : SOp) (rep : Rep) (s : State) : Out :=
  memWord (.ldv h d tid off rep) h 0 (do
    let t ← readRef 1 tid
    let o ← readSI 2 off
    let r ← readRep 4 32 rep
    aligned 2 o 128
    refOk 1 t
    captured (.ldv h d tid off rep) t r [o] []) s

def execLdvt (h : Head) (d : VDst) (tid : Ref) (sc : SSrc) (tr : Bool) (s : State) : Out :=
  memWord (.ldvt h d tid sc tr) h 0 (do
    let t ← readRef 1 tid
    let c ← readS 2 sc
    refOk 1 t
    captured (.ldvt h d tid sc tr) t (0, 0) [c] []) s

def execLdvg (h : Head) (d : VDst) (tid : Ref) (vi : VSrc) (col : SOp) (s : State) : Out :=
  memWord (.ldvg h d tid vi col) h 1 (do
    let t ← readRef 1 tid
    let y ← readSrc 2 vi
    let c ← readSI 3 col
    need (indexOk y) .tagx 2 (tagTval [(2, y.e.tag)])
    refOk 1 t
    captured (.ldvg h d tid vi col) t (0, 0) [c] [indexEntry y]) s

def execLdsc (h : Head) (d : Fin 64) (tid : Ref) (off : SOp) (sz : Size) (sx : Bool) (rep : Rep) (s : State) : Out :=
  memWord (.ldsc h d tid off sz sx rep) h 0 (do
    let t ← readRef 1 tid
    let o ← readSI 2 off
    let r ← readRep 4 1 rep
    aligned 2 o (sizeBytes sz)
    refOk 1 t
    captured (.ldsc h d tid off sz sx rep) t r [o] []) s

/-- No later access of the berth issues until the one of this word is performed (09 R162). -/
def acquire : M Unit := do
  let n := (← get).wordId
  updMe (fun x => { x with fences := x.fences ++ [⟨1, 7, 0, some n, .none⟩] })

def execLda (h : Head) (d : Fin 64) (tid : Ref) (off : SOp) (dbl : Bool) (sc : Scope) (s : State) : Out :=
  memWord (.lda h d tid off dbl sc) h 0 (do
    let t ← readRef 1 tid
    let o ← readSI 2 off
    aligned 2 o (wordBytes dbl)
    refOk 1 t
    acquire
    captured (.lda h d tid off dbl sc) t (0, 0) [o] []) s

def execLdm (h : Head) (d : Fin 8) (tid : Ref) (off : SOp) (rep : Rep) (s : State) : Out :=
  memWord (.ldm h d tid off rep) h 0 (do
    let t ← readRef 1 tid
    let o ← readSI 2 off
    let r ← readRep 4 1 rep
    aligned 2 o 128
    refOk 1 t
    captured (.ldm h d tid off rep) t r [o] []) s

/-! ## Stores -/

def execStv (h : Head) (v : VSrc) (tid : Ref) (off : SOp) (rep : Rep) (s : State) : Out :=
  memWord (.stv h v tid off rep) h 1 (do
    let e ← readV 1 v
    let t ← readRef 2 tid
    let o ← readSI 3 off
    let r ← readRep 4 32 rep
    storeTag [(1, e.tag)] e
    aligned 3 o 128
    refOk 2 t
    captured (.stv h v tid off rep) t r [o] [e]) s

def execStvs (h : Head) (v : VSrc) (tid : Ref) (vi : VSrc) (col : SOp) (s : State) : Out :=
  memWord (.stvs h v tid vi col) h 2 (do
    let e ← readV 1 v
    let t ← readRef 2 tid
    let y ← readSrc 3 vi
    let c ← readSI 4 col
    let tags := [(1, e.tag), (3, y.e.tag)]
    storeTag tags e
    need (indexOk y) .tagx 3 (tagTval tags)
    refOk 2 t
    captured (.stvs h v tid vi col) t (0, 0) [c] [e, indexEntry y]) s

def execStsc (h : Head) (a : SSrc) (tid : Ref) (off : SOp) (sz : Size) (s : State) : Out :=
  memWord (.stsc h a tid off sz) h 0 (do
    let v ← readS 1 a
    let t ← readRef 2 tid
    let o ← readSI 3 off
    aligned 3 o (sizeBytes sz)
    refOk 2 t
    captured (.stsc h a tid off sz) t (0, 0) [o, v] []) s

def execStl (h : Head) (a : SSrc) (tid : Ref) (off : SOp) (dbl : Bool) (sc : Scope) (s : State) : Out :=
  memWord (.stl h a tid off dbl sc) h 0 (do
    let v ← readS 1 a
    let t ← readRef 2 tid
    let o ← readSI 3 off
    aligned 3 o (wordBytes dbl)
    refOk 2 t
    captured (.stl h a tid off dbl sc) t (0, 0) [o, v] []) s

def execStm (h : Head) (a : Fin 8) (tid : Ref) (off : SOp) (rep : Rep) (s : State) : Out :=
  memWord (.stm h a tid off rep) h 0 (do
    let t ← readRef 2 tid
    let o ← readSI 3 off
    let r ← readRep 4 1 rep
    aligned 3 o 128
    refOk 2 t
    captured (.stm h a tid off rep) t r [o] []) s

/-! ## Atomics and near-memory updates (09 R165 to R169) -/

/-- An atomic with acquire order holds later accesses back as LDA does. -/
def ordAcquires : AmoOrd → Bool
  | .acq | .ar => true
  | .rlx | .rel => false
def ordReleases : AmoOrd → Bool
  | .rel | .ar => true
  | .rlx | .acq => false

/-- The compare operand of CAS. -/
def readCas : Option SOp → M W64
  | some c => readSI 3 c
  | none => pure 0

def execAmo (h : Head) (d : Fin 64) (a : SSrc) (b : SOp) (c : Option SOp) (op : AmoOp) (dbl : Bool) (ord : AmoOrd)
    (sc : Scope) (s : State) : Out :=
  memWord (.amo h d a b c op dbl ord sc) h 0 (do
    let x ← readS 1 a
    let y ← readSI 2 b
    let z ← readCas c
    aligned 1 x (wordBytes dbl)
    if ordAcquires ord then acquire else pure ()
    captured (.amo h d a b c op dbl ord sc) 0 (0, 0) [x, y, z] []) s

def execFamo (h : Head) (d : Fin 64) (a : SSrc) (b : SOp) (st : SSrc) (op : AmoOp) (dbl : Bool) (ord : AmoOrd)
    (sc : Scope) (s : State) : Out :=
  memWord (.famo h d a b st op dbl ord sc) h 0 (do
    let x ← readS 1 a
    let y ← readSI 2 b
    let w ← readS 3 st
    aligned 1 x (wordBytes dbl)
    need (decide (fld w 63 12 = 0)) .illop 3 w
    if ordAcquires ord then acquire else pure ()
    captured (.famo h d a b st op dbl ord sc) 0 (0, 0) [x, y, 0, w] []) s

def execAmor (h : Head) (d : Fin 64) (a : SSrc) (b : SOp) (c : Option SOp) (op : AmoOp) (dbl : Bool) (sc : Scope)
    (s : State) : Out :=
  memWord (.amor h d a b c op dbl sc) h 0 (do
    let x ← readS 1 a
    let y ← readSI 2 b
    let z ← readCas c
    aligned 1 x (wordBytes dbl)
    captured (.amor h d a b c op dbl sc) 0 (0, 0) [x, y, z] []) s

/-- Tags that RED combines. -/
def redTag (f : Fmt) : Bool := decide (f = .fp32 ∨ f = .bf16 ∨ f = .int32)

def execRed (h : Head) (v : VSrc) (tid : Ref) (off : SOp) (k : Comb3) (s : State) : Out :=
  memWord (.red h v tid off k) h 1 (do
    let e ← readV 1 v
    let t ← readRef 2 tid
    let o ← readSI 3 off
    need (redTag e.tag) .tagx 1 (tagTval [(1, e.tag)])
    aligned 3 o 128
    refOk 2 t
    captured (.red h v tid off k) t (0, 0) [o] [e]) s

def execUpdr (h : Head) (v : VSrc) (tid : Ref) (sr : SSrc) (k : UpdKind) (s : State) : Out :=
  memWord (.updr h v tid sr k) h 1 (do
    let e ← readV 1 v
    let t ← readRef 2 tid
    let w ← readS 3 sr
    need (decide (e.tag = .fp32)) .tagx 1 (tagTval [(1, e.tag)])
    need (decide (fld w 47 24 % 32 = 0)) .align 3 (BitVec.ofNat 64 (fld w 47 24))
    refOk 2 t
    need (decide (fld w 63 48 = 0)) .illop 3 w
    captured (.updr h v tid sr k) t (0, 0) [w] [e]) s

/-! ## Barrier objects (09 R172) -/

def execBoarm (h : Head) (bo : Ref) (n : SOp) (s : State) : Out :=
  memWord (.boarm h bo n) h 0 (do
    let o ← readRef 1 bo
    let v ← readSI 2 n
    refOk 1 o
    need (decide (1 ≤ v.toNat ∧ v.toNat ≤ 2 ^ 47)) .illop 2 v
    captured (.boarm h bo n) o (0, 0) [v] []) s

def execBoclr (h : Head) (bo : Ref) (s : State) : Out :=
  memWord (.boclr h bo) h 0 (do
    let o ← readRef 1 bo
    refOk 1 o
    captured (.boclr h bo) o (0, 0) [] []) s

/-- A BORD of word 0 may observe a flip: no later access of the berth issues until it has been performed (14 R259). -/
def execBord (h : Head) (d : Fin 64) (bo : Ref) (w : Fin 4) (s : State) : Out :=
  memWord (.bord h d bo w) h 0 (do
    let o ← readRef 1 bo
    refOk 1 o
    if w = 0 then acquire else pure ()
    captured (.bord h d bo w) o (0, 0) [] []) s

end Sys2Proof.Machine
end

