-- ==== Sys2Proof/Machine/ArrayIssue.lean ====
section
/-! DEFINITION. Array words: the command block, its checks, and what is captured at issue (spec 10 R189 to R193, R202
to R212). -/

namespace Sys2Proof.Machine

open Sys2Proof

/-! ## The command block (10 R189, R191) -/

/-- Fields of a block that a form uses. -/
structure BlockUse where
  win : Bool
  prod : Bool
  in1 : Bool
  in2 : Bool
  out : Bool
  p1 : Bool
  p2 : Bool

/-- Block word i of an entry, after its tile. -/
def blk (q : QEntry) (i : Nat) : W64 := q.vals.getD (1 + i) 0

def blkWin (w0 : W64) : Nat := fld w0 2 0
def blkBo (w0 : W64) : Nat := fld w0 15 4
def blkMode (w0 : W64) : Nat := fld w0 17 16
def blkAr (w0 : W64) : Nat := fld w0 21 18
def blkOfmt (w0 : W64) : Nat := fld w0 23 22
def blkBm (w0 : W64) : Bool := bit w0 24
def blkAlpha (w0 : W64) : W32 := BitVec.ofNat 32 (fld w0 63 32)

/-- A positive normal FP32 value. -/
def normalPos (c : W32) : Bool := decide (0x00800000 ≤ c.toNat ∧ c.toNat < 0x7F800000)

/-- A scale of the pulse forms: finite, not negative, with -0 as +0 (10 R206). -/
def scaleOk (c : W32) : Bool := decide (c.toNat < 0x7F800000 ∨ c = 0x80000000)

/-- A reserved field of a TID and ROW word. -/
def rowWordOk (used : Bool) (w : W64) : Bool := if used then decide (fld w 15 12 = 0 ∧ fld w 63 40 = 0) else decide (w = 0)

/-- Word 0. -/
def word0Ok (u : BlockUse) (array : Bool) (w : W64) : Bool :=
  decide (bit w 3 = false ∧ fld w 31 25 = 0 ∧ blkMode w ≠ 3)
  && (u.win || decide (blkWin w = 0))
  && (array || decide (blkBo w = 0))
  && (if u.prod then decide (blkAr w ≤ 10 ∧ blkOfmt w ≠ 3) && normalPos (blkAlpha w)
      else decide (fld w 24 18 = 0 ∧ blkAlpha w = 0))

/-- Word 1 under the timing mode of word 0. -/
def word1Ok (w0 w1 : W64) : Bool :=
  if blkMode w0 = 0 then decide (w1 = 0) else if blkMode w0 = 2 then decide (fld w1 63 13 = 0) else true

/-- The first block word with a bad value; `p1` and `p2` hold the form's own limits. -/
def badWord (u : BlockUse) (array : Bool) (w : Nat → W64) (p1 p2 : W64 → Bool) : Option Nat :=
  if !word0Ok u array (w 0) then some 0
  else if !word1Ok (w 0) (w 1) then some 1
  else if !rowWordOk u.in1 (w 2) then some 2
  else if !rowWordOk u.in2 (w 3) then some 3
  else if !rowWordOk u.out (w 4) then some 4
  else if !(if u.p1 then p1 (w 5) else decide (w 5 = 0)) then some 5
  else if !(if u.p2 then p2 (w 6) else decide (w 6 = 0)) then some 6
  else if fld (w 7) 63 24 ≠ 0 ∨ (w 7).toNat % 8 ≠ 0 then some 7
  else none

/-- Read and check the block: ALIGN for an address that is not a multiple of 64, ILLOP for one at or above 0x40_0000
and for a bad value, with the address of the offending word (10 R190, R191). -/
def readBlock (cb : W64) (u : BlockUse) (array : Bool) (p1 p2 : W64 → Bool) : M (List W64) := do
  aligned 2 cb 64
  need (decide (cb.toNat < 0x400000)) .illop 2 cb
  let s ← get
  failing 0 (s.lmErr s.cur cb.toNat 64)
  let k := s.self
  let w := fun (i : Nat) => k.word (cb.toNat + 8 * i)
  match badWord u array w p1 p2 with
  | some i => raise .illop 2 (cb + BitVec.ofNat 64 (8 * i))
  | none => return (List.range 8).map w

/-! ## Tiles and inputs (10 R192) -/

/-- A tile in range; above 7 it needs lenders. -/
def readTile : TileRef → M W64
  | .imm n => pure (BitVec.ofNat 64 n.val)
  | .src x => readS 1 x

def tileOk (v : W64) : M Unit := do
  let k := (← get).self
  need (decide (v.toNat ≤ 31) && (decide (v.toNat ≤ 7) || decide (k.lend ≠ 0))) .illop 1 v
  need (k.lent (v.toNat / 8)) .lendx 1 v

/-- Tags of an input vector. -/
def inputTag (f : Fmt) : Bool := decide (f = .fp32 ∨ f = .fp16 ∨ f = .bf16)

/-- An input slot: a register popped or peeked, or none for LM. -/
def readVL (slot : Nat) : VLm → M (Option Src)
  | .lm => pure none
  | .src x => do return some (← readSrc slot x)

def isLm : VLm → Bool
  | .lm => true
  | .src _ => false

/-- The tag and whole-register rule of an input slot. -/
def vlOk (ok : Fmt → Bool) (slot : Nat) (tags : List (Nat × Fmt)) : Option Src → M Unit
  | none => pure ()
  | some y => need (ok y.e.tag && decide (y.part = .whole) && !y.swp) .tagx slot (tagTval tags)

def srcTags (slot : Nat) : Option Src → List (Nat × Fmt)
  | some y => [(slot, y.e.tag)]
  | none => []

def srcEntries : Option Src → List VEntry
  | some y => [y.e]
  | none => []

/-- An array word: its entry joins the array queue as a command that has not counted its bytes (12 R228). -/
def arrayWord (i : Instr) (h : Head) (nv : Nat) (body : M QEntry) (s : State) : Out :=
  issue i h (do
    if operandBuffer < (← get).self.vbuf + nv then holdWord else pure ()
    let q ← body
    updSelf (fun k => { k with
      acc := k.acc ++ [{ id := q.id, berth := q.berth, kinds := kindsOf (opcOf i), bo := false, arr := true, cpy := false }],
      vbuf := k.vbuf + q.vops.length, arrQ := k.arrQ ++ [q] })) s

/-- What an array entry carries: tile, block, window as it stands, and the tick of issue. -/
def arrayVals (t : W64) (w : List W64) (s : State) : List W64 :=
  [t] ++ w ++ [s.self.wins.get (Fin.ofNat 8 (blkWin (w.headD 0))), s.cyc]

/-- Registers and window of a command: an array form with up to two input slots and a repeat. -/
def arrayForm (i : Instr) (h : Head) (t : TileRef) (cb : SSrc) (x y : VLm) (rep : Rep) (u : BlockUse) (ok : Fmt → Bool)
    (p1 p2 : W64 → Bool) (s : State) : Out :=
  arrayWord i h ((if isLm x then 0 else 1) + (if isLm y then 0 else 1)) (do
    let v ← readTile t
    let a ← readS 2 cb
    let b ← readVL 3 x
    let c ← readVL 4 y
    let r ← readRep 4 1 rep
    let tags := srcTags 3 b ++ srcTags 4 c
    vlOk ok 3 tags b
    vlOk ok 4 tags c
    aligned 2 a 64
    tileOk v
    need (b.isNone || decide (r.1 = 0)) .illop 4 (BitVec.ofNat 64 (r.1 + (BitVec.ofInt 16 r.2).toNat * 4096))
    let w ← readBlock a u true p1 p2
    let q ← captured i 0 r [] (srcEntries b ++ srcEntries c)
    return { q with vals := arrayVals v w (← get) }) s

def anyP (_ : W64) : Bool := true

/-- Block fields of the products. -/
def prodUse (lm p1 : Bool) : BlockUse :=
  { win := true, prod := true, in1 := lm, in2 := false, out := true, p1 := p1, p2 := false }

def noUse : BlockUse := { win := true, prod := false, in1 := false, in2 := false, out := false, p1 := false, p2 := false }

/-- P1 of XFWDB and XTOPK: 1 to 64. -/
def countP1 (w : W64) : Bool := decide (1 ≤ w.toNat ∧ w.toNat ≤ 64)

/-- P1 and P2 of XUPD (10 R206). -/
def updP1 (w : W64) : Bool := decide (1 ≤ fld w 7 0 ∧ fld w 31 8 = 0) && scaleOk (BitVec.ofNat 32 (fld w 63 32))
def updP2 (w : W64) : Bool := decide (fld w 63 32 = 0) && scaleOk (BitVec.ofNat 32 (fld w 31 0))

/-- P1 of XXFR (10 R207). -/
def xfrP1 (w : W64) : Bool := decide (1 ≤ fld w 7 0 ∧ fld w 31 19 = 0) && scaleOk (BitVec.ofNat 32 (fld w 63 32))

/-- P1 of XCKR (10 R208). -/
def ckrP1 (w : W64) : Bool := [1, 2, 4, 8, 16].contains (fld w 4 0) && decide (fld w 7 5 = 0 ∧ fld w 63 9 = 0)

/-- P1 of XPRG: a tolerance from 1/1024 to 1/16. -/
def prgP1 (w : W64) : Bool := decide (0x3A800000 ≤ w.toNat ∧ w.toNat ≤ 0x3D800000)

/-- P1 of XGSET (10 R209). -/
def gsetP1 (w : W64) : Bool := decide (fld w 63 18 = 0) && !(bit w 16 && decide (fld w 14 10 = 31))

def execXfwd (h : Head) (t : TileRef) (cb : SSrc) (x : VLm) (rep : Rep) (s : State) : Out :=
  arrayForm (.xfwd h t cb x rep) h t cb x .lm rep (prodUse (isLm x) false) inputTag anyP anyP s

def execXfwdb (h : Head) (t : TileRef) (cb : SSrc) (x : VLm) (s : State) : Out :=
  arrayForm (.xfwdb h t cb x) h t cb x .lm (.imm 0) { prodUse true true with in2 := isLm x } (fun f => decide (f = .int16))
    countP1 anyP s

def execXbwd (h : Head) (t : TileRef) (cb : SSrc) (x : VLm) (rep : Rep) (s : State) : Out :=
  arrayForm (.xbwd h t cb x rep) h t cb x .lm rep (prodUse (isLm x) false) inputTag anyP anyP s

def execXupd (h : Head) (t : TileRef) (cb : SSrc) (x d : VLm) (s : State) : Out :=
  arrayForm (.xupd h t cb x d) h t cb x d (.imm 0) { noUse with in1 := isLm x, in2 := isLm d, p1 := true, p2 := true }
    inputTag updP1 updP2 s

def execXxfr (h : Head) (t : TileRef) (cb : SSrc) (s : State) : Out :=
  arrayForm (.xxfr h t cb) h t cb .lm .lm (.imm 0) { noUse with p1 := true, p2 := true } inputTag xfrP1 updP2 s

def execXtopk (h : Head) (t : TileRef) (cb : SSrc) (x : VLm) (s : State) : Out :=
  arrayForm (.xtopk h t cb x) h t cb x .lm (.imm 0) (prodUse (isLm x) true) inputTag countP1 anyP s

def execXdist (h : Head) (t : TileRef) (cb : SSrc) (x : VLm) (s : State) : Out :=
  arrayForm (.xdist h t cb x) h t cb x .lm (.imm 0) (prodUse (isLm x) false) inputTag anyP anyP s

def execXsym (h : Head) (t : TileRef) (cb : SSrc) (s : State) : Out :=
  arrayForm (.xsym h t cb) h t cb .lm .lm (.imm 0) { noUse with p1 := true } inputTag
    (fun w => decide (1 ≤ w.toNat ∧ w.toNat ≤ 4095)) anyP s

def execXckr (h : Head) (t : TileRef) (cb : SSrc) (s : State) : Out :=
  arrayForm (.xckr h t cb) h t cb .lm .lm (.imm 0) { noUse with out := true, p1 := true } inputTag ckrP1 anyP s

def execXprg (h : Head) (t : TileRef) (cb : SSrc) (s : State) : Out :=
  arrayForm (.xprg h t cb) h t cb .lm .lm (.imm 0) { noUse with in1 := true, in2 := true, p1 := true } inputTag prgP1 anyP s

def execXscrb (h : Head) (t : TileRef) (cb : SSrc) (s : State) : Out :=
  arrayForm (.xscrb h t cb) h t cb .lm .lm (.imm 0) noUse inputTag anyP anyP s

def execXcal (h : Head) (t : TileRef) (cb : SSrc) (s : State) : Out :=
  arrayForm (.xcal h t cb) h t cb .lm .lm (.imm 0) noUse inputTag anyP anyP s

def execXnorm (h : Head) (t : TileRef) (cb : SSrc) (s : State) : Out :=
  arrayForm (.xnorm h t cb) h t cb .lm .lm (.imm 0) noUse inputTag anyP anyP s

def execXgset (h : Head) (t : TileRef) (cb : SSrc) (s : State) : Out :=
  arrayForm (.xgset h t cb) h t cb .lm .lm (.imm 0) { noUse with win := false, p1 := true, p2 := true } inputTag gsetP1 anyP s

def execXstat (h : Head) (t : TileRef) (cb : SSrc) (s : State) : Out :=
  arrayForm (.xstat h t cb) h t cb .lm .lm (.imm 0) { noUse with win := false, out := true } inputTag anyP anyP s

/-! ## Windows (03 R37, 10 R211) -/

/-- A valid window with its reserved bits zero. -/
def windowOk (v : W64) : Bool :=
  decide (fld v 15 10 = 0 ∧ fld v 31 27 = 0 ∧ fld v 47 42 = 0 ∧ fld v 63 59 = 0 ∧ 1 ≤ fld v 26 16 ∧ 1 ≤ fld v 58 48
    ∧ fld v 9 0 + fld v 26 16 ≤ 1024 ∧ fld v 41 32 + fld v 58 48 ≤ 1024)

def execXwset (h : Head) (w : Fin 8) (a : SOp) (s : State) : Out :=
  issue (.xwset h w a) h (do
    let v ← readSI 1 a
    need (windowOk v) .illop 1 v
    updSelf (fun k => { k with wins := k.wins.set w.val v w.isLt })) s

/-! ## XFENCE (10 R212) -/

/-- The tiles of a fence as a mask: one, or all that the core may name. -/
def fenceMask (t : W64) (all : Bool) : W64 := if all then 0xFFFFFFFF else 1#64 <<< t.toNat

/-- Tile and object of a fence. -/
def fenceArgs (t : TileRef) (bo : SOp) (all : Bool) : M (W64 × W64) := do
  let v ← readTile t
  let o ← readSI 2 bo
  if all then pure () else tileOk v
  refOk 2 o
  return (fenceMask v all, o)

/-- Tiles of a mask. -/
def maskTiles (m : W64) : List (Fin 32) := (List.finRange 32).filter (fun t => bit m t.val)

def execXfenceDrain (h : Head) (t : TileRef) (bo : SOp) (all : Bool) (s : State) : Out :=
  arrayWord (.xfenceDrain h t bo all) h 0 (do
    let (m, o) ← fenceArgs t bo all
    captured (.xfenceDrain h t bo all) o (0, 0) [m] []) s

/-- From its issue on the queue sends no later pulse form to the tile; a hold that stands goes on as it is. -/
def execXfenceHold (h : Head) (t : TileRef) (bo : SOp) (all : Bool) (s : State) : Out :=
  arrayWord (.xfenceHold h t bo all) h 0 (do
    let (m, o) ← fenceArgs t bo all
    updSelf (fun k => { k with
      holds := k.holds ++ ((maskTiles m).filter (fun t => !k.holds.any (fun x => decide (x.1 = t)))).map (fun t => (t, k.serial)) })
    captured (.xfenceHold h t bo all) o (0, 0) [m] []) s

/-- The hold ends, and 8 bytes are counted at once, or as soon as the berth's BOARM and BOCLR are applied (09 R173). -/
def execXfenceRel (h : Head) (t : TileRef) (bo : SOp) (all : Bool) (s : State) : Out :=
  arrayWord (.xfenceRel h t bo all) h 0 (do
    let (m, o) ← fenceArgs t bo all
    updSelf (fun k => { k with holds := k.holds.filter (fun x => !bit m x.1.val) })
    captured (.xfenceRel h t bo all) o (0, 0) [m] []) s

end Sys2Proof.Machine
end

