-- ==== Sys2Proof/Machine/CopyIssue.lean ====
section
/-! DEFINITION. Copy and fabric words: what each checks and captures at issue (spec 09 R175, R179 to R187). -/

namespace Sys2Proof.Machine

open Sys2Proof

/-! ## Location words (09 R175) -/

def lwTid (w : W64) : Nat := fld w 11 0
def lwKind (w : W64) : Nat := fld w 13 12
def lwCore (w : W64) : Nat := fld w 21 14
def lwGrp (w : W64) : Fin 64 := Fin.ofNat 64 (fld w 19 14)
def lwRank (w : W64) : Nat := fld w 25 20
def lwDbo (w : W64) : Fin 4096 := Fin.ofNat 4096 (fld w 37 26)
def lwDv (w : W64) : Bool := bit w 38
def lwDcore (w : W64) : Byte := BitVec.ofNat 8 (fld w 46 39)

/-- KIND 3 and a nonzero reserved field raise ILLOP; DCORE is zero for KIND 0 and 1. -/
def lwOk (slot : Nat) (w : W64) : M Unit :=
  need (decide (lwKind w ≠ 3 ∧ fld w 63 47 = 0 ∧ (lwKind w = 2 ∨ lwDcore w = 0))) .illop slot w

/-- The KIND that a form requires. -/
def lwIs (slot : Nat) (w : W64) (kinds : List Nat) : M Unit := need (kinds.contains (lwKind w)) .illop slot w

/-! ## Dispatch -/

/-- A copy or fabric word: its entry joins the copy-engine queue; it is an access of kind e until accepted, and a
command until its bytes are counted. -/
def copyWord (i : Instr) (h : Head) (body : M QEntry) (s : State) : Out :=
  issue i h (do
    let q ← body
    updSelf (fun k => { k with
      acc := k.acc ++ [{ id := q.id, berth := q.berth, kinds := kindsOf (opcOf i), bo := false, arr := false, cpy := true }],
      cpyQ := k.cpyQ ++ [q] })) s

/-- A word with an object, two location words and no more. -/
def pairWord (i : Instr) (h : Head) (bo : Ref) (dst src : Lw) (dk sk : List Nat) (s : State) : Out :=
  copyWord i h (do
    let o ← readRef 1 bo
    let d ← readLw 2 dst
    let c ← readLw 3 src
    refOk 1 o
    lwOk 2 d
    lwIs 2 d dk
    lwOk 3 c
    lwIs 3 c sk
    captured i o (0, 0) [d, c] []) s

/-- A word with a mask of targets. -/
def maskWord (i : Instr) (h : Head) (bo : Ref) (dst src : Lw) (m : SSrc) (dk : List Nat) (s : State) : Out :=
  copyWord i h (do
    let o ← readRef 1 bo
    let d ← readLw 2 dst
    let c ← readLw 3 src
    let v ← readS 4 m
    refOk 1 o
    lwOk 2 d
    lwIs 2 d dk
    lwOk 3 c
    captured i o (0, 0) [d, c, v] []) s

def execCpy (h : Head) (bo : Ref) (dst src : Lw) (rep : Rep) (s : State) : Out :=
  copyWord (.cpy h bo dst src rep) h (do
    let o ← readRef 1 bo
    let d ← readLw 2 dst
    let c ← readLw 3 src
    let r ← readRep 4 0 rep
    refOk 1 o
    lwOk 2 d
    lwOk 3 c
    captured (.cpy h bo dst src rep) o r [d, c] []) s

def execCpym (h : Head) (bo : Ref) (dst src : Lw) (m : SSrc) (s : State) : Out :=
  maskWord (.cpym h bo dst src m) h bo dst src m [1] s

def execCpyr (h : Head) (bo : Ref) (dst src : Lw) (k : Comb3) (s : State) : Out :=
  pairWord (.cpyr h bo dst src k) h bo dst src [0, 1, 2] [0, 1, 2] s

def execCpyd (h : Head) (bo : Ref) (dst src : Lw) (dig : SOp) (s : State) : Out :=
  copyWord (.cpyd h bo dst src dig) h (do
    let o ← readRef 1 bo
    let d ← readLw 2 dst
    let c ← readLw 3 src
    let g ← readSI 4 dig
    aligned 4 g 32
    refOk 1 o
    lwOk 2 d
    lwOk 3 c
    captured (.cpyd h bo dst src dig) o (0, 0) [d, c, g] []) s

def execMlr (h : Head) (bo : Ref) (dst src : Lw) (k : Comb3) (s : State) : Out :=
  pairWord (.mlr h bo dst src k) h bo dst src [0, 1] [2] s

def execMst (h : Head) (bo : Ref) (dst src : Lw) (m : SSrc) (s : State) : Out :=
  maskWord (.mst h bo dst src m) h bo dst src m [2] s

def execRls (h : Head) (bo : Ref) (ch : SSrc) (val : SOp) (s : State) : Out :=
  copyWord (.rls h bo ch val) h (do
    let o ← readRef 1 bo
    let c ← readS 2 ch
    let v ← readSI 3 val
    refOk 1 o
    need (decide (fld c 63 24 = 0)) .illop 2 c
    captured (.rls h bo ch val) o (0, 0) [c, v] []) s

/-- The flag operand of ACQW; an immediate is zero-extended, so that it reaches G and groups 0 to 7 (09 R186). -/
def readFlag (slot : Nat) : SOp → M W64
  | .src x => readS slot x
  | .imm v => pure (v.zeroExtend 64)

def execAcqw (h : Head) (bo : Ref) (flag val : SOp) (s : State) : Out :=
  copyWord (.acqw h bo flag val) h (do
    let o ← readRef 1 bo
    let f ← readFlag 2 flag
    let v ← readSI 3 val
    refOk 1 o
    need (decide (fld f 63 19 = 0)) .illop 2 f
    captured (.acqw h bo flag val) o (0, 0) [f, v] []) s

def execAgset (h : Head) (bo : Ref) (grp rec_ : SOp) (s : State) : Out :=
  copyWord (.agset h bo grp rec_) h (do
    let o ← readRef 1 bo
    let g ← readSI 2 grp
    let r ← readSI 3 rec_
    aligned 3 r 64
    refOk 1 o
    need (decide (g.toNat ≤ 63)) .illop 2 g
    captured (.agset h bo grp rec_) o (0, 0) [g, r] []) s

end Sys2Proof.Machine
end

