-- ==== Sys2Proof/Machine/Hash.lean ====
section
/-! DEFINITION. SHA-256 over bytes (spec 09 R183). -/

namespace Sys2Proof.Machine

open Sys2Proof

/-- The primes below 312, of which there are 64. -/
def shaPrimes : List Nat :=
  (List.range 312).filter (fun n => decide (2 ≤ n) && (List.range n).all (fun d => decide (d < 2) || decide (n % d ≠ 0)))

/-- The largest number below `r + 2 ^ n` whose k-th power is at most `v`, found bit by bit from `r` on. -/
def floorRoot (k v : Nat) : Nat → Nat → Nat
  | 0, r => r
  | n + 1, r => floorRoot k v n (if (r + 2 ^ n) ^ k ≤ v then r + 2 ^ n else r)

/-- The first 32 bits of the fraction of a number's k-th root. -/
def rootFraction (k p : Nat) : W32 := BitVec.ofNat 32 (floorRoot k (p * 2 ^ (32 * k)) 40 0)

/-- The round constants: from the cube roots of the first 64 primes. -/
def shaK : List W32 := shaPrimes.map (rootFraction 3)

/-- The initial hash value: from the square roots of the first 8 primes. -/
def shaInit : List W32 := (shaPrimes.take 8).map (rootFraction 2)

/-- A big-endian word of four bytes. -/
def beWord (bs : List Byte) : W32 := bs.foldl (fun a b => (a <<< 8) ||| b.zeroExtend 32) 0

/-- The four bytes of a word, highest first. -/
def beBytes (w : W32) : List Byte := [24, 16, 8, 0].map (fun i => (w >>> i).truncate 8)

/-- Message padding. -/
def shaPad (bs : List Byte) : List Byte :=
  let n := bs.length
  let bits := BitVec.ofNat 64 (8 * n)
  bs ++ [0x80] ++ List.replicate ((119 - n % 64) % 64) 0 ++ [56, 48, 40, 32, 24, 16, 8, 0].map (fun i => (bits >>> i).truncate 8)

/-- The message schedule, `n` words more; the latest word stands first. -/
def shaSchedule : Nat → List W32 → List W32
  | 0, l => l
  | n + 1, l =>
    let w := fun i => l.getD i 0
    let s0 := (w 14).rotateRight 7 ^^^ (w 14).rotateRight 18 ^^^ (w 14 >>> 3)
    let s1 := (w 1).rotateRight 17 ^^^ (w 1).rotateRight 19 ^^^ (w 1 >>> 10)
    shaSchedule n ((w 15 + s0 + w 6 + s1) :: l)

/-- One round on the eight working words. -/
def shaRound (h : List W32) (kw : W32 × W32) : List W32 :=
  match h with
  | [a, b, c, d, e, f, g, h] =>
    let s1 := e.rotateRight 6 ^^^ e.rotateRight 11 ^^^ e.rotateRight 25
    let t1 := h + s1 + ((e &&& f) ^^^ (~~~e &&& g)) + kw.1 + kw.2
    let s0 := a.rotateRight 2 ^^^ a.rotateRight 13 ^^^ a.rotateRight 22
    let t2 := s0 + ((a &&& b) ^^^ (a &&& c) ^^^ (b &&& c))
    [t1 + t2, a, b, c, d + t1, e, f, g]
  | l => l

/-- One 64-byte block. -/
def shaBlock (h : List W32) (b : List Byte) : List W32 :=
  let w := ((List.range 16).map (fun i => beWord ((b.drop (4 * i)).take 4))).reverse
  let ws := (shaSchedule 48 w).reverse
  List.zipWith (· + ·) h ((List.zip shaK ws).foldl shaRound h)

def shaBlocks : Nat → List W32 → List Byte → List W32
  | 0, h, _ => h
  | n + 1, h, bs => shaBlocks n (shaBlock h (bs.take 64)) (bs.drop 64)

/-- The 32-byte digest. -/
def sha256 (bs : List Byte) : List Byte :=
  let p := shaPad bs
  (shaBlocks (p.length / 64) shaInit p).flatMap beBytes

end Sys2Proof.Machine
end

