-- ==== Sys2Proof/Machine/Lane.lean ====
section
/-! DEFINITION. Element operations of the vector engine: arithmetic, comparison, conversion, blocks, dot products,
shape and draws, as functions of operands alone (spec 08 R128 to R147, 04 R46 to R56). -/

namespace Sys2Proof.Machine

open Sys2Proof

/-- A code with the flags of its rounding. -/
abbrev CF := W32 × Flags

/-- A lane from its `n` elements of `w` bits, with their flags together. -/
def laneOf (w n : Nat) (f : Nat → CF) : CF :=
  (List.range n).foldl (fun a i =>
    let r := f i
    (BitVec.ofNat 32 (a.1.toNat + (r.1.toNat % 2 ^ w) <<< (i * w)), a.2 ||| r.2)) (0, 0)

/-- A lane block whose disabled lanes are zero and raise nothing (08 R129), with the flags of the others. -/
def maskedLanes (m : Mask) (f : Nat → CF) : Lanes × Flags :=
  let l := (List.range 1024).map (fun l => if m.at l then f l else (0, 0))
  (⟨(l.map Prod.fst).toArray, by simp [l]⟩, l.foldl (fun a r => a ||| r.2) 0)

/-- A mask bit by bit. -/
def mkMask (f : Nat → Bool) : Mask :=
  BitVec.ofNat 1024 ((List.range 1024).foldl (fun a l => if f l then a + 2 ^ l else a) 0)

/-! ## Side fields (03 R35, 04 R46, 08 R128) -/

/-- Scales 0x7F and cloves 0 throughout. -/
def plainSide : Vector W16 256 := .replicate 256 0x7F
def zeroSide : Vector W16 256 := .replicate 256 0

/-- The side field of a format written without computing scales. -/
def freshSide (t : Fmt) : Vector W16 256 := if isBlock t then plainSide else zeroSide

/-- The side field carried from source B to a result of tag `t`. -/
def carriedSide (t : Fmt) (b : VEntry) : Vector W16 256 := if isBlock t then b.side else zeroSide

/-! ## Arithmetic (08 R132, R133) -/

/-- The result element of an exact value under tag T. -/
def finish (t : Fmt) (rm : RM) (sat : Bool) (x : XR × Flags) : CF :=
  if isInt t then
    (if sat then satInt t (x.1.mant 0) else (encInt t (x.1.mant 0), 0))
  else
    let r := roundTo x.1 t rm 0
    (r.1, r.2 ||| x.2)

def addOp (rm : RM) (b c : XR) : XR × Flags := XR.add (decide (rm = .rd)) b c
def subOp (rm : RM) (b c : XR) : XR × Flags := XR.sub (decide (rm = .rd)) b c

/-- b x c + d with one rounding, the product's and the sum's sign changes applied before. -/
def fmaOp (negProd negAdd : Bool) (b c d : XR) : XR × Flags :=
  let p := XR.mul b c
  let r := XR.add false (if negProd then p.1.negate else p.1) (if negAdd then d.negate else d)
  (r.1, p.2 ||| r.2)

/-- The order of VMIN and VMAX: -0 lies below +0. -/
def belowOp (b c : XR) : Bool := b.lt c || (!c.lt b && b.neg && !c.neg)

def minOp (b c : XR) : XR := if b.isNaN || c.isNaN then .nan else if belowOp c b then c else b
def maxOp (b c : XR) : XR := if b.isNaN || c.isNaN then .nan else if belowOp b c then c else b

/-- A value rounded to an integral one, sign kept. -/
def integral (rm : RM) : XR → XR × Flags
  | .fin neg m e st =>
    if 0 ≤ e then (.fin neg m e st, 0)
    else
      let k := (-e).toNat
      let n := m >>> k
      let r := m % 2 ^ k
      (.fin neg (if roundUp rm neg n r k st 0 then n + 1 else n) 0 false, if r = 0 ∧ st = false then 0 else Flags.nx)
  | x => (x, 0)

/-- High w bits of the product. -/
def mulHighElem (t : Fmt) (b c : W32) : CF :=
  (encInt t (decInt t b * decInt t c / (2 ^ width t : Nat)), 0)

/-- Shifts of an element code by the unsigned value of c. -/
def shlElem (t : Fmt) (b c : W32) : CF :=
  (if width t ≤ c.toNat then 0 else BitVec.ofNat 32 ((b.toNat <<< c.toNat) % 2 ^ width t), 0)
def shrElem (t : Fmt) (b c : W32) : CF := (if width t ≤ c.toNat then 0 else BitVec.ofNat 32 (b.toNat >>> c.toNat), 0)
def sarElem (t : Fmt) (b c : W32) : CF :=
  (encInt t (decInt t b / (2 ^ (if width t ≤ c.toNat then width t else c.toNat) : Nat)), 0)

/-- Leading zeros and set bits within an element. -/
def clzElem (t : Fmt) (b : W32) : CF :=
  (BitVec.ofNat 32 (if b = 0 then width t else width t - 1 - Nat.log2 b.toNat), 0)
def popcElem (t : Fmt) (b : W32) : CF :=
  (BitVec.ofNat 32 ((List.range (width t)).filter (fun i => b.toNat.testBit i)).length, 0)

/-! ## Comparison (08 R135) -/

/-- A condition on one element position. -/
def vcond (k : VCond) (b c : XR) : Bool :=
  match k with
  | .eq => !b.isNaN && !c.isNaN && !b.lt c && !c.lt b
  | .ne => b.isNaN || c.isNaN || b.lt c || c.lt b
  | .lt => b.lt c
  | .le => !b.isNaN && !c.isNaN && !c.lt b
  | .gt => c.lt b
  | .ge => !b.isNaN && !c.isNaN && !b.lt c

/-! ## Conversion and packing (08 R136 to R138) -/

/-- The wide partner of a narrow format (08 R137). -/
def widePartner : Fmt → Fmt
  | .bf16 | .fp16 => .fp32
  | .e4m3 | .e5m2 => .bf16
  | .int16 => .int32
  | .int8 | .uint8 => .int16
  | .int4 => .int8
  | .e2m1s => .e4m3
  | _ => .none

/-- Scale of result block m of a widened E2M1S register. -/
def unpackScale (b : VEntry) (m : Nat) : Byte :=
  let s0 := b.scale (2 * m)
  let s1 := b.scale (2 * m + 1)
  if s0 = 0xFF ∨ s1 = 0xFF then 0xFF else if s0.toNat ≤ s1.toNat then s1 else s0

/-- Side field of a widened E2M1S register. -/
def unpackSide (b : VEntry) : Vector W16 256 :=
  mkSide (fun k => if k < 128 then (unpackScale b k).zeroExtend 16 else 0)

/-- An E2M1S element widened against its new scale. -/
def unpackElem (rm : RM) (b : Src) (l i : Nat) : CF :=
  let sn := unpackScale b.e (l / 8)
  if sn = 0xFF then (nanCode .e4m3, 0)
  else roundTo ((b.val l i).scale (127 - (sn.toNat : Int))) .e4m3 rm 0

/-! ## Blocks (08 R139) -/

/-- Values of a whole register, element by element. -/
def srcVal (b : Src) (e : Nat) : XR := b.val (e / count b.e.tag) (e % count b.e.tag)

/-- The blocks of a register, encoded: scale, clove and codes with flags of block bk. -/
def encBlocks (b : Src) (ft : Fmt) (rm : RM) : List (Byte × Byte × List CF) :=
  (List.range (32 * count b.e.tag)).map (fun bk =>
    encodeBlock ((List.range 32).map (fun i => srcVal b (32 * bk + i))) ft rm (fun _ => 0))

/-- VBLKS: part q of the block register replaced. -/
def blockSet (b : Src) (old : Option Src) (ft : Fmt) (rm : RM) (q : Nat) : VEntry × Flags :=
  let bs := (encBlocks b ft rm).toArray
  let n := bs.size
  let w := width ft
  let k := count ft
  let oldCode := fun e => match old with
    | some o => o.code (e / k) (e % k)
    | none => 0
  let code := fun e =>
    if q * n ≤ e / 32 ∧ e / 32 < q * n + n then ((bs.getD (e / 32 - q * n) (0, 0, [])).2.2.getD (e % 32) (0, 0)).1
    else oldCode e
  let oldSide := match old with
    | some o => o.e.side
    | none => plainSide
  ({ lanes := mkLanes (fun l => packLane w k (fun i => code (l * k + i))), tag := ft,
     side := mkSide (fun m =>
       if q * n ≤ m ∧ m < q * n + n then
         let x := bs.getD (m - q * n) (0, 0, [])
         x.1.zeroExtend 16 ||| (x.2.1.zeroExtend 16 <<< 8)
       else oldSide.get (Fin.ofNat 256 m)) },
   bs.foldl (fun a x => x.2.2.foldl (fun a c => a ||| c.2) a) 0)

/-- VBLKG: one result element. -/
def blockGet (b : Src) (ft : Fmt) (rm : RM) (q l i : Nat) : CF :=
  roundTo (srcVal b (q * (1024 * count ft) + l * count ft + i)) ft rm 0

/-! ## Dot products (04 R54, 08 R141) -/

/-- Code, scale and clove of an element as numbers, for the constants of `Config`. -/
def Src.triple (x : Src) (l i : Nat) : List Nat :=
  let n := count x.e.tag
  let i' := match x.part with
    | .whole => i
    | p => (partPlace p).2 / width x.e.tag
  let k := (l * n + i') / 32
  [(x.code l i).toNat, (x.e.scale k).toNat, (x.e.clove k).toNat]

/-- |r - e| against (k + 1) x 2^-24 x t + 2^-149, in exact arithmetic. -/
def dotWithin (k : Nat) (r e t : XR) : Bool :=
  let d := (XR.sub false r e).1.abs
  let lim := (XR.add false ((XR.fin false (k + 1) (-24) false).mul t).1 (.fin false 1 (-149) false)).1
  !lim.lt d

/-- The terms of a dot product: the accumulator and the exact products, with the flags of 0 x infinity. -/
def dotTerms (a b : Src) (k l : Nat) : List XR × Flags :=
  (List.range k).foldl (fun r i =>
    let p := XR.mul (a.val l i) (b.val l i)
    (r.1 ++ [p.1], r.2 ||| p.2)) ([], 0)

/-- An integer lane: exact, saturated into INT32 at the end. -/
def dotInt (a b : Src) (c : XR) (k l : Nat) : CF :=
  satInt .int32 ((dotTerms a b k l).1.foldl (fun s p => s + p.mant 0) (c.mant 0))

/-- A floating lane: the part's value where it lies within the bound, the correctly rounded sum otherwise
(04 R54; log 9). -/
def dotFloat (a b : Src) (c : XR) (cc : W32) (k l : Nat) : CF :=
  let p := dotTerms a b k l
  let terms := c :: p.1
  let pos := terms.any (fun x => x.isInf && !x.neg)
  let neg := terms.any (fun x => x.isInf && x.neg)
  if p.2 ≠ 0 ∨ (pos && neg) = true then (nanCode .fp32, Flags.nv)
  else if terms.any (fun x => x.isNaN) then (nanCode .fp32, 0)
  else
    if pos || neg then (infCode .fp32 neg, 0)
    else
      let e := terms.foldl (fun s x => (XR.add false s x).1) XR.zero
      let t := terms.foldl (fun s x => (XR.add false s x.abs).1) XR.zero
      let key := [l, k, a.e.tag.code, b.e.tag.code, cc.toNat] ++
        (List.range k).flatMap (fun i => a.triple l i ++ b.triple l i)
      let r := Config.dot key
      let tooBig := (XR.fin false (maxFin .fp32).1 (maxFin .fp32).2 false).lt t
      let v := decFloat .fp32 r
      if tooBig && v.isInf then (infCode .fp32 v.neg, Flags.ovf ||| Flags.nx)
      else if v.isNaN || v.isInf || !dotWithin k v e t then roundTo e .fp32 .rne 0
      else
        let exact := !v.lt e && !e.lt v
        let tiny := v.abs.lt (.fin false 1 (-126) false)
        (r, if exact then (if Config.dotNx key then Flags.nx else 0)
            else if tiny then Flags.nx ||| Flags.uf else Flags.nx)

/-! ## Reductions and scans (08 R143) -/

/-- Comb of an arithmetic kind on element codes of tag T. -/
def combElem (t : Fmt) (rm : RM) (k : RedKind) (a b : CF) : CF :=
  let x := decPlain t a.1
  let y := decPlain t b.1
  let r := match k with
    | .add => finish t rm false (addOp rm x y)
    | .max => finish t .rne false (maxOp x y, 0)
    | .min => finish t .rne false (minOp x y, 0)
    | .and => (a.1 &&& b.1, 0)
    | .or => (a.1 ||| b.1, 0)
    | .xor => (a.1 ^^^ b.1, 0)
  (r.1, a.2 ||| b.2 ||| r.2)

/-- One level of the tree: t[c] with t[c + h], for c below h. -/
def treeLevel (f : CF → CF → CF) (h : Nat) (t : List CF) : List CF := List.zipWith f (t.take h) (t.drop h)

/-- The tree over 2^n values, halves first. -/
def tree (f : CF → CF → CF) : Nat → List CF → CF
  | 0, t => t.headD (0, 0)
  | n + 1, t => tree f n (treeLevel f (2 ^ n) t)

/-- An inclusive chain. -/
def chain (f : CF → CF → CF) : CF → List CF → List CF
  | _, [] => []
  | p, x :: r => let y := f p x; y :: chain f y r

/-- A scan (08 R143).  The first lane is copied as it stands, a NaN's payload and sign kept: the rule
writes `p[0] := t[0]` and does not say whether it is made canonical (DESIGN CHOICE, log 74). -/
def scan (f : CF → CF → CF) : List CF → List CF
  | [] => []
  | x :: r => x :: chain f x r

/-- Lane (r, c) (03 R28). -/
def laneRC (r c : Nat) : Nat := r * 64 + c

/-- The lanes of the row or column that lane l stands in, in order. -/
def lineOf (row : Bool) (l : Nat) : List Nat :=
  if row then (List.range 64).map (fun c => laneRC (l / 64) c) else (List.range 16).map (fun r => laneRC r (l % 64))

/-- All lines of a register. -/
def linesOf (row : Bool) : List (List Nat) :=
  if row then (List.range 16).map (fun r => lineOf true (laneRC r 0)) else (List.range 64).map (fun c => lineOf false c)

/-- Element position i of the results of one line: one value for a reduction, one per lane for a scan. -/
def lineResult (sc row : Bool) (f : CF → CF → CF) (t : List CF) : List CF :=
  if sc then scan f t
  else
    let r := tree f (if row then 6 else 4) t
    t.map (fun _ => r)

/-- A reduction or scan of a register: lanes from `get`, an element code by lane and position, `n` positions of `w`
bits. Flags of a line are raised when one of its lanes is enabled. -/
def reduce (m : Mask) (sc row : Bool) (w n : Nat) (f : CF → CF → CF) (get : Nat → Nat → W32) : Lanes × Flags :=
  let lines := (linesOf row).map (fun ln =>
    (ln, (List.range n).map (fun i => lineResult sc row f (ln.map (fun l => (get l i, 0))))))
  let cell := fun l =>
    let (ln, r) := lines.getD (if row then l / 64 else l % 64) ([], [])
    let k := if row then l % 64 else l / 64
    if ln = [] then 0 else packLane w n (fun i => ((r.getD i []).getD k (0, 0)).1)
  let fl := lines.foldl (fun a x =>
    if x.1.any (fun l => m.at l) then
      x.2.foldl (fun a r => r.foldl (fun a c => a ||| c.2) a) a
    else a) 0
  (mkLanes (fun l => if m.at l then cell l else 0), fl)

/-! ## Element draws (08 R145, R146) -/

/-- Element e of VRNG. -/
def rngElem (k : DrawKind) (key sg sp : W64) (e : Nat) : W32 :=
  let d := drawWord key sg sp e
  match k with
  | .u32 => d.truncate 32
  | .f32 => (roundTo (.fin false (fld d 63 40) (-24) false) .fp32 .rne 0).1
  | .bf16 => (roundTo (.fin false (fld d 63 56) (-8) false) .bf16 .rne 0).1

/-- Tag of a VRNG kind. -/
def rngTag : DrawKind → Fmt
  | .u32 => .int32 | .f32 => .fp32 | .bf16 => .bf16

end Sys2Proof.Machine
end

