-- ==== Sys2Proof/Machine/Vector.lean ====
section
/-! DEFINITION. Vector words: what each form checks and captures at issue, and what it gives when its entry starts
(spec 08 R126 to R147). -/

namespace Sys2Proof.Machine

open Sys2Proof

/-! ## Capture at issue -/

/-- Read the vector operands of a word, slot by slot. -/
def readVIs : Nat → List VOp → M (List VArg)
  | _, [] => pure []
  | slot, x :: r => do
    let a ← readVI slot x
    let l ← readVIs (slot + 1) r
    return a :: l

/-- Read scalar operands, each with its slot. -/
def readSIs : List (Nat × SOp) → M (List W64)
  | [] => pure []
  | (slot, x) :: r => do
    let a ← readSI slot x
    let l ← readSIs r
    return a :: l

/-- The entries of the register operands. -/
def entriesOf (xs : List VArg) : List VEntry :=
  xs.filterMap (fun x => match x with
    | .src y => some y.e
    | .imm _ => none)

/-- TVAL of TAGX for operands from a slot on (20 R305). -/
def tagsTval : Nat → List VArg → List (Nat × Fmt)
  | _, [] => []
  | slot, x :: r => x.tags slot ++ tagsTval (slot + 1) r

/-- The operand as a register with a tag that `ok` accepts and a part that fits. -/
def VArg.fits (ok : Fmt → Bool) : VArg → Bool
  | .src y => ok y.e.tag && y.partOk
  | .imm _ => true

/-- The first operand, from a slot on, that one of the checks in turn refuses. -/
def firstBad : Nat → List (Fmt → Bool) → List VArg → Option Nat
  | slot, ok :: oks, x :: r => if x.fits ok then firstBad (slot + 1) oks r else some slot
  | _, _, _ => none

/-- Raise TAGX at a slot. -/
def tagTrap (slot0 : Nat) (xs : List VArg) : Option Nat → M Unit
  | some slot => raise .tagx slot (tagTval (tagsTval slot0 xs))
  | none => pure ()

/-- Tag checks of a form, operand by operand. -/
def tagCheck (slot0 : Nat) (oks : List (Fmt → Bool)) (xs : List VArg) : M Unit :=
  tagTrap slot0 xs (firstBad slot0 oks xs)

/-- The tag of an operand; an immediate has none of its own. -/
def VArg.tag : VArg → Fmt
  | .src y => y.e.tag
  | .imm _ => .none

def VArg.entry : VArg → VEntry
  | .src y => y.e
  | .imm _ => VEntry.zero

def argAt (xs : List VArg) (i : Nat) : VArg := xs.getD i (.imm 0)

/-- The checks of 08 R128: every register source carries the tag of the first, which `ok` accepts. -/
def sameTag (ok : Fmt → Bool) (xs : List VArg) : List (Fmt → Bool) :=
  let t := (argAt xs 0).tag
  xs.map (fun _ => fun u => ok t && decide (u = t))

/-- Append an entry to the vector engine's queue (02 R22 step 5). -/
def vxePush (i : Instr) (xs : List VArg) (vals : List W64) : M Unit :=
  modify (fun s =>
    let e := entry i 0 0 0 vals (entriesOf xs) s
    s.updCore s.cur (fun k => { k with vxeQ := k.vxeQ ++ [e] }))

/-- A vector word: vector operands from slot `slot0`, scalars, checks, and dispatch. -/
def vword (i : Instr) (h : Head) (slot0 : Nat) (vs : List VOp) (ss : List (Nat × SOp))
    (check : List VArg → List W64 → M Unit) (s : State) : Out :=
  issue i h (do
    let xs ← readVIs slot0 vs
    let ys ← readSIs ss
    check xs ys
    vxePush i xs ys) s

/-- A word whose sources all carry one accepted tag. -/
def vtagged (i : Instr) (h : Head) (slot0 : Nat) (vs : List VOp) (ok : Fmt → Bool) (s : State) : Out :=
  vword i h slot0 vs [] (fun xs _ => tagCheck slot0 (sameTag ok xs) xs) s

/-- A raw word: any tags and parts. -/
def vraw (i : Instr) (h : Head) (slot0 : Nat) (vs : List VOp) (s : State) : Out :=
  vword i h slot0 vs [] (fun _ _ => pure ()) s

/-- The checks of VADD, VSUB and VMUL: SAT needs an integer tag, refused at the modifier slot. -/
def satCheck (sat : Bool) (xs : List VArg) : M Unit := do
  tagCheck 1 (sameTag isArith xs) xs
  if sat && !isInt (argAt xs 0).tag then tagTrap 1 xs (some 3) else pure ()

/-- Coordinates of a draw: Sp in the given slot is checked (08 R145). -/
def drawCheck (slot : Nat) (n : Nat) (ys : List W64) : M Unit := spOk slot (ys.getD n 0)

def notNone (f : Fmt) : Bool := decide (f ≠ .none)
def anyTag (_ : Fmt) : Bool := true

/-! ## Results -/

/-- What a started entry gives: its figure X, the read latency of its sources, its destination, value and flags. -/
structure VOut where
  x : Nat
  rd : Nat
  dst : Dst
  val : RVal
  flags : Flags

/-- The operands as captured. -/
def rebuild : List VOp → List VEntry → List VArg
  | [], _ => []
  | .imm v :: r, es => .imm v :: rebuild r es
  | .src x :: r, e :: es => .src ⟨e, x.swp, x.part⟩ :: rebuild r es
  | .src x :: r, [] => .src ⟨VEntry.zero, x.swp, x.part⟩ :: rebuild r []

/-- The slowest read among the sources (08 R130). -/
def slowest (vs : List VOp) : Nat := vs.foldl (fun a x => max a (opCost x)) 0

/-- Every producer of ACC12 writes bits [10:0] of each lane as zero (04 R43, 08 R128). -/
def VEntry.norm (e : VEntry) : VEntry :=
  if e.tag = .acc12 then { e with lanes := mkLanes (fun l => e.lanes.at l &&& 0xFFFFF800) } else e

/-- A vector result. -/
def vout (x : Nat) (vs : List VOp) (d : VDst) (e : VEntry) (fl : Flags) : VOut :=
  { x := x, rd := slowest vs, dst := dstV d, val := .v e.norm, flags := fl }

/-- Frame of 08 R132 on codes: one result code for each element position, under tag T of the first source. -/
def vcodes (x : Nat) (d : VDst) (vs : List VOp) (m : Mask) (q : QEntry) (f : Fmt → List VArg → Nat → Nat → CF) : VOut :=
  let xs := rebuild vs q.vops
  let t := (argAt xs 0).tag
  let imm := xs.foldl (fun a y => a ||| y.flags t) 0
  let r := maskedLanes m (fun l => let c := laneOf (width t) (count t) (f t xs l); (c.1, c.2 ||| imm))
  vout x vs d ⟨r.1, t, zeroSide⟩ r.2

/-- Frame of 08 R132 on exact values of up to three sources. -/
def vvals (x : Nat) (d : VDst) (vs : List VOp) (m : Mask) (rm : RM) (sat : Bool) (q : QEntry)
    (op : XR → XR → XR → XR × Flags) : VOut :=
  vcodes x d vs m q (fun t xs l i =>
    finish t rm sat (op ((argAt xs 0).val t l i) ((argAt xs 1).val t l i) ((argAt xs 2).val t l i)))

/-- Raw lanes of a register word, with B's tag. -/
def vlanes (x : Nat) (d : VDst) (vs : List VOp) (m : Mask) (q : QEntry) (f : Fmt → List VArg → Nat → W32) : VOut :=
  let xs := rebuild vs q.vops
  let b := (argAt xs 0).entry
  vout x vs d ⟨mkLanes (fun l => if m.at l then f b.tag xs l else 0), b.tag, carriedSide b.tag b⟩ 0

/-- A lane moved from another place of B (08 R142). -/
def vmove (x : Nat) (d : VDst) (b : VSrc) (m : Mask) (q : QEntry) (from_ : Nat → Nat) : VOut :=
  vlanes x d [.src b] m q (fun t xs l => (argAt xs 0).raw t (from_ l))

/-- A conversion of elements from one register into tag `t`; positions beyond `p` are zero. -/
def vconv (x : Nat) (d : VDst) (b : VSrc) (m : Mask) (q : QEntry) (t : Src → Fmt) (p : Src → Nat)
    (side : Src → Vector W16 256) (f : Src → Nat → Nat → CF) : VOut :=
  match rebuild [.src b] q.vops with
  | .src y :: _ =>
    let r := maskedLanes m (fun l => laneOf (width (t y)) (count (t y)) (fun i => if i < p y then f y l i else (0, 0)))
    vout x [.src b] d ⟨r.1, t y, side y⟩ r.2
  | _ => vout x [.src b] d VEntry.zero 0

/-- A scalar result of the vector pipe. -/
def vscalar (x : Nat) (vs : List VOp) (d : Fin 64) (v : W64) : VOut :=
  { x := x, rd := slowest vs, dst := .s d, val := .s v, flags := 0 }

/-- A mask result. -/
def vmask (x : Nat) (vs : List VOp) (d : Fin 8) (m : Mask) : VOut :=
  { x := x, rd := slowest vs, dst := .m d, val := .m m, flags := 0 }

def val0 (q : QEntry) (n : Nat) : W64 := q.vals.getD n 0

/-- A register result of a dot form (08 R141). -/
def vdot (d : VDst) (a b : VSrc) (c : VOp) (m : Mask) (k : Nat) (q : QEntry) : VOut :=
  let vs := [.src a, .src b, c]
  match rebuild vs q.vops with
  | [.src x, .src y, z] =>
    let int := isInt x.e.tag
    let t : Fmt := if int then .int32 else .fp32
    let r := maskedLanes m (fun l =>
      if int then dotInt x y (z.val t l 0) k l else dotFloat x y (z.val t l 0) (z.code t l 0) k l)
    vout 6 vs d ⟨r.1, t, zeroSide⟩ r.2
  | _ => vout 6 vs d VEntry.zero 0

/-- A reduction or scan (08 R143). -/
def vred (x : Nat) (sc row : Bool) (d : VDst) (b : VSrc) (m : Mask) (rm : RM) (k : RedKind) (q : QEntry) : VOut :=
  match rebuild [.src b] q.vops with
  | .src y :: _ =>
    let bits := match k with
      | .and | .or | .xor => true
      | .add | .max | .min => false
    let t := y.e.tag
    let r := if bits then reduce m sc row 32 1 (combElem t rm k) (fun l _ => y.raw l)
      else reduce m sc row (width t) (count t) (combElem t rm k) (fun l i => y.code l i)
    vout x [.src b] d ⟨r.1, t, carriedSide t y.e⟩ r.2
  | _ => vout x [.src b] d VEntry.zero 0

/-- The pairing of a dot form's tags. -/
def dotPair : Nat → Fmt → Fmt → Bool
  | 2, .bf16, .bf16 | 2, .fp16, .fp16 | 2, .int16, .int16 => true
  | 4, .e4m3, .e4m3 | 4, .e4m3, .e5m2 | 4, .e5m2, .e4m3 | 4, .e5m2, .e5m2 => true
  | 4, .int8, .int8 | 4, .int8, .uint8 | 4, .uint8, .int8 | 4, .uint8, .uint8 => true
  | 8, .e2m1s, .e2m1s | 8, .int4, .int4 => true
  | _, _, _ => false

/-- The checks of a dot form: A's tag has a partner, B's is one, C matches the result. -/
def dotCheck (k : Nat) (xs : List VArg) : M Unit :=
  let t := (argAt xs 0).tag
  tagCheck 1 [fun u => Fmt.all.any (fun v => dotPair k u v), fun u => dotPair k t u,
    fun u => decide (u = if isInt t then .int32 else .fp32)] xs

/-- Tags that VUNPKL and VUNPKH widen. -/
def isNarrow (f : Fmt) : Bool := decide (widePartner f ≠ .none)

/-- The widening of element `i` of the low or the high half of a lane (08 R137, R138). -/
def unpackAt (rm : RM) (hi : Bool) (y : Src) (l i : Nat) : CF :=
  let j := if hi then i + count y.e.tag / 2 else i
  if y.e.tag = .e2m1s then unpackElem rm y l j else roundTo (y.val l j) (widePartner y.e.tag) rm 0

def unpackRes (d : VDst) (b : VSrc) (m : Mask) (rm : RM) (hi : Bool) (q : QEntry) : VOut :=
  vconv 4 d b m q (fun y => widePartner y.e.tag) (fun y => count y.e.tag / 2)
    (fun y => if y.e.tag = .e2m1s then unpackSide y.e else zeroSide) (unpackAt rm hi)

/-- Element count of a tag, NONE as one 32-bit element. -/
def elemBound (f : Fmt) : Nat := 1024 * count f

/-! ## Forms: issue -/

def execVadd (h : Head) (d : VDst) (b : VSrc) (c : VOp) (m : Fin 8) (rm : RM) (sat : Bool) (s : State) : Out :=
  vword (.vadd h d b c m rm sat) h 1 [.src b, c] [] (fun xs _ => satCheck sat xs) s

def execVsub (h : Head) (d : VDst) (b : VSrc) (c : VOp) (m : Fin 8) (rm : RM) (sat : Bool) (s : State) : Out :=
  vword (.vsub h d b c m rm sat) h 1 [.src b, c] [] (fun xs _ => satCheck sat xs) s

def execVmul (h : Head) (d : VDst) (b : VSrc) (c : VOp) (m : Fin 8) (rm : RM) (sat : Bool) (s : State) : Out :=
  vword (.vmul h d b c m rm sat) h 1 [.src b, c] [] (fun xs _ => satCheck sat xs) s

def execVfma (h : Head) (d : VDst) (b : VSrc) (c e : VOp) (s : State) : Out :=
  vtagged (.vfma h d b c e) h 1 [.src b, c, e] isArith s

def execVfms (h : Head) (d : VDst) (b : VSrc) (c e : VOp) (s : State) : Out :=
  vtagged (.vfms h d b c e) h 1 [.src b, c, e] isArith s

def execVnfma (h : Head) (d : VDst) (b : VSrc) (c e : VOp) (s : State) : Out :=
  vtagged (.vnfma h d b c e) h 1 [.src b, c, e] isArith s

def execVmin (h : Head) (d : VDst) (b : VSrc) (c : VOp) (m : Fin 8) (s : State) : Out :=
  vtagged (.vmin h d b c m) h 1 [.src b, c] isArith s

def execVmax (h : Head) (d : VDst) (b : VSrc) (c : VOp) (m : Fin 8) (s : State) : Out :=
  vtagged (.vmax h d b c m) h 1 [.src b, c] isArith s

def execVabs (h : Head) (d : VDst) (b : VSrc) (m : Fin 8) (s : State) : Out :=
  vtagged (.vabs h d b m) h 1 [.src b] isArith s

def execVneg (h : Head) (d : VDst) (b : VSrc) (m : Fin 8) (s : State) : Out :=
  vtagged (.vneg h d b m) h 1 [.src b] isArith s

def execVclamp (h : Head) (d : VDst) (b : VSrc) (c e : VOp) (s : State) : Out :=
  vtagged (.vclamp h d b c e) h 1 [.src b, c, e] isArith s

def execVcmp (h : Head) (k : VCond) (d : Fin 8) (b : VSrc) (c : VOp) (m : Fin 8) (s : State) : Out :=
  vtagged (.vcmp h k d b c m) h 1 [.src b, c] isArith s

/-- B and C carry equal tags, of whatever format (08 R134). -/
def execVsel (h : Head) (d : VDst) (k : Fin 8) (b : VSrc) (c : VOp) (s : State) : Out :=
  vword (.vsel h d k b c) h 2 [.src b, c] [] (fun xs _ =>
    match argAt xs 1 with
    | .src y => tagTrap 2 xs (if y.e.tag = (argAt xs 0).tag then none else some 3)
    | .imm _ => pure ()) s

def execVand (h : Head) (d : VDst) (b : VSrc) (c : VOp) (m : Fin 8) (s : State) : Out :=
  vraw (.vand h d b c m) h 1 [.src b, c] s

def execVor (h : Head) (d : VDst) (b : VSrc) (c : VOp) (m : Fin 8) (s : State) : Out :=
  vraw (.vor h d b c m) h 1 [.src b, c] s

def execVxor (h : Head) (d : VDst) (b : VSrc) (c : VOp) (m : Fin 8) (s : State) : Out :=
  vraw (.vxor h d b c m) h 1 [.src b, c] s

def execVnot (h : Head) (d : VDst) (b : VSrc) (m : Fin 8) (s : State) : Out :=
  vraw (.vnot h d b m) h 1 [.src b] s

def execVshl (h : Head) (d : VDst) (b : VSrc) (c : VOp) (m : Fin 8) (s : State) : Out :=
  vtagged (.vshl h d b c m) h 1 [.src b, c] isInt s

def execVshr (h : Head) (d : VDst) (b : VSrc) (c : VOp) (m : Fin 8) (s : State) : Out :=
  vtagged (.vshr h d b c m) h 1 [.src b, c] isInt s

def execVsar (h : Head) (d : VDst) (b : VSrc) (c : VOp) (m : Fin 8) (s : State) : Out :=
  vtagged (.vsar h d b c m) h 1 [.src b, c] isInt s

def execVmulh (h : Head) (d : VDst) (b : VSrc) (c : VOp) (m : Fin 8) (s : State) : Out :=
  vtagged (.vmulh h d b c m) h 1 [.src b, c] isInt s

def execVclz (h : Head) (d : VDst) (b : VSrc) (m : Fin 8) (s : State) : Out :=
  vtagged (.vclz h d b m) h 1 [.src b] isInt s

def execVpopc (h : Head) (d : VDst) (b : VSrc) (m : Fin 8) (s : State) : Out :=
  vtagged (.vpopc h d b m) h 1 [.src b] isInt s

/-- The source's element count must not exceed the target's; a part counts as the target's (08 R136). -/
def execVcvt (h : Head) (d : VDst) (b : VSrc) (m : Fin 8) (rm : RM) (ft : Fmt) (draw : Option (SSrc × SSrc))
    (s : State) : Out :=
  vword (.vcvt h d b m rm ft draw) h 1 [.src b]
    (match draw with
      | some (sg, sp) => [(3, .src sg), (4, .src sp)]
      | none => [])
    (fun xs ys => do
      tagCheck 1 [fun u => notNone u && (decide (b.part ≠ .whole) || decide (count u ≤ count ft))] xs
      match draw with
      | some _ => drawCheck 4 1 ys
      | none => pure ()) s

def execVtag (h : Head) (d : VDst) (b : VSrc) (m : Fin 8) (ft : Fmt) (s : State) : Out :=
  vraw (.vtag h d b m ft) h 1 [.src b] s

def execVround (h : Head) (d : VDst) (b : VSrc) (m : Fin 8) (rm : RM) (s : State) : Out :=
  vtagged (.vround h d b m rm) h 1 [.src b] isFloat s

def execVpack (h : Head) (d : VDst) (b c : VSrc) (m : Fin 8) (rm : RM) (ft : Fmt) (s : State) : Out :=
  vtagged (.vpack h d b c m rm ft) h 1 [.src b, .src c] (fun u => decide (u = widePartner ft)) s

def execVunpkl (h : Head) (d : VDst) (b : VSrc) (m : Fin 8) (rm : RM) (s : State) : Out :=
  vtagged (.vunpkl h d b m rm) h 1 [.src b] isNarrow s

def execVunpkh (h : Head) (d : VDst) (b : VSrc) (m : Fin 8) (rm : RM) (s : State) : Out :=
  vtagged (.vunpkh h d b m rm) h 1 [.src b] isNarrow s

/-- Values that VBLKS takes; the part index must fit the block register (08 R139). -/
def blockSrc (ft : Fmt) (q : Nat) (u : Fmt) : Bool :=
  (decide (u = .fp32) || decide (u = .fp16) || decide (u = .bf16)) && decide (q < count ft / count u)

def execVblks (h : Head) (d : VDst) (b : VSrc) (c : Option VSrc) (rm : RM) (ft : Fmt) (q : Fin 8) (s : State) : Out :=
  vword (.vblks h d b c rm ft q) h 1
    (.src b :: (match c with | some x => [.src x] | none => [])) []
    (fun xs _ => tagCheck 1 [blockSrc ft q.val, fun u => decide (u = ft)] xs) s

def execVblkg (h : Head) (d : VDst) (b : VSrc) (m : Fin 8) (rm : RM) (ft : Fmt) (q : Fin 8) (s : State) : Out :=
  vword (.vblkg h d b m rm ft q) h 1 [.src b] []
    (fun xs _ => tagCheck 1 [fun u => isBlock u && decide (q.val < count u / count ft)] xs) s

/-- Sources of VACC12: FP32 or ACC12 whole, FP16 or BF16 by part (08 R140). -/
def execVacc12 (h : Head) (d : VDst) (a : VSrc) (x : VOp) (sg sp : SSrc) (s : State) : Out :=
  vword (.vacc12 h d a x sg sp) h 1 [.src a, x] [(3, .src sg), (4, .src sp)]
    (fun xs ys => do
      let part := match x with
        | .src y => decide (y.part ≠ .whole)
        | .imm _ => false
      tagCheck 1 [fun u => decide (u = .acc12), fun u =>
        decide (u = .fp32) || decide (u = .acc12) || (part && (decide (u = .fp16) || decide (u = .bf16)))] xs
      drawCheck 4 1 ys) s

def execVdot2 (h : Head) (d : VDst) (a b : VSrc) (c : VOp) (s : State) : Out :=
  vword (.vdot2 h d a b c) h 1 [.src a, .src b, c] [] (fun xs _ => dotCheck 2 xs) s

def execVdot4 (h : Head) (d : VDst) (a b : VSrc) (c : VOp) (s : State) : Out :=
  vword (.vdot4 h d a b c) h 1 [.src a, .src b, c] [] (fun xs _ => dotCheck 4 xs) s

def execVdot8 (h : Head) (d : VDst) (a b : VSrc) (c : VOp) (s : State) : Out :=
  vword (.vdot8 h d a b c) h 1 [.src a, .src b, c] [] (fun xs _ => dotCheck 8 xs) s

def execVrotr (h : Head) (d : VDst) (b : VSrc) (k : SOp) (m : Fin 8) (s : State) : Out :=
  vword (.vrotr h d b k m) h 1 [.src b] [(2, k)] (fun _ _ => pure ()) s

def execVrotc (h : Head) (d : VDst) (b : VSrc) (k : SOp) (m : Fin 8) (s : State) : Out :=
  vword (.vrotc h d b k m) h 1 [.src b] [(2, k)] (fun _ _ => pure ()) s

/-- A broadcast index below its axis (08 R142). -/
def belowCheck (n slot : Nat) (ys : List W64) : M Unit :=
  need (decide ((ys.getD 0 0).toNat < n)) .illop slot (ys.getD 0 0)

def execVbcr (h : Head) (d : VDst) (b : VSrc) (k : SOp) (m : Fin 8) (s : State) : Out :=
  vword (.vbcr h d b k m) h 1 [.src b] [(2, k)] (fun _ ys => belowCheck 64 2 ys) s

def execVbcc (h : Head) (d : VDst) (b : VSrc) (k : SOp) (m : Fin 8) (s : State) : Out :=
  vword (.vbcc h d b k m) h 1 [.src b] [(2, k)] (fun _ ys => belowCheck 16 2 ys) s

/-- Tags of a reduction kind (08 R142). -/
def redTags : RedKind → Fmt → Bool
  | .and, _ | .or, _ | .xor, _ => true
  | .add, f | .max, f | .min, f => isArith f

/-- Parts of a bitwise kind are raw. -/
def redCheck (k : RedKind) (xs : List VArg) : M Unit :=
  match k with
  | .and | .or | .xor => pure ()
  | .add | .max | .min => tagCheck 1 [redTags k] xs

def execVredr (h : Head) (d : VDst) (b : VSrc) (m : Fin 8) (rm : RM) (k : RedKind) (s : State) : Out :=
  vword (.vredr h d b m rm k) h 1 [.src b] [] (fun xs _ => redCheck k xs) s

def execVredc (h : Head) (d : VDst) (b : VSrc) (m : Fin 8) (rm : RM) (k : RedKind) (s : State) : Out :=
  vword (.vredc h d b m rm k) h 1 [.src b] [] (fun xs _ => redCheck k xs) s

def execVscanr (h : Head) (d : VDst) (b : VSrc) (m : Fin 8) (rm : RM) (k : RedKind) (s : State) : Out :=
  vword (.vscanr h d b m rm k) h 1 [.src b] [] (fun xs _ => redCheck k xs) s

def execVscanc (h : Head) (d : VDst) (b : VSrc) (m : Fin 8) (rm : RM) (k : RedKind) (s : State) : Out :=
  vword (.vscanc h d b m rm k) h 1 [.src b] [] (fun xs _ => redCheck k xs) s

def execVshfr (h : Head) (d : VDst) (b x : VSrc) (m : Fin 8) (s : State) : Out :=
  vraw (.vshfr h d b x m) h 1 [.src b, .src x] s

def execVtrb (h : Head) (d : VDst) (b : VSrc) (m : Fin 8) (s : State) : Out :=
  vraw (.vtrb h d b m) h 1 [.src b] s

def execViota (h : Head) (d : VDst) (st sd : SOp) (m : Fin 8) (ft : Fmt) (s : State) : Out :=
  vword (.viota h d st sd m ft) h 1 [] [(1, st), (2, sd)] (fun _ _ => pure ()) s

def execVmov (h : Head) (d : VDst) (b : VSrc) (s : State) : Out := vraw (.vmov h d b) h 1 [.src b] s

def execVsplat (h : Head) (d : VDst) (a : SOp) (m : Fin 8) (ft : Fmt) (s : State) : Out :=
  vword (.vsplat h d a m ft) h 1 [] [(1, a)] (fun _ _ => pure ()) s

/-- The element index of VEXT and VINS lies within b's elements (08 R144). -/
def indexCheck (slot : Nat) (xs : List VArg) (e : W64) : M Unit :=
  need (decide (e.toNat < elemBound (argAt xs 0).tag)) .illop slot e

def execVext (h : Head) (d : Fin 64) (b : VSrc) (e : SOp) (sx : Bool) (s : State) : Out :=
  vword (.vext h d b e sx) h 1 [.src b] [(2, e)] (fun xs ys => indexCheck 2 xs (ys.getD 0 0)) s

def execVins (h : Head) (d : VDst) (b : VSrc) (a : SSrc) (e : SOp) (s : State) : Out :=
  vword (.vins h d b a e) h 1 [.src b] [(2, .src a), (3, e)] (fun xs ys => indexCheck 3 xs (ys.getD 1 0)) s

def execVrng (h : Head) (d : VDst) (sg sp : SSrc) (m : Fin 8) (k : DrawKind) (s : State) : Out :=
  vword (.vrng h d sg sp m k) h 1 [] [(1, .src sg), (2, .src sp)] (fun _ ys => drawCheck 2 1 ys) s

def execVdrop (h : Head) (d : VDst) (b : VSrc) (sg sp : SSrc) (kt : W16) (s : State) : Out :=
  vword (.vdrop h d b sg sp kt) h 1 [.src b] [(2, .src sg), (3, .src sp)]
    (fun xs ys => do
      tagCheck 1 [notNone] xs
      drawCheck 3 1 ys) s

def execMand (h : Head) (d a b : Fin 8) (s : State) : Out := vraw (.mand h d a b) h 1 [] s

def execMor (h : Head) (d a b : Fin 8) (s : State) : Out := vraw (.mor h d a b) h 1 [] s

def execMxor (h : Head) (d a b : Fin 8) (s : State) : Out := vraw (.mxor h d a b) h 1 [] s

def execMnot (h : Head) (d a : Fin 8) (s : State) : Out := vraw (.mnot h d a) h 1 [] s

def execMcnt (h : Head) (d : Fin 64) (a : Fin 8) (s : State) : Out := vraw (.mcnt h d a) h 1 [] s

def execMfirst (h : Head) (d : Fin 64) (a : Fin 8) (s : State) : Out := vraw (.mfirst h d a) h 1 [] s

end Sys2Proof.Machine
end

