-- ==== Sys2Proof/Machine/Pipe.lean ====
section
/-! DEFINITION. What a vector entry gives when it starts: figure X, read latency, destination and value of every vector
form, and the start and the writeback of results (spec 02 R22, R23, 03 R30, R32, 06 R84, 08 R129 to R147). -/

namespace Sys2Proof.Machine

open Sys2Proof

/-! ## Results by form -/

/-- A comparison: a lane's bit is 1 when the condition holds at every element position (08 R135). -/
def vcmpOut (k : VCond) (d : Fin 8) (b : VSrc) (c : VOp) (m : Mask) (q : QEntry) : VOut :=
  let vs := [.src b, c]
  let xs := rebuild vs q.vops
  let t := (argAt xs 0).tag
  vmask 2 vs d (mkMask (fun l => m.at l && (List.range (count t)).all (fun i =>
    vcond k ((argAt xs 0).val t l i) ((argAt xs 1).val t l i))))

/-- A selection by a mask, whole lanes (08 R134). -/
def vselOut (d : VDst) (b : VSrc) (c : VOp) (m : Mask) (q : QEntry) : VOut :=
  let vs := [.src b, c]
  let xs := rebuild vs q.vops
  let e := (argAt xs 0).entry
  vout 2 vs d ⟨mkLanes (fun l => (argAt xs (if m.at l then 0 else 1)).raw e.tag l), e.tag, e.side⟩ 0

/-- A copy of a whole entry (08 R134). -/
def vmovOut (d : VDst) (b : VSrc) (q : QEntry) : VOut :=
  match rebuild [.src b] q.vops with
  | .src y :: _ => vout 2 [.src b] d ⟨mkLanes y.raw, y.e.tag, y.e.side⟩ 0
  | _ => vout 2 [.src b] d VEntry.zero 0

def vcvtOut (d : VDst) (b : VSrc) (m : Mask) (rm : RM) (ft : Fmt) (q : QEntry) : VOut :=
  vconv 4 d b m q (fun _ => ft) (fun y => if y.part = .whole then count y.e.tag else count ft) (fun _ => freshSide ft)
    (fun y l i =>
      roundTo (y.val l i) ft rm (if rm = .sr then draw16 q.key1 (val0 q 0) (val0 q 1) (l * count ft + i) else 0))

def vtagOut (d : VDst) (b : VSrc) (m : Mask) (ft : Fmt) (q : QEntry) : VOut :=
  match rebuild [.src b] q.vops with
  | .src y :: _ =>
    vout 2 [.src b] d ⟨mkLanes (fun l => if m.at l then y.raw l else 0), ft,
      if isBlock y.e.tag then carriedSide ft y.e else freshSide ft⟩ 0
  | _ => vout 2 [.src b] d VEntry.zero 0

def vpackOut (d : VDst) (b c : VSrc) (m : Mask) (rm : RM) (ft : Fmt) (q : QEntry) : VOut :=
  let vs := [.src b, .src c]
  let xs := rebuild vs q.vops
  let t := (argAt xs 0).tag
  let n := count t
  let r := maskedLanes m (fun l => laneOf (width ft) (count ft) (fun i =>
    if i < n then roundTo ((argAt xs 0).val t l i) ft rm 0 else roundTo ((argAt xs 1).val t l (i - n)) ft rm 0))
  vout 4 vs d ⟨r.1, ft, freshSide ft⟩ r.2

def vblksOut (d : VDst) (b : VSrc) (c : Option VSrc) (rm : RM) (ft : Fmt) (p : Nat) (q : QEntry) : VOut :=
  let vs : List VOp := .src b :: (match c with | some x => [.src x] | none => [])
  match rebuild vs q.vops with
  | [.src y] => let r := blockSet y none ft rm p; vout 8 vs d r.1 r.2
  | [.src y, .src z] => let r := blockSet y (some z) ft rm p; vout 8 vs d r.1 r.2
  | _ => vout 8 vs d VEntry.zero 0

def vacc12Out (d : VDst) (a : VSrc) (x : VOp) (m : Mask) (q : QEntry) : VOut :=
  let vs := [.src a, x]
  let xs := rebuild vs q.vops
  let rm := if bit q.srmode 1 then RM.sr else RM.rne
  let r := maskedLanes m (fun l =>
    let s := XR.add false ((argAt xs 0).val .acc12 l 0) ((argAt xs 1).val .fp32 l 0)
    let c := roundTo s.1 .acc12 rm (draw16 q.key1 (val0 q 0) (val0 q 1) l)
    (c.1, c.2 ||| s.2))
  vout 4 vs d ⟨r.1, .acc12, zeroSide⟩ r.2

/-- Row rotation by k, column rotation, and the lane each result lane comes from (08 R142). -/
def rotRow (k l : Nat) : Nat := laneRC (l / 64) ((l % 64 + 64 - k % 64) % 64)
def rotCol (k l : Nat) : Nat := laneRC ((l / 64 + 16 - k % 16) % 16) (l % 64)
def transpose4 (l : Nat) : Nat :=
  let r := l / 64
  let c := l % 64
  laneRC (r / 4 * 4 + c % 4) (c / 4 * 4 + r % 4)

def vshfrOut (d : VDst) (b x : VSrc) (m : Mask) (q : QEntry) : VOut :=
  vlanes 4 d [.src b, .src x] m q (fun t xs l =>
    (argAt xs 0).raw t (laneRC (l / 64) (((argAt xs 1).raw t l).toNat % 64)))

def viotaOut (d : VDst) (m : Mask) (ft : Fmt) (q : QEntry) : VOut :=
  let w := width ft
  let r := maskedLanes m (fun l => laneOf w (count ft) (fun i =>
    (encInt ft ((val0 q 0).toInt + ((l * count ft + i : Nat) : Int) * (val0 q 1).toInt), 0)))
  vout 2 [] d ⟨r.1, ft, zeroSide⟩ 0

def vsplatOut (d : VDst) (m : Mask) (ft : Fmt) (q : QEntry) : VOut :=
  let r := maskedLanes m (fun _ => laneOf (width ft) (count ft) (fun _ => ((val0 q 0).truncate 32, 0)))
  vout 2 [] d ⟨r.1, ft, freshSide ft⟩ 0

/-- Element e of a raw register: the lane after part and swap, then the element in it (03 R36, 08 R144). -/
def rawElem (y : Src) (e : Nat) : W32 :=
  let n := count y.e.tag
  BitVec.ofNat 32 ((y.raw (e / n)).toNat / 2 ^ (e % n * width y.e.tag) % 2 ^ width y.e.tag)

def vextOut (d : Fin 64) (b : VSrc) (sx : Bool) (q : QEntry) : VOut :=
  match rebuild [.src b] q.vops with
  | .src y :: _ =>
    let v := rawElem y (val0 q 0).toNat
    vscalar 3 [.src b] d (if sx then sext64 (width y.e.tag) v.toNat else v.zeroExtend 64)
  | _ => vscalar 3 [.src b] d 0

def vinsOut (d : VDst) (b : VSrc) (q : QEntry) : VOut :=
  match rebuild [.src b] q.vops with
  | .src y :: _ =>
    let n := count y.e.tag
    let w := width y.e.tag
    let e := (val0 q 1).toNat
    vout 3 [.src b] d ⟨mkLanes (fun l =>
      if l = e / n then setFld (y.raw l) (e % n * w) w (val0 q 0).toNat else y.raw l), y.e.tag, y.e.side⟩ 0
  | _ => vout 3 [.src b] d VEntry.zero 0

def vrngOut (d : VDst) (m : Mask) (k : DrawKind) (q : QEntry) : VOut :=
  let t := rngTag k
  let r := maskedLanes m (fun l => laneOf (width t) (count t) (fun i =>
    (rngElem k q.key0 (val0 q 0) (val0 q 1) (l * count t + i), 0)))
  vout 6 [] d ⟨r.1, t, zeroSide⟩ 0

def vdropOut (d : VDst) (b : VSrc) (kt : W16) (m : Mask) (q : QEntry) : VOut :=
  vconv 6 d b m q (fun y => y.e.tag) (fun y => count y.e.tag) (fun y => y.e.side) (fun y l i =>
    (if (draw16 q.key0 (val0 q 0) (val0 q 1) (l * count y.e.tag + i)).toNat < kt.toNat then y.code l i else 0, 0))

/-- Lowest set bit, or 1024. -/
def firstBit (m : Mask) : Nat := (List.range 1024).findIdx (fun l => m.at l)

/-- The result of a vector entry, with the masks as they stand when it starts. -/
def vxeOut (k : Core) (q : QEntry) : VOut :=
  let m := fun (n : Fin 8) => k.masks.get n
  match q.ins with
  | .vadd _ d b c g rm sat => vvals 4 d [.src b, c] (m g) rm sat q (fun x y _ => addOp rm x y)
  | .vsub _ d b c g rm sat => vvals 4 d [.src b, c] (m g) rm sat q (fun x y _ => subOp rm x y)
  | .vmul _ d b c g rm sat => vvals 4 d [.src b, c] (m g) rm sat q (fun x y _ => XR.mul x y)
  | .vfma _ d b c e => vvals 4 d [.src b, c, e] (m 0) .rne false q (fmaOp false false)
  | .vfms _ d b c e => vvals 4 d [.src b, c, e] (m 0) .rne false q (fmaOp false true)
  | .vnfma _ d b c e => vvals 4 d [.src b, c, e] (m 0) .rne false q (fmaOp true false)
  | .vmin _ d b c g => vvals 2 d [.src b, c] (m g) .rne false q (fun x y _ => (minOp x y, 0))
  | .vmax _ d b c g => vvals 2 d [.src b, c] (m g) .rne false q (fun x y _ => (maxOp x y, 0))
  | .vabs _ d b g => vvals 2 d [.src b] (m g) .rne false q (fun x _ _ => (x.abs, 0))
  | .vneg _ d b g => vvals 2 d [.src b] (m g) .rne false q (fun x _ _ => (x.negate, 0))
  | .vclamp _ d b c e => vvals 2 d [.src b, c, e] (m 0) .rne false q (fun x y z => (minOp (maxOp x y) z, 0))
  | .vcmp _ c d b x g => vcmpOut c d b x (m g) q
  | .vsel _ d g b c => vselOut d b c (m g) q
  | .vand _ d b c g => vlanes 2 d [.src b, c] (m g) q (fun t xs l => (argAt xs 0).raw t l &&& (argAt xs 1).raw t l)
  | .vor _ d b c g => vlanes 2 d [.src b, c] (m g) q (fun t xs l => (argAt xs 0).raw t l ||| (argAt xs 1).raw t l)
  | .vxor _ d b c g => vlanes 2 d [.src b, c] (m g) q (fun t xs l => (argAt xs 0).raw t l ^^^ (argAt xs 1).raw t l)
  | .vnot _ d b g => vlanes 2 d [.src b] (m g) q (fun t xs l => ~~~((argAt xs 0).raw t l))
  | .vshl _ d b c g => vcodes 2 d [.src b, c] (m g) q (fun t xs l i => shlElem t ((argAt xs 0).code t l i) ((argAt xs 1).code t l i))
  | .vshr _ d b c g => vcodes 2 d [.src b, c] (m g) q (fun t xs l i => shrElem t ((argAt xs 0).code t l i) ((argAt xs 1).code t l i))
  | .vsar _ d b c g => vcodes 2 d [.src b, c] (m g) q (fun t xs l i => sarElem t ((argAt xs 0).code t l i) ((argAt xs 1).code t l i))
  | .vmulh _ d b c g => vcodes 4 d [.src b, c] (m g) q (fun t xs l i => mulHighElem t ((argAt xs 0).code t l i) ((argAt xs 1).code t l i))
  | .vclz _ d b g => vcodes 2 d [.src b] (m g) q (fun t xs l i => clzElem t ((argAt xs 0).code t l i))
  | .vpopc _ d b g => vcodes 2 d [.src b] (m g) q (fun t xs l i => popcElem t ((argAt xs 0).code t l i))
  | .vcvt _ d b g rm ft _ => vcvtOut d b (m g) rm ft q
  | .vtag _ d b g ft => vtagOut d b (m g) ft q
  | .vround _ d b g rm => vvals 4 d [.src b] (m g) .rne false q (fun x _ _ => integral rm x)
  | .vpack _ d b c g rm ft => vpackOut d b c (m g) rm ft q
  | .vunpkl _ d b g rm => unpackRes d b (m g) rm false q
  | .vunpkh _ d b g rm => unpackRes d b (m g) rm true q
  | .vblks _ d b c rm ft p => vblksOut d b c rm ft p.val q
  | .vblkg _ d b g rm ft p => vconv 5 d b (m g) q (fun _ => ft) (fun _ => count ft) (fun _ => zeroSide)
      (fun y l i => blockGet y ft rm p.val l i)
  | .vacc12 _ d a x _ _ => vacc12Out d a x (m 0) q
  | .vdot2 _ d a b c => vdot d a b c (m 0) 2 q
  | .vdot4 _ d a b c => vdot d a b c (m 0) 4 q
  | .vdot8 _ d a b c => vdot d a b c (m 0) 8 q
  | .vrotr _ d b _ g => vmove 3 d b (m g) q (rotRow ((val0 q 0).toNat % 64))
  | .vrotc _ d b _ g => vmove 6 d b (m g) q (rotCol ((val0 q 0).toNat % 16))
  | .vbcr _ d b _ g => vmove 3 d b (m g) q (fun l => laneRC (l / 64) (val0 q 0).toNat)
  | .vbcc _ d b _ g => vmove 6 d b (m g) q (fun l => laneRC (val0 q 0).toNat (l % 64))
  | .vredr _ d b g rm k => vred 5 false true d b (m g) rm k q
  | .vredc _ d b g rm k => vred 9 false false d b (m g) rm k q
  | .vscanr _ d b g rm k => vred 8 true true d b (m g) rm k q
  | .vscanc _ d b g rm k => vred 12 true false d b (m g) rm k q
  | .vshfr _ d b x g => vshfrOut d b x (m g) q
  | .vtrb _ d b g => vmove 4 d b (m g) q transpose4
  | .viota _ d _ _ g ft => viotaOut d (m g) ft q
  | .vmov _ d b => vmovOut d b q
  | .vsplat _ d _ g ft => vsplatOut d (m g) ft q
  | .vext _ d b _ sx => vextOut d b sx q
  | .vins _ d b _ _ => vinsOut d b q
  | .vrng _ d _ _ g k => vrngOut d (m g) k q
  | .vdrop _ d b _ _ kt => vdropOut d b kt (m 0) q
  | .mand _ d a b => vmask 1 [] d (m a &&& m b)
  | .mor _ d a b => vmask 1 [] d (m a ||| m b)
  | .mxor _ d a b => vmask 1 [] d (m a ^^^ m b)
  | .mnot _ d a => vmask 1 [] d (~~~(m a))
  | .mcnt _ d a => vscalar 3 [] d (BitVec.ofNat 64 ((List.range 1024).filter (fun l => (m a).at l)).length)
  | .mfirst _ d a => vscalar 3 [] d (BitVec.ofNat 64 (firstBit (m a)))
  | _ => vmask 1 [] 0 (m 0)

/-! ## Tokens (06 R84) -/

/-- The guards, cache hint and scheduling fields of a word (06 R80 to R84). -/
def headOf (i : Instr) : Option Head :=
  match (encode i).map Raw.ofWord with
  | some r => some ⟨Fin.ofNat 16 r.ga, decide (r.gan = 1), Fin.ofNat 16 r.gb, decide (r.gbn = 1),
      (Hint.ofCode r.ch).getD .normal, Fin.ofNat 16 r.stall, decide (r.yld = 1), BitVec.ofNat 2 r.pb, BitVec.ofNat 2 r.pa⟩
  | none => none

def pbOf (q : QEntry) : BitVec 2 := match headOf q.ins with | some h => h.pb | none => 0
def paOf (q : QEntry) : BitVec 2 := match headOf q.ins with | some h => h.pa | none => 0

/-- One token out of each FIFO into the engine that PB names; none when one is missing. -/
def Tokens.pop (t : Tokens) (c : Cls) (pb : BitVec 2) : Option Tokens :=
  let (a, b) := match c with
    | .vxe => (t.ldeVxe, t.steVxe)
    | .lde => (0, t.vxeLde)
    | .ste => (t.vxeSte, 0)
    | .other => (0, 0)
  if (bit pb 0 && a == 0) || (bit pb 1 && b == 0) then none
  else
    let x := b2n (bit pb 0)
    let y := b2n (bit pb 1)
    some (match c with
      | .vxe => { t with ldeVxe := t.ldeVxe - x, steVxe := t.steVxe - y }
      | .lde => { t with vxeLde := t.vxeLde - y }
      | .ste => { t with vxeSte := t.vxeSte - x }
      | .other => t)

/-- One token into each FIFO out of the engine that PA names; none when one is full (8). -/
def Tokens.push (t : Tokens) (c : Cls) (pa : BitVec 2) : Option Tokens :=
  let (a, b) := match c with
    | .vxe => (t.vxeLde, t.vxeSte)
    | .lde => (0, t.ldeVxe)
    | .ste => (t.steVxe, 0)
    | .other => (0, 0)
  if (bit pa 0 && decide (8 ≤ a)) || (bit pa 1 && decide (8 ≤ b)) then none
  else
    let x := b2n (bit pa 0)
    let y := b2n (bit pa 1)
    some (match c with
      | .vxe => { t with vxeLde := t.vxeLde + x, vxeSte := t.vxeSte + y }
      | .lde => { t with ldeVxe := t.ldeVxe + y }
      | .ste => { t with steVxe := t.steVxe + x }
      | .other => t)

/-- An engine has an entry that still waits to push its tokens. -/
def Core.retiring (k : Core) (c : Cls) : Bool := k.retire.any (fun r => decide (r.1 = c))

/-- Completed entries push their tokens, oldest first, and wait where a FIFO is full. -/
def execEngineEntryComplete (c : CoreId) (s : State) : Out :=
  .next (s.updCore c (fun k =>
    k.retire.foldl (fun k r =>
      if k.retiring r.1 then { k with retire := k.retire ++ [r] }
      else match Tokens.push k.tokens r.1 r.2 with
        | some t => { k with tokens := t }
        | none => { k with retire := k.retire ++ [r] }) { k with retire := [] }))

/-! ## Start of a vector entry (08 R130) -/

/-- The vector engine may start its oldest entry. -/
def vxeReady (k : Core) : Bool :=
  match k.vxeQ with
  | q :: _ => !k.retiring .vxe && (Tokens.pop k.tokens .vxe (pbOf q)).isSome
  | [] => false

/-- The result of a started entry in flight, written in step 6 of cycle s + X + Rd - 1. -/
def vxePend (o : VOut) (q : QEntry) : Pend :=
  { unit := .vxe, dst := o.dst, val := o.val, rem := o.x + o.rd - 1, berth := q.berth, addr := q.addr, id := q.id,
    flags := o.flags, tok := paOf q }

def execVxeEntryStart (c : CoreId) (s : State) : Out :=
  match (s.core c).vxeQ with
  | q :: r =>
    if vxeReady (s.core c) then
      .next (s.updCore c (fun k =>
        { k with vxeQ := r, tokens := (Tokens.pop k.tokens .vxe (pbOf q)).getD k.tokens,
                 inflight := k.inflight ++ [vxePend (vxeOut k q) q] }))
    else .next s
  | [] => .next s

/-! ## Writeback (02 R22 step 6, R23, 03 R29 to R32, 04 R58, 06 R84) -/

/-- A push into a main-file name: FIFO_OVF where it is full. -/
def pushV (c : CoreId) (n : Fin 1024) (e : VEntry) (s : State) : Option State :=
  if (s.vFifo c n).length < fifoDepth then some (s.setVFifo c n (s.vFifo c n ++ [e])) else none

/-- A push into a scalar name of a berth. -/
def pushS (c : CoreId) (b : BerthId) (n : Fin 64) (v : W64) (s : State) : Option State :=
  if ((s.berth c b).s.get n).length < fifoDepth then
    some (s.updBerth c b (fun x => x.setS n (x.s.get n ++ [v])))
  else none

/-- The destination of a result is written, none when its FIFO is full. -/
def writeDst (c : CoreId) (b : BerthId) (d : Dst) (v : RVal) (s : State) : Option State :=
  match d, v with
  | .none, _ => some s
  | .s n, .s x => pushS c b n x s
  | .v n, .v e => pushV c n e s
  | .opf n, .v e => some (s.updCore c (fun k => { k with opf := k.opf.set n.val e n.isLt, fileBad := k.fileBad.filter (· ≠ 256 + n.val) }))
  | .p n, .pred x _ => some (s.updBerth c b (fun y => y.setP n x))
  | .m n, .m x => some (s.updCore c (fun k => { k with masks := k.masks.set n.val x n.isLt }))
  | _, _ => some s

/-- The latch of a result's unit (03 R32, 07 R101, R123, R124, 08 R130). -/
def writeLatch (c : CoreId) (b : BerthId) (u : ResUnit) (v : RVal) (s : State) : State :=
  match u, v with
  | .seq, .s x | .vxe, .s x => s.updBerth c b (fun y => { y with ls := x })
  | .seq, .pred x true => s.updBerth c b (fun y => { y with ls := BitVec.ofNat 64 (b2n x) })
  | .vxe, .v e => s.updCore c (fun k => { k with lv := e, fileBad := k.fileBad.filter (· ≠ 264) })
  | .lde, .v e => s.updCore c (fun k => { k with ll := e, fileBad := k.fileBad.filter (· ≠ 265) })
  | _, _ => s

/-- The entry whose last result this is has completed. -/
def Core.done (k : Core) (r : Pend) : Core :=
  if r.tok = 0 then k
  else { k with retire := k.retire ++ [(match r.unit with | .vxe => Cls.vxe | .lde => Cls.lde | .seq => Cls.other, r.tok)] }

/-- The results in flight on a core wait for the RTT of a berth with the cycles that they had left, as at a pre-emption: those
due after this cycle, load pushes that wait for room with what is due behind them, and what the load engine's started entry
has still to give (03 R30, R41, 09 R156, 20 R315). REM has eight bits. -/
def Core.holdResults (b : BerthId) (k : Core) : Core :=
  let late := fun (x : Pend) => decide (x.rem ≠ 0) || (decide (x.unit = .lde) && !k.ldPush.isEmpty)
  let kept := k.ldPush.map (fun x => { x with rem := 0 })
    ++ (k.inflight.filter late).map (fun x => { x with rem := min (x.rem - 1) 255 })
  { k.updBerth b (fun x => { x with held := x.held ++ kept }) with
    inflight := k.inflight.filter (fun x => !late x), ldPush := [],
    lde := k.lde.map (fun a => if a.hold.isSome then a else { a with hold := some b, age := 0 }) }

/-- A push finds its FIFO full: the result is discarded, none of its flags is raised (DESIGN CHOICE, log 55), and its berth
traps with destination slot 0, EPC naming the word that it would issue next, the waiting word where it waits (DESIGN CHOICE,
log 55); every other result in flight waits for the berth's RTT (03 R30, R41). The entry whose result is discarded has completed all the
same, and pushes its tokens (DESIGN CHOICE, log 80). A berth that has exited takes no trap. -/
def overflow (c : CoreId) (r : Pend) (s : State) : State :=
  let s := s.updCore c (fun k => k.done r)
  if (s.berth c r.berth).exited then s
  else
    let x := s.berth c r.berth
    (takeTrap c r.berth .fifoOvf 0 r.addr x.pc x.pc (s.updCore c (Core.holdResults r.berth))).updBerth c r.berth (fun y =>
      { y with handlers := .ovf x.held.length :: x.handlers })

/-- A result of the sequencer or the vector pipe is written, and raises its flags; a snapshot entry whose flags FPF took at its
pre-emption raises them here again (DESIGN CHOICE, log 55). Of TSR's two scalars a full first FIFO discards both, and a
full second one only the second (07 R114). -/
def writeback (c : CoreId) (r : Pend) (s : State) : State :=
  match r.dst, r.val with
  | .s2 n m, .pair x y =>
    match pushS c r.berth n x s with
    | none => overflow c r s
    | some t =>
      let t := writeLatch c r.berth r.unit (.s x) t
      match pushS c r.berth m y t with
      | none => overflow c r t
      | some u => u.updCore c (fun k => k.done r)
  | d, v =>
    match writeDst c r.berth d v s with
    | some t => (writeLatch c r.berth r.unit v t).updCore c (fun k => (k.raise r.flags).done r)
    | none => overflow c r s

/-- A load result is written into its destination and LL; held where its FIFO is full (03 R30, R32). -/
def loadback (c : CoreId) (r : Pend) (s : State) : Option State :=
  (writeDst c r.berth r.dst r.val s).map (fun t =>
    (writeLatch c r.berth r.unit r.val t).updCore c (fun k => (k.raise r.flags).done r))

/-- Held pushes of the load engine go on while there is room, oldest first. -/
def loadPushes (c : CoreId) : List Pend → State → State
  | [], s => s
  | r :: rest, s =>
    match loadback c r s with
    | some t => loadPushes c rest t
    | none => s.updCore c (fun k => { k with ldPush := r :: rest })

/-- The results due now, of one unit. -/
def due (u : ResUnit) (l : List Pend) : List Pend := l.filter (fun r => decide (r.unit = u ∧ r.rem = 0))

/-- Take the next due result of a unit out of flight. -/
def takeDue (u : ResUnit) (k : Core) : Option (Pend × Core) :=
  match due u k.inflight with
  | r :: _ => some (r, { k with inflight := k.inflight.erase r })
  | [] => none

/-- Write the results of a unit due in this cycle, in start order. -/
def writeUnit (c : CoreId) (u : ResUnit) : Nat → State → State
  | 0, s => s
  | n + 1, s =>
    match takeDue u (s.core c) with
    | some (r, k) => writeUnit c u n (writeback c r (s.setCore c k))
    | none => s

/-- Step 6 of a core's cycle: sequencer, vector pipe, load engine. A load push behind a held one joins it. -/
def execResultWriteback (c : CoreId) (s : State) : Out :=
  let s := writeUnit c .seq 128 s
  let s := writeUnit c .vxe 128 s
  let l := (s.core c).ldPush ++ due .lde (s.core c).inflight
  let s := s.updCore c (fun k =>
    { k with ldPush := [], inflight := k.inflight.filter (fun r => !decide (r.unit = .lde ∧ r.rem = 0)) })
  let s := loadPushes c l s
  .next (s.updCore c (fun k => { k with inflight := k.inflight.map (fun r => { r with rem := r.rem - 1 }) }))

/-- A push held by back-pressure goes on once a pop has made room (02 R23, 03 R30). -/
def execEnginePushResume (c : CoreId) (s : State) : Out :=
  .next (loadPushes c (s.core c).ldPush (s.updCore c (fun k => { k with ldPush := [] })))

end Sys2Proof.Machine
end

