-- ==== Sys2Proof/Machine/MemPlan.lean ====
section
/-! DEFINITION. What one transfer of a load or store entry reads, writes and returns (spec 09 R152 to R169). -/

namespace Sys2Proof.Machine

open Sys2Proof

/-- One transfer: the ranges it reads and writes, the bytes it puts and the result it gives, from what it reads. -/
structure Plan where
  rd : List (W64 × Nat)
  wr : List (W64 × Nat)
  puts : Reader → List Put
  res : Reader → Option RVal
  flags : Flags

/-- A load. -/
def Plan.load (rd : List (W64 × Nat)) (res : Reader → RVal) : Plan :=
  { rd := rd, wr := [], puts := fun _ => [], res := fun f => some (res f), flags := 0 }

/-- A store of bytes known beforehand. -/
def Plan.store (wr : List (W64 × Nat)) (puts : List Put) (fl : Flags) : Plan :=
  { rd := [], wr := wr, puts := fun _ => puts, res := fun _ => none, flags := fl }

/-- Read a little-endian number. -/
def readNum (f : Reader) (a : W64) (n : Nat) : Nat := ofBytes ((List.range n).map (fun i => f (a + BitVec.ofNat 64 i)))

/-- A vector result. -/
def loaded (r : Rec) (lanes : Lanes) (side : Vector W16 256) : RVal := .v (VEntry.norm ⟨lanes, recFmt r, side⟩)

/-- Offset of transfer n of a repeated entry (09 R153). -/
def stepOff (off : W64) (step : Int) (n : Nat) : W64 := off + BitVec.ofInt 64 (n * step * 128)

/-! ## Whole registers (09 R158) -/

/-- Bytes of a block and side entries of a 4,096-byte register. -/
def blockBytes (r : Rec) : Nat := 4 * width (recFmt r)
def regBlocks (r : Rec) : Nat := 4096 / blockBytes r

/-- Address of the side entries of a register at an offset; an offset counts as signed (log 15). -/
def regSide (r : Rec) (off : W64) : W64 := recScale r + BitVec.ofInt 64 (2 * (off.toInt / blockBytes r))

/-- The side ranges of a register, none without blocks. -/
def sideRange (r : Rec) (off : W64) : List (W64 × Nat) :=
  if isBlock (recFmt r) then [(regSide r off, 2 * regBlocks r)] else []

def planLdv (r : Rec) (off : W64) : Plan :=
  let a := recBase r + off
  Plan.load ((a, 4096) :: sideRange r off) (fun f =>
    loaded r (mkLanes (fun l => BitVec.ofNat 32 (readNum f (a + BitVec.ofNat 64 (4 * l)) 4)))
      (if isBlock (recFmt r) then
        mkSide (fun k => if k < regBlocks r then BitVec.ofNat 16 (readNum f (regSide r off + BitVec.ofNat 64 (2 * k)) 2) else 0)
       else zeroSide))

/-- Element e of an entry as stored in a record's format, with the flags of its conversion. -/
def storeElem (r : Rec) (e : VEntry) (i : Nat) : W32 × Flags :=
  let n := count e.tag
  let y : Src := ⟨e, false, .whole⟩
  if e.tag = recFmt r then (y.code (i / n) (i % n), 0) else convert (recFmt r) (y.val (i / n) (i % n))

/-- A record whose BASE is an offset further on. -/
def shifted (r : Rec) (off : W64) : Rec := r.set 0 (recBase r + off)

def planStv (r : Rec) (off : W64) (e : VEntry) : Plan :=
  let n := 1024 * count e.tag
  let w := width (recFmt r)
  let es := (List.range n).map (storeElem r e)
  let r' := shifted r off
  let side := if isBlock (recFmt r) then
      putRun (regSide r off) ((List.range (regBlocks r)).flatMap (fun k => toBytes 2 (e.sideAt k).toNat))
    else []
  Plan.store ((recBase r + off, n * w / 8) :: sideRange r off)
    ((es.mapIdx (fun i c => putElem r' (i * w) c.1)).flatten ++ side) (es.foldl (fun a c => a ||| c.2) 0)

/-! ## Tiles, gathers and scatters (09 R159, R160) -/

/-- An element at a row and column is within extents 1 and 0. -/
def within (r : Rec) (row col : Int) : Bool :=
  decide (0 ≤ row ∧ row < recDim r 1 ∧ 0 ≤ col ∧ col < recDim r 0)

def tileBit (r : Rec) (row col : Int) : Nat := elemBit r col.toNat row.toNat 0 0

/-- The ranges that n columns of a row from a column on touch. -/
def rowRange (r : Rec) (row col : Int) (n : Nat) : List (W64 × Nat) :=
  let lo := if col < 0 then 0 else col
  let hi := if col + n < recDim r 0 then col + n else recDim r 0
  if within r row lo && decide (lo < hi) then [bitRun r (tileBit r row lo) ((hi - lo).toNat * width (recFmt r))] else []

/-- The side entries of the same columns. -/
def rowSides (r : Rec) (row col : Int) (n : Nat) : List (W64 × Nat) :=
  if isBlock (recFmt r) then
    (List.range (n / 32)).flatMap (fun (j : Nat) =>
      if within r row (col + 32 * j) then [(sideAddr r (blockAt r (tileBit r row (col + 32 * j))), 2)] else [])
  else []

/-- A register from the tensor place (row, column) of each of its elements; outside the extents code zero, scale 0x7F
and clove 0. -/
def tileValue (r : Rec) (place : Nat → Nat → Int × Int) (f : Reader) : RVal :=
  let n := count (recFmt r)
  let w := width (recFmt r)
  let elem := fun (e : Nat) =>
    let (row, col) := place (e / n) (e % n)
    if within r row col then readElem r f (tileBit r row col) else 0
  let side := fun (k : Nat) =>
    if 32 * n ≤ k then 0
    else
      let (row, col) := place (32 * k / n) (32 * k % n)
      if within r row col then readSide r f (blockAt r (tileBit r row col)) else 0x7F
  loaded r (mkLanes (fun l => packLane w n (fun i => elem (l * n + i)))) (if isBlock (recFmt r) then mkSide side else zeroSide)

def planLdvt (r : Rec) (sc : W64) (tr : Bool) : Plan :=
  let n := count (recFmt r)
  let row0 : Int := fld sc 31 0
  let col0 : Int := fld sc 63 32
  let rows := if tr then 64 else 16
  let cols := if tr then 16 * n else 64 * n
  Plan.load
    ((List.range rows).flatMap (fun (j : Nat) => rowRange r (row0 + j) col0 cols ++ rowSides r (row0 + j) col0 cols))
    (tileValue r (fun l i =>
      let a : Nat := l / 64
      let b : Nat := l % 64
      if tr then (row0 + b, col0 + (a * n + i : Nat)) else (row0 + a, col0 + (b * n + i : Nat))))

/-- Row index r of an index vector. -/
def rowIndex (vi : VEntry) (r : Nat) : Int := (vi.lanes.at (r * 64)).toInt

def planLdvg (r : Rec) (vi : VEntry) (col : W64) : Plan :=
  let n := count (recFmt r)
  Plan.load
    ((List.range 16).flatMap (fun j =>
      rowRange r (rowIndex vi j) col.toInt (64 * n) ++ rowSides r (rowIndex vi j) col.toInt (64 * n)))
    (tileValue r (fun l i => (rowIndex vi (l / 64), col.toInt + (l % 64 * n + i : Nat))))

/-- Rows are stored in ascending order; what lies outside the extents is not stored. -/
def planStvs (r : Rec) (e vi : VEntry) (col : W64) : Plan :=
  let n := count e.tag
  let one := fun (j : Nat) =>
    (List.range (64 * n)).map (fun i =>
      let c := storeElem r e (j * 64 * n + i)
      if within r (rowIndex vi j) (col.toInt + i) then
        (putElem r (tileBit r (rowIndex vi j) (col.toInt + i)) c.1, c.2) else ([], 0))
  let all := (List.range 16).flatMap one
  let sides := if isBlock (recFmt r) then
      (List.range (32 * n)).flatMap (fun k =>
        let i := 32 * k % (64 * n)
        let j := 32 * k / (64 * n)
        if within r (rowIndex vi j) (col.toInt + i) then
          putSide r (blockAt r (tileBit r (rowIndex vi j) (col.toInt + i))) (e.sideAt k) else [])
    else []
  Plan.store
    ((List.range 16).flatMap (fun j =>
      rowRange r (rowIndex vi j) col.toInt (64 * n) ++ rowSides r (rowIndex vi j) col.toInt (64 * n)))
    (all.flatMap (fun x => x.1) ++ sides) (all.foldl (fun a x => a ||| x.2) 0)

/-! ## Scalars and masks (09 R161 to R163) -/

def planLdsc (r : Rec) (off : W64) (n : Nat) (sx : Bool) : Plan :=
  let a := recBase r + off
  Plan.load [(a, n)] (fun f => .s (if sx then sext64 (8 * n) (readNum f a n) else BitVec.ofNat 64 (readNum f a n)))

def planStsc (r : Rec) (off : W64) (n : Nat) (v : W64) : Plan :=
  Plan.store [(recBase r + off, n)] (putRun (recBase r + off) (toBytes n v.toNat)) 0

def planLdm (r : Rec) (off : W64) : Plan :=
  let a := recBase r + off
  Plan.load [(a, 128)] (fun f => .m (mkMask (fun i => (f (a + BitVec.ofNat 64 (i / 8))).getLsbD (i % 8))))

def planStm (r : Rec) (off : W64) (words : List W64) : Plan :=
  Plan.store [(recBase r + off, 128)] (putRun (recBase r + off) (words.flatMap (fun w => toBytes 8 w.toNat))) 0

/-! ## Atomics (09 R166) -/

/-- The new value of an atomic on `8 * n` bits. -/
def amoNew (op : AmoOp) (n : Nat) (old b c : W64) : W64 :=
  let w := 8 * n
  let lt := fun (x y : W64) => (sext64 w x.toNat).slt (sext64 w y.toNat)
  let o := old.toNat % 2 ^ w
  let b' := b.toNat % 2 ^ w
  match op with
  | .add => old + b
  | .and => old &&& b
  | .or => old ||| b
  | .xor => old ^^^ b
  | .min => if lt b old then b else old
  | .max => if lt old b then b else old
  | .minu => if b' < o then b else old
  | .maxu => if o < b' then b else old
  | .swap => b
  | .cas => if o = c.toNat % 2 ^ w then b else old
  | .fadd => ((roundTo (XR.add false (decFloat .fp32 (old.truncate 32)) (decFloat .fp32 (b.truncate 32))).1 .fp32 .rne 0).1).zeroExtend 64

def planAmo (op : AmoOp) (n : Nat) (a b c : W64) : Plan :=
  let old := fun (f : Reader) => BitVec.ofNat 64 (readNum f a n)
  { rd := [(a, n)], wr := [(a, n)], puts := fun f => putRun a (toBytes n (amoNew op n (old f) b c).toNat),
    res := fun f => some (.s (old f)), flags := 0 }

/-! ## RED and UPDR (09 R168, R169, 04 R53) -/

/-- Combination of two elements; adds round by the mode, with a draw under SR. -/
def combCode (f : Fmt) (k : Comb3) (rm : RM) (d : W16) (a b : W32) : W32 :=
  match k with
  | .add =>
    if isInt f then encInt f (decInt f a + decInt f b)
    else (roundTo (XR.add false (decFloat f a) (decFloat f b)).1 f rm d).1
  | .max => if isInt f then encInt f (max (decInt f a) (decInt f b)) else (roundTo (maxOp (decFloat f a) (decFloat f b)) f .rne 0).1
  | .min => if isInt f then encInt f (min (decInt f a) (decInt f b)) else (roundTo (minOp (decFloat f a) (decFloat f b)) f .rne 0).1

/-- The draw of an SR add in an L2 adder (04 R55, domain 2). -/
def redDraw (key va cyc : W64) : W16 :=
  (cumin key (BitVec.ofNat 64 (fld va 47 1 * 2 ^ 17 + fld cyc 16 0))).truncate 16

def planRed (r : Rec) (off : W64) (e : VEntry) (k : Comb3) (sr : Bool) (key cyc : W64) : Plan :=
  let f := e.tag
  let w := width f
  let a := recBase r + off
  let r' := shifted r off
  let y : Src := ⟨e, false, .whole⟩
  let rm := if sr && decide (f = .bf16) then RM.sr else RM.rne
  { rd := [(a, 4096)], wr := [(a, 4096)], res := fun _ => none, flags := 0,
    puts := fun rd => (List.range (1024 * count f)).flatMap (fun i =>
      putElem r' (i * w) (combCode f k rm (redDraw key (a + BitVec.ofNat 64 (i * w / 8)) cyc)
        (readElem r' rd (i * w)) (y.code (i / count f) (i % count f)))) }

/-- Round an exact value into FP32. -/
def fp32 (x : XR) : W32 := (roundTo x .fp32 .rne 0).1

/-- One element of an UPDR: new P, and new M and V where the kind has them. -/
def updElem (kind : UpdKind) (co : List XR) (p g m v : XR) : List W32 :=
  let c := fun (i : Nat) => co.getD i XR.zero
  let (lr, b1, c1, b2, c2) := (c 0, c 1, c 2, c 3, c 4)
  match kind with
  | .sgd => [fp32 (XR.sub false p (lr.mul g).1).1]
  | .mom =>
    let m' := fp32 (XR.add false (b1.mul m).1 g).1
    [fp32 (XR.sub false p (lr.mul (decFloat .fp32 m')).1).1, m']
  | .adamw =>
    let m' := fp32 (XR.add false (b1.mul m).1 (c1.mul g).1).1
    let v' := fp32 (XR.add false (b2.mul v).1 ((c2.mul g).1.mul g).1).1
    [fp32 (adamwValue p lr (decFloat .fp32 m') (decFloat .fp32 v') (c 5) (c 6)), m', v']

/-- State rows of a kind besides P. -/
def updRows : UpdKind → Nat
  | .sgd => 1 | .mom => 2 | .adamw => 3

/-- Rows f to f + 7 of the parameters that lie below extent 1. -/
def updLive (r : Rec) (sr : W64) : List Nat :=
  (List.range 8).filter (fun k => decide (fld sr 23 0 + k < recDim r 1))

def planUpdr (r : Rec) (kind : UpdKind) (sr : W64) (coef : List W32) (e : VEntry) : Plan :=
  let f := fld sr 23 0
  let x1 := recDim r 1
  let co := coef.map (decFloat .fp32)
  let place := fun (t k : Nat) => recBase r + BitVec.ofNat 64 (512 * (t * x1 + f + k))
  let ranges := (updLive r sr).flatMap (fun k => (List.range (updRows kind)).map (fun t => (place t k, 512)))
  { rd := ranges, wr := ranges, res := fun _ => none, flags := 0,
    puts := fun rd => (updLive r sr).flatMap (fun k => (List.range 128).flatMap (fun i =>
      let at_ := fun (t : Nat) => place t k + BitVec.ofNat 64 (4 * i)
      let old := fun (t : Nat) => decFloat .fp32 (BitVec.ofNat 32 (readNum rd (at_ t) 4))
      (updElem kind co (old 0) (decFloat .fp32 (e.lanes.at (128 * k + i))) (old 1) (old 2)).mapIdx
        (fun t v => putRun (at_ t) (toBytes 4 v.toNat)) |>.flatten)) }

/-! ## Checks when an entry starts (09 R149, R150, R164) -/

/-- An entry names a shape record. -/
def usesRecord : Instr → Bool
  | .ldv .. | .ldvt .. | .ldvg .. | .ldsc .. | .lda .. | .ldm .. | .stv .. | .stvs .. | .stsc .. | .stl .. | .stm ..
  | .red .. | .updr .. => true
  | _ => false

/-- An atomic or near-memory update, legal in a communication phase only. -/
def commOnly : Instr → Bool
  | .amo .. | .amor .. | .famo .. | .red .. | .updr .. => true
  | _ => false

/-- What R164 asks of the record. -/
def recFits (i : Instr) (q : QEntry) (r : Rec) : Bool :=
  let f := recFmt r
  let tile := decide (2 ≤ recRank r) && decide (recStr r 0 = 1)
  let same := fun (e : VEntry) => decide (e.tag = f) || (!isBlock e.tag && !isBlock f)
  match i with
  | .ldvt _ _ _ _ tr => tile && (!isBlock f || (!tr && decide (fld (val0 q 0) 63 32 % 32 = 0)))
  | .ldvg .. => tile && (!isBlock f || decide ((val0 q 0).toNat % 32 = 0))
  | .stvs .. => tile && (!isBlock f || decide ((val0 q 0).toNat % 32 = 0)) && (q.vops.take 1).all same
  | .stv .. => q.vops.all same
  | .red .. => q.vops.all (fun e => decide (e.tag = f))
  | .updr .. =>
    decide (f = .fp32 ∧ recRank r = 2 ∧ recExt r 0 = 128 ∧ recStr r 0 = 1 ∧ recStr r 1 = 128)
  | _ => true

/-- The first check that an entry fails, in the order of R150. -/
def startTrap (q : QEntry) (r : Option Rec) : Option Code :=
  match r with
  | none => if commOnly q.ins && !q.comm then some .phaseviol else none
  | some r =>
    if !q.comm && (!recLm r || commOnly q.ins) then some .phaseviol
    else match recState r with
      | .misaligned => some .align
      | .bad => some .tagx
      | .good => if recFits q.ins q r then none else some .tagx

/-! ## The plan of a transfer -/

/-- The vector entry that transfer n stores (09 R152). -/
def storedEntry (q : QEntry) (src : Option VEntry) : VEntry := src.getD (q.vops.headD VEntry.zero)

def planOf (q : QEntry) (r : Rec) (n : Nat) (src : Option VEntry) (cyc : W64) : Plan :=
  let v := val0 q
  let off := stepOff (v 0) q.step n
  let vop := fun (i : Nat) => q.vops.getD i VEntry.zero
  match q.ins with
  | .ldv .. => planLdv r off
  | .ldvt _ _ _ _ tr => planLdvt r (v 0) tr
  | .ldvg .. => planLdvg r (vop 0) (v 0)
  | .ldsc _ _ _ _ sz sx _ => planLdsc r off (sizeBytes sz) sx
  | .lda _ _ _ _ dbl _ => planLdsc r off (wordBytes dbl) false
  | .ldm .. => planLdm r off
  | .stv .. => planStv r off (storedEntry q src)
  | .stvs .. => planStvs r (vop 0) (vop 1) (v 0)
  | .stsc _ _ _ _ sz => planStsc r off (sizeBytes sz) (v 1)
  | .stl _ _ _ _ dbl _ => planStsc r off (wordBytes dbl) (v 1)
  | .stm .. => planStm r off (q.vals.drop 1)
  | .red _ _ _ _ k => planRed r off (vop 0) k (bit q.srmode 0) q.key2 cyc
  | .updr _ _ _ _ k => planUpdr r k (v 0) ((q.vals.drop 1).map (fun x => x.truncate 32)) (vop 0)
  | .amo _ _ _ _ _ op dbl _ _ => planAmo op (wordBytes dbl) (v 0) (v 1) (v 2)
  | .famo _ _ _ _ _ op dbl _ _ => planAmo op (wordBytes dbl) (v 0) (v 1) (v 2)
  | .amor _ _ _ _ _ op dbl _ => planAmo op (wordBytes dbl) (v 0) (v 1) (v 2)
  | _ => Plan.store [] [] 0

/-- Sites that an entry may touch, with the access fault that any other gives (09 R151, 13 R246). -/
def siteFault (i : Instr) (va : W64) (w : Site) : Option AFault :=
  match i with
  | .amo .. | .amor .. | .famo .. => if w = .sync then none else some (.notsync va)
  | .red .. => if w = .stg ∨ w = .hbm then none else some (.notl2 va)
  | .updr .. => if w = .stg then none else some (.notstg va)
  | _ => none

/-- Destination of a load's result. -/
def loadDst : Instr → Dst
  | .ldv _ d .. | .ldvt _ d .. | .ldvg _ d .. => dstV d
  | .ldsc _ d .. | .lda _ d .. | .amo _ d .. | .famo _ d .. | .amor _ d .. | .bord _ d .. => .s d
  | .ldm _ d .. => .m d
  | _ => .none

end Sys2Proof.Machine
end

