-- ==== Sys2Proof/Machine/MemEngine.lean ====
section
/-! DEFINITION. The load and store engines: start of an entry, its transfers, engine traps and access faults
(spec 09 R148 to R173, 14 R265, 15 R277 to R280, 20 R305 to R312, 22 R340, R345, R348). -/

namespace Sys2Proof.Machine

open Sys2Proof

/-! ## Parts of a core's engines -/

def Core.active_ (k : Core) : MemUnit → Option Active
  | .lde => k.lde
  | .ste => k.ste

def Core.setActive (k : Core) (u : MemUnit) (a : Option Active) : Core :=
  match u with
  | .lde => { k with lde := a }
  | .ste => { k with ste := a }

def Core.queueOf (k : Core) : MemUnit → List QEntry
  | .lde => k.ldeQ
  | .ste => k.steQ

def Core.setQueue (k : Core) (u : MemUnit) (l : List QEntry) : Core :=
  match u with
  | .lde => { k with ldeQ := l }
  | .ste => { k with steQ := l }

def unitCls : MemUnit → Cls
  | .lde => .lde
  | .ste => .ste

def trapUnit : MemUnit → TrapUnit
  | .lde => .lde
  | .ste => .ste

/-- Accesses of kinds `ks` of a word have been performed (07 R120). -/
def Core.perform (k : Core) (id : Nat) (ks : BitVec 3) : Core :=
  let l := k.acc.map (fun a => if a.id = id then { a with kinds := a.kinds &&& ~~~ks, bo := false } else a)
  { k with acc := l.filter (fun a => decide (a.kinds ≠ 0) || a.bo || a.arr || a.cpy) }

/-- An entry leaves its engine complete; a store entry's tokens are owed from now (06 R84). -/
def finishEntry (u : MemUnit) (q : QEntry) (k : Core) : Core :=
  let k := (k.setActive u none).perform q.id 3
  match u with
  | .lde => k
  | .ste => if paOf q = 0 then k else { k with retire := k.retire ++ [(Cls.ste, paOf q)] }

/-! ## Traps and faults of an entry (09 R150, R151) -/

/-- Entries of a berth that a unit holds are discarded and count as completed (09 R150). -/
def discardHeld (u : MemUnit) (b : BerthId) (k : Core) : Core :=
  let gone := (k.queueOf u).filter (fun q => decide (q.berth = b))
  gone.foldl (fun k q => k.perform q.id 3)
    ({ k.setQueue u ((k.queueOf u).filter (fun q => !decide (q.berth = b))) with
       vbuf := k.vbuf - (gone.map (fun q => q.vops.length)).sum })

/-- An entry traps: it is abandoned, and its berth takes the trap in place of its next word; a berth that has exited
takes none, and a LATETRAP record is posted. -/
def engineTrap (c : CoreId) (u : MemUnit) (q : QEntry) (code : Code) (s : State) : State :=
  let s := s.updCore c (fun k => (k.setActive u none).perform q.id 3)
  if (s.berth c q.berth).exited then
    coreFault c q.berth 0x89 0 (code.num.zeroExtend 64) q.addr (s.updCore c (discardHeld u q.berth))
  else
    s.updBerth c q.berth (fun x =>
      { x with pend := x.pend ++ [⟨trapUnit u, code, q.addr⟩], unitHolds := x.unitHolds ++ [trapUnit u] })

/-- A gang is pre-empted without deferral, with a fault code for its completion object (09 R151, 12 R230). -/
def faultGang (c : CoreId) (code : Byte) (det : W64) (s : State) : State :=
  match (s.core c).launch with
  | none => s
  | some l =>
    (s.updLaunch l (fun x =>
      if x.pre = none ∨ x.pre = some .priority ∨ x.pre = some .drain then
        { x with pre := some .fault, fcode := code, det := det } else x)).push
      [.preemptionRequest l]

/-- An entry meets an access fault: a record is posted, the gang is saved, and the entry stays at this transfer. -/
def accessFault (c : CoreId) (u : MemUnit) (a : Active) (f : AFault) (s : State) : State :=
  let s := s.updCore c (fun k => k.setActive u (some { a with fault := true }))
  let s := countError f s
  faultGang c f.code f.det (coreFault c a.q.berth f.code 0 f.det f.addr s)

/-! ## Start of an entry (06 R84, 09 R150) -/

/-- The oldest entry that the engine may take up: entries of a berth it holds are passed over. -/
def nextEntry (k : Core) (u : MemUnit) : Option QEntry :=
  (k.queueOf u).find? (fun q => !(k.berth q.berth).unitHolds.contains (trapUnit u))

/-- The engine is free to start an entry. -/
def engineFree (k : Core) (u : MemUnit) : Bool :=
  (k.active_ u).isNone && !k.retiring (unitCls u) && (decide (u = .ste) || k.ldPush.isEmpty)

/-- Coefficients of an UPDR, read when the entry starts; none where the window's lender is absent. -/
def readCoef (s : State) (c : CoreId) (sr : W64) : Option (List W64) :=
  let a := fld sr 47 24
  if s.lmOk c a 32 then
    some ((List.range 7).map (fun i => BitVec.ofNat 64 (ofBytes (s.lmReads c (a + 4 * i) 4))))
  else none

/-- The coefficients of an UPDR stand in LM with an error (20 R312). -/
def coefErr (s : State) (c : CoreId) (q : QEntry) : Option Nat :=
  match q.ins with
  | .updr .. => s.lmErr c (fld (val0 q 0) 47 24) 32
  | _ => none

/-- Values that are read when the entry starts: a mask as source, the coefficients of an UPDR. -/
def startValues (s : State) (c : CoreId) (q : QEntry) : Option QEntry :=
  match q.ins with
  | .stm _ m _ _ _ =>
    some { q with vals := q.vals ++ (List.range 16).map (fun i => ((s.core c).masks.get m).extractLsb' (64 * i) 64) }
  | .updr .. => (readCoef s c (val0 q 0)).map (fun l => { q with vals := q.vals ++ l })
  | _ => some q

/-- Read the record and make the checks of R150; the entry is active, trapped or faulted afterwards. -/
def openEntry (c : CoreId) (u : MemUnit) (q : QEntry) (s : State) : State :=
  let a : Active := { q := q, shape := none, n := 0, src := none, sent := false, lines := .start, busy := 0, paid := 0, fault := false,
                      hold := none, age := 0 }
  let go := fun (r : Option Rec) (s : State) =>
    match startTrap q r with
    | some code => engineTrap c u q code s
    | none =>
      match startValues s c q, coefErr s c q with
      | some q', none => s.updCore c (fun k => k.setActive u (some { a with q := q', shape := r }))
      | some _, some l => accessFault c u a (.uceLm l) s
      | none, _ => engineTrap c u q .lendx s
  if usesRecord q.ins then
    match recMore c q.ref s with
    | some t => (t.updCore c (fun k => k.setActive u (some a))).push [.memoryTransferPerformed c u .ok]
    | none =>
      match readRec c q.ref s with
      | .ok (r, s) => go (some r) s
      | .error f => accessFault c u a f s
  else go none s

/-- Start the next entry once its tokens are there. -/
def startEntry (c : CoreId) (u : MemUnit) (s : State) : State :=
  let k := s.core c
  match nextEntry k u with
  | none => s
  | some q =>
    match Tokens.pop k.tokens (unitCls u) (pbOf q) with
    | none => s
    | some t =>
      if engineFree k u && !k.stopped then
        openEntry c u q (s.setCore c
          { k.setQueue u ((k.queueOf u).erase q) with tokens := t, vbuf := k.vbuf - q.vops.length })
      else s

def execLdeEntryStart (c : CoreId) (s : State) : Out := .next (startEntry c .lde s)
def execSteEntryStart (c : CoreId) (s : State) : Out := .next (startEntry c .ste s)

/-! ## One transfer (09 R153 to R155) -/

/-- How a transfer ends: one that waits says what of it is done, and whether a request of it has gone outside. -/
inductive Moved | wait (s : State) (g : Lines) (sent : Bool) | trap (code : Code) | fault (f : AFault)
  | done (s : State) (v : Option RVal) (lat : Nat)

/-- Put bytes into the LM map. -/
def lmApply (c : CoreId) (l : List Put) (s : State) : State :=
  l.foldl (fun s p => s.lmPut c p.addr.toNat ((s.lmByte c p.addr.toNat &&& p.keep) ||| p.val)) s

/-- Typical core cycles of a load from LM (09 R154). -/
def lmCycles (i : Instr) (lent : Bool) : Nat :=
  match i with
  | .ldvt .. => 10
  | .ldvg .. => 16
  | _ => if lent then 12 else 8

/-- A line with an error that a transfer in the LM map reads, or writes in part (20 R312). -/
def lmFault (s : State) (c : CoreId) (rd wr : List (W64 × Nat)) : Option Nat :=
  (rd.findSome? (fun x => s.lmErr c x.1.toNat x.2)).or (wr.findSome? (fun x => s.lmPart c x.1.toNat x.2))

/-- Granules of the LM map that ranges cover whole lose their error. -/
def lmMended (c : CoreId) (wr : List (W64 × Nat)) (s : State) : State := wr.foldl (fun s x => s.lmMend c x.1.toNat x.2) s

/-- A transfer in the LM map: LENDX where a window's lender is absent, an access fault on an uncorrectable error. -/
def moveLm (c : CoreId) (i : Instr) (p : Plan) (s : State) : Moved :=
  let rs := p.rd ++ p.wr
  if rs.all (fun x => s.lmOk c x.1.toNat x.2) then
    let f : Reader := fun a => s.lmByte c a.toNat
    match lmFault s c p.rd p.wr with
    | some l => .fault (.uceLm l)
    | none => .done (lmMended c p.wr (lmApply c (p.puts f) s)) (p.res f) (lmCycles i (rs.any (fun x => decide (x.1.toNat / 2 ^ 22 % 4 ≠ 0))))
  else .trap .lendx

/-- Typical ticks of an access to a place (09 R154, 13 R246). -/
def siteTicks (s : State) (c : CoreId) (g : Seg) : Nat :=
  let d := dieOf c
  let far := s.route d (s.siteDie g.dpa g.site)
  match g.site with
  | .hbm =>
    if s.siteDie g.dpa .hbm = d then 450 else if (s.tokLine (g.dpa / 128)).rdc.get d |>.valid then 200 else 450 + 180 * far
  | .stg =>
    let a := g.dpa - stgBase
    latEntry c (a / 2 ^ 30 * 128 + a / 2 ^ 23 % 128) + 180 * (far - hops d (s.siteDie g.dpa .stg))
  | .sync => 260 + 180 * far + (if s.inSram g.dpa then 0 else 450)
  | .host => 2400 + 180 * far
  | .module .. => 1900

/-- Units of 128 bytes that a range meets. -/
def unitsOf (a n : Nat) : Nat := (a % 128 + n + 127) / 128

/-- Towpath hops of the requests of an access, unit by unit; those to HBM count with its lines (03 R40). -/
def siteHops (s : State) (c : CoreId) (g : Seg) : Nat :=
  if g.site = .hbm then 0 else s.route (dieOf c) (s.siteDie g.dpa g.site) * unitsOf g.dpa g.len

def outside : Site → Bool
  | .module .. | .host => true
  | _ => false

/-- A failing answer of the host or of another module. -/
def replyFault (r : Reply) (g : Seg) : Option AFault :=
  match r with
  | .ok | .data _ => none
  | .xlate => some (.xlate g.va)
  | .uce a => some (.uce (if g.site = .host then g.dpa / 128 * 128 else a.toNat))
  | .link d => some (.link d)
  | .absent m => some (.absent m)
  | .notsync => some (.notsync g.va)
  | .bounds => none

/-- Ranges that answered data fill, in order, with the data's offset. -/
def dataPlaces : Nat → List Seg → List (Seg × Nat)
  | _, [] => []
  | o, g :: r => (g, o) :: dataPlaces (o + g.len) r

/-- A byte as it was read of its line, else as it stands. -/
def Lines.byte (g : Lines) (s : State) (a : Nat) : Byte :=
  match if isHbm a then g.got.find? (fun x => decide (x.1 = a / 128)) else none with
  | some x => x.2.getD (a % 128) 0
  | none => s.byte a

/-- A byte as a transfer reads it: of memory, or of the data that came with the answer. -/
def memReader (s : State) (g : Lines) (l : List Seg) (bs : Option (List Byte)) : Reader := fun va =>
  let far := match bs with
    | some bs => (dataPlaces 0 (l.filter (fun g => outside g.site))).findSome? (fun x =>
        (x.1.at va).map (fun a => bs.getD (x.2 + (a - x.1.dpa)) 0))
    | none => none
  match far with
  | some v => v
  | none => match dpaOf l va with
    | some a => g.byte s a
    | none => 0

/-- Put bytes at their physical places; those of another module have gone as messages. -/
def memApply (l : List Seg) (ps : List Put) (s : State) : State :=
  let here := l.filter (fun g => match g.site with | .module .. => false | _ => true)
  ps.foldl (fun s p => match dpaOf here p.addr with
    | some a => s.putByte a ((s.byte a &&& p.keep) ||| p.val)
    | none => s) s

/-- The bytes that a store puts into a range. -/
def bytesFor (g : Seg) (ps : List Put) : List Byte :=
  (List.range g.len).map (fun i =>
    let va := g.va + BitVec.ofNat 64 i
    ps.foldl (fun v p => if p.addr = va then (v &&& p.keep) ||| p.val else v) 0)

/-- Every channel to another module that a write uses takes another message. -/
def State.outOpen (s : State) (p : PartId) (wr : List Seg) : Bool :=
  wr.all (fun g => match g.site with
    | .module m _ => match (s.part p).groupOf m with
      | some (grp, rank) => s.chanOpen p grp (Fin.ofNat 64 rank)
      | none => true
    | _ => true)

/-- The last numbers that the messages of a write, which have just gone, took on their channels. -/
def State.lastNums (s : State) (p : PartId) (wr : List Seg) : List (Fin 64 × Fin 64 × W32) :=
  wr.filterMap (fun g => match g.site with
    | .module m _ => ((s.part p).groupOf m).bind (fun x =>
        (s.chan p x.1 (Fin.ofNat 64 x.2)).map (fun ch => (x.1, Fin.ofNat 64 x.2, ch.scnt)))
    | _ => none)

/-- Requests of a transfer that another module or the host performs. -/
def sendOut (c : CoreId) (u : MemUnit) (part : PartId) (rd wr : List Seg) (ps : List Put) (s : State) : State :=
  let s := wr.foldl (fun s g => match g.site with
    | .module m ppa => sendPpa part m ppa (bytesFor g ps) none s
    | _ => s) s
  if (rd ++ wr).any (fun g => decide (g.site = .host)) then s.later (2400 + 180 * s.route (dieOf c) 0) (.hostCompletion c u .ok)
  else s

/-- The answer lets the transfer go on: data for reads from a module, an acknowledgement for the rest. -/
def answered (rd : List Seg) (r : Reply) : Bool :=
  match r with
  | .data _ => true
  | .ok => rd.all (fun g => match g.site with | .module .. => false | _ => true)
  | _ => false

def replyData : Reply → Option (List Byte)
  | .data bs => some bs
  | _ => none

/-- Messages are acknowledged, by their numbers. -/
def ackOut (part : PartId) (nums : List (Fin 64 × Fin 64 × W32)) (s : State) : State :=
  nums.foldl (fun s x => updChan part x.1 x.2.1 (Channel.acked x.2.2) s) s

/-- A put goes to one of some lines. -/
def Put.inLines (p : Put) (l : List Seg) (ls : List Nat) : Bool :=
  match dpaOf l p.addr with
  | some a => isHbm a && ls.contains (a / 128)
  | none => false

/-- Lines not yet written whose tokens stand there are written; each takes what it held before as the old value. -/
def writeLines (d : DieId) (home : Bool) (ch : Hint) (ws : List Seg) (ps : State → List Put) (x : Lines × State) : Lines × State :=
  let go := (x.1.unwritten (hbmLines ws)).filter (fun n => x.2.mayAccess n (performer d home n) true)
  let s := memApply ws ((ps x.2).filter (fun p => p.inLines ws go)) x.2
  ({ x.1 with put := x.1.put ++ go }, go.foldl (fun s n => afterLine d home true ch n s) s)

/-- The puts of a transfer besides those to lines of HBM. -/
def elsewhere (ws : List Seg) (ps : List Put) : List Put := ps.filter (fun p => !p.inLines ws (hbmLines ws))

/-- A transfer in virtual memory, its ranges translated: the lines of HBM that can be performed are, tokens are asked for the
rest, then what another module or the host performs goes out, and at its answer the transfer is complete. -/
def moveSegs (c : CoreId) (u : MemUnit) (i : Instr) (p : Plan) (rd wr : List (Seg × TlbE)) (x : Ctx) (sent : Bool) (g : Lines)
    (s : State) (r : Option Reply) : Moved :=
  let rs := rd.map (fun g => g.1)
  let ws := wr.map (fun g => g.1)
  let all := rs ++ ws
  let home := match i with | .red .. => true | _ => false
  let ch := ((headOf i).map (fun h => h.ch)).getD .normal
  match all.findSome? (fun g => siteFault i g.va g.site) with
  | some f => .fault f
  | none =>
    match (all.filter (fun g => outside g.site)).findSome? (fun g => (r.bind (fun r => replyFault r g))) with
    | some f => .fault f
    | none =>
      match rs.findSome? (fun g => s.badIn g.dpa g.len), ws.findSome? (fun g => s.partBad g.dpa g.len) with
      | some l, _ => .fault (.uce l)
      | none, some l => .fault (.uce l)
      | none, none =>
        let wl := hbmLines ws
        let rl := (hbmLines rs).filter (fun n => !wl.contains n)
        let y := readLines x.die ch rl (lookLines c home true wl (lookLines c home false rl (g, s)))
        let z := writeLines x.die home ch ws (fun t => p.puts (memReader t y.1 all none)) y
        let g := z.1
        let s := z.2
        if g.unread rl ≠ [] ∨ g.unwritten wl ≠ [] then
          .wait (askTokens x.die (g.unwritten wl) true home (askTokens x.die (g.unread rl) false false s)) g sent
        else
          let away := all.any (fun g => outside g.site)
          if away && !sent then
            if s.outOpen x.part ws then
              let t := sendOut c u x.part rs ws (p.puts (fun _ => 0)) s
              .wait t { g with nums := t.lastNums x.part ws } true
            else .wait s g false
          else if away && !(r.map (answered rs)).getD false then .wait s g sent
          else
            let f := memReader s g all (r.bind replyData)
            let s' := memApply ws (elsewhere ws (p.puts f)) s
            let s' := ws.foldl (fun s g => clearBad g.dpa g.len s) s'
            let s' := (rd ++ wr).foldl (fun s g => useSync g.1 (useEntry x g.2 s)) s'
            let s' := s'.updCore c (fun k => k.count 4 ((all.map (siteHops s c)).sum))
            .done (ackOut x.part g.nums s') (p.res f) (s.cycles ((all.map (siteTicks s c)).foldl max 0))

/-- A transfer in virtual memory. An answer counts only for a request that has gone. -/
def moveMem (c : CoreId) (u : MemUnit) (i : Instr) (p : Plan) (x : Ctx) (sent : Bool) (g : Lines) (r : Option Reply) (s : State) :
    Moved :=
  match s.ranges x true false p.rd, s.ranges x false true p.wr with
  | .error f, _ => .fault f
  | .ok _, .error f => .fault f
  | .ok rd, .ok wr => moveSegs c u i p rd wr x sent g s (if sent then r else none)

/-! ## Atomics at a member (09 R165, R167) -/

/-- Where a FAMO is performed: here in the group's context, at another module, or nowhere. -/
inductive Member | here (x : Ctx) | there (m : Nat) | absent (mask : W64)

def famoMember (s : State) (c : CoreId) (st : W64) : Member :=
  let x := s.coreCtx c
  let rank := fld st 11 6
  let gone := Member.absent (1#64 <<< rank)
  match (s.part x.part).groups.get (Fin.ofNat 64 (fld st 5 0)) with
  | none => gone
  | some g =>
    if g.nmem ≤ rank then gone
    else
      let m := g.mod rank
      if m = s.modid.toNat then
        (if (s.part (Fin.ofNat 32 (g.part rank))).en then .here { x with part := Fin.ofNat 32 (g.part rank), ctx := g.fctx } else gone)
      else if bit s.domMods m then .there m else gone

/-- Bytes of a FAMO's location: 32 bits of an old value are zero-extended (09 R166). -/
def famoBytes : Instr → Nat
  | .famo _ _ _ _ _ _ dbl _ _ => wordBytes dbl
  | _ => 8

/-- A FAMO: at this module as an AMO in the group's context, at another by its answer; its request counts its towpath hops when it
goes (03 R40). -/
def moveFamo (c : CoreId) (u : MemUnit) (a : Active) (p : Plan) (r : Option Reply) (s : State) : Moved :=
  match famoMember s c (val0 a.q 3) with
  | .absent m => .fault (.absent m)
  | .here x => moveMem c u a.q.ins p x a.sent a.lines r s
  | .there m =>
    match r with
    | none =>
      .wait (if a.sent then s else s.updCore c (fun k => k.count 4 (s.route (dieOf c) (s.portDie m)))) a.lines true
    | some (.data bs) => .done s (some (.s (BitVec.ofNat 64 (ofBytes (bs.take (famoBytes a.q.ins)))))) 1
    | some r =>
      match replyFault r ⟨val0 a.q 0, 8, 0, .module m 0⟩ with
      | some f => .fault f
      | none => .wait s a.lines a.sent

/-! ## Barrier objects (09 R171, R172) -/

/-- A word of a barrier object. -/
def Core.objWord (k : Core) (bo : Fin 4096) (i : Nat) : W64 := k.word (objAddr bo + 8 * i)
def Core.setObj (k : Core) (bo : Fin 4096) (i : Nat) (v : W64) : Core := { k with lm := k.lm.setWord (objAddr bo + 8 * i) v }

/-- The fields of a barrier object. -/
structure Obj where
  exp : Nat
  ph : Bool
  err : Bool
  ecode : Byte
  arr : Nat
  prom : W64
  det : W64
  deriving DecidableEq, Repr

def Core.obj (k : Core) (bo : Fin 4096) : Obj :=
  let w := k.objWord bo 0
  { exp := fld w 47 0, ph := bit w 48, err := bit w 49, ecode := BitVec.ofNat 8 (fld w 63 56),
    arr := fld (k.objWord bo 1) 47 0, prom := k.objWord bo 2, det := k.objWord bo 3 }

/-- Write the fields back; reserved bits keep what a program wrote there. -/
def Core.putObj (k : Core) (bo : Fin 4096) (o : Obj) : Core :=
  let w0 := BitVec.ofNat 64 (o.exp % 2 ^ 48 + b2n o.ph * 2 ^ 48 + b2n o.err * 2 ^ 49
    + fld (k.objWord bo 0) 55 50 * 2 ^ 50 + o.ecode.toNat * 2 ^ 56)
  let w1 := BitVec.ofNat 64 (o.arr % 2 ^ 48 + fld (k.objWord bo 1) 63 48 * 2 ^ 48)
  (((k.setObj bo 0 w0).setObj bo 1 w1).setObj bo 2 o.prom).setObj bo 3 o.det

/-- An object is updated by its bank; where its phase flips, the core keeps whether it then held an error (09 R171, 18 R289). -/
def Core.update (k : Core) (bo : Fin 4096) (o : Obj) : Core :=
  if o.ph = (k.obj bo).ph then k.putObj bo o
  else { k.putObj bo o with flips := (bo, o.ph, o.err) :: k.flips.filter (fun f => !decide (f.1 = bo ∧ f.2.1 = o.ph)) }

/-- The last flip of an object to a phase came with an error; of an object that a program wrote its error bit tells. -/
def Core.flipErr (k : Core) (bo : Fin 4096) (ph : Bool) : Bool :=
  match k.flips.find? (fun f => decide (f.1 = bo ∧ f.2.1 = ph)) with
  | some f => f.2.2
  | none => (k.obj bo).err

/-- The last two steps of Count: overcount and phase flip. -/
def Obj.settle (o : Obj) : Obj :=
  let o := if o.exp ≠ 0 ∧ o.exp < o.arr ∧ !o.err then
      { o with err := true, ecode := 0x06, det := BitVec.ofNat 64 o.arr } else o
  if o.exp ≠ 0 ∧ o.exp ≤ o.arr then { o with ph := !o.ph, exp := 0, arr := 0, prom := 0 } else o

/-- Count (09 R171). -/
def Obj.count (o : Obj) (n : Nat) (e : Option Err) : Obj :=
  let o := { o with arr := (o.arr + n) % 2 ^ 48 }
  let o := match e with
    | some e => if o.err then o else { o with err := true, ecode := e.code, det := e.det }
    | none => o
  o.settle

def Obj.arm (o : Obj) (n : Nat) : Obj := ({ o with exp := (o.exp + n) % 2 ^ 48 } : Obj).settle
def Obj.clear (o : Obj) : Obj := { o with exp := 0, err := false, ecode := 0, arr := 0, prom := 0, det := 0 }

/-! ## The transfer event -/

/-- Accesses that the berth issued before a word and that are not yet performed (09 R162). -/
def Core.earlier (k : Core) (q : QEntry) : Bool :=
  k.acc.any (fun a => decide (a.berth = q.berth ∧ a.id < q.id ∧ a.kinds ≠ 0))

def releases : Instr → Bool
  | .stl .. => true
  | .amo _ _ _ _ _ _ _ ord _ | .famo _ _ _ _ _ _ _ ord _ => ordReleases ord
  | _ => false

/-- Atomics that hold the LDE until their value returns (09 R167). -/
def holdsLde : Instr → Bool
  | .amo .. | .famo .. => true
  | _ => false

/-- Core cycles in which a held atomic's value returns (09 R154). -/
def amoCycles (s : State) (c : CoreId) (a : Active) : Nat :=
  match a.q.ins with
  | .famo .. => s.cycles 1900
  | _ =>
    match s.translate (s.coreCtx c) (val0 a.q 0) true true with
    | .ok (_, d, w) => s.cycles (siteTicks s c ⟨val0 a.q 0, 8, d, w⟩)
    | .error _ => 1

/-- A repeated STV takes the next entry of the FIFO that its source names (09 R152). -/
def streams (q : QEntry) (n : Nat) : Option (Fin 1024) :=
  match q.ins with
  | .stv _ v _ _ _ => match v.loc with
    | .main m pk => if pk || n == 0 then none else some m
    | _ => none
  | _ => none

/-- The result of a transfer in flight: results of the engine write back in transfer order, those behind an AMOR too
(DESIGN CHOICE, log 80). -/
def loadPend (before : List Pend) (q : QEntry) (v : RVal) (lat : Nat) (final : Bool) : Pend :=
  let rem := (before.filter (fun r => decide (r.unit = .lde))).foldl (fun m r => max m r.rem) (lat - 1)
  { unit := .lde, dst := loadDst q.ins, val := v, rem := rem, berth := q.berth, addr := q.addr, id := q.id, flags := 0,
    tok := if final then paOf q else 0 }

/-- A result of the load engine joins what is in flight. In a frozen core it counts from P on (20 R315); after a FIFO_OVF it waits
for the RTT of the berth that took the trap, or is late by the cycles up to that RTT (03 R30). -/
def Core.fly (k : Core) (a : Active) (v : RVal) (lat : Nat) (final : Bool) : Core :=
  match a.hold with
  | some b =>
    let r := loadPend (k.berth b).held a.q v (lat + a.age + k.since - 1) final
    let r := { r with rem := min r.rem 255 }
    k.updBerth b (fun x => { x with held := x.held ++ [r] })
  | none => { k with inflight := k.inflight ++ [loadPend k.inflight a.q v (lat + a.age + k.since) final] }

/-- A transfer has been performed: its result is in flight, and the entry goes on or is complete. -/
def moved (c : CoreId) (u : MemUnit) (a : Active) (v : Option RVal) (lat : Nat) (fl : Flags) (s : State) : State :=
  let final := decide (a.q.rep ≤ a.n)
  s.updCore c (fun k =>
    let k := k.raise fl
    let k := match v with
      | some v => k.fly a v lat final
      | none => k
    if final then finishEntry u a.q k
    else k.setActive u (some { a with n := a.n + 1, src := none, sent := false, lines := .start, paid := 0 }))

/-! ## Sluices and ingress budgets (15 R277, R280) -/

/-- The die on which a place in memory stands, and whether its data come into that die by a joint or a port. -/
def State.standsOn (s : State) (a : Nat) (w : Site) : DieId × Bool :=
  match w with
  | .hbm => (homeDie a, true)
  | .module m _ => (s.portDie m, true)
  | w => (s.siteDie a w, false)

/-- The dies that a unit of 128 bytes enters on its way to a die (15 R280; log 40). -/
def entered (src : DieId × Bool) (dst : DieId) : List DieId := (if src.2 then [src.1] else []) ++ (if src.1 = dst then [] else [dst])

/-- The sluice that meters a unit of a die's agents at a place: L2 for staging slices, lines in the die's RDC and lines in the caching
slices of their home die, HBM for what reaches a controller (13 R245, 15 R277). -/
def State.siteClass (s : State) (d : DieId) (a : Nat) (w : Site) : Fin 3 :=
  match w with
  | .hbm => if ((s.tokLine (a / 128)).rdc.get d).valid || s.cachedAt (a / 128) then 1 else 2
  | .stg => 1
  | _ => 0

/-- The sluice that meters a unit at an address, and the dies that it enters: read, or written (15 R277, R280). -/
def State.unitPath (s : State) (x : Ctx) (d : DieId) (wr : Bool) (va : W64) : Fin 3 × List DieId :=
  match s.translate x va false false with
  | .error _ => (0, [])
  | .ok (_, a, w) =>
    let near := match w with
      | .hbm => (s.tokLine (a / 128)).rdc.get d |>.valid
      | _ => false
    (s.siteClass d a w,
     if wr then entered (d, false) (s.standsOn a w).1 else if near then [] else entered (s.standsOn a w) d)

/-- One unit of 128 bytes is charged to a partition at the ingress of every die that it enters; none where it waits for the next
interval (15 R280). -/
def enterDies (p : PartId) (dies : List DieId) (s : State) : Option State :=
  if dies.any (fun d => decide ((s.die d).ingress.get p = 0)) then none
  else some (dies.foldl (fun t d =>
    t.setDie d { t.die d with ingress := (t.die d).ingress.set p.val ((t.die d).ingress.get p - 1) p.isLt }) s)

/-- One unit of 128 bytes is charged to the quad of the core that issued it and to its partition at the ingress of
every die that it enters; none where it waits for the next interval. -/
def letIn (c : CoreId) (cls : Fin 3) (dies : List DieId) (s : State) : Option State :=
  let q := s.quad (quadOf c)
  let g := q.sluice.get cls
  if g < 128 then none
  else enterDies (s.coreCtx c).part dies (s.setQuad (quadOf c) { q with sluice := q.sluice.set cls.val (g - 128) cls.isLt })

/-- The units at the head of a list that are let in now, in their order, and the state afterwards. -/
def letAllIn (c : CoreId) : List (Fin 3 × List DieId) → State → Nat × State
  | [], s => (0, s)
  | u :: r, s =>
    match letIn c u.1 u.2 s with
    | none => (0, s)
    | some t =>
      let x := letAllIn c r t
      (x.1 + 1, x.2)

/-- The units of 128 bytes of a transfer, each with its sluice and the dies that it enters; one that is read and written counts once,
and a FAMO's answer comes in by the port to its module (15 R277, R280). -/
def unitPaths (s : State) (c : CoreId) (q : QEntry) (lm : Bool) (p : Plan) : List (Fin 3 × List DieId) :=
  let runs := fun (x : Ctx) =>
    ((p.rd.filter (fun r => !p.wr.contains r)).map (fun r => (false, r)) ++ p.wr.map (fun r => (true, r))).flatMap (fun y =>
      (List.range ((y.2.1.toNat % 128 + y.2.2 + 127) / 128)).map (fun i =>
        if lm then (0, [])
        else s.unitPath x (dieOf c) y.1 (if i = 0 then y.2.1 else BitVec.ofNat 64 ((y.2.1.toNat / 128 + i) * 128))))
  match q.ins with
  | .famo .. => match famoMember s c (val0 q 3) with
    | .here x => runs x
    | .there m => [(0, entered (s.portDie m, true) (dieOf c))]
    | .absent _ => []
  | _ => runs (s.coreCtx c)

/-- Where the transfer of a plan goes. -/
def movePlan (c : CoreId) (u : MemUnit) (a : Active) (p : Plan) (lm : Bool) (r : Option Reply) (s : State) : Moved :=
  match a.q.ins with
  | .famo .. => moveFamo c u a p r s
  | .red .. | .updr .. =>
    if lm then
      match siteFault a.q.ins (BitVec.ofNat 64 ((p.rd.headD (0, 0)).1.toNat % 2 ^ 24)) .host with
      | some f => .fault f
      | none => .wait s a.lines a.sent
    else moveMem c u a.q.ins p (s.coreCtx c) a.sent a.lines r s
  | _ => if lm then moveLm c a.q.ins p s else moveMem c u a.q.ins p (s.coreCtx c) a.sent a.lines r s

/-- An answer may report that a granule of LM has gone bad (20 R312; log 20). -/
def lmFound (c : CoreId) (lm : Bool) (r : Option Reply) (s : State) : State :=
  match r with
  | some (.uce a) => if lm then s.lmSpoil c a.toNat else s
  | _ => s

/-- The context in which an entry's addresses translate. -/
def entryCtx (s : State) (c : CoreId) (q : QEntry) : Option Ctx :=
  match q.ins with
  | .famo .. => match famoMember s c (val0 q 3) with
    | .here x => some x
    | _ => none
  | _ => some (s.coreCtx c)

/-- A transfer waits for the walks of its pages (21 R326). -/
def planWalks (c : CoreId) (a : Active) (lm : Bool) (p : Plan) (s : State) : Option State :=
  if lm then none else (entryCtx s c a.q).bind (fun x => awaitWalks x (p.rd ++ p.wr) s)

/-- Perform the transfer of a plan, once all its units are let in; the rest of them wait for the next interval. -/
def performPlan (c : CoreId) (u : MemUnit) (a : Active) (lm : Bool) (p : Plan) (r : Option Reply) (s : State) : State :=
  let units := (unitPaths s c a.q lm p).drop a.paid
  let l := letAllIn c units s
  let a := { a with paid := a.paid + l.1 }
  if l.1 < units.length then l.2.updCore c (fun k => k.setActive u (some a))
  else
    match movePlan c u a p lm r (lmFound c lm r l.2) with
    | .wait s g sent => s.updCore c (fun k => k.setActive u (some { a with lines := g, sent := sent }))
    | .trap code => engineTrap c u a.q code l.2
    | .fault f => accessFault c u a f (lmFound c lm r l.2)
    | .done t v lat => moved c u a v (if holdsLde a.q.ins then 1 else lat) p.flags t

/-- Perform the transfer of the active entry, once its pages are walked. -/
def runPlan (c : CoreId) (u : MemUnit) (a : Active) (r : Option Reply) (s : State) : State :=
  let shape := a.shape.getD (.replicate 8 0)
  let lm := a.shape.isSome && recLm shape
  let p := planOf a.q shape a.n a.src s.cyc
  match planWalks c a lm p s with
  | some t => t.updCore c (fun k => k.setActive u (some a))
  | none => performPlan c u a lm p r s

/-- Results that the snapshot buffer holds, or will hold (03 R41). -/
def Core.flying (k : Core) : Nat :=
  ((k.inflight ++ k.ldPush ++ k.berths.toList.flatMap (fun x => x.held)).map Pend.count).sum

/-- The load engine makes no transfer behind a push that waits for room, nor one whose result the snapshot buffer has no room for
(02 R23, 03 R41; log 23). -/
def Core.loadStands (k : Core) : Bool := !k.ldPush.isEmpty || decide (128 ≤ k.flying)

/-! ## Stores of one berth to one location (14 R256) -/

/-- The memory that an entry still has to write, from transfer n on, as far as its record is known: DPA and length. -/
def writesOf (s : State) (c : CoreId) (q : QEntry) (shape : Option Rec) (n : Nat) : List (Nat × Nat) :=
  let r := if usesRecord q.ins then (match shape with
      | some r => some r
      | none => match readRec c q.ref s with
        | .ok (r, _) => some r
        | .error _ => none)
    else some (.replicate 8 0)
  match r, entryCtx s c q with
  | some r, some x =>
    if usesRecord q.ins && recLm r then []
    else (List.range (q.rep + 1 - n)).flatMap (fun i =>
      match s.ranges x false true (planOf q r (n + i) none s.cyc).wr with
      | .ok l => l.map (fun g => (g.1.dpa, g.1.len))
      | .error _ => [])
  | _, _ => []

/-- The 8-byte granules that a range meets are the locations of the memory model (14 R255): it starts and ends at their bounds. -/
def granules (r : Nat × Nat) : Nat × Nat := (r.1 / 8, (r.1 + r.2 + 7) / 8)

/-- Two lists of ranges meet in a granule. -/
def meet (a b : List (Nat × Nat)) : Bool :=
  a.any (fun x => b.any (fun y => decide ((granules x).1 < (granules y).2 ∧ (granules y).1 < (granules x).2)))

/-- The other engine. -/
def otherUnit : MemUnit → MemUnit
  | .lde => .ste
  | .ste => .lde

/-- A store of the entry's berth that was issued before it. -/
def Active.storeBefore (a : Active) (q : QEntry) : Bool :=
  decide (q.berth = a.q.berth ∧ q.id < a.q.id) && bit (kindsOf (opcOf q.ins)) 1

/-- What the other engine's started entry, and its unstarted ones, still write before an entry. -/
def startedBefore (s : State) (c : CoreId) (u : MemUnit) (a : Active) : List (Nat × Nat) :=
  match (s.core c).active_ (otherUnit u) with
  | some y => if a.storeBefore y.q then writesOf s c y.q y.shape y.n else []
  | none => []
def queuedBefore (s : State) (c : CoreId) (u : MemUnit) (a : Active) : List (Nat × Nat) :=
  (((s.core c).queueOf (otherUnit u)).filter a.storeBefore).flatMap (fun q => writesOf s c q none 0)

/-- An entry that stores meets some of these ranges. -/
def storeMeets (s : State) (c : CoreId) (a : Active) (l : List (Nat × Nat)) : Bool :=
  bit (kindsOf (opcOf a.q.ins)) 1 && meet l (writesOf s c a.q a.shape a.n)

/-- An earlier store of the berth to a location of this entry stands in the other engine: stores of one berth to one location
are performed in program order. -/
def storeBehind (s : State) (c : CoreId) (u : MemUnit) (a : Active) : Bool :=
  storeMeets s c a (startedBefore s c u a ++ queuedBefore s c u a)

/-- One transfer of the active entry, if it can be performed now. -/
def transfer (c : CoreId) (u : MemUnit) (r : Option Reply) (s : State) : State :=
  let k := s.core c
  match k.active_ u with
  | none => s
  | some a =>
    if a.fault || (decide (u = .lde) && k.loadStands) then s
    else if usesRecord a.q.ins && a.shape.isNone then openEntry c u a.q s
    else if (releases a.q.ins && k.earlier a.q) || storeBehind s c u a then s
    else match a.q.ins with
      | .mark _ =>
        if u = .lde && (k.steQ.any (fun q => decide (q.id = a.q.id)) || (k.ste.map (fun x => decide (x.q.id = a.q.id))).getD false)
        then s else moved c u a none 1 0 s
      | .boarm .. =>
        let bo := Fin.ofNat 4096 a.q.ref
        match s.lmErr c (objAddr bo) 32 with
        | some l => accessFault c u a (.uceLm l) s
        | none => moved c u a none 1 0 (s.updCore c (fun k => k.update bo ((k.obj bo).arm (val0 a.q 0).toNat)))
      | .boclr .. =>
        let bo := Fin.ofNat 4096 a.q.ref
        match s.lmErr c (objAddr bo) 16 with
        | some l => accessFault c u a (.uceLm l) s
        | none => moved c u a none 1 0 ((s.updCore c (fun k => k.putObj bo (k.obj bo).clear)).lmMend c (objAddr bo + 16) 16)
      | .bord _ _ _ w =>
        let bo := Fin.ofNat 4096 a.q.ref
        match s.lmErr c (objAddr bo + 8 * w.val) 8, letIn c 0 [] s with
        | some l, _ => accessFault c u a (.uceLm l) s
        | none, some s => moved c u a (some (.s (k.objWord bo w.val))) 8 0 s
        | none, none => s
      | _ =>
        if holdsLde a.q.ins && decide (a.busy = 0) then
          s.updCore c (fun k => k.setActive u (some { a with busy := amoCycles s c a }))
        else if 1 < a.busy then s.updCore c (fun k => k.setActive u (some { a with busy := a.busy - 1 }))
        else match streams a.q a.n, a.src with
          | some m, none =>
            if (s.fileErr c (.main m false)).isSome then accessFault c u a .uceFile s
            else match s.vFifo c m with
            | [] => s
            | e :: rest => runPlan c u { a with src := some e } r (s.setVFifo c m rest)
          | _, _ => runPlan c u a r s

/-- One transfer is performed; `.ok` brings no answer from outside. -/
def execMemoryTransferPerformed (c : CoreId) (u : MemUnit) (r : Reply) (s : State) : Out :=
  .next (transfer c u (match r with | .ok => none | r => some r) s)

/-- A completion of the host, or its timeout, ends an access to host memory; a failing one that no entry awaits is about an access of
the device itself, whose location fails until it is written (22 R340; log 83). -/
def execHostCompletion (c : CoreId) (u : MemUnit) (r : Reply) (s : State) : Out :=
  match (((s.core c).active_ u).map (fun a => a.sent)).getD false, r with
  | false, .uce a =>
    .next (if hostBase ≤ a.toNat ∧ a.toNat < 2 ^ 48 then
      { s with bad := s.bad.filter (fun g => !decide (g = a.toNat / 8 * 8)) ++ [a.toNat / 8 * 8] } else s)
  | _, _ => .next (transfer c u (some r) s)

/-! ## Deferred traps (20 R305, R306) -/

/-- The command of a word has counted all its bytes, or is discarded. -/
def Core.counted (k : Core) (id : Nat) : Core :=
  let l := k.acc.map (fun a => if a.id = id then { a with kinds := a.kinds &&& ~~~4, cpy := false, arr := false } else a)
  { k with acc := l.filter (fun a => decide (a.kinds ≠ 0) || a.bo || a.arr || a.cpy) }

/-- A berth's unsent array entries, or its unsent special-function entries, are discarded, and complete (10 R196). -/
def Core.dropBarges (sf : Bool) (b : BerthId) (k : Core) : Core :=
  let l := if sf then k.sfQ else k.arrQ
  let gone := l.filter (fun x => decide (x.berth = b))
  let rest := l.filter (fun x => !decide (x.berth = b))
  gone.foldl (fun k x => k.counted x.id)
    { k with
      arrQ := if sf then k.arrQ else rest,
      sfQ := if sf then rest else k.sfQ,
      vbuf := k.vbuf - (gone.map (fun x => x.vops.length)).sum }

/-- The entries that the unit of a trap holds for a berth that has exited are discarded, and complete (09 R150, 10 R196). -/
def discardUnit (u : TrapUnit) (b : BerthId) (k : Core) : Core :=
  let k := k.updBerth b (fun x => { x with unitHolds := x.unitHolds.erase u })
  match u with
  | .lde => discardHeld .lde b k
  | .ste => discardHeld .ste b k
  | .arr => k.dropBarges false b
  | .sf => k.dropBarges true b

/-- The handler of an engine's trap runs: the next one is taken after the RTT that ends it (20 R306). -/
def Berth.unitHandler (x : Berth) : Bool :=
  x.handlers.any (fun h => match h with
    | .unit _ => true
    | _ => false)

/-- A trap that an engine raised is taken in place of the berth's next word; the one raised first comes first, and a
second waits for the RTT of the first handler. A berth that has exited takes none: what the unit holds for it is discarded,
and of a load or store trap a LATETRAP record is posted; the record of an array miss stands already. -/
def execDeferredTrapTaken (c : CoreId) (b : BerthId) (s : State) : Out :=
  let x := s.berth c b
  match x.pend, decide (x.exited = true) || !x.unitHandler with
  | t :: rest, true =>
    if x.exited then
      let s := s.updCore c (fun k => discardUnit t.unit b (k.updBerth b (fun x => { x with pend := rest })))
      .next (match t.unit with
        | .lde | .ste => coreFault c b 0x89 0 (t.code.num.zeroExtend 64) t.tval s
        | .arr | .sf => s)
    else
      let s := s.updBerth c b (fun x => { x with pend := rest })
      let s := if x.wait = .none then takeTrap c b t.code 7 t.tval x.pc x.pc s
        else takeTrapWaiting c b t.code 7 t.tval x.pc x.pc s
      .next (s.updBerth c b (fun y => { y with handlers := .unit t.unit :: x.handlers }))
  | _, _ => .next s

end Sys2Proof.Machine
end

