-- ==== Sys2Proof/Machine/CopyPlan.lean ====
section
/-! DEFINITION. What one 128-byte unit of a copy reads and writes, and what makes a copy refused for its shapes
(spec 09 R178 to R185, 13 R249, R250). -/

namespace Sys2Proof.Machine

open Sys2Proof

/-! ## Sizes (09 R178) -/

/-- Data bytes of a record's elements. -/
def recBytes (r : Rec) : Nat := (recCount r * width (recFmt r) + 7) / 8

/-- 128-byte units of one transfer, and the elements of one. -/
def recUnits (r : Rec) : Nat := (recBytes r + 127) / 128
def unitElems (r : Rec) : Nat := 1024 / width (recFmt r)

/-- Element numbers of unit j of a transfer, and its bytes. -/
def unitRange (r : Rec) (j : Nat) : List Nat :=
  (List.range (min (unitElems r) (recCount r - j * unitElems r))).map (fun i => j * unitElems r + i)
def unitBytes (r : Rec) (j : Nat) : Nat := min 128 (recBytes r - 128 * j)

/-- Steps in units of 128 bytes at the source and at the destination (09 R153). -/
def copySteps (q : QEntry) (src dst : Rec) : Int × Int :=
  match q.ins with
  | .cpy _ _ _ _ (.imm _) => (recUnits src, recUnits dst)
  | _ => (q.step, q.step)

/-! ## Runs of bytes -/

/-- Join runs that touch. -/
def mergeRuns : List (W64 × Nat) → List (W64 × Nat)
  | [] => []
  | x :: r =>
    match mergeRuns r with
    | y :: t =>
      let o := (y.1 - x.1).toNat
      if o ≤ x.2 then (x.1, max x.2 (o + y.2)) :: t else x :: y :: t
    | [] => [x]

/-- A record whose data start `disp` bytes further on. -/
def moveRec (r : Rec) (disp : Int) : Rec := r.set 0 (recBase r + BitVec.ofInt 64 disp)

/-- Address of the side entry of an element of a displaced record (09 R158, 13 R250). -/
def movedSide (r : Rec) (disp : Int) (e : Nat) : W64 :=
  recScale r + BitVec.ofInt 64 (2 * ((8 * disp + elemNo r e) / (32 * width (recFmt r))))

/-- Element e of a displaced record: its bytes, and its code. -/
def elemRun (r : Rec) (disp : Int) (e : Nat) : W64 × Nat := bitRun (moveRec r disp) (elemNo r e) (width (recFmt r))
def elemCode (r : Rec) (disp : Int) (rd : Reader) (e : Nat) : W32 := readElem (moveRec r disp) rd (elemNo r e)
def elemPut (r : Rec) (disp : Int) (e : Nat) (v : W32) : List Put := putElem (moveRec r disp) (elemNo r e) v

/-- Side entries that go with some elements: from, to. Each entry of the destination is written once, from where the last element of
its block comes. -/
def sidePairs (src dst : Rec) (ds dd : Int) (es : List Nat) : List (W64 × W64) :=
  if isBlock (recFmt dst) then
    (es.map (fun e => (movedSide src ds e, movedSide dst dd e))).foldr
      (fun x l => if l.any (fun y => decide (y.2 = x.2)) then l else x :: l) []
  else []

/-- Displacement of transfer n at the source and at the destination. -/
def unitDisp (q : QEntry) (src dst : Rec) (u : Nat) : Int × Int :=
  let n := u / recUnits dst
  (n * (copySteps q src dst).1 * 128, n * (copySteps q src dst).2 * 128)

/-- Bytes that unit u writes: of elements, and of the scale area (09 R178, R180). -/
def unitCount (q : QEntry) (dst : Rec) (u : Nat) : Nat :=
  let j := u % recUnits dst
  unitBytes dst j + 2 * (sidePairs dst dst 0 (unitDisp q dst dst u).2 (unitRange dst j)).length

/-! ## One unit -/

/-- Bytes read at each source, bytes written, and what is put there from what the sources and the destination hold. -/
structure UnitPlan where
  rd : List (W64 × Nat)
  wr : List (W64 × Nat)
  /-- the old values of the destination are read too -/
  upd : Bool
  puts : List Reader → Reader → List Put
  /-- the data bytes in transfer order, for a digest -/
  data : List Reader → List Byte

/-- One step of MLR on exact values (09 R184). -/
def mlrStep (k : Comb3) (a b : XR) : XR :=
  decFloat .fp32 (roundTo (match k with
    | .add => (XR.add false a b).1
    | .max => maxOp a b
    | .min => minOp a b) .fp32 .rne 0).1

/-- MLR on the members' codes, ascending rank; INT32 wraps. -/
def mlrCode (k : Comb3) (sf df : Fmt) (cs : List W32) : W32 :=
  match cs with
  | [] => 0
  | c :: rest =>
    if isInt sf then (roundTo (XR.ofInt (decInt sf (rest.foldl (fun a b => combCode sf k .rne 0 a b) c))) df .rne 0).1
    else (roundTo (rest.foldl (fun a b => mlrStep k a (decFloat sf b)) (decFloat sf c)) df .rne 0).1

/-- The code written for an element: combined, converted, or as it stands. -/
def copyCode (i : Instr) (src dst : Rec) (old : W32) (cs : List W32) : W32 :=
  let c := cs.headD 0
  match i with
  | .cpyr _ _ _ _ k => combCode (recFmt dst) k .rne 0 old c
  | .mlr _ _ _ _ k => mlrCode k (recFmt src) (recFmt dst) cs
  | _ => if recFmt src = recFmt dst then c else (convert (recFmt dst) (decPlain (recFmt src) c)).1

/-- A CPYR reads the destination. -/
def combines : Instr → Option Comb3
  | .cpyr _ _ _ _ k => some k
  | _ => none

/-- Codes packed into bytes, low nibble first. -/
def packCodes (w : Nat) : List W32 → List Byte
  | [] => []
  | a :: r =>
    if w = 4 then
      match r with
      | [] => [BitVec.ofNat 8 (a.toNat % 16)]
      | b :: r' => BitVec.ofNat 8 (a.toNat % 16 + b.toNat % 16 * 16) :: packCodes w r'
    else toBytes (w / 8) a.toNat ++ packCodes w r

/-- Unit u of a command, counted over its transfers; a destination at another module combines there, so that the
source's codes go as they are. -/
def unitPlan (q : QEntry) (src dst : Rec) (u : Nat) (away : Bool) : UnitPlan :=
  let j := u % recUnits dst
  let (ds, dd) := unitDisp q src dst u
  let es := unitRange dst j
  let sides := sidePairs src dst ds dd es
  { rd := mergeRuns (es.map (elemRun src ds)) ++ sides.map (fun x => (x.1, 2)),
    wr := mergeRuns (es.map (elemRun dst dd)) ++ sides.map (fun x => (x.2, 2)),
    upd := (combines q.ins).isSome && !away,
    puts := fun rs old =>
      es.flatMap (fun e => elemPut dst dd e
        (if (combines q.ins).isSome && away then elemCode src ds (rs.headD old) e
         else copyCode q.ins src dst (elemCode dst dd old e) (rs.map (fun f => elemCode src ds f e))))
      ++ sides.flatMap (fun x => putRun x.2 [(rs.headD old) x.1, (rs.headD old) (x.1 + 1)]),
    data := fun rs => packCodes (width (recFmt dst)) (es.map (fun e => elemCode src ds (rs.headD (fun _ => 0)) e)) }

/-- Units of one target. -/
def copyUnits (q : QEntry) (dst : Rec) : Nat := (q.rep + 1) * recUnits dst

/-- Runs that units of a target write, from a unit on: each is one message to another module. -/
def runsFrom (q : QEntry) (src dst : Rec) (u : Nat) : List (W64 × Nat) :=
  (List.range (copyUnits q dst - u)).flatMap (fun i => (unitPlan q src dst (u + i) false).wr)

/-! ## Shapes that a form accepts (09 R180 to R184) -/

def combFmt (f : Fmt) : Bool := decide (f = .fp32 ∨ f = .bf16 ∨ f = .int32)

def shapesOk (i : Instr) (src dst : Rec) : Bool :=
  let sf := recFmt src
  let df := recFmt dst
  decide (recCount src = recCount dst) &&
  match i with
  | .cpyr .. => decide (sf = df) && combFmt sf
  | .cpyd .. => decide (sf = df)
  | .mlr .. => combFmt sf && decide (df = .fp32 ∨ df = sf)
  | _ => decide (sf = df) || (!isBlock sf && !isBlock df)

end Sys2Proof.Machine
end

