-- ==== Sys2Proof/Machine/CopyEngine.lean ====
section
/-! DEFINITION. The copy engine: acceptance of a command, its units, its counts and its end
(spec 09 R171, R175 to R186, 15 R277 to R280, 22 R345, R346). -/

namespace Sys2Proof.Machine

open Sys2Proof

/-! ## Counts (09 R171, R178) -/

/-- A count goes to an object of a core. -/
def sendCount (c : CoreId) (bo : Fin 4096) (n : Option Nat) (e : Option Err) (s : State) : State :=
  (s.updCore c (fun k => { k with counts := k.counts ++ [{ bo := bo, n := n, err := e, prom := none }] })).push [.objectCount c]

/-- What a count without a number counts: all that the object still expects. -/
def Obj.rest (o : Obj) : Nat := if o.exp = 0 then 0 else o.exp - o.arr

/-- One update of an object by its LM bank. -/
def applyCount (k : Core) (x : Count) : Core :=
  match x.prom with
  | some p => k.putObj x.bo { k.obj x.bo with prom := if (k.obj x.bo).prom.toNat < p.toNat then p else (k.obj x.bo).prom }
  | none =>
    let o := k.obj x.bo
    k.update x.bo (o.count (x.n.getD o.rest) x.err)

/-- The bank applies the count that reached it first. An object with an uncorrectable error stays as it is, and a record tells of it
(20 R312; log 20). -/
def execObjectCount (c : CoreId) (s : State) : Out :=
  match (s.core c).counts with
  | x :: r =>
    match s.lmErr c (objAddr x.bo) 32 with
    | some l =>
      .next (coreFault c 0 0x02 1 (BitVec.ofNat 64 l) (BitVec.ofNat 64 l) (bump (hUncorr 0) 1 (s.updCore c (fun k => { k with counts := r }))))
    | none => .next (s.updCore c (fun k => applyCount { k with counts := r } x))
  | [] => .next s

/-- A promise is written into an object (09 R177). -/
def promise (c : CoreId) (bo : Fin 4096) (p : W64) (s : State) : State :=
  s.updCore c (fun k => applyCount k { bo := bo, n := some 0, err := none, prom := some p })

/-! ## Cores and places (09 R175, 21 R333) -/

/-- A partition holds a core; one in the scrub gate, or released, is held by none (21 R334, R336). -/
def State.holds (s : State) (p : PartId) (c : CoreId) : Bool := bit (s.part p).held.quads (quadOf c).val

/-- A core of the issuing gang's partition, by the numbering of its placement; none that the partition has released (21 R336). -/
def State.vcoreOf (s : State) (c : CoreId) (n : Nat) : Option CoreId := (s.gangOf c).bind (fun g => (g.2.vmap[n]?).filter (s.holds g.2.part))

/-- The cores that a partition holds now, in physical order (01 R18). -/
def State.partCores (s : State) (p : PartId) : List CoreId :=
  (List.finRange 128).filter (s.holds p)

/-- A launch holds its quads. -/
def Launch.occupies (l : Launch) : Bool :=
  match l.state with
  | .placing | .loading | .prepared | .started | .saved | .resuming | .completing => true
  | _ => false

/-- The cores by which a partition's registers and the words of other modules number: those of the oldest placement that is
resident or saved, which keeps its numbering whatever resizes occur, or else those held now (21 R333; log 78). -/
def State.numbering (s : State) (p : PartId) : List CoreId :=
  match s.launches.find? (fun l => decide (l.part = p) && (l.occupies || decide (l.state = .held)) && !l.vmap.isEmpty) with
  | some l => l.vmap
  | none => s.partCores p

/-- The partition of a core's gang, and an installed group of it. -/
def State.groupAt (s : State) (c : CoreId) (g : Fin 64) : Option Group := (s.part (s.coreCtx c).part).groups.get g

/-- A member's rank names this module. -/
def State.isSelf (s : State) (g : Group) (rank : Nat) : Bool := decide (g.mod rank = s.modid.toNat)

/-- Absent ranks of a group: those whose module is not reachable, those whose partition, group or entry at another module is not as
R346 asks, which that module's state decides and `told` says (log 82), and the own rank where its partition has no EN (22 R346). -/
def State.absentRanks (s : State) (g : Group) (told : W64) : W64 :=
  (List.range g.nmem).foldl (fun (a : W64) k =>
    if (if s.isSelf g k then !(s.part (Fin.ofNat 32 (g.part k))).en else !bit s.domMods (g.mod k) || bit told k) then a ||| (1#64 <<< k)
    else a) 0

def errBounds (w : W64) : Err := ⟨0x08, w⟩
def errShape : Err := ⟨0x07, 0⟩
def errAbsent (m : W64) : Err := ⟨0x04, m⟩
def AFault.err (f : AFault) : Err := ⟨f.code, f.det⟩

/-- The place that a location word and its record name. -/
def placeOf (s : State) (c : CoreId) (w : W64) (r : Rec) (told : W64) : Except Err Place :=
  if lwKind w = 2 then
    match s.groupAt c (lwGrp w) with
    | none => .error (errBounds w)
    | some g =>
      if g.nmem ≤ lwRank w then .error (errBounds w)
      else if bit (s.absentRanks g told) (lwRank w) then .error (errAbsent (1#64 <<< lwRank w))
      else .ok (.member (lwGrp w) (Fin.ofNat 64 (lwRank w)))
  else if !recLm r then .ok .va
  else if lwKind w = 0 then .ok (.lm c)
  else match s.vcoreOf c (lwCore w) with
    | some k => .ok (.lm k)
    | none => .error (errBounds w)

/-- The object that a destination counts into: here, or at the member, which names a core of its partition with DV or without;
BOUNDS where its core does not exist. -/
def destObj (s : State) (c : CoreId) (w : W64) (p : Place) (core : Nat) :
    Except Err (Option (CoreId × Fin 4096) × Option (Byte × Option (Fin 4096))) :=
  let here := fun (k : Option CoreId) => match k with
    | some k => if lwDv w then .ok (some (k, lwDbo w), none) else .ok (none, none)
    | none => .error (errBounds w)
  match p with
  | .member g rank =>
    match s.groupAt c g with
    | none => .error (errBounds w)
    | some x =>
      let p := Fin.ofNat 32 (x.part rank.val)
      if s.isSelf x rank.val then here (((s.numbering p)[(lwDcore w).toNat]?).filter (s.holds p))
      else if 128 ≤ (lwDcore w).toNat then .error (errBounds w)
      else .ok (none, some (lwDcore w, if lwDv w then some (lwDbo w) else none))
  | _ => if lwKind w = 1 ∧ lwDv w then here (s.vcoreOf c core) else here (some c)

/-! ## Ends of a command -/

/-- Who performs an end: an LM bank, this module's memory, or another module. -/
inductive End | lm (k : CoreId) | mem (x : Ctx) | far (g : Fin 64) (rank : Fin 64)

def State.endOf (s : State) (c : CoreId) : Place → End
  | .lm k => .lm k
  | .va => .mem { s.coreCtx c with copy := some c }
  | .member g rank =>
    match s.groupAt c g with
    | some x => if s.isSelf x rank.val then .mem ⟨Fin.ofNat 32 (x.part rank.val), x.fctx, dieOf c, some c⟩ else .far g rank
    | none => .far g rank

/-- Typical latency of an end at an address (09 R154, R177). -/
def State.endLat (s : State) (c : CoreId) (e : End) (va : W64) : Nat :=
  match e with
  | .lm _ => 0
  | .far .. => 1900
  | .mem x =>
    match s.translate x va false false with
    | .ok (_, a, w) => siteTicks s c ⟨va, 1, a, w⟩
    | .error _ => 0

/-- The sluice that an end's unit at an address charges (15 R277). -/
def State.endClass (s : State) (c : CoreId) (e : End) (va : W64) : Fin 3 :=
  match e with
  | .lm _ | .far .. => 0
  | .mem x =>
    match s.translate x va false false with
    | .ok (_, a, w) => s.siteClass (dieOf c) a w
    | _ => 0

/-- The members whose data MLR reads, in ascending rank; else the one source. -/
def sourceEnds (s : State) (c : CoreId) (q : QEntry) (sp : Place) : List End :=
  match q.ins, sp with
  | .mlr .., .member g _ =>
    match s.groupAt c g with
    | some x => (List.range x.nmem).map (fun k => s.endOf c (.member g (Fin.ofNat 64 k)))
    | none => []
  | _, p => [s.endOf c p]

/-- The tighter of two sluices. -/
def tighter (a b : Fin 3) : Fin 3 := if a < b then b else a

/-- The sluice of one unit: the tightest among its sources and its destination. -/
def unitClass (s : State) (c : CoreId) (q : QEntry) (src dst : Rec) (ss : List End) (e : End) (u : Nat) : Fin 3 :=
  let p := unitPlan q src dst u false
  (ss.flatMap (fun x => p.rd.map (fun r => s.endClass c x r.1)) ++ p.wr.map (fun r => s.endClass c e r.1)).foldl tighter 0

/-- The path of a command: the tightest sluice of its units, and its latency; of several sources or destinations the longest
counts (09 R154, R177, 15 R279). -/
def State.copyPath (s : State) (c : CoreId) (q : QEntry) (sp : Place) (dps : List Place) (src dst : Rec) : Fin 3 × Nat :=
  let ss := sourceEnds s c q sp
  let es := dps.map (s.endOf c)
  let cls := (es.flatMap (fun e => (List.range (copyUnits q dst)).map (unitClass s c q src dst ss e))).foldl tighter 0
  let between := fun (a b : End) => match a, b with
    | .lm x, .lm y => 96 + 180 * s.route (dieOf x) (dieOf y)
    | _, _ => s.endLat c a (recBase src) + s.endLat c b (recBase dst)
  (cls, (ss.flatMap (fun a => es.map (between a))).foldl max 0)

/-- Bytes of the core's earlier commands that have not moved on a path. -/
def Core.queued (k : Core) (path : Fin 3) (id : Nat) : Nat :=
  (k.copies.toList.map (fun y => match y with
    | some y => if y.path = path ∧ y.q.id < id then y.left else 0
    | none => 0)).sum

/-- The promised tick of N bytes behind Q (09 R177, 15 R279). -/
def promiseAt (s : State) (c : CoreId) (path : Fin 3) (lat queued n : Nat) : W64 :=
  let g := sluiceGrant (s.quad (quadOf c)).eff path
  s.cyc + BitVec.ofNat 64 (lat + ((queued + n) * 1024 + g - 1) / g)

/-! ## Release flags at their receiver (09 R186) -/

/-- The acknowledgement of a flag goes back; to this module itself it is an event. -/
def ackFlag (p : PartId) (g rank : Fin 64) (self : Bool) (m : FlagMsg) (s : State) : State :=
  if self then s.later 1900 (.rlsAckReceived p g rank m.sseq) else s

/-- A flag whose data have all come is written once and acknowledged, a duplicate only acknowledged. -/
def applyFlag (p : PartId) (g rank : Fin 64) (x : Group) (m : FlagMsg) (s : State) : State :=
  let self := s.isSelf x rank.val
  match (s.part p).groups.get g with
  | none => s
  | some y =>
    if serialGe (y.chans.get rank).rseq m.sseq then ackFlag p g rank self m s
    else
      let s := updChan p g rank (fun ch => { ch with rseq := m.sseq }) s
      let va := x.flagva + BitVec.ofNat 64 (8 * m.flag.toNat)
      match s.writeVa ⟨p, x.fctx, 0, none⟩ va (toBytes 8 m.val.toNat) with
      | .ok s => ackFlag p g rank self m s
      | .error _ => s

/-- Held flags whose data have come. -/
def releaseFlags (p : PartId) (g rank : Fin 64) (s : State) : State :=
  match (s.part p).groups.get g with
  | none => s
  | some x =>
    let ch := x.chans.get rank
    let go := ch.heldFlags.filter (fun m => serialGe ch.rcnt m.scnt)
    let s := updChan p g rank (fun ch => { ch with heldFlags := ch.heldFlags.filter (fun m => !serialGe ch.rcnt m.scnt) }) s
    go.foldl (fun s m => applyFlag p g rank x m s) s

/-- RCNT goes on past writes performed ahead of their turn. -/
def Channel.catchUp : Nat → Channel → Channel
  | 0, ch => ch
  | n + 1, ch =>
    if ch.ahead.contains (ch.rcnt + 1) then Channel.catchUp n { ch with rcnt := ch.rcnt + 1, ahead := ch.ahead.erase (ch.rcnt + 1) }
    else ch

/-- The channel's writes of `n` numbers from `num` on have been performed. -/
def Channel.performed (num : W32) (n : Nat) (ch : Channel) : Channel :=
  let ch := { ch with ahead := ch.ahead ++ (List.range n).map (fun i => num + BitVec.ofNat 32 i) }
  ch.catchUp ch.ahead.length

/-- Writes to this module's own rank have been applied: no link carries them, and RCNT counts those before which none is missing
(14 R270). -/
def selfApplied (p : PartId) (g rank : Fin 64) (num : W32) (n : Nat) (s : State) : State :=
  releaseFlags p g rank (updChan p g rank (Channel.performed num n) s)

/-! ## What is told of bytes that do not move (09 R178, R185) -/

/-- Messages of runs that do not move: each run is counted at the member with the error. -/
def tellRuns (p : PartId) (g rank : Fin 64) (num : W32) (obj : Option (Byte × Option (Fin 4096))) (e : Err) (runs : List (W64 × Nat))
    (s : State) : State :=
  ((List.range runs.length).zip runs).foldl (fun s x =>
    sendFabric p g rank
      { num := num + BitVec.ofNat 32 x.1, ppa := false, va := x.2.1, bytes := List.replicate x.2.2 0, comb := none,
        obj := obj, err := some (e.code, e.det), via := none } s) s

/-- The rest of a target, from a unit on: its object counts the bytes with the error, here or at the member, and the messages
that were reserved for it are used up. -/
def endTarget (c : CoreId) (y : Copy) (t : Target) (from_ : Nat) (e : Err) (s : State) : State :=
  let p := (s.coreCtx c).part
  let runs := runsFrom y.q y.src y.dst from_
  let s := match t.obj with
    | some (k, bo) => sendCount k bo (some t.left) (some e) s
    | none => s
  match t.place with
  | .member g rank =>
    match s.endOf c t.place with
    | .far .. => tellRuns p g rank t.num t.far e runs s
    | _ => selfApplied p g rank t.num runs.length s
  | _ => s

/-- A target that awaited a refused command is told: the bytes of its share, or what it still expects. -/
def tellRefused (c : CoreId) (t : Target) (n : Option Nat) (e : Err) (s : State) : State :=
  let s := match t.obj with
    | some (k, bo) => sendCount k bo n (some e) s
    | none => s
  match t.place, t.far with
  | .member g rank, some (_, some _) =>
    let p := (s.coreCtx c).part
    if t.failed then s
    else
      let (num, s) := reserveNums p g rank 1 s
      tellRuns p g rank num t.far e [(0, n.getD 0)] s
  | _, _ => s

/-- A fault record of a copy or fabric command (20 R310: SRC 1). -/
def copyFault (c : CoreId) (q : QEntry) (e : Err) (addr : W64) (s : State) : State := coreFault c q.berth e.code 1 e.det addr s

def issuerObj (q : QEntry) : Fin 4096 := Fin.ofNat 4096 q.ref

/-- A command is refused: nothing moves, and its count goes with the error into every object that awaits it; without
a count, what each still expects (09 R178). -/
def refuse (c : CoreId) (q : QEntry) (n : Option Nat) (ts : List Target) (e : Err) (addr : W64) (s : State) : State :=
  let s := copyFault c q e addr s
  let s := sendCount c (issuerObj q) n (some e) s
  let s := ts.foldl (fun s t => tellRefused c t (n.map (fun _ => t.left)) e s) s
  s.updCore c (fun k => k.counted q.id)

/-- Put a command into a slot. -/
def Core.setCopy (k : Core) (i : Fin 8) (y : Option Copy) : Core := { k with copies := k.copies.set i.val y i.isLt }

/-- The first free slot of the eight. -/
def Core.freeCopy (k : Core) : Option (Fin 8) := (List.finRange 8).find? (fun i => (k.copies.get i).isNone)

/-- A command is in flight: its promise is written, and its units move from `delay` ticks on. -/
def launchCopy (c : CoreId) (y : Copy) (lat delay : Nat) (s : State) : State :=
  let k := s.core c
  match k.freeCopy with
  | none => s
  | some i =>
    let ahead := k.queued y.path y.q.id
    (promise c (issuerObj y.q) (promiseAt s c y.path lat ahead y.left) s).updCore c (fun k =>
      k.setCopy i (some { y with at_ := s.cyc + BitVec.ofNat 64 delay, ahead := ahead, bytes := y.left }))

/-- A command without records. -/
def plainCopy (q : QEntry) : Copy :=
  { q := q, src := .replicate 8 0, dst := .replicate 8 0, srcPlace := .va, targets := [], unit := 0, sent := false, lines := .start,
    left := 8, digest := [], at_ := 0, ahead := 0, bytes := 0, path := 0 }

/-! ## Acceptance (09 R173, R176 to R178) -/

/-- The head of the copy queue, when it may be accepted. -/
def acceptable (s : State) (c : CoreId) : Option QEntry :=
  let k := s.core c
  match k.cpyQ with
  | [] => none
  | q :: _ =>
    if s.commOf c && !k.stopped && k.freeCopy.isSome && !k.acc.any (fun a => a.bo && decide (a.berth = q.berth ∧ a.id < q.id)) then
      some q
    else none

/-- A target of a command's data. -/
def mkTarget (s : State) (c : CoreId) (w : W64) (p : Place) (core bit_ n : Nat) : Except Err Target := do
  let (o, f) ← destObj s c w p core
  .ok { place := p, bit := bit_, obj := o, far := f, left := n, failed := false, num := 0 }

/-- The targets of a command's destination word, each with the error that refuses the command. -/
def targetsOf (s : State) (c : CoreId) (q : QEntry) (dst : Rec) (told : W64) (n : Nat) : List (Except Err Target) :=
  let w := val0 q 0
  let bits := fun (m : W64) => (List.range 64).filter (fun i => bit m i)
  match q.ins with
  | .cpym .. =>
    (bits (val0 q 2)).map (fun i =>
      match s.vcoreOf c (lwCore w + i) with
      | none => .error (errBounds w)
      | some k => mkTarget s c w (if recLm dst then .lm k else .va) (lwCore w + i) i n)
  | .mst .. =>
    (bits (val0 q 2)).map (fun i =>
      match s.groupAt c (lwGrp w) with
      | none => .error (errBounds w)
      | some g =>
        if g.nmem ≤ i then .error (errBounds w)
        else do
          let t ← mkTarget s c w (.member (lwGrp w) (Fin.ofNat 64 i)) 0 i n
          .ok (if bit (s.absentRanks g told) i then { t with failed := true } else t))
  | _ => [do
    let p ← placeOf s c w dst told
    mkTarget s c w p (lwCore w) 0 n]

/-- The targets that stand, and the first error. -/
def goodTargets (l : List (Except Err Target)) : List Target :=
  l.filterMap (fun x => match x with
    | .ok t => some t
    | .error _ => none)
def firstError (l : List (Except Err Target)) : Option Err :=
  l.findSome? (fun x => match x with
    | .ok _ => none
    | .error e => some e)

/-- Every target takes the numbers of its messages, sent or not (14 R270). -/
def reserveAll (c : CoreId) (q : QEntry) (src dst : Rec) (ts : List Target) (s : State) : List Target × State :=
  let n := (runsFrom q src dst 0).length
  ts.foldl (fun x t => match t.place with
    | .member g rank =>
      if t.failed then (x.1 ++ [t], x.2)
      else
        let (num, s) := reserveNums (s.coreCtx c).part g rank n x.2
        (x.1 ++ [{ t with num := num }], s)
    | _ => (x.1 ++ [t], x.2)) ([], s)

/-- The source's place; MLR reads every member, all of which must be present. -/
def sourceOf (s : State) (c : CoreId) (q : QEntry) (src : Rec) (told : W64) : Except Err Place :=
  let w := val0 q 1
  match q.ins with
  | .mlr .. =>
    match s.groupAt c (lwGrp w) with
    | none => .error (errBounds w)
    | some g =>
      let gone := s.absentRanks g told
      if gone ≠ 0 then .error (errAbsent gone) else .ok (.member (lwGrp w) 0)
  | _ => placeOf s c w src told

/-- Every byte of an end in LM lies in a window that is present. -/
def lmEndOk (s : State) (p : Place) (q : QEntry) (src dst : Rec) (write : Bool) : Bool :=
  match p with
  | .lm k => (List.range (copyUnits q dst)).all (fun u =>
      let x := unitPlan q src dst u false
      (if write then x.wr else x.rd).all (fun r => s.lmOk k r.1.toNat r.2))
  | _ => true

/-- The byte count N of a copy, and its share at each target: all that it writes, the scale area of a block format too (09 R178). -/
def copyBytes (q : QEntry) (dst : Rec) : Nat :=
  if isBlock (recFmt dst) then ((List.range (copyUnits q dst)).map (unitCount q dst)).sum else (q.rep + 1) * recBytes dst
def extraBytes : Instr → Nat
  | .cpyd .. => 32
  | _ => 0

/-- A record of memory for a command whose own cannot be read. -/
def noRecord : Rec := .replicate 8 0

/-- Acceptance of a command that names records. -/
def acceptRecords (c : CoreId) (q : QEntry) (told : W64) (s : State) : State :=
  let waiting := fun (s : State) => goodTargets (targetsOf s c q noRecord told 0)
  match headRec c q.id (lwTid (val0 q 0)) s with
  | .error f => refuse c q none (waiting s) f.err f.addr (countError f s)
  | .ok (dst, s) =>
    if recState dst ≠ .good then refuse c q none (waiting s) errShape 0 s
    else
      let n := copyBytes q dst
      let l := targetsOf s c q dst told n
      let ts := goodTargets l
      let all := n * l.length + extraBytes q.ins
      match firstError l with
      | some e => refuse c q (some all) ts e 0 s
      | none =>
        match headRec c q.id (lwTid (val0 q 1)) s with
        | .error f => refuse c q (some all) ts f.err f.addr (countError f s)
        | .ok (src, s) =>
          if recState src ≠ .good || !shapesOk q.ins src dst then refuse c q (some all) ts errShape 0 s
          else match sourceOf s c q src told with
            | .error e => refuse c q (some all) ts e 0 s
            | .ok sp =>
              if !lmEndOk s sp q src dst false then refuse c q (some all) ts (errBounds (val0 q 1)) 0 s
              else if ts.any (fun t => !lmEndOk s t.place q src dst true) then
                refuse c q (some all) ts (errBounds (val0 q 0)) 0 s
              else
                let (path, lat) := s.copyPath c q sp (ts.map (fun t => t.place)) src dst
                let (ts, s) := reserveAll c q src dst ts s
                launchCopy c { q := q, src := src, dst := dst, srcPlace := sp, targets := ts, unit := 0, sent := false,
                               lines := .start, left := all, digest := [], at_ := 0, ahead := 0, bytes := 0, path := path } lat lat s

/-- The lowest-numbered installed group of a partition. -/
def Partition.firstGroup (p : Partition) : Option (Fin 64) := (List.finRange 64).find? (fun i => (p.groups.get i).isSome)

/-- The group whose flag words an ACQW reads (09 R186). -/
def acqGroup (p : Partition) (flag : W64) : Option (Fin 64) :=
  if bit flag 12 then
    let g := Fin.ofNat 64 (fld flag 18 13)
    if (p.groups.get g).isSome then some g else none
  else p.firstGroup

def errDown (flag : W64) : Err := ⟨0x0A, BitVec.ofNat 64 (fld flag 18 13)⟩

/-- RLS at acceptance: the sequence number advances and the message goes (09 R186). -/
def acceptRls (c : CoreId) (q : QEntry) (told : W64) (s : State) : State :=
  let w := val0 q 0
  let p := (s.coreCtx c).part
  let g := Fin.ofNat 64 (fld w 5 0)
  let rank := Fin.ofNat 64 (fld w 11 6)
  match (s.part p).groups.get g with
  | none => refuse c q (some 8) [] (errBounds w) 0 s
  | some x =>
    if x.nmem ≤ rank.val then refuse c q (some 8) [] (errBounds w) 0 s
    else if bit (s.absentRanks x told) rank.val then refuse c q (some 8) [] (errAbsent (1#64 <<< rank.val)) 0 s
    else
      let ch := x.chans.get rank
      let m : FlagMsg := { scnt := ch.scnt, sseq := ch.sseq + 1, flag := BitVec.ofNat 12 (fld w 23 12),
                           val := val0 q 1, via := s.portTo (x.mod rank.val) }
      let s := updChan p g rank (fun ch => { ch with sseq := ch.sseq + 1, unackedFlags := ch.unackedFlags ++ [m] }) s
      let s := if s.isSelf x rank.val then
          s.later 1900 (.rlsMessageReceived p g rank m.scnt m.sseq m.flag m.val)
        else s.updCore c (fun k => k.count 4 (s.route (dieOf c) (s.portDie (x.mod rank.val))))
      launchCopy c { plainCopy q with sent := true, digest := toBytes 4 m.sseq.toNat } 1900 1900 s

/-- Typical latency of reading the flag word that an ACQW names (09 R177, R186). -/
def flagLat (s : State) (c : CoreId) (g : Fin 64) (flag : W64) : Nat :=
  match s.groupAt c g with
  | none => 0
  | some x =>
    s.endLat c (.mem ⟨(s.coreCtx c).part, x.fctx, dieOf c, none⟩) (x.flagva + BitVec.ofNat 64 (8 * fld flag 11 0))

/-- Records that a command reads at its acceptance, its destination's first (DESIGN CHOICE, log 80). -/
def copyTids (q : QEntry) : List (Nat × Nat) :=
  match q.ins with
  | .rls .. | .acqw .. | .agset .. => []
  | _ => [(q.id, lwTid (val0 q 0)), (q.id, lwTid (val0 q 1))]

/-- A command that needs members of a group: R346's conditions that other modules' state decides are a free value at its acceptance
(log 82). -/
def needsMembers (q : QEntry) : Bool :=
  match q.ins with
  | .rls .. => true
  | .acqw .. | .agset .. => false
  | _ => decide (lwKind (val0 q 0) = 2 ∨ lwKind (val0 q 1) = 2)

/-- Acceptance of the head of the queue, once its records have been read. -/
def execCopyAccept (c : CoreId) (absent : W64) (s : State) : Out :=
  match acceptable s c with
  | none => .next s
  | some q =>
    match recsMore c (copyTids q) s with
    | some t => .next (t.push [.copyAccept c absent])
    | none =>
      let absent := if needsMembers q then absent ||| Config.free s.free else absent
      let s := if needsMembers q then { s with free := s.free + 1 } else s
      let s := s.updCore c (fun k => ({ k with cpyQ := k.cpyQ.drop 1 } : Core).perform q.id 4)
      .next (match q.ins with
        | .rls .. => acceptRls c q absent s
        | .acqw .. =>
          match acqGroup (s.part (s.coreCtx c).part) (val0 q 0) with
          | some g =>
            let lat := flagLat s c g (val0 q 0)
            launchCopy c { plainCopy q with srcPlace := .member g 0 } lat lat s
          | none => refuse c q (some 8) [] (errDown (val0 q 0)) 0 s
        | .agset .. =>
          (launchCopy c (plainCopy q) 200 0 s).push (((s.core c).freeCopy.map (fun i => Ev.copyUnitPerformed c i .ok)).toList)
        | _ => acceptRecords c q absent s)

/-! ## A unit (09 R178) -/

/-- One half of a unit: it waits for an answer, meets a fault, or may go on. -/
inductive Half | wait | fault (f : AFault) | ok (rd : Reader) (l : List (Seg × TlbE))

def isModule : Site → Bool
  | .module .. => true
  | _ => false

/-- Read ranges at an end. -/
def readHalf (s : State) (g : Lines) (e : End) (runs : List (W64 × Nat)) (data : Option (List Byte)) : Half :=
  match e with
  | .lm k =>
    match lmFault s k runs [] with
    | some l => .fault (.uceLm l)
    | none => .ok (fun a => s.lmByte k a.toNat) []
  | .far .. =>
    match data with
    | some bs => .ok (memReader s g (runs.map (fun r => ⟨r.1, r.2, 0, .host⟩)) (some bs)) []
    | none => .wait
  | .mem x =>
    match s.ranges x true false runs with
    | .error f => .fault f
    | .ok l =>
      let segs := l.map (fun g => g.1)
      match segs.findSome? (fun g => s.badIn g.dpa g.len) with
      | some b => .fault (.uce b)
      | none =>
        if segs.any (fun g => isModule g.site) then
          match data with
          | some bs => .ok (memReader s g segs (some bs)) l
          | none => .wait
        else .ok (memReader s g segs none) l

/-- Ranges to be written at an end. -/
def writeHalf (s : State) (e : End) (runs : List (W64 × Nat)) (upd : Bool) : Half :=
  match e with
  | .mem x =>
    match s.ranges x upd true runs with
    | .error f => .fault f
    | .ok l =>
      let segs := l.map (fun g => g.1)
      match segs.findSome? (fun g => if upd then s.badIn g.dpa g.len else s.partBad g.dpa g.len) with
      | some b => .fault (.uce b)
      | none => .ok (memReader s .start segs none) l
  | .lm k =>
    match lmFault s k (if upd then runs else []) runs with
    | some l => .fault (.uceLm l)
    | none => .ok (fun a => s.lmByte k a.toNat) []
  | .far .. => .ok (fun _ => 0) []

/-- Read every source; the answer's data hold those of other modules one after another. -/
def readAll (s : State) (g : Lines) (runs : List (W64 × Nat)) : List End → Option (List Byte) →
    Except (Option AFault) (List Reader × List (Seg × TlbE))
  | [], _ => .ok ([], [])
  | e :: r, data => do
    let (f, l) ← (match readHalf s g e runs data with
      | .wait => .error none
      | .fault f => .error (some f)
      | .ok f l => .ok (f, l))
    let n := (runs.map (fun x => x.2)).sum
    let (fs, ls) ← readAll s g runs r (match e with | .far .. => data.map (fun bs => bs.drop n) | _ => data)
    .ok (f :: fs, l ++ ls)

/-- How a unit ends: it waits, meets a fault, has gone to another module, or is performed. -/
inductive UnitEnd | wait (s : State) (g : Lines) | fault (f : AFault) | sent (s : State) (data : List Byte) (nums : List (Fin 64 × Fin 64 × W32))
  | done (s : State) (data : List Byte)

/-- Messages of a unit to other modules. -/
def sendUnit (c : CoreId) (y : Copy) (t : Target) (e : End) (p : UnitPlan) (l : List Seg) (ps : List Put) (s : State) : State :=
  let part := (s.coreCtx c).part
  let comb := (combines y.q.ins).map (fun k => (k, recFmt y.dst))
  match e with
  | .far g rank => ((List.range p.wr.length).zip p.wr).foldl (fun s x =>
      sendFabric part g rank
        { num := t.num + BitVec.ofNat 32 x.1, ppa := false, va := x.2.1, bytes := bytesFor ⟨x.2.1, x.2.2, 0, .host⟩ ps,
          comb := comb, obj := t.far, err := none, via := none } s) s
  | _ => l.foldl (fun s g => match g.site with
      | .module m ppa => sendPpa part m ppa (bytesFor g ps) comb s
      | _ => s) s

/-- The unit's messages have been acknowledged. -/
def ackUnit (c : CoreId) (e : End) (p : UnitPlan) (t : Target) (nums : List (Fin 64 × Fin 64 × W32)) (s : State) : State :=
  let part := (s.coreCtx c).part
  match e with
  | .far g rank => updChan part g rank (Channel.acked (t.num + BitVec.ofNat 32 p.wr.length - 1)) s
  | _ => ackOut part nums s

/-- Copied bytes that fall into a resident code image reach instruction memory with it (07 R122; log 63). -/
def patchImages (x : Ctx) (ps : List Put) (s : State) : State :=
  { s with dies := s.dies.map (fun d => { d with images := d.images.map (fun m =>
      if m.part = x.part ∧ m.ctx = x.ctx then
        { m with bytes := ps.foldl (fun b p =>
            let o := (p.addr - m.code).toNat
            if o < 16 * m.csize then b.write o ((b.read o &&& p.keep) ||| p.val) else b) m.bytes }
      else m) }) }

/-- Towpath hops that an end's requests of a unit cross (03 R40). -/
def endHops (s : State) (c : CoreId) (e : End) (l : List Seg) : Nat :=
  match e with
  | .lm k => s.route (dieOf c) (dieOf k)
  | .far g rank => ((s.groupAt c g).map (fun x => s.route (dieOf c) (s.portDie (x.mod rank.val)))).getD 0
  | .mem _ => (l.map (siteHops s c)).sum

/-- A write that goes to another module finds its channel open. -/
def goesOpen (s : State) (c : CoreId) (e : End) (ws : List Seg) : Bool :=
  match e with
  | .far g rank => s.chanOpen (s.coreCtx c).part g rank
  | _ => s.outOpen (s.coreCtx c).part ws

/-- What a unit leaves where it is performed by this module: LM, memory besides lines of HBM, code images, translations and the
counts of its requests. -/
def landUnit (c : CoreId) (e : End) (se : List End) (rl wl : List (Seg × TlbE)) (wr : List (W64 × Nat)) (ps : List Put)
    (s : State) : State :=
  let ws := wl.map (fun g => g.1)
  let own : Ctx := { s.coreCtx c with copy := some c }
  let hopped := endHops s c e ws + (match se with
    | [.mem x] => endHops s c (.mem x) (rl.map (fun g => g.1))
    | l => (l.map (fun x => endHops s c x [])).sum)
  let s := s.updCore c (fun k => k.count 4 hopped)
  let s := rl.foldl (fun s g => useSync g.1 (useEntry own g.2 s)) s
  match e with
  | .lm k => lmMended k wr (lmApply k ps s)
  | .far .. => s
  | .mem x =>
    let s := wl.foldl (fun s g => useSync g.1 (useEntry x g.2 s)) s
    patchImages x ps (ws.foldl (fun s g => clearBad g.dpa g.len s) (memApply ws (elsewhere ws ps) s))

/-- A module of an accepted command's ends that no path reaches any more: LINK, whose DET has bit 63 set and the module's
number (09 R174, 22 R345); an LM behind a towpath that is cut (01 R16); and an LM that the partition has released, which has no VA
(21 R336; DESIGN CHOICE, log 88: XLATE with DET 0). -/
def State.lostEnd (s : State) (c : CoreId) (es : List End) : Option AFault :=
  es.findSome? (fun e => match e with
    | .far g rank => (s.groupAt c g).bind (fun x =>
        if s.isSelf x rank.val || bit s.domMods (x.mod rank.val) then none else some (lostModule (x.mod rank.val)))
    | .lm k =>
      if k ≠ c ∧ !s.holds (s.coreCtx c).part k then some (.xlate 0)
      else if arcUp s (dieOf c).val (dieOf k).val then none
      else (s.hopsDown.head?).map (fun j => .link (jointLink j))
    | .mem _ => none)

/-- The run of a unit that an answer of the host, or of another module, is about: the first that stands outside (22 R340). -/
def State.hostSeg (s : State) (es : List End) (runs : List (W64 × Nat)) : Seg :=
  (es.findSome? (fun e => match e with
    | .mem x => match s.ranges x false false runs with
      | .ok l => (l.map (fun g => g.1)).find? (fun g => outside g.site)
      | .error _ => none
    | _ => none)).getD ⟨(runs.headD (0, 0)).1, 128, 0, .hbm⟩

/-- Perform a unit at a target: the lines of its sources are read as their tokens come, then those of its destination are
written, and then the rest is. -/
def runUnit (c : CoreId) (y : Copy) (t : Target) (r : Reply) (s : State) : UnitEnd :=
  let e := s.endOf c t.place
  let far := match e with | .far .. => true | _ => false
  let p := unitPlan y.q y.src y.dst y.unit false
  let d := dieOf c
  let home := p.upd
  let ch := ((headOf y.q.ins).map (fun h => h.ch)).getD .normal
  let se := sourceEnds s c y.q y.srcPlace
  match (replyFault r (s.hostSeg (e :: se) (p.rd ++ p.wr))).or (s.lostEnd c (e :: se)) with
  | some f => .fault f
  | none =>
    match writeHalf s e p.wr (p.upd && !far) with
    | .wait => .wait s y.lines
    | .fault f => .fault f
    | .ok _ wl =>
      let ws := wl.map (fun g => g.1)
      let goes := far || ws.any (fun g => isModule g.site)
      if y.sent then (if (replyData r).isSome then .done (ackUnit c e p t y.lines.nums s) [] else .wait s y.lines)
      else
        let data := y.lines.data.or (replyData r)
        let g := { y.lines with data := data }
        match readAll s g p.rd se data with
        | .error none => .wait s g
        | .error (some f) => .fault f
        | .ok (_, rl) =>
          let rn := hbmLines (rl.map (fun g => g.1))
          let wn := hbmLines ws
          let x := readLines d ch rn (lookLines c home true wn (lookLines c false false rn (g, s)))
          if x.1.unread rn ≠ [] then .wait (askTokens d (x.1.unread rn) false false x.2) x.1
          else match readAll x.2 x.1 p.rd se data with
            | .error _ => .wait x.2 x.1
            | .ok (fs, _) =>
              let old := fun (u : State) => match writeHalf u e p.wr (p.upd && !far) with
                | .ok f _ => f
                | _ => fun _ => 0
              let z := writeLines d home ch ws (fun u => p.puts fs (old u)) x
              let s := z.2
              if z.1.unwritten wn ≠ [] then .wait (askTokens d (z.1.unwritten wn) true home s) z.1
              else if goes && !goesOpen s c e ws then .wait s z.1
              else
                let s' := landUnit c e se rl wl p.wr (p.puts fs (old s)) s
                if goes then
                  let q := unitPlan y.q y.src y.dst y.unit true
                  let u := sendUnit c y t e p ws (q.puts fs (old s)) s'
                  .sent u (p.data fs) (u.lastNums (s.coreCtx c).part ws)
                else .done s' (p.data fs)

/-! ## Progress of a command -/

/-- The first unit of a target of which nothing has gone: the one in work, or the one after it. -/
def Copy.nextUnit (y : Copy) : Nat := if y.sent then y.unit + 1 else y.unit

/-- The target in work. -/
def Copy.current (y : Copy) : Option (Nat × Target) :=
  ((List.range y.targets.length).zip y.targets).find? (fun x => !x.2.failed && decide (0 < x.2.left))

/-- Mask of failed targets. -/
def Copy.failMask (y : Copy) : W64 := y.targets.foldl (fun a t => if t.failed then a ||| (1#64 <<< t.bit) else a) 0

def Copy.multi (y : Copy) : Bool :=
  match y.q.ins with
  | .cpym .. | .mst .. => true
  | _ => false

/-- All units are through: the digest is written and the rest is counted (09 R181, R183, R185). -/
def endCopy (c : CoreId) (i : Fin 8) (y : Copy) (s : State) : State :=
  let bo := issuerObj y.q
  let s := match y.q.ins with
    | .cpyd .. => s.lmStore c ((val0 y.q 2).toNat % 2 ^ 22) (sha256 y.digest)
    | _ => s
  let e : Option Err := if y.failMask = 0 then none else some ⟨0x05, y.failMask⟩
  let s := match e with
    | some e => copyFault c y.q e 0 s
    | none => s
  let s := if y.left = 0 && e.isNone then s else sendCount c bo (some y.left) e s
  s.updCore c (fun k => (k.setCopy i none).counted y.q.id)

/-- The target in work as its rest is told: the messages of a unit that has gone keep their numbers. -/
def Copy.sentTarget (y : Copy) (t : Target) : Target :=
  if y.sent then { t with num := t.num + BitVec.ofNat 32 (unitPlan y.q y.src y.dst y.unit false).wr.length } else t

/-- A fault ends a command with one target, and one target of a command with several. -/
def failUnit (c : CoreId) (i : Fin 8) (y : Copy) (n : Nat) (t : Target) (f : Err) (addr : W64) (s : State) : State :=
  let t := y.sentTarget t
  let s := endTarget c y t y.nextUnit f (copyFault c y.q f addr s)
  if y.multi then
    let y := { y with targets := y.targets.set n { t with failed := true }, unit := 0, sent := false, lines := .start }
    if y.current.isSome then s.updCore c (fun k => k.setCopy i (some y)) else endCopy c i y s
  else
    (sendCount c (issuerObj y.q) (some y.left) (some f) s).updCore c (fun k => (k.setCopy i none).counted y.q.id)

/-- A unit's bytes have been performed: they are counted, and the command goes on. -/
def unitDone (c : CoreId) (i : Fin 8) (y : Copy) (n : Nat) (t : Target) (data : List Byte) (s : State) : State :=
  let k := unitCount y.q y.dst y.unit
  let runs := (unitPlan y.q y.src y.dst y.unit false).wr.length
  let s := sendCount c (issuerObj y.q) (some k) none s
  let s := match t.obj with
    | some (o, bo) => sendCount o bo (some k) none s
    | none => s
  let s := match t.place with
    | .member g rank => match s.endOf c t.place with
      | .far .. => s
      | _ => selfApplied (s.coreCtx c).part g rank t.num runs s
    | _ => s
  let left := t.left - k
  let y := { y with targets := y.targets.set n { t with left := left, num := t.num + BitVec.ofNat 32 runs },
                    unit := if left = 0 then 0 else y.unit + 1, sent := false, lines := .start, left := y.left - k,
                    digest := y.digest ++ data }
  if y.current.isSome then s.updCore c (fun x => x.setCopy i (some y)) else endCopy c i y s

/-- Bytes per 1,024 ticks that a path grants a core's quad (15 R277, R279). -/
def State.grantOf (s : State) (c : CoreId) (path : Fin 3) : Nat := sluiceGrant (s.quad (quadOf c)).eff path

/-- Under typical conditions the bytes of a count are performed at the rate of the promise, from its latency on: the
next `n` may be (09 R177). -/
def Copy.paced (y : Copy) (s : State) (c : CoreId) (n : Nat) : Bool :=
  let d := (s.cyc - y.at_).toNat * s.grantOf c y.path / 1024
  decide (y.ahead + y.bytes ≤ d) || decide (y.ahead + (y.bytes - y.left) + n ≤ d)

/-- Units of a path's grant that may go in one tick, with what a fraction leaves over. -/
def State.unitsPerTick (s : State) (c : CoreId) (path : Fin 3) : Nat := s.grantOf c path / (1024 * 128) + 2

/-- Where a copy's end stands for the core's die, and whether its data come in by a joint or a port. -/
def State.endOn (s : State) (c : CoreId) (va : W64) (wr : Bool) : End → DieId × Bool
  | .lm k => (dieOf k, false)
  | .far g rank => (((s.groupAt c g).map (fun x => s.portDie (x.mod rank.val))).getD 0, true)
  | .mem x =>
    match s.translate x va false false with
    | .ok (_, a, .hbm) =>
      if !wr && ((s.tokLine (a / 128)).rdc.get (dieOf c)).valid then (dieOf c, false) else s.standsOn a .hbm
    | .ok (_, a, w) => s.standsOn a w
    | .error _ => (dieOf c, false)

/-- The dies that a copy's unit enters between its sources and its destination (15 R280). -/
def copyDies (s : State) (c : CoreId) (y : Copy) (t : Target) : List DieId :=
  let p := unitPlan y.q y.src y.dst y.unit false
  let dst := (s.endOn c (p.wr.headD (0, 0)).1 true (s.endOf c t.place)).1
  (sourceEnds s c y.q y.srcPlace).flatMap (fun e => entered (s.endOn c (p.rd.headD (0, 0)).1 false e) dst)

/-- A unit waits for the walks of its pages (21 R326). -/
def unitWalks (c : CoreId) (y : Copy) (t : Target) (s : State) : Option State :=
  let p := unitPlan y.q y.src y.dst y.unit false
  let at_ := fun (e : End) (l : List (W64 × Nat)) => match e with
    | .mem x => [(x, l)]
    | .lm _ | .far .. => []
  ((sourceEnds s c y.q y.srcPlace).flatMap (fun e => at_ e p.rd) ++ at_ (s.endOf c t.place) p.wr).findSome? (fun e =>
    awaitWalks e.1 e.2 s)

/-- A copy's next unit; once it has gone to another module, its answer is awaited. -/
def moveCopy (c : CoreId) (i : Fin 8) (y : Copy) (r : Reply) (s : State) : State :=
  match y.current with
  | none => endCopy c i y s
  | some (n, t) =>
    let cls := unitClass s c y.q y.src y.dst (sourceEnds s c y.q y.srcPlace) (s.endOf c t.place) y.unit
    if y.sent && decide (r = .bounds) then failUnit c i y n t (errBounds (val0 y.q 0)) 0 s
    else if !y.sent && !y.paced s c (unitCount y.q y.dst y.unit) then s
    else match (if y.sent then none else unitWalks c y t s) with
    | some s => s
    | none =>
    match (if y.sent then some s else letIn c cls (copyDies s c y t) s) with
    | none => s
    | some s' =>
      match runUnit c y t r s' with
      | .wait s'' g => ({ s'' with quads := s.quads,
                                   dies := Vector.zipWith (fun (a b : Die) => { a with ingress := b.ingress }) s''.dies s.dies }).updCore c
          (fun k => k.setCopy i (some { y with lines := g }))
      | .fault f => failUnit c i y n t f.err f.addr (countError f s)
      | .sent s'' data nums =>
        s''.updCore c (fun k => k.setCopy i (some { y with sent := true, digest := y.digest ++ data, lines := { y.lines with nums := nums } }))
      | .done s'' data => unitDone c i y n t data s''

/-- The flag word an ACQW waits on (09 R186, 22 R347). -/
def flagWord (s : State) (c : CoreId) (g : Fin 64) (flag : W64) : Acc? W64 :=
  match s.groupAt c g with
  | none => .ok 0
  | some x => do
    let (bs, _) ← s.readVa ⟨(s.coreCtx c).part, x.fctx, dieOf c, none⟩ (x.flagva + BitVec.ofNat 64 (8 * fld flag 11 0)) 8
    .ok (BitVec.ofNat 64 (ofBytes bs))

/-- A command of 8 bytes ends. -/
def endPlain (c : CoreId) (i : Fin 8) (q : QEntry) (e : Option Err) (addr : W64) (s : State) : State :=
  let s := match e with
    | some e => copyFault c q e addr s
    | none => s
  (sendCount c (issuerObj q) (some 8) e s).updCore c (fun k => (k.setCopy i none).counted q.id)

/-- The first look of an ACQW at its flag word counts its request: the towpath hops, and RDC hits and misses (03 R40). DESIGN CHOICE
(log 81): it waits at the word's home, and later looks count nothing. -/
def countLook (c : CoreId) (i : Fin 8) (y : Copy) (g : Fin 64) (s : State) : State :=
  match s.groupAt c g with
  | none => s
  | some x =>
    if y.unit ≠ 0 then s
    else
      let s := s.updCore c (fun k => k.setCopy i (some { y with unit := 1 }))
      match s.ranges ⟨(s.coreCtx c).part, x.fctx, dieOf c, none⟩ true false [(x.flagva + BitVec.ofNat 64 (8 * fld (val0 y.q 0) 11 0), 8)] with
      | .ok l =>
        let segs := l.map (fun e => e.1)
        (lookLines c false false (hbmLines segs) (.start, s)).2.updCore c (fun k => k.count 4 ((segs.map (siteHops s c)).sum))
      | .error _ => s

/-- An ACQW looks at its flag word. -/
def moveAcqw (c : CoreId) (i : Fin 8) (y : Copy) (s : State) : State :=
  match y.srcPlace with
  | .member g _ =>
    let s := countLook c i y g s
    match flagWord s c g (val0 y.q 0) with
    | .ok v => if (val0 y.q 1).toNat ≤ v.toNat then endPlain c i y.q none 0 s else s
    | .error f => endPlain c i y.q (some f.err) f.addr (countError f s)
  | _ => s

/-- An accepted command names a group (09 R187). -/
def namesGroup (y : Copy) (g : Fin 64) : Bool :=
  match y.q.ins with
  | .rls .. => decide (fld (val0 y.q 0) 5 0 = g.val)
  | .acqw .. => bit (val0 y.q 0) 12 && decide (fld (val0 y.q 0) 18 13 = g.val)
  | .agset .. => y.sent && decide (val0 y.q 0 = BitVec.ofNat 64 g.val)
  | _ => (decide (lwKind (val0 y.q 0) = 2) && decide (lwGrp (val0 y.q 0) = g))
      || (decide (lwKind (val0 y.q 1) = 2) && decide (lwGrp (val0 y.q 1) = g))

/-- Commands that complete at pre-emption (09 R188). -/
def mustComplete : Instr → Bool
  | .mlr .. | .mst .. | .rls .. | .agset .. => true
  | _ => false

/-- A command completes at pre-emption: those of which R188 says so, what has gone out, and writes to members, which a release flag of
the channel may await (09 R188, 14 R270; log 81). -/
def Copy.finishes (y : Copy) : Bool :=
  y.sent || mustComplete y.q.ins || y.targets.any (fun t => match t.place with
    | .member .. => true
    | _ => false)

/-- An accepted command goes on: in a stopped core those alone that complete at pre-emption. -/
def Core.goesOn (k : Core) (y : Copy) : Bool := !k.stopped || y.finishes

/-- Some accepted command of a partition that is not saved names a group. -/
def groupBusy (s : State) (p : PartId) (g : Fin 64) : Bool :=
  (List.finRange 128).any (fun c => (s.core c).launch.isSome && decide ((s.coreCtx c).part = p) &&
    (s.core c).copies.toList.any (fun y => match y with
      | some y => (s.core c).goesOn y && namesGroup y g
      | none => false))

/-- AGSET waits until no accepted command names its group; the install then comes a typical 200 ticks later. -/
def moveAgset (c : CoreId) (i : Fin 8) (y : Copy) (s : State) : State :=
  if y.sent || groupBusy s (s.coreCtx c).part (Fin.ofNat 64 (val0 y.q 0).toNat) then s
  else (s.updCore c (fun k => k.setCopy i (some { y with sent := true }))).later 200 (.agsetInstall c)

/-- A unit of an accepted command is performed, or its answer comes. -/
def execCopyUnitPerformed (c : CoreId) (k : Fin 8) (r : Reply) (s : State) : Out :=
  match (s.core c).copies.get k with
  | none => .next s
  | some y =>
    .next (match y.q.ins with
      | .rls .. =>
        match (replyFault r ⟨0, 0, 0, .host⟩).or (s.lostEnd c
            [.far (Fin.ofNat 64 (fld (val0 y.q 0) 5 0)) (Fin.ofNat 64 (fld (val0 y.q 0) 11 6))]) with
        | some f => endPlain c k y.q (some f.err) f.addr s
        | none => s
      | .acqw .. => moveAcqw c k y s
      | .agset .. => moveAgset c k y s
      | _ => moveCopy c k y r s)

end Sys2Proof.Machine
end

