-- ==== Sys2Proof/Machine/Tile.lean ====
section
/-! DEFINITION. What an array command computes from a pair's state, its window and its operands (spec 05 R59 to R78,
10 R198 to R210, 26 R363). -/

namespace Sys2Proof.Machine

open Sys2Proof

/-! ## Exact arithmetic on dyadics -/

def xadd (a b : XR) : XR := (XR.add false a b).1
def xsub (a b : XR) : XR := (XR.sub false a b).1
def xmul (a b : XR) : XR := (XR.mul a b).1
/-- i x 2^e. -/
def dy (i e : Int) : XR := (XR.ofInt i).scale e
/-- A quotient, kept far below the least spacing of any format. -/
def xquot (a b : XR) : XR := XR.quot a b 400
/-- The floor of a value that is not negative. -/
def xfloor (x : XR) : Nat := (decInt .int32 (roundTo x .int32 .rz 0).1).toNat
/-- The nearest integer, ties to even. -/
def xround (x : XR) : Int := decInt .int32 (roundTo x .int32 .rne 0).1

/-! ## Windows and registers (03 R37, 05 R59) -/

/-- A window. -/
structure Win where
  row0 : Nat
  rows : Nat
  col0 : Nat
  cols : Nat
  deriving DecidableEq, Repr

def winOf (w : W64) : Win := ⟨fld w 9 0, fld w 26 16, fld w 41 32, fld w 58 48⟩

/-- An FP16 register as a value. -/
def half (h : W16) : XR := decFloat .fp16 (h.zeroExtend 32)

/-- SP of a column, 2048 times its symmetry point. -/
def Pair.sp (p : Pair) (c : Nat) : Int := (p.spr.get (Fin.ofNat 1024 c)).toInt

/-! ## Inputs (05 R61) -/

/-- DAC codes of an input vector, the inputs clipped, and whether one is NaN. -/
structure Drive where
  q : List Int
  clip : Nat
  nan : Bool

/-- DacCode, with its clip. -/
def dacCode (alpha x : XR) : Int × Bool :=
  let t := xround ((xmul x alpha).scale 7)
  if 127 < t then (127, true) else if t < -128 then (-128, true) else (t, false)

/-- A NaN drives every line at zero (log 16). -/
def driveOf (alpha : XR) (xs : List XR) : Drive :=
  let nan := xs.any XR.isNaN
  let cs := xs.map (fun x => if x.isNaN then (0, false) else dacCode alpha x)
  { q := if nan then cs.map (fun _ => 0) else cs.map (fun c => c.1),
    clip := (cs.filter (fun c => c.2)).length, nan := nan }

/-! ## Readings (05 R63) -/

/-- AdcCode of a reading, with its saturation. -/
def adcCode (a : Int) : Int × Bool := if 511 < a then (511, true) else if a < -512 then (-512, true) else (a, false)

/-- A column reading and a row reading of an array in the read of a number. -/
def readCol (name draw c : Nat) : Int × Bool := adcCode (Config.analog name draw c)
def readRow (name draw r : Nat) : Int × Bool := adcCode (Config.analog name draw (1024 + r))

/-- G x (ahat - s) + chat, with s as an integer of units 2^-18. -/
def combine (p : Pair) (ar : Nat) (ka kc sig : Int) : XR :=
  xadd (xmul (half p.gain) (xsub (xmul (half p.da) (dy ka (ar - 9))) (dy sig (-18)))) (xmul (half p.dc) (dy kc (ar - 9)))

/-! ## Products (05 R64, R65, R67) -/

/-- A product: per output line the exact numerator of y over alpha, and the mask; the clips, and reissues made. -/
structure Prod where
  alpha : XR
  num : List XR
  mask : List Bool
  clip : Nat
  att : Nat
  nan : Bool

def prodValue (fmt : Fmt) (y : XR) : W32 := (roundTo y fmt .rne 0).1

/-- |y| above MaxFin. -/
def tooBig (fmt : Fmt) (y : XR) : Bool :=
  let (m, e) := maxFin fmt
  (XR.fin false m e false).lt y.abs

/-- One attempt in the read of number `dr`. -/
def attempt (p : Pair) (w : Win) (fwd : Bool) (ar : Nat) (fmt : Fmt) (xs : List XR) (alpha : XR) (dr : Nat) : Prod :=
  let d := driveOf alpha xs
  let sigma := d.q.sum
  let sd := (d.q.mapIdx (fun k q => p.sp (w.col0 + k) * q)).sum
  let ls := (List.range (if fwd then w.cols else w.rows)).map (fun j =>
    let (a, b) := if fwd then (readCol p.ag dr (w.col0 + j), readCol p.cg dr (w.col0 + j))
      else (readRow p.ag dr (w.row0 + j), readRow p.cg dr (w.row0 + j))
    let num := combine p ar a.1 b.1 (if fwd then p.sp (w.col0 + j) * sigma else sd)
    (num, d.nan || a.2 || b.2 || tooBig fmt (xquot num alpha)))
  { alpha := alpha, num := ls.map (fun x => x.1), mask := ls.map (fun x => x.2), clip := d.clip, att := 0, nan := d.nan }

/-- Bound management: reissues with alpha halved, at most `n` more (05 R67). -/
def bounded (f : XR → Nat → Prod) (alpha : XR) (dr : Nat) : Nat → Nat → Prod
  | 0, k => { f alpha dr with att := k }
  | n + 1, k =>
    let r := f alpha dr
    if r.mask.any id && !r.nan then bounded f (alpha.scale (-1)) (dr + 1) n (k + 1) else { r with att := k }

/-- A product as its command makes it. -/
def product (p : Pair) (w : Win) (fwd bm : Bool) (ar : Nat) (fmt : Fmt) (xs : List XR) (alpha : XR) (dr : Nat) : Prod :=
  bounded (attempt p w fwd ar fmt xs) alpha dr (if bm then 3 else 0) 0

/-- Reads that a product may take. -/
def prodReads : Nat := 4

/-- Codes of the outputs: y, or z, in the output format. -/
def Prod.codes (r : Prod) (fmt : Fmt) : List W32 :=
  r.num.map (fun n => if r.nan then nanCode fmt else prodValue fmt (xquot n r.alpha))

/-- A mask as its 128 bytes. -/
def maskBytes (m : List Bool) : List Byte :=
  toBytes 128 (m.mapIdx (fun i b => b2n b * 2 ^ i)).sum

/-- The product of an index that is not gathered (05 R69). -/
def noProduct (n : Nat) : Prod :=
  { alpha := XR.ofInt 1, num := List.replicate n .zero, mask := List.replicate n true, clip := 0, att := 0, nan := true }

/-! ## Top-k and distances (05 R70) -/

/-- One output ranks before another: by value, a NaN last, ties to the lower index. -/
def ranks (a b : Nat × XR) : Bool :=
  if a.2.isNaN then b.2.isNaN && decide (a.1 ≤ b.1)
  else if b.2.isNaN then true
  else b.2.lt a.2 || (!a.2.lt b.2 && decide (a.1 ≤ b.1))

def insertRank (x : Nat × XR) : List (Nat × XR) → List (Nat × XR)
  | [] => [x]
  | y :: r => if ranks x y then x :: y :: r else y :: insertRank x r

/-- Window indices in rank order. -/
def rankOrder (l : List (Nat × XR)) : List Nat := (l.foldr insertRank []).map (fun x => x.1)

/-- The k pairs of a top-k, as bytes. -/
def topPairs (fmt : Fmt) (codes : List W32) (k : Nat) : List Byte :=
  let order := rankOrder (codes.mapIdx (fun i c => (i, decFloat fmt c)))
  (List.range k).flatMap (fun n =>
    match order[n]? with
    | some i => toBytes 2 i ++ toBytes (width fmt / 8) (codes.getD i 0).toNat
    | none => toBytes 2 0xFFFF ++ toBytes (width fmt / 8) (nanCode fmt).toNat)

/-- The distances of a product. -/
def distCodes (p : Pair) (w : Win) (fmt : Fmt) (xs : List XR) (r : Prod) : List W32 :=
  let a2 := xmul r.alpha r.alpha
  let qs := (driveOf r.alpha xs).q
  let sq := dy (qs.map (fun q => q * q)).sum (-14)
  r.num.mapIdx (fun j n =>
    if r.nan then nanCode fmt
    else
      let nc := decFloat .fp32 (p.nrm.get (Fin.ofNat 1024 (w.col0 + j)))
      prodValue fmt (xquot (xadd (xsub sq (xmul (n.scale 1) r.alpha)) (xmul nc a2)) a2))

/-! ## Pulses (05 R71, R73) -/

/-- A firing threshold; a scale of zero fires nothing, on an infinity either (10 R206; log 17). -/
def threshold (x c : XR) : Nat :=
  if x.isNaN || c.isZero then 0
  else if x.isInf then 65536
  else min 65536 (xfloor ((xmul x.abs c).scale 16))

/-- A line of a side fires in a slot. -/
def fires (seed : W64) (u : W32) (side line t p : Nat) : Bool :=
  decide (fld (cumin seed (BitVec.ofNat 64 (u.toNat * 2 ^ 32 + side * 2 ^ 31 + line * 2 ^ 8 + t))) 15 0 < p)

/-- Lines of a side, from a first line with these thresholds, that fire in a slot. -/
def firing (seed : W64) (u : W32) (side line0 t : Nat) (ps : List Nat) : Nat :=
  ((ps.mapIdx (fun i p => fires seed u side (line0 + i) t p)).filter id).length

/-- Coincidences of an update over its slots. -/
def coincidences (seed : W64) (u : W32) (w : Win) (px pd : List Nat) (bl : Nat) : Nat :=
  ((List.range bl).map (fun t => firing seed u 0 w.row0 t px * firing seed u 1 w.col0 t pd)).sum

/-- Coincidences of one cell, whose row and column lines have these thresholds. -/
def cellCount (seed : W64) (u : W32) (row col px pc bl : Nat) : Nat :=
  ((List.range bl).filter (fun t => fires seed u 0 row t px && fires seed u 1 col t pc)).length

/-- Steps of a cell that takes any: its number, and the count with its polarity. -/
def cellStep (row col n : Nat) (up : Bool) : Option (Nat × Int) :=
  if n = 0 then none else some (1024 * row + col, if up then n else -(n : Int))

/-- The steps of an update's cells: upward where the signs of the row's value and the column's agree. -/
def updSteps (seed : W64) (u : W32) (w : Win) (bl : Nat) (xs ds : List XR) (px pd : List Nat) : List (Nat × Int) :=
  (List.range w.rows).flatMap (fun i => (List.range w.cols).filterMap (fun j =>
    cellStep (w.row0 + i) (w.col0 + j) (cellCount seed u (w.row0 + i) (w.col0 + j) (px.getD i 0) (pd.getD j 0) bl)
      (decide ((xs.getD i .zero).neg = (ds.getD j .zero).neg))))

/-- Quad of a tile's owner. -/
def tileQuad (t : Fin 1024) : QuadId := quadOf (Fin.ofNat 128 (t.val / 8))

/-- The calibration record in force on a pair's tile (27 R380). -/
def State.calOf (s : State) (p : Pair) : List Byte := (s.quad (tileQuad p.tile)).cal

/-- The name of conductances after their cells' steps; without a step they stay as they are. -/
def pulsed (cal : List Byte) (name : Nat) (steps : List (Nat × Int)) (free : Nat) : Nat :=
  if steps.isEmpty then name else Config.pulsed cal name steps free

/-- TEND saturates (05 R59). -/
def addTend (t : W64) (n : Nat) : W64 := BitVec.ofNat 64 (min (t.toNat + n) (2 ^ 64 - 1))

/-- 127 r_i of XXFR, from the code of its row. -/
def xfrRow (p : Pair) (ka sp : Int) : XR := xsub (xmul (half p.da) (dy (128 * ka) (-9))) (dy (127 * sp) (-11))

/-! ## Digital readings of cells (05 R70, R74) -/

/-- Sums of N codes of a cell in A and in C; the reads have numbers from `dr` on. -/
def cellSums (p : Pair) (dr n r : Nat) : Int × Int :=
  ((List.range n).foldl (fun (a : Int × Int) k =>
    (a.1 + (readRow p.ag (dr + k) r).1, a.2 + (readRow p.cg (dr + k) r).1)) (0, 0))

/-- 127 times a cell's value of one array. -/
def cellNum (gain : W16) (sum : Int) (n : Nat) : XR := xmul (half gain) (dy (128 * sum) (-9 - (Nat.log2 n : Int)))

def over127 (x : XR) : XR := xquot x (XR.ofInt 127)

/-- 127 W of a cell. -/
def cellW (p : Pair) (c : Nat) (s : Int × Int) (n : Nat) : XR :=
  xadd (xmul (half p.gain) (xsub (cellNum p.da s.1 n) (dy (127 * p.sp c) (-11)))) (cellNum p.dc s.2 n)

/-- The norm of a column, from the exact values of its cells (log 68). -/
def colNorm (p : Pair) (w : Win) (dr c : Nat) : W32 :=
  let s := (List.range w.rows).foldl (fun (a : XR) i =>
    let x := cellW p c (cellSums p dr 1 (w.row0 + i)) 1
    xadd a (xmul x x)) .zero
  (roundTo (xquot s (XR.ofInt (127 * 127))) .fp32 .rne 0).1

/-- The least power of two not below a count, as an exponent. -/
def rangeFor (n : Nat) : Nat := if n ≤ 1 then 0 else Nat.log2 (n - 1) + 1

/-- Symmetry point of a column from its 4 readings: 2048 x 128/127 x mean / rows. -/
def symPoint (p : Pair) (w : Win) (dr c : Nat) : BitVec 12 :=
  let t := (List.range 4).foldl (fun (a : Int) k => a + (readCol p.ag (dr + k) c).1) 0
  let v := xround (xquot (dy (2048 * 128 * t) ((rangeFor w.rows : Int) - 11)) (XR.ofInt (127 * w.rows)))
  BitVec.ofInt 12 (if v < -2048 then -2048 else if 2047 < v then 2047 else v)

/-! ## The status word (05 R66) -/

def xsw (code : Byte) (att clip sat fail : Nat) : W64 :=
  BitVec.ofNat 64 (code.toNat + att % 4 * 2 ^ 8 + min clip 2047 * 2 ^ 10 + min sat 2047 * 2 ^ 21 + fail % 2 ^ 22 * 2 ^ 32)

/-- The status word over the products of a command. -/
def prodStatus (code : Byte) (rs : List Prod) : W64 :=
  xsw code ((rs.map (fun r => r.att)).foldl max 0) (rs.map (fun r => r.clip)).sum
    (rs.map (fun r => (r.mask.filter id).length)).sum 0

/-! ## Forms of a command -/

/-- The kinds of array command. -/
inductive AKind
  | fwd | fwdb | bwd | upd | xfr | topk | dist | sym | ckr | prg | scrb | cal | norm | gset | stat | fence
  deriving DecidableEq, Repr

def akind : Instr → AKind
  | .xfwd .. => .fwd | .xfwdb .. => .fwdb | .xbwd .. => .bwd | .xupd .. => .upd | .xxfr .. => .xfr | .xtopk .. => .topk
  | .xdist .. => .dist | .xsym .. => .sym | .xckr .. => .ckr | .xprg .. => .prg | .xscrb .. => .scrb | .xcal .. => .cal
  | .xnorm .. => .norm | .xgset .. => .gset | .xstat .. => .stat
  | _ => .fence

/-- Inputs taken from LM: slot D and slot E. -/
def lmInputs : Instr → Bool × Bool
  | .xfwd _ _ _ x _ | .xbwd _ _ _ x _ => (isLm x, false)
  | .xtopk _ _ _ x | .xdist _ _ _ x => (isLm x, false)
  | .xfwdb _ _ _ x => (true, isLm x)
  | .xupd _ _ _ x d => (isLm x, isLm d)
  | .xprg .. => (true, true)
  | _ => (false, false)

/-- The forms that a hold keeps back (10 R212). -/
def pulseForm (k : AKind) : Bool := [AKind.upd, .xfr, .sym, .prg, .scrb].contains k

/-- The fence forms, whose entry holds a mask of tiles and their object as a reference. -/
def isFence (q : QEntry) : Bool := decide (akind q.ins = .fence)

/-- Fields that an entry carries. -/
def entryTile (q : QEntry) : Nat :=
  if isFence q then ((List.range 32).find? (fun t => bit (q.vals.headD 0) t)).getD 0 else (q.vals.headD 0).toNat
def entryWin (q : QEntry) : Win := winOf (q.vals.getD 9 0)
def entryTick (q : QEntry) : W64 := q.vals.getD 10 0
def entryMode (q : QEntry) : Nat := blkMode (blk q 0)
def entryStamp (q : QEntry) : W64 := blk q 1
def entryObj (q : QEntry) : Fin 4096 := if isFence q then issuerObj q else Fin.ofNat 4096 (blkBo (blk q 0))
def entryGate (q : QEntry) : Fin 4096 × Bool := (Fin.ofNat 4096 (fld (blk q 1) 11 0), bit (blk q 1) 12)
def entryFmt (q : QEntry) : Fmt :=
  match blkOfmt (blk q 0) with
  | 0 => .bf16
  | 1 => .fp16
  | _ => .fp32
def entryAlpha (q : QEntry) : XR := decFloat .fp32 (blkAlpha (blk q 0))
def entryStat (q : QEntry) : Nat := fld (blk q 7) 23 0
/-- TID and ROW of IN, IN2 and OUT, block words 2 to 4. -/
def entryTid (q : QEntry) (i : Nat) : Nat := fld (blk q i) 11 0
def entryRow (q : QEntry) (i : Nat) : Nat := fld (blk q i) 39 16

/-- Products of a command: repeats of XFWD and XBWD, rows of XFWDB. -/
def products (q : QEntry) : Nat :=
  match akind q.ins with
  | .fwd | .bwd => q.rep + 1
  | .fwdb => fld (blk q 5) 6 0
  | .topk | .dist => 1
  | _ => 0

/-- Masks that it writes. -/
def masksOf (q : QEntry) : Nat :=
  match akind q.ins with
  | .topk | .dist => 0
  | _ => products q

/-- Address of the status word. -/
def statusAddr (q : QEntry) : Nat := entryStat q + 128 * masksOf q

/-- Trailer bytes of XCKR (10 R198). -/
def trailer (cols : Nat) : Nat := 8 + 8 * ((cols + 3) / 4)

/-- Data bytes of a command. -/
def dataBytes (q : QEntry) : Nat :=
  let w := entryWin q
  let e := width (entryFmt q) / 8
  match akind q.ins with
  | .fwd | .fwdb => products q * (w.cols * e)
  | .bwd => products q * (w.rows * e)
  | .topk => fld (blk q 5) 6 0 * (2 + e)
  | .dist => w.cols * e
  | .ckr => (if bit (blk q 5) 8 then 4 else 8) * w.rows * w.cols + trailer w.cols
  | .stat => 6176
  | _ => 0

/-- N of a command (10 R198). -/
def arrayCount (q : QEntry) : Nat := dataBytes q + 128 * masksOf q + 8

/-! ## Records and rows of a command (10 R193, R208) -/

/-- The lines that an input drives: from IN, and from IN2. -/
def driven (q : QEntry) : Nat × Nat :=
  let w := entryWin q
  match akind q.ins with
  | .fwd | .fwdb | .topk | .dist => (w.rows, fld (blk q 5) 6 0)
  | .bwd => (w.cols, 0)
  | .upd => (w.rows, w.cols)
  | .prg => (w.cols, w.cols)
  | _ => (0, 0)

/-- Rows that a command steps to in IN, in IN2 and in OUT. -/
def rowsIn (q : QEntry) : List Int :=
  match akind q.ins with
  | .fwd | .bwd => (List.range (q.rep + 1)).map (fun (n : Nat) => entryRow q 2 + n * q.step)
  | .prg => (List.range (entryWin q).rows).map (fun (i : Nat) => (entryRow q 2 + i : Nat))
  | _ => [(entryRow q 2 : Nat)]
def rowsIn2 (q : QEntry) : List Int :=
  match akind q.ins with
  | .prg => (List.range (entryWin q).rows).map (fun (i : Nat) => (entryRow q 3 + i : Nat))
  | _ => [(entryRow q 3 : Nat)]
def rowsOut (q : QEntry) : List Int := (List.range (products q)).map (fun (n : Nat) => (entryRow q 4 + n : Nat))

/-- Data go to OUT: element by element, or as raw bytes. -/
inductive OutForm | none | rows (n : Nat) | raw
  deriving DecidableEq, Repr

def outForm (q : QEntry) : OutForm :=
  let w := entryWin q
  match akind q.ins with
  | .fwd | .fwdb | .dist => .rows w.cols
  | .bwd => .rows w.rows
  | .topk | .ckr | .stat => .raw
  | _ => .none

/-- An input or output record meets R193. -/
def lmRecOk (ok : Fmt → Bool) (lines : Nat) (rows : List Int) (r : Rec) : Bool :=
  decide (recState r = .good) && recLm r && ok (recFmt r) && decide (2 ≤ recRank r ∧ recStr r 0 = 1 ∧ lines ≤ recExt r 0)
  && rows.all (fun x => decide (0 ≤ x ∧ x < recExt r 1))

/-- A raw-byte output needs only an LM record. -/
def rawRecOk (r : Rec) : Bool := decide (recState r = .good) && recLm r

/-- LM address of element (0, row). -/
def rowAddr (r : Rec) (row : Int) : Nat := (recAddr r (elemBit r 0 row.toNat 0 0 / 8)).toNat

/-- The spans of LM that a command reads in IN, whose rows are given, in IN2, and that it writes. -/
def spansIn (r : Rec) (lines : Nat) (rows : List Int) : List (Nat × Nat) :=
  rows.map (fun x => (rowAddr r x, lines * width (recFmt r) / 8))
def spansOut (q : QEntry) (r : Rec) : List (Nat × Nat) :=
  (match outForm q with
   | .none => []
   | .rows n => (rowsOut q).map (fun x => (rowAddr r x, n * width (recFmt r) / 8))
   | .raw => [(rowAddr r (entryRow q 4 : Nat), dataBytes q)])
  ++ [(entryStat q, 128 * masksOf q + 8)]

/-! ## Inputs as values -/

/-- Elements of an entry from a register. -/
def entryElems (e : VEntry) (n : Nat) : List XR :=
  let k := count e.tag
  (List.range n).map (fun i => (⟨e, false, .whole⟩ : Src).val (i / k) (i % k))

/-- Elements of a row of an LM record. -/
def rowElems (s : State) (c : CoreId) (r : Rec) (row : Int) (n : Nat) : List XR :=
  (List.range n).map (fun i =>
    decPlain (recFmt r) (readElem r (fun a => s.lmByte c a.toNat) (elemBit r i row.toNat 0 0)))

/-- Index n of an XFWDB, read as an unsigned 16-bit value. -/
def indexAt (s : State) (c : CoreId) (q : QEntry) (in2 : Rec) (n : Nat) : Nat :=
  match q.vops with
  | e :: _ => ((⟨e, false, .whole⟩ : Src).code (n / 2) (n % 2)).toNat % 65536
  | [] => (readElem in2 (fun a => s.lmByte c a.toNat) (elemBit in2 n (entryRow q 3) 0 0)).toNat % 65536

/-! ## What a drive does -/

/-- Everything that a drive settles: the pair afterwards, output bytes by LM address, the status word, occupancy and
ready time in ticks, and the free values that it takes. -/
structure Effect where
  pair : Pair
  out : List (Nat × List Byte)
  status : W64
  occ : Nat
  ready : Nat
  free : Nat

/-- A command that only changes the pair. -/
def Effect.plain (p : Pair) (st : W64) (occ free : Nat) : Effect :=
  { pair := p, out := [], status := st, occ := occ, ready := occ + 48, free := free }

/-- Input vector of product n, as LM holds it at the drive (log 67). -/
def inputOf (s : State) (b : Barge) (n : Nat) : List XR :=
  let q := b.q
  let lines := (driven q).1
  match q.vops, akind q.ins with
  | e :: _, .fwd | e :: _, .bwd | e :: _, .topk | e :: _, .dist => entryElems e lines
  | _, .fwdb => rowElems s b.core b.inR (q.vals.getD (11 + n) 0).toNat lines
  | _, _ => rowElems s b.core b.inR (entryRow q 2 + n * q.step) lines

/-- Ticks of occupancy of products made one after another: XFWDB gathers while it drives, and a repeat of XFWD or XBWD
starts 48 ticks after the end of the one before it (10 R203; log 18). -/
def prodTicks (k : AKind) (rs : List Prod) : Nat :=
  48 * (rs.length + (rs.map (fun r => r.att)).sum) + (if k = .fwdb then 0 else 48 * (rs.length - 1))

/-- The forward and backward products, top-k and distances. -/
def productEffect (s : State) (b : Barge) (p : Pair) : Effect :=
  let q := b.q
  let w := entryWin q
  let k := akind q.ins
  let fmt := entryFmt q
  let lost := fun (n : Nat) => decide (k = .fwdb ∧ recExt b.inR 1 ≤ (q.vals.getD (11 + n) 0).toNat)
  let rs := (List.range (products q)).map (fun n =>
    if lost n then noProduct w.cols
    else product p w (decide (k ≠ .bwd)) (blkBm (blk q 0)) (blkAr (blk q 0)) fmt (inputOf s b n) (entryAlpha q)
      (s.free + prodReads * n))
  let rowOut := fun (n : Nat) (cs : List W32) => (rowAddr b.outR (entryRow q 4 + n : Nat), packCodes (width fmt) cs)
  let data := match k with
    | .topk => rs.map (fun r => (rowAddr b.outR (entryRow q 4 : Nat), topPairs fmt (r.codes fmt) (fld (blk q 5) 6 0)))
    | .dist => rs.mapIdx (fun n r => rowOut n (distCodes p w fmt (inputOf s b n) r))
    | _ => rs.mapIdx (fun n r => rowOut n (r.codes fmt))
  let masks := (List.range (masksOf q)).zip rs |>.map (fun x => (entryStat q + 128 * x.1, maskBytes x.2.mask))
  let occ := prodTicks k rs
  { pair := p, out := data ++ masks,
    status := prodStatus (if (List.range (products q)).any lost then 0x40 else 0) rs,
    occ := occ, ready := occ + (if k = .topk ∨ k = .dist then 128 else 112), free := prodReads * products q }

/-- XUPD (05 R71). -/
def updEffect (s : State) (b : Barge) (p : Pair) : Effect :=
  let q := b.q
  let w := entryWin q
  let vx := (if (lmInputs q.ins).1 then rowElems s b.core b.inR (entryRow q 2 : Nat) w.rows
    else entryElems (q.vops.headD VEntry.zero) w.rows)
  let vd := (if (lmInputs q.ins).2 then rowElems s b.core b.in2R (entryRow q 3 : Nat) w.cols
    else entryElems (q.vops.getLastD VEntry.zero) w.cols)
  let px := vx.map (fun x => threshold x (decFloat .fp32 (BitVec.ofNat 32 (fld (blk q 5) 63 32))))
  let pd := vd.map (fun x => threshold x (decFloat .fp32 (BitVec.ofNat 32 (fld (blk q 6) 31 0))))
  let bl := fld (blk q 5) 7 0
  let n := coincidences p.seed p.tusn w px pd bl
  Effect.plain { p with tusn := p.tusn + 1, tend := addTend p.tend n,
                        ag := pulsed (s.calOf p) p.ag (updSteps p.seed p.tusn w bl vx vd px pd) s.free } 0 (bl * 8 + 32) 1

/-- XXFR (05 R73). -/
def xfrEffect (s : State) (b : Barge) (p : Pair) : Effect :=
  let q := b.q
  let w := entryWin q
  let c := fld (blk q 5) 17 8
  let bl := fld (blk q 5) 7 0
  let rs := (List.range w.rows).map (fun i => xfrRow p (readRow p.ag s.free (w.row0 + i)).1 (p.sp c))
  let cx := decFloat .fp32 (BitVec.ofNat 32 (fld (blk q 5) 63 32))
  let cd := decFloat .fp32 (BitVec.ofNat 32 (fld (blk q 6) 31 0))
  let px := rs.map (fun r => min 65536 (xfloor (over127 ((xmul r.abs cx).scale 16))))
  let pc := threshold (XR.ofInt 1) cd
  let n := ((List.range bl).map (fun t => firing p.seed p.tusn 0 w.row0 t px * firing p.seed p.tusn 1 c t [pc])).sum
  let ns := if bit (blk q 5) 18 then
      rs.map (fun r => (min 255 (xround (over127 (xmul r.abs (XR.ofInt 600))))).toNat) else []
  -- C takes the sign of r_i, and A under the reset flag its opposite
  let up := fun (i : Nat) => !(rs.getD i .zero).neg
  let stepsC := (List.range w.rows).filterMap (fun i =>
    cellStep (w.row0 + i) c (cellCount p.seed p.tusn (w.row0 + i) c (px.getD i 0) pc bl) (up i))
  let stepsA := (List.range w.rows).filterMap (fun i => cellStep (w.row0 + i) c (ns.getD i 0) (!up i))
  Effect.plain { p with tusn := p.tusn + 1, tend := addTend p.tend (n + ns.sum), cg := pulsed (s.calOf p) p.cg stepsC s.free,
                        ag := pulsed (s.calOf p) p.ag stepsA (s.free + 1) } 0
    (48 + bl * 8 + 32 + 8 * ns.foldl max 0) 2

/-- The cells of a window, by row and column in it. -/
def Win.cells (w : Win) : List (Nat × Nat) := (List.range w.rows).flatMap (fun i => (List.range w.cols).map (fun j => (i, j)))

/-- XSYM (05 R74), of a program or of firmware; it gives each cell of the window as many pulses upward as downward (log 84). -/
def symEffect (s : State) (q : QEntry) (p : Pair) : Effect :=
  let w := entryWin q
  let n := fld (blk q 5) 11 0
  let p1 : Pair := { p with tusn := p.tusn + 1, tend := addTend p.tend (2 * n * w.rows * w.cols),
                            ag := pulsed (s.calOf p) p.ag (w.cells.map (fun x => (1024 * (w.row0 + x.1) + w.col0 + x.2, 0))) s.free,
                            lsym := s.cyc }
  let spr := ((List.finRange 1024).map (fun (c : Fin 1024) =>
    if w.col0 ≤ c.val ∧ c.val < w.col0 + w.cols then symPoint p1 w (s.free + 1) c.val else p.spr.get c)).toArray
  Effect.plain { p1 with spr := ⟨spr, by simp [spr]⟩ } 0 (16 * n + 224) 5

/-- XCKR (05 R74, 26 R363). -/
def ckrEffect (s : State) (b : Barge) (p : Pair) : Effect :=
  let q := b.q
  let w := entryWin q
  let n := fld (blk q 5) 4 0
  let sums := fun (i j : Nat) => cellSums p (s.free + n * j) n (w.row0 + i)
  let cells := fun (f : Nat → Int × Int → XR) =>
    (List.range w.rows).flatMap (fun i => (List.range w.cols).flatMap (fun j =>
      toBytes 4 (roundTo (over127 (f (w.col0 + j) (sums i j))) .fp32 .rne 0).1.toNat))
  let data := if bit (blk q 5) 8 then cells (fun c x => cellW p c x n)
    else cells (fun _ x => cellNum p.da x.1 n) ++ cells (fun _ x => cellNum p.dc x.2 n)
  let tail := toBytes 2 p.gain.toNat ++ toBytes 2 p.da.toNat ++ toBytes 2 p.dc.toNat ++ toBytes 2 0
    ++ (List.range w.cols).flatMap (fun j => toBytes 2 (BitVec.ofInt 16 (p.sp (w.col0 + j))).toNat)
  let pad := List.replicate (trailer w.cols - tail.length) (0 : Byte)
  { pair := p, out := [(rowAddr b.outR (entryRow q 4 : Nat), data ++ tail ++ pad)], status := 0,
    occ := 48 * w.cols * n + 192, ready := 48 * w.cols * n + 192 + 48, free := n * w.cols }

/-- Ticks of programming a window, typical: its share of a full tile's (05 R75). -/
def programTicks (w : Win) : Nat := (72000000 * (w.rows * w.cols) + 2 ^ 20 - 1) / 2 ^ 20

/-- Rounds of a programming (05 R74). -/
def rounds : Nat := 64

/-- 127 times how far a cell, read 4 times, lies above its target. -/
def offTarget (gain : W16) (name dr row : Nat) (target : XR) : XR :=
  xsub (cellNum gain ((List.range 4).map (fun k => (readRow name (dr + k) row).1)).sum 4) (xmul (XR.ofInt 127) target)

/-- A cell finishes when it is read within the tolerance of its target. -/
def finishes (eps target off : XR) : Bool := !target.isNaN && !(xmul (XR.ofInt 127) eps).lt off.abs

/-- n rounds of programming of one array: the name of its conductances, and the window's cells left unfinished. A round pulses those
alone, each toward its target; how many pulses it gives is open, and stands in the round's free value (log 84). -/
def programRounds (cal : List Byte) (gain : W16) (name f dr : Nat) (w : Win) (eps : XR) (target : Nat → Nat → XR) :
    Nat → Nat × List (Nat × Nat)
  | 0 => (name, w.cells)
  | n + 1 =>
    let (a, cells) := programRounds cal gain name f dr w eps target n
    let off := fun (x : Nat × Nat) => offTarget gain a (dr + 4 * (n * w.cols + x.2)) (w.row0 + x.1) (target x.1 x.2)
    let left := cells.filter (fun x => !finishes eps (target x.1 x.2) (off x))
    (pulsed cal a (left.map (fun x => (1024 * (w.row0 + x.1) + w.col0 + x.2, if (off x).neg then 1 else -1))) (f + n), left)

/-- Programming of one array: the name of its conductances afterwards, and how many cells are left unfinished. -/
def programArray (cal : List Byte) (gain : W16) (name f dr : Nat) (w : Win) (eps : XR) (target : Nat → Nat → XR) : Nat × Nat :=
  let r := programRounds cal gain name f dr w eps target rounds
  (r.1, r.2.length)

/-- Programming of both arrays of a pair, which are read together: the pair, and the cells that failed. -/
def programPair (s : State) (w : Win) (eps : XR) (ta tc : Nat → Nat → XR) (p : Pair) : Pair × Nat :=
  let dr := s.free + 2 * rounds
  let a := programArray (s.calOf p) p.da p.ag s.free dr w eps ta
  let c := programArray (s.calOf p) p.dc p.cg (s.free + rounds) dr w eps tc
  let pulses := if a.1 = p.ag ∧ c.1 = p.cg then 0 else (Config.free (dr + 4 * rounds * w.cols)).toNat
  ({ p with ag := a.1, cg := c.1, tend := addTend p.tend pulses }, a.2 + c.2)

/-- Free values that a programming takes. -/
def programFree (w : Win) : Nat := 2 * rounds + 4 * rounds * w.cols + 1

/-- The status of a programming (10 R199, R208). -/
def verifyStatus (f : Nat) : W64 := xsw (if f = 0 then 0 else 0x42) 0 0 0 f

/-- XPRG (05 R74). -/
def prgEffect (s : State) (b : Barge) (p : Pair) : Effect :=
  let q := b.q
  let w := entryWin q
  let rows := fun (r : Rec) (row0 : Nat) => (List.range w.rows).map (fun i => rowElems s b.core r (row0 + i : Nat) w.cols)
  let ra := rows b.inR (entryRow q 2)
  let rc := rows b.in2R (entryRow q 3)
  let (p, f) := programPair s w (decFloat .fp32 (BitVec.ofNat 32 (fld (blk q 5) 31 0)))
    (fun i j => (ra.getD i []).getD j .nan) (fun i j => (rc.getD i []).getD j .nan) p
  let whole := decide (w.rows = 1024 ∧ w.cols = 1024)
  let run := if whole then (if f = 0 then 0 else p.verifyRun + 1) else p.verifyRun
  Effect.plain { p with verifyRun := run } (verifyStatus f) (programTicks w) (programFree w)

/-- XSCRB (05 R74) on a window, of a program or of the scrub gate: the pair, and the cells that failed. -/
def scrubPair (s : State) (w : Win) (p : Pair) : Pair × Nat :=
  let (p, f) := programPair s w (dy 1 (-8)) (fun _ j => dy (p.sp (w.col0 + j)) (-11)) (fun _ _ => .zero) p
  let inside := fun (c : Nat) => decide (w.col0 ≤ c ∧ c < w.col0 + w.cols)
  let spr := ((List.finRange 1024).map (fun (c : Fin 1024) => if inside c.val then 0 else p.spr.get c)).toArray
  let nrm := ((List.finRange 1024).map (fun (c : Fin 1024) => if inside c.val then 0 else p.nrm.get c)).toArray
  ({ p with gain := 0x3C00, da := 0x3C00, dc := 0x3C00, seed := 0, tusn := 0, spr := ⟨spr, by simp [spr]⟩,
            nrm := ⟨nrm, by simp [nrm]⟩ }, f)

def scrbEffect (s : State) (q : QEntry) (p : Pair) : Effect :=
  let w := entryWin q
  let (p, f) := scrubPair s w p
  Effect.plain p (verifyStatus f) (programTicks w) (programFree w)

/-- A drift gain from a reading of the reference cells, which is free, and the nominals of the calibration record, clamped to 0.5 to
2.0. -/
def driftGain (cal : List Byte) (x : W64) : W16 × Bool :=
  let v : W16 := Config.driftGain cal x &&& 0x7FFF
  if v.toNat < 0x3800 then (0x3800, true) else if 0x4000 < v.toNat then (0x4000, true) else (v, false)

/-- XCAL (05 R74). -/
def calEffect (s : State) (p : Pair) : Effect :=
  let a := driftGain (s.calOf p) (Config.free s.free)
  let c := driftGain (s.calOf p) (Config.free (s.free + 1))
  let warn := a.2 || c.2
  Effect.plain { p with da := a.1, dc := c.1, lcal := s.cyc, driftRun := if warn then p.driftRun + 1 else 0 }
    (xsw (if warn then 0x41 else 0) 0 0 0 0) 416 2

/-- XNORM (05 R70). -/
def normEffect (s : State) (q : QEntry) (p : Pair) : Effect :=
  let w := entryWin q
  let nrm := ((List.finRange 1024).map (fun (c : Fin 1024) =>
    if w.col0 ≤ c.val ∧ c.val < w.col0 + w.cols then colNorm p w (s.free + (c.val - w.col0)) c.val
    else p.nrm.get c)).toArray
  Effect.plain { p with nrm := ⟨nrm, by simp [nrm]⟩ } 0 (48 * w.cols + 192) w.cols

/-- XGSET (10 R209). -/
def gsetEffect (q : QEntry) (p : Pair) : Effect :=
  let p1 := blk q 5
  let p := if bit p1 16 then { p with gain := BitVec.ofNat 16 (fld p1 15 0) } else p
  let p := if bit p1 17 then { p with seed := blk q 6, tusn := 0 } else p
  { pair := p, out := [], status := 0, occ := 0, ready := 64, free := 0 }

/-- The registers as XSTAT lays them out (10 R210). -/
def statBytes (p : Pair) : List Byte :=
  toBytes 2 p.gain.toNat ++ toBytes 2 p.da.toNat ++ toBytes 2 p.dc.toNat ++ toBytes 2 0 ++ toBytes 8 p.seed.toNat
  ++ toBytes 8 p.tusn.toNat ++ toBytes 8 p.tend.toNat
  ++ (List.range 1024).flatMap (fun c => toBytes 2 (BitVec.ofInt 16 (p.sp c)).toNat)
  ++ (List.range 1024).flatMap (fun c => toBytes 4 (p.nrm.get (Fin.ofNat 1024 c)).toNat)

def statEffect (b : Barge) (p : Pair) : Effect :=
  { pair := p, out := [(rowAddr b.outR (entryRow b.q 4 : Nat), statBytes p)], status := 0, occ := 0, ready := 448,
    free := 0 }

/-- The effect of a barge's drive on its pair. -/
def driveEffect (s : State) (b : Barge) (p : Pair) : Effect :=
  match akind b.q.ins with
  | .fwd | .fwdb | .bwd | .topk | .dist => productEffect s b p
  | .upd => updEffect s b p
  | .xfr => xfrEffect s b p
  | .sym => symEffect s b.q p
  | .ckr => ckrEffect s b p
  | .prg => prgEffect s b p
  | .scrb => scrbEffect s b.q p
  | .cal => calEffect s p
  | .norm => normEffect s b.q p
  | .gset => gsetEffect b.q p
  | .stat => statEffect b p
  | .fence => { pair := p, out := [], status := 0, occ := 0, ready := 0, free := 0 }

/-- Ready time of a command as its promise takes it (10 R198); XPRG and XSCRB write none. -/
def promisedReady (q : QEntry) : Option Nat :=
  let w := entryWin q
  let p1 := blk q 5
  match akind q.ins with
  | .fwd | .bwd => some (48 * (2 * q.rep + 1) + 112)
  | .fwdb => some (48 * products q + 112)
  | .topk | .dist => some 176
  | .upd => some (fld p1 7 0 * 8 + 32 + 48)
  | .xfr => some (48 + fld p1 7 0 * 8 + 32 + (if bit p1 18 then 2040 else 0) + 48)
  | .sym => some (16 * fld p1 11 0 + 224 + 48)
  | .ckr => some (48 * w.cols * fld p1 4 0 + 192 + 48)
  | .norm => some (48 * w.cols + 192 + 48)
  | .cal => some (416 + 48)
  | .gset => some 64
  | .stat => some 448
  | .prg | .scrb | .fence => none

/-- Latch slots that a command needs before it drives (05 R62). -/
def latchNeed (q : QEntry) : Nat :=
  match akind q.ins with
  | .fwd | .fwdb | .bwd | .topk | .dist => 1
  | .upd => 2
  | _ => 0

end Sys2Proof.Machine
end

