-- ==== Sys2Proof/Machine/ArrayEngine.lean ====
section
/-! DEFINITION. Barges: the array queue, the slots of a pair, stamps, gates, fences, and the end of a command
(spec 05 R62, R72 to R76, 10 R192 to R201, R212). -/

namespace Sys2Proof.Machine

open Sys2Proof

/-! ## Pairs of a core (05 R59, 10 R192) -/

/-- Core and tile number of a local tile; none when the lender is absent. -/
def tileNumber (k : Core) (c : CoreId) (tile : Nat) : Option Nat := (k.owner c (tile / 8)).map (fun o => 8 * o.val + tile % 8)

/-- The pair that answers to a tile number. -/
def State.pairAt (s : State) (n : Nat) : Option PairId :=
  (List.finRange 1088).find? (fun t => (s.pair t).insv && decide ((s.pair t).tile.val = n))

/-- The pair of a local tile. -/
def State.pairOf (s : State) (c : CoreId) (tile : Nat) : Option PairId := (tileNumber (s.core c) c tile).bind s.pairAt

/-- The pair is bound to the context that issues (10 R197, 21 R330). -/
def State.boundTo (s : State) (c : CoreId) (t : PairId) : Bool :=
  let x := s.coreCtx c
  decide ((s.part x.part).bind.get (s.pair t).tile = some x.ctx)

/-! ## Slots and the latch (05 R62, 10 R194) -/

/-- The barge still holds its slot. -/
def Barge.inSlot (b : Barge) (cyc : W64) : Bool :=
  match b.state with
  | .driving free_ _ => !cycGe cyc free_
  | _ => true

/-- Barges of a pair that hold a slot. -/
def Pair.held (p : Pair) (cyc : W64) : List Barge := p.slots.filter (fun b => b.inSlot cyc)

/-- Operand latches in use. -/
def Pair.latched (p : Pair) (cyc : W64) : Nat :=
  ((p.held cyc).map (fun b => match b.state with
    | .sent => 0
    | _ => latchNeed b.q)).sum

/-- No command occupies the pair. -/
def Pair.idle (p : Pair) (cyc : W64) : Bool :=
  cycGe cyc p.busyUntil && !p.slots.any (fun b => decide (b.state = .ceiling))

def Barge.started (b : Barge) : Bool :=
  match b.state with
  | .ceiling | .driving .. | .fenced => true
  | _ => false

def Barge.latched (b : Barge) : Bool := decide (b.state ≠ .sent)

/-- Replace barge `b` of a pair. -/
def State.putBarge (s : State) (t : PairId) (b b' : Barge) : State :=
  s.setPair t { s.pair t with slots := (s.pair t).slots.map (fun x => if x = b then b' else x) }

/-- The tiles that an entry covers. -/
def entryTiles (q : QEntry) : W64 := if isFence q then q.vals.headD 0 else 1#64 <<< entryTile q

/-- The pairs of a core's tiles of a mask that are bound to its context. -/
def coverPairs (s : State) (c : CoreId) (m : W64) : List PairId :=
  (List.range 32).filterMap (fun n => if bit m n then (s.pairOf c n).filter (s.boundTo c) else none)

/-- Barges of a core's entry leave a pair. -/
def State.dropEntry (s : State) (c : CoreId) (id : Nat) (t : PairId) : State :=
  s.setPair t { s.pair t with slots := (s.pair t).slots.filter (fun x => !decide (x.core = c ∧ x.q.id = id)) }

/-- A barge leaves its pair; a fence leaves every pair that it covers. -/
def State.dropBarge (s : State) (t : PairId) (b : Barge) : State :=
  if isFence b.q then
    (coverPairs s b.core (entryTiles b.q)).foldl (fun s t => s.dropEntry b.core b.q.id t) (s.dropEntry b.core b.q.id t)
  else s.setPair t { s.pair t with slots := (s.pair t).slots.erase b }

/-! ## Refusals and failures (10 R196 to R199) -/

/-- Codes of R199. -/
def xSmiss : Byte := 0x50
def xNotBound : Byte := 0x51
def xWindow : Byte := 0x52
def xGateErr : Byte := 0x53
def xTileFault : Byte := 0x54

/-- DET of an array failure: local tile, reason, and CYC. -/
def arrayDet (s : State) (tile reason : Nat) : W64 := BitVec.ofNat 64 (tile % 32 + reason * 2 ^ 8 + fld s.cyc 47 0 * 2 ^ 16)

/-- A failed command writes its status word, where it has one and that lies in bounds, counts its whole count with the error,
and posts a record. A maintenance command has no count (25 R356). -/
def failArray (i : Option Nat) (c : CoreId) (q : QEntry) (e : Err) (s : State) : State :=
  let a := statusAddr q
  let s := if !isFence q && s.lmOk c a 8 then s.lmStore c a (toBytes 8 (xsw e.code 0 0 0 0).toNat) else s
  let s := gangFault i c q.berth e.code 2 e.det q.addr s
  (sendCount c (entryObj q) (some (arrayCount q)) (some e) s).updCore c (fun k => k.counted q.id)

/-- The same for a barge of a core or of firmware. -/
def failBarge (b : Barge) (e : Err) (s : State) : State := if b.count = 0 then s else failArray b.launch b.core b.q e s

/-- SMISS: the berth traps, and its later entries are held until RTT; entries of a berth that has exited are discarded
(10 R196). -/
def missBarge (u : TrapUnit) (c : CoreId) (q : QEntry) (s : State) : State :=
  let s := bump (hSmiss (quadOf c)) 1 (s.updCore c (fun k => k.count 9 1))
  if (s.berth c q.berth).exited then
    s.updCore c (Core.dropBarges (decide (u = .sf)) q.berth)
  else
    s.updBerth c q.berth (fun x =>
      { x with pend := x.pend ++ [⟨u, .smiss, q.addr⟩], unitHolds := x.unitHolds ++ [u] })

/-! ## The checks at the sending of a barge (10 R197) -/

/-- A record of the command, if the form uses it. -/
def recordOf (c : CoreId) (q : QEntry) (used : Bool) (tid : Nat) (s : State) : Except Err (Rec × State) :=
  if used then
    match headRec c q.id tid s with
    | .ok x => .ok x
    | .error f => .error f.err
  else .ok (.replicate 8 0, s)

/-- What an array command may read: its three records, checked, with the state after the reads. -/
def arrayRecords (c : CoreId) (q : QEntry) (s : State) : Except Err (Rec × Rec × Rec × State) := do
  let (u1, u2) := lmInputs q.ins
  let (r1, s) ← recordOf c q u1 (entryTid q 2) s
  let (r2, s) ← recordOf c q u2 (entryTid q 3) s
  let (r3, s) ← recordOf c q (decide (outForm q ≠ .none)) (entryTid q 4) s
  let k := akind q.ins
  let ok1 : Fmt → Bool := fun f => if k = .prg then decide (f = .fp32) else inputTag f
  let ok2 : Fmt → Bool := fun f => if k = .fwdb then decide (f = .int16) else ok1 f
  let good3 := match outForm q with
    | .none => true
    | .raw => rawRecOk r3
    | .rows n => lmRecOk (fun f => decide (f = entryFmt q)) n (rowsOut q) r3
  if (!u1 || lmRecOk ok1 (driven q).1 (rowsIn q) r1) && (!u2 || lmRecOk ok2 (driven q).2 (rowsIn2 q) r2) && good3 then
    .ok (r1, r2, r3, s)
  else .error ⟨0x07, arrayDet s (entryTile q) 0⟩

/-- An XFWDB takes its indices from LM. -/
def lmIndices (q : QEntry) : Bool := decide (akind q.ins = .fwdb) && (lmInputs q.ins).2

/-- An entry with the indices of an XFWDB read. -/
def withIndices (s : State) (c : CoreId) (q : QEntry) (in2 : Rec) : QEntry :=
  if akind q.ins = .fwdb then
    { q with vals := q.vals ++ (List.range (products q)).map (fun n => BitVec.ofNat 64 (indexAt s c q in2 n)) }
  else q

/-- The spans of LM that a command reads; the rows that indices in LM name are known at the drive (18 R289; log 67). -/
def inSpans (q : QEntry) (r1 r2 : Rec) : List (Nat × Nat) :=
  let (u1, u2) := lmInputs q.ins
  let gathered : List Int := (q.vals.drop 11).map (fun v => (v.toNat : Int))
  let rows1 : List Int := if akind q.ins = .fwdb then gathered.filter (fun x => decide (x < recExt r1 1)) else rowsIn q
  let in2 := if u2 then spansIn r2 (driven q).2 (rowsIn2 q) else []
  let in1 := if u1 then spansIn r1 (driven q).1 rows1 else []
  in2 ++ in1

/-- Every span of LM that the command reads or writes is present. -/
def arrayBounds (s : State) (c : CoreId) (q : QEntry) (r1 r2 r3 : Rec) : Bool :=
  (inSpans q r1 r2 ++ spansOut q r3).all (fun x => s.lmOk c x.1 x.2)

/-- The first check that fails refuses the command. -/
def checkArray (c : CoreId) (q : QEntry) (t : Option PairId) (s : State) : Except Err (Barge × State) := do
  match t with
  | none => .error ⟨xNotBound, arrayDet s (entryTile q) 0⟩
  | some t =>
    if !s.boundTo c t then .error ⟨xNotBound, arrayDet s (entryTile q) 0⟩
    else
      let (r1, r2, r3, s) ← arrayRecords c q s
      let q := if lmIndices q then q else withIndices s c q r2
      let w := entryWin q
      let col := fld (blk q 5) 17 8
      if !arrayBounds s c q r1 r2 r3 then .error ⟨0x08, arrayDet s (entryTile q) 0⟩
      else if akind q.ins = .xfr ∧ ¬(w.col0 ≤ col ∧ col < w.col0 + w.cols) then
        .error ⟨xWindow, arrayDet s (entryTile q) 1⟩
      else
        let (u1, u2) := lmInputs q.ins
        .ok ({ q := q, core := c, state := if latchNeed q = 0 then .latched else .sent, sent := s.cyc,
               at_ := entryTick q + (if u1 || u2 then 80 else 64), gate := none, inR := r1, in2R := r2, outR := r3,
               out := [], status := 0, count := arrayCount q, n := 0, regs := none, launch := (s.core c).launch }, s)

/-! ## Gates (10 R194, R195) -/

/-- A gate's object has flipped, and whether with an error: as at the flip, whatever has happened to the object since (18 R289). -/
def gateFlipped (s : State) (b : Barge) : Option Bool :=
  let (bo, ph) := entryGate b.q
  let k := s.core b.core
  if (k.obj bo).ph ≠ ph then some (k.flipErr bo !ph) else none

/-- A barge that awaits its gate: the die sees a flip at a given tick. -/
def Barge.watch (b : Barge) (s : State) (seen : W64) : Barge :=
  if b.started || decide (entryMode b.q ≠ 2) || b.gate.isSome then b
  else match gateFlipped s b with
    | some e => { b with gate := some (seen, e) }
    | none => b

/-- The die sees a flip 40 ticks after the tick that made it: the one before the tick that finds it. -/
def watchGate (s : State) (b : Barge) : Barge := b.watch s (s.cyc + 39)

/-! ## The array queue (10 R194, R195, R196, R201, R212) -/

/-- An XFENCE.rel waits for nothing but its berth's BOARM and BOCLR. -/
def isRel (q : QEntry) : Bool :=
  match q.ins with
  | .xfenceRel .. => true
  | _ => false

/-- A fence of all tiles. -/
def fenceAll (q : QEntry) : Bool := isFence q && decide (q.vals.headD 0 = fenceMask 0 true)

/-- An earlier command of the core to one of these tiles has not counted its bytes. -/
def tilesBusy (s : State) (c : CoreId) (tiles : W64) (id : Nat) : Bool :=
  (s.core c).arrQ.any (fun q => decide (q.id < id) && !isRel q && decide (entryTiles q &&& tiles ≠ 0))
  || (List.range 32).any (fun n => bit tiles n && match s.pairOf c n with
      | some t => (s.pair t).slots.any (fun b => decide (b.core = c ∧ b.q.id < id ∧ b.count ≠ 0))
      | none => false)

/-- The first entry that may go, past entries of a berth that the queue holds. -/
def arrayHead (k : Core) : Option QEntry :=
  k.arrQ.find? (fun q => !isRel q && !(k.berth q.berth).unitHolds.contains .arr)

/-- A hold on the entry's tile keeps it in the queue. -/
def heldBack (k : Core) (q : QEntry) : Bool :=
  pulseForm (akind q.ins) && k.holds.any (fun h => decide (h.1.val = entryTile q ∧ h.2 < q.id))

/-- A BOARM or BOCLR that the berth issued before is not applied yet (09 R173). -/
def boPending (k : Core) (q : QEntry) : Bool := k.acc.any (fun a => a.bo && decide (a.berth = q.berth ∧ a.id < q.id))

/-- The head may not be sent in this cycle. -/
def headWaits (k : Core) (q : QEntry) : Bool := k.stopped || boPending k q || heldBack k q

/-- Records that the head reads when it is sent. -/
def arrayTids (s : State) (c : CoreId) : List (Nat × Nat) :=
  match arrayHead (s.core c) with
  | some q =>
    if headWaits (s.core c) q then []
    else
      ((if (lmInputs q.ins).1 then [entryTid q 2] else []) ++ (if (lmInputs q.ins).2 then [entryTid q 3] else [])
      ++ (if outForm q = .none then [] else [entryTid q 4])).map (fun t => (q.id, t))
  | none => []

/-- A fence that covers no pair, or releases a hold, counts its 8 bytes. -/
def endFence (c : CoreId) (q : QEntry) (s : State) : State :=
  sendCount c (issuerObj q) (some 8) none (s.updCore c (fun k => ({ k with arrQ := k.arrQ.erase q } : Core).counted q.id))

/-- Array die and local pair of a physical pair (25 R357). -/
def arrayDie (t : PairId) : Nat := t.val / 136

/-- Joint of the array die of a pair, and of a core's die to the special-function die (27 R374). -/
def pairJoint (t : PairId) : Fin 24 := Fin.ofNat 24 (4 + arrayDie t)
def sfJoint (c : CoreId) : Fin 24 := Fin.ofNat 24 (12 + (dieOf c).val)

/-- LINK as an array or special-function failure (10 R197, R199). -/
def xLink : Byte := 0x03

/-- A pair has a free slot. -/
def State.slotFree (s : State) (t : PairId) : Bool := decide (((s.pair t).held s.cyc).length < 4)

/-- The first tile of a fence that is bound to another context (20 R320). -/
def foreignTile (s : State) (c : CoreId) (q : QEntry) : Option Nat :=
  (List.range 32).find? (fun n => bit (entryTiles q) n && match s.pairOf c n with
    | some t => !s.boundTo c t
    | none => false)

/-- A fence counts its 8 bytes, unless it names a tile of another context. -/
def endOrRefuse (c : CoreId) (q : QEntry) (s : State) : State :=
  match foreignTile s c q with
  | some n => failArray (s.core c).launch c q ⟨xNotBound, arrayDet s n 0⟩ (s.updCore c (fun k =>
    ({ k with arrQ := k.arrQ.erase q } : Core).perform q.id 4))
  | none => endFence c q s

/-- A fence of all tiles goes to every pair that it covers, once each has a free slot (10 R194, R212; log 69). -/
def sendAll (c : CoreId) (q : QEntry) (s : State) : State :=
  let ts := coverPairs s c (entryTiles q)
  if (foreignTile s c q).isNone && !ts.all s.slotFree then s
  else if (foreignTile s c q).isSome || ts.isEmpty then endOrRefuse c q s
  else
    let s := s.updCore c (fun k => ({ k with arrQ := k.arrQ.erase q } : Core).perform q.id 4)
    if !ts.all (fun t => s.joints.get (pairJoint t)) then failArray (s.core c).launch c q ⟨xLink, arrayDet s (entryTile q) 0⟩ s
    else
      let b : Barge := { q := q, core := c, state := .latched, sent := s.cyc, at_ := s.cyc, gate := none, inR := .replicate 8 0,
                         in2R := .replicate 8 0, outR := .replicate 8 0, out := [], status := 0, count := 8, n := 0, regs := none,
                         launch := (s.core c).launch }
      ts.foldl (fun s t => s.setPair t { s.pair t with slots := (s.pair t).slots ++ [b] }) s

/-- The head leaves the queue: a barge in a slot of its pair, or refused. A gate that is open by then is open at once (log 71). -/
def sendHead (c : CoreId) (q : QEntry) (s : State) : State :=
  let t := s.pairOf c (entryTile q)
  let room := match t with
    | some t => s.slotFree t
    | none => true
  if !room then s
  else
    let s := s.updCore c (fun k => ({ k with arrQ := k.arrQ.erase q, vbuf := k.vbuf - q.vops.length } : Core).perform q.id 4)
    match t, checkArray c q t s with
    | some t, .ok (b, s) =>
      if !s.joints.get (pairJoint t) then failArray (s.core c).launch c q ⟨xLink, arrayDet s (entryTile q) 0⟩ s
      else
      let s := match entryMode q, promisedReady q with
        | 1, some n => promise c (entryObj q) (entryStamp q + BitVec.ofNat 64 n) s
        | _, _ => s
      s.setPair t { s.pair t with slots := (s.pair t).slots ++ [b.watch s s.cyc] }
    | _, .error e => failArray (s.core c).launch c q e s
    | none, .ok _ => s

/-- Every release of a hold that need not wait counts. -/
def endReleases (c : CoreId) (s : State) : State :=
  ((s.core c).arrQ.filter (fun q => isRel q && !boPending (s.core c) q)).foldl (fun s q => endOrRefuse c q s) s

/-- The array queue ends releases, and sends its head. -/
def sendArray (c : CoreId) (s : State) : State :=
  let s := endReleases c s
  match arrayHead (s.core c) with
  | some q => if headWaits (s.core c) q then s else if fenceAll q then sendAll c q s else sendHead c q s
  | none => s

/-! ## Operands (05 R62, 10 R194) -/

/-- The operands of the first barge that awaits them reach the latch, if it has room; the next barge's may follow in the
same tick. -/
def execOperandLatched (t : PairId) (s : State) : Out :=
  let p := s.pair t
  match p.slots.find? (fun b => decide (b.state = .sent)) with
  | some b =>
    if cycGe s.cyc b.at_ && decide (p.latched s.cyc + latchNeed b.q ≤ 2) then
      .next ((s.putBarge t b { b with state := .latched }).push [.operandLatched t])
    else .next s
  | none => .next s

/-- The die sees the gate of a barge flipped with an error. -/
def gateFails (cyc : W64) (b : Barge) : Bool :=
  !b.started && match b.gate with
    | some (g, e) => e && cycGe cyc g
    | none => false

/-- Every gate of a pair is watched, and a barge whose gate is seen flipped with an error is refused with GATEERR. -/
def execGateFlipSeen (t : PairId) (s : State) : Out :=
  let s := s.setPair t { s.pair t with slots := (s.pair t).slots.map (watchGate s) }
  .next (((s.pair t).slots.filter (gateFails s.cyc)).foldl (fun s b =>
    failBarge b ⟨xGateErr, arrayDet s (entryTile b.q) 0⟩ (s.dropBarge t b)) s)

/-! ## Issue to the pair (02 R26, 10 R194) -/

/-- Last tick of a stamp. -/
def lastTick (b : Barge) : W64 := entryStamp b.q + b.q.xwin.zeroExtend 64

/-- The next barge of a pair: the first that has not started. -/
def Pair.next (p : Pair) : Option Barge := p.slots.find? (fun b => !b.started)

/-- It may issue at this tick. -/
def mayIssue (s : State) (p : Pair) (b : Barge) : Bool :=
  p.idle s.cyc && b.latched && match entryMode b.q with
    | 1 => cycGe s.cyc (entryStamp b.q) && cycGe (lastTick b) s.cyc
    | 2 => match b.gate with
      | some (g, e) => !e && cycGe s.cyc g
      | none => false
    | _ => true

/-- A command that programs cells waits for the write ceiling (05 R74). -/
def programs (b : Barge) : Bool := decide (akind b.q.ins = .prg ∨ akind b.q.ins = .scrb)

/-- A drift gain in units of 2^-11, within its clamp. -/
def gainUnits (w : W16) : Nat :=
  if fld w 14 10 = 14 then 1024 + fld w 9 0 else if fld w 14 10 = 15 then 2048 + 2 * fld w 9 0 else 4096

/-- Bin of an XCAL's change of DA per hour, in steps of 2^-12 (27 R374). -/
def driftBin (old new : W16) (ticks : Nat) : Nat :=
  let d := (if gainUnits old ≤ gainUnits new then gainUnits new - gainUnits old else gainUnits old - gainUnits new) * 2
  if ticks = 0 then (if d = 0 then 0 else 15) else min 15 (d * 5760000000 / ticks)

/-- An XCAL is counted by its change of DA. -/
def countDrift (t : PairId) (b : Barge) (old new : Pair) (s : State) : State :=
  if akind b.q.ins = .cal then bump (hDrift (arrayDie t) (driftBin old.da new.da (new.lcal - old.lcal).toNat)) 1 s else s

/-- The registers of a pair. -/
def Pair.regs (p : Pair) : TileRegs :=
  { gain := p.gain, da := p.da, dc := p.dc, spr := p.spr, nrm := p.nrm, seed := p.seed, tusn := p.tusn }

/-- A command meets an uncorrectable error of LM (20 R312). -/
def failUce (b : Barge) (line : Nat) (s : State) : State := failBarge b ⟨0x02, BitVec.ofNat 64 line⟩ (bump (hUncorr 0) 1 s)

/-- The line with an error that a command's inputs in LM read. -/
def inErr (s : State) (b : Barge) : Option Nat := (inSpans b.q b.inR b.in2R).findSome? (fun x => s.lmErr b.core x.1 x.2)

/-- The drive begins: every effect on the pair is settled, and its outputs stand ready. Inputs with an error end the command. -/
def startDrive (t : PairId) (b : Barge) (s : State) : State :=
  match inErr s b with
  | some l => failUce b l (s.dropBarge t b)
  | none =>
    let p := s.pair t
    let e := driveEffect s b p
    let free_ := s.cyc + BitVec.ofNat 64 (if e.occ = 0 then e.ready else e.occ)
    let b' := { b with state := .driving free_ (s.cyc + BitVec.ofNat 64 e.ready), out := e.out, status := e.status,
                       regs := some p.regs }
    let s := countDrift t b p e.pair { s with free := s.free + e.free }
    (s.setPair t { e.pair with busyUntil := s.cyc + BitVec.ofNat 64 e.occ }).putBarge t b b'

/-- The rows that an XFWDB's indices in LM name, as they stand at the drive, lie in present windows. -/
def gatherOk (s : State) (b : Barge) : Bool :=
  ((b.q.vals.drop 11).map (fun v => (v.toNat : Int))).all (fun x => decide (recExt b.inR 1 ≤ x)
    || (spansIn b.inR (driven b.q).1 [x]).all (fun y => s.lmOk b.core y.1 y.2))

/-- A command's turn on its pair. Indices in LM are read here. A fence starts to wait for the commands before it. One that
programs cells waits for its place under the ceiling. -/
def issueBarge (t : PairId) (b : Barge) (s : State) : State :=
  if isFence b.q then (s.putBarge t b { b with state := .fenced }).push [.arrayCommandComplete t false]
  else if programs b then
    ({ s.putBarge t b { b with state := .ceiling } with writeWait := s.writeWait ++ [t] }).push [.arrCeilingAdmit t]
  else if lmIndices b.q && (inErr s b).isNone then
    let b' := { b with q := withIndices s b.core b.q b.in2R }
    if gatherOk s b' then startDrive t b' (s.putBarge t b b')
    else failBarge b ⟨0x08, arrayDet s (entryTile b.q) 0⟩ (s.dropBarge t b)
  else startDrive t b s

/-- The pair takes its next command; one without occupancy leaves the tick to the one after it. -/
def execBargeIssue (t : PairId) (s : State) : Out :=
  let p := s.pair t
  match p.next with
  | some b => if mayIssue s p b then .next ((issueBarge t b s).push [.bargeIssue t]) else .next s
  | none => .next s

/-- Tiles that may run write phases at one time. -/
def writeCeiling : Nat := 256

/-- Ticks of the gate's XSCRB on a tile (05 R75, 21 R335). -/
def gateTicks : Nat := 72000000

/-- A tile of the scrub gate begins its XSCRB. Which tiles of its quad still fail after four attempts is free (log 8). -/
def gateBegins (t : PairId) (s : State) : State :=
  let (v, s) := s.draw
  let e := s.cyc + BitVec.ofNat 64 gateTicks
  let s := { s with gate := s.gate.map (fun (x : PairId × Option W64) => if x.1 = t then (t, some e) else x) }
  (s.setPair t { s.pair t with busyUntil := e }).later gateTicks (.scrubGateDone (.quad (tileQuad (s.pair t).tile)) (v.truncate 32))

/-- A write phase is admitted, in issue order: of a command, or of the scrub gate. It has its place until it ends, and the next
in line follows. -/
def execArrCeilingAdmit (t : PairId) (s : State) : Out :=
  let held := s.writing.filter (fun e => !cycGe s.cyc e)
  match s.writeWait with
  | w :: r =>
    if w = t ∧ held.length < writeCeiling then
      let b := (s.pair t).slots.find? (fun b => decide (b.state = .ceiling))
      let n := match b with
        | some b => programTicks (entryWin b.q)
        | none => gateTicks
      let s := ({ s with writing := held ++ [s.cyc + BitVec.ofNat 64 n], writeWait := r }).push
        (r.head?.toList.map Ev.arrCeilingAdmit)
      match b with
      | some b => .next (startDrive t b s)
      | none => .next (gateBegins t s)
    else .next s
  | [] => .next s

/-- Why a stamped barge is late, in the order 3, 2, 1 (10 R196): sent late, the pair occupied, operands not latched. -/
def missReason (p : Pair) (b : Barge) : Nat :=
  if !cycGe (lastTick b) b.sent then 3
  else if !cycGe (lastTick b) p.busyUntil || p.slots.any (fun x => decide (x.state = .ceiling)) || decide (p.next ≠ some b) then 2
  else 1

/-- A stamped barge that has not started by the end of its window. -/
def expired (s : State) (b : Barge) : Bool := !b.started && decide (entryMode b.q = 1) && !cycGe (lastTick b) s.cyc

def execStampWindowExpiry (t : PairId) (s : State) : Out :=
  match (s.pair t).slots.find? (expired s) with
  | some b =>
    let r := missReason (s.pair t) b
    .next ((missBarge .arr b.core b.q (failBarge b ⟨xSmiss, arrayDet s (entryTile b.q) r⟩ (s.dropBarge t b))).push
      [.stampWindowExpiry t])
  | none => .next s

/-! ## The end of a command (05 R66, R75, 10 R198, R199) -/

/-- Outputs go to LM at the completion, then the status word: before it a load reads the old bytes (05 R76; log 70). -/
def writeOutputs (b : Barge) (s : State) : State :=
  (b.out.foldl (fun s x => s.lmStore b.core x.1 x.2) s).lmStore b.core (statusAddr b.q) (toBytes 8 b.status.toNat)

/-- A line with an error that a command's outputs cover in part. -/
def outErr (s : State) (b : Barge) : Option Nat :=
  (b.out ++ [(statusAddr b.q, toBytes 8 0)]).findSome? (fun x => s.lmPart b.core x.1 x.2.length)

/-- A barge whose bytes are due: its ready time has come, or a fence has nothing before it. -/
def isDue (s : State) (b : Barge) : Bool :=
  match b.state with
  | .driving _ ready => cycGe s.cyc ready
  | .fenced => !tilesBusy s b.core (entryTiles b.q) b.q.id
  | _ => false

/-- The barge whose bytes are due. -/
def dueBarge (s : State) (p : Pair) : Option Barge := p.slots.find? (isDue s)

/-- The registers that a command of a kind sets go back to what they were before its drive (10 R199). -/
def Pair.restore (p : Pair) (b : Barge) (r : TileRegs) : Pair :=
  let w := entryWin b.q
  let inside := fun (c : Nat) => decide (w.col0 ≤ c ∧ c < w.col0 + w.cols)
  let spr := ((List.finRange 1024).map (fun (c : Fin 1024) => if inside c.val then r.spr.get c else p.spr.get c)).toArray
  let nrm := ((List.finRange 1024).map (fun (c : Fin 1024) => if inside c.val then r.nrm.get c else p.nrm.get c)).toArray
  match akind b.q.ins with
  | .cal => { p with da := r.da, dc := r.dc }
  | .sym => { p with spr := ⟨spr, by simp [spr]⟩ }
  | .norm => { p with nrm := ⟨nrm, by simp [nrm]⟩ }
  | .gset => { p with gain := r.gain, seed := r.seed, tusn := if bit (blk b.q 5) 17 then r.tusn else p.tusn }
  | .scrb => { p with gain := r.gain, da := r.da, dc := r.dc, seed := r.seed, tusn := r.tusn, spr := ⟨spr, by simp [spr]⟩,
                      nrm := ⟨nrm, by simp [nrm]⟩ }
  | _ => p

/-- On a TILEFAULT the pair keeps its last good registers. -/
def keepRegs (t : PairId) (b : Barge) (s : State) : State :=
  match b.regs with
  | some r => s.setPair t ((s.pair t).restore b r)
  | none => s

/-- Fences of a core that a count may have ended. -/
def fenceEvents (s : State) (c : CoreId) : List Ev :=
  (coverPairs s c (fenceMask 0 true)).filterMap (fun t =>
    if (s.pair t).slots.any (fun b => decide (b.state = .fenced ∧ b.core = c)) then some (.arrayCommandComplete t false) else none)

/-- What follows an end on a pair in the same tick: another end there, and the ends of fences. -/
def afterEnd (t : PairId) (c : CoreId) (s : State) : State := s.push (.arrayCommandComplete t false :: fenceEvents s c)

/-- A command ends: its outputs and status are written and counted, or it fails with TILEFAULT. -/
def execArrayCommandComplete (t : PairId) (fail : Bool) (s : State) : Out :=
  match dueBarge s (s.pair t) with
  | none => .next s
  | some b =>
    let s := s.dropBarge t b
    if fail then
      let (v, s) := (keepRegs t b s).draw
      .next (afterEnd t b.core
        (failBarge b ⟨xTileFault, arrayDet s (entryTile b.q) (1 + v.toNat % 3)⟩ (bump (hUncorr 7) 1 (bump (hTile (arrayDie t) 0) 1 s))))
    else if b.count = 0 then .next (afterEnd t b.core s)
    else if !s.joints.get (pairJoint t) then
      .next (afterEnd t b.core (failBarge b ⟨xLink, arrayDet s (entryTile b.q) 0⟩ s))
    else if (outErr s b).isSome && !isFence b.q then .next (afterEnd t b.core (failUce b ((outErr s b).getD 0) s))
    else
      let s := if fld b.status 7 0 = 0x42 then bump (hTile (arrayDie t) 1) 1 s else s
      let s := sendCount b.core (entryObj b.q) (some b.count) none (if isFence b.q then s else writeOutputs b s)
      .next (afterEnd t b.core (s.updCore b.core (fun k => k.counted b.q.id)))

end Sys2Proof.Machine
end

