-- ==== Sys2Proof/Machine/Real.lean ====
section
/-! DEFINITION. The elementary functions of the special-function die, as numbers of 700 fraction bits: far below the
spacing of any format, so that a result is the exact value's own wherever the value is irrational (spec 10 R216 to R218; log 9). -/

namespace Sys2Proof.Machine

open Sys2Proof

/-! ## Fixed point: an integer v stands for v x 2^-700 -/

def fxBits : Nat := 700
def fxOne : Int := 2 ^ fxBits
def fxMul (a b : Int) : Int := a * b / fxOne
def fxDiv (a b : Int) : Int := a * fxOne / b

/-- The sum of n terms, each made from the one before it. -/
def fxSeries (next : Nat → Int → Int) (n : Nat) (t : Int) : Int :=
  ((List.range n).foldl (fun (a : Int × Int) k => (next k a.1, a.2 + a.1)) (t, 0)).2

/-- The sum of t x t2^k / (2k + 1): an inverse tangent, hyperbolic where t2 is the square of t. -/
def fxOdd (n : Nat) (t t2 : Int) : Int :=
  ((List.range n).foldl (fun (a : Int × Int) (k : Nat) => (fxMul a.1 t2, a.2 + a.1 / (2 * k + 1 : Nat))) (t, 0)).2

def fxAtanh (t : Int) : Int := fxOdd 240 t (fxMul t t)

def fxLn2 : Int := 2 * fxAtanh (fxOne / 3)

/-- Four times the arctangent of 1, by Machin's sum. -/
def fxPi : Int := 16 * fxOdd 160 (fxOne / 5) (-fxOne / 25) - 4 * fxOdd 160 (fxOne / 239) (-fxOne / 57121)

/-- e^x for |x| up to 800: the series at x / 2^20, squared 20 times. -/
def fxExp (x : Int) : Int :=
  let y := x / 2 ^ 20
  (List.range 20).foldl (fun a _ => fxMul a a) (fxSeries (fun k t => fxMul t y / (k + 1 : Nat)) 60 fxOne)

/-- ln of m x 2^e, with the mantissa brought to 3/4 up to 3/2. -/
def fxLn (m : Nat) (e : Int) : Int :=
  let l := Nat.log2 m
  let v : Int := (m : Int) * fxOne / 2 ^ l
  let (v, e) := if 3 * fxOne ≤ 2 * v then (v / 2, e + l + 1) else (v, e + l)
  2 * fxAtanh (fxDiv (v - fxOne) (v + fxOne)) + e * fxLn2

/-- Sine and cosine, of the angle less its whole turns. -/
def fxTurn (x : Int) : Int := (x + fxPi) % (2 * fxPi) - fxPi
def fxSin (x : Int) : Int :=
  let r := fxTurn x
  fxSeries (fun k t => -(fxMul t (fxMul r r) / ((2 * k + 2) * (2 * k + 3) : Nat))) 100 r
def fxCos (x : Int) : Int :=
  let r := fxTurn x
  fxSeries (fun k t => -(fxMul t (fxMul r r) / ((2 * k + 1) * (2 * k + 2) : Nat))) 100 fxOne

/-- erf z for |z| up to 15: (2 / sqrt pi) e^(-z^2) times the sum of 2^n z^(2n+1) / (2n+1)!!. -/
def fxErf (z : Int) : Int :=
  let z2 := fxMul z z
  let root : Int := isqrt (fxPi * fxOne).toNat
  fxDiv (2 * fxMul (fxExp (-z2)) (fxSeries (fun k t => fxMul t (2 * z2) / (2 * k + 3 : Nat)) 1100 z)) root

/-! ## Between values and fixed point -/

/-- An irrational value; one below the last fraction bit is not zero. -/
def fxReal (v : Int) : XR := .fin (decide (v < 0)) (max 1 v.natAbs) (-(fxBits : Int)) true

/-- A finite value held to a range, beyond which a function has its limit as far as any format can tell. -/
def fxOf (lim : Int) : XR → Int
  | .fin n m e _ =>
    let v : Int := if (lim.natAbs : Int) < (m : Int) * 2 ^ (e.toNat) ∧ 0 ≤ e then lim * fxOne
      else min (lim * fxOne) (if 0 ≤ e + fxBits then (m : Int) * 2 ^ (e + fxBits).toNat else (m : Int) / 2 ^ (-(e + fxBits)).toNat)
    if n then -v else v
  | _ => 0

/-- A finite value as it stands. -/
def fxAll (x : XR) : Int := fxOf (2 ^ 200) x

/-- 1 / (1 + e^-x). -/
def fxSig (x : Int) : Int := fxDiv fxOne (fxOne + fxExp (-x))

/-- The square root of a positive value, and its reciprocal. -/
def rootOf (m : Nat) (e : Int) : XR :=
  let (m, e) := if e % 2 = 0 then (m, e) else (2 * m, e - 1)
  let r := isqrt (m * 2 ^ 600)
  .fin false r (e / 2 - 300) (decide (r * r ≠ m * 2 ^ 600))
def invRoot (m : Nat) (e : Int) : XR :=
  let (m, e) := if e % 2 = 0 then (m, e) else (2 * m, e - 1)
  let r := isqrt (2 ^ 1200 / m)
  .fin false r (-(e / 2) - 600) (decide (r * r * m ≠ 2 ^ 1200))

/-- log2 of a power of two. -/
def powerOf2 (m : Nat) (e : Int) : Option Int := if m = 2 ^ Nat.log2 m then some ((Nat.log2 m : Int) + e) else none

/-- The exponent of a value that is a small integer. -/
def asInt (x : XR) : Option Int :=
  match x with
  | .fin n m e _ =>
    let v : Int := if 0 ≤ e then (m * 2 ^ e.toNat : Nat) else (m / 2 ^ (-e).toNat : Nat)
    if (0 ≤ e ∧ e < 16) ∨ (e < 0 ∧ m % 2 ^ (-e).toNat = 0) then some (if n then -v else v) else none
  | _ => none

/-- The value of a function, by its OPC less 0x300, at a finite argument that is not zero, where it is a real number
(10 R216). -/
def elementary (f : Fin 15) (x : XR) : XR :=
  match f.val, x with
  | 0, _ => fxReal (fxExp (fxOf 400 x))
  | 1, _ => match asInt x with
    | some n => if n.natAbs ≤ 600 then .fin false 1 n false else fxReal (fxExp (fxMul (fxOf 600 x) fxLn2))
    | none => fxReal (fxExp (fxMul (fxOf 600 x) fxLn2))
  | 2, .fin _ m e _ => fxReal (fxLn m e)
  | 3, .fin _ m e _ => match powerOf2 m e with
    | some n => XR.ofInt n
    | none => fxReal (fxDiv (fxLn m e) fxLn2)
  | 4, _ => XR.quot (XR.ofInt 1) x 400
  | 5, .fin _ m e _ => invRoot m e
  | 6, .fin _ m e _ => rootOf m e
  | 7, _ =>
    let u := fxExp (2 * fxOf 200 x)
    fxReal (fxDiv (u - fxOne) (u + fxOne))
  | 8, _ => fxReal (fxSig (fxOf 400 x))
  | 9, _ =>
    let z := fxDiv (fxOf 21 x) (isqrt (2 * fxOne * fxOne).toNat)
    (XR.mul x (fxReal ((fxOne + fxErf z) / 2))).1
  | 10, _ => (XR.mul x (fxReal (fxSig (fxOf 400 x)))).1
  | 11, _ => fxReal (fxSin (fxAll x))
  | 12, _ => fxReal (fxCos (fxAll x))
  | 13, _ => fxReal (fxErf (fxOf 15 x))
  | _, _ => .nan

end Sys2Proof.Machine
end

