-- ==== Sys2Proof/Machine/SpecialFn.lean ====
section
/-! DEFINITION. Special-function forms and the special-function die (spec 10 R194 to R201, R213 to R220). -/

namespace Sys2Proof.Machine

open Sys2Proof

/-! ## Issue (10 R213, R214) -/

/-- Block fields of the special-function forms. -/
def sfUse : BlockUse :=
  { win := false, prod := false, in1 := true, in2 := false, out := true, p1 := true, p2 := false }

/-- NR: 1 to 65536 rows. -/
def sfP1 (w : W64) : Bool := decide (1 ≤ w.toNat ∧ w.toNat ≤ 65536)

/-- A special-function word: its entry joins the queue as a command that has not counted its bytes. -/
def sfWord (i : Instr) (h : Head) (bo : Ref) (cb : SSrc) (rep : Rep) (s : State) : Out :=
  issue i h (do
    let o ← readRef 1 bo
    let a ← readS 2 cb
    let r ← readRep 4 0 rep
    aligned 2 a 64
    refOk 1 o
    let w ← readBlock a sfUse false sfP1 anyP
    let nr : Int := ((w.getD 5 0).toNat : Nat)
    let step : Int := match rep with
      | .imm _ => nr
      | .src _ => r.2
    let q ← captured i o (r.1, step) [] []
    let q : QEntry := { q with vals := arrayVals 0 w (← get) }
    updSelf (fun k => { k with
      acc := k.acc ++ [{ id := q.id, berth := q.berth, kinds := kindsOf (opcOf i), bo := false, arr := true, cpy := false }],
      sfQ := k.sfQ ++ [q] })) s

def execFexp (h : Head) (bo : Ref) (cb : SSrc) (acc : Bool) (rep : Rep) (s : State) : Out :=
  sfWord (.fexp h bo cb acc rep) h bo cb rep s
def execFexp2 (h : Head) (bo : Ref) (cb : SSrc) (acc : Bool) (rep : Rep) (s : State) : Out :=
  sfWord (.fexp2 h bo cb acc rep) h bo cb rep s
def execFlog (h : Head) (bo : Ref) (cb : SSrc) (acc : Bool) (rep : Rep) (s : State) : Out :=
  sfWord (.flog h bo cb acc rep) h bo cb rep s
def execFlog2 (h : Head) (bo : Ref) (cb : SSrc) (acc : Bool) (rep : Rep) (s : State) : Out :=
  sfWord (.flog2 h bo cb acc rep) h bo cb rep s
def execFrcp (h : Head) (bo : Ref) (cb : SSrc) (acc : Bool) (rep : Rep) (s : State) : Out :=
  sfWord (.frcp h bo cb acc rep) h bo cb rep s
def execFrsq (h : Head) (bo : Ref) (cb : SSrc) (acc : Bool) (rep : Rep) (s : State) : Out :=
  sfWord (.frsq h bo cb acc rep) h bo cb rep s
def execFsqrt (h : Head) (bo : Ref) (cb : SSrc) (acc : Bool) (rep : Rep) (s : State) : Out :=
  sfWord (.fsqrt h bo cb acc rep) h bo cb rep s
def execFtanh (h : Head) (bo : Ref) (cb : SSrc) (acc : Bool) (rep : Rep) (s : State) : Out :=
  sfWord (.ftanh h bo cb acc rep) h bo cb rep s
def execFsig (h : Head) (bo : Ref) (cb : SSrc) (acc : Bool) (rep : Rep) (s : State) : Out :=
  sfWord (.fsig h bo cb acc rep) h bo cb rep s
def execFgelu (h : Head) (bo : Ref) (cb : SSrc) (acc : Bool) (rep : Rep) (s : State) : Out :=
  sfWord (.fgelu h bo cb acc rep) h bo cb rep s
def execFsilu (h : Head) (bo : Ref) (cb : SSrc) (acc : Bool) (rep : Rep) (s : State) : Out :=
  sfWord (.fsilu h bo cb acc rep) h bo cb rep s
def execFsin (h : Head) (bo : Ref) (cb : SSrc) (acc : Bool) (rep : Rep) (s : State) : Out :=
  sfWord (.fsin h bo cb acc rep) h bo cb rep s
def execFcos (h : Head) (bo : Ref) (cb : SSrc) (acc : Bool) (rep : Rep) (s : State) : Out :=
  sfWord (.fcos h bo cb acc rep) h bo cb rep s
def execFerf (h : Head) (bo : Ref) (cb : SSrc) (acc : Bool) (rep : Rep) (s : State) : Out :=
  sfWord (.ferf h bo cb acc rep) h bo cb rep s
def execFsmax (h : Head) (bo : Ref) (cb : SSrc) (acc : Bool) (rep : Rep) (s : State) : Out :=
  sfWord (.fsmax h bo cb acc rep) h bo cb rep s

/-! ## Function and grade of an entry -/

/-- OPC less 0x300. -/
def sfIndex : Instr → Fin 15
  | .fexp2 .. => 1
  | .flog .. => 2
  | .flog2 .. => 3
  | .frcp .. => 4
  | .frsq .. => 5
  | .fsqrt .. => 6
  | .ftanh .. => 7
  | .fsig .. => 8
  | .fgelu .. => 9
  | .fsilu .. => 10
  | .fsin .. => 11
  | .fcos .. => 12
  | .ferf .. => 13
  | .fsmax .. => 14
  | _ => 0

/-- The accurate grade. -/
def sfAcc : Instr → Bool
  | .fexp _ _ _ a _ | .fexp2 _ _ _ a _ | .flog _ _ _ a _ | .flog2 _ _ _ a _ | .frcp _ _ _ a _
  | .frsq _ _ _ a _ | .fsqrt _ _ _ a _ | .ftanh _ _ _ a _ | .fsig _ _ _ a _ | .fgelu _ _ _ a _
  | .fsilu _ _ _ a _ | .fsin _ _ _ a _ | .fcos _ _ _ a _ | .ferf _ _ _ a _ | .fsmax _ _ _ a _ => a
  | _ => false

/-! ## Values (10 R215 to R218) -/

/-- An exact value with an inexact flag of its own. -/
structure SfIn where
  f : Fin 15
  acc : Bool
  src : Fmt
  dst : Fmt

/-- Element of a source as the pipe reads it: the fast grade reads a subnormal as a zero of its sign. -/
def sfRead (i : SfIn) (c : W32) : XR :=
  match decFloat i.src c with
  | .fin n m e st => if !i.acc && decide (m < 2 ^ mBits i.src) then .fin n 0 0 false else .fin n m e st
  | x => x

/-- A code below the normal range of a format. -/
def belowNormal (f : Fmt) (c : W32) : Bool :=
  decide (c.toNat / 2 ^ (mBits f) % 2 ^ eBits f = 0)

def zeroOf (f : Fmt) (neg : Bool) : W32 := BitVec.ofNat 32 (b2n neg * 2 ^ signBit f)

/-- A result as written: the fast grade writes a zero with UF for a result below the normal range; the accurate one
flags an inexact result there (04 R50, 10 R215). -/
def sfWrite (i : SfIn) (c : W32) (nx : Bool) : W32 × Flags :=
  let c := BitVec.ofNat 32 (c.toNat % 2 ^ width i.dst)
  let fl : Flags := if nx then Flags.nx else 0
  if belowNormal i.dst c && (nx || decide (c.toNat % 2 ^ signBit i.dst ≠ 0)) then
    if i.acc then (c, if nx then fl ||| Flags.uf else fl)
    else (zeroOf i.dst (bit c (signBit i.dst)), Flags.nx ||| Flags.uf)
  else (c, fl)

/-- An exact value written with RNE. -/
def sfExact (i : SfIn) (x : XR) : W32 × Flags :=
  let r := roundTo x i.dst .rne 0
  let w := sfWrite i r.1 (decide (r.2 &&& Flags.nx ≠ 0))
  (w.1, w.2 ||| (r.2 &&& Flags.ovf))

def sfNan (i : SfIn) (fl : Flags) : W32 × Flags := (nanCode i.dst, fl)
def sfInf (i : SfIn) (neg : Bool) (fl : Flags) : W32 × Flags := (infCode i.dst neg, fl)

/-- The part's own result bits of an element (10 R217). -/
def sfBits (i : SfIn) (c : W32) : W32 := BitVec.ofNat 32 ((Config.special i.f i.acc i.src i.dst [c] 0).toNat % 2 ^ width i.dst)

/-- Spacing of a format at a value, as an exponent (04 R50). -/
def spacing (f : Fmt) : XR → Int
  | .fin _ m e _ => quantum f m e
  | _ => 0

/-- How far a result may lie from the exact value: in spacings of its format at that value, or an absolute power of two. -/
inductive SfBound | spacings (k : Nat) | within (e : Int)
  deriving DecidableEq, Repr

/-- |x| at most some value. -/
def XR.upTo (x lim : XR) : Bool := !lim.lt x.abs

/-- The bound on a result at an argument whose exact value is y (10 R217). -/
def sfBound (i : SfIn) (x y : XR) : SfBound :=
  let u := fun (short long : Nat) => SfBound.spacings (if i.dst = .fp32 then long else short)
  let abs := fun (short long : Int) => SfBound.within (if i.dst = .fp32 then long else short)
  if i.acc then .spacings 1
  else match i.f.val with
    | 0 => if x.upTo (dy 1 0) then u 1 24 else u 2 48
    | 1 => u 1 24
    | 2 | 3 => if !x.lt (dy 3 (-2)) && x.lt (dy 3 (-1)) then abs (-12) (-20) else u 2 32
    | 4 | 6 => u 1 8
    | 5 => u 1 16
    | 7 | 13 => if x.abs.lt (dy 1 (-5)) then u 2 64 else u 1 32
    | 8 => if !x.lt (dy (-1) 4) then u 1 32 else u 2 128
    | 9 | 10 => if !x.lt (dy (-1) 2) then u 2 64 else abs (-10) (-18)
    | 11 | 12 =>
      if !x.upTo (fxReal (4 * fxPi)) then abs (-8) (-14)
      else if y.abs.lt (dy 1 (-4)) then abs (-12) (-20) else u 2 64
    | _ => u 2 64

/-- The part's bits, where they lie within the bound of the exact value; the nearest code where they would not, or where the
exact value lies beyond the format. -/
def sfNear (i : SfIn) (r : W32) (y : XR) (b : SfBound) : W32 × Flags :=
  let d := (xsub (decFloat i.dst r) y).abs
  let lim := match b with
    | .spacings k => dy k (spacing i.dst y)
    | .within e => dy 1 e
  let nearest := roundTo y i.dst .rne 0
  if nearest.2 &&& Flags.ovf ≠ 0 then (nearest.1, nearest.2 ||| Flags.nx)
  else if (match decFloat i.dst r with | .fin .. => true | _ => false) && !lim.lt d then
    sfWrite i r (!d.isZero || (match y with | .fin _ _ _ st => st | _ => false))
  else sfExact i y

/-- The value 1. -/
def XR.isOne (x : XR) : Bool := !x.lt (XR.ofInt 1) && !(XR.ofInt 1).lt x

/-- |x| above 2^16, where the fast grade gives no sine. -/
def farAngle (x : XR) : Bool := (dy 1 16).lt x.abs

/-- The value of a function at an element code (10 R216, R217). -/
def sfValue (i : SfIn) (c : W32) : W32 × Flags :=
  let one : W32 × Flags := sfExact i (XR.ofInt 1)
  let zero := fun (n : Bool) => ((zeroOf i.dst n, 0) : W32 × Flags)
  match sfRead i c with
  | .nan => sfNan i 0
  | .inf neg =>
    match i.f.val with
    | 0 | 1 => if neg then zero false else sfInf i false 0
    | 2 | 3 | 6 => if neg then sfNan i Flags.nv else sfInf i false 0
    | 4 => zero neg
    | 5 => if neg then sfNan i Flags.nv else zero false
    | 7 | 13 => sfExact i (XR.ofInt (if neg then -1 else 1))
    | 8 => if neg then zero false else one
    | 9 | 10 => if neg then zero true else sfInf i false 0
    | _ => sfNan i Flags.nv
  | .fin neg m e st =>
    let x := XR.fin neg m e st
    if m = 0 then
      match i.f.val with
      | 0 | 1 | 12 => one
      | 2 | 3 => sfInf i true Flags.dz
      | 4 | 5 => sfInf i neg Flags.dz
      | 8 => sfExact i (dy 1 (-1))
      | _ => zero neg
    else
      let y := elementary i.f x
      let near := sfNear i (sfBits i c) y (sfBound i x y)
      match i.f.val with
      | 2 | 3 => if neg then sfNan i Flags.nv else if x.isOne then zero false else near
      | 5 | 6 => if neg then sfNan i Flags.nv else near
      | 11 | 12 => if !i.acc && farAngle x then sfNan i Flags.nv else near
      | _ => near

/-- A row of FSMAX (10 R218). -/
def smaxRow (i : SfIn) (cs : List W32) : List (W32 × Flags) :=
  let xs := cs.map (sfRead i)
  let tops := (xs.filter (fun x => decide (x = .inf false))).length
  if xs.any XR.isNaN then cs.map (fun _ => sfNan i 0)
  else if 0 < tops then
    xs.map (fun x => if x = .inf false then sfExact i (xquot (XR.ofInt 1) (XR.ofInt tops)) else (zeroOf i.dst false, 0))
  else if xs.all (fun x => decide (x = .inf true)) then cs.map (fun _ => sfNan i Flags.nv)
  else
    -- equal elements share the whole exactly; any others give irrational quotients
    let fin := xs.filter (fun x => decide (x ≠ .inf true))
    let same := fin.all (fun x => fin.all (fun y => !x.lt y))
    let top := fin.foldl (fun a x => if a.lt x then x else a) (fin.headD .zero)
    let power := fun (x : XR) => fxExp (fxOf 400 (xsub x top))
    let total := (fin.map power).sum
    xs.mapIdx (fun k x =>
      let r := BitVec.ofNat 32 ((Config.special i.f i.acc i.src i.dst cs k).toNat % 2 ^ width i.dst)
      let y := if same then xquot (XR.ofInt 1) (XR.ofInt fin.length) else fxReal (fxDiv (power x) total)
      if x = .inf true then (zeroOf i.dst false, 0) else sfNear i r y (sfBound i x y))

/-! ## Transfers (10 R214, R220) -/

def sfRows (q : QEntry) : Nat := fld (blk q 5) 23 0

/-- First row of transfer t in IN or OUT. -/
def sfRow (q : QEntry) (i t : Nat) : Int := entryRow q i + t * q.step

/-- The two records of a command meet R214; that they need a rank of at least 2 and stride 1 in dimension 0, as those of array commands
do, is taken from R193 (DESIGN CHOICE, log 80). -/
def sfShapes (q : QEntry) (r1 r3 : Rec) : Bool :=
  let rows := fun (i : Nat) => (List.range (q.rep + 1)).flatMap (fun (t : Nat) =>
    [sfRow q i t, sfRow q i t + (sfRows q : Int) - 1])
  lmRecOk inputTag 0 (rows 2) r1 && lmRecOk inputTag 0 (rows 4) r3 && decide (recExt r1 0 = recExt r3 0)
  && (decide (sfIndex q.ins ≠ 14) || decide (recExt r1 0 ≤ 8192))

/-- Destination data bytes over all transfers, and 8 (10 R214); read from the record of OUT. -/
def sfCount (q : QEntry) (r3 : Rec) : Nat := (q.rep + 1) * sfRows q * recExt r3 0 * (width (recFmt r3) / 8) + 8

/-- A row's span. -/
def rowSpan (r : Rec) (row : Int) : Nat × Nat := (rowAddr r row, recExt r 0 * (width (recFmt r) / 8))

/-- Every row and the status word lie in present windows. -/
def sfBounds (s : State) (c : CoreId) (q : QEntry) (r1 r3 : Rec) : Bool :=
  s.lmOk c (entryStat q) 8 &&
  (List.range (q.rep + 1)).all (fun t => (List.range (sfRows q)).all (fun (n : Nat) =>
    let a := rowSpan r1 (sfRow q 2 t + n)
    let b := rowSpan r3 (sfRow q 4 t + n)
    s.lmOk c a.1 a.2 && s.lmOk c b.1 b.2))

/-- Ticks that cover core cycles at the present core clock (00 R2). -/
def State.ticksOf (s : State) (cycles : Nat) : Nat := (cycles * 16 + s.freq - 1) / s.freq

/-- Ticks of the pipe for one transfer. -/
def sfTicks (s : State) (q : QEntry) (r1 : Rec) : Nat :=
  let n := sfRows q * recExt r1 0
  let per := if sfAcc q.ins then (n + 127) / 128 else (n + 255) / 256
  let rows := if sfIndex q.ins = 14 then sfRows q * ((recExt r1 0 + 255) / 256) else 0
  s.ticksOf (per + rows)

/-- Ready time of transfer t, from the start at the die. -/
def sfReady (s : State) (q : QEntry) (r1 : Rec) (t : Nat) : Nat := 384 + (t + 1) * sfTicks s q r1

/-! ## Failures (10 R196, R199, R219) -/

/-- SFSW (10 R219). -/
def sfsw (code : Byte) (fl : W64) : W64 := fl <<< 8 ||| code.zeroExtend 64

/-- A failed command writes its status word, with the flags of what was written, and counts the whole with the error. -/
def failSf (i : Option Nat) (c : CoreId) (q : QEntry) (fl : W64) (n : Option Nat) (e : Err) (s : State) : State :=
  let s := if s.lmOk c (entryStat q) 8 then s.lmStore c (entryStat q) (toBytes 8 (sfsw e.code fl).toNat) else s
  let s := gangFault i c q.berth e.code 3 e.det q.addr s
  (sendCount c (issuerObj q) n (some e) s).updCore c (fun k => k.counted q.id)

/-! ## The special-function queue and die (10 R194 to R197, R220) -/

/-- The records of a command, checked. -/
def sfRecords (c : CoreId) (q : QEntry) (s : State) : Except Err (Rec × Rec × State) := do
  let (r1, s) ← recordOf c q true (entryTid q 2) s
  let (r3, s) ← recordOf c q true (entryTid q 4) s
  if !sfShapes q r1 r3 then .error ⟨0x07, arrayDet s 0 0⟩
  else if !sfBounds s c q r1 r3 then .error ⟨0x08, arrayDet s 0 0⟩
  else if !s.joints.get (sfJoint c) then .error ⟨xLink, arrayDet s 0 0⟩
  else .ok (r1, r3, s)

/-- A refused command counts what its OUT record gives, or all that the object still expects where there is no usable
record (log 20). -/
def sfRefusedCount (c : CoreId) (q : QEntry) (s : State) : Option Nat :=
  match recordOf c q true (entryTid q 4) s with
  | .ok (r, _) => if recState r = .good then some (sfCount q r) else none
  | .error _ => none

/-- The entry that the special-function queue may send next. -/
def sfHead (k : Core) : Option QEntry := k.sfQ.find? (fun q => !(k.berth q.berth).unitHolds.contains .sf)

/-- Records that the next barges of a core read. -/
def sfTids (s : State) (c : CoreId) : List (Nat × Nat) :=
  match sfHead (s.core c) with
  | some q => if (s.core c).stopped || boPending (s.core c) q then [] else [(q.id, entryTid q 2), (q.id, entryTid q 4)]
  | none => []

/-- The queue sends its head as a barge: the promise is written. The die takes no operand but from LM, so its operands stand
when it is sent (log 72). -/
def sendSf (c : CoreId) (s : State) : State :=
  let k := s.core c
  match sfHead k with
  | none => s
  | some q =>
    if k.stopped || boPending k q then s
    else
      let s := s.updCore c (fun k => ({ k with sfQ := k.sfQ.erase q } : Core).perform q.id 4)
      match sfRecords c q s with
      | .error e => failSf k.launch c q 0 (sfRefusedCount c q s) e s
      | .ok (r1, r3, s) =>
        let s := promise c (issuerObj q) (s.cyc + BitVec.ofNat 64 (sfReady s q r1 q.rep)) s
        let b : Barge := { q := q, core := c, state := .latched, sent := s.cyc, at_ := s.cyc, gate := none, inR := r1,
                           in2R := .replicate 8 0, outR := r3, out := [], status := 0, count := sfCount q r3, n := 0,
                           regs := none, launch := k.launch }
        { s with sfRun := s.sfRun ++ [b.watch s s.cyc] }

/-- The array or the special-function queue of a core sends a barge. -/
def execBargeSend (c : CoreId) (sf : Bool) (s : State) : Out :=
  match recsMore c (if sf then sfTids s c else arrayTids s c) s with
  | some t => .next (t.push [.bargeSend c sf])
  | none => .next (if sf then sendSf c s else sendArray c s)

def State.putSf (s : State) (b b' : Barge) : State := { s with sfRun := s.sfRun.map (fun x => if x = b then b' else x) }
def State.dropSf (s : State) (b : Barge) : State := { s with sfRun := s.sfRun.erase b }

/-- Pipes of the die. -/
def sfPipes : Nat := 64

/-- What the die does next with a barge that has not started. -/
inductive SfAct | start | gateErr | miss (reason : Nat)
  deriving DecidableEq, Repr

def sfAct (s : State) (b : Barge) : Option SfAct :=
  let busy := decide (sfPipes ≤ (s.sfRun.filter Barge.started).length)
  if b.started then none
  else match entryMode b.q with
    | 1 =>
      if !cycGe (lastTick b) s.cyc then some (.miss (if !cycGe (lastTick b) b.sent then 3 else 2))
      else if !busy && cycGe s.cyc (entryStamp b.q) then some .start else none
    | 2 => match b.gate with
      | some (g, e) => if !cycGe s.cyc g then none else if e then some .gateErr else if busy then none else some .start
      | none => none
    | _ => if busy then none else some .start

/-- What becomes of a barge. -/
def sfServe (b : Barge) (s : State) : SfAct → State
  | .start => s.putSf b { b with state := .driving s.cyc (s.cyc + BitVec.ofNat 64 (sfReady s b.q b.inR 0)) }
  | .gateErr => failSf b.launch b.core b.q 0 (some b.count) ⟨xGateErr, arrayDet s 0 0⟩ (s.dropSf b)
  | .miss r => missBarge .sf b.core b.q (failSf b.launch b.core b.q 0 (some b.count) ⟨xSmiss, arrayDet s 0 r⟩ (s.dropSf b))

/-- A barge starts on a pipe, in arrival order, and the next one that can may follow in the same tick; a barge whose gate has
flipped or whose stamp has passed is served as the array die serves it. -/
def execSfBargeStart (s : State) : Out :=
  let s := { s with sfRun := s.sfRun.map (watchGate s) }
  match s.sfRun.findSome? (fun b => (sfAct s b).map (fun a => (b, a))) with
  | none => .next s
  | some (b, a) => .next ((sfServe b s a).push [.sfBargeStart])

/-- Codes of a source row. -/
def sfCodes (s : State) (b : Barge) (row : Int) : List W32 :=
  (List.range (recExt b.inR 0)).map (fun i =>
    readElem b.inR (fun a => s.lmByte b.core a.toNat) (elemBit b.inR i row.toNat 0 0))

/-- Results of a row. -/
def sfResults (b : Barge) (cs : List W32) : List (W32 × Flags) :=
  let i : SfIn := { f := sfIndex b.q.ins, acc := sfAcc b.q.ins, src := recFmt b.inR, dst := recFmt b.outR }
  if i.f = 14 then smaxRow i cs else cs.map (sfValue i)

/-- Rows of transfer t, with the flags of every element written. -/
def sfTransfer (c : CoreId) (b : Barge) (s : State) : State × Flags :=
  (List.range (sfRows b.q)).foldl (fun (a : State × Flags) (n : Nat) =>
    let rs := sfResults b (sfCodes a.1 b (sfRow b.q 2 b.n + n))
    let at_ := rowAddr b.outR (sfRow b.q 4 b.n + n)
    (a.1.lmStore c at_ (packCodes (width (recFmt b.outR)) (rs.map (fun r => r.1))),
     rs.foldl (fun f r => f ||| r.2) a.2)) (s, 0)

/-- A line of LM with an error that transfer t reads, or writes in part (20 R312). -/
def sfErr (s : State) (b : Barge) : Option Nat :=
  (List.range (sfRows b.q)).findSome? (fun (n : Nat) =>
    let i := rowSpan b.inR (sfRow b.q 2 b.n + n)
    let o := rowSpan b.outR (sfRow b.q 4 b.n + n)
    (s.lmErr b.core i.1 i.2).or (s.lmPart b.core o.1 o.2))

/-- A transfer of the k-th barge writes its rows; the status word follows the last one, and the whole is counted. A
failing table or pipe, a failed joint, or an uncorrectable error of LM ends the command. -/
def execSfTransferComplete (k : Nat) (fail : Bool) (s : State) : Out :=
  match s.sfRun[k]? with
  | none => .next s
  | some b =>
    match b.state with
    | .driving start ready =>
      if !cycGe s.cyc ready then .next s
      else if fail then .next (failSf b.launch b.core b.q b.status (some b.count) ⟨0x60, arrayDet s 0 0⟩ (bump (hUncorr 8) 1 (s.dropSf b)))
      else if !s.joints.get (sfJoint b.core) then
        .next (failSf b.launch b.core b.q b.status (some b.count) ⟨xLink, arrayDet s 0 0⟩ (s.dropSf b))
      else match sfErr s b with
      | some l => .next (failSf b.launch b.core b.q b.status (some b.count) ⟨0x02, BitVec.ofNat 64 l⟩ (bump (hUncorr 0) 1 (s.dropSf b)))
      | none =>
        let (t, fl) := sfTransfer b.core b s
        let st := b.status ||| fl.zeroExtend 64
        if b.n < b.q.rep then
          .next (t.putSf b { b with n := b.n + 1, status := st,
                                    state := .driving start (ready + BitVec.ofNat 64 (sfTicks s b.q b.inR)) })
        else
          let t := t.lmStore b.core (entryStat b.q) (toBytes 8 (sfsw 0 st).toNat)
          .next ((sendCount b.core (issuerObj b.q) (some b.count) none (t.dropSf b)).updCore b.core
            (fun k => k.counted b.q.id))
    | _ => .next s

/-! ## A joint fails (01 R16, 10 R197) -/

/-- The transfer that an engine performs reaches another die. -/
def engineFar (s : State) (c : CoreId) (u : MemUnit) : Bool :=
  match (s.core c).active_ u with
  | none => false
  | some a =>
    let shape := a.shape.getD (.replicate 8 0)
    if (usesRecord a.q.ins && a.shape.isNone) || (a.shape.isSome && recLm shape) then false
    else
      let p := planOf a.q shape a.n a.src s.cyc
      (p.rd ++ p.wr).any (fun r => match s.ranges (s.coreCtx c) false false [r] with
        | .ok l => l.any (fun g => decide (s.siteDie g.1.dpa g.1.site ≠ dieOf c))
        | .error _ => false)

/-- The unit that a copy performs passes between dies. -/
def copyFar (s : State) (c : CoreId) (y : Copy) : Bool :=
  match y.current with
  | none => false
  | some (_, t) =>
    let p := unitPlan y.q y.src y.dst y.unit false
    let dst := (s.endOn c (p.wr.headD (0, 0)).1 true (s.endOf c t.place)).1
    decide (dst ≠ dieOf c) || (sourceEnds s c y.q y.srcPlace).any (fun e =>
      decide ((s.endOn c (p.rd.headD (0, 0)).1 false e).1 ≠ dieOf c))

/-- The partition of a message on its way between dies: persistent requests, lock reports and broadcasts, barrier releases. -/
def msgPart (s : State) : Ev → Option PartId
  | .persistentActivation _ _ line _ | .persistentDeactivation _ _ line => s.linePart line
  | .lockReportReceived l .. | .trelReceived l .. | .barrierReleaseMessage l .. => (s.launch l).map (fun x => x.part)
  | _ => none

/-- Partitions with traffic on the towpath: accesses and copies of their cores, tokens of their lines, messages of their gangs. -/
def trafficParts (s : State) : List PartId :=
  (List.finRange 32).filter (fun p =>
    (List.finRange 128).any (fun c => match s.gangOf c with
      | some (_, l) => decide (l.part = p) && (engineFar s c .lde || engineFar s c .ste
          || (s.core c).copies.toList.any (fun y => (y.map (copyFar s c)).getD false))
      | none => false)
    || s.tokMsgs.any (fun m => decide (s.linePart m.line = some p))
    || s.inputs.any (fun e => decide (msgPart s e.2 = some p)))

/-- A barge drives; it meets the failed joint when its outputs are due. -/
def Barge.drives (b : Barge) : Bool :=
  match b.state with
  | .driving .. => true
  | _ => false

/-- Barges in flight on an array die's joint fail; one that waited under the write ceiling leaves its place to the next. -/
def failPairs (ad : Nat) (s : State) : State :=
  let ts := (List.finRange 1088).filter (fun t => decide (arrayDie t = ad))
  let out := fun (t : PairId) => decide (arrayDie t = ad) && (s.pair t).slots.any (fun b => decide (b.state = .ceiling))
  let s := { s with writeWait := s.writeWait.filter (fun t => !out t) }
  ts.foldl (fun s t => ((s.pair t).slots.filter (fun b => !b.drives)).foldl (fun s b =>
    failBarge b ⟨xLink, arrayDet s (entryTile b.q) 0⟩ (s.dropBarge t b)) s) s

/-- Barges of a die's cores in flight to the special-function die fail. -/
def failSfs (d : Nat) (s : State) : State :=
  (s.sfRun.filter (fun b => !b.started && decide ((dieOf b.core).val = d))).foldl (fun s b =>
    failSf b.launch b.core b.q 0 (some b.count) ⟨xLink, arrayDet s 0 0⟩ (s.dropSf b)) s

/-- A towpath hop or die joint fails: traffic takes the other way round the ring, or fails with LINK. -/
def execDieJointFailure (j : Fin 24) (s : State) : Out :=
  let cut := decide (j.val < 4) && s.hopsDown.any (fun h => decide (h ≠ j.val))
  let ps := trafficParts s
  let s := bump (hUncorr 10) 1 { s with joints := s.joints.set j.val false j.isLt }
  if cut then
    .next (ps.foldl (fun s p => moduleFault (.part p) 0x03 5 (jointLink j.val) 0 s) s)
  else if 4 ≤ j.val ∧ j.val < 12 then .next (failPairs (j.val - 4) s)
  else if 12 ≤ j.val ∧ j.val < 16 then .next (failSfs (j.val - 12) s)
  else .next s

/-- A joint is back in service, and its retrain is counted (01 R16, 27 R374). -/
def execDieJointRetrained (j : Fin 24) (s : State) : Out :=
  if s.joints.get j then .next s
  else .next (bump (hRetrain (48 + j.val)) 1 { s with joints := s.joints.set j.val true j.isLt })

end Sys2Proof.Machine
end

