-- ==== Sys2Proof/Machine/Image.lean ====
section
/-! DEFINITION. The context image: what a pre-emption saves, what it leaves running, the sections in memory, and the
resume of a strand (spec 03 R41, 09 R156, R188, 20 R313 to R319). -/

namespace Sys2Proof.Machine

open Sys2Proof

/-! ## Regions of memory as sparse cells -/

/-- Cells in canonical form; of two at one address the first counts. -/
def Mem.canon (cells : Mem) : Mem := cells.foldr (fun c m => m.write c.1 c.2) []

/-- Replace n bytes from an address by cells whose addresses count from 0. -/
def Mem.splice (m : Mem) (a n : Nat) (cells : Mem) : Mem :=
  m.filter (fun c => decide (c.1 < a))
  ++ ((Mem.canon cells).filter (fun c => decide (c.1 < n))).map (fun c => (a + c.1, c.2))
  ++ m.filter (fun c => decide (a + n ≤ c.1))

/-- The cells of n bytes from an address, counted from 0. -/
def Mem.region (m : Mem) (a n : Nat) : Mem :=
  (m.filter (fun c => decide (a ≤ c.1 ∧ c.1 < a + n))).map (fun c => (c.1 - a, c.2))

/-- The same data, seen in every copy of a line that the region meets. -/
def refreshData (m : Mem) (a n line : Nat) (data : List Byte) : List Byte :=
  data.mapIdx (fun i v => if a ≤ line * 128 + i ∧ line * 128 + i < a + n then m.read (line * 128 + i) else v)

/-- Write a region of memory. -/
def blit (a n : Nat) (cells : Mem) (s : State) : State :=
  let m := s.mem.splice a n cells
  let s := clearBad a n s
  { s with
    mem := m
    lines := s.lines.map (fun l => { l with rdc := l.rdc.map (fun h => { h with data := refreshData m a n l.line h.data }) })
    tokMsgs := s.tokMsgs.map (fun x => { x with data := refreshData m a n x.line x.data }) }

/-- The cells of a byte list from an offset on. -/
def cellsAt (o : Nat) (bs : List Byte) : Mem :=
  (bs.mapIdx (fun i v => (o + i, v))).filter (fun c => decide (c.2 ≠ 0))

/-! ## Sections (20 R317) -/

/-- Bytes of a slot that are written. -/
def imageSize : Nat := 0x1A00000

def ventryBytes : Nat := 4608

/-- The 4,608 bytes of a register entry. -/
def VEntry.image (e : VEntry) : List Byte :=
  e.lanes.toList.flatMap (fun x => toBytes 4 x.toNat) ++ e.side.toList.flatMap (fun x => toBytes 2 x.toNat)

/-- A register entry from its bytes, of a tag; bits that the format has unused read as zero (04 R43). -/
def VEntry.ofImage (tag : Fmt) (m : Mem) (o : Nat) : VEntry := VEntry.norm
  { lanes := ⟨((List.range 1024).map (fun l => BitVec.ofNat 32 (m.num (o + 4 * l) 4))).toArray, by simp⟩, tag := tag,
    side := ⟨((List.range 256).map (fun k => BitVec.ofNat 16 (m.num (o + 4096 + 2 * k) 2))).toArray, by simp⟩ }

def fileOff (i : Nat) : Nat := if i = 0 then 0x100000 else 0x340000 + (i - 1) * 0x240000
def lmOff (i : Nat) : Nat := if i = 0 then 0xA00000 else 0xE00000 + (i - 1) * 0x400000

/-- Cells of a main file, two places a name. -/
def fileCells (o : Nat) (k : Core) : Mem :=
  (List.finRange 256).flatMap (fun n => ((k.file.get n).mapIdx (fun j e =>
    cellsAt (o + (2 * n.val + j) * ventryBytes) e.image)).flatten)

def shiftCells (o : Nat) (m : Mem) : Mem := m.map (fun c => (o + c.1, c.2))

/-- Operand file and latches, 4,608 bytes each. -/
def latchList (k : Core) : List VEntry := k.opf.toList ++ [k.lv, k.ll]

/-- The vector operand buffer: the operands of the load and store engines' entries and of array commands, by queue (log 21). -/
def bufferList (k : Core) : List VEntry := ((k.ldeQ ++ k.steQ ++ k.arrQ).flatMap (fun q => q.vops)).take 8
def bufferOff : Nat := 0x20000

/-! ## The snapshot buffer (03 R41) -/

/-- Level and number of a result's destination, as its operand slot has them; a result of a latch alone names the latch. -/
def dstCode (u : ResUnit) : Dst → Nat × Nat
  | .none => (2, match u with | .vxe => 0 | .lde => 1 | .seq => 2)
  | .s n => (0, n.val)
  | .s2 n _ => (0, n.val)
  | .v n => (0, n.val)
  | .opf n => (1, n.val)
  | .p n => (0, n.val)
  | .m n => (0, n.val)

def ResUnit.code : ResUnit → Nat
  | .seq => 0 | .vxe => 1 | .lde => 2

/-- Format tag of a result; one that has none shows NONE. -/
def RVal.tag : RVal → Fmt
  | .v e => e.tag
  | _ => .none

/-- The descriptor of a snapshot entry. -/
def Pend.descriptor (r : Pend) : Nat :=
  let d := dstCode r.unit r.dst
  1 + r.unit.code * 2 + d.1 * 8 + d.2 * 2 ^ 5 + min r.rem 255 * 2 ^ 15 + r.val.tag.code * 2 ^ 23 + r.berth.val * 2 ^ 27

/-- TSR's results are two entries. -/
def Pend.split (r : Pend) : List Pend :=
  match r.dst, r.val with
  | .s2 n m, .pair x y => [{ r with dst := .s n, val := .s x }, { r with dst := .s m, val := .s y }]
  | _, _ => [r]

/-- The payload of an entry: 4,608 bytes of a vector register, 8 of a scalar; 8 of a predicate and 128 of a mask
(DESIGN CHOICE, log 21). -/
def RVal.payload : RVal → List Byte
  | .s x => toBytes 8 x.toNat
  | .pair x _ => toBytes 8 x.toNat
  | .v e => e.image
  | .pred b _ => toBytes 8 (b2n b)
  | .m x => toBytes 128 x.toNat

/-- A value from the payload that stands at an offset. -/
def RVal.ofImage (m : Mem) (o : Nat) : RVal → RVal
  | .s _ => .s (m.word o)
  | .pair _ y => .pair (m.word o) y
  | .v e => .v (VEntry.ofImage e.tag m o)
  | .pred _ ls => .pred (bit (m.word o) 0) ls
  | .m _ => .m (BitVec.ofNat 1024 (m.num o 128))

/-- Results by ascending cycles left, in the order of writeback (02 R22 step 6). -/
def snapOrder (l : List Pend) : List Pend :=
  (List.range 256).flatMap (fun n => [ResUnit.seq, .vxe, .lde].flatMap (fun u =>
    l.filter (fun r => decide (r.rem = n ∧ r.unit = u))))

/-- Bytes of an entry. -/
def Pend.entryBytes (r : Pend) : List Byte := r.split.flatMap (fun x => toBytes 8 x.descriptor ++ x.val.payload)

/-- The entries of a core in their order: in flight, then held for RTT by berth, each in the order of R41. -/
def Core.snapEntries (k : Core) : List Pend := snapOrder k.inflight ++ k.berths.toList.flatMap (fun x => snapOrder x.held)

/-- Entries as they stand in memory from an offset on. -/
def snapRead (m : Mem) : Nat → List Pend → List Pend
  | _, [] => []
  | o, r :: l =>
    let v := match r.val with
      | .pair _ _ => RVal.pair (m.word (o + 8)) (m.word (o + 24))
      | v => v.ofImage m (o + 8)
    { r with val := v } :: snapRead m (o + r.entryBytes.length) l

/-- Bytes that a list of entries takes. -/
def snapLength (l : List Pend) : Nat := (l.map (fun r => r.entryBytes.length)).sum

def snapOff : Nat := 0x30000

/-- A result as a descriptor tells it, with the bytes of its payload: a vector result of the VXE or the LDE has a tag or names a
register of the operand file; any other result is a scalar (log 21). -/
def Pend.ofDescriptor (d : Nat) (m : Mem) (o : Nat) : Pend × Nat :=
  let unit : ResUnit := match d / 2 % 4 with
    | 0 => .seq
    | 1 => .vxe
    | _ => .lde
  let lvl := d / 2 ^ 3 % 4
  let num := d / 2 ^ 5 % 1024
  let tag := (Fmt.ofCode (d / 2 ^ 23 % 16)).getD .none
  let vec := unit != .seq && (tag != .none || lvl == 1)
  let dst : Dst := if lvl = 2 then .none else if lvl = 1 then .opf (Fin.ofNat 8 num)
    else if vec then .v (Fin.ofNat 1024 num) else .s (Fin.ofNat 64 num)
  ({ unit := unit, dst := dst, val := if vec then .v (VEntry.ofImage tag m o) else .s (m.word o), rem := d / 2 ^ 15 % 256,
     berth := Fin.ofNat 4 (d / 2 ^ 27 % 4), addr := 0, id := 0, flags := 0, tok := 0 }, if vec then ventryBytes else 8)

/-- n entries as they stand in memory from an offset on. -/
def snapParse (m : Mem) : Nat → Nat → List Pend
  | 0, _ => []
  | n + 1, o =>
    let r := Pend.ofDescriptor (m.num o 8) m (o + 8)
    r.1 :: snapParse m n (o + 8 + r.2)

/-- The bytes of a section whose layout is open, at its offset: header, tags, queue entries (log 21). -/
def openBytes (a : Nat × Nat) (name : Nat) : List Byte := (Config.imageBytes a.1 name).take a.2
def openSection (a : Nat × Nat) (name : Nat) : Mem := cellsAt a.1 (openBytes a name)

/-- The open areas of an image: the header, the tags behind the latches and behind the operand buffer, and the queue section. -/
def headerArea : Nat × Nat := (0, 0x10000)
def latchTags : Nat × Nat := (0x1B400, 0x4C00)
def bufferTags : Nat × Nat := (0x29000, 0x7000)
def queueArea : Nat × Nat := (0xD0000, 0x30000)

/-- All cells of an image, by section in rising order. -/
def imageCells (k : Core) (lend : List Core) (name : Nat) : Mem :=
  openSection headerArea name
  ++ ((latchList k).mapIdx (fun j e => cellsAt (0x10000 + j * ventryBytes) e.image)).flatten
  ++ openSection latchTags name
  ++ ((bufferList k).mapIdx (fun j e => cellsAt (bufferOff + j * ventryBytes) e.image)).flatten
  ++ openSection bufferTags name
  ++ cellsAt snapOff (k.snapEntries.flatMap Pend.entryBytes)
  ++ openSection queueArea name
  ++ fileCells (fileOff 0) k
  ++ (lend.mapIdx (fun j x => fileCells (fileOff (j + 1)) x)).flatten
  ++ shiftCells (lmOff 0) k.lm
  ++ (lend.mapIdx (fun j x => shiftCells (lmOff (j + 1)) x.lm)).flatten

/-- The parts of a slot that are written: the sections of absent lenders are not. -/
def imageParts (lend : List Core) : List (Nat × Nat) :=
  [(0, 0x340000)] ++ (List.range lend.length).map (fun j => (fileOff (j + 1), 0x240000))
  ++ [(lmOff 0, 0x400000)] ++ (List.range lend.length).map (fun j => (lmOff (j + 1), 0x400000))

/-- The cores that lend to a core, in order. -/
def State.lendCores (s : State) (c : CoreId) : List CoreId :=
  (List.range 3).filterMap (fun i => (s.core c).owner c (i + 1))

/-! ## What a stopped core still finishes (09 R156, R188, 20 R314, R315) -/

/-- A started entry stands until something that a stopped core does not bring: data of a later word, earlier accesses or an earlier
store to its location that has not started, room in the snapshot buffer (DEDUCED, log 23). -/
def State.entryStands (s : State) (c : CoreId) (u : MemUnit) (a : Active) : Bool :=
  let k := s.core c
  a.fault || (releases a.q.ins && k.earlier a.q) || storeMeets s c a (queuedBefore s c u a)
  || (match u with
    | .lde => k.loadStands || (match a.q.ins with
      | .mark _ => k.steQ.any (fun q => decide (q.id = a.q.id))
      | _ => false)
    | .ste => a.src.isNone && (match streams a.q a.n with
      | some m => (s.vFifo c m).isEmpty
      | none => false))

/-- A unit of the load or store engine still has to end its entry. One that stands, or that comes after a store of the other unit's
entry that stands, stays in its entry (09 R156; log 23). -/
def State.unitBusy (s : State) (c : CoreId) (u : MemUnit) : Bool :=
  match (s.core c).active_ u with
  | none => false
  | some a =>
    !(s.entryStands c u a
      || (storeMeets s c a (startedBefore s c u a)
          && (((s.core c).active_ (otherUnit u)).map (s.entryStands c (otherUnit u))).getD false))

/-- Barges of a core on their way or driving. -/
def State.bargesOf (s : State) (c : CoreId) : Bool :=
  s.pairs.toList.any (fun p => p.slots.any (fun b => decide (b.core = c ∧ b.count ≠ 0)))
  || s.sfRun.any (fun b => decide (b.core = c))

/-- Every part of the core has finished. -/
def State.quiet (s : State) (c : CoreId) : Bool :=
  let k := s.core c
  k.frozen && !s.unitBusy c .lde && !s.unitBusy c .ste && k.counts.isEmpty && !s.bargesOf c
  && k.copies.toList.all (fun y => match y with
    | some y => !y.finishes
    | none => true)

/-- The core is to stop at its next cycle boundary (20 R313). -/
def Core.preempted (k : Core) : Core := { k with stopping := true }

/-- The core stops: the cycle that comes is P. Load pushes that wait for room are snapshot entries with no cycle left, and FPF
takes the flags of every snapshot entry (04 R58, 09 R156, 20 R313 to R315). -/
def Core.halt (k : Core) : Core :=
  let l := k.ldPush.map (fun r => { r with rem := 0 }) ++ k.inflight
  { k with stopping := false, stopped := true, since := 0, inflight := l, ldPush := [],
           fpf := (l ++ k.berths.toList.flatMap (fun x => x.held)).foldl (fun f r => f ||| r.flags) k.fpf }

/-- Snapshot entries keep the cycles left, at most 255. -/
def Core.snapshot (k : Core) : Core :=
  { k with inflight := k.inflight.map (fun r => { r with rem := min r.rem 255 }),
           berths := k.berths.map (fun x => { x with held := snapOrder x.held }) }

/-- An entry of the load or store engine goes on at the transfer at which it stood (09 R151); lines that it has written stay written. -/
def Active.restart (a : Active) : Active :=
  { a with fault := false, sent := false, busy := 0, paid := 0, lines := { Lines.start with put := a.lines.put } }

/-- The resumed core issues in its third cycle, and snapshot entries, STALL counts and the empty cycles of a trap count from
there (20 R315); an entry that met an access fault goes on (09 R151). -/
def Core.resumed (k : Core) : Core :=
  { k with stopping := false, stopped := false, frozen := false, since := 0, snap := none, skip := k.skip + 2,
           berths := k.berths.map (fun x => { x with stall := if x.stall = 0 then 0 else x.stall + 2 }),
           restart := false, lde := k.lde.map Active.restart, ste := k.ste.map Active.restart,
           inflight := k.inflight.map (fun r => { r with rem := r.rem + 2 }) }

/-- A waiting word is executed again, with the operand values that it read at its issue: SLEEPP reads the promise afresh, and BARW
and BARAW have a fresh limit (07 R104, 20 R307; log 56). -/
def Wait.again (k : Core) (cyc : W64) : Wait → Wait
  | .bar n ph _ => .bar n ph (cyc + barLimit)
  | .sleepp bo ph _ => .sleepp bo ph (k.objProm bo)
  | w => w

/-- The waiting words of a resumed core are executed again. -/
def waitAgain (c : CoreId) (s : State) : State :=
  s.updCore c (fun k => { k with berths := k.berths.map (fun x => { x with wait := x.wait.again k s.cyc }) })

/-- The path of an accepted command, as it stands now. -/
def State.pathOf (s : State) (c : CoreId) (y : Copy) : Fin 3 × Nat :=
  match y.q.ins, y.srcPlace with
  | .acqw .., .member g _ => (0, flagLat s c g (val0 y.q 0))
  | .rls .., _ => (0, 1900)
  | .agset .., _ => (0, 200)
  | _, sp => s.copyPath c y.q sp (y.targets.map (fun t => t.place)) y.src y.dst

/-- A command that was saved part way is accepted again: it writes a new promise for the bytes that are left behind those of
the core's earlier commands, and goes on from its first unit not yet moved, of which lines already written stay so (09 R177, R188).
DESIGN CHOICE (log 80): it keeps the records, the message numbers and the group of its first acceptance. -/
def rePromise (c : CoreId) (s : State) : State :=
  (List.finRange 8).foldl (fun s i => match ((s.core c).copies.get i) with
    | some y =>
      if y.sent then s
      else
        let (path, lat) := s.pathOf c y
        let ahead := (s.core c).queued path y.q.id
        let s := promise c (issuerObj y.q) (promiseAt s c path lat ahead y.left) s
        s.updCore c (fun k => k.setCopy i (some { y with
          at_ := s.cyc + BitVec.ofNat 64 lat, path := path, ahead := ahead, bytes := y.left,
          lines := { Lines.start with put := y.lines.put } }))
    | none => s) s

/-- An escalated trap is taken again at once, with the cause as it stands, to the TRAPV that the image now holds
(20 R308). -/
def takeAgain (c : CoreId) (s : State) : State :=
  (List.finRange 4).foldl (fun s b =>
    let x := s.berth c b
    if x.again then
      if x.trapv = 0 then escalate c b x.pc (s.updBerth c b (fun x => { x with again := false }))
      else s.updBerth c b (fun x => { x with again := false, pc := x.trapv, setter := x.pc, entering := some x.pc })
    else s) s

/-- A strand resumes: copies write new promises, waiting words are executed again, and escalated traps are taken again. -/
def resumeCore (c : CoreId) (s : State) : State := takeAgain c (waitAgain c (rePromise c (s.updCore c Core.resumed)))

/-! ## Write and read -/

/-- Segments of a slot at a PPA of a partition, in 64 KiB pages, or the fault they meet. -/
def ppaPages (s : State) (p : PartId) (ppa : Nat) (wr : Bool) : List Nat → Acc? (List (Nat × Nat))
  | [] => .ok []
  | o :: r => do
    let (n, b, rd, w) ← s.stage2 p 0 (ppa + o)
    let a := b + (ppa + o) % n
    let rest ← ppaPages s p ppa wr r
    if (if wr then w else rd) && (s.site p a).isSome then .ok ((o, a) :: rest) else .error (.xlate 0)

/-- The same for a VA of a context. -/
def vaPages (s : State) (x : Ctx) (va : W64) (wr : Bool) : List Nat → Acc? (List (Nat × Nat))
  | [] => .ok []
  | o :: r => do
    let (_, a, _) ← s.translate x (va + BitVec.ofNat 64 o) (!wr) wr
    let rest ← vaPages s x va wr r
    .ok ((o, a) :: rest)

/-- Page offsets of the parts of a slot. -/
def partPages (parts : List (Nat × Nat)) : List Nat :=
  parts.flatMap (fun p => (List.range (p.2 / pageBytes)).map (fun i => p.1 + i * pageBytes))

/-- Cells go to their pages. -/
def putPages (pages : List (Nat × Nat)) (cells : Mem) (s : State) : State :=
  pages.foldl (fun s g => blit g.2 pageBytes (cells.region g.1 pageBytes) s) s

/-- The cells that pages hold. -/
def getPages (pages : List (Nat × Nat)) (s : State) : Mem :=
  pages.flatMap (fun g => shiftCells g.1 (s.mem.region g.2 pageBytes))

/-- The first line with an uncorrectable error among pages (20 R312). -/
def badPage (pages : List (Nat × Nat)) (s : State) : Option W64 := pages.findSome? (fun g => s.badIn g.2 pageBytes)

/-- GID of a gang. -/
def Launch.gid (l : Launch) : W32 := BitVec.ofNat 32 (fld (l.record.get 7) 63 32)

/-- The image of a core goes into pages of memory. -/
def saveAt (c : CoreId) (l : Launch) (pages : List (Nat × Nat)) (s : State) : State :=
  let k := ((s.core c).snapshot)
  let lend := (s.lendCores c).map s.core
  let (_, s') := s.draw
  let cells := imageCells k lend s.free
  let place := (pages.headD (0, 0)).2
  let x : Saved := { place := place, name := s.free, ctx := l.ctx, gid := l.gid, core := k, lenders := lend }
  let s' := putPages pages cells s'
  { s' with saved := s'.saved.filter (fun y => !decide (y.place = place)) ++ [x] }

/-- The FIFO entries of a main file as memory holds them; the fill counts and tags are the header's. -/
def fileFrom (o : Nat) (m : Mem) (k : Core) : Core :=
  { k with file := ⟨((List.finRange 256).map (fun n => (k.file.get n).mapIdx (fun j e =>
      VEntry.ofImage e.tag m (o + (2 * n.val + j) * ventryBytes)))).toArray, by simp⟩ }

/-- An open area of an image stands as the device wrote it. -/
def Saved.same (x : Saved) (m : Mem) (a : Nat × Nat) : Bool := decide (cellsAt 0 (openBytes a x.name) = m.region a.1 a.2)

/-- The fields of an open area, at places that the spec leaves open. -/
def areaField (m : Mem) (a : Nat × Nat) : Nat → W64 := Config.headerField (m.region a.1 a.2)
def tagOf (w : W64) : Fmt := (Fmt.ofCode (Config.headerTag w).toNat).getD .none

/-- The state of a waiting berth as four header words give it. -/
def Wait.fromHeader (f : Nat → W64) : Wait :=
  let mbKind : MbKind := match (f 1).toNat % 3 with
    | 0 => .fwd
    | 1 => .bwd
    | _ => .upd
  match (f 0).toNat with
  | 1 => .wait
  | 2 => .lock
  | 3 => .bar (Fin.ofNat 96 (f 1).toNat) (bit (f 2) 0) 0
  | 4 => .tokin mbKind ((f 2).truncate 8)
  | 5 => .tokout mbKind ((f 2).truncate 6) ((f 3).truncate 8)
  | 6 => .sleepc (f 1)
  | 7 => .sleepp (Fin.ofNat 4096 (f 1).toNat) (bit (f 2) 0) (f 3)
  | 8 => .waitp (Fin.ofNat 4096 (f 1).toNat) (bit (f 2) 0)
  | 9 => .idle
  | _ => .none

def unitOf (w : W64) : TrapUnit :=
  match w.toNat % 4 with
  | 0 => .lde
  | 1 => .ste
  | 2 => .arr
  | _ => .sf

/-- A trap code from its number. -/
def codeOf (w : W64) : Code :=
  ([.illop, .fifoOvf, .fifoUnf, .tagx, .lendx, .phaseviol, .smiss, .pmiss, .bobjerr, .align, .priv, .barto].find?
    (fun (c : Code) => decide (c.num = w.truncate 8))).getD .trap

/-- The header's fields of a berth, as a header that is not as the device wrote it gives them: word n of its bytes, at a place that
the spec leaves open; a fill count above 2 is read as 2 (20 R317, R318; log 21). -/
def Berth.fromHeader (f : Nat → W64) (x : Berth) : Berth :=
  let st := f 208
  { x with
    pc := f 0, ls := f 1, trapv := codeAddr (f 2), tcode := (f 3).truncate 8, tslot := (f 4).truncate 3, tval := f 5,
    epc := codeAddr (f 6), stall := fld (f 7) 3 0,
    p := ⟨((List.finRange 16).map (fun n => decide (n = 0) || bit (f 8) n.val)).toArray, by simp⟩,
    s := ⟨((List.finRange 64).map (fun n => (List.range (min 2 (f (16 + n.val)).toNat)).map
      (fun j => f (80 + 2 * n.val + j)))).toArray, by simp⟩,
    started := bit st 0, exited := bit st 1, lockArrived := bit st 2, lockPassed := bit st 3, again := bit st 4,
    wait := Wait.fromHeader (fun n => f (209 + n)), lockAt := f 213,
    barMarks := (List.finRange 96).filter (fun n => bit (f (214 + n.val / 64)) (n.val % 64)),
    pend := (List.range (min 4 (f 216).toNat)).map (fun j =>
      { unit := unitOf (f (217 + 3 * j)), code := codeOf (f (218 + 3 * j)), tval := f (219 + 3 * j) }) }

/-- The header's fields of a core. -/
def Core.fromHeader (f : Nat → W64) (k : Core) : Core :=
  { k with
    lcy := f 0, phs := f 1, xwin := (f 2).truncate 8, seed0 := f 3, seed1 := f 4, layer := (f 5).truncate 32,
    srmode := (f 6).truncate 2, fpf := (f 7).truncate 6, psize := (f 8).truncate 16, wdp := (f 9).truncate 32,
    tokens := ⟨min 8 (f 10).toNat, min 8 (f 11).toNat, min 8 (f 12).toNat, min 8 (f 13).toNat⟩,
    pmc := ⟨((List.finRange 16).map (fun n => f (16 + n.val))).toArray, by simp⟩,
    pmsel := ⟨((List.finRange 16).map (fun n => (f (32 + n.val)).truncate 8)).toArray, by simp⟩,
    masks := ⟨((List.finRange 8).map (fun n => BitVec.ofNat 1024 (ofBytes ((List.range 16).flatMap (fun j =>
      toBytes 8 (f (48 + 16 * n.val + j)).toNat))))).toArray, by simp⟩,
    cur := Fin.ofNat 4 (f 14).toNat,
    wins := ⟨((List.finRange 8).map (fun n => f (176 + n.val))).toArray, by simp⟩,
    bars := ⟨((List.finRange 96).map (fun n => let w := f (184 + n.val)
      ((w.truncate 16 : W16), (w >>> 16).truncate 16, bit w 32))).toArray, by simp⟩,
    berths := ⟨((List.finRange 4).map (fun b => (k.berth b).fromHeader (fun n => f (512 + 256 * b.val + n)))).toArray,
      by simp⟩ }

/-- Fill counts and tags of a main file, own or lent, from the header. -/
def filledFrom (f : Nat → W64) (k : Core) : Core :=
  { k with file := ⟨((List.finRange 256).map (fun n => (List.range (min 2 (f n.val).toNat)).map (fun j =>
      { VEntry.zero with tag := tagOf (f (256 + 2 * n.val + j)) }))).toArray, by simp⟩ }

/-- The entries of a queue section that is not as the device wrote it (log 21). -/
def queueFrom (m : Mem) (n : Nat) : List QEntry :=
  (Config.queueEntries (m.region queueArea.1 queueArea.2) n).filterMap (fun x =>
    let f := fun (i : Nat) => x.2.1.getD i 0
    match decode x.1 with
    | .ok i => some { ins := i, id := (f 0).toNat, addr := f 1, berth := Fin.ofNat 4 (f 2).toNat, comm := bit (f 3) 0, ref := (f 4).toNat,
                      rep := (f 5).toNat, step := (f 6).toInt, vals := x.2.1.drop 12,
                      vops := x.2.2.map (fun y => VEntry.ofImage ((Fmt.ofCode y.1.toNat).getD .none) (cellsAt 0 y.2) 0),
                      key0 := f 7, key1 := f 8, key2 := f 9, srmode := (f 10).truncate 2, xwin := (f 11).truncate 8 }
    | .error _ => none)

/-- Queues from such a section; what was saved of commands already accepted is among the copy queue's entries. -/
def Core.queuesFrom (m : Mem) (k : Core) : Core :=
  { k with ldeQ := queueFrom m 0, steQ := queueFrom m 1, vxeQ := queueFrom m 2, cpyQ := queueFrom m 3, arrQ := queueFrom m 4,
           sfQ := queueFrom m 5, copies := .replicate 8 none }

/-- Entries of the operand buffer, from place j on, go to the queue entries that they belong to. -/
def bufferFrom (m : Mem) : Nat → List QEntry → List QEntry
  | _, [] => []
  | j, q :: l =>
    { q with vops := q.vops.mapIdx (fun i e => VEntry.ofImage e.tag m (bufferOff + (j + i) * ventryBytes)) }
      :: bufferFrom m (j + q.vops.length) l

def opsOf (l : List QEntry) : Nat := (l.map (fun q => q.vops.length)).sum

/-- The operand buffer of an image. -/
def Core.bufferFrom (m : Mem) (k : Core) : Core :=
  { k with ldeQ := Machine.bufferFrom m 0 k.ldeQ, steQ := Machine.bufferFrom m (opsOf k.ldeQ) k.steQ,
           arrQ := Machine.bufferFrom m (opsOf k.ldeQ + opsOf k.steQ) k.arrQ }

/-- Operand file and latches, with the tags of the image. -/
def Core.latchesFrom (x : Option Saved) (m : Mem) (k : Core) : Core :=
  let f := areaField m latchTags
  let tag := fun (j : Nat) (e : VEntry) => if (x.map (fun y => y.same m latchTags)).getD false then e.tag else tagOf (f j)
  let latch := fun (j : Nat) (e : VEntry) => VEntry.ofImage (tag j e) m (0x10000 + j * ventryBytes)
  let opf := ((List.finRange 8).map (fun n => latch n.val (k.opf.get n))).toArray
  { k with opf := ⟨opf, by simp [opf]⟩, lv := latch 8 k.lv, ll := latch 9 k.ll }

/-- The snapshot section: of an image whose header stands as written the entries are those that the device wrote, else as many as
the header says, in flight and then held by berth. -/
def Core.snapFrom (x : Option Saved) (f : Nat → W64) (m : Mem) (k : Core) : Core :=
  let l := match x with
    | some y => snapRead m snapOff y.core.snapEntries
    | none => snapParse m (f 324).toNat snapOff
  let held := fun (b : Nat) => match x with
    | some y => (y.core.berth (Fin.ofNat 4 b)).held.length
    | none => (f (325 + b)).toNat
  let now := l.length - ((List.range 4).map held).sum
  { k with
    inflight := l.take now,
    berths := ⟨((List.finRange 4).map (fun b =>
      { k.berth b with held := (l.drop (now + ((List.range b.val).map held).sum)).take (held b.val) })).toArray, by simp⟩ }

/-- Whether the header of an image stands as the device wrote it. -/
def asWritten (x : Option Saved) (m : Mem) : Bool := (x.map (fun y => y.same m headerArea)).getD false

/-- A strand and the n cores that lend to it as an image in memory gives them. Sections whose layout is open and which stand as the
device wrote them mean what it saved (20 R317 to R319; log 21). -/
def restore (x : Option Saved) (n : Nat) (m : Mem) : Core × List Core :=
  let f := areaField m headerArea
  let w := if asWritten x m then x else none
  let was : Core := (x.map (fun y => y.core)).getD { Core.reset with skip := 0 }
  let k := match w with
    | some y => y.core
    | none => filledFrom (fun n => f (2048 + n)) (was.fromHeader f)
  let k := if x.isSome then k else k.queuesFrom m
  let k := ((((fileFrom (fileOff 0) m k).latchesFrom x m).bufferFrom m).snapFrom w f m)
  let lent := fun (j : Nat) =>
    let y := ((x.map (fun y => y.lenders)).getD []).getD j Core.reset
    if w.isSome then y else filledFrom (fun n => f (2048 + 768 * (j + 1) + n)) y
  ({ k with lm := m.region (lmOff 0) 0x400000, lmBad := [] },
   (List.range n).map (fun j => { fileFrom (fileOff (j + 1)) m (lent j) with lm := m.region (lmOff (j + 1)) 0x400000, lmBad := [] }))

/-- An image matches its slot: IMGV, CTX, GID and rank, and at most 128 snapshot entries (20 R318). -/
def imageFits (x : Option Saved) (m : Mem) (l : Launch) (rank : Nat) : Bool :=
  match asWritten x m, x with
  | true, some y => decide (y.ctx = l.ctx ∧ y.gid = l.gid ∧ y.core.rank = rank)
  | _, _ =>
    let f := areaField m headerArea
    decide ((f 320).toNat = 1 ∧ (f 321).toNat = l.ctx.toNat ∧ (f 322).toNat = l.gid.toNat ∧ (f 323).toNat = rank ∧ (f 324).toNat ≤ 128)

/-- What the device wrote that now stands in memory, here or elsewhere, by its queue section. -/
def State.writtenAs (s : State) (place : Nat) (m : Mem) : Option Saved :=
  let l := s.saved.filter (fun x => x.same m queueArea)
  (l.find? (fun x => decide (x.place = place))).or l.head?

/-- The strand's own place: what a resume keeps of the core that it resumes. DRPST.CNT is not kept: alarms on the quad while the
strand was saved out do not count in it (DESIGN CHOICE, log 57). -/
def keepPlace (now was : Core) : Core :=
  { was with launch := now.launch, rank := now.rank, active := now.active, lender := now.lender, lend := now.lend,
             lenders := now.lenders, vcore := now.vcore, priv := now.priv, heat := now.heat, halted := now.halted }

/-- Put a restored strand into its core and its lenders. -/
def restoreAt (c : CoreId) (x : Option Saved) (m : Mem) (s : State) : State :=
  let (k, ls) := restore x (s.lendCores c).length m
  let s := ((s.lendCores c).zip ls).foldl (fun s y =>
    s.updCore y.1 (fun z => { z with file := y.2.file, lm := y.2.lm, lmBad := y.2.lmBad })) s
  s.setCore c (keepPlace (s.core c) k)

/-! ## Save slots (20 R317, 21 R330) -/

/-- PPA of a strand's slot. -/
def slotPpa (s : State) (l : Launch) (c : CoreId) : Nat :=
  fld (s.part l.part).saveb 47 34 * 2 ^ 34 + (fld (l.record.get 1) 49 48 * 128 + (s.core c).vcore.toNat) * 2 ^ 25

/-- Pages of a strand's slot. -/
def slotPages (s : State) (l : Launch) (c : CoreId) (wr : Bool) : Acc? (List (Nat × Nat)) :=
  ppaPages s l.part (slotPpa s l c) wr (partPages (imageParts ((s.lendCores c).map s.core)))

/-- Save one strand of a gang into its slot. -/
def saveStrand (c : CoreId) (l : Launch) (s : State) : Acc? State := do
  let g ← slotPages s l c true
  .ok (saveAt c l g s)

/-- Load one strand from an image, or BADIMG where it does not match (20 R318). -/
def loadSaved (c : CoreId) (l : Launch) (x : Option Saved) (m : Mem) (s : State) : Except (Byte × W64 × W64) State :=
  if imageFits x m l (s.core c).rank then .ok (restoreAt c x m s) else .error (0x88, 0, 0)

/-- Load one strand from the pages of its slot, or an uncorrectable error of them (20 R312). -/
def loadPages (c : CoreId) (l : Launch) (g : List (Nat × Nat)) (s : State) : Except (Byte × W64 × W64) State :=
  match badPage g s with
  | some a => .error (0x02, a, a)
  | none => loadSaved c l (s.writtenAs (g.headD (0, 0)).2 (getPages g s)) (getPages g s) s

/-- Load one strand from its slot, or the fault code, detail and address that keep it out. -/
def loadStrand (c : CoreId) (l : Launch) (s : State) : Except (Byte × W64 × W64) State :=
  ((slotPages s l c false).mapError (fun f => (f.code, f.det, f.addr))).bind (fun g => loadPages c l g s)

end Sys2Proof.Machine
end

