-- ==== Sys2Proof/Machine/Priv.lean ====
section
/-! DEFINITION. Privileged forms (spec 20 R321, 15 R276, 02 R25). -/

namespace Sys2Proof.Machine

open Sys2Proof

/-- Every berth of the core stops, until module reset or a release through PF0. -/
def execHalt (h : Head) (s : State) : Out := issue (.halt h) h (updSelf (fun k => { k with halted := true })) s

/-- The strand is pre-empted from the next cycle; its image goes to VA Sa once every part has finished. -/
def execSnap (h : Head) (a : SSrc) (s : State) : Out :=
  issue (.snap h a) h (do
    let v ← readS 1 a
    aligned 1 v 4096
    updSelf (fun k => { k.preempted with snap := some v })) s

/-- Bytes of an image that hold its sections for a core. -/
def vaSlot (s : State) (c : CoreId) (va : W64) (wr : Bool) : Acc? (List (Nat × Nat)) :=
  vaPages s (s.coreCtx c) va wr (partPages (imageParts ((s.lendCores c).map s.core)))

/-- The image at a VA that meets R318 for the issuing core's gang, rank and context. -/
def imageFor (s : State) (c : CoreId) (va : W64) : Option (Option Saved × Mem) :=
  match vaSlot s c va false, s.gangOf c with
  | .ok g, some (_, l) =>
    let m := getPages g s
    let x := s.writtenAs (g.headD (0, 0)).2 m
    if (badPage g s).isNone && imageFits x m l (s.core c).rank then some (x, m) else none
  | _, _ => none

/-- The strand's whole state is replaced by the image, and it resumes with the next cycle. -/
def execRstr (h : Head) (a : SSrc) (s : State) : Out :=
  issue (.rstr h a) h (do
    let v ← readS 1 a
    aligned 1 v 4096
    let s ← get
    match imageFor s s.cur v with
    | some (x, m) =>
      set (restoreAt s.cur x m s)
      updSelf (fun k => { k with stopped := true, frozen := true, restart := true })
    | none => raise .illop 1 v) s

/-- A quad register (15 R276). -/
def readQuad (q : Quad) : QuadReg → W64
  | .qpew n => (q.qpew.get n).zeroExtend 64
  | .qpest => BitVec.ofNat 64 (q.qest.toNat + q.qsig.toNat * 2 ^ 32)
  | .qplvl => BitVec.ofNat 64 (q.fwcap.toNat + q.ceil.toNat * 2 ^ 4 + q.slk.toNat * 2 ^ 8 + q.eff.toNat * 2 ^ 12)
  | .qpslk => BitVec.ofNat 64 (q.slkMin.toNat + q.ecnt.toNat * 2 ^ 16 + q.lcnt.toNat * 2 ^ 19 + q.dwell.toNat * 2 ^ 22)

/-- The fields of a quad register that firmware may write. -/
def writeQuad (r : QuadReg) (v : W64) (q : Quad) : Quad :=
  match r with
  | .qpew n => { q with qpew := q.qpew.set n.val (v.truncate 16) n.isLt }
  | .qpest => q
  | .qplvl => { q with fwcap := v.truncate 4 }
  | .qpslk => { q with slkMin := v.truncate 16 }

/-- DRPTH.THR within the floor and the ceiling of the signed record (02 R25). -/
def thrWithin (rails : List Byte) (v : Byte) : Byte :=
  if v.toNat < (Config.thrFloor rails).toNat then Config.thrFloor rails
  else if (Config.thrCeil rails).toNat < v.toNat then Config.thrCeil rails else v

/-- A system register with the fields that firmware may write. -/
def writePriv (n : PrivName) (v : W64) (s : State) : State :=
  let q := quadOf s.cur
  match n with
  | .sys .drpth => s.setQuad q { s.quad q with thr := thrWithin s.rails (v.truncate 8) }
  | .sys r => s.updCore s.cur (writeSys r v)
  | .quad r => s.setQuad q (writeQuad r v (s.quad q))

def execMtsp (h : Head) (r : PrivName) (a : SOp) (s : State) : Out :=
  issue (.mtsp h r a) h (do
    let v ← readSI 2 a
    modify (writePriv r v)) s

def execMfsp (h : Head) (d : SDst) (r : PrivName) (s : State) : Out :=
  issue (.mfsp h d r) h (do
    let s ← get
    seqResult d (match r with
      | .sys r => readSys s s.cur r
      | .quad r => readQuad (s.quad (quadOf s.cur)) r)) s

/-- The block ends; the berth is ready again on a launch to the core or a doorbell. -/
def execIdle (h : Head) (s : State) : Out := issue (.idle h) h (waitHere .idle) s

end Sys2Proof.Machine
end

