-- ==== Sys2Proof/Machine/Scalar.lean ====
section
/-! DEFINITION. Scalar, predicate and FIFO forms (spec 07 R123 to R125). -/

namespace Sys2Proof.Machine

open Sys2Proof

/-! ## Operations -/

/-- A 64-bit result of the scalar ALU. -/
def scalar (d : SDst) (lat : Nat) (v : W64) : M Unit := result .seq (dstS d) (.s v) lat 0

/-- Slots d s si. -/
def scalar2 (i : Instr) (h : Head) (d : SDst) (a : SSrc) (b : SOp) (lat : Nat) (f : W64 → W64 → W64) (s : State) : Out :=
  issue i h (do
    let x ← readS 1 a
    let y ← readSI 2 b
    scalar d lat (f x y)) s

/-- Slots d s. -/
def scalar1 (i : Instr) (h : Head) (d : SDst) (a : SSrc) (f : W64 → W64) (s : State) : Out :=
  issue i h (do
    let x ← readS 1 a
    scalar d 1 (f x)) s

/-- High 64 bits of the signed and of the unsigned product. -/
def mulHigh (a b : W64) : W64 := BitVec.ofInt 64 (a.toInt * b.toInt / 2 ^ 64)
def mulHighU (a b : W64) : W64 := BitVec.ofNat 64 (a.toNat * b.toNat / 2 ^ 64)

/-- Quotient rounded toward zero; a zero divisor gives all ones. -/
def divS (a b : W64) : W64 := if b = 0 then BitVec.allOnes 64 else a.sdiv b
def divU (a b : W64) : W64 := if b = 0 then BitVec.allOnes 64 else a / b

/-- Remainder; a zero divisor gives the dividend. -/
def remS (a b : W64) : W64 := if b = 0 then a else a.srem b
def remU (a b : W64) : W64 := if b = 0 then a else a % b

/-- Bits set among the low `n`. -/
def popCount (n : Nat) (v : Nat) : Nat := ((List.range n).filter (fun i => v.testBit i)).length

/-- Leading zeros within `n` bits. -/
def leadZeros (n : Nat) (v : Nat) : Nat := if v = 0 then n else n - 1 - Nat.log2 v

/-- Trailing zeros within `n` bits. -/
def trailZeros (n : Nat) (v : Nat) : Nat := (List.range n).findIdx (fun i => v.testBit i)

def absS (a : W64) : W64 := if a.msb then -a else a

/-- Amount of a shift or rotation: b[5:0]. -/
def amount (b : W64) : Nat := b.toNat % 64

def minS (a b : W64) : W64 := if b.slt a then b else a
def maxS (a b : W64) : W64 := if a.slt b then b else a
def minU (a b : W64) : W64 := if b.ult a then b else a
def maxU (a b : W64) : W64 := if a.ult b then b else a

/-- Extension from bit w - 1. -/
def extS (w : Nat) (a : W64) : W64 := sext64 w a.toNat
def extZ (w : Nat) (a : W64) : W64 := BitVec.ofNat 64 (a.toNat % 2 ^ w)

/-! ## Forms -/

def execLi (h : Head) (d : SDst) (v : W64) (s : State) : Out := issue (.li h d v) h (scalar d 1 v) s

def execMov (h : Head) (d : SDst) (a : SOp) (s : State) : Out :=
  issue (.mov h d a) h (do
    let x ← readSI 1 a
    scalar d 1 x) s

def execAdd (h : Head) (d : SDst) (a : SSrc) (b : SOp) (s : State) : Out :=
  scalar2 (.add h d a b) h d a b 1 (fun a b => a + b) s

def execSub (h : Head) (d : SDst) (a : SSrc) (b : SOp) (s : State) : Out :=
  scalar2 (.sub h d a b) h d a b 1 (fun a b => a - b) s

def execMul (h : Head) (d : SDst) (a : SSrc) (b : SOp) (s : State) : Out :=
  scalar2 (.mul h d a b) h d a b 3 (fun a b => a * b) s

def execMulh (h : Head) (d : SDst) (a : SSrc) (b : SOp) (s : State) : Out :=
  scalar2 (.mulh h d a b) h d a b 3 (mulHigh) s

def execMulhu (h : Head) (d : SDst) (a : SSrc) (b : SOp) (s : State) : Out :=
  scalar2 (.mulhu h d a b) h d a b 3 (mulHighU) s

def execDiv (h : Head) (d : SDst) (a : SSrc) (b : SOp) (s : State) : Out :=
  scalar2 (.div h d a b) h d a b 18 (divS) s

def execDivu (h : Head) (d : SDst) (a : SSrc) (b : SOp) (s : State) : Out :=
  scalar2 (.divu h d a b) h d a b 18 (divU) s

def execRem (h : Head) (d : SDst) (a : SSrc) (b : SOp) (s : State) : Out :=
  scalar2 (.rem h d a b) h d a b 18 (remS) s

def execRemu (h : Head) (d : SDst) (a : SSrc) (b : SOp) (s : State) : Out :=
  scalar2 (.remu h d a b) h d a b 18 (remU) s

def execAnd (h : Head) (d : SDst) (a : SSrc) (b : SOp) (s : State) : Out :=
  scalar2 (.and h d a b) h d a b 1 (fun a b => a &&& b) s

def execOr (h : Head) (d : SDst) (a : SSrc) (b : SOp) (s : State) : Out :=
  scalar2 (.or h d a b) h d a b 1 (fun a b => a ||| b) s

def execXor (h : Head) (d : SDst) (a : SSrc) (b : SOp) (s : State) : Out :=
  scalar2 (.xor h d a b) h d a b 1 (fun a b => a ^^^ b) s

def execAndn (h : Head) (d : SDst) (a : SSrc) (b : SOp) (s : State) : Out :=
  scalar2 (.andn h d a b) h d a b 1 (fun a b => a &&& ~~~b) s

def execShl (h : Head) (d : SDst) (a : SSrc) (b : SOp) (s : State) : Out :=
  scalar2 (.shl h d a b) h d a b 1 (fun a b => a <<< amount b) s

def execShr (h : Head) (d : SDst) (a : SSrc) (b : SOp) (s : State) : Out :=
  scalar2 (.shr h d a b) h d a b 1 (fun a b => a >>> amount b) s

def execSar (h : Head) (d : SDst) (a : SSrc) (b : SOp) (s : State) : Out :=
  scalar2 (.sar h d a b) h d a b 1 (fun a b => a.sshiftRight (amount b)) s

def execRol (h : Head) (d : SDst) (a : SSrc) (b : SOp) (s : State) : Out :=
  scalar2 (.rol h d a b) h d a b 1 (fun a b => a.rotateLeft (amount b)) s

def execMin (h : Head) (d : SDst) (a : SSrc) (b : SOp) (s : State) : Out :=
  scalar2 (.min h d a b) h d a b 1 (minS) s

def execMax (h : Head) (d : SDst) (a : SSrc) (b : SOp) (s : State) : Out :=
  scalar2 (.max h d a b) h d a b 1 (maxS) s

def execMinu (h : Head) (d : SDst) (a : SSrc) (b : SOp) (s : State) : Out :=
  scalar2 (.minu h d a b) h d a b 1 (minU) s

def execMaxu (h : Head) (d : SDst) (a : SSrc) (b : SOp) (s : State) : Out :=
  scalar2 (.maxu h d a b) h d a b 1 (maxU) s

def execClz (h : Head) (d : SDst) (a : SSrc) (s : State) : Out :=
  scalar1 (.clz h d a) h d a (fun a => BitVec.ofNat 64 (leadZeros 64 a.toNat)) s

def execCtz (h : Head) (d : SDst) (a : SSrc) (s : State) : Out :=
  scalar1 (.ctz h d a) h d a (fun a => BitVec.ofNat 64 (trailZeros 64 a.toNat)) s

def execPopc (h : Head) (d : SDst) (a : SSrc) (s : State) : Out :=
  scalar1 (.popc h d a) h d a (fun a => BitVec.ofNat 64 (popCount 64 a.toNat)) s

def execAbs (h : Head) (d : SDst) (a : SSrc) (s : State) : Out :=
  scalar1 (.abs h d a) h d a (absS) s

/-- Both sources are read, and both are popped. -/
def execSel (h : Head) (d : SDst) (p : Fin 16) (a : SSrc) (b : SOp) (s : State) : Out :=
  issue (.sel h d p a b) h (do
    let c := (← get).me.readP p
    let x ← readS 2 a
    let y ← readSI 3 b
    scalar d 1 (if c then x else y)) s

/-- The predicate, and 1 or 0 in LS; a CMP to P0 writes only LS. -/
def execCmp (h : Head) (c : Cond) (d : Fin 16) (a : SSrc) (b : SOp) (s : State) : Out :=
  issue (.cmp h c d a b) h (do
    let x ← readS 1 a
    let y ← readSI 2 b
    result .seq (.p d) (.pred (condHolds c x y) true) 1 0) s

def execSext (h : Head) (d : SDst) (a : SSrc) (w : W16) (s : State) : Out :=
  scalar1 (.sext h d a w) h d a (extS w.toNat) s

def execZext (h : Head) (d : SDst) (a : SSrc) (w : W16) (s : State) : Out :=
  scalar1 (.zext h d a w) h d a (extZ w.toNat) s

def execAidx (h : Head) (d : SDst) (a : SSrc) (b : SOp) (k : W16) (s : State) : Out :=
  scalar2 (.aidx h d a b k) h d a b 1 (fun a b => a + (b <<< k.toNat)) s

def execBfx (h : Head) (d : SDst) (a : SSrc) (pos len : W16) (s : State) : Out :=
  scalar1 (.bfx h d a pos len) h d a (fun a => BitVec.ofNat 64 (a.toNat / 2 ^ pos.toNat % 2 ^ len.toNat)) s

def execBfi (h : Head) (d : SDst) (a : SSrc) (b : SOp) (pos len : W16) (s : State) : Out :=
  scalar2 (.bfi h d a b pos len) h d a b 1 (fun a b => setFld a pos.toNat len.toNat b.toNat) s

/-! ## Predicates: latency 1, LS kept (07 R124) -/

def pred2 (i : Instr) (h : Head) (d a b : Fin 16) (f : Bool → Bool → Bool) (s : State) : Out :=
  issue i h (do
    let x := (← get).me
    result .seq (.p d) (.pred (f (x.readP a) (x.readP b)) false) 1 0) s

def execPand (h : Head) (d a b : Fin 16) (s : State) : Out := pred2 (.pand h d a b) h d a b (fun x y => x && y) s

def execPor (h : Head) (d a b : Fin 16) (s : State) : Out := pred2 (.por h d a b) h d a b (fun x y => x || y) s

def execPxor (h : Head) (d a b : Fin 16) (s : State) : Out := pred2 (.pxor h d a b) h d a b (fun x y => x != y) s

def execPnot (h : Head) (d a : Fin 16) (s : State) : Out := pred2 (.pnot h d a) h d a a (fun x _ => !x) s

def execPmov (h : Head) (d : Fin 16) (a : PredOp) (s : State) : Out :=
  issue (.pmov h d a) h (do
    let x := (← get).me
    result .seq (.p d) (.pred (match a with | .p n => x.readP n | .imm b => b) false) 1 0) s

/-! ## FIFO forms: they act in step 4, on the entries as they stand (07 R125) -/

/-- Entries of a FIFO. -/
def fifoCount (s : State) : FifoName → Nat
  | .v n => (s.vFifo s.cur n).length
  | .s n => (s.me.s.get n).length

/-- Change the entries of a FIFO. -/
def fifoMap (n : FifoName) (fv : List VEntry → List VEntry) (fs : List W64 → List W64) : M Unit :=
  match n with
  | .v n => modify (fun s => s.setVFifo s.cur n (fv (s.vFifo s.cur n)))
  | .s n => updMe (fun b => b.setS n (fs (b.s.get n)))

def execFcnt (h : Head) (d : SDst) (n : FifoName) (s : State) : Out :=
  issue (.fcnt h d n) h (do
    let c := fifoCount (← get) n
    scalar d 1 (BitVec.ofNat 64 c)) s

def execFdrop (h : Head) (n : FifoName) (s : State) : Out :=
  issue (.fdrop h n) h (fifoMap n List.tail List.tail) s

def execFclr (h : Head) (n : FifoName) (s : State) : Out :=
  issue (.fclr h n) h (fifoMap n (fun _ => []) (fun _ => [])) s

end Sys2Proof.Machine
end

