-- ==== Sys2Proof/Machine/RunWord.lean ====
section
/-! DEFINITION. What a word of a program does: the meaning that `exec` gives to it. -/

namespace Sys2Proof.Machine

open Sys2Proof

/-- What a word does; an event is no word. -/
def runWord (i : Instr) (s : State) : Out :=
  match i with
  | .nop h => execNop h s
  | .br h dist => execBr h dist s
  | .brc h c a b dist => execBrc h c a b dist s
  | .bri h a => execBri h a s
  | .call h d dist => execCall h d dist s
  | .ret h a => execRet h a s
  | .loop h d a dist => execLoop h d a dist s
  | .wait h => execWait h s
  | .yield h => execYield h s
  | .exit h => execExit h s
  | .beat h => execBeat h s
  | .phase h d => execPhase h d s
  | .lock h => execLock h s
  | .bara h d n count => execBara h d n count s
  | .barw h n ph => execBarw h n ph s
  | .baraw h n count => execBaraw h n count s
  | .tokin h k mb => execTokin h k mb s
  | .tokout h k stage mb => execTokout h k stage mb s
  | .stamp h d off => execStamp h d off s
  | .tsr h d e => execTsr h d e s
  | .sleepc h a => execSleepc h a s
  | .sleepp h bo ph => execSleepp h bo ph s
  | .waitp h bo ph => execWaitp h bo ph s
  | .trap h code => execTrap h code s
  | .rtt h => execRtt h s
  | .mfs h d n => execMfs h d n s
  | .mts h r a => execMts h r a s
  | .loc h slice d a => execLoc h slice d a s
  | .fence h sc pre post => execFence h sc pre post s
  | .fsc h sc => execFsc h sc s
  | .mark h => execMark h s
  | .tfence h va => execTfence h va s
  | .rcfence h tid => execRcfence h tid s
  | .icfence h => execIcfence h s
  | .li h d v => execLi h d v s
  | .mov h d a => execMov h d a s
  | .add h d a b => execAdd h d a b s
  | .sub h d a b => execSub h d a b s
  | .mul h d a b => execMul h d a b s
  | .mulh h d a b => execMulh h d a b s
  | .mulhu h d a b => execMulhu h d a b s
  | .div h d a b => execDiv h d a b s
  | .divu h d a b => execDivu h d a b s
  | .rem h d a b => execRem h d a b s
  | .remu h d a b => execRemu h d a b s
  | .and h d a b => execAnd h d a b s
  | .or h d a b => execOr h d a b s
  | .xor h d a b => execXor h d a b s
  | .andn h d a b => execAndn h d a b s
  | .shl h d a b => execShl h d a b s
  | .shr h d a b => execShr h d a b s
  | .sar h d a b => execSar h d a b s
  | .rol h d a b => execRol h d a b s
  | .clz h d a => execClz h d a s
  | .ctz h d a => execCtz h d a s
  | .popc h d a => execPopc h d a s
  | .abs h d a => execAbs h d a s
  | .min h d a b => execMin h d a b s
  | .max h d a b => execMax h d a b s
  | .minu h d a b => execMinu h d a b s
  | .maxu h d a b => execMaxu h d a b s
  | .sel h d p a b => execSel h d p a b s
  | .cmp h c d a b => execCmp h c d a b s
  | .sext h d a w => execSext h d a w s
  | .zext h d a w => execZext h d a w s
  | .aidx h d a b k => execAidx h d a b k s
  | .bfx h d a pos len => execBfx h d a pos len s
  | .bfi h d a b pos len => execBfi h d a b pos len s
  | .pand h d a b => execPand h d a b s
  | .por h d a b => execPor h d a b s
  | .pxor h d a b => execPxor h d a b s
  | .pnot h d a => execPnot h d a s
  | .pmov h d a => execPmov h d a s
  | .fcnt h d n => execFcnt h d n s
  | .fdrop h n => execFdrop h n s
  | .fclr h n => execFclr h n s
  | .vadd h d b c m rm sat => execVadd h d b c m rm sat s
  | .vsub h d b c m rm sat => execVsub h d b c m rm sat s
  | .vmul h d b c m rm sat => execVmul h d b c m rm sat s
  | .vfma h d b c e => execVfma h d b c e s
  | .vfms h d b c e => execVfms h d b c e s
  | .vnfma h d b c e => execVnfma h d b c e s
  | .vmin h d b c m => execVmin h d b c m s
  | .vmax h d b c m => execVmax h d b c m s
  | .vabs h d b m => execVabs h d b m s
  | .vneg h d b m => execVneg h d b m s
  | .vclamp h d b c e => execVclamp h d b c e s
  | .vcmp h k d b c m => execVcmp h k d b c m s
  | .vsel h d k b c => execVsel h d k b c s
  | .vand h d b c m => execVand h d b c m s
  | .vor h d b c m => execVor h d b c m s
  | .vxor h d b c m => execVxor h d b c m s
  | .vnot h d b m => execVnot h d b m s
  | .vshl h d b c m => execVshl h d b c m s
  | .vshr h d b c m => execVshr h d b c m s
  | .vsar h d b c m => execVsar h d b c m s
  | .vmulh h d b c m => execVmulh h d b c m s
  | .vclz h d b m => execVclz h d b m s
  | .vpopc h d b m => execVpopc h d b m s
  | .vcvt h d b m rm ft draw => execVcvt h d b m rm ft draw s
  | .vtag h d b m ft => execVtag h d b m ft s
  | .vround h d b m rm => execVround h d b m rm s
  | .vpack h d b c m rm ft => execVpack h d b c m rm ft s
  | .vunpkl h d b m rm => execVunpkl h d b m rm s
  | .vunpkh h d b m rm => execVunpkh h d b m rm s
  | .vblks h d b c rm ft q => execVblks h d b c rm ft q s
  | .vblkg h d b m rm ft q => execVblkg h d b m rm ft q s
  | .vacc12 h d a x sg sp => execVacc12 h d a x sg sp s
  | .vdot2 h d a b c => execVdot2 h d a b c s
  | .vdot4 h d a b c => execVdot4 h d a b c s
  | .vdot8 h d a b c => execVdot8 h d a b c s
  | .vrotr h d b k m => execVrotr h d b k m s
  | .vrotc h d b k m => execVrotc h d b k m s
  | .vbcr h d b k m => execVbcr h d b k m s
  | .vbcc h d b k m => execVbcc h d b k m s
  | .vredr h d b m rm k => execVredr h d b m rm k s
  | .vredc h d b m rm k => execVredc h d b m rm k s
  | .vscanr h d b m rm k => execVscanr h d b m rm k s
  | .vscanc h d b m rm k => execVscanc h d b m rm k s
  | .vshfr h d b x m => execVshfr h d b x m s
  | .vtrb h d b m => execVtrb h d b m s
  | .viota h d st sd m ft => execViota h d st sd m ft s
  | .vmov h d b => execVmov h d b s
  | .vsplat h d a m ft => execVsplat h d a m ft s
  | .vext h d b e sx => execVext h d b e sx s
  | .vins h d b a e => execVins h d b a e s
  | .vrng h d sg sp m k => execVrng h d sg sp m k s
  | .vdrop h d b sg sp kt => execVdrop h d b sg sp kt s
  | .mand h d a b => execMand h d a b s
  | .mor h d a b => execMor h d a b s
  | .mxor h d a b => execMxor h d a b s
  | .mnot h d a => execMnot h d a s
  | .mcnt h d a => execMcnt h d a s
  | .mfirst h d a => execMfirst h d a s
  | .ldv h d tid off rep => execLdv h d tid off rep s
  | .stv h v tid off rep => execStv h v tid off rep s
  | .ldvt h d tid sc tr => execLdvt h d tid sc tr s
  | .ldvg h d tid vi col => execLdvg h d tid vi col s
  | .stvs h v tid vi col => execStvs h v tid vi col s
  | .ldsc h d tid off sz sx rep => execLdsc h d tid off sz sx rep s
  | .stsc h a tid off sz => execStsc h a tid off sz s
  | .lda h d tid off dbl sc => execLda h d tid off dbl sc s
  | .stl h a tid off dbl sc => execStl h a tid off dbl sc s
  | .ldm h d tid off rep => execLdm h d tid off rep s
  | .stm h a tid off rep => execStm h a tid off rep s
  | .amo h d a b c op dbl ord sc => execAmo h d a b c op dbl ord sc s
  | .famo h d a b st op dbl ord sc => execFamo h d a b st op dbl ord sc s
  | .amor h d a b c op dbl sc => execAmor h d a b c op dbl sc s
  | .red h v tid off k => execRed h v tid off k s
  | .updr h v tid sr k => execUpdr h v tid sr k s
  | .boarm h bo n => execBoarm h bo n s
  | .boclr h bo => execBoclr h bo s
  | .bord h d bo w => execBord h d bo w s
  | .cpy h bo dst src rep => execCpy h bo dst src rep s
  | .cpym h bo dst src m => execCpym h bo dst src m s
  | .cpyr h bo dst src k => execCpyr h bo dst src k s
  | .cpyd h bo dst src dig => execCpyd h bo dst src dig s
  | .mlr h bo dst src k => execMlr h bo dst src k s
  | .mst h bo dst src m => execMst h bo dst src m s
  | .rls h bo ch val => execRls h bo ch val s
  | .acqw h bo flag val => execAcqw h bo flag val s
  | .agset h bo grp rec => execAgset h bo grp rec s
  | .xfwd h t cb x rep => execXfwd h t cb x rep s
  | .xfwdb h t cb x => execXfwdb h t cb x s
  | .xbwd h t cb x rep => execXbwd h t cb x rep s
  | .xupd h t cb x d => execXupd h t cb x d s
  | .xxfr h t cb => execXxfr h t cb s
  | .xtopk h t cb x => execXtopk h t cb x s
  | .xdist h t cb x => execXdist h t cb x s
  | .xsym h t cb => execXsym h t cb s
  | .xckr h t cb => execXckr h t cb s
  | .xprg h t cb => execXprg h t cb s
  | .xscrb h t cb => execXscrb h t cb s
  | .xcal h t cb => execXcal h t cb s
  | .xnorm h t cb => execXnorm h t cb s
  | .xwset h w a => execXwset h w a s
  | .xgset h t cb => execXgset h t cb s
  | .xfenceDrain h t bo all => execXfenceDrain h t bo all s
  | .xfenceHold h t bo all => execXfenceHold h t bo all s
  | .xfenceRel h t bo all => execXfenceRel h t bo all s
  | .xstat h t cb => execXstat h t cb s
  | .fexp h bo cb acc rep => execFexp h bo cb acc rep s
  | .fexp2 h bo cb acc rep => execFexp2 h bo cb acc rep s
  | .flog h bo cb acc rep => execFlog h bo cb acc rep s
  | .flog2 h bo cb acc rep => execFlog2 h bo cb acc rep s
  | .frcp h bo cb acc rep => execFrcp h bo cb acc rep s
  | .frsq h bo cb acc rep => execFrsq h bo cb acc rep s
  | .fsqrt h bo cb acc rep => execFsqrt h bo cb acc rep s
  | .ftanh h bo cb acc rep => execFtanh h bo cb acc rep s
  | .fsig h bo cb acc rep => execFsig h bo cb acc rep s
  | .fgelu h bo cb acc rep => execFgelu h bo cb acc rep s
  | .fsilu h bo cb acc rep => execFsilu h bo cb acc rep s
  | .fsin h bo cb acc rep => execFsin h bo cb acc rep s
  | .fcos h bo cb acc rep => execFcos h bo cb acc rep s
  | .ferf h bo cb acc rep => execFerf h bo cb acc rep s
  | .fsmax h bo cb acc rep => execFsmax h bo cb acc rep s
  | .halt h => execHalt h s
  | .snap h a => execSnap h a s
  | .rstr h a => execRstr h a s
  | .mtsp h r a => execMtsp h r a s
  | .mfsp h d r => execMfsp h d r s
  | .idle h => execIdle h s
  | _ => .next s

end Sys2Proof.Machine
end

