-- ==== Sys2Proof/Machine/Sequencer.lean ====
section
/-! DEFINITION. Fetching a word, the switch between berths, and the events that end a wait, a stall or a droop
restriction (spec 02 R24, 06 R83, 07 R103 to R115, 12 R233, 19 R301, 20 R321). -/

namespace Sys2Proof.Machine

open Sys2Proof

/-! ## Fetch (07 R103, R106, 19 R301) -/

/-- CODE and CSIZE of a launch. -/
def Launch.code (l : Launch) : W64 := l.record.get 0
def Launch.csize (l : Launch) : Nat := fld (l.record.get 1) 23 0

/-- The resident image of a core's launch. -/
def State.imageOf (s : State) (c : CoreId) : Option Image :=
  match s.gangOf c with
  | some (i, _) => (s.die (dieOf c)).images.find? (fun x => x.users.contains i)
  | none => none

/-- The fetch meets an uncorrectable error of instruction memory (27 R372). -/
def State.codeErr (s : State) (c : CoreId) (pc : W64) : Option W64 :=
  match s.imageOf c with
  | some x => if x.bad.any (fun g => decide (g / 2 = pc.toNat / 16)) then some (x.code + pc) else none
  | none => none

/-- The word at a byte offset of the image; none outside it. -/
def State.codeWord (s : State) (c : CoreId) (pc : W64) : Option W128 :=
  match s.imageOf c with
  | some x => if pc.toNat + 16 ≤ 16 * x.csize then some (BitVec.ofNat 128 (x.bytes.num pc.toNat 16)) else none
  | none => none

/-! ## Ready berths (07 R103, R104) -/

/-- A berth that may be switched to. -/
def Berth.ready (x : Berth) : Bool := x.started && !x.exited && decide (x.wait = .none)

/-- The first ready berth from the one after the current on. -/
def Core.nextBerth (k : Core) : Option BerthId :=
  [1, 2, 3, 4].findSome? (fun (d : Nat) =>
    let b : BerthId := Fin.ofNat 4 (k.cur.val + d)
    if (k.berth b).ready then some b else none)

/-- The next block begins after two core cycles in which nothing issues; the switch itself takes the first. -/
def execBerthSwitch (c : CoreId) (s : State) : Out :=
  let k := s.core c
  match k.nextBerth with
  | some b => if k.running then .next s else .next (s.setCore c { k with cur := b, running := true, skip := 1, switched := 1 })
  | none => .next s

/-- A STALL count runs out. -/
def execStallExpiry (c : CoreId) (b : BerthId) (s : State) : Out :=
  if (s.berth c b).stall = 1 then .next (s.updBerth c b (fun x => { x with stall := 0 })) else .next s

/-! ## Ends of waits (07 R104) -/

/-- A waiting word completes: the berth is ready at the next word. -/
def Berth.complete (x : Berth) : Berth := { x with pc := x.pc + 16, wait := .none }

def wake (c : CoreId) (b : BerthId) (s : State) : State := s.updBerth c b Berth.complete

/-- A waiting word raises a trap. -/
def wakeTrap (c : CoreId) (b : BerthId) (code : Code) (tval : W64) (s : State) : State :=
  let pc := (s.berth c b).pc
  takeTrapWaiting c b code 7 tval pc pc s

/-- No result of a berth is in flight (03 R41), nor does an entry of it that gives one stand in a queue; MARK gives none. -/
def Core.noResults (k : Core) (b : BerthId) : Bool :=
  (k.inflight ++ k.ldPush).all (fun r => !decide (r.berth = b))
  && (k.vxeQ ++ k.ldeQ ++ (k.lde.map (fun a => [a.q])).getD []).all (fun q => !decide (q.berth = b ∧ resultCount (opcOf q.ins) ≠ 0))

/-- A core on which nothing holds a word back: no fence, no full queue or buffer, nothing in flight. -/
def Core.clearWay (k : Core) : Core :=
  { k with inflight := [], ldPush := [], ldeQ := [], vxeQ := [], steQ := [], cpyQ := [], arrQ := [], sfQ := [], vbuf := 0,
           lde := none, berths := k.berths.map (fun x => { x with fences := [], held := [] }) }

/-- The word that a berth would issue next makes all its FIFO reads: tried on a copy of the machine on which nothing holds it
back, it does not end in FIFO_UNF. -/
def nextReads (s : State) (c : CoreId) (b : BerthId) : Bool :=
  let t := { s with cur := c }.updCore c (fun k =>
    { k.clearWay.updBerth b (fun x => { x with tcode := 0, wait := .none }) with cur := b, running := true })
  match s.codeWord c (s.berth c b).pc with
  | none => true
  | some w =>
    match decode w with
    | .error _ => true
    | .ok i =>
      match runWord i t with
      | .next u => !decide ((u.berth c b).tcode = Code.fifoUnf.num)
      | _ => true

/-- The condition of a WAIT holds. -/
def execWaitWake (c : CoreId) (b : BerthId) (s : State) : Out :=
  if (s.berth c b).wait = .wait ∧ (s.core c).noResults b ∧ nextReads s c b then
    .next (s.updBerth c b (fun x => { x with wait := .none }))
  else .next s

def execSleepcWake (c : CoreId) (b : BerthId) (s : State) : Out :=
  match (s.berth c b).wait with
  | .sleepc t => if cycGe s.cyc t then .next (wake c b s) else .next s
  | _ => .next s

/-- A phase change ends a wait on an object, with BOBJERR when ERR is set. -/
def objectWake (c : CoreId) (b : BerthId) (bo : Fin 4096) (s : State) : State :=
  if (s.core c).objErr bo then wakeTrap c b .bobjerr (bobjTval (s.core c) bo) s else wake c b s

/-- The phase changes, or CYC reaches the promise read at issue; without a promise the phase alone ends the wait. -/
def execSleeppWake (c : CoreId) (b : BerthId) (s : State) : Out :=
  match (s.berth c b).wait with
  | .sleepp bo ph prom =>
    if let some l := s.objErrs c bo then .next (s.meetsUce c b 0 (BitVec.ofNat 64 l))
    else if (s.core c).objPh bo ≠ ph then .next (objectWake c b bo s)
    else if prom ≠ 0 ∧ cycGe s.cyc prom then .next (wakeTrap c b .pmiss prom s)
    else .next s
  | _ => .next s

def execWaitpWake (c : CoreId) (b : BerthId) (s : State) : Out :=
  match (s.berth c b).wait with
  | .waitp bo ph =>
    if let some l := s.objErrs c bo then .next (s.meetsUce c b 0 (BitVec.ofNat 64 l))
    else if (s.core c).objPh bo ≠ ph then .next (objectWake c b bo s) else .next s
  | _ => .next s

/-- A named barrier's phase has changed; BARAW's mark goes with it. -/
def execBarrierWake (c : CoreId) (b : BerthId) (s : State) : Out :=
  match (s.berth c b).wait with
  | .bar n ph _ =>
    if (s.core c).barPh n ≠ ph then
      .next ((wake c b s).updBerth c b (Berth.unmark n))
    else .next s
  | _ => .next s

/-- 160,000 ticks have passed since the word issued; TVAL holds ARR (07 R112). -/
def execBarrierWaitTimeout (c : CoreId) (b : BerthId) (s : State) : Out :=
  match (s.berth c b).wait with
  | .bar n ph t =>
    if cycGe s.cyc t && decide ((s.core c).barPh n = ph) then
      .next (wakeTrap c b .barto (((s.core c).bars.get n).2.1.zeroExtend 64) s)
    else .next s
  | _ => .next s

/-- The awaited token is there and is taken. -/
def execTokinWake (c : CoreId) (b : BerthId) (s : State) : Out :=
  match (s.berth c b).wait with
  | .tokin k mb =>
    match takeToken k mb (s.core c).inbox with
    | some r => .next (wake c b (s.updCore c (fun x => { x with inbox := r })))
    | none => .next s
  | _ => .next s

/-- The table has room and the token enters it. -/
def execTokoutWake (c : CoreId) (b : BerthId) (s : State) : Out :=
  match (s.berth c b).wait with
  | .tokout k st mb => if tokenRoom s c then .next (wake c b (enterToken k st mb c s)) else .next s
  | _ => .next s

/-- An idle berth is ready again. -/
def execIdleWake (c : CoreId) (s : State) : Out :=
  .next ((List.finRange 4).foldl (fun s b => if (s.berth c b).wait = .idle then wake c b s else s) s)

/-! ## Token copies (07 R113, 12 R233) -/

/-- Tokens that an inbox holds. -/
def inboxSize : Nat := 16

/-- A copy of a token for a core: into its inbox, or owed while the inbox is full. -/
def giveToken (t : Tok) (c : CoreId) (s : State) : State × Bool :=
  if (s.core c).inbox.length < inboxSize then
    (s.updCore c (fun k => { k with inbox := k.inbox ++ [(t.kind, t.mb)] }), true)
  else (s, false)

/-- A token reaches every strand of a gang: what is left of it in the table, if a copy is owed. -/
def deliverTo (t : Tok) : List CoreId → State → State × List CoreId
  | [], s => (s, [])
  | c :: r, s =>
    let (s, ok) := giveToken t c s
    let (s, owed) := deliverTo t r s
    (s, if ok then owed else c :: owed)

/-- An inbox gains room: the first copy held for it is delivered. -/
def execTokenInboxRoom (c : CoreId) (s : State) : Out :=
  match s.gangOf c with
  | none => .next s
  | some (_, l) =>
    let p := s.part l.part
    match p.tokens.find? (fun t => t.owed.contains c && bit (l.record.get 1) 54
      && decide (fld (l.record.get 1) 61 56 = t.stage.toNat)) with
    | none => .next s
    | some t =>
      let (s, ok) := giveToken t c s
      if ok then
        let owed := t.owed.filter (fun x => !decide (x = c))
        let p := s.part l.part
        .next (s.setPart l.part { p with tokens :=
          if owed.isEmpty then p.tokens.erase t else p.tokens.map (fun x => if x = t then { x with owed := owed } else x) })
      else .next s

/-! ## Droop (02 R24, R25) -/

/-- The four cores of a quad. -/
def quadCores (q : QuadId) : List CoreId := (List.finRange 128).filter (fun c => decide (quadOf c = q))

/-- An alarm: it is counted, and outside a stretch it starts one. -/
def execDroopAlarm (q : QuadId) (s : State) : Out :=
  let s := bump (hDroop q) 1 s
  let s := (quadCores q).foldl (fun s c => s.updCore c (fun k =>
    { k.count 8 1 with drpCnt := if k.drpCnt = 0xFFFF then k.drpCnt else k.drpCnt + 1 })) s
  let x := s.quad q
  .next (if x.stretch = 0 then s.setQuad q { x with stretch := 6, window := 0, half := false } else s)

/-- The last stretched cycle ends and the window begins. -/
def execStretchEnd (q : QuadId) (s : State) : Out :=
  let x := s.quad q
  .next (if x.stretch = 1 then s.setQuad q { x with stretch := 0, window := 64, half := false } else s)

/-- The window's last cycle ends. -/
def execHalfRateWindowEnd (q : QuadId) (s : State) : Out :=
  let x := s.quad q
  .next (if x.window = 1 then s.setQuad q { x with window := 0 } else s)

end Sys2Proof.Machine
end

