-- ==== Sys2Proof/Machine/Gang.lean ====
section
/-! DEFINITION. Gangs: the lock and its release, named barriers across dies, tokens, slack, the end of a gang,
pre-emption, saving and resuming (spec 07 R107 to R113, 12 R225 to R233, 15 R281, R282, 19 R297 to R304,
20 R308, R313 to R319). -/

namespace Sys2Proof.Machine

open Sys2Proof

/-! ## Fields of a launch (19 R295) -/

def Launch.heat (l : Launch) : Nat := fld (l.record.get 1) 25 24
def Launch.nber (l : Launch) : Nat := fld (l.record.get 1) 27 26 + 1
def Launch.intr (l : Launch) : Bool := bit (l.record.get 1) 29
def Launch.resi (l : Launch) : Bool := bit (l.record.get 1) 30
def Launch.isCopy (l : Launch) : Bool := bit (l.record.get 1) 31
def Launch.strands (l : Launch) : Nat := fld (l.record.get 1) 44 32
def Launch.prio (l : Launch) : Nat := fld (l.record.get 1) 49 48
def Launch.stage (l : Launch) : Option (BitVec 6) :=
  if bit (l.record.get 1) 54 then some (BitVec.ofNat 6 (fld (l.record.get 1) 61 56)) else none
def Launch.limit (l : Launch) : Nat := fld (l.record.get 5) 31 0
def Launch.mmod (l : Launch) : Bool := bit (l.record.get 7) 4
def Launch.mgrp (l : Launch) : Fin 64 := Fin.ofNat 64 (fld (l.record.get 7) 13 8)
/-- GBT in ticks (19 R304). -/
def Launch.gbt (l : Launch) : Nat :=
  let n := fld (l.record.get 7) 31 16
  (if n = 0 then 157 else n) * 1024

/-- Dies that hold strands, without repeats. -/
def Launch.dies (l : Launch) : List DieId := (l.cores.map dieOf).eraseDups

/-- The die that holds strand 0 (12 R224). -/
def Launch.master (l : Launch) : DieId := dieOf (l.cores.headD 0)

/-- The group of a gang that spans modules. -/
def State.gangGroup (s : State) (l : Launch) : Option Group := if l.mmod then (s.part l.part).groups.get l.mgrp else none

/-- The master die is on this module: rank 0 of the group, or no group. -/
def State.hasMaster (s : State) (l : Launch) : Bool :=
  match s.gangGroup l with
  | some g => decide (g.rank = 0)
  | none => true

/-- LRD: 96 ticks while all the gang's strands are on one module (12 R228). -/
def State.lrd (s : State) (l : Launch) : Nat :=
  match s.gangGroup l with
  | some g => if g.nmem ≤ 1 then 96 else 2048
  | none => 96

/-- Control die of a quad. -/
def dieOfQuad (q : QuadId) : DieId := Fin.ofNat 4 (q.val / 8)

/-- Launch i is started and its gang runs, not stopped by a pre-emption. -/
def Launch.runs (l : Launch) : Bool := decide (l.state = .started ∧ (l.gang = .running ∨ l.gang = .releasing))

/-! ## Completion objects and the interrupt queue (19 R292, R297, R298, 21 R331) -/

/-- Words 0 to 7 of a completion object. -/
def completionBytes (l : Launch) (status : Nat) (fcode : Byte) (saved : Bool) (det cyc : W64) : List Byte :=
  toBytes 8 (status + fcode.toNat * 2 ^ 8 + b2n saved * 2 ^ 16) ++ toBytes 8 l.start.toNat ++ toBytes 8 cyc.toNat
  ++ toBytes 8 det.toNat ++ toBytes 8 (l.queue.val + l.seq.toNat * 2 ^ 6) ++ toBytes 24 0

/-- The context in which a launch's objects translate; the device's own accesses go through die 0. -/
def Launch.ctxOf (l : Launch) : Ctx := ⟨l.part, l.ctx, 0, none⟩

/-- A queue stops on an error: EN clears, ERR is set, and a record is posted that names the HEAD at the slot read
(19 R292, 20 R310). -/
def stopQueue (b : Block) (q : Fin 64) (seq : W16) (code : Byte) (det : W64) (s : State) : State :=
  let x := s.block b
  let y := x.queues.get q
  let s := s.setBlock b { x with queues := x.queues.set q.val { y with en := false, err := true, code := code } q.isLt }
  postFault b { code := code, src := 4, core := 0xFF, brth := 0, ctx := y.ctx, queue := q.val, seq := seq, det := det,
                addr := det } s

/-- Launches of a partition that wait for a dependence are tested again (19 R299). -/
def retest (p : PartId) (s : State) : State :=
  s.push (((List.range s.launches.length).zip s.launches).filterMap (fun x =>
    if x.2.part = p ∧ x.2.state = .waiting then some (.dependenceTest x.1) else none))

/-- Write the completion object, word 0 last; a faulting write stops the queue with BADCOMP. INTR posts an entry once
word 0 is visible, at a saved gang's write as at the last (19 R298, R299). -/
def complete (l : Launch) (status : Nat) (fcode : Byte) (saved : Bool) (det : W64) (s : State) : State :=
  match s.writeVa l.ctxOf (l.record.get 4) (completionBytes l status fcode saved det s.cyc) with
  | .error _ => stopQueue l.blk l.queue l.seq 0x87 (l.record.get 4) s
  | .ok s => retest l.part (if l.intr then postInt l.blk 1 l.queue.val l.seq 0 0 s else s)

/-! ## Growth at a release (21 R332) -/

def Masks.or (a b : Masks) : Masks :=
  ⟨a.quads ||| b.quads, a.l2.zipWith (fun x y => x ||| y) b.l2, a.stg.zipWith (fun x y => x ||| y) b.stg,
    a.hbm ||| b.hbm, a.sync.zipWith (fun x y => x ||| y) b.sync⟩

/-- The installed record of a kind. -/
def State.installed (s : State) (kind : Nat) : List Byte :=
  match s.flash.configs.find? (fun r => decide (r.1 = kind)) with
  | some r => r.2.2
  | none => []

/-- A worn pair leaves service, and the spare answers to its tile number (25 R360). -/
def swapPair (w x : PairId) (s : State) : State :=
  let a := s.pair w
  let b := s.pair x
  if a.insv ∧ b.spare ∧ !b.insv then
    (s.setPair w { a with insv := false, tile := 0 }).setPair x { b with insv := true, tile := a.tile }
  else s

/-- The pair that a tile number names on a part without remaps (05 R59). -/
def ownPair (t : Fin 1024) : PairId := Fin.ofNat 1088 (t.val / 128 * 136 + t.val % 128)

/-- A spare whose remap the record in force no longer holds gives its tile number back (25 R360, 27 R380; log 91). -/
def unswap (x : PairId) (s : State) : State :=
  let b := s.pair x
  let w := ownPair b.tile
  if b.spare ∧ b.insv ∧ !s.remaps.any (fun r => decide (r.2 = x)) then
    (s.setPair x { b with insv := false, tile := 0 }).setPair w { s.pair w with insv := true, tile := b.tile }
  else s

/-- Spare pairs. -/
def sparePairs : List PairId := (List.finRange 64).map (fun n => Fin.ofNat 1088 (n.val / 8 * 136 + 128 + n.val % 8))

/-- QPEW is loaded from a record of writable-weight defaults that has not been loaded before (15 R276, 27 R380). -/
def Quad.loadWeights (x : Quad) (r : List Byte) : Quad :=
  if r = x.defaults then x
  else { x with defaults := r, qpew := ⟨((List.finRange 48).map (Config.qpewInit r)).toArray, by simp⟩ }

/-- A quad is assigned to a partition: remaps of its tiles take effect, and the records of kinds 2, 4 and 6 (25 R360,
27 R380). -/
def assignQuad (q : QuadId) (s : State) : State :=
  let s := (sparePairs.filter (fun x => decide (tileQuad (s.pair x).tile = q))).foldl (fun s x => unswap x s) s
  let mine := s.remaps.filter (fun r => decide (quadOf (Fin.ofNat 128 ((s.pair r.1).tile.val / 8)) = q) && (s.pair r.1).insv)
  let s := mine.foldl (fun s r => swapPair r.1 r.2 s) s
  let x := s.quad q
  s.setQuad q { x.loadWeights (s.installed 6) with wear := s.installed 4, cal := s.installed 2 }

/-- Additions of a partition apply together, each granule in the mode of its ADD bit, and GROW_DONE is posted. -/
def applyAdd (p : PartId) (s : State) : State :=
  let x := s.part p
  if x.pendAdd then
    let add := { x.add with stg := x.add.stg.zipWith (fun a b => a &&& b) x.add.l2 }
    let s := s.setPart p { x with held := x.held.or add, add := Masks.none, pendAdd := false }
    let s := (List.finRange 32).foldl (fun s q => if bit add.quads q.val then assignQuad q s else s) s
    (postInt (.part p) 4 0 0 0 0 s).push [.turnGrant p, .placement p]
  else s

/-! ## Leaving the quads (12 R233, 13 R251, 19 R298) -/

/-- A core belongs to no gang any more; what its inbox held is discarded (12 R233). -/
def Core.vacate (k : Core) : Core :=
  { k with launch := none, active := false, lender := false, stopping := false, stopped := true, frozen := false, restart := false, snap := none,
           running := false, inbox := [], copies := .replicate 8 none, cpyQ := [], arrQ := [], sfQ := [], ldeQ := [], steQ := [], vxeQ := [],
           lde := none, ste := none, inflight := [], ldPush := [], acc := [], vbuf := 0, holds := [] }

/-- The cores of a quad list. -/
def quadsCores (qs : List QuadId) : List CoreId := (List.finRange 128).filter (fun c => qs.contains (quadOf c))

/-- The cores of a quad list that serve a launch serve none any more. -/
def vacateAll (i : Nat) (l : Launch) (s : State) : State :=
  (quadsCores l.quads).foldl (fun s c =>
    if (s.core c).launch = some i ∨ l.cores.contains c then s.updCore c Core.vacate
    else s.updCore c (fun k => { k with lender := false })) s

/-- A context that has no strand on a die any more, its strands having ended or been saved, leaves no entry in the die's record cache
(13 R251). -/
def dropContext (l : Launch) (s : State) : State :=
  (List.finRange 4).foldl (fun s d =>
    let stays := s.launches.any (fun m => decide (m.part = l.part ∧ m.ctx = l.ctx ∧ m.state ≠ .saved ∧ m.state ≠ .held) &&
      m.cores.any (fun c => decide (dieOf c = d) 
        && ((s.core c).launch.bind s.launch |>.map (fun x => decide (x.part = l.part ∧ x.ctx = l.ctx))).getD false))
    if stays then s
    else s.setDie d { s.die d with recs := (s.die d).recs.filter (fun e => !decide (e.part = l.part ∧ e.ctx = l.ctx)) }) s

/-- A gang leaves its quads; copies that tokens of its stage still owe it wait for the next gang of that stage (12 R233). -/
def leave (i : Nat) (l : Launch) (s : State) : State :=
  let s := dropContext l (vacateAll i l s)
  let p := s.part l.part
  s.setPart l.part { p with tokens := p.tokens.map (fun t =>
    { t with owed := t.owed.filter (fun c => !(decide (l.stage = some t.stage) && l.cores.contains c)) }) }

/-- A gang of the partition is resident. -/
def State.resident (s : State) (p : PartId) : Bool := s.launches.any (fun l => decide (l.part = p) && l.occupies)

/-- With no gang resident any more, additions wait for no release (21 R332). -/
def grow (p : PartId) (s : State) : State := if s.resident p then s else applyAdd p s

/-- A launch ends: its quads are free and its completion object is written. -/
def endLaunch (i : Nat) (status : Nat) (fcode : Byte) (det : W64) (s : State) : State :=
  match s.launch i with
  | none => s
  | some l =>
    let s := (leave i l s).setLaunch i { l with state := .done, gang := .ended, pre := none, ended := s.cyc }
    grow l.part ((complete l status fcode false det s).push [.turnGrant l.part, .placement l.part])

/-! ## The end of a gang (07 R107, 12 R226, 19 R298) -/

/-- A strand has ended: its berths have, and all that it issued is complete. -/
def State.strandEnded (s : State) (c : CoreId) : Bool :=
  let k := s.core c
  k.berths.toList.all (fun b => !b.started || b.exited) && k.acc.isEmpty && k.vxeQ.isEmpty && k.ldeQ.isEmpty && k.steQ.isEmpty
  && k.cpyQ.isEmpty && k.arrQ.isEmpty && k.sfQ.isEmpty && k.lde.isNone && k.ste.isNone && k.inflight.isEmpty
  && k.ldPush.isEmpty && k.retire.isEmpty && k.counts.isEmpty && k.copies.toList.all Option.isNone && !s.bargesOf c

/-- The entries still in FIFOs go with a strand that has ended: main files, own and lent, scalar FIFOs and tokens
(07 R107, 12 R232). -/
def State.dropFifos (s : State) (c : CoreId) : State :=
  let s := s.updCore c (fun k =>
    { k with file := .replicate 256 [], fileBad := [], tokens := ⟨0, 0, 0, 0⟩,
             berths := k.berths.map (fun x => { x with s := .replicate 64 [] }) })
  (s.lendCores c).foldl (fun s o => s.updCore o (fun k => { k with file := .replicate 256 [], fileBad := [] })) s

/-- Started gangs of which every strand has ended complete; over several modules the master tells that it has (12 R226; log 85). -/
def endGangs (s : State) : State :=
  (List.range s.launches.length).foldl (fun s i =>
    match s.launch i with
    | some l =>
      if l.state = .started ∧ !l.isCopy ∧ l.gang ≠ .starting ∧ l.cores.all s.strandEnded ∧ (l.mmod → l.allOver) then
        s.setLaunch i { l with state := .completing, gang := .ended, ended := s.cyc }
      else s
    | none => s) s

/-- Typical ticks from the end of the last strand to the write of word 0 (19 R298). -/
def completionTicks : Nat := 300

def execCompletionWrite (i : Nat) (s : State) : Out :=
  match s.launch i with
  | some l => .next (if l.state = .completing then endLaunch i 1 0 0 s else s)
  | none => .next s

/-! ## The lock (07 R110, 12 R228) -/

/-- A berth stands at the lock or needs not to. -/
def Berth.arrived (x : Berth) : Bool := !x.started || x.exited || x.lockArrived

/-- The conditions under which a die counts a strand (12 R228 step 1). -/
def State.strandArrived (s : State) (c : CoreId) : Bool :=
  let k := s.core c
  k.berths.toList.all Berth.arrived && k.acc.all (fun a => decide (a.kinds &&& 3 = 0) && !a.arr)

/-- Towpath ticks of a lock message (12 R228). -/
def State.lockTicks (s : State) (a b : DieId) : Nat := 40 * s.route a b

/-- A message of the lock, at once where it crosses no hop. -/
def State.lockSend (s : State) (n : Nat) (e : Ev) : State := if n = 0 then s.push [e] else s.later n e

/-- A die counts a strand, and reports once all its strands are counted, and whether they have ended. -/
def execLockArrivalCount (c : CoreId) (s : State) : Out :=
  match s.gangOf c with
  | none => .next s
  | some (i, l) =>
    if l.state = .started ∧ l.gang = .running ∧ !l.counted.contains c ∧ l.cores.contains c ∧ s.strandArrived c
        ∧ !(s.core c).stopped ∧ !(s.core c).stopping then
      let d := dieOf c
      let l := { l with counted := l.counted ++ [c] }
      let q := s.quad (quadOf c)
      let s := (s.setLaunch i l).setQuad (quadOf c) { q with countedAt := s.cyc }
      if s.hasMaster l && (l.cores.filter (fun x => decide (dieOf x = d))).all l.counted.contains then
        let gone := (l.cores.filter (fun x => decide (dieOf x = d))).all s.strandEnded
        .next (s.lockSend (s.lockTicks d l.master) (.lockReportReceived i (s.modid, gone) d))
      else .next s
    else .next s

/-- Every die of the gang has reported: those of this module, and those of each other member. -/
def State.allReported (s : State) (l : Launch) : Bool :=
  l.dies.all (fun d => l.reports.contains (s.modid, d)) && l.expects.all l.reports.contains

/-- Every strand of the gang has ended, on this module and on each other member (12 R226). -/
def State.allGone (s : State) (l : Launch) : Bool :=
  l.mmod && l.dies.all (fun d => l.gone.contains (s.modid, d)) && l.expects.all l.gone.contains

/-- The master's word goes to every die of the gang: Trel, or that every strand has ended (log 85). -/
def masterWord (i : Nat) (l : Launch) (t : Option W64) (s : State) : State :=
  l.dies.foldl (fun s x => s.lockSend (s.lockTicks l.master x) (.trelReceived i x t)) s

/-- The master die sets Trel and broadcasts it. -/
def setTrel (i : Nat) (l : Launch) (s : State) : State :=
  let t := s.cyc + BitVec.ofNat 64 (s.lrd l)
  masterWord i l (some t) (s.setLaunch i { l with gang := .releasing, trel := t })

/-- A gang that has started and not ended: it runs, or it is saved and keeps the counts, the reports and the broadcast of its
lock (12 R226, R230). -/
def Launch.alive (l : Launch) : Bool :=
  decide (l.state = .started ∨ l.state = .held ∨ l.state = .saved ∨ l.state = .resuming)

/-- The master die has a report; the last sets Trel, but not while a strand is saved. Where every strand has ended, the gang has
instead. -/
def execLockReportReceived (i : Nat) (m : BitVec 6 × Bool) (d : DieId) (s : State) : Out :=
  match s.launch i with
  | none => .next s
  | some l =>
    if l.alive ∧ l.gang = .running ∧ s.hasMaster l ∧ !l.reports.contains (m.1, d) then
      let l := { l with reports := l.reports ++ [(m.1, d)],
                        gone := if m.2 ∧ !l.gone.contains (m.1, d) then l.gone ++ [(m.1, d)] else l.gone,
                        firstReport := if l.firstReport.isNone then some s.cyc else l.firstReport }
      if s.allGone l then .next (masterWord i l none (s.setLaunch i l))
      else if l.state = .started ∧ s.allReported l then .next (setTrel i l s) else .next (s.setLaunch i l)
    else .next s

/-- A die has the broadcast: Trel, or that the gang has ended. -/
def execTrelReceived (i : Nat) (d : DieId) (trel : Option W64) (s : State) : Out :=
  match s.launch i, trel with
  | none, _ => .next s
  | some l, none => .next (if l.alive ∧ l.mmod ∧ l.dies.contains d then s.setLaunch i { l with allOver := true } else s)
  | some l, some trel =>
    if l.alive ∧ (l.gang = .running ∨ l.gang = .releasing) ∧ l.dies.contains d ∧ !l.trelAt.contains d then
      .next (s.setLaunch i { l with gang := .releasing, trel := trel, trelAt := l.trelAt ++ [d] })
    else .next s

/-! ## Tokens at a release (07 R113, 12 R233) -/

/-- The running gang of a stage in a partition. -/
def State.stageGang (s : State) (p : PartId) (st : BitVec 6) : Option Launch :=
  s.launches.find? (fun l => decide (l.part = p ∧ l.stage = some st ∧ l.state = .started ∧ l.gang ≠ .starting))

/-- A passed token goes to the gang of its stage, or stays in the table for one. -/
def passToken (p : PartId) (t : Tok) (s : State) : State × List Tok :=
  match s.stageGang p t.stage with
  | none => (s, [{ t with passed := true, owed := [] }])
  | some l =>
    let (s, owed) := deliverTo t l.cores s
    (s, if owed.isEmpty then [] else [{ t with passed := true, owed := owed }])

/-- Tokens that satisfy a test are delivered, in the table's order. -/
def passTokens (p : PartId) (f : Tok → Bool) (s : State) : State :=
  let old := (s.part p).tokens
  let (s, new) := old.foldl (fun (a : State × List Tok) t =>
    if f t then
      let (s, l) := passToken p t a.1
      (s, a.2 ++ l)
    else (a.1, a.2 ++ [t])) (s, [])
  s.setPart p { s.part p with tokens := new }

/-! ## Slack (15 R281, R282) -/

/-- The slack of a quad's strands at a release moves the counters, which stay at 4 while DWELL holds the level, and the level; the
release that brings DWELL to 0 may change it, and only a change of SLK sets DWELL and clears the counters
(15_power_budgets, "Worked example: slack on one quad"). -/
def Quad.slack (q : Quad) (trel : W64) (lrd : Nat) : Quad :=
  let x := (trel - q.countedAt).toNat - lrd
  let early := decide (q.slkMin.toNat ≤ x)
  let tight := decide (4 * x < q.slkMin.toNat)
  let more := fun (n : W16) => if n.toNat < 4 then n + 1 else 4
  let e : W16 := if early then more q.ecnt else if tight then 0 else q.ecnt
  let t : W16 := if early then 0 else if tight then more q.lcnt else q.lcnt
  let dwell := if q.dwell = 0 then 0 else q.dwell - 1
  if dwell ≠ 0 then { q with ecnt := e, lcnt := t, dwell := dwell }
  else if e = 4 ∧ q.slk ≠ 0 then { q with slk := q.slk - 1, dwell := 8, ecnt := 0, lcnt := 0 }
  else if t = 4 ∧ q.slk ≠ 15 then { q with slk := q.slk + 1, dwell := 8, ecnt := 0, lcnt := 0 }
  else { q with ecnt := e, lcnt := t, dwell := 0 }

/-- Counters and level at a placement. -/
def Quad.slackReset (q : Quad) : Quad := { q with slk := 15, ecnt := 0, lcnt := 0, dwell := 0 }

/-! ## Pre-emption (12 R230, 20 R313, R314) -/

/-- A strand of the gang has arrived at its lock. A strand that has ended, which counts as arrived, defers no pre-emption by that alone
(12 R230 against R228: DESIGN CHOICE, log 80). -/
def State.inLock (s : State) (l : Launch) : Bool :=
  decide (l.gang = .releasing) || l.cores.any (fun c => (s.core c).berths.toList.any (fun b => b.started && !b.exited)
    && (s.core c).berths.toList.all Berth.arrived)

/-- Every core of the gang stops at its next cycle. -/
def stopGang (l : Launch) (s : State) : State := l.cores.foldl (fun s c => s.updCore c Core.preempted) s

/-- A pre-emption is asked for: it is taken at once, or at the release while the gang is in a lock and the reason lets
it wait. A gang that awaits its starting lock is saved too (12 R226). -/
def execPreemptionRequest (i : Nat) (s : State) : Out :=
  match s.launch i with
  | none => .next s
  | some l =>
    match l.pre with
    | none => .next s
    | some w =>
      if l.state ≠ .started then .next s
      else if (w = .priority ∨ w = .drain) ∧ s.inLock l then .next s
      else .next (stopGang l s)

/-! ## The release (07 R110) -/

/-- A berth at the lock goes on; one whose handler runs, or whose LOCK is its next word again, finds the lock released when it
executes that LOCK. One that has passed its LOCK by does not. -/
def Berth.unlock (x : Berth) : Berth :=
  if x.wait = .lock then { x.complete with lockArrived := false }
  else if x.lockArrived then
    { x with lockArrived := false, lockPassed := x.handlers != [] || x.pc == x.lockAt || x.again || x.entering.isSome }
  else x

/-- A strand at the release: PHS, and its berths. -/
def Core.unlock (k : Core) (trel : W64) : Core := { k with phs := trel, berths := k.berths.map Berth.unlock }

/-- A deferred pre-emption on the dies that release now: the copy commands held at the lock start, as far as R176 lets each core
accept them, and the cores stop before any berth issues (07 R110 step 4, 12 R230). -/
def takeDeferred (l : Launch) (ds : List DieId) (s : State) : State :=
  let cs := l.cores.filter (fun c => ds.contains (dieOf c))
  (cs.foldl (fun s c => s.updCore c Core.preempted) s).push (cs.flatMap (fun c => List.replicate 8 (.copyAccept c 0)))

/-- The release of the strands on some dies: PHS and the berths of their cores, and the slack of their quads. -/
def releaseDies (l : Launch) (ds : List DieId) (s : State) : State :=
  let s := (l.cores.filter (fun c => ds.contains (dieOf c))).foldl (fun s c => s.updCore c (fun k => k.unlock l.trel)) s
  (l.quads.filter (fun q => ds.contains (dieOfQuad q))).foldl (fun s q => s.setQuad q ((s.quad q).slack l.trel (s.lrd l))) s

/-- On tick Trel, and on a die that gets the broadcast later when it does: tokens are delivered with the first, PHS is set, the
phase kind changes, copies may start, and the berths are ready; there a deferred pre-emption is taken. No release happens while a
strand that awaits it is stopped to be saved (07 R110, 12 R228, R230). -/
def execLockRelease (i : Nat) (s : State) : Out :=
  match s.launch i with
  | none => .next s
  | some l =>
    let ds := l.trelAt.filter (fun d => !l.released.contains d)
    if l.state = .started ∧ l.gang = .releasing ∧ cycGe s.cyc l.trel ∧ ds ≠ []
        ∧ (l.cores.filter (fun c => !l.released.contains (dieOf c))).all (fun c => !(s.core c).stopped && !(s.core c).stopping) then
      let s := if l.released = [] then passTokens l.part (fun t => decide (t.launch = i) && !t.passed) s else s
      let s := releaseDies l ds s
      let s := if l.pre.isSome then takeDeferred l ds s else s
      if l.dies.all l.trelAt.contains then
        let s := s.setLaunch i { l with gang := .running, comm := !l.comm, phs := l.trel, counted := [], reports := [],
                                        firstReport := none, trelAt := [], released := [] }
        .next (applyAdd l.part s)
      else .next (s.setLaunch i { l with phs := l.trel, released := l.released ++ ds })
    else .next s

/-! ## Named barriers (12 R229) -/

/-- The phase of a barrier changes in a core; the arrival marks of that phase go (07 R104, 20 R307). -/
def Core.flipBar (n : Fin 96) (k : Core) : Core :=
  let (e, a, ph) := k.bars.get n
  { k with bars := k.bars.set n.val (e, a, !ph) n.isLt, berths := k.berths.map (Berth.unmark n) }

/-- A release message of a barrier of a gang is on its way. -/
def State.barPending (s : State) (i : Nat) : Bool :=
  s.inputs.any (fun e => match e.2 with | .barrierReleaseMessage j _ _ => decide (j = i) | _ => false)

/-- The first message of a release that this module did not count to its end, some of the arrivals having been made on other
modules: the barrier's phase changes and ARR returns to 0 (07 R111, 12 R229; log 60). -/
def farRelease (i : Nat) (l : Launch) (d : DieId) (n : Fin 96) (s : State) : State :=
  let (e, _, ph) := l.bars.get n
  if l.mmod ∧ (l.cores.filter (fun c => decide (dieOf c = d))).all (fun c => (s.core c).barPh n = ph) then
    let l := { l with bars := l.bars.set n.val (e, 0, !ph) n.isLt }
    (mirrorBar l n s).setLaunch i l
  else s

/-- The release message of a barrier reaches a die. -/
def execBarrierReleaseMessage (i : Nat) (d : DieId) (n : Fin 96) (s : State) : Out :=
  match s.launch i with
  | none => .next s
  | some l =>
    .next ((l.cores.filter (fun c => decide (dieOf c = d))).foldl (fun s c => s.updCore c (Core.flipBar n)) (farRelease i l d n s))

/-! ## The starting lock (12 R225, R226) -/

/-- A strand at the release of its starting lock; DRPST.CNT counts from here (02 R25). -/
def Core.begin (k : Core) (trel : W64) : Core :=
  { k with lcy := 0, phs := trel, beat := trel, drpCnt := 0, stopping := false, stopped := false, frozen := false, restart := false,
           running := false, cur := 3, skip := 0 }

/-- Tokens that waited for a gang of its stage. -/
def stageTokens (l : Launch) (s : State) : State :=
  match l.stage with
  | some st => passTokens l.part (fun t => t.passed && t.owed.isEmpty && decide (t.stage = st)) s
  | none => s

/-- The starting lock releases; a gang that is being saved waits for its resume. -/
def execStartingLockRelease (i : Nat) (s : State) : Out :=
  match s.launch i with
  | none => .next s
  | some l =>
    if (l.state = .started ∨ l.state = .prepared) ∧ l.gang = .starting ∧ l.pre = none ∧ cycGe s.cyc l.trel then
      let s := l.cores.foldl (fun s c => s.updCore c (fun k => k.begin l.trel)) s
      let s := s.setLaunch i { l with state := .started, gang := .running, comm := false, phs := l.trel, start := l.trel,
                                      resumed := l.trel, counted := [], reports := [], trelAt := [], released := [] }
      .next ((stageTokens l s).push [.placement l.part])
    else .next s

/-! ## Saving (20 R308, R314, R317, 21 R330, R334) -/

/-- The first core of a gang with a SNAP whose parts have finished. -/
def State.snapCore (s : State) (l : Launch) : Option (CoreId × W64) :=
  l.cores.findSome? (fun c => match (s.core c).snap with
    | some va => if s.quiet c then some (c, va) else none
    | none => none)

/-- A line of LM with an error that an image of a strand would take (20 R312). -/
def imageErr (s : State) (c : CoreId) : Option Nat := (s.lmBads c).head?.map (fun g => g / 128 * 128)

/-- A pre-emption that a lock does not defer stands for the gang (12 R230, 20 R313). -/
def State.stopsNow (s : State) (l : Launch) : Bool :=
  match l.pre with
  | some w => !(decide (w = .priority ∨ w = .drain) && s.inLock l)
  | none => false

/-- A SNAP's image is written and its strand resumes, to stop once more where a request for the gang that no lock defers came
meanwhile; a faulting write ends the launch (20 R313; log 24). -/
def snapWrite (i : Nat) (l : Launch) (c : CoreId) (va : W64) (s : State) : State :=
  let room : Acc? (List (Nat × Nat)) := match imageErr s c with
    | some l => .error (.uceLm l)
    | none => vaSlot s c va true
  match room with
  | .error f => endLaunch i 2 f.code f.det (launchFault l f.code f.det va s)
  | .ok g =>
    let s := resumeCore c (saveAt c l g s)
    if s.stopsNow l then s.updCore c Core.preempted else s

/-- All strands of a gang into their slots. -/
def saveAll (l : Launch) (s : State) : Acc? State :=
  l.cores.foldl (fun (a : Acc? State) c => match a with
    | .ok s => match imageErr s c with
      | some l => .error (.uceLm l)
      | none => saveStrand c l s
    | .error f => .error f) (.ok s)

/-- The record of an escalated trap (20 R308, R310). -/
def unhandledRecord (l : Launch) (s : State) : State :=
  let c := l.cores.getD ((l.det.toNat / 65536) - l.rank0) 0
  let b := ((List.finRange 4).find? (fun b => (s.berth c b).again)).getD 0
  postFault l.blk (launchRec l 0x85 7 (s.core c).vcore b.val l.det (s.berth c b).pc) s

/-- A launch is discarded: it ends faulted with the code that it has, or with DISCARDED and its record (19 R299, 20 R311). -/
def discard (i : Nat) (l : Launch) (s : State) : State :=
  if l.fcode = 0 then endLaunch i 2 0x84 l.det (launchFault l 0x84 l.det 0 s) else endLaunch i 2 l.fcode l.det s

/-- What becomes of a gang that is saved; its context leaves the dies on which no other strand of it runs (13 R251). -/
def saved (i : Nat) (l : Launch) (w : PreWhy) (s : State) : State :=
  let stay := fun (st : LState) (s : State) => dropContext l (s.setLaunch i { l with state := st, pre := none, turn := false })
  match w with
  | .priority => grow l.part ((stay .held (vacateAll i l s)).push [.turnGrant l.part, .placement l.part])
  | .drain => discard i l s
  | .escalated => complete l 2 l.fcode true l.det (unhandledRecord l (stay .saved s))
  | .watchdog | .fault => complete l 2 l.fcode true l.det (stay .saved s)

/-- Once every part of the cores has finished, the images are written. -/
def execImageWritten (i : Nat) (s : State) : Out :=
  match s.launch i with
  | none => .next s
  | some l =>
    match s.snapCore l with
    | some (c, va) => .next (snapWrite i l c va s)
    | none =>
      match l.pre with
      | none => .next s
      | some w =>
        if l.state = .started ∧ l.cores.all s.quiet ∧ !s.barPending i then
          match saveAll l s with
          | .error f => .next (endLaunch i 2 f.code f.det (launchFault l f.code f.det f.addr s))
          | .ok s => .next (saved i l w s)
        else .next s

/-! ## Resuming (12 R230, 19 R299 to R303, 20 R318, R319) -/

/-- A core's part in a gang. -/
structure Seat where
  core : CoreId
  rank : Nat
  vcore : Byte
  lend : BitVec 3
  lenders : Vector CoreId 3
  deriving DecidableEq, Repr

/-- Quad-local place of a core (12 R235). -/
def quadX (c : CoreId) : Nat := c.val % 8 % 2
def quadY (c : CoreId) : Nat := c.val % 32 / 8 % 2

/-- The core at a quad-local place of a core's quad. -/
def inQuad (c : CoreId) (x y : Nat) : CoreId :=
  Fin.ofNat 128 (c.val - quadX c - 8 * quadY c + x + 8 * y)

/-- Active cores of a heat class (12 R235). -/
def activeIn (heat : Nat) (c : CoreId) : Bool :=
  match heat with
  | 0 => true
  | 1 => decide ((quadX c + quadY c) % 2 = 0)
  | _ =>
    let q := (quadOf c).val % 8
    if (q % 4 + q / 4) % 2 = 0 then decide (quadX c = 0 ∧ quadY c = 0) else decide (quadX c = 1 ∧ quadY c = 1)

/-- Lenders of an active core, in order. -/
def lendersIn (heat : Nat) (c : CoreId) : Vector CoreId 3 :=
  let a := inQuad c (1 - quadX c) (quadY c)
  match heat with
  | 0 => .replicate 3 0
  | 1 => #v[a, 0, 0]
  | _ => #v[a, inQuad c (quadX c) (1 - quadY c), inQuad c (1 - quadX c) (1 - quadY c)]

def lendMask (heat : Nat) : BitVec 3 := if heat = 0 then 0 else if heat = 1 then 1 else 7

/-- The seats of a launch's strands. -/
def Launch.seats (l : Launch) : List Seat :=
  l.cores.mapIdx (fun n c => { core := c, rank := l.rank0 + n, vcore := BitVec.ofNat 8 (l.vmap.findIdx (fun x => x == c)),
                               lend := lendMask l.heat, lenders := lendersIn l.heat c })

/-- A core takes its seat: it and its lenders belong to the gang. A halted core is released by a gang of PF0's queue block (20 R321;
log 86). -/
def sit (i : Nat) (l : Launch) (x : Seat) (s : State) : State :=
  let s := s.updCore x.core (fun k => { k with
    active := true, lender := false, launch := some i, halted := k.halted && !decide (l.blk = .pf0),
    rank := x.rank, vcore := x.vcore, heat := BitVec.ofNat 2 l.heat,
    lend := x.lend, lenders := x.lenders, priv := decide (l.blk = .pf0), stopped := true })
  (s.lendCores x.core).foldl (fun s c => s.updCore c (fun k => { k with lender := true, active := false, launch := none })) s

/-- Quads taken by launches other than one. -/
def State.takenQuads (s : State) (but : Nat) : List QuadId :=
  ((List.range s.launches.length).zip s.launches).flatMap (fun x => if x.1 ≠ but ∧ x.2.occupies then x.2.quads else [])

/-- A quad has its rails. -/
def State.awake (s : State) (q : QuadId) : Bool := decide ((s.quad q).power = .on)

/-- The strands of a gang from their slots, or what keeps one out. -/
def loadAll (l : Launch) (s : State) : Except (Byte × W64 × W64) State :=
  l.cores.foldl (fun (a : Except (Byte × W64 × W64) State) c => match a with
    | .ok s => loadStrand c l s
    | .error e => .error e) (.ok s)

/-- A resumed gang goes on where it stood: its starting lock releases at the Trel of the resume, or it stands at a lock of which the
last report came meanwhile (12 R226, R230). -/
def goOn (i : Nat) (l : Launch) (s : State) : State :=
  if l.gang = .starting then (s.setLaunch i { l with trel := l.resumed }).push [.startingLockRelease i]
  else
    let s := l.cores.foldl (fun s c => resumeCore c (s.updCore c (fun k => { k with beat := s.cyc }))) s
    stageTokens l (if l.gang = .running ∧ s.hasMaster l ∧ s.allReported l then setTrel i l s else s)

/-- A held gang with the turn, or a saved one that GCTL names, loads its images; on its release tick it resumes. -/
def execGangResume (i : Nat) (s : State) : Out :=
  match s.launch i with
  | none => .next s
  | some l =>
    if (l.state = .held ∨ l.state = .saved) ∧ l.turn then
      if l.state = .held ∧ l.quads.any (fun q => (s.takenQuads i).contains q || !s.awake q) then .next s
      else
        let s := l.seats.foldl (fun s x => sit i l x s) s
        let s := l.quads.foldl (fun s q => s.setQuad q (s.quad q).slackReset) s
        match loadAll l s with
        | .error e => .next (endLaunch i 2 e.1 e.2.1 (launchFault l e.1 e.2.1 e.2.2 s))
        | .ok s =>
          .next ((s.setLaunch i { l with state := .resuming, turn := false, resumed := s.cyc + BitVec.ofNat 64 (s.lrd l) }).push
            [.turnGrant l.part])
    else if l.state = .resuming ∧ cycGe s.cyc l.resumed then
      let l := { l with state := .started, fcode := 0, det := 0 }
      let s := goOn i l (s.setLaunch i l)
      .next (s.push ((if l.pre.isSome then [.preemptionRequest i] else []) ++ [.placement l.part]))
    else .next s

/-- The saved launch that a GCTL write names. -/
def State.gctl (s : State) (b : Block) (q : Fin 64) (seq : W16) : Option (Nat × Launch) :=
  ((List.range s.launches.length).zip s.launches).find? (fun x =>
    decide (x.2.blk = b ∧ x.2.queue = q ∧ x.2.seq = seq ∧ x.2.state = .saved))

def execGctlResume (b : Block) (q : Fin 64) (seq : W16) (s : State) : Out :=
  match s.gctl b q seq with
  | some (i, l) => .next ((s.setLaunch i { l with turn := true }).push [.gangResume i])
  | none => .next s

def execGctlDiscard (b : Block) (q : Fin 64) (seq : W16) (s : State) : Out :=
  match s.gctl b q seq with
  | some (i, l) => .next (discard i l s)
  | none => .next s

/-! ## Watchdog (19 R303) -/

/-- Ticks since a moment. -/
def since (s : State) (t : W64) : Nat := (s.cyc - t).toNat

/-- DET of a watchdog that fires. -/
def watchdogDet (s : State) (l : Launch) : Option W64 :=
  let n := l.limit * 1024
  if l.state ≠ .started ∨ l.isCopy ∨ l.gang = .starting ∨ l.gang = .ended ∨ l.limit = 0 then none
  else if l.pers then
    (((List.range l.cores.length).zip l.cores).find? (fun x =>
      !(s.strandEnded x.2) && decide (n ≤ since s (s.core x.2).beat))).map
      (fun x => BitVec.ofNat 64 ((l.rank0 + x.1) * 65536))
  else if n ≤ since s l.resumed then some 1 else none

/-- The gang is saved without deferral, and a record is posted. -/
def fire (i : Nat) (l : Launch) (det : W64) (s : State) : State :=
  let s := postFault l.blk (launchRec l 0x83 6 0xFF 0 det 0) s
  (s.setLaunch i { l with pre := some .watchdog, fcode := 0x83, det := det }).push [.preemptionRequest i]

/-- Every started launch is tested. -/
def execWatchdogTest (s : State) : Out :=
  .next ((List.range s.launches.length).foldl (fun s i =>
    match s.launch i with
    | some l =>
      if l.pre = some .watchdog ∨ l.pre = some .fault ∨ l.pre = some .escalated then s
      else match watchdogDet s l with
        | some d => fire i l d s
        | none => s
    | none => s) s)

/-! ## GANGABORT (19 R304) -/

/-- The objects of the destinations of a copy that has not been accepted are told, here or at the members (20 R309). -/
def tellQueued (c : CoreId) (q : QEntry) (e : Err) (s : State) : State :=
  let p := (s.coreCtx c).part
  (goodTargets (targetsOf s c q noRecord 0 0)).foldl (fun s t =>
    match t.obj, t.place with
    | some (k, bo), _ => sendCount k bo none (some e) s
    | none, .member g rank =>
      match s.endOf c t.place, t.far with
      | .far .., some _ =>
        let (num, s) := reserveNums p g rank 1 s
        tellRuns p g rank num t.far e [(0, 0)] s
      | _, _ => s
    | none, _ => s) s

/-- Objects that await bytes of a stopped strand's commands are told: of accepted copies, and of copies, array and
special-function commands that stand in its queues (20 R309). -/
def tellObjects (c : CoreId) (s : State) : State :=
  let e : Err := ⟨0x09, 0⟩
  let k := s.core c
  let s := k.copies.toList.foldl (fun s y => match y with
    | some y =>
      let s := sendCount c (issuerObj y.q) (some y.left) (some e) s
      let now := y.current.map (fun x => x.1)
      ((List.range y.targets.length).zip y.targets).foldl (fun s (x : Nat × Target) =>
        if x.2.failed ∨ x.2.left = 0 then s
        else if now = some x.1 then endTarget c y (y.sentTarget x.2) y.nextUnit e s
        else endTarget c y x.2 0 e s) s
    | none => s) s
  let s := k.arrQ.foldl (fun s q => sendCount c (entryObj q) (some (arrayCount q)) (some e) s) s
  let s := k.cpyQ.foldl (fun s q => if (copyTids q).isEmpty then s else tellQueued c q e s) s
  (k.cpyQ ++ k.sfQ).foldl (fun s q => sendCount c (issuerObj q) none (some e) s) s

/-- Every strand stops at once without being saved; the launch completes aborted. -/
def abortGang (i : Nat) (l : Launch) (s : State) : State :=
  let s := postFault l.blk (launchRec l 0x09 8 0xFF 0 0 0) s
  let s := l.cores.foldl (fun s c => tellObjects c s) s
  endLaunch i 3 0x09 0 s

/-- GBT elapses between the first and the last member report; a member's save stalls the lock (19 R304). -/
def execGangBarrierTimeout (i : Nat) (s : State) : Out :=
  match s.launch i with
  | none => .next s
  | some l =>
    match l.firstReport with
    | some t => if l.mmod ∧ l.alive ∧ l.gang = .running ∧ l.gbt ≤ since s t then .next (abortGang i l s) else .next s
    | none => .next s

end Sys2Proof.Machine
end

