-- ==== Sys2Proof/Machine/Power.lean ====
section
/-! DEFINITION. Power: the estimator, ceilings, sluices, VEC steps, gating and waking of quads, and the thermal trip
(spec 15 R272 to R284, 27 R382). -/

namespace Sys2Proof.Machine

open Sys2Proof

/-! ## The estimator (15 R274, R275) -/

/-- A sum of weighted counts in mW. -/
def weighed (counts : Fin 48 → Nat) (weight : Fin 48 → W16) : W32 :=
  BitVec.ofNat 32 (min (((List.finRange 48).map (fun i => counts i * (weight i).toNat)).sum / 1024) 0xFFFFFFFF)

/-- Counts of activity events in a window: the spec names no event, so they are free values (log 25). -/
def activity (n : Nat) (i : Fin 48) : Nat := (Config.free (n + i.val)).toNat

/-- What a window's estimate does to the quad. -/
def Quad.estimate (x : Quad) (counts : Fin 48 → Nat) (rec_ : List Byte) : Quad :=
  let sig := weighed counts (Config.qsigWeight rec_)
  let top := (Config.qceil rec_).toNat
  let x := { x with qest := weighed counts (fun i => x.qpew.get i), qsig := sig, cycles := 0 }
  if top < sig.toNat then { x with fall := true, low := 0 }
  else if 8 * sig.toNat < 7 * top then
    (if x.low = 7 then { x with rise := true, low := 0 } else { x with low := x.low + 1 })
  else { x with low := 0 }

/-- The module estimate (15 R274). -/
def State.estimate (s : State) : Nat :=
  (s.quads.toList.map (fun q => q.qsig.toNat)).sum + (Config.fixedTerms s.ceilings).toNat

/-- The signed module ceiling in mW: that of the record in force, within the bound of 2,600 W (15 R272, 27 R380; log 4). -/
def State.moduleCeil (s : State) : Nat := min 2600000 (Config.moduleCeil s.ceilings)

/-- A cause that lowers VEC holds (15 R272). -/
def State.tooHot (s : State) : Bool := s.thermal || decide (s.moduleCeil < s.estimate)

/-- 128 core cycles end. -/
def execEstimatorWindow (q : QuadId) (s : State) : Out :=
  let s := { s.setQuad q ((s.quad q).estimate (activity s.free) s.ceilings) with free := s.free + 48 }
  .next (if s.moduleCeil < s.estimate then s.push [.vecStepChange false] else s)

/-! ## Interval boundaries (15 R275 to R280, 27 R380) -/

/-- Level of 15 steps, one down or up. -/
def levelDown (l : BitVec 4) : BitVec 4 := if l = 0 then 0 else l - 1
def levelUp (l : BitVec 4) : BitVec 4 := if l = 15 then 15 else l + 1

def least (a b : BitVec 4) : BitVec 4 := if a.toNat ≤ b.toNat then a else b

/-- A quad at a boundary: level changes apply, and the sluices grant anew. -/
def Quad.boundary (x : Quad) : Quad :=
  let c := if x.fall then levelDown x.ceil else x.ceil
  let c := if x.rise then levelUp c else c
  let e := least x.fwcap (least c x.slk)
  { x with ceil := c, fall := false, rise := false, eff := e, sluice := #v[sluiceGrant e 0, sluiceGrant e 1, sluiceGrant e 2] }

/-- Ingress budgets of a die, in units of 128 bytes. -/
def ingressGrant (s : State) (x : Die) : Die := { x with ingress := s.parts.map (fun p => p.ingb.toNat) }

/-- A record of kind 3 that takes effect loads its initial THR (02 R25, 27 R380). -/
def Quad.loadRails (x : Quad) (old new : List Byte) : Quad := if new = old then x else { x with thr := Config.thrInit new }

/-- Lines beyond the shares in force leave the dies' RDCs (13 R245, 21 R329). -/
def trimRdc (s : State) : State :=
  (List.finRange 32).foldl (fun s p =>
    (List.finRange 4).foldl (fun s d => evictExcess p d (s.rdcLines p d).length s) s) s

/-- The grants of a new interval, and the records and shares that take effect with it. -/
def intervalGrants (s : State) : State :=
  { s with quads := s.quads.map (fun x => (x.loadRails s.rails (s.installed 3)).boundary), dies := s.dies.map (ingressGrant s),
           ceilings := s.installed 1, rails := s.installed 3, parts := s.parts.map (fun p => { p with share := p.rdcs }) }

/-- A multiple of 1,024 ticks. -/
def execIntervalBoundary (s : State) : Out := .next (trimRdc (intervalGrants s))

/-! ## VEC and its ceilings (15 R272, R273, 27 R382) -/

/-- Junction sensors of a die reach 100 °C. -/
def execThermalCeiling (_ : Fin 13) (s : State) : Out := .next ({ s with thermal := true }.push [.vecStepChange false])

/-- Ticks for which a step stops the core clocks. -/
def stepTicks : Nat := 1600

/-- Core clock range in steps of 100 MHz: the signed range, within 0.8 to 2.2 GHz (02 R20). -/
def State.vecLow (s : State) : Nat := min 22 (max 8 (Config.vecLow s.rails))
def State.vecHigh (s : State) : Nat := min 22 (max 8 (Config.vecHigh s.rails))

/-- One step of VEC; one raised while a cause holds is undone at once. The core clock starts again on a tick's edge (DESIGN
CHOICE, log 3). -/
def execVecStepChange (up : Bool) (s : State) : Out :=
  if (if up then s.vecHigh ≤ s.freq else s.freq ≤ s.vecLow) then .next s
  else
    let s := { s with freq := if up then s.freq + 1 else s.freq - 1, clockStop := true, frac := 0,
                      stopEnd := s.cyc + BitVec.ofNat 64 stepTicks }
    let s := s.later stepTicks .clockStopEnd
    .next (if up && s.tooHot then s.push [.vecStepChange false] else s)

def execClockStopEnd (s : State) : Out := .next (if cycGe s.cyc s.stopEnd then { s with clockStop := false } else s)

/-- The trip removes every logic rail but those of the security block and flash: a mailbox command that runs goes on. It is latched in
flash and counted (27 R382). -/
def execThermalTrip (_ : Fin 13) (s : State) : Out :=
  .next { s with powered := false, pcieUp := false, todo := s.todo.filter (fun e => decide (e = .mailboxDone)),
                 flash := { s.flash with trip := true, trips := s.flash.trips + 1 } }

/-! ## Gating and waking (15 R283, R284) -/

/-- Ticks of the break-even hold, and typical ticks until rails are stable. -/
def holdTicks : Nat := 3200
def railTicks : Nat := 4800

/-- No gang is resident on a quad, and none of its state is lent. -/
def State.quadEmpty (s : State) (q : QuadId) : Bool :=
  !(s.takenQuads s.launches.length).contains q
  && (quadCores q).all (fun c => (s.core c).launch.isNone && !(s.core c).active && !(s.core c).lender)

def execQuadPowerGate (q : QuadId) (s : State) : Out :=
  let x := s.quad q
  .next (if s.quadEmpty q ∧ x.power = .on then s.setQuad q { x with power := .gated s.cyc false } else s)

/-- A quad waits in its die's arbiter. -/
def enterArbiter (q : QuadId) (s : State) : State :=
  let d := dieOfQuad q
  let s := s.setQuad q { s.quad q with power := .waiting }
  (s.setDie d { s.die d with rush := (s.die d).rush ++ [q] }).push [.inrushAdmit d]

/-- A request during the hold waits until it ends. -/
def execWakeRequest (q : QuadId) (s : State) : Out :=
  let x := s.quad q
  match x.power with
  | .gated t _ =>
    if holdTicks ≤ since s t then .next (enterArbiter q s)
    else .next ((s.setQuad q { x with power := .gated t true }).later (holdTicks - since s t) (.wakeHoldExpiry q))
  | _ => .next s

def execWakeHoldExpiry (q : QuadId) (s : State) : Out :=
  match (s.quad q).power with
  | .gated t true => .next (if holdTicks ≤ since s t then enterArbiter q s else s)
  | _ => .next s

/-- At most two quads of a die wake at a time, in request order. -/
def execInrushAdmit (d : DieId) (s : State) : Out :=
  let x := s.die d
  match x.rush with
  | [] => .next s
  | q :: r =>
    if x.admitted.length < 2 then
      let s := s.setDie d { x with rush := r, admitted := x.admitted ++ [q] }
      .next ((s.setQuad q { s.quad q with power := .ramping }).later railTicks (.railsStable q))
    else .next s

/-- Partitions with a launch that waits for its quads to wake. -/
def State.placingOn (s : State) (q : QuadId) : List PartId :=
  (s.launches.filterMap (fun l => if (l.state = .placing ∨ l.state = .held) ∧ l.quads.contains q then some l.part else none)).eraseDups

/-- A quad is awake; the arbiter admits the next. -/
def execRailsStable (q : QuadId) (s : State) : Out :=
  let d := dieOfQuad q
  let x := s.quad q
  if x.power = .ramping then
    let s := s.setQuad q { x with power := .on }
    let s := s.setDie d { s.die d with admitted := (s.die d).admitted.erase q }
    .next (s.push (.inrushAdmit d :: (s.placingOn q).map Ev.placement))
  else .next s

end Sys2Proof.Machine
end

