-- ==== Sys2Proof/Machine/Launch.lean ====
section
/-! DEFINITION. Launch queues, records, the turn, placement, loading, copy launches and the two-phase start of gangs
that span modules (spec 19 R291 to R304, 12 R224, R225, 20 R320). -/

namespace Sys2Proof.Machine

open Sys2Proof

/-! ## Queues (19 R291 to R294) -/

/-- Partition that a queue's launches belong to. -/
def State.queuePart (s : State) (b : Block) (q : Fin 64) : PartId :=
  match b with
  | .part p => p
  | .pf0 => (s.pf0.queues.get q).part.toFin

/-- A block has this queue: PF0's has 16. -/
def hasQueue (b : Block) (q : Fin 64) : Bool :=
  match b with
  | .part _ => true
  | .pf0 => decide (q.val < 16)

/-- The block answers writes: its partition is enabled and not in an FLR. -/
def State.blockOpen (s : State) : Block → Bool
  | .part p => (s.part p).en && !(s.part p).flr
  | .pf0 => true

def State.queue (s : State) (b : Block) (q : Fin 64) : Queue := (s.block b).queues.get q
def State.setQueue (s : State) (b : Block) (q : Fin 64) (x : Queue) : State :=
  s.setBlock b { s.block b with queues := (s.block b).queues.set q.val x q.isLt }

/-- Typical ticks of a slot read (19 R301). -/
def slotTicks : Nat := 460

/-- The next slot is read, unless its read is under way. -/
def readLater (b : Block) (q : Fin 64) (s : State) : State :=
  if s.inputs.any (fun e => decide (e.2 = .slotRead b q)) then s else s.later slotTicks (.slotRead b q)

/-- More slots than the queue has. -/
def Queue.overfull (x : Queue) : Bool := decide (12 < x.logn.toNat) || decide (2 ^ x.logn.toNat < (x.tail - x.head).toNat)

/-- The host writes QTAIL. -/
def execQtailWrite (b : Block) (q : Fin 64) (v : W16) (s : State) : Out :=
  if !hasQueue b q || !s.blockOpen b then .next s
  else
    let x := s.queue b q
    if !x.en then .next (retest (s.queuePart b q) (s.setQueue b q { x with tail := v, head := v }))
    else
      let y := { x with tail := v }
      let s := s.setQueue b q y
      let s := if y.overfull then stopQueue b q x.head 0x86 0 s
        else if x.head = x.tail then readLater b q s else s
      .next (retest (s.queuePart b q) s)

/-! ## Launch records (19 R295, R296) -/

/-- A record of 128 bytes. -/
def launchRecord (bs : List Byte) : Vector W64 16 :=
  ⟨((List.range 16).map (fun i => BitVec.ofNat 64 (ofBytes ((bs.drop (8 * i)).take 8)))).toArray, by simp⟩

/-- Strands that a quad holds in a class (12 R235). -/
def perQuad (heat : Nat) : Nat := if heat = 0 then 4 else if heat = 1 then 2 else 1

def countBits (n : Nat) (w : BitVec n) : Nat := ((List.range n).filter (fun i => bit w i)).length

/-- Defects of schedule entry k, each with the offset of its field. -/
def scheduleDefects (r : Vector W64 16) (k : Nat) : List (Nat × Bool) :=
  let w := r.get (Fin.ofNat 16 (8 + k))
  let n := fld (r.get 1) 53 50
  let o := 64 + 8 * k
  let code := 16 * fld (r.get 1) 23 0
  if k < n then
    [(o, decide (0 < k) && decide (fld w 15 0 ≤ fld (r.get (Fin.ofNat 16 (7 + k))) 15 0)),
     (o + 2, decide (fld w 39 16 % 16 ≠ 0) || decide (code ≤ fld w 39 16)), (o + 5, decide (fld w 63 40 ≠ 0))]
  else [(o, decide (fld w 15 0 ≠ 0)), (o + 2, decide (fld w 39 16 ≠ 0)), (o + 5, decide (fld w 63 40 ≠ 0))]

/-- Defects of a record, in order of offset; a rule over two fields names the one that it speaks of (log 26). -/
def recordDefects (r : Vector W64 16) (quads : Nat) : List (Nat × Bool) :=
  let w1 := r.get 1
  let heat := fld w1 25 24
  let size := fld w1 23 0
  [(0, decide ((r.get 0).toNat % 4096 ≠ 0)), (8, decide (size = 0 ∨ 1048576 < size)),
   (11, decide (heat = 3) || (bit w1 28 && decide (fld (r.get 5) 31 0 = 0))
      || (bit w1 31 && (bit w1 28 || bit w1 54 || bit (r.get 7) 4))),
   (12, decide (fld w1 44 32 = 0) || decide (perQuad heat * quads < fld w1 44 32)),
   (13, decide (fld w1 47 45 ≠ 0)), (14, decide (8 < fld w1 53 50) || bit w1 55), (15, decide (fld w1 63 62 ≠ 0)),
   (16, decide ((r.get 2).toNat % 64 ≠ 0)), (24, decide ((r.get 3).toNat % 4096 ≠ 0)),
   (32, decide ((r.get 4).toNat % 64 ≠ 0)), (46, decide (1024 < fld (r.get 5) 63 48)),
   (48, decide ((r.get 6).toNat % 64 ≠ 0)),
   (56, decide (8 < fld (r.get 7) 3 0) || (decide (fld (r.get 7) 3 0 ≠ 0) && decide (r.get 6 = 0))
      || decide (fld (r.get 7) 7 5 ≠ 0)),
   (57, decide (fld (r.get 7) 15 14 ≠ 0))]
  ++ (List.range 8).flatMap (scheduleDefects r)

/-! ## The data table (19 R295) -/

/-- `.data` areas from an address of the table on, or none where an entry breaks R296; `room` is what is left of
16 MiB. -/
def readTable (x : Ctx) (s : State) : Nat → W64 → Nat → Acc? (Option (List (Nat × List Byte)))
  | 0, _, _ => .ok none
  | fuel + 1, va, room => do
    if room < 16 then .ok none
    else
      let (e, _) ← s.readVa x va 16
      let w := BitVec.ofNat 128 (ofBytes e)
      let addr := fld w 23 0
      let len := fld w 55 32
      let padded := (len + 15) / 16 * 16
      if fld w 31 24 ≠ 0 ∨ fld w 127 56 ≠ 0 then .ok none
      else if len = 0 then .ok (some [])
      else if addr < 0x20000 ∨ 0x400000 < addr + len ∨ room < 16 + padded then .ok none
      else
        let (bs, _) ← s.readVa x (va + 16) len
        let rest ← readTable x s fuel (va + BitVec.ofNat 64 (16 + padded)) (room - 16 - padded)
        .ok (rest.map (fun l => (addr, bs) :: l))

/-- The areas of a launch. -/
def State.dataAreas (s : State) (l : Launch) : Acc? (Option (List (Nat × List Byte))) :=
  readTable l.ctxOf s 1048577 (l.code + BitVec.ofNat 64 (16 * l.csize)) 0x1000000

/-! ## Reading a slot (19 R292, R296, R299) -/

/-- A launch as read from its slot. -/
def Launch.fresh (b : Block) (q : Fin 64) (x : Queue) (p : PartId) (r : Vector W64 16) : Launch :=
  { blk := b, queue := q, seq := x.head, ctx := x.ctx, part := p, record := r, deps := [], state := .waiting, gang := .placed,
    cores := [], quads := [], vmap := [], rank0 := 0, size := fld (r.get 1) 44 32, comm := false, trel := 0, trelAt := [],
    counted := [], reports := [], gone := [], allOver := false, expects := [], released := [], firstReport := none,
    bars := .replicate 96 (0, 0, false), phs := 0, start := 0, resumed := 0,
    fcode := 0, det := 0, aborted := false, pre := none, savedCores := [], turn := false, copied := 0, tlim := 0, acks := [],
    ended := 0 }

/-- A launch that cannot start: its record, and its completion object; one that cannot be written stops the queue
(19 R296, R299, 20 R311). -/
def refuseLaunch (i : Nat) (l : Launch) (status : Nat) (code : Byte) (det addr : W64) (s : State) : State :=
  let s := s.setLaunch i { l with state := .done, gang := .ended, ended := s.cyc }
  let s := launchFault l code det addr s
  if (l.record.get 4).toNat % 64 ≠ 0 then stopQueue l.blk l.queue l.seq 0x87 (l.record.get 4) s
  else (complete l status code false det s).push [.turnGrant l.part]

/-- Dependences of a launch: NDEP addresses at DEPS. -/
def State.readDeps (s : State) (l : Launch) : Acc? (List W64) := do
  let n := fld (l.record.get 7) 3 0
  if n = 0 then .ok []
  else
    let (bs, _) ← s.readVa l.ctxOf (l.record.get 6) (8 * n)
    .ok ((List.range n).map (fun i => BitVec.ofNat 64 (ofBytes ((bs.drop (8 * i)).take 8))))

/-- A PREPARE for a member's launch: a record that agrees will be acknowledged with this member's rank once it is loaded, and
one that differs is answered NACK; without a COMMIT by Tlim the member aborts (19 R304). -/
def applyPrepare (i : Nat) (l : Launch) (x : Prepare) (s : State) : State :=
  let acks := match s.gangGroup l with
    | some g => if l.strands = x.gang ∧ l.heat = x.heat then [Fin.ofNat 64 g.rank] else []
    | none => []
  let s := s.setLaunch i { l with tlim := x.tlim, acks := acks }
  if cycGe s.cyc x.tlim then s.push [.tlimExpiry i] else s.later ((x.tlim - s.cyc).toNat) (.tlimExpiry i)

/-- A record that is read finds the PREPARE that came before it. -/
def takePrepare (i : Nat) (s : State) : State :=
  match s.launch i with
  | some l =>
    match s.prepares.find? (fun x => l.mmod && decide (x.gid = l.gid) && !s.hasMaster l) with
    | some x => applyPrepare i l x { s with prepares := s.prepares.erase x }
    | none => s
  | none => s

/-- A record read is checked; a good one waits for its dependences. -/
def enterLaunch (l : Launch) (s : State) : State :=
  let i := s.launches.length
  let s := { s with launches := s.launches ++ [l] }
  match (recordDefects l.record (countBits 32 (s.part l.part).held.quads)).find? (fun d => d.2) with
  | some d => refuseLaunch i l 2 0x80 (BitVec.ofNat 64 d.1) 0 s
  | none =>
    match if l.isCopy then .ok (some []) else s.dataAreas l with
    | .error f => refuseLaunch i l 2 f.code f.det f.addr s
    | .ok none =>
      let (v, s) := s.draw
      refuseLaunch i l 2 0x80 v 0 s
    | .ok (some _) =>
      match s.readDeps l with
      | .error f => refuseLaunch i l 2 f.code f.det f.addr s
      | .ok ds => takePrepare i ((s.setLaunch i { l with deps := ds }).push [.dependenceTest i])

/-- The next slot is read, sixteen words; while the partition is not enabled none is. -/
def execSlotRead (b : Block) (q : Fin 64) (s : State) : Out :=
  let x := s.queue b q
  let p := s.queuePart b q
  if !hasQueue b q || !x.en || decide (x.head = x.tail) || !(s.part p).en then .next s
  else
    let va := x.base + BitVec.ofNat 64 (128 * (x.head.toNat % 2 ^ x.logn.toNat))
    match s.readVa ⟨p, x.ctx, 0, none⟩ va 128 with
    | .error f => .next (stopQueue b q x.head f.code f.det s)
    | .ok (bs, s) =>
      let s := s.setQueue b q { x with head := x.head + 1 }
      let s := if x.head + 1 = x.tail then s else readLater b q s
      .next (enterLaunch (Launch.fresh b q x p (launchRecord bs)) s)

/-! ## Dependences (19 R299) -/

/-- What dependences say. -/
inductive DepState | ready | wait | fail (i : Nat) | fault (f : AFault)
  deriving DecidableEq, Repr

def depState (s : State) (x : Ctx) : Nat → List W64 → DepState
  | _, [] => .ready
  | i, va :: r =>
    match s.readVa x va 8 with
    | .error f => .fault f
    | .ok (bs, _) =>
      let w := BitVec.ofNat 64 (ofBytes bs)
      if fld w 7 0 = 3 ∨ (fld w 7 0 = 2 ∧ !bit w 16) then .fail i
      else match depState s x (i + 1) r with
        | .ready => if fld w 7 0 = 1 then .ready else .wait
        | o => o

def execDependenceTest (i : Nat) (s : State) : Out :=
  match s.launch i with
  | none => .next s
  | some l =>
    if l.state = .waiting then
      match depState s l.ctxOf 0 l.deps with
      | .ready => .next ((s.setLaunch i { l with state := .ready }).push [.turnGrant l.part])
      | .wait => .next s
      | .fail k => .next (refuseLaunch i l 3 0x81 (BitVec.ofNat 64 k) 0 s)
      | .fault f => .next (refuseLaunch i l 2 f.code f.det f.addr s)
    else .next s

/-! ## The turn (19 R300) -/

/-- A queue's place in the round: PF0's queues after the partition's (log 27). -/
def roundOf (l : Launch) : Nat := if l.blk = .pf0 then 64 + l.queue.val else l.queue.val

/-- Launches with their numbers. -/
def State.numbered (s : State) : List (Nat × Launch) := (List.range s.launches.length).zip s.launches

/-- Not yet placed. -/
def Launch.unplaced (l : Launch) : Bool := decide (l.state = .waiting ∨ l.state = .ready)

/-- The oldest record of its queue that is not yet placed. -/
def State.isHead (s : State) (i : Nat) (l : Launch) : Bool :=
  s.numbered.all (fun x => !(decide (x.1 < i) && decide (x.2.blk = l.blk ∧ x.2.queue = l.queue) && x.2.unplaced))

/-- The stage of a record is held by a gang that has not ended; one that is held, though not resident, holds it too, since it goes on as
that stage (12 R233: DESIGN CHOICE, log 80). -/
def State.stageHeld (s : State) (i : Nat) (l : Launch) : Bool :=
  l.stage.isSome && s.numbered.any (fun x => decide (x.1 ≠ i ∧ x.2.part = l.part ∧ x.2.stage = l.stage)
    && (x.2.occupies || decide (x.2.state = .held)))

/-- Records that may be given the turn. -/
def State.candidates (s : State) (p : PartId) : List (Nat × Launch) :=
  s.numbered.filter (fun x => decide (x.2.part = p) &&
    (decide (x.2.state = .held) || (decide (x.2.state = .ready) && s.isHead x.1 x.2 && !s.stageHeld x.1 x.2)))

/-- A record of the partition holds the turn. -/
def State.holder (s : State) (p : PartId) : Option (Nat × Launch) :=
  s.numbered.find? (fun x => x.2.turn && decide (x.2.part = p ∧ (x.2.state = .ready ∨ x.2.state = .held)))

def Queue.weight (x : Queue) : Nat := if x.wt = 0 then 1 else x.wt.toNat

/-- Credits of a partition's queues are set to their weights. -/
def refill (p : PartId) (s : State) : State :=
  let x := s.part p
  let s := s.setPart p { x with blk := { x.blk with queues := x.blk.queues.map (fun q => { q with credit := q.weight }) } }
  { s with pf0 := { s.pf0 with queues := s.pf0.queues.map (fun q => if q.part.toFin = p then { q with credit := q.weight } else q) } }

/-- Order of service after the queue served last. -/
def afterLast (last : Nat) (l : List (Nat × Launch)) : List (Nat × Launch) :=
  l.filter (fun x => decide (last < roundOf x.2)) ++ l.filter (fun x => !decide (last < roundOf x.2))

/-- Sort by place in the round. -/
def byRound (l : List (Nat × Launch)) : List (Nat × Launch) :=
  (List.range 128).flatMap (fun n => l.filter (fun x => decide (roundOf x.2 = n)))

/-- The first record whose queue has credit is served. -/
def serve (p : PartId) (x : Nat × Launch) (s : State) : State :=
  let l := x.2
  let y := s.part p
  let s := s.setPart p { y with last := y.last.set (l.prio % 4) (Fin.ofNat 128 (roundOf l)) (Nat.mod_lt _ (by decide)) }
  let q := s.queue l.blk l.queue
  let s := s.setQueue l.blk l.queue { q with credit := q.credit - 1 }
  (s.setLaunch x.1 { l with turn := true }).push [.placement p]

/-- The turn goes to one record: of the highest priority, a held gang first, then by weighted round robin. -/
def execTurnGrant (p : PartId) (s : State) : Out :=
  if (s.holder p).isSome then .next s
  else
    let c := s.candidates p
    let top := c.foldl (fun a x => max a x.2.prio) 0
    let level := c.filter (fun x => decide (x.2.prio = top))
    match level.find? (fun x => decide (x.2.state = .held)) with
    | some x => .next ((s.setLaunch x.1 { x.2 with turn := true }).push [.placement p])
    | none =>
      let order := afterLast ((s.part p).last.get (Fin.ofNat 4 top)).val (byRound level)
      match order.find? (fun x => decide (0 < (s.queue x.2.blk x.2.queue).credit)) with
      | some x => .next (serve p x s)
      | none => match order.head? with
        | some x => .next (serve p x (refill p s))
        | none => .next s

/-! ## Placement (19 R301, R302, 20 R320) -/

/-- Quads of a partition on which nothing new may be placed: those a pending request names (21 R334). -/
def Partition.usable (x : Partition) (q : QuadId) : Bool := bit x.held.quads q.val && !bit x.rel.quads q.val

/-- Quads of a partition that no launch occupies. -/
def State.freeQuads (s : State) (p : PartId) : List QuadId :=
  let t := s.takenQuads s.launches.length
  (List.finRange 32).filter (fun q => (s.part p).usable q && !t.contains q)

/-- The die with the fewest free quads that still suffice, the lower on a tie. -/
def bestDie (need : Nat) (free : List QuadId) : Option DieId :=
  let n := fun (d : DieId) => (free.filter (fun q => decide (dieOfQuad q = d))).length
  (List.finRange 4).foldl (fun a d =>
    if n d < need then a
    else match a with
      | some b => if n d < n b then some d else a
      | none => some d) none

/-- Quads for a gang: on one die where one suffices, else in ascending order. -/
def chooseQuads (need : Nat) (free : List QuadId) : Option (List QuadId) :=
  match bestDie need free with
  | some d => some ((free.filter (fun q => decide (dieOfQuad q = d))).take need)
  | none => if need ≤ free.length then some (free.take need) else none

/-- Quads that a launch needs. -/
def Launch.need (l : Launch) : Nat := (l.strands + perQuad l.heat - 1) / perQuad l.heat

/-- Cores of its strands in the chosen quads. -/
def Launch.coresIn (l : Launch) (qs : List QuadId) : List CoreId :=
  ((List.finRange 128).filter (fun c => qs.contains (quadOf c) && activeIn l.heat c)).take l.strands

/-- Tiles of the strands' cores, own and lent. -/
def tilesOf (l : Launch) (cs : List CoreId) : List (Fin 1024) :=
  cs.flatMap (fun c =>
    let n := if l.heat = 0 then 0 else if l.heat = 1 then 1 else 3
    (c :: (lendersIn l.heat c).toList.take n).flatMap (fun k => (List.range 8).map (fun t => Fin.ofNat 1024 (8 * k.val + t))))

/-- Unbound tiles are bound to the launch's context. -/
def bindTiles (p : PartId) (ctx : Byte) (ts : List (Fin 1024)) (s : State) : State :=
  let x := s.part p
  s.setPart p { x with bind := ts.foldl (fun b t => if (b.get t).isNone then b.set t.val (some ctx) t.isLt else b) x.bind }

/-- Quads are reserved, and gated ones woken. -/
def reserve (i : Nat) (l : Launch) (qs : List QuadId) (s : State) : State :=
  let cs := l.coresIn qs
  let r := match s.gangGroup l with
    | some g => (g.rank * l.strands, g.nmem * l.strands)
    | none => (0, l.strands)
  let s := s.setLaunch i { l with state := .placing, turn := false, quads := qs, cores := cs, vmap := s.partCores l.part,
                                  rank0 := r.1, size := r.2 }
  let s := qs.foldl (fun s q => s.setQuad q (s.quad q).slackReset) (bindTiles l.part l.ctx (tilesOf l cs) s)
  s.push ((qs.filter (fun q => !s.awake q)).map Ev.wakeRequest)

/-- Insert by priority, then by the latest START. -/
def insertVictim (x : Nat × Launch) : List (Nat × Launch) → List (Nat × Launch)
  | [] => [x]
  | y :: r =>
    if x.2.prio < y.2.prio ∨ (x.2.prio = y.2.prio ∧ y.2.start.toNat < x.2.start.toNat) then x :: y :: r
    else y :: insertVictim x r

/-- Gangs that may be pre-empted for a priority: lowest first, then the latest START. -/
def victims (s : State) (p : PartId) (prio : Nat) : List (Nat × Launch) :=
  let c := s.numbered.filter (fun x =>
    decide (x.2.part = p ∧ x.2.state = .started ∧ x.2.prio < prio ∧ x.2.pre = none) && !x.2.mmod && !x.2.isCopy)
  c.foldl (fun a x => insertVictim x a) []

/-- As few gangs as are needed. -/
def enough (need : Nat) : List QuadId → List (Nat × Launch) → List (Nat × Launch) → Option (List (Nat × Launch))
  | free, chosen, rest =>
    if need ≤ free.length then some chosen
    else match rest with
      | [] => none
      | x :: r => enough need (free ++ x.2.quads) (chosen ++ [x]) r

/-- A gang is asked to make way. -/
def askPriority (x : Nat × Launch) (s : State) : State :=
  (s.updLaunch x.1 (fun y => { y with pre := some .priority })).push [.preemptionRequest x.1]

/-- Quads of gangs that have been asked to make way. -/
def State.goingQuads (s : State) (p : PartId) : List QuadId :=
  (s.launches.filter (fun x => decide (x.part = p ∧ x.state = .started ∧ x.pre = some .priority))).flatMap (fun x => x.quads)

/-- Pre-empt for the record that holds the turn. -/
def preemptFor (l : Launch) (s : State) : State :=
  let ok := fun (qs : List QuadId) => qs.filter (s.part l.part).usable
  let vs := (victims s l.part l.prio).map (fun x => (x.1, { x.2 with quads := ok x.2.quads }))
  match enough l.need (s.freeQuads l.part ++ ok (s.goingQuads l.part)) [] vs with
  | none => s
  | some xs => xs.foldl (fun s x => askPriority x s) s

/-- Pre-empt for a held gang that holds the turn: the lower gangs on its own quads, where that frees them all (19 R302). -/
def preemptHeld (i : Nat) (l : Launch) (s : State) : State :=
  let taken := (s.takenQuads i).filter l.quads.contains
  let vs := (victims s l.part l.prio).filter (fun x => x.2.quads.any l.quads.contains)
  if taken.all (fun q => (s.goingQuads l.part).contains q || vs.any (fun x => x.2.quads.contains q)) then
    vs.foldl (fun s x => askPriority x s) s
  else s

/-- Bytes that loading moves. -/
def loadBytes (s : State) (l : Launch) : Nat :=
  16 * l.csize + 64 * fld (l.record.get 5) 63 48 +
  (match s.dataAreas l with
   | .ok (some a) => (a.map (fun x => x.2.length)).sum
   | _ => 0)

/-- Launches whose quads are awake begin to load. -/
def beginLoads (p : PartId) (s : State) : State :=
  s.numbered.foldl (fun s x =>
    if x.2.part = p ∧ x.2.state = .placing ∧ x.2.quads.all s.awake then
      (s.setLaunch x.1 { x.2 with state := .loading }).later (1200 + (loadBytes s x.2 + 255) / 256) (.loadingComplete x.1)
    else s) s

/-- The record that holds the turn takes its quads; a held gang its own; a copy launch takes none. -/
def execPlacement (p : PartId) (s : State) : Out :=
  match s.holder p with
  | none => .next (beginLoads p s)
  | some (i, l) =>
    if l.state = .held then
      .next ((preemptHeld i l (beginLoads p s)).push
        ((l.quads.filter (fun q => !s.awake q)).map Ev.wakeRequest ++ [.gangResume i]))
    else if l.isCopy then
      .next ((s.setLaunch i { l with state := .loading, turn := false }).push [.loadingComplete i, .turnGrant p])
    else match chooseQuads l.need (s.freeQuads p) with
      | some qs => .next ((beginLoads p (reserve i l qs s)).push [.turnGrant p])
      | none => .next (preemptFor l (beginLoads p s))

/-! ## Loading (19 R301, 12 R225, 03 R27, R39) -/

/-- Bytes of a die's instruction memory (01 R12). -/
def instrMemory : Nat := 0x1000000

/-- A launch still needs its image. -/
def Launch.live (l : Launch) : Bool := l.occupies || decide (l.state = .held)

/-- Images of a die that a live launch runs, and the others. -/
def State.liveImage (s : State) (x : Image) : Bool :=
  x.users.any (fun i => match s.launch i with
    | some l => l.live
    | none => false)

/-- Drop images that no live launch runs, oldest first, until n bytes fit. -/
def makeRoom (s : State) (n : Nat) : List Image → List Image
  | l =>
    let used := fun (l : List Image) => (l.map (fun x => 16 * x.csize)).sum
    l.foldl (fun a x => if used a + n ≤ instrMemory ∨ s.liveImage x then a else a.erase x) l

/-- The image that a launch with RESI reuses in a die (19 R301). -/
def Die.resident (x : Die) (l : Launch) : Option Image :=
  if l.resi then x.images.reverse.find? (fun y => decide (y.code = l.code ∧ y.csize = l.csize ∧ y.ctx = l.ctx ∧ y.part = l.part))
  else none

/-- The image of a launch stands in a die: a resident one is reused, or it is copied; none without room. -/
def loadImage (i : Nat) (l : Launch) (bytes : Mem) (s : State) (x : Die) : Option Die :=
  match x.resident l with
  | some y => some { x with images := x.images.map (fun z => if z = y then { z with users := z.users ++ [i] } else z) }
  | none =>
    let r := makeRoom s (16 * l.csize) x.images
    if (r.map (fun y => 16 * y.csize)).sum + 16 * l.csize ≤ instrMemory then
      some { x with images := r ++ [{ code := l.code, csize := l.csize, ctx := l.ctx, part := l.part, bytes := bytes, bad := [], users := [i] }] }
    else none

def loadImages (i : Nat) (l : Launch) (bytes : Mem) (s : State) : List DieId → Option State
  | [] => some s
  | d :: r =>
    match loadImage i l bytes s (s.die d) with
    | some x => loadImages i l bytes (s.setDie d x) r
    | none => none

/-- A berth at the start of a strand. -/
def startBerth (l : Launch) (b : BerthId) : Berth :=
  if b.val < l.nber then
    { Berth.reset with started := true, pc := BitVec.ofNat 64 (if b = 0 then 0 else 16 * Config.berthEntry l.code b.val) }
  else Berth.reset

/-- A core at the start of a strand; its LM and its caches stay. -/
def Core.cleared (k : Core) (l : Launch) : Core :=
  { Core.reset with
    lm := k.lm, lmBad := k.lmBad, tlb := k.tlb, halted := k.halted, wdp := BitVec.ofNat 32 l.limit,
    psize := BitVec.ofNat 16 (fld (l.record.get 5) 47 32),
    berths := ⟨((List.finRange 4).map (startBerth l)).toArray, by simp⟩ }

/-- Data areas and then arguments go into own LM. -/
def Core.loaded (k : Core) (areas : List (Nat × List Byte)) (args : List Byte) : Core :=
  { k with lm := (areas.foldl (fun m a => m.writes a.1 a.2) k.lm).writes (0x400000 - args.length) args,
           lmBad := k.lmBad.filter (fun g => !(areas.any (fun a => lmCovers (8 * g) a.1 a.2.length)
             || lmCovers (8 * g) (0x400000 - args.length) args.length)) }

/-- What is loaded, or the fault that a read meets; an image that every die reuses is not read. -/
def State.loads (s : State) (l : Launch) : Acc? (Mem × List (Nat × List Byte) × List Byte) := do
  let code ← if l.dies.all (fun d => ((s.die d).resident l).isSome) then .ok []
    else (s.readVa l.ctxOf l.code (16 * l.csize)).map (fun x => x.1)
  let areas ← s.dataAreas l
  let (args, _) ← s.readVa l.ctxOf (l.record.get 2) (64 * fld (l.record.get 5) 63 48)
  .ok (cellsAt 0 code, areas.getD [], args)

/-- A maintenance command is still at a pair of these quads (25 R356). -/
def State.maintained (s : State) (l : Launch) : Bool :=
  s.pairs.toList.any (fun p => p.slots.any (fun b => decide (b.count = 0))
    && l.quads.contains (quadOf (Fin.ofNat 128 (p.tile.val / 8))))

/-- The starting lock's tick is chosen, or the two-phase start begins (12 R226, 19 R304). -/
def startGang (i : Nat) (l : Launch) (s : State) : State :=
  if l.mmod then
    let s := s.setLaunch i { l with state := .prepared }
    if s.hasMaster l then
      let t := s.cyc + BitVec.ofNat 64 l.gbt
      let s := s.setLaunch i { l with state := .prepared, tlim := t, acks := [0] }
      (s.later (l.gbt - 32000) (.tlimExpiry i)).push [.prepareReply i 0 (some 0)]
    else s
  else
    let t := s.cyc + BitVec.ofNat 64 (s.lrd l)
    (s.setLaunch i { l with state := .started, gang := .starting, trel := t }).later (s.lrd l) (.startingLockRelease i)

/-- Ticks after which a launch tries again for room or for maintenance to end. -/
def loadRetry : Nat := 1200

/-- An earlier record of its queue has not started: each queue starts its launches in slot order (19 R299). -/
def State.behind (s : State) (i : Nat) (l : Launch) : Bool :=
  s.numbered.any (fun x => decide (x.1 < i ∧ x.2.blk = l.blk ∧ x.2.queue = l.queue) &&
    (x.2.unplaced || decide (x.2.state = .placing ∨ x.2.state = .loading ∨ x.2.state = .prepared)))

/-- Image, data, arguments and registers are in place; a launch behind one that has not started waits for its start. -/
def execLoadingComplete (i : Nat) (s : State) : Out :=
  match s.launch i with
  | none => .next s
  | some l =>
    if l.state ≠ .loading then .next s
    else if s.behind i l then .next (s.later 1 (.loadingComplete i))
    else if l.isCopy then .next ((s.setLaunch i { l with state := .started }).push [.copyLaunch i])
    else if s.maintained l then .next (s.later loadRetry (.loadingComplete i))
    else match s.loads l with
      | .error f => .next (endLaunch i 2 f.code f.det (launchFault l f.code f.det f.addr s))
      | .ok (code, areas, args) =>
        match loadImages i l code s l.dies with
        | none => .next (s.later loadRetry (.loadingComplete i))
        | some s =>
          let s := l.seats.foldl (fun s x =>
            let s := sit i l x (s.updCore x.core (fun k => (k.cleared l).loaded areas args))
            (s.lendCores x.core).foldl (fun s c => s.updCore c (fun k => { k with file := .replicate 256 [], fileBad := [] })) s) s
          .next (startGang i l s)

/-! ## Copy launches (19 R302) -/

/-- SRC, DST and LEN of a control block, or a bad one. -/
def copyBlock (bs : List Byte) : Option (W64 × W64 × Nat) :=
  let w := fun (i : Nat) => ofBytes ((bs.drop (8 * i)).take 8)
  if w 0 % 128 = 0 ∧ w 1 % 128 = 0 ∧ w 2 % 128 = 0 ∧ w 2 ≤ 2 ^ 40 ∧ (bs.drop 24).all (fun b => decide (b = 0)) then
    some (BitVec.ofNat 64 (w 0), BitVec.ofNat 64 (w 1), w 2)
  else none

/-- The next 128 bytes move; a fault ends the launch, and the bytes before it stay. -/
def execCopyLaunch (i : Nat) (s : State) : Out :=
  match s.launch i with
  | none => .next s
  | some l =>
    if l.state ≠ .started ∨ !l.isCopy then .next s
    else match s.readVa l.ctxOf (l.record.get 2) 64 with
      | .error f => .next (refuseLaunch i l 2 f.code f.det f.addr s)
      | .ok (bs, _) =>
        match copyBlock bs with
        | none => .next (refuseLaunch i l 2 0x80 16 0 s)
        | some (src, dst, len) =>
          if len ≤ l.copied then
            .next ((s.setLaunch i { l with state := .completing, gang := .ended, ended := s.cyc }))
          else
            let o := BitVec.ofNat 64 l.copied
            match s.readVa l.ctxOf (src + o) 128 with
            | .error f => .next (refuseLaunch i l 2 f.code (src + o) f.addr s)
            | .ok (data, s) => match s.writeVa l.ctxOf (dst + o) data with
              | .error f => .next (refuseLaunch i l 2 f.code (dst + o) f.addr s)
              | .ok s => .next ((s.setLaunch i { l with copied := l.copied + 128 }).later 1 (.copyLaunch i))

/-! ## Gangs that span modules (19 R304) -/

/-- A launch that has not started its gang. -/
def Launch.pending (l : Launch) : Bool :=
  l.mmod && match l.state with
    | .waiting | .ready | .placing | .loading => true
    | .prepared => decide (l.gang = .placed)
    | _ => false

/-- The two-phase start fails. -/
def prepFail (i : Nat) (s : State) : State :=
  match s.launch i with
  | some l => endLaunch i 3 0x82 0 (launchFault l 0x82 0 0 s)
  | none => s

/-- A member receives PREPARE; one for a record that is not read yet waits for it. -/
def execPrepare (i : Nat) (gid : W32) (tlim : W64) (gang heat : Nat) (s : State) : Out :=
  let x : Prepare := { gid := gid, tlim := tlim, gang := gang, heat := heat }
  match s.launch i with
  | none => .next { s with prepares := s.prepares ++ [x] }
  | some l => .next (if l.pending ∧ l.gid = gid ∧ !s.hasMaster l then applyPrepare i l x s else s)

/-- Ticks from COMMIT to the start. -/
def commitTicks : Nat := 32000

/-- Every member has replied ACK. -/
def State.allAcks (s : State) (l : Launch) : Bool :=
  match s.gangGroup l with
  | some g => (List.range g.nmem).all (fun r => l.acks.contains (Fin.ofNat 64 r))
  | none => true

/-- Dies that a member's reply names. -/
def State.repliedDies (s : State) (l : Launch) (rank : Fin 64) (dies : BitVec 4) : List (BitVec 6 × DieId) :=
  match s.gangGroup l with
  | some g => ((List.finRange 4).filter (fun d => bit dies d.val)).map (fun d => (BitVec.ofNat 6 (g.mod rank.val), d))
  | none => []

/-- The coordinator receives a reply: none of a member that does not acknowledge, else the dies that hold the member's strands
(log 58).  With every ACK in time it commits. -/
def execPrepareReply (i : Nat) (rank : Fin 64) (ack : Option (BitVec 4)) (s : State) : Out :=
  match s.launch i with
  | none => .next s
  | some l =>
    if l.state = .prepared ∧ l.gang = .placed ∧ s.hasMaster l then
      match ack with
      | none => .next (prepFail i s)
      | some dies =>
        let l := if l.acks.contains rank then l
          else { l with acks := l.acks ++ [rank], expects := l.expects ++ s.repliedDies l rank dies }
        if s.allAcks l ∧ s.cyc.toNat + commitTicks ≤ l.tlim.toNat then
          let t := s.cyc + BitVec.ofNat 64 commitTicks
          .next ((s.setLaunch i { l with gang := .starting, trel := t }).later commitTicks (.startingLockRelease i))
        else .next (s.setLaunch i l)
    else .next s

/-- Launches of a gang tag that satisfy a test. -/
def State.ofGid (s : State) (gid : W32) (f : Launch → Bool) : List Nat :=
  s.numbered.filterMap (fun x => if x.2.mmod && decide (x.2.gid = gid) && f x.2 then some x.1 else none)

/-- A member receives COMMIT by Tlim and starts at Tc. -/
def execCommit (gid : W32) (tc : W64) (s : State) : Out :=
  .next ((s.ofGid gid (fun l => decide (l.state = .prepared ∧ l.gang = .placed ∧ l.acks ≠ []) && cycGe l.tlim s.cyc)).foldl (fun s i =>
    (s.updLaunch i (fun l => { l with gang := .starting, trel := tc })).later ((tc - s.cyc).toNat) (.startingLockRelease i)) s)

/-- A member receives ABORT: before the start it releases its quads, and a started gang is aborted (log 28). -/
def execAbort (gid : W32) (s : State) : Out :=
  let s := (s.ofGid gid Launch.pending).foldl (fun s i => prepFail i s) s
  .next ((s.ofGid gid (fun l => l.occupies && decide (l.state ≠ .completing) && decide (l.gang ≠ .placed))).foldl (fun s i =>
    match s.launch i with
    | some l => abortGang i l s
    | none => s) s)

/-- Tlim passes without COMMIT, or at the coordinator the last moment for one. A member that has acknowledged and hears nothing
completes as at GANGABORT, for the others may have started; no gang can have started without the acknowledgement of a member that
has not given it (19 R304, "A multi-module variant of A"; log 28). -/
def execTlimExpiry (i : Nat) (s : State) : Out :=
  match s.launch i with
  | none => .next s
  | some l =>
    let t := if s.hasMaster l then l.tlim - BitVec.ofNat 64 commitTicks else l.tlim
    .next (if l.pending ∧ l.tlim ≠ 0 ∧ cycGe s.cyc t then
      (if !s.hasMaster l ∧ l.state = .prepared ∧ l.acks ≠ [] then abortGang i l s else prepFail i s) else s)

end Sys2Proof.Machine
end

