-- ==== Sys2Proof/Machine/Partition.lean ====
section
/-! DEFINITION. The partition table, resizing, the scrub gate, translation invalidation and the binding table
(spec 21 R326 to R336, 20 R320). -/

namespace Sys2Proof.Machine

open Sys2Proof

/-! ## Masks and resources (21 R328, R335) -/

def Masks.and (a b : Masks) : Masks :=
  ⟨a.quads &&& b.quads, a.l2.zipWith (fun x y => x &&& y) b.l2, a.stg.zipWith (fun x y => x &&& y) b.stg,
    a.hbm &&& b.hbm, a.sync.zipWith (fun x y => x &&& y) b.sync⟩

/-- Resources of a that b does not name; a granule that goes takes its staging mark with it. -/
def Masks.minus (a b : Masks) : Masks :=
  ⟨a.quads &&& ~~~b.quads, a.l2.zipWith (fun x y => x &&& ~~~y) b.l2, a.stg.zipWith (fun x y => x &&& ~~~y) b.l2,
    a.hbm &&& ~~~b.hbm, a.sync.zipWith (fun x y => x &&& ~~~y) b.sync⟩

/-- No quad, granule or chunk is named. -/
def Masks.empty (a : Masks) : Bool :=
  decide (a.quads = 0 ∧ a.hbm = 0) && a.l2.toList.all (fun x => decide (x = 0)) && a.sync.toList.all (fun x => decide (x = 0))

/-- The resources that masks name. -/
def Masks.list (a : Masks) : List Resource :=
  ((List.finRange 32).filter (fun q => bit a.quads q.val)).map Resource.quad
  ++ ((List.finRange 128).filter (fun g => bit (a.l2.get (Fin.ofNat 2 (g.val / 64))) (g.val % 64))).map Resource.l2
  ++ ((List.finRange 64).filter (fun g => bit a.hbm g.val)).map Resource.hbm
  ++ (List.finRange 4).flatMap (fun d =>
      ((List.finRange 64).filter (fun k => bit (a.sync.get d) k.val)).map (fun k => Resource.sync d k))

/-- The masks that name one resource. -/
def Masks.one : Resource → Masks
  | .quad q => { Masks.none with quads := 1#32 <<< q.val }
  | .l2 g => { Masks.none with l2 := Masks.none.l2.set (g.val / 64) (1#64 <<< (g.val % 64)) (by have := g.isLt; omega) }
  | .hbm g => { Masks.none with hbm := 1#64 <<< g.val }
  | .sync d k => { Masks.none with sync := Masks.none.sync.set d.val (1#64 <<< k.val) d.isLt }

/-- A mask register of a partition-table entry, of its twins, or of a request. -/
def Masks.reg (m : Masks) : PtReg → W64
  | .quad => m.quads.zeroExtend 64
  | .l2 k => m.l2.get k
  | .l2m k => m.stg.get k
  | .hbm => m.hbm
  | .sync d => m.sync.get d
  | .ctl | .s2 | .mem | .ingb | .fab => 0

/-- Masks after a write of one of their registers (21 R328). -/
def Masks.setReg (m : Masks) (r : PtReg) (v : W64) : Masks :=
  match r with
  | .quad => { m with quads := v.truncate 32 }
  | .l2 k => { m with l2 := m.l2.set k.val v k.isLt }
  | .l2m k => { m with stg := m.stg.set k.val v k.isLt }
  | .hbm => { m with hbm := v }
  | .sync d => { m with sync := m.sync.set d.val v d.isLt }
  | .ctl | .s2 | .mem | .ingb | .fab => m

/-- The masks that a write of one mask register names. -/
def Masks.ofReg (r : PtReg) (v : W64) : Masks := Masks.none.setReg r v

/-- A mask register. -/
def isMask : PtReg → Bool
  | .quad | .l2 _ | .l2m _ | .hbm | .sync _ => true
  | .ctl | .s2 | .mem | .ingb | .fab => false

/-! ## The table (21 R328, R329) -/

/-- A refused write sets ERR and ECODE: 1 NOTFREE, 2 HELD, 3 BADVAL. -/
def Partition.refused (x : Partition) (code : Byte) : Partition := { x with err := true, ecode := code }

/-- A write with a reserved field or value, or of CHIL or PTS2 while enabled. -/
def badPtWrite (x : Partition) (r : PtReg) (v : W64) : Bool :=
  match r with
  | .ctl => decide (fld v 7 6 ≠ 0) || decide (fld v 63 16 ≠ 0)
  | .s2 => decide (fld v 11 0 ≠ 0) || decide (fld v 63 48 ≠ 0) || x.en
  | .mem => decide (fld v 1 0 = 3) || decide (fld v 3 2 ≠ 0) || decide (32 < fld v 9 4) || decide (fld v 63 10 ≠ 0)
      || (x.en && decide (fld v 1 0 ≠ x.chil.toNat))
  | .ingb => decide (fld v 63 32 ≠ 0)
  | .fab => decide (fld v 55 49 ≠ 0) || decide (64 < fld v 62 56) || bit v 63
  | .quad | .l2 _ | .l2m _ | .hbm | .sync _ => false

/-- PTCTL with the fields that firmware may write: EN, HOST, and ERR cleared by a 1. -/
def Partition.setCtl (x : Partition) (v : W64) : Partition :=
  { x with
    en := bit v 0, host := bit v 5, err := x.err && !bit v 4,
    state := match x.state with
      | .unused | .active => if bit v 0 then .active else .unused
      | o => o }

/-- A good write. -/
def Partition.setReg (x : Partition) (r : PtReg) (v : W64) : Partition :=
  match r with
  | .ctl => x.setCtl v
  | .s2 => { x with s2 := v }
  | .mem =>
    { x with chil := v.truncate 2, rdcs := BitVec.ofNat 6 (fld v 9 4), share := if x.en then x.share else BitVec.ofNat 6 (fld v 9 4) }
  | .ingb => { x with ingb := v.truncate 32 }
  | .fab => { x with mods := v.truncate 49, maxg := BitVec.ofNat 7 (fld v 62 56) }
  | .quad | .l2 _ | .l2m _ | .hbm | .sync _ => x

/-- The enabled queues of a partition that is enabled, and PF0's for it, are read on where slots are queued (19 R292, R294). -/
def enableReads (p : PartId) (s : State) : State :=
  ((List.finRange 64).map (fun q => (Block.part p, q)) ++ (List.finRange 16).map (fun q => (Block.pf0, Fin.ofNat 64 q.val))).foldl
    (fun s y =>
      let x := s.queue y.1 y.2
      if x.en ∧ s.queuePart y.1 y.2 = p ∧ x.head ≠ x.tail then readLater y.1 y.2 s else s) s

/-- Firmware writes the table of a module that runs; one that boots, or is in recovery, has no partitions (27 R377). -/
def execPartitionTableWrite (p : PartId) (r : PtReg) (v : W64) (s : State) : Out :=
  let x := s.part p
  if s.boot ≠ .running then .next s
  else if badPtWrite x r v then .next (s.setPart p (x.refused 3))
  else
    let s := s.setPart p (x.setReg r v)
    .next (if !x.en && (s.part p).en then enableReads p s else s)

/-! ## Growing (21 R332) -/

/-- Firmware names free resources; they apply at the next lock release of the partition, or at once with no gang. The twin then reads
what was written, and what it named before and names no more is free again. -/
def execAddTwinWrite (p : PartId) (r : PtReg) (v : W64) (s : State) : Out :=
  let x := s.part p
  let m := Masks.ofReg r v
  let free := s.freeRes.or (Masks.ofReg r (x.add.reg r))
  if !isMask r then .next s
  else if r = .quad ∧ fld v 63 32 ≠ 0 then .next (s.setPart p (x.refused 3))
  else if !((m.and x.held).empty) then .next (s.setPart p (x.refused 2))
  else if !((m.minus free).empty) then .next (s.setPart p (x.refused 1))
  else
    let add := x.add.setReg r v
    let s := { s.setPart p { x with add := add, pendAdd := !add.empty } with freeRes := free.minus m }
    .next (grow p s)

/-! ## Shrinking (21 R334) -/

/-- A request or a release is under way. -/
def Partition.resizing (x : Partition) : Bool := x.requested || decide (x.state = .releasing ∨ x.state = .scrubbing)

/-- The register of a REL twin joins the pending request: the request is of this tick, and the register names nothing yet. DESIGN CHOICE
(log 87): the registers that one tick writes are one request, so that it can name resources of several kinds. -/
def Partition.joins (x : Partition) (r : PtReg) (now : W64) : Bool := x.requested && decide (x.reqAt = now ∧ x.rel.reg r = 0)

/-- Firmware names held resources to release. -/
def execRelTwinWrite (p : PartId) (r : PtReg) (v : W64) (deadline : W64) (s : State) : Out :=
  let x := s.part p
  let m := Masks.ofReg r v
  let rel := x.rel.setReg r v
  if !isMask r then .next s
  else if (x.resizing ∧ !x.joins r s.cyc) ∨ !((m.minus x.held).empty) ∨ (r = .quad ∧ fld v 63 32 ≠ 0) then
    .next (s.setPart p (x.refused 3))
  else if x.requested then .next (s.setPart p { x with rel := rel, rsz := rel })
  else if m.empty then .next (s.setPart p { x with rel := rel })
  else
    let rid := x.rid + 1
    let s := s.setPart p { x with rel := rel, rsz := rel, rid := rid, requested := true, reqAt := s.cyc, deadline := deadline }
    let s := postInt (.part p) 2 0 0 (rid.zeroExtend 64) deadline s
    .next (s.later ((deadline - s.cyc).toNat) (.resizeDeadline p))

/-- Launches of a partition on quads that it releases. -/
def onReleased (p : PartId) (m : Masks) (l : Launch) : Bool :=
  decide (l.part = p) && (l.occupies || decide (l.state = .held)) && l.quads.any (fun q => bit m.quads q.val)

/-- A gang on a named quad is pre-empted and then discarded; one whose strands have all ended is complete, and its completion comes; any
other launch there is discarded. -/
def drain (i : Nat) (s : State) : State :=
  match s.launch i with
  | none => s
  | some l =>
    if l.state = .started then
      (s.setLaunch i { l with pre := some .drain }).push [.preemptionRequest i]
    else if l.state = .completing then s
    else discard i l s

/-- The release begins. -/
def beginRelease (p : PartId) (s : State) : State :=
  let x := s.part p
  let m := x.rel
  let s := s.setPart p { x with requested := false, state := .releasing }
  (s.numbered.filter (fun y => onReleased p m y.2)).foldl (fun s y => drain y.1 s) s

def execRszackWrite (p : PartId) (rid : W16) (s : State) : Out :=
  let x := s.part p
  .next (if x.requested ∧ x.rid = rid then beginRelease p s else s)

def execResizeDeadline (p : PartId) (s : State) : Out :=
  let x := s.part p
  .next (if x.requested ∧ cycGe s.cyc x.deadline then beginRelease p s else s)

/-- TLB entries that satisfy a test go, at the dies and in the cores. -/
def dropTlb (f : TlbE → Bool) (s : State) : State :=
  { s with
    dies := s.dies.map (fun d => { d with tlb := d.tlb.filter (fun e => !f e), walks := d.walks.filter (fun w => !w.failed) })
    cores := s.cores.map (fun k => { k with tlb := k.tlb.filter (fun e => !f e) }) }

/-- Typical ticks of the scrub gate, of a quad for its storage (21 R335). -/
def scrubTicks : Resource → Nat
  | .quad _ => 2000
  | .l2 _ => 12288
  | .hbm _ => 32200000
  | .sync .. => 1600

/-- A die on which a partition holds no quad any more keeps none of its images and records. -/
def dropImages (p : PartId) (m : Masks) (s : State) : State :=
  (List.finRange 4).foldl (fun s d =>
    let had := (List.finRange 32).any (fun q => decide (dieOfQuad q = d) && bit m.quads q.val)
    let has := (List.finRange 32).any (fun q => decide (dieOfQuad q = d) && bit (s.part p).held.quads q.val)
    if had && !has then
      s.setDie d { s.die d with images := (s.die d).images.filter (fun x => !decide (x.part = p)),
                                recs := (s.die d).recs.filter (fun e => !decide (e.part = p)) }
    else s) s

/-- Resources enter the scrub gate, which begins `wait` ticks from now (21 R335, 27 R383). -/
def enterGate (wait : Nat) (m : Masks) (s : State) : State :=
  m.list.foldl (fun s r => { s with scrubbing := s.scrubbing ++ [r] }.later (wait + scrubTicks r) (.scrubGateDone r 0)) s

/-- Once no launch stands on them, the named resources leave the partition and enter the scrub gate. -/
def finishRelease (p : PartId) (s : State) : State :=
  let x := s.part p
  if x.state ≠ .releasing ∨ s.launches.any (onReleased p x.rel) then s
  else
    let m := x.rel
    let s := s.setPart p { x with
      state := .scrubbing, held := x.held.minus m,
      bind := ⟨((List.finRange 1024).map (fun t => if bit m.quads (tileQuad t).val then none else x.bind.get t)).toArray, by simp⟩ }
    let s := dropImages p m (dropTlb (fun e => decide (e.part = p)) s)
    enterGate 0 m s

/-- Every partition whose release can go on. -/
def finishReleases (s : State) : State := (List.finRange 32).foldl (fun s p => finishRelease p s) s

/-! ## The scrub gate (21 R335, R336) -/

/-- A core's storage at the gate. -/
def Core.scrubbed (k : Core) : Core := { Core.reset with halted := k.halted, masks := .replicate 8 0 }

/-- First DPA and bytes of a granule or chunk. -/
def resourceSpan : Resource → Nat × Nat
  | .quad _ => (0, 0)
  | .l2 g => (stgBase + g.val / 32 * 2 ^ 30 + g.val % 32 * 2 ^ 25, 2 ^ 25)
  | .hbm g => (6 * 2 ^ 30 * g.val, 6 * 2 ^ 30)
  | .sync d k => (syncBase + d.val * 2 ^ 26 + k.val * 2 ^ 20, 2 ^ 20)

/-- Coherence state of lines that satisfy a test goes. -/
def dropLines (f : Nat → Bool) (s : State) : State :=
  { s with
    lines := s.lines.filter (fun x => !f x.line), tokMsgs := s.tokMsgs.filter (fun x => !f x.line),
    tokReqs := s.tokReqs.filter (fun x => !f x.line),
    dies := s.dies.map (fun d => { d with persist := d.persist.filter (fun x => !f x.line),
                                          turns := d.turns.filter (fun x => !f x.line),
                                          sync := d.sync.filter (fun x => !f x) }) }

/-- Pairs that answer to a quad's tiles, with the number of the tile in the quad: 8 times the core's place, and the
local tile. -/
def quadPairs (s : State) (q : QuadId) : List (PairId × Nat) :=
  (quadCores q).mapIdx (fun n c => (List.range 8).filterMap (fun t =>
    (s.pairAt (8 * c.val + t)).map (fun x => (x, 8 * n + t)))) |>.flatten

/-- XSCRB with the whole tile as window; a pair that still fails after four attempts is marked and counted. -/
def gatePair (t : PairId) (fail : Bool) (s : State) : State :=
  let w := winOf wholeWin
  let x := (scrubPair s w (s.pair t)).1
  let s := { s.setPair t { x with slots := [], busyUntil := s.cyc, fails := if fail then 1 else 0 } with
    free := s.free + programFree w }
  if fail then bump (hTile (arrayDie t) 0) 1 s else s

/-- The storage of a quad's cores is zero, and its tiles await the write phase of their XSCRB (21 R335). -/
def gateStorage (q : QuadId) (s : State) : State :=
  let s := (quadCores q).foldl (fun s c => s.updCore c Core.scrubbed) s
  let ts := (quadPairs s q).map (fun x => x.1)
  ({ s with gate := s.gate ++ ts.map (fun t => (t, none)), writeWait := s.writeWait ++ ts }).push
    (s.writeWait.head?.toList.map Ev.arrCeilingAdmit ++ ts.head?.toList.map Ev.arrCeilingAdmit)

/-- The gate has yet to zero a quad's storage, or a tile of it has not ended its XSCRB. -/
def State.storageDue (s : State) (q : QuadId) : Bool :=
  let ts := (quadPairs s q).map (fun x => x.1)
  !ts.isEmpty && !s.gate.any (fun x => ts.contains x.1)
def State.tilesDue (s : State) (q : QuadId) : Bool :=
  let ts := (quadPairs s q).map (fun x => x.1)
  s.gate.any (fun x => ts.contains x.1 && match x.2 with
    | some e => !cycGe s.cyc e
    | none => true)

/-- What the gate leaves. -/
def scrub (x : Resource) (fails : W32) (s : State) : State :=
  match x with
  | .quad q =>
    let s := (quadCores q).foldl (fun s c => s.updCore c Core.scrubbed) s
    let ts := quadPairs s q
    let s := { s with gate := s.gate.filter (fun x => !ts.any (fun t => decide (t.1 = x.1))) }
    ts.foldl (fun s t => gatePair t.1 (bit fails t.2) s) s
  | r =>
    let (a, n) := resourceSpan r
    dropLines (fun l => decide (a ≤ l * 128 ∧ l * 128 < a + n)) (blit a n [] s)

/-- The partition that released a resource. -/
def State.releaser (s : State) (x : Resource) : Option PartId :=
  (List.finRange 32).find? (fun p =>
    decide ((s.part p).state = .scrubbing) && !((Masks.one x).and (s.part p).rel).empty)

/-- What a quad's gate does before its end: the storage first, then nothing until the last tile's XSCRB has ended. -/
def gatePending (x : Resource) (s : State) : Option State :=
  match x with
  | .quad q => if s.storageDue q then some (gateStorage q s) else if s.tilesDue q then some s else none
  | _ => none

/-- A tile of a quad has failed at the gate, and no remap that has been accepted takes its pair out of service (21 R335, 25 R360). -/
def State.quadFails (s : State) (q : QuadId) : Bool :=
  (quadPairs s q).any (fun x => decide ((s.pair x.1).fails ≠ 0) && !s.remaps.any (fun r => decide (r.1 = x.1)))

/-- The resource may be free once the gate is done with it. -/
def State.gatePasses (s : State) : Resource → Bool
  | .quad q => !s.quadFails q
  | .l2 _ | .hbm _ | .sync .. => true

/-- No partition holds a quad, or is about to. -/
def State.quadLoose (s : State) (q : QuadId) : Bool :=
  !s.scrubbing.contains (.quad q) && !bit s.freeRes.quads q.val &&
  s.parts.toList.all (fun p => !bit p.held.quads q.val && !bit p.add.quads q.val)

/-- A quad that the gate kept back for a failing tile returns once remaps have been accepted for its pairs (21 R335). -/
def returnQuads (s : State) : State :=
  let back := (List.finRange 32).filter (fun q =>
    s.quadLoose q && (quadPairs s q).any (fun x => decide ((s.pair x.1).fails ≠ 0)) && !s.quadFails q)
  { s with freeRes := back.foldl (fun m q => m.or (Masks.one (.quad q))) s.freeRes }

/-- Once the gate has run on everything after module reset, the module runs and its PCIe link comes up (27 R383). -/
def bringUp (s : State) : State :=
  if s.boot = .gate ∧ s.scrubbing = [] then { s with boot := .running, pcieUp := !s.perst } else s

/-- The gate is done with a resource, which is free unless one of its tiles fails; after the last, RESIZE_DONE is
posted. -/
def execScrubGateDone (x : Resource) (fails : W32) (s : State) : Out :=
  if !s.scrubbing.contains x then .next s
  else match gatePending x s with
  | some t => .next t
  | none =>
    let s := scrub x fails { s with scrubbing := s.scrubbing.erase x }
    let s := if s.gatePasses x then { s with freeRes := s.freeRes.or (Masks.one x) } else s
    match s.releaser x with
    | none => .next (bringUp s)
    | some p =>
      let y := s.part p
      if y.rel.list.any s.scrubbing.contains then .next s
      else
        let s := s.setPart p { y with state := if y.en then .active else .unused, rel := Masks.none, rsz := Masks.none }
        .next (postInt (.part p) 3 0 0 (y.rid.zeroExtend 64) 0 s)

/-! ## Invalidation (21 R327) -/

/-- Typical ticks of an invalidation. -/
def tinvTicks : Nat := 3000

/-- Entries that a TINV write names. -/
def tinvHits (p : PartId) (v : W64) (e : TlbE) : Bool :=
  decide (e.part = p) &&
  match fld v 1 0 with
  | 0 => e.hit p (BitVec.ofNat 8 (fld v 9 2)) (BitVec.ofNat 64 (fld v 63 16 * 65536))
  | 1 => !e.s2 && decide (e.ctx.toNat = fld v 9 2)
  | _ => true

def execTinvWrite (p : PartId) (v : W64) (s : State) : Out :=
  let x := s.part p
  if !s.blockOpen (.part p) || !x.tinvDone || decide (fld v 1 0 = 3) then .next s
  else .next ((s.setPart p { x with tinv := v, tinvDone := false, tinvWait := none }).later tinvTicks (.tinvComplete p))

/-- Messages to other modules' memory that a channel has sent and whose acknowledgement it awaits. -/
def Channel.byPpa (ch : Channel) : List W32 := ((ch.unacked ++ ch.waiting).filter (fun m => m.ppa)).map (fun m => m.num)

/-- The last such message of each of a partition's channels. -/
def Partition.sentPpa (x : Partition) : List (Fin 64 × Fin 64 × W32) :=
  (List.finRange 64).flatMap (fun g => match x.groups.get g with
    | some y => (List.finRange 64).filterMap (fun r => ((y.chans.get r).byPpa.getLast?).map (fun n => (g, r, n)))
    | none => [])

/-- Entries of a core whose request has gone out and is not yet answered, by serial number. -/
def Core.asked (k : Core) : List Nat :=
  ((k.lde.toList ++ k.ste.toList).filter (fun a => a.sent)).map (fun a => a.q.id)
  ++ (k.copies.toList.filterMap id |>.filter (fun y => y.sent)).map (fun y => y.q.id)

/-- Such entries of a partition's cores. -/
def State.askedBy (s : State) (p : PartId) : List (CoreId × Nat) :=
  (List.finRange 128).flatMap (fun c =>
    if (s.core c).launch.isSome ∧ (s.coreCtx c).part = p then (s.core c).asked.map (fun n => (c, n)) else [])

/-- What a completion awaits, as far as it is still under way. -/
def stillOut (s : State) (p : PartId) (w : List (Fin 64 × Fin 64 × W32) × List (CoreId × Nat)) :
    List (Fin 64 × Fin 64 × W32) × List (CoreId × Nat) :=
  (w.1.filter (fun m => ((s.chan p m.1 m.2.1).map (fun ch => ch.byPpa.contains m.2.2)).getD false),
   w.2.filter (fun m => (s.core m.1).asked.contains m.2))

/-- Ticks between two looks at what an invalidation awaits. -/
def tinvLook : Nat := 64

/-- No entry is left, and every access that used one is performed: what this module performs is performed as its translation is used,
and what other modules perform is awaited. -/
def execTinvComplete (p : PartId) (s : State) : Out :=
  let x := s.part p
  if x.tinvDone then .next s
  else
    let s := if x.tinvWait.isNone then dropTlb (tinvHits p x.tinv) s else s
    let w := stillOut s p (x.tinvWait.getD (x.sentPpa, s.askedBy p))
    if w.1.isEmpty && w.2.isEmpty then .next (s.setPart p { x with tinvDone := true, tinvWait := none })
    else .next ((s.setPart p { x with tinvWait := some w }).later tinvLook (.tinvComplete p))

/-- A walk under way ends: its result enters the die's TLB, or its fault awaits the access that asked (21 R324), and the walker takes
the next miss (21 R326). -/
def execPageWalkComplete (d : DieId) (p : PartId) (ctx : Byte) (va : W64) (s : State) : Out :=
  let y := s.die d
  match y.walks.find? (fun w => w.begun && decide (w.part = p ∧ w.ctx = ctx ∧ w.va = va ∧ w.failed = false)) with
  | none => .next s
  | some w =>
    let s := s.setDie d { y with walks := y.walks.erase w }
    .next (beginWalks d (match s.walkVa d p ctx va with
      | .ok e => fillWalk d va e s
      | .error _ => s.setDie d { s.die d with walks := { w with failed := true } :: (s.die d).walks }))

/-! ## The binding table (21 R330, 20 R320) -/

/-- The tile of a BIND entry, indexed by partition-virtual core. -/
def State.bindTile (s : State) (p : PartId) (idx : Nat) : Option (Fin 1024) :=
  ((s.numbering p)[idx / 8]?).map (fun c => Fin.ofNat 1024 (8 * c.val + idx % 8))

/-- The host writes 1 to V: the tile is unbound. -/
def execBindUnbind (p : PartId) (idx : Fin 1024) (s : State) : Out :=
  if !s.blockOpen (.part p) then .next s
  else match s.bindTile p idx.val with
    | some t =>
      let x := s.part p
      .next (s.setPart p { x with bind := x.bind.set t.val none t.isLt })
    | none => .next s

end Sys2Proof.Machine
end

