-- ==== Sys2Proof/Machine/HostPort.lean ====
section
/-! DEFINITION. The host port: function-level reset, the host window, and the registers that have no event of their own
(spec 19 R291, R292, 21 R330, 22 R338 to R341, 25 R357, R358, 27 R375, 15 R276). -/

namespace Sys2Proof.Machine

open Sys2Proof

/-! ## Function-level reset (22 R339) -/

/-- Ticks until the function answers again. -/
def flrTicks : Nat := 160000

/-- The record of a slot that was queued is read, and its launch discarded; one that cannot be read leaves nothing. -/
def discardSlot (b : Block) (q : Fin 64) (x : Queue) (n : Nat) (s : State) : State :=
  let p := s.queuePart b q
  let seq := x.head + BitVec.ofNat 16 n
  match s.readVa ⟨p, x.ctx, 0, none⟩ (x.base + BitVec.ofNat 64 (128 * (seq.toNat % 2 ^ x.logn.toNat))) 128 with
  | .error _ => s
  | .ok (bs, s) =>
    let l := { Launch.fresh b q { x with head := seq } p (launchRecord bs) with state := .done, gang := .ended }
    let s := { s with launches := s.launches ++ [l] }
    if (l.record.get 4).toNat % 64 ≠ 0 then s else complete l 2 0x84 false 0 (launchFault l 0x84 0 0 s)

/-- Slots of a queue that are written and not read. -/
def discardQueued (b : Block) (q : Fin 64) (s : State) : State :=
  let x := s.queue b q
  if x.en then (List.range (min (x.tail - x.head).toNat 4096)).foldl (fun s n => discardSlot b q x n s) s else s

/-- Every launch of the partition that has not ended is discarded; of PF0's, those placed in it (19 R294, 22 R339). -/
def discardAll (p : PartId) (s : State) : State :=
  (List.range s.launches.length).foldl (fun s i =>
    match s.launch i with
    | some l =>
      if l.part = p ∧ l.state ≠ .done ∧ (l.blk ≠ .pf0 ∨ l.live) then endLaunch i 2 0x84 l.det (launchFault l 0x84 l.det 0 s) else s
    | none => s) s

/-- The partition block after a reset, BIND apart. -/
def Partition.flrReset (x : Partition) : Partition :=
  { x with blk := QBlock.reset, ctxt := 0, saveb := 0, tinvDone := true, tinv := 0, rsz := Masks.none, calr := false,
           sym := false, flr := true }

def execFlr (p : PartId) (s : State) : Out :=
  let s := (List.finRange 64).foldl (fun s q => discardQueued (.part p) q s) s
  let s := discardAll p s
  .next ((s.setPart p (s.part p).flrReset).later flrTicks (.flrReady p))

def execFlrReady (p : PartId) (s : State) : Out := .next (s.setPart p { s.part p with flr := false })

/-! ## The host window (22 R338) -/

/-- VA of a window offset. -/
def Partition.windowVa (x : Partition) (off : BitVec 36) : W64 := x.hwin + off.zeroExtend 64

/-- A faulting access of the window posts a record. -/
def windowFault (p : PartId) (f : AFault) (s : State) : State :=
  postFault (.part p) { code := f.code, src := 4, core := 0xFF, brth := 0, ctx := (s.part p).hwinCtx, queue := 0, seq := 0,
                        det := f.det, addr := f.addr } s

/-- Context of the window's accesses. -/
def State.windowCtx (s : State) (p : PartId) : Ctx := ⟨p, (s.part p).hwinCtx, 0, none⟩

/-- A host read returns bytes to the host, or Unsupported Request. -/
def execHostWindowRead (p : PartId) (off : BitVec 36) (n : Fin 4097) (s : State) : Out :=
  if !s.pcieUp || !s.blockOpen (.part p) then .next { s with hostData := none }
  else match s.readVa (s.windowCtx p) ((s.part p).windowVa off) n.val with
    | .ok (bs, t) => .next { t with hostData := some bs }
    | .error f => .next { windowFault p f s with hostData := none }

/-- A host write is performed, or dropped. -/
def execHostWindowWrite (p : PartId) (off : BitVec 36) (bs : List Byte) (s : State) : Out :=
  if !s.pcieUp || !s.blockOpen (.part p) then .next s
  else match s.writeVa (s.windowCtx p) ((s.part p).windowVa off) bs with
    | .ok t => .next t
    | .error f => .next (windowFault p f s)

/-! ## Registers (22 R341) -/

/-- A write to QCTL: while enabled LOGN and CTX keep their values. -/
def Queue.setCtl (x : Queue) (b : Block) (v : W64) : Queue :=
  let x := { x with wt := BitVec.ofNat 8 (fld v 15 8), part := if b = Block.pf0 then BitVec.ofNat 5 (fld v 28 24) else x.part }
  if x.en then { x with en := bit v 0 }
  else { x with en := bit v 0, logn := BitVec.ofNat 4 (fld v 4 1), ctx := BitVec.ofNat 8 (fld v 23 16) }

/-- A queue that is enabled is checked, and its slots read; so are those of a queue of PF0 that now serves another
partition. -/
def enableQueue (b : Block) (q : Fin 64) (s : State) : State :=
  let x := s.queue b q
  if !x.en then s
  else if x.overfull then stopQueue b q x.head 0x86 0 s
  else if x.head ≠ x.tail then readLater b q s else s

def IFQueue.setCtl (x : IFQueue) (v : W64) : IFQueue :=
  { x with en := bit v 0, logn := BitVec.ofNat 4 (fld v 4 1), vec := BitVec.ofNat 6 (fld v 13 8) }

/-- Bits [63:12]. -/
def pageOf (v : W64) : W64 := v &&& ~~~0xFFF

/-- A write to the MSI-X table: address, or data with the mask; a vector that is unmasked pends no more, since its message goes
(PRESUMED, log 92). -/
def QBlock.setMsix (x : QBlock) (n : Fin 64) (hi : Bool) (v : W64) : QBlock :=
  let e := x.msixTab.get n
  { x with msixTab := x.msixTab.set n.val (if hi then (e.1, v) else (v, e.2)) n.isLt,
           msixPend := if hi && !bit v 32 then x.msixPend &&& ~~~(1#64 <<< n.val) else x.msixPend }

/-- A write to a register of a queue block. -/
def writeQueueReg (r : HostReg) (v : W64) (s : State) : State :=
  match r with
  | .qbase b q => let x := s.queue b q; if x.en then s else s.setQueue b q { x with base := pageOf v }
  | .qctl b q => let x := s.queue b q; enableQueue b q (s.setQueue b q (x.setCtl b v))
  | .qstat b q => let x := s.queue b q; s.setQueue b q { x with err := x.err && !bit v 0 }
  | .iqbase b => s.setBlock b { s.block b with iq := { (s.block b).iq with base := pageOf v } }
  | .iqctl b => s.setBlock b { s.block b with iq := (s.block b).iq.setCtl v }
  | .iqhead b => s.setBlock b { s.block b with iq := { (s.block b).iq with head := v.truncate 16 } }
  | .fqbase b => s.setBlock b { s.block b with fq := { (s.block b).fq with base := pageOf v } }
  | .fqctl b => s.setBlock b { s.block b with fq := (s.block b).fq.setCtl v }
  | .fqhead b => s.setBlock b { s.block b with fq := { (s.block b).fq with head := v.truncate 16 } }
  | .msix b n hi => s.setBlock b ((s.block b).setMsix n hi v)
  | _ => s

/-! ## BAR 0 of the functions (22 R338) -/

/-- Registers of a queue block, by their offset: launch queues, GCTL, interrupt and fault queues (19 R291, 21 R330). -/
def queueAt (b : Block) (off : Nat) : HostReg :=
  let q := Fin.ofNat 64 (off / 64)
  if off < 0x1000 then
    match off % 64 with
    | 0x00 => .qbase b q
    | 0x08 => .qctl b q
    | 0x10 => .qtail b q
    | 0x18 => .qhead b q
    | 0x20 => .qstat b q
    | _ => .unassigned
  else match off with
    | 0x1000 => .gctl b
    | 0x2000 => .iqbase b
    | 0x2008 => .iqctl b
    | 0x2010 => .iqhead b
    | 0x2018 => .iqtail b
    | 0x2040 => .fqbase b
    | 0x2048 => .fqctl b
    | 0x2050 => .fqhead b
    | 0x2058 => .fqtail b
    | 0x2060 => .fqovf b
    | _ => .unassigned

/-- The MSI-X table at an offset, and the pending bits 4 KiB behind it. -/
def msixAt (b : Block) (off : Nat) : HostReg :=
  if off < 0x400 ∧ off % 8 = 0 then .msix b (Fin.ofNat 64 (off / 16)) (decide (off % 16 = 8))
  else if off = 0x1000 then .pba b else .unassigned

/-- A virtual function's BAR 0. -/
def partAt (p : PartId) (off : Nat) : HostReg :=
  if off < 0x2100 then queueAt (.part p) off
  else if off = 0x2100 then .ctxt p
  else if off = 0x2108 then .saveb p
  else if off = 0x2110 then .tinv p
  else if 0x2200 ≤ off ∧ off < 0x2240 ∧ off % 8 = 0 then .rsz p (Fin.ofNat 8 ((off - 0x2200) / 8))
  else if off = 0x2240 then .rszack p
  else if 0x2800 ≤ off ∧ off < 0x3000 ∧ off % 2 = 0 then .bind p (Fin.ofNat 1024 ((off - 0x2800) / 2))
  else if off = 0x3000 then .mntpol p
  else if off = 0x10000 then .hwin p
  else if 0x20000 ≤ off ∧ off < 0x40000 ∧ off % 2 = 0 then
    .latency p (Fin.ofNat 128 ((off - 0x20000) / 1024)) (Fin.ofNat 512 ((off - 0x20000) / 2 % 512))
  else if 0x80000 ≤ off ∧ off < 0x100000 then msixAt (.part p) (off - 0x80000)
  else .unassigned

/-- Registers of a partition-table entry. -/
def ptAt (off : Nat) : Option PtReg :=
  match off with
  | 0x00 => some .ctl
  | 0x08 => some .s2
  | 0x10 => some .quad
  | 0x18 => some (.l2 0)
  | 0x20 => some (.l2 1)
  | 0x28 => some (.l2m 0)
  | 0x30 => some (.l2m 1)
  | 0x38 => some .hbm
  | 0x40 => some (.sync 0)
  | 0x48 => some (.sync 1)
  | 0x50 => some (.sync 2)
  | 0x58 => some (.sync 3)
  | 0x60 => some .mem
  | 0x68 => some .ingb
  | 0x70 => some .fab
  | _ => none

/-- An entry's registers, and the twins of its masks. -/
def entryAt (p : PartId) (off : Nat) : HostReg :=
  match off / 256, ptAt (off % 256) with
  | 0, some r => .pt p r
  | 1, some r => if isMask r then .ptAdd p r else .unassigned
  | 2, some r => if isMask r then .ptRel p r else .unassigned
  | _, _ => .unassigned

/-- A quad's power registers: their MFSP numbers times 8, less 0x800. -/
def quadAt (q : QuadId) (off : Nat) : HostReg :=
  if off < 0x180 ∧ off % 8 = 0 then .qpew q (Fin.ofNat 48 (off / 8))
  else match off with
    | 0x180 => .qpest q
    | 0x188 => .qplvl q
    | 0x190 => .qpslk q
    | _ => .unassigned

/-- The mailbox (27 R375). -/
def mailboxAt (off : Nat) : HostReg :=
  if off = 0 then .mbcmd
  else if off = 8 then .mbst
  else if 0x10 ≤ off ∧ off < 0x30 ∧ off % 8 = 0 then .mbarg (Fin.ofNat 4 ((off - 0x10) / 8))
  else if 0x1000 ≤ off ∧ off < 0x21000 ∧ off % 8 = 0 then .mbbuf (Fin.ofNat 16384 ((off - 0x1000) / 8))
  else .unassigned

/-- The maintenance registers (25 R357). -/
def maintenanceAt (off : Nat) : HostReg :=
  if off < 17408 ∧ off % 16 = 0 then .mntst (Fin.ofNat 1088 (off / 16))
  else if off < 17408 ∧ off % 16 = 8 then .mntstTimes (Fin.ofNat 1088 (off / 16))
  else if off = 0x8000 then .mntctl else .unassigned

/-- PF0's BAR 0. -/
def pf0At (off : Nat) : HostReg :=
  let low := off % 0x100000
  match off / 0x100000 with
  | 0 => match off with
    | 0x00 => .modid
    | 0x08 => .domctl
    | 0x10 => .domst
    | 0x18 => .dommem
    | _ => .unassigned
  | 1 => if low < 0x8000 then entryAt (Fin.ofNat 32 (low / 1024)) (low % 1024) else .unassigned
  | 2 => if low < 0x4000 then quadAt (Fin.ofNat 32 (low / 512)) (low % 512) else .unassigned
  | 3 => if low < 0xC00 ∧ low % 64 = 0 then .bport (Fin.ofNat 48 (low / 64)) else .unassigned
  | 4 => mailboxAt low
  | 5 => maintenanceAt low
  | 6 => queueAt .pf0 low
  | 8 => msixAt .pf0 low
  | _ => .unassigned

/-- A queue register that its block does not have (19 R294). -/
def absentReg : HostReg → Bool
  | .qbase b q | .qctl b q | .qstat b q | .qtail b q | .qhead b q => !hasQueue b q
  | _ => false

/-- The register at an offset of BAR 0; one that its block does not have is unassigned. -/
def regOf : HostReg → HostReg
  | .bar0 b off =>
    let r := match b with
      | .part p => partAt p off.toNat
      | .pf0 => pf0At off.toNat
    if absentReg r then .unassigned else r
  | r => if absentReg r then .unassigned else r

/-- Block of a queue register, if it exists there. -/
def regBlock : HostReg → Option Block
  | .qbase b _ | .qctl b _ | .qstat b _ | .qtail b _ | .qhead b _ | .msix b .. | .pba b => some b
  | .iqbase b | .iqctl b | .iqhead b | .fqbase b | .fqctl b | .fqhead b | .fqovf b | .gctl b | .iqtail b | .fqtail b => some b
  | .ctxt p | .saveb p | .hwin p | .mntpol p | .tinv p | .rsz p _ | .rszack p | .bind p _ | .latency p .. => some (.part p)
  | _ => none

/-- A write to a register of a partition's window. -/
def writePartReg (r : HostReg) (v : W64) (s : State) : State :=
  match r with
  | .ctxt p => s.setPart p { s.part p with ctxt := BitVec.ofNat 64 (fld v 47 12 * 4096) }
  | .saveb p => s.setPart p { s.part p with saveb := BitVec.ofNat 64 (fld v 47 34 * 2 ^ 34) }
  | .hwin p => s.setPart p { s.part p with hwinCtx := v.truncate 8, hwin := BitVec.ofNat 64 (fld v 63 36 * 2 ^ 36) }
  | .mntpol p => s.setPart p { s.part p with calr := bit v 0, sym := bit v 1 }
  | _ => s

/-- Bit of a module in DOMMEM. -/
def modBit (m : BitVec 6) : BitVec 49 := 1#49 <<< m.toNat

/-- A write to a register of the module. -/
def writeModuleReg (r : HostReg) (v : W64) (s : State) : State :=
  match r with
  | .modid =>
    if s.dom = .alone ∧ fld v 5 0 ≤ 48 then { s with modid := v.truncate 6, domMods := modBit (v.truncate 6) } else s
  | .qpew q n => s.setQuad q (writeQuad (.qpew n) v (s.quad q))
  | .qpest q => s.setQuad q (writeQuad .qpest v (s.quad q))
  | .qplvl q => s.setQuad q (writeQuad .qplvl v (s.quad q))
  | .qpslk q => s.setQuad q (writeQuad .qpslk v (s.quad q))
  | .mntctl =>
    { s with calPer := v.truncate 16, symPer := BitVec.ofNat 16 (fld v 31 16), symP := BitVec.ofNat 16 (fld v 43 32),
             mntEn := bit v 48 }
  | .mbarg n => { s with mbox := { s.mbox with args := s.mbox.args.set n.val v n.isLt } }
  | .mbbuf n => { s with mbox := { s.mbox with buf := s.mbox.buf.setWord (8 * n.val) v,
                                               filled := max s.mbox.filled (8 * n.val + 8) } }
  | .veclvl =>
    let n := v.toNat % 256
    s.push (List.replicate (n - s.freq) (Ev.vecStepChange true) ++ List.replicate (s.freq - n) (Ev.vecStepChange false))
  | _ => s

/-- The events of a write to a register that has its own (19 R291, 21 R328 to R330, 22 R341, R343, 25 R357, 27 R376). -/
def writeEvents (r : HostReg) (v : W64) : List Ev :=
  match r with
  | .qtail b q => [.qtailWrite b q (v.truncate 16)]
  | .gctl b =>
    let q := Fin.ofNat 64 (fld v 13 8)
    let n := BitVec.ofNat 16 (fld v 31 16)
    if fld v 1 0 = 1 then [.gctlResume b q n] else if fld v 1 0 = 2 then [.gctlDiscard b q n] else []
  | .tinv p => [.tinvWrite p v]
  | .rszack p => [.rszackWrite p (v.truncate 16)]
  | .bind p i => if bit v 8 then [.bindUnbind p i] else []
  | .pt p x => [.partitionTableWrite p x v]
  | .ptAdd p x => [.addTwinWrite p x v]
  | .domctl => (if bit v 0 then [.domainJoin] else []) ++ (if bit v 1 then [.domainLeave] else [])
  | .bport n => [.bportEnableWrite n (bit v 0)]
  | .mntst t => if bit v 2 then [.wornSet t] else []
  | .mbcmd => match fld v 7 0 with
    | 1 => [.readhealth] | 2 => [.readtotals] | 3 => [.readcert] | 4 => [.quote] | 5 => [.signman] | 6 => [.install]
    | 7 => [.remap] | 8 => [.loadfw]
    | n => [.mailboxBadOp (BitVec.ofNat 8 n)]
  | _ => []

/-- A write to a register: its RW fields are set, reserved and RO fields are not (00 R4, R6). The deadline of a resize is firmware's
choice, a free value where the write names none (21 R334). No function answers before the PCIe link is up (27 R383). -/
def execRegisterWrite (r : HostReg) (v : W64) (s : State) : Out :=
  let r := regOf r
  if !s.pcieUp then .next s
  else match regBlock r, r with
  | _, .ptRel p x =>
    let (d, s) := s.draw
    .next (s.push [.relTwinWrite p x v d])
  | some b, _ => if s.blockOpen b then .next ((writePartReg r v (writeQueueReg r v s)).push (writeEvents r v)) else .next s
  | none, _ => .next ((writeModuleReg r v s).push (writeEvents r v))

/-! ## What a read returns (00 R4, R6) -/

/-- Fields of a register, each with its lowest bit. -/
def fields (l : List (Nat × Nat)) : W64 := BitVec.ofNat 64 ((l.map (fun x => x.2 * 2 ^ x.1)).sum)

def Queue.ctl (x : Queue) (b : Block) : W64 :=
  fields [(0, b2n x.en), (1, x.logn.toNat), (8, x.wt.toNat), (16, x.ctx.toNat), (24, if b = .pf0 then x.part.toNat else 0)]
def IFQueue.ctl (x : IFQueue) : W64 := fields [(0, b2n x.en), (1, x.logn.toNat), (8, x.vec.toNat)]

def PState.num : PState → Nat
  | .unused => 0 | .active => 1 | .releasing => 2 | .scrubbing => 3
def DomState.num : DomState → Nat
  | .alone => 0 | .joining => 1 | .joined => 2 | .lost => 3
def PortState.num : PortState → Nat
  | .off => 0 | .down => 1 | .training => 2 | .up => 3 | .retraining => 4

/-- The registers RSZQ, RSZL2, RSZHBM and RSZSYNC in the order of their offsets. -/
def rszReg (n : Fin 8) : PtReg :=
  match n.val with
  | 0 => .quad
  | 1 => .l2 0
  | 2 => .l2 1
  | 3 => .hbm
  | k => .sync (Fin.ofNat 4 (k - 4))

/-- A register of a partition-table entry. -/
def Partition.reg (x : Partition) : PtReg → W64
  | .ctl => fields [(0, b2n x.en), (1, x.state.num), (4, b2n x.err), (5, b2n x.host), (8, x.ecode.toNat)]
  | .s2 => x.s2
  | .mem => fields [(0, x.chil.toNat), (4, x.rdcs.toNat)]
  | .ingb => x.ingb.zeroExtend 64
  | .fab => fields [(0, x.mods.toNat), (56, x.maxg.toNat)]
  | r => x.held.reg r

/-- The entry of a tile in the binding table (21 R330). -/
def bindEntry (s : State) (p : PartId) (i : Nat) : W64 :=
  match (s.bindTile p i).bind (fun t => (s.part p).bind.get t) with
  | some c => fields [(0, c.toNat), (8, 1)]
  | none => 0

/-- The latency table as the function window shows it (13 R244, 22 R338). DESIGN CHOICE (log 80): a core number that the partition does
not have reads as a slice that it does not hold, 0xFFFF. -/
def tableEntry (s : State) (p : PartId) (c slice : Nat) : W64 :=
  match (s.partCores p)[c]? with
  | some k => if (s.part p).held.l2Stg (slice / 4) then BitVec.ofNat 64 (latEntry k slice) else 0xFFFF
  | none => 0xFFFF

/-- The value of a register: WO and reserved fields read as zero. -/
def hostRegister (s : State) (r : HostReg) : W64 :=
  match r with
  | .qbase b q => (s.queue b q).base
  | .qctl b q => (s.queue b q).ctl b
  | .qtail b q => (s.queue b q).tail.zeroExtend 64
  | .qhead b q => (s.queue b q).head.zeroExtend 64
  | .qstat b q => fields [(0, b2n (s.queue b q).err), (8, (s.queue b q).code.toNat)]
  | .iqbase b => (s.block b).iq.base
  | .iqctl b => (s.block b).iq.ctl
  | .iqhead b => (s.block b).iq.head.zeroExtend 64
  | .iqtail b => (s.block b).iq.tail.zeroExtend 64
  | .fqbase b => (s.block b).fq.base
  | .fqctl b => (s.block b).fq.ctl
  | .fqhead b => (s.block b).fq.head.zeroExtend 64
  | .fqtail b => (s.block b).fq.tail.zeroExtend 64
  | .fqovf b => (s.block b).fq.ovf.zeroExtend 64
  | .ctxt p => (s.part p).ctxt
  | .saveb p => (s.part p).saveb
  | .hwin p => fields [(0, (s.part p).hwinCtx.toNat)] + (s.part p).hwin
  | .mntpol p => fields [(0, b2n (s.part p).calr), (1, b2n (s.part p).sym)]
  | .tinv p => fields [(10, b2n (s.part p).tinvDone)]
  | .rsz p n => (s.part p).rsz.reg (rszReg n)
  | .bind p i => bindEntry s p i.val
  | .latency p c n => tableEntry s p c.val n.val
  | .pt p x => (s.part p).reg x
  | .ptAdd p x => (s.part p).add.reg x
  | .ptRel p x => (s.part p).rel.reg x
  | .modid => s.modid.zeroExtend 64
  | .domst => fields [(0, s.dom.num), (2, b2n s.domLock), (8, s.domOffs.toNat)]
  | .dommem => s.domMods.zeroExtend 64
  | .qpew q n => readQuad (s.quad q) (.qpew n)
  | .qpest q => readQuad (s.quad q) .qpest
  | .qplvl q => readQuad (s.quad q) .qplvl
  | .qpslk q => readQuad (s.quad q) .qpslk
  | .bport n =>
    let x := s.ports.get n
    fields [(0, b2n x.en), (1, x.state.num), (4, x.peer.toNat), (16, x.rtr.toNat), (32, x.rpl.toNat)]
  | .mntst t =>
    let p := s.pair t
    fields [(0, b2n p.insv), (1, b2n p.spare), (2, b2n p.worn), (3, p.fails.toNat), (16, p.tile.val)]
  | .mntstTimes t => fields [(0, (s.pair t).lcal.toNat / 2 ^ 20 % 2 ^ 32), (32, (s.pair t).lsym.toNat / 2 ^ 20 % 2 ^ 32)]
  | .mntctl => fields [(0, s.calPer.toNat), (16, s.symPer.toNat), (32, s.symP.toNat % 4096), (48, b2n s.mntEn)]
  | .mbst => fields [(0, b2n s.mbox.busy), (1, b2n s.mbox.err), (8, s.mbox.code.toNat), (32, s.mbox.len.toNat)]
  | .mbarg n => s.mbox.args.get n
  | .mbbuf n => s.mbox.buf.word (8 * n.val)
  | .veclvl => BitVec.ofNat 64 s.freq
  | .msix b n hi => let e := (s.block b).msixTab.get n; if hi then e.2 else e.1
  | .pba b => (s.block b).msixPend
  | .gctl _ | .rszack _ | .domctl | .mbcmd | .unassigned | .bar0 .. => 0

/-- The RC fields of a register are cleared. -/
def clearOnRead (r : HostReg) (s : State) : State :=
  match r with
  | .fqovf b => s.setBlock b { s.block b with fq := { (s.block b).fq with ovf := 0 } }
  | .bport n => { s with ports := s.ports.set n.val { s.ports.get n with rtr := 0, rpl := 0 } n.isLt }
  | _ => s

/-- A read of a register returns its value, and then clears its RC fields; no function answers before the PCIe link is up (27 R383). -/
def execRcRegisterRead (r : HostReg) (s : State) : Out :=
  let r := regOf r
  if !s.pcieUp then .next { s with hostData := none }
  else match (regBlock r).filter (fun b => !s.blockOpen b) with
  | some _ => .next { s with hostData := none }
  | none => .next { clearOnRead r s with hostData := some (toBytes 8 (hostRegister s r).toNat) }

end Sys2Proof.Machine
end

