-- ==== Sys2Proof/Machine/Domain.lean ====
section
/-! DEFINITION. The domain and its time, Bluvy ports and routes (spec 22 R341 to R346). -/

namespace Sys2Proof.Machine

open Sys2Proof

/-! ## Routes (22 R345) -/

/-- A port of this module to a module is up. -/
def State.direct (s : State) (m : Nat) : Bool := s.ports.toList.any (fun x => decide (x.state = .up ∧ x.peer.toNat = m))

/-- A module has told that it is in no domain any more: its own bit of the port states that it sends. DESIGN CHOICE (log 89): R342 makes
it absent to every other module and does not say how they learn of it. -/
def State.gone (s : State) (m : Nat) : Bool := bit (s.peerUps.get (Fin.ofNat 49 m)) m

/-- A module of the domain is reachable, directly or over one other. -/
def State.reaches (s : State) (m : Nat) : Bool :=
  !s.gone m && (s.direct m || (List.range 49).any (fun k => s.direct k && bit (s.peerUps.get (Fin.ofNat 49 k)) m))

/-- DOMMEM: this module, and while it is joined the modules that are reachable. -/
def State.reachable (s : State) : BitVec 49 :=
  if s.dom = .joined then
    (List.range 49).foldl (fun a m => if s.reaches m then a ||| (1#49 <<< m) else a) (modBit s.modid)
  else modBit s.modid

/-- Something unacknowledged of a channel was last sent by another port than the path takes now. -/
def Channel.strays (ch : Channel) (via : Option (Fin 48)) : Bool :=
  ch.unacked.any (fun m => decide (m.via ≠ via)) || ch.unackedFlags.any (fun m => decide (m.via ≠ via))

/-- Channels to other modules whose path has changed and stands. -/
def State.pathChanges (s : State) : List Ev :=
  (List.finRange 32).flatMap (fun p => (List.finRange 64).flatMap (fun g =>
    match (s.part p).groups.get g with
    | none => []
    | some x => (List.finRange 64).filterMap (fun r =>
        let via := s.portTo (x.mod r.val)
        if !s.isSelf x r.val && via.isSome && (x.chans.get r).strays via then some (.fabricResend p g r) else none)))

/-- The routes as the ports stand: DOMMEM follows, and what a changed path has left unacknowledged is sent again (22 R345). -/
def reroute (s : State) : State := ({ s with domMods := s.reachable } : State).push s.pathChanges

def State.port (s : State) (n : Fin 48) : Port := s.ports.get n
def State.setPort (s : State) (n : Fin 48) (x : Port) : State := { s with ports := s.ports.set n.val x n.isLt }

/-! ## Domain and time (22 R341, R342) -/

/-- The module is lost to its domain. -/
def lose (s : State) : State :=
  let (v, s) := s.draw
  everyFault 0x03 5 v 0 (reroute { s with dom := .lost })

/-- Is joined. -/
def joined (s : State) : State := reroute { s with dom := .joined }

/-- A JOIN write: with no module joined this one is the master, which a module with no link up knows; otherwise the
exchanges tell (log 30). -/
def execDomainJoin (s : State) : Out :=
  if s.boot ≠ .running ∨ s.dom ≠ .alone ∨ !s.domLock ∨ s.parts.toList.any (fun p => p.en) then .next s
  else
    let (v, t) := s.draw
    if s.ports.toList.all (fun x => decide (x.state ≠ .up)) then .next (joined { s with domOffs := 0 })
    else if bit v 0 then .next (joined { t with domOffs := 0 })
    else .next { t with dom := .joining, joinRounds := 0, joinSum := 0 }

def execDomainLeave (s : State) : Out := .next (reroute { s with dom := .alone })

/-- A gated quad's time of gating, some ticks on. -/
def QPower.shift (n : W64) : QPower → QPower
  | .gated t w => .gated (t + n) w
  | x => x

/-- CYC steps once by a number of ticks; what is due, and what runs since a tick or to one, keeps its distance. -/
def stepCyc (i : Int) (s : State) : State :=
  let n := BitVec.ofInt 64 i
  { s with cyc := s.cyc + n, inputs := s.inputs.map (fun x => (x.1 + n, x.2)), stopEnd := s.stopEnd + n,
           ports := s.ports.map (fun x => { x with since := x.since + n }), writing := s.writing.map (fun t => t + n),
           gate := s.gate.map (fun x => (x.1, x.2.map (fun t => t + n))),
           quads := s.quads.map (fun x => { x with power := x.power.shift n }),
           pairs := s.pairs.map (fun x => { x with busyUntil := x.busyUntil + n }) }

/-- The mean of the sixteen offsets, a fraction up or down (log 30). -/
def meanOffset (sum : Int) (up : Bool) : Int := if sum % 16 ≠ 0 ∧ up then sum / 16 + 1 else sum / 16

/-- One two-way exchange: a joining module adds its offset and after the sixteenth steps CYC and is joined; the time
master answers, which changes nothing here. -/
def execTimeExchange (off : W64) (s : State) : Out :=
  if s.dom ≠ .joining then .next s
  else
    let s := { s with joinRounds := s.joinRounds + 1, joinSum := s.joinSum + off.toInt }
    if s.joinRounds < 16 then .next s
    else
      let (v, s) := s.draw
      let m := meanOffset s.joinSum (bit v 0)
      .next (joined { stepCyc m s with domOffs := BitVec.ofInt 8 m })

/-- A measurement of a joined module; beyond 8 ticks it is lost. -/
def execOffsetMeasure (off : Byte) (s : State) : Out :=
  if s.dom ≠ .joined then .next s
  else
    let s := { s with domOffs := off }
    .next (if 8 < off.toInt ∨ off.toInt < -8 then lose s else s)

def execPllLockLoss (s : State) : Out :=
  let s := { s with domLock := false }
  .next (if s.dom = .joined then lose s else s)

def execFabricPllLock (s : State) : Out := .next { s with domLock := true }

/-! ## Ports (22 R343, R344) -/

/-- Ticks without training, and between tries of a port that is down. -/
def trainTicks : Nat := 160000
def downTicks : Nat := 1600000

/-- Training begins. -/
def train (n : Fin 48) (s : State) : State :=
  (s.setPort n { s.port n with state := .training, peer := 0x3F, fails := 0, since := s.cyc }).later trainTicks (.trainingTimeout n)

/-- Firmware enables or disables a port; no link starts while the module boots or is in recovery (27 R377). -/
def execBportEnableWrite (n : Fin 48) (en : Bool) (s : State) : Out :=
  let x := s.port n
  if s.boot ≠ .running then .next s
  else if en then .next (if x.state = .off then train n (s.setPort n { x with en := true }) else s)
  else .next (reroute (s.setPort n { x with en := false, state := .off, peer := 0x3F, fails := 0 }))

def execLinkTrained (n : Fin 48) (peer : BitVec 6) (s : State) : Out :=
  let x := s.port n
  .next (if x.state = .training then reroute (s.setPort n { x with state := .up, peer := peer, fails := 0 }) else s)

def execTrainingTimeout (n : Fin 48) (s : State) : Out :=
  let x := s.port n
  if x.state = .training ∧ trainTicks ≤ since s x.since then
    .next ((s.setPort n { x with state := .down, since := s.cyc }).later downTicks (.downRetry n))
  else .next s

/-- The port retrains, which is counted. -/
def execLinkError (n : Fin 48) (s : State) : Out :=
  let x := s.port n
  if x.state = .up then
    let x := { x with state := .retraining, rtr := if x.rtr = 0xFFFF then x.rtr else x.rtr + 1 }
    .next (reroute (bump (hRetrain n.val) 1 (s.setPort n x)))
  else .next s

/-- A retrain ends; the third failure in a row takes the port down, with a record to every partition. -/
def execRetrainResult (n : Fin 48) (ok : Bool) (s : State) : Out :=
  let x := s.port n
  if x.state ≠ .retraining then .next s
  else if ok then .next (reroute (s.setPort n { x with state := .up, fails := 0 }))
  else if x.fails + 1 < 3 then .next (s.setPort n { x with fails := x.fails + 1 })
  else
    let s := (s.setPort n { x with state := .down, peer := 0x3F, fails := 0, since := s.cyc }).later downTicks (.downRetry n)
    .next (everyFault 0x03 5 (BitVec.ofNat 64 n.val) 0 (reroute (bump (hUncorr 11) 1 s)))

def execDownRetry (n : Fin 48) (s : State) : Out :=
  let x := s.port n
  .next (if x.state = .down ∧ downTicks ≤ since s x.since then train n s else s)

/-- A flit is replayed, which is counted, as a corrected error too (27 R372, R373). -/
def execFlitReplay (n : Fin 48) (s : State) : Out :=
  let x := s.port n
  .next (bump (hCorr 11) 1 (s.setPort n { x with rpl := if x.rpl = 0xFFFFFFFF then x.rpl else x.rpl + 1 }))

/-- Port states of another module. -/
def execPortStateFlit (m : BitVec 6) (ups : BitVec 49) (s : State) : Out :=
  if h : m.toNat < 49 then .next (reroute { s with peerUps := s.peerUps.set m.toNat ups h }) else .next s

end Sys2Proof.Machine
end

