-- ==== Sys2Proof/Machine/Fabric.lean ====
section
/-! DEFINITION. Address groups and what arrives from other modules: AGSET's install, release flags, fabric writes and
requests (spec 09 R165, R186, R187, 22 R345 to R348). -/

namespace Sys2Proof.Machine

open Sys2Proof

/-! ## Installing a group (09 R187, 22 R347) -/

/-- The record at an own-LM address. -/
def groupRecord (k : Core) (a : Nat) : Vector W64 64 :=
  ⟨((List.range 64).map (fun i => k.word (a % 2 ^ 22 + 8 * i))).toArray, by simp⟩

/-- Defects of word 8 + i of a group record, each with the offset of its field. -/
def memberDefects (s : State) (p : PartId) (g : Fin 64) (x : Group) (i : Nat) : List (Nat × Bool) :=
  let w := x.record.get (Fin.ofNat 64 (8 + i))
  let o := 64 + 8 * i
  if x.nmem ≤ i then [(o, decide (w ≠ 0))]
  else
    let m := x.mod i
    let others := (List.finRange 64).filterMap (fun j => if j = g then none else (s.part p).groups.get j)
    [(o, !bit (s.part p).mods m || (List.range i).any (fun j => decide (x.mod j = m))
        || (decide (i = x.rank) && decide (m ≠ s.modid.toNat)) || decide (fld w 7 6 ≠ 0)),
     (o + 1, (decide (i = x.rank) && decide (x.part i ≠ p.val)) || decide (fld w 63 13 ≠ 0)
        || others.any (fun y => match y.rankOf m with
             | some k => decide (y.part k ≠ x.part i)
             | none => false))]

/-- All defects, in order of offset; a group index at or above MAXG stands past the record. -/
def groupDefects (s : State) (p : PartId) (g : Fin 64) (x : Group) : List (Nat × Bool) :=
  let w := fun (i : Nat) => x.record.get (Fin.ofNat 64 i)
  [(0, decide (x.nmem = 0 ∨ 49 < x.nmem ∨ fld (w 0) 7 6 ≠ 0)), (1, decide (x.nmem ≤ x.rank ∨ fld (w 0) 63 14 ≠ 0)),
   (8, decide (fld (w 1) 11 0 ≠ 0)), (17, decide (fld (w 2) 63 8 ≠ 0))]
  ++ [3, 4, 5, 6, 7].map (fun i => (8 * i, decide (w i ≠ 0)))
  ++ (List.range 56).flatMap (memberDefects s p g x)
  ++ [(512, decide ((s.part p).maxg.toNat ≤ g.val))]

def Channel.zero : Channel :=
  { scnt := 0, sseq := 0, rcnt := 0, rseq := 0, unacked := [], waiting := [], ahead := [], unackedFlags := [], heldFlags := [], early := [] }

/-- ACQW commands that wait on a group. -/
def acqwOn (s : State) (p : PartId) (g : Fin 64) : List (CoreId × Fin 8 × Copy) :=
  (List.finRange 128).flatMap (fun c =>
    if (s.core c).launch.isSome && decide ((s.coreCtx c).part = p) then
      (List.finRange 8).filterMap (fun i => match (s.core c).copies.get i with
        | some y => (match y.q.ins, y.srcPlace with
            | .acqw .., .member h _ => if h = g then some (c, i, y) else none
            | _, _ => none)
        | none => none)
    else [])

/-- A group is reset: every ACQW that waits on it ends with GROUP_DOWN (09 R186). -/
def groupDown (p : PartId) (g : Fin 64) (s : State) : State :=
  (acqwOn s p g).foldl (fun s x => endPlain x.1 x.2.1 x.2.2.q (some ⟨0x0A, BitVec.ofNat 64 g.val⟩) 0 s) s

/-- The first AGSET of a core whose wait has ended. -/
def agsetReady (k : Core) : Option (Fin 8 × Copy) :=
  (List.finRange 8).findSome? (fun i => match k.copies.get i with
    | some y => (match y.q.ins with
        | .agset .. => if y.sent then some (i, y) else none
        | _ => none)
    | none => none)

def execAgsetInstall (c : CoreId) (s : State) : Out :=
  match agsetReady (s.core c) with
  | none => .next s
  | some (i, y) =>
    let p := (s.coreCtx c).part
    let g := Fin.ofNat 64 (val0 y.q 0).toNat
    match s.lmErr c (val0 y.q 1).toNat 512 with
    | some l => .next (endPlain c i y.q (some ⟨0x02, BitVec.ofNat 64 l⟩) 0 (bump (hUncorr 0) 1 s))
    | none =>
    let x : Group := { record := groupRecord (s.core c) (val0 y.q 1).toNat, chans := .replicate 64 Channel.zero }
    match (groupDefects s p g x).find? (fun d => d.2) with
    | some d => .next (endPlain c i y.q (some ⟨0x0B, BitVec.ofNat 64 d.1⟩) 0 s)
    | none =>
      let s := groupDown p g s
      let s := s.setPart p { s.part p with groups := (s.part p).groups.set g.val (some x) g.isLt }
      .next (endPlain c i y.q none 0 s)

/-! ## Addresses of the other-module window (22 R348) -/

/-- A range of a partition's PPAs, through stage 2 alone. -/
def State.ppaSegs (s : State) (p : PartId) (rd wr : Bool) : Nat → W64 → Nat → Acc? (List Seg)
  | 0, _, _ => .ok []
  | fuel + 1, ppa, n => do
    if n = 0 then .ok []
    else
      let (size, base, r, w) ← s.stage2 p ppa ppa.toNat
      let a := base + ppa.toNat % size
      if (rd && !r) || (wr && !w) then .error (.xlate ppa)
      else match s.site p a with
        | none => .error (.xlate ppa)
        | some site =>
          let k := min n (pageBytes - ppa.toNat % pageBytes)
          let rest ← s.ppaSegs p rd wr fuel (ppa + BitVec.ofNat 64 k) (n - k)
          .ok (⟨ppa, k, a, site⟩ :: rest)

/-- A range that another module names, by VA in FCTX or by PPA; a module outside PTFAB.MODS reaches none. -/
def arriving (s : State) (p : PartId) (x : Group) (from_ : Nat) (ppa rd wr : Bool) (va : W64) (n : Nat) : Acc? (List Seg) :=
  if ppa then (if bit (s.part p).mods from_ then s.ppaSegs p rd wr (n / pageBytes + 2) va n else .error (.xlate va))
  else do
    let l ← s.ranges ⟨p, x.fctx, 0, none⟩ rd wr [(va, n)]
    .ok (l.map (fun g => g.1))

/-- The dies that what comes from a module for an address enters: that of the port, and that of the address (15 R280). -/
def portDies (s : State) (m : Nat) (l : Acc? (List Seg)) : List DieId :=
  let d := s.portDie m
  match l with
  | .ok (g :: _) => if s.siteDie g.dpa g.site = d then [d] else [d, s.siteDie g.dpa g.site]
  | _ => [d]

/-- Ticks to the next interval. -/
def State.nextInterval (s : State) : Nat := 1024 - s.cyc.toNat % 1024

/-! ## Release flags (09 R186) -/

def execRlsMessageReceived (p : PartId) (g rank : Fin 64) (scnt sseq : W32) (flag : BitVec 12) (val : W64) (s : State) : Out :=
  match (s.part p).groups.get g with
  | none => .next s
  | some x =>
    let m : FlagMsg := { scnt := scnt, sseq := sseq, flag := flag, val := val, via := none }
    let dies := if s.isSelf x rank.val then [] else portDies s (x.mod rank.val) (arriving s p x (x.mod rank.val) false false true
      (x.flagva + BitVec.ofNat 64 (8 * flag.toNat)) 8)
    match enterDies p dies s with
    | none => .next (s.later s.nextInterval (.rlsMessageReceived p g rank scnt sseq flag val))
    | some s =>
    if serialGe (x.chans.get rank).rcnt scnt then .next (applyFlag p g rank x m s)
    else .next (updChan p g rank (fun ch => { ch with heldFlags := ch.heldFlags ++ [m] }) s)

/-- RLS commands of a channel that wait for an acknowledgement. -/
def rlsWaiting (s : State) (p : PartId) (g rank : Fin 64) (sseq : W32) : Option (CoreId × Fin 8 × QEntry) :=
  (List.finRange 128).findSome? (fun c =>
    if decide ((s.coreCtx c).part = p) then
      (List.finRange 8).findSome? (fun i => match (s.core c).copies.get i with
        | some y => (match y.q.ins with
            | .rls .. =>
              if fld (val0 y.q 0) 5 0 = g.val ∧ fld (val0 y.q 0) 11 6 = rank.val ∧ y.digest = toBytes 4 sseq.toNat then
                some (c, i, y.q) else none
            | _ => none)
        | none => none)
    else none)

/-- The acknowledgement of a flag is one of the writes that it counts. -/
def Channel.flagAcked (sseq : W32) (ch : Channel) : Channel :=
  let ch := match ch.unackedFlags.find? (fun m => decide (m.sseq = sseq)) with
    | some m => ch.acked m.scnt
    | none => ch
  { ch with unackedFlags := ch.unackedFlags.filter (fun m => !decide (m.sseq = sseq)) }

/-- The first acknowledgement counts 8 bytes; a later one finds nothing. -/
def execRlsAckReceived (p : PartId) (g rank : Fin 64) (sseq : W32) (s : State) : Out :=
  let s := updChan p g rank (Channel.flagAcked sseq) s
  match rlsWaiting s p g rank sseq with
  | some (c, i, q) => .next (endPlain c i q none 0 s)
  | none => .next s

/-! ## Fabric writes (22 R345) -/

/-- Elements combined at the receiver (09 R182). -/
def combineBytes (k : Comb3) (f : Fmt) (old new : List Byte) : List Byte :=
  let n := width f / 8
  (List.range (new.length / n)).flatMap (fun i =>
    let at_ := fun (l : List Byte) => BitVec.ofNat 32 (ofBytes ((l.drop (n * i)).take n))
    toBytes n (combCode f k .rne 0 (at_ old) (at_ new)).toNat)

/-- The core whose object a message names. -/
def msgCore (s : State) (p : PartId) (m : FabMsg) : Option CoreId := m.obj.bind (fun x => ((s.numbering p)[x.1.toNat]?).filter (s.holds p))

/-- The bytes of a message are counted into the object that it names; an error without bytes counts what the object still
expects (09 R171, R178). -/
def countMsg (p : PartId) (m : FabMsg) (e : Option Err) (s : State) : State :=
  match msgCore s p m, m.obj with
  | some k, some (_, some bo) => sendCount k bo (if m.bytes.isEmpty then none else some m.bytes.length) e s
  | _, _ => s

/-- A message that faults at this receiver: a record is posted, and its bytes count with the error (09 R174, R178, R185). -/
def faultMsg (p : PartId) (x : Group) (m : FabMsg) (f : AFault) (s : State) : State :=
  countMsg p m (some f.err) (postFault (.part p)
    { code := f.code, src := 1, core := 0xFF, brth := 0, ctx := x.fctx, queue := 0, seq := 0, det := f.det, addr := f.addr }
    (countError f s))

/-- A message's bytes take effect, and count into the object that it names. One that names a core that the partition does not
have moves none (09 R175), and one of bytes that did not move only counts them with their error. -/
def applyWrite (p : PartId) (x : Group) (rank : Fin 64) (m : FabMsg) (s : State) : State :=
  if m.obj.isSome && (msgCore s p m).isNone then s
  else match m.err with
  | some e => countMsg p m (some ⟨e.1, e.2⟩) s
  | none =>
  match arriving s p x (x.mod rank.val) m.ppa m.comb.isSome true m.va m.bytes.length with
  | .error f => faultMsg p x m f s
  | .ok l =>
    match l.findSome? (fun g => if m.comb.isSome then s.badIn g.dpa g.len else s.partBad g.dpa g.len) with
    | some b => faultMsg p x m (.uce b) s
    | none =>
      let bs := match m.comb with
        | some (k, f) => combineBytes k f (l.flatMap (fun (g : Seg) => s.bytes g.dpa g.len)) m.bytes
        | none => m.bytes
      let s := l.foldl (fun (s : State) (g : Seg) => useSync g (s.putBytes g.dpa (bs.drop (g.va - m.va).toNat |>.take g.len))) s
      countMsg p m none (l.foldl (fun (s : State) (g : Seg) => clearBad g.dpa g.len s) s)

/-- Apply the next message of a channel and those behind it that came early. -/
def applyWrites (p : PartId) (g rank : Fin 64) : Nat → State → State
  | 0, s => s
  | n + 1, s =>
    match (s.part p).groups.get g with
    | none => s
    | some x =>
      let ch := x.chans.get rank
      match ch.early.find? (fun m => decide (m.num = ch.rcnt + 1)) with
      | none => s
      | some m =>
        let s := updChan p g rank (fun ch => { ch with rcnt := ch.rcnt + 1, early := ch.early.erase m }) s
        applyWrites p g rank n (applyWrite p x rank m s)

/-- A message arrives: a duplicate is dropped, an early one held, and those in order are applied, after which flags
that waited for them are.  `obj` is DCORE with the object that counts its bytes, and the error of bytes that did not move. -/
def execFabricWriteReceived (p : PartId) (g rank : Fin 64) (num : W32) (ppa : Bool) (va : W64) (bs : List Byte)
    (comb : Option (Comb3 × Fmt)) (obj : Option (Byte × Option (Fin 4096)) × Option (Byte × W64)) (s : State) : Out :=
  match (s.part p).groups.get g with
  | none => .next s
  | some x =>
    if serialGe (x.chans.get rank).rcnt num then .next s
    else match enterDies p (portDies s (x.mod rank.val) (arriving s p x (x.mod rank.val) ppa false true va bs.length)) s with
    | none => .next (s.later s.nextInterval (.fabricWriteReceived p g rank num ppa va bs comb obj))
    | some s =>
      let m : FabMsg := { num := num, ppa := ppa, va := va, bytes := bs, comb := comb, obj := obj.1, err := obj.2, via := none }
      let s := updChan p g rank (fun ch => { ch with early := ch.early ++ [m] }) s
      let n := (x.chans.get rank).early.length + 1
      .next (releaseFlags p g rank (applyWrites p g rank n s))

/-- What is unacknowledged on a channel goes once more, by the port of the present path (22 R345). -/
def Channel.resent (via : Option (Fin 48)) (ch : Channel) : Channel :=
  { ch with unacked := ch.unacked.map (fun m => { m with via := via }),
            unackedFlags := ch.unackedFlags.map (fun m => { m with via := via }) }

/-- On another path the sender sends what is unacknowledged once more; the messages stay as they are until their
acknowledgement. Flags to this module itself arrive again. -/
def execFabricResend (p : PartId) (g rank : Fin 64) (s : State) : Out :=
  match (s.part p).groups.get g with
  | none => .next s
  | some x =>
    if s.isSelf x rank.val then
      .next ((x.chans.get rank).unackedFlags.foldl (fun s m =>
        s.later 1900 (.rlsMessageReceived p g rank m.scnt m.sseq m.flag m.val)) s)
    else .next (updChan p g rank (Channel.resent (s.portTo (x.mod rank.val))) s)

/-! ## Requests of other modules (09 R165, R184, 22 R347, R348) -/

/-- The installed group in whose context a request is served: the one that the command names, if it names the sender, or, for a PPA,
any that does (22 R346 to R348). -/
def servedBy (s : State) (p : PartId) (grp : Option (Fin 64)) (from_ : Nat) : Option Group :=
  let x := s.part p
  if !x.en then none
  else match grp with
    | some g => (x.groups.get g).bind (fun y => (y.rankOf from_).map (fun _ => y))
    | none => (x.groupOf from_).bind (fun y => x.groups.get y.1)

/-- A read or an atomic for another module, at a VA in the context of the group that its command names or at a PPA; the value or the
fault goes back to it. A partition without EN, or without the group, is absent and serves none (22 R346). Only an atomic changes
memory, and only in synchronisation space. -/
def execFabricRequestReceived (p : PartId) (grp : Option (Fin 64)) (va : W64) (n : Fin 129) (op : Option (AmoOp × Bool × W64 × W64))
    (from_ : BitVec 6) (s : State) : Out :=
  let ppa := grp.isNone
  match servedBy s p grp from_.toNat with
    | none => .next s
    | some x =>
      let len := match op with
        | some (_, dbl, _, _) => wordBytes dbl
        | none => n.val
      let l := arriving s p x from_.toNat ppa true op.isSome va len
      match enterDies p (portDies s from_.toNat l) s with
      | none => .next (s.later s.nextInterval (.fabricRequestReceived p grp va n op from_))
      | some s =>
        match op, l with
        | some (o, _, b, c), .ok [seg] =>
          if seg.site = .sync && (s.badIn seg.dpa len).isNone then
            let old := BitVec.ofNat 64 (ofBytes (s.bytes seg.dpa len))
            .next (useSync seg (s.putBytes seg.dpa (toBytes len (amoNew o len old b c).toNat)))
          else .next s
        | none, .ok l =>
          if ppa then .next (l.foldl (fun s g => useSync g s) s)
          else match s.readVa ⟨p, x.fctx, 0, none⟩ va n.val with
            | .ok (_, t) => .next (l.foldl (fun s g => useSync g s) t)
            | .error _ => .next s
        | _, _ => .next s

end Sys2Proof.Machine
end

