-- ==== Sys2Proof/Machine/Maintenance.lean ====
section
/-! DEFINITION. Maintenance of tile pairs, wear, the patrol scrubber and temperatures (spec 25 R354 to R361,
27 R372 to R374, R382). -/

namespace Sys2Proof.Machine

open Sys2Proof

/-! ## The maintenance sequencer (25 R356 to R358) -/

/-- Periods of 2^20 ticks. -/
def period (t : W64) : Nat := t.toNat / 2 ^ 20

/-- A pair is due for XCAL or XSYM. -/
def State.due (s : State) (t : PairId) (sym : Bool) : Bool :=
  let p := s.pair t
  if sym then decide (s.symPer.toNat ≤ period s.cyc - period p.lsym) else decide (s.calPer.toNat ≤ period s.cyc - period p.lcal)

/-- Partition and context that bind a pair in service. -/
def State.binder (s : State) (t : PairId) : Option (PartId × Byte) :=
  let p := s.pair t
  if p.insv then (List.finRange 32).findSome? (fun q => ((s.part q).bind.get p.tile).map (fun c => (q, c))) else none

/-- A gang of a context is resident on a tile's quad. -/
def State.gangOn (s : State) (p : PartId) (ctx : Byte) (t : Fin 1024) : Bool :=
  s.launches.any (fun l => decide (l.part = p ∧ l.ctx = ctx) && l.occupies && l.quads.contains (tileQuad t))

/-- What MNTPOL of the binding partition permits. -/
def State.permitted (s : State) (t : PairId) (sym : Bool) : Bool :=
  match s.binder t with
  | none => true
  | some (p, c) =>
    let on := s.gangOn p c (s.pair t).tile
    if sym then (s.part p).sym && !on else (s.part p).calr || !on

/-- A core holds the pair with XFENCE, or the distributor loads a launch onto its quad. -/
def State.reserved (s : State) (t : PairId) : Bool :=
  (List.finRange 128).any (fun c => (s.core c).holds.any (fun h => decide (s.pairOf c h.1.val = some t)))
  || ((s.pair t).insv && s.launches.any (fun l => decide (l.state = .loading) && l.quads.contains (tileQuad (s.pair t).tile)))

/-- A due pair that may be served now. -/
def State.servable (s : State) (t : PairId) (sym : Bool) : Bool :=
  s.mntEn && s.due t sym && s.permitted t sym && !s.reserved t
  && (s.pair t).slots.all (fun b => decide (b.count ≠ 0))

/-- The header of a command that no program issued. -/
def plainHead : Head :=
  { ga := 0, gan := false, gb := 0, gbn := false, ch := .normal, stall := 0, yld := false, pb := 0, pa := 0 }

/-- P of a firmware XSYM. -/
def symPulses (s : State) : Nat := if s.symP.toNat % 4096 = 0 then 256 else s.symP.toNat % 4096

/-- The entry of a maintenance command: the whole tile as window, with no count (25 R356). -/
def maintenanceEntry (s : State) (sym : Bool) : QEntry :=
  { ins := if sym then .xsym plainHead (.imm 0) (.s 0 false) else .xcal plainHead (.imm 0) (.s 0 false),
    id := 0, addr := 0, berth := 0, comm := false, ref := 0, rep := 0, step := 0,
    vals := [0, 0, 0, 0, 0, 0, if sym then BitVec.ofNat 64 (symPulses s) else 0, 0, 0, wholeWin, s.cyc],
    vops := [], key0 := 0, key1 := 0, key2 := 0, srmode := 0, xwin := 0 }

/-- The command enters the pair's order behind those already there. -/
def maintain (t : PairId) (sym : Bool) (s : State) : State :=
  let b : Barge :=
    { q := maintenanceEntry s sym, core := 0, state := .latched, sent := s.cyc, at_ := s.cyc, gate := none,
      inR := .replicate 8 0, in2R := .replicate 8 0, outR := .replicate 8 0, out := [], status := 0, count := 0, n := 0,
      regs := none, launch := none }
  s.setPair t { s.pair t with slots := (s.pair t).slots ++ [b] }

/-- Due pairs of an array die are served in ascending order. -/
def execMaintenanceDue (t : PairId) (sym : Bool) (s : State) : Out :=
  let lower := (List.finRange 1088).any (fun u => decide (u.val < t.val ∧ arrayDie u = arrayDie t) && s.servable u sym)
  .next (if s.servable t sym && !lower then maintain t sym s else s)

/-! ## Wear (25 R359) -/

/-- What makes firmware set WORN on a pair in service: wear, FAILS, DRIFTRANGE of two XCALs in a row, or VERIFY of four XPRGs over the
whole tile (25 R355, R359, 26 R371). -/
def State.wornDue (s : State) (t : PairId) : Bool :=
  let p := s.pair t
  p.insv && !p.worn && (decide ((Config.wearLimit (s.quad (tileQuad p.tile)).wear).toNat ≤ p.tend.toNat ∨ p.fails ≠ 0 ∨ 2 ≤ p.driftRun
    ∨ 4 ≤ p.verifyRun))

/-- Firmware writes 1 to WORN of a pair in service, which marks the pair and posts TILEFAULT with reason 4. -/
def execWornSet (t : PairId) (s : State) : Out :=
  let p := s.pair t
  if p.worn ∨ !p.insv then .next s
  else
    let s := bump (hTile (arrayDie t) 2) 1 (s.setPair t { p with worn := true })
    let det := arrayDet s (p.tile.val % 8) 4
    let s := moduleFault .pf0 xTileFault 5 det 0 s
    .next (match s.binder t with
      | some (q, _) => moduleFault (.part q) xTileFault 5 det 0 s
      | none => s)

/-! ## The patrol scrubber (27 R372, R373) -/

/-- The patrol reads HBM and L2 lines. -/
def patrolled (a : Nat) : Bool := isHbm a || decide (stgBase ≤ a ∧ a < stgBase + 2 ^ 32)

/-- The partition that holds a location. -/
def State.owner (s : State) (a : Nat) : Option PartId := (List.finRange 32).find? (fun p => (s.site p a).isSome)

/-- A location is one of the module's own that has an error code. -/
def guarded (a : Nat) : Bool := patrolled a || decide (syncBase ≤ a ∧ a < syncBase + 2 ^ 28)

/-- The granule of a location has an uncorrectable error. -/
def spoil (x : Nat) (s : State) : State :=
  let g := x / eccBytes x * eccBytes x
  { s with bad := if s.bad.contains g then s.bad else s.bad ++ [g] }

/-- An uncorrectable error that the patrol finds is counted, and a record is posted to the partition that holds the location. -/
def patrolFinds (x : Nat) (s : State) : State :=
  let line := BitVec.ofNat 64 (x / 128 * 128)
  let s := bump (hUncorr (eccClass x)) 1 (spoil x s)
  moduleFault (match s.owner x with
    | some p => .part p
    | none => .pf0) 0x02 5 line line s

/-- An error at a place that the patrol does not read shows to the access that meets it. -/
def errorAt (x : ErrAt) (s : State) : State :=
  match x with
  | .mem a => spoil a.toNat s
  | .rdc d line => if ((s.tokLine line).rdc.get d).valid then bump (hUncorr 4) 1 (spoil (128 * line) s) else s
  | .lm c g => s.updCore c (fun k => { k with lmBad := if k.lmBad.contains g.val then k.lmBad else k.lmBad ++ [g.val] })
  | .file c n => s.updCore c (fun k => { k with fileBad := if k.fileBad.contains n.val then k.fileBad else k.fileBad ++ [n.val] })
  | .code d n g =>
    s.setDie d { s.die d with images := (s.die d).images.mapIdx (fun i x =>
      if i = n ∧ !x.bad.contains g then { x with bad := x.bad ++ [g] } else x) }
  | .tile t => s.push [.arrayCommandComplete t true]
  | .sfd => if s.sfRun.isEmpty then s else s.push [.sfTransferComplete 0 true]
  | .dieTlb .. | .coreTlb .. | .record .. | .joint _ => s
  | .flash => bump (hUncorr 12) 1 { s with mbox := { s.mbox with flashBad := s.mbox.flashBad || s.mbox.busy } }

/-- An entry of a TLB or of a record cache with a parity error is dropped, and fetched again when it is next used. -/
def dropEntry (x : ErrAt) (s : State) : State :=
  match x with
  | .dieTlb d n => s.setDie d { s.die d with tlb := (s.die d).tlb.eraseIdx n }
  | .coreTlb c n => s.updCore c (fun k => { k with tlb := k.tlb.eraseIdx n })
  | .record d n => s.setDie d { s.die d with recs := (s.die d).recs.eraseIdx n }
  | _ => s

/-- Class of a place, where it has an error code or a replay (27 R372). -/
def errClass : ErrAt → Option Nat
  | .mem a => if guarded a.toNat then some (eccClass a.toNat) else none
  | .rdc .. => some 4
  | .lm .. => some 0
  | .file .. => some 1
  | .code .. => some 2
  | .tile _ => some 7
  | .sfd => some 8
  | .dieTlb .. | .coreTlb .. | .record .. => some 9
  | .joint _ => some 10
  | .flash => some 12

/-- A class whose errors are all corrected, and one of which none is (27 R372). -/
def alwaysMends (cls : Nat) : Bool := decide (cls = 9 ∨ cls = 10)
def neverMends (cls : Nat) : Bool := decide (cls = 8)

/-- The patrol meets an error, or an access does (log 20): it is corrected and counted, or is uncorrectable. -/
def execPatrolScrub (a : ErrAt) (bad : Bool) (s : State) : Out :=
  match errClass a with
  | none => .next s
  | some k =>
    if alwaysMends k || (!bad && !neverMends k) then .next (bump (hCorr k) 1 (dropEntry a s))
    else match a with
      | .mem x => .next (if patrolled x.toNat then patrolFinds x.toNat s else spoil x.toNat s)
      | _ => .next (errorAt a s)

/-! ## Temperatures (27 R374, R382) -/

/-- Bin of a temperature in °C. -/
def tempBin (t : Byte) : Nat := min 15 ((t.toNat - 40) / 5)

/-- Temperatures at which the ceiling and the trip act. -/
def ceilingTemp : Nat := 100
def tripTemp : Nat := 110

/-- What the sensors show. -/
def readSensors (t : List Byte) (s : State) : State :=
  { s with temps := ⟨((List.finRange 13).map (fun d => t.getD d.val 0)).toArray, by simp⟩ }

/-- Each die's temperature goes into its bin. -/
def binTemps (s : State) : State :=
  (List.finRange 13).foldl (fun s d => bump (hTemp d.val (tempBin (s.temps.get d))) 1 s) s

/-- The sensors show new temperatures, which come from outside; or, without any, each die is sampled into its bin, every 2^20 ticks. The
ceiling and the trip see the same sensors. -/
def execJunctionTemperatureSample (t : List Byte) (s : State) : Out :=
  let s := if t.isEmpty then binTemps s else readSensors t s
  let ts := s.temps.toList
  let s := { s with thermal := ts.any (fun x => decide (ceilingTemp ≤ x.toNat)) }
  .next (s.push (
    (if s.thermal then [Ev.vecStepChange false] else [])
    ++ (if ts.any (fun x => decide (tripTemp ≤ x.toNat)) then [Ev.thermalTrip 0] else [])))

end Sys2Proof.Machine
end

