-- ==== Sys2Proof/Machine/Security.lean ====
section
/-! DEFINITION. Health records, the mailbox, boot, module reset, loss of power, and DOE
(spec 22 R337, 25 R360, 27 R374 to R383). -/

namespace Sys2Proof.Machine

open Sys2Proof

/-! ## Hourly records (27 R374) -/

/-- Bytes of a record before its digest, and records in the ring. -/
def hourBody : Nat := 0x3FE0
def hourRing : Nat := 12288

/-- The record of an hour. -/
def hourRecord (s : State) : List Byte :=
  let head := (toBytes 4 0x48544C48 ++ Config.hourHeader s.hourly s.cyc s.fwVer s.flash.trips).take 64
  let head := head ++ List.replicate (64 - head.length) 0
  let body := head ++ s.health.reads 64 (hourBody - 64)
  body ++ sha256 body

/-- The counts of a record: 4 bytes each from 0x0040 to 0x090F. -/
def recordCounts (r : List Byte) : List Nat := (List.range 564).map (fun i => ofBytes ((r.drop (64 + 4 * i)).take 4))

/-- Totals after a record's counts are added. -/
def addTotals (t : List Nat) (r : List Byte) : List Nat := t.zipWith (fun a b => a + b) (recordCounts r)

/-- The totals with a record go into the slot that is not current, which then is (DEDUCED, log 10: a power loss leaves the old totals or
the new ones). -/
def Flash.total (f : Flash) (r : List Byte) : Flash :=
  let k : Fin 2 := f.current + 1
  { f with totals := f.totals.set k.val (addTotals (f.totals.get f.current) r) k.isLt, current := k }

/-- The record is appended over the oldest, its counts are added to the totals, and the next hour begins. -/
def execHealthRecordAppend (s : State) : Out :=
  let r := hourRecord s
  let h := s.flash.hours ++ [r]
  .next { s with
    flash := { s.flash.total r with hours := h.drop (h.length - hourRing), trips := 0 },
    health := [], hourly := s.hourly + 1 }

/-! ## Measurements (27 R379) -/

/-- One of the two images. -/
def fwImage (f : Flash) (b : Bool) : Mem := f.fw.region (if b then 0x800000 else 0) 0x800000

/-- M0 to M7; M1 is of the image that runs, as it was verified at boot. -/
def measurements (s : State) : List (List Byte) :=
  let zero := List.replicate 32 (0 : Byte)
  [(Config.romMeasure ++ zero).take 32, (s.fwMeas ++ zero).take 32]
  ++ (List.range 6).map (fun k => if s.flash.configs.any (fun r => decide (r.1 = k + 1)) then sha256 (s.installed (k + 1)) else zero)

/-! ## Mailbox commands (27 R375, R376, 25 R360) -/

/-- What a command ends with: an error code, or its result and the state that it leaves. -/
abbrev Ended := Except Byte (List Byte × State)

/-- Codes of MBST. -/
def mbArg : Byte := 1
def mbSign : Byte := 2
def mbSeq : Byte := 3
def mbFlash : Byte := 4
def mbRule : Byte := 5

def readHealth (s : State) : Ended :=
  let first := s.hourly.toNat - s.flash.hours.length
  let n := s.mbox.inArg.toNat
  if n < first then .error mbArg
  else match s.flash.hours[n - first]? with
    | some r => .ok (r, s)
    | none => .error mbArg

/-- A quote over the nonce and the measurements. -/
def quoteBytes (s : State) : List Byte :=
  let m := toBytes 4 0x45544F51 ++ s.mbox.input.take 32 ++ (measurements s).flatten
  m ++ (Config.sign (sha256 m)).toList

/-- A manifest is signed with MAGIC as it will stand. -/
def signManifest (s : State) : Ended :=
  let b := s.mbox.input
  let at_ := fun (o n : Nat) => ofBytes ((b.drop o).take n)
  if at_ 4 2 ≠ 1 ∨ s.mbox.inLen ≠ 64 + 64 * at_ 16 2 then .error mbArg
  else .ok ((Config.sign (sha256 ((toBytes 4 0x4B484350 ++ b.drop 4).take s.mbox.inLen))).toList, s)

/-- A spare may take a worn pair's place, beside the entries accepted so far (25 R360). -/
def remapOk (s : State) (have_ : List (PairId × PairId)) (r : PairId × PairId) : Bool :=
  let w := s.pair r.1
  let x := s.pair r.2
  w.insv && (w.worn || decide (w.fails ≠ 0)) && x.spare && decide (x.tile = 0) && !x.insv
  && decide (arrayDie r.1 = arrayDie r.2) && !have_.any (fun y => decide (y.2 = r.2 ∨ y.1 = r.1))
  && decide ((have_.filter (fun y => decide (arrayDie y.1 = arrayDie r.1))).length < 8)

/-- The entries of a record are accepted one after the other: those that the record in force holds already, and those that R360
allows. -/
def addRemaps (s : State) (have_ : List (PairId × PairId)) : List (PairId × PairId) → Option (List (PairId × PairId))
  | [] => some have_
  | r :: l => if (s.remaps.contains r && !have_.contains r) || remapOk s have_ r then addRemaps s (have_ ++ [r]) l else none

/-- A list of entries comes into force in place of the old one; quads that the gate kept back may return (21 R335). -/
def setRemaps (l : List (PairId × PairId)) (s : State) : State := returnQuads { s with remaps := l }

/-- A record is in flash in place of the old one of its kind. -/
def putRecord (kind : Nat) (rec_ : List Byte) (s : State) : State :=
  { s with flash := { s.flash with
      configs := s.flash.configs.filter (fun r => !decide (r.1 = kind)) ++ [(kind, Config.recSeq rec_, rec_)] } }

/-- SEQ of the installed record of a kind. -/
def State.seqOf (s : State) (kind : Nat) : Option W32 :=
  (s.flash.configs.find? (fun r => decide (r.1 = kind))).map (fun r => r.2.1)

/-- INSTALL (27 R380). -/
def installRecord (s : State) : Ended :=
  let r := s.mbox.input.take (min (Config.recLength s.mbox.input) 131072)
  let k := Config.recKind r
  if !Config.verify r then .error mbSign
  else if Config.recMagic r ≠ 0x44434B48 ∨ Config.recForeign r ∨ k = 0 ∨ 6 < k then .error mbArg
  else if (match s.seqOf k with
      | some q => decide ((Config.recSeq r).toNat ≤ q.toNat)
      | none => false) then .error mbSeq
  else if k = 5 then
    match addRemaps s [] (Config.recRemaps r) with
    | some l => .ok ([], putRecord 5 r (setRemaps l s))
    | none => .error mbRule
  else .ok ([], putRecord k r s)

/-- REMAP (25 R360): the record of all entries, with the next SEQ. -/
def remapRun (s : State) : Ended :=
  let (d, w, x) := Config.remapFields s.mbox.inArg
  let r : PairId × PairId := (Fin.ofNat 1088 (d.val * 136 + w.val), Fin.ofNat 1088 (d.val * 136 + x.val))
  if !remapOk s s.remaps r then .error mbRule
  else
    let t := setRemaps (s.remaps ++ [r]) s
    let seq := ((s.seqOf 5).getD 0) + 1
    let rec_ := Config.remapRecord seq t.remaps
    let rec_ := rec_ ++ (Config.sign (sha256 rec_)).toList
    .ok (rec_, { putRecord 5 rec_ t with flash := { t.flash with
      configs := t.flash.configs.filter (fun y => !decide (y.1 = 5)) ++ [(5, seq, rec_)] } })

/-- A part of a firmware image goes to flash. -/
def loadFw (s : State) : Ended :=
  let o := s.mbox.inArg.toNat
  if 0x1000000 < o + s.mbox.inLen then .error mbArg
  else .ok ([], { s with flash := { s.flash with fw := s.flash.fw.writes o (s.mbox.input.take s.mbox.inLen) } })

/-- A command's work, on what it read when it started. Where flash has failed, a command that uses it ends with that error. -/
def runCommand (s : State) : Ended :=
  let op := s.mbox.op.toNat
  if s.mbox.flashBad ∧ op ≠ 5 then .error mbFlash
  else if s.boot = .recovery ∧ s.pufBad ∧ (op = 4 ∨ op = 5 ∨ op = 7) then .error mbSign
  else if s.boot = .recovery ∧ op ≠ 1 ∧ op ≠ 3 ∧ op ≠ 8 then .error mbRule
  else match op with
    | 1 => readHealth s
    | 2 => .ok (Config.totalsSlot (s.flash.totals.get s.flash.current), s)
    | 3 => .ok (s.flash.cert, s)
    | 4 => .ok (quoteBytes s, s)
    | 5 => signManifest s
    | 6 => installRecord s
    | 7 => remapRun s
    | 8 => loadFw s
    | _ => .error mbArg

/-- Bytes of MBBUF. -/
def mbBytes : Nat := 131072

/-- A write of MBCMD: ignored while BUSY, and while the boot ROM verifies (27 R377); else the command starts and reads the buffer and
its length. -/
def startCommand (op : Byte) (s : State) : Out :=
  if s.mbox.busy ∨ s.boot = .rom then .next s
  else
    .next ({ s with mbox := { s.mbox with
      op := op, busy := true, input := s.mbox.buf.reads 0 mbBytes, inLen := s.mbox.filled,
      flashBad := false, inArg := s.mbox.args.get 0 } }.later 1 .mailboxDone)

def execReadhealth (s : State) : Out := startCommand 1 s
def execReadtotals (s : State) : Out := startCommand 2 s
def execReadcert (s : State) : Out := startCommand 3 s
def execQuote (s : State) : Out := startCommand 4 s
def execSignman (s : State) : Out := startCommand 5 s
def execInstall (s : State) : Out := startCommand 6 s
def execRemap (s : State) : Out := startCommand 7 s
def execLoadfw (s : State) : Out := startCommand 8 s
def execMailboxBadOp (op : Byte) (s : State) : Out :=
  if 1 ≤ op.toNat ∧ op.toNat ≤ 8 then .next s else startCommand op s

/-- The mailbox after a command; BUSY falls with it. -/
def Mbox.ended (m : Mbox) (err : Option Byte) (out : List Byte) : Mbox :=
  { m with
    busy := false, err := err.isSome, code := err.getD 0, len := BitVec.ofNat 32 out.length, buf := m.buf.writes 0 out,
    filled := 0, input := [], inLen := 0, inArg := 0, flashBad := false }

def execMailboxDone (s : State) : Out :=
  if !s.mbox.busy then .next s
  else match runCommand s with
    | .error c => .next { s with mbox := s.mbox.ended (some c) [] }
    | .ok (out, t) => .next { t with mbox := t.mbox.ended none (out.take mbBytes) }

/-! ## Boot, reset and power (27 R377, R378, R382, R383, 21 R335) -/

/-- A pair after module reset: the gate has run, TEND stays, and the conductances are new. -/
def Pair.afterReset (x : Pair) (t free : Nat) : Pair :=
  { Pair.reset t with insv := x.insv, spare := x.spare, tile := x.tile, tend := x.tend, ag := free + 2 * t, cg := free + 2 * t + 1 }

/-- A quad after module reset takes the signed values in flash. -/
def quadAfterReset (s : State) : Quad :=
  { Quad.reset with
    thr := Config.thrInit (s.installed 3), cal := s.installed 2, wear := s.installed 4, defaults := s.installed 6,
    qpew := ⟨((List.finRange 48).map (Config.qpewInit (s.installed 6))).toArray, by simp⟩ }

/-- What module reset leaves: flash, the open hourly record, the host's memory, and TEND of the pairs stay; the latch of a trip is
cleared (27 R382). -/
def resetState (s : State) : State :=
  { State.reset with
    free := s.free + 2176, flash := { s.flash with trip := false }, health := s.health, hourly := s.hourly, perst := s.perst,
    ceilings := s.installed 1, rails := s.installed 3, remaps := s.remaps, quads := .replicate 32 (quadAfterReset s),
    pairs := ⟨((List.finRange 1088).map (fun t => (s.pair t).afterReset t.val s.free)).toArray, by simp⟩,
    mem := s.mem.filter (fun c => decide (hostBase ≤ c.1)), saved := s.saved.filter (fun x => decide (hostBase ≤ x.place)),
    temps := s.temps }

def execModuleReset (s : State) : Out := .next (resetState s)

/-- An image that the boot ROM accepts. -/
def fwGood (s : State) (b : Bool) : Bool :=
  let x := fwImage s.flash b
  Config.fwPasses x && decide (s.flash.minVer.toNat ≤ (Config.fwVersion x).toNat)

/-- The minimum version in flash is authentic: its tag is of this part's PUF key (27 R377). -/
def Flash.minGood (f : Flash) : Bool := decide (f.minTag = Config.minTag f.minVer)

/-- The boot ROM's check: image A, then B, or recovery, also where the minimum version does not verify (log 90); a passing image may
raise the minimum version. -/
def verifyImages (s : State) : State :=
  let b := !fwGood s false
  if s.pufBad || !s.flash.minGood || (b && !fwGood s true) then { s with boot := .recovery, pcieUp := !s.perst }
  else
    let x := fwImage s.flash b
    let low := if s.flash.minVer.toNat < (Config.fwMinimum x).toNat then Config.fwMinimum x else s.flash.minVer
    { s with boot := .joints, fwB := b, fwVer := Config.fwVersion x, fwMeas := sha256 (Config.fwBody x),
             flash := { s.flash with minVer := low, minTag := Config.minTag low } }

/-- Typical ticks in which the die joints and the towpath train, and then the HBM4 stacks (27 R383). -/
def jointTicks : Nat := 8000000
def stackTicks : Nat := 192000000

/-- Joints of a range are up. -/
def raiseJoints (lo hi : Nat) (s : State) : State :=
  { s with joints := Vector.ofFn (fun (j : Fin 24) => s.joints.get j || decide (lo ≤ j.val ∧ j.val < hi)) }

/-- A stage of bring-up ends, and the next begins: the boot ROM verifies an image; the joints and the towpath have trained; the HBM4
stacks have, and the scrub gate runs on everything (21 R335, 27 R377, R383). -/
def execBootVerify (s : State) : Out :=
  match s.boot with
  | .rom =>
    let (v, s) := s.draw
    let s := verifyImages { s with pufBad := bit v 0 }
    .next (if s.boot = .recovery then s else s.later jointTicks .bootVerify)
  | .joints => .next ((raiseJoints 0 16 { s with boot := .stacks }).later stackTicks .bootVerify)
  | .stacks => .next (enterGate 0 Masks.all (raiseJoints 16 24 { s with boot := .gate }))
  | .gate | .running | .recovery => .next s

/-- PERST# is released: the PCIe link comes up, once the module has been brought up or stays in recovery (27 R383). -/
def execPerstRelease (s : State) : Out :=
  .next { s with perst := false, pcieUp := s.powered && decide (s.boot = .running ∨ s.boot = .recovery) }

/-- Every rail is lost; flash keeps what it held, a command in progress leaving the old state. -/
def execPowerLoss (s : State) : Out := .next { s with powered := false, pcieUp := false, todo := [], mbox := Mbox.reset }

/-- The security block answers an SPDM or IDE_KM request. -/
def execDoeRequest (req : List Byte) (s : State) : Out := .next { s with doe := Config.doe req (measurements s) }

end Sys2Proof.Machine
end

