-- ==== Sys2Proof/Machine/Dispatch.lean ====
section
/-! DEFINITION. Dispatch: the meaning of each row of the opcode table, one arm a constructor. -/

namespace Sys2Proof.Machine

open Sys2Proof

/-- What an instruction or an event does. -/
def exec (i : Instr) (s : State) : Host.Outcome State Fault Refusal :=
  match i with
  | .nop h => Sys2Proof.Machine.execNop h s
  | .br h dist => Sys2Proof.Machine.execBr h dist s
  | .brc h c a b dist => Sys2Proof.Machine.execBrc h c a b dist s
  | .bri h a => Sys2Proof.Machine.execBri h a s
  | .call h d dist => Sys2Proof.Machine.execCall h d dist s
  | .ret h a => Sys2Proof.Machine.execRet h a s
  | .loop h d a dist => Sys2Proof.Machine.execLoop h d a dist s
  | .wait h => Sys2Proof.Machine.execWait h s
  | .yield h => Sys2Proof.Machine.execYield h s
  | .exit h => Sys2Proof.Machine.execExit h s
  | .beat h => Sys2Proof.Machine.execBeat h s
  | .phase h d => Sys2Proof.Machine.execPhase h d s
  | .lock h => Sys2Proof.Machine.execLock h s
  | .bara h d n count => Sys2Proof.Machine.execBara h d n count s
  | .barw h n ph => Sys2Proof.Machine.execBarw h n ph s
  | .baraw h n count => Sys2Proof.Machine.execBaraw h n count s
  | .tokin h k mb => Sys2Proof.Machine.execTokin h k mb s
  | .tokout h k stage mb => Sys2Proof.Machine.execTokout h k stage mb s
  | .stamp h d off => Sys2Proof.Machine.execStamp h d off s
  | .tsr h d e => Sys2Proof.Machine.execTsr h d e s
  | .sleepc h a => Sys2Proof.Machine.execSleepc h a s
  | .sleepp h bo ph => Sys2Proof.Machine.execSleepp h bo ph s
  | .waitp h bo ph => Sys2Proof.Machine.execWaitp h bo ph s
  | .trap h code => Sys2Proof.Machine.execTrap h code s
  | .rtt h => Sys2Proof.Machine.execRtt h s
  | .mfs h d n => Sys2Proof.Machine.execMfs h d n s
  | .mts h r a => Sys2Proof.Machine.execMts h r a s
  | .loc h slice d a => Sys2Proof.Machine.execLoc h slice d a s
  | .fence h sc pre post => Sys2Proof.Machine.execFence h sc pre post s
  | .fsc h sc => Sys2Proof.Machine.execFsc h sc s
  | .mark h => Sys2Proof.Machine.execMark h s
  | .tfence h va => Sys2Proof.Machine.execTfence h va s
  | .rcfence h tid => Sys2Proof.Machine.execRcfence h tid s
  | .icfence h => Sys2Proof.Machine.execIcfence h s
  | .li h d v => Sys2Proof.Machine.execLi h d v s
  | .mov h d a => Sys2Proof.Machine.execMov h d a s
  | .add h d a b => Sys2Proof.Machine.execAdd h d a b s
  | .sub h d a b => Sys2Proof.Machine.execSub h d a b s
  | .mul h d a b => Sys2Proof.Machine.execMul h d a b s
  | .mulh h d a b => Sys2Proof.Machine.execMulh h d a b s
  | .mulhu h d a b => Sys2Proof.Machine.execMulhu h d a b s
  | .div h d a b => Sys2Proof.Machine.execDiv h d a b s
  | .divu h d a b => Sys2Proof.Machine.execDivu h d a b s
  | .rem h d a b => Sys2Proof.Machine.execRem h d a b s
  | .remu h d a b => Sys2Proof.Machine.execRemu h d a b s
  | .and h d a b => Sys2Proof.Machine.execAnd h d a b s
  | .or h d a b => Sys2Proof.Machine.execOr h d a b s
  | .xor h d a b => Sys2Proof.Machine.execXor h d a b s
  | .andn h d a b => Sys2Proof.Machine.execAndn h d a b s
  | .shl h d a b => Sys2Proof.Machine.execShl h d a b s
  | .shr h d a b => Sys2Proof.Machine.execShr h d a b s
  | .sar h d a b => Sys2Proof.Machine.execSar h d a b s
  | .rol h d a b => Sys2Proof.Machine.execRol h d a b s
  | .clz h d a => Sys2Proof.Machine.execClz h d a s
  | .ctz h d a => Sys2Proof.Machine.execCtz h d a s
  | .popc h d a => Sys2Proof.Machine.execPopc h d a s
  | .abs h d a => Sys2Proof.Machine.execAbs h d a s
  | .min h d a b => Sys2Proof.Machine.execMin h d a b s
  | .max h d a b => Sys2Proof.Machine.execMax h d a b s
  | .minu h d a b => Sys2Proof.Machine.execMinu h d a b s
  | .maxu h d a b => Sys2Proof.Machine.execMaxu h d a b s
  | .sel h d p a b => Sys2Proof.Machine.execSel h d p a b s
  | .cmp h c d a b => Sys2Proof.Machine.execCmp h c d a b s
  | .sext h d a w => Sys2Proof.Machine.execSext h d a w s
  | .zext h d a w => Sys2Proof.Machine.execZext h d a w s
  | .aidx h d a b k => Sys2Proof.Machine.execAidx h d a b k s
  | .bfx h d a pos len => Sys2Proof.Machine.execBfx h d a pos len s
  | .bfi h d a b pos len => Sys2Proof.Machine.execBfi h d a b pos len s
  | .pand h d a b => Sys2Proof.Machine.execPand h d a b s
  | .por h d a b => Sys2Proof.Machine.execPor h d a b s
  | .pxor h d a b => Sys2Proof.Machine.execPxor h d a b s
  | .pnot h d a => Sys2Proof.Machine.execPnot h d a s
  | .pmov h d a => Sys2Proof.Machine.execPmov h d a s
  | .fcnt h d n => Sys2Proof.Machine.execFcnt h d n s
  | .fdrop h n => Sys2Proof.Machine.execFdrop h n s
  | .fclr h n => Sys2Proof.Machine.execFclr h n s
  | .vadd h d b c m rm sat => Sys2Proof.Machine.execVadd h d b c m rm sat s
  | .vsub h d b c m rm sat => Sys2Proof.Machine.execVsub h d b c m rm sat s
  | .vmul h d b c m rm sat => Sys2Proof.Machine.execVmul h d b c m rm sat s
  | .vfma h d b c e => Sys2Proof.Machine.execVfma h d b c e s
  | .vfms h d b c e => Sys2Proof.Machine.execVfms h d b c e s
  | .vnfma h d b c e => Sys2Proof.Machine.execVnfma h d b c e s
  | .vmin h d b c m => Sys2Proof.Machine.execVmin h d b c m s
  | .vmax h d b c m => Sys2Proof.Machine.execVmax h d b c m s
  | .vabs h d b m => Sys2Proof.Machine.execVabs h d b m s
  | .vneg h d b m => Sys2Proof.Machine.execVneg h d b m s
  | .vclamp h d b c e => Sys2Proof.Machine.execVclamp h d b c e s
  | .vcmp h k d b c m => Sys2Proof.Machine.execVcmp h k d b c m s
  | .vsel h d k b c => Sys2Proof.Machine.execVsel h d k b c s
  | .vand h d b c m => Sys2Proof.Machine.execVand h d b c m s
  | .vor h d b c m => Sys2Proof.Machine.execVor h d b c m s
  | .vxor h d b c m => Sys2Proof.Machine.execVxor h d b c m s
  | .vnot h d b m => Sys2Proof.Machine.execVnot h d b m s
  | .vshl h d b c m => Sys2Proof.Machine.execVshl h d b c m s
  | .vshr h d b c m => Sys2Proof.Machine.execVshr h d b c m s
  | .vsar h d b c m => Sys2Proof.Machine.execVsar h d b c m s
  | .vmulh h d b c m => Sys2Proof.Machine.execVmulh h d b c m s
  | .vclz h d b m => Sys2Proof.Machine.execVclz h d b m s
  | .vpopc h d b m => Sys2Proof.Machine.execVpopc h d b m s
  | .vcvt h d b m rm ft draw => Sys2Proof.Machine.execVcvt h d b m rm ft draw s
  | .vtag h d b m ft => Sys2Proof.Machine.execVtag h d b m ft s
  | .vround h d b m rm => Sys2Proof.Machine.execVround h d b m rm s
  | .vpack h d b c m rm ft => Sys2Proof.Machine.execVpack h d b c m rm ft s
  | .vunpkl h d b m rm => Sys2Proof.Machine.execVunpkl h d b m rm s
  | .vunpkh h d b m rm => Sys2Proof.Machine.execVunpkh h d b m rm s
  | .vblks h d b c rm ft q => Sys2Proof.Machine.execVblks h d b c rm ft q s
  | .vblkg h d b m rm ft q => Sys2Proof.Machine.execVblkg h d b m rm ft q s
  | .vacc12 h d a x sg sp => Sys2Proof.Machine.execVacc12 h d a x sg sp s
  | .vdot2 h d a b c => Sys2Proof.Machine.execVdot2 h d a b c s
  | .vdot4 h d a b c => Sys2Proof.Machine.execVdot4 h d a b c s
  | .vdot8 h d a b c => Sys2Proof.Machine.execVdot8 h d a b c s
  | .vrotr h d b k m => Sys2Proof.Machine.execVrotr h d b k m s
  | .vrotc h d b k m => Sys2Proof.Machine.execVrotc h d b k m s
  | .vbcr h d b k m => Sys2Proof.Machine.execVbcr h d b k m s
  | .vbcc h d b k m => Sys2Proof.Machine.execVbcc h d b k m s
  | .vredr h d b m rm k => Sys2Proof.Machine.execVredr h d b m rm k s
  | .vredc h d b m rm k => Sys2Proof.Machine.execVredc h d b m rm k s
  | .vscanr h d b m rm k => Sys2Proof.Machine.execVscanr h d b m rm k s
  | .vscanc h d b m rm k => Sys2Proof.Machine.execVscanc h d b m rm k s
  | .vshfr h d b x m => Sys2Proof.Machine.execVshfr h d b x m s
  | .vtrb h d b m => Sys2Proof.Machine.execVtrb h d b m s
  | .viota h d st sd m ft => Sys2Proof.Machine.execViota h d st sd m ft s
  | .vmov h d b => Sys2Proof.Machine.execVmov h d b s
  | .vsplat h d a m ft => Sys2Proof.Machine.execVsplat h d a m ft s
  | .vext h d b e sx => Sys2Proof.Machine.execVext h d b e sx s
  | .vins h d b a e => Sys2Proof.Machine.execVins h d b a e s
  | .vrng h d sg sp m k => Sys2Proof.Machine.execVrng h d sg sp m k s
  | .vdrop h d b sg sp kt => Sys2Proof.Machine.execVdrop h d b sg sp kt s
  | .mand h d a b => Sys2Proof.Machine.execMand h d a b s
  | .mor h d a b => Sys2Proof.Machine.execMor h d a b s
  | .mxor h d a b => Sys2Proof.Machine.execMxor h d a b s
  | .mnot h d a => Sys2Proof.Machine.execMnot h d a s
  | .mcnt h d a => Sys2Proof.Machine.execMcnt h d a s
  | .mfirst h d a => Sys2Proof.Machine.execMfirst h d a s
  | .ldv h d tid off rep => Sys2Proof.Machine.execLdv h d tid off rep s
  | .stv h v tid off rep => Sys2Proof.Machine.execStv h v tid off rep s
  | .ldvt h d tid sc tr => Sys2Proof.Machine.execLdvt h d tid sc tr s
  | .ldvg h d tid vi col => Sys2Proof.Machine.execLdvg h d tid vi col s
  | .stvs h v tid vi col => Sys2Proof.Machine.execStvs h v tid vi col s
  | .ldsc h d tid off sz sx rep => Sys2Proof.Machine.execLdsc h d tid off sz sx rep s
  | .stsc h a tid off sz => Sys2Proof.Machine.execStsc h a tid off sz s
  | .lda h d tid off dbl sc => Sys2Proof.Machine.execLda h d tid off dbl sc s
  | .stl h a tid off dbl sc => Sys2Proof.Machine.execStl h a tid off dbl sc s
  | .ldm h d tid off rep => Sys2Proof.Machine.execLdm h d tid off rep s
  | .stm h a tid off rep => Sys2Proof.Machine.execStm h a tid off rep s
  | .amo h d a b c op dbl ord sc => Sys2Proof.Machine.execAmo h d a b c op dbl ord sc s
  | .famo h d a b st op dbl ord sc => Sys2Proof.Machine.execFamo h d a b st op dbl ord sc s
  | .amor h d a b c op dbl sc => Sys2Proof.Machine.execAmor h d a b c op dbl sc s
  | .red h v tid off k => Sys2Proof.Machine.execRed h v tid off k s
  | .updr h v tid sr k => Sys2Proof.Machine.execUpdr h v tid sr k s
  | .boarm h bo n => Sys2Proof.Machine.execBoarm h bo n s
  | .boclr h bo => Sys2Proof.Machine.execBoclr h bo s
  | .bord h d bo w => Sys2Proof.Machine.execBord h d bo w s
  | .cpy h bo dst src rep => Sys2Proof.Machine.execCpy h bo dst src rep s
  | .cpym h bo dst src m => Sys2Proof.Machine.execCpym h bo dst src m s
  | .cpyr h bo dst src k => Sys2Proof.Machine.execCpyr h bo dst src k s
  | .cpyd h bo dst src dig => Sys2Proof.Machine.execCpyd h bo dst src dig s
  | .mlr h bo dst src k => Sys2Proof.Machine.execMlr h bo dst src k s
  | .mst h bo dst src m => Sys2Proof.Machine.execMst h bo dst src m s
  | .rls h bo ch val => Sys2Proof.Machine.execRls h bo ch val s
  | .acqw h bo flag val => Sys2Proof.Machine.execAcqw h bo flag val s
  | .agset h bo grp rec => Sys2Proof.Machine.execAgset h bo grp rec s
  | .xfwd h t cb x rep => Sys2Proof.Machine.execXfwd h t cb x rep s
  | .xfwdb h t cb x => Sys2Proof.Machine.execXfwdb h t cb x s
  | .xbwd h t cb x rep => Sys2Proof.Machine.execXbwd h t cb x rep s
  | .xupd h t cb x d => Sys2Proof.Machine.execXupd h t cb x d s
  | .xxfr h t cb => Sys2Proof.Machine.execXxfr h t cb s
  | .xtopk h t cb x => Sys2Proof.Machine.execXtopk h t cb x s
  | .xdist h t cb x => Sys2Proof.Machine.execXdist h t cb x s
  | .xsym h t cb => Sys2Proof.Machine.execXsym h t cb s
  | .xckr h t cb => Sys2Proof.Machine.execXckr h t cb s
  | .xprg h t cb => Sys2Proof.Machine.execXprg h t cb s
  | .xscrb h t cb => Sys2Proof.Machine.execXscrb h t cb s
  | .xcal h t cb => Sys2Proof.Machine.execXcal h t cb s
  | .xnorm h t cb => Sys2Proof.Machine.execXnorm h t cb s
  | .xwset h w a => Sys2Proof.Machine.execXwset h w a s
  | .xgset h t cb => Sys2Proof.Machine.execXgset h t cb s
  | .xfenceDrain h t bo all => Sys2Proof.Machine.execXfenceDrain h t bo all s
  | .xfenceHold h t bo all => Sys2Proof.Machine.execXfenceHold h t bo all s
  | .xfenceRel h t bo all => Sys2Proof.Machine.execXfenceRel h t bo all s
  | .xstat h t cb => Sys2Proof.Machine.execXstat h t cb s
  | .fexp h bo cb acc rep => Sys2Proof.Machine.execFexp h bo cb acc rep s
  | .fexp2 h bo cb acc rep => Sys2Proof.Machine.execFexp2 h bo cb acc rep s
  | .flog h bo cb acc rep => Sys2Proof.Machine.execFlog h bo cb acc rep s
  | .flog2 h bo cb acc rep => Sys2Proof.Machine.execFlog2 h bo cb acc rep s
  | .frcp h bo cb acc rep => Sys2Proof.Machine.execFrcp h bo cb acc rep s
  | .frsq h bo cb acc rep => Sys2Proof.Machine.execFrsq h bo cb acc rep s
  | .fsqrt h bo cb acc rep => Sys2Proof.Machine.execFsqrt h bo cb acc rep s
  | .ftanh h bo cb acc rep => Sys2Proof.Machine.execFtanh h bo cb acc rep s
  | .fsig h bo cb acc rep => Sys2Proof.Machine.execFsig h bo cb acc rep s
  | .fgelu h bo cb acc rep => Sys2Proof.Machine.execFgelu h bo cb acc rep s
  | .fsilu h bo cb acc rep => Sys2Proof.Machine.execFsilu h bo cb acc rep s
  | .fsin h bo cb acc rep => Sys2Proof.Machine.execFsin h bo cb acc rep s
  | .fcos h bo cb acc rep => Sys2Proof.Machine.execFcos h bo cb acc rep s
  | .ferf h bo cb acc rep => Sys2Proof.Machine.execFerf h bo cb acc rep s
  | .fsmax h bo cb acc rep => Sys2Proof.Machine.execFsmax h bo cb acc rep s
  | .halt h => Sys2Proof.Machine.execHalt h s
  | .snap h a => Sys2Proof.Machine.execSnap h a s
  | .rstr h a => Sys2Proof.Machine.execRstr h a s
  | .mtsp h r a => Sys2Proof.Machine.execMtsp h r a s
  | .mfsp h d r => Sys2Proof.Machine.execMfsp h d r s
  | .idle h => Sys2Proof.Machine.execIdle h s
  | .stallExpiry c b => Sys2Proof.Machine.execStallExpiry c b s
  | .berthSwitch c => Sys2Proof.Machine.execBerthSwitch c s
  | .waitWake c b => Sys2Proof.Machine.execWaitWake c b s
  | .sleepcWake c b => Sys2Proof.Machine.execSleepcWake c b s
  | .sleeppWake c b => Sys2Proof.Machine.execSleeppWake c b s
  | .waitpWake c b => Sys2Proof.Machine.execWaitpWake c b s
  | .barrierWake c b => Sys2Proof.Machine.execBarrierWake c b s
  | .barrierWaitTimeout c b => Sys2Proof.Machine.execBarrierWaitTimeout c b s
  | .tokinWake c b => Sys2Proof.Machine.execTokinWake c b s
  | .tokoutWake c b => Sys2Proof.Machine.execTokoutWake c b s
  | .tokenInboxRoom c => Sys2Proof.Machine.execTokenInboxRoom c s
  | .idleWake c => Sys2Proof.Machine.execIdleWake c s
  | .droopAlarm q => Sys2Proof.Machine.execDroopAlarm q s
  | .stretchEnd q => Sys2Proof.Machine.execStretchEnd q s
  | .halfRateWindowEnd q => Sys2Proof.Machine.execHalfRateWindowEnd q s
  | .resultWriteback c => Sys2Proof.Machine.execResultWriteback c s
  | .enginePushResume c => Sys2Proof.Machine.execEnginePushResume c s
  | .vxeEntryStart c => Sys2Proof.Machine.execVxeEntryStart c s
  | .ldeEntryStart c => Sys2Proof.Machine.execLdeEntryStart c s
  | .steEntryStart c => Sys2Proof.Machine.execSteEntryStart c s
  | .memoryTransferPerformed c u r => Sys2Proof.Machine.execMemoryTransferPerformed c u r s
  | .engineEntryComplete c => Sys2Proof.Machine.execEngineEntryComplete c s
  | .deferredTrapTaken c b => Sys2Proof.Machine.execDeferredTrapTaken c b s
  | .copyAccept c absent => Sys2Proof.Machine.execCopyAccept c absent s
  | .copyUnitPerformed c k r => Sys2Proof.Machine.execCopyUnitPerformed c k r s
  | .objectCount c => Sys2Proof.Machine.execObjectCount c s
  | .bargeSend c sf => Sys2Proof.Machine.execBargeSend c sf s
  | .operandLatched t => Sys2Proof.Machine.execOperandLatched t s
  | .gateFlipSeen t => Sys2Proof.Machine.execGateFlipSeen t s
  | .bargeIssue t => Sys2Proof.Machine.execBargeIssue t s
  | .stampWindowExpiry t => Sys2Proof.Machine.execStampWindowExpiry t s
  | .arrCeilingAdmit t => Sys2Proof.Machine.execArrCeilingAdmit t s
  | .arrayCommandComplete t fail => Sys2Proof.Machine.execArrayCommandComplete t fail s
  | .sfBargeStart => Sys2Proof.Machine.execSfBargeStart s
  | .sfTransferComplete k fail => Sys2Proof.Machine.execSfTransferComplete k fail s
  | .dieJointFailure j => Sys2Proof.Machine.execDieJointFailure j s
  | .lockArrivalCount c => Sys2Proof.Machine.execLockArrivalCount c s
  | .lockReportReceived l m d => Sys2Proof.Machine.execLockReportReceived l m d s
  | .trelReceived l d trel => Sys2Proof.Machine.execTrelReceived l d trel s
  | .lockRelease l => Sys2Proof.Machine.execLockRelease l s
  | .barrierReleaseMessage l d n => Sys2Proof.Machine.execBarrierReleaseMessage l d n s
  | .estimatorWindow q => Sys2Proof.Machine.execEstimatorWindow q s
  | .intervalBoundary => Sys2Proof.Machine.execIntervalBoundary s
  | .thermalCeiling d => Sys2Proof.Machine.execThermalCeiling d s
  | .vecStepChange up => Sys2Proof.Machine.execVecStepChange up s
  | .clockStopEnd => Sys2Proof.Machine.execClockStopEnd s
  | .thermalTrip d => Sys2Proof.Machine.execThermalTrip d s
  | .quadPowerGate q => Sys2Proof.Machine.execQuadPowerGate q s
  | .wakeRequest q => Sys2Proof.Machine.execWakeRequest q s
  | .wakeHoldExpiry q => Sys2Proof.Machine.execWakeHoldExpiry q s
  | .inrushAdmit d => Sys2Proof.Machine.execInrushAdmit d s
  | .railsStable q => Sys2Proof.Machine.execRailsStable q s
  | .transientRequest d line wr => Sys2Proof.Machine.execTransientRequest d line wr s
  | .tokenMessageReceived k => Sys2Proof.Machine.execTokenMessageReceived k s
  | .requestResendTimeout d line => Sys2Proof.Machine.execRequestResendTimeout d line s
  | .persistentActivation at_ d line wr => Sys2Proof.Machine.execPersistentActivation at_ d line wr s
  | .persistentDeactivation at_ d line => Sys2Proof.Machine.execPersistentDeactivation at_ d line s
  | .lineEviction h line => Sys2Proof.Machine.execLineEviction h line s
  | .rlsMessageReceived p g rank scnt sseq flag val => Sys2Proof.Machine.execRlsMessageReceived p g rank scnt sseq flag val s
  | .rlsAckReceived p g rank sseq => Sys2Proof.Machine.execRlsAckReceived p g rank sseq s
  | .fabricWriteReceived p g rank num ppa va bs comb obj => Sys2Proof.Machine.execFabricWriteReceived p g rank num ppa va bs comb obj s
  | .fabricResend p g rank => Sys2Proof.Machine.execFabricResend p g rank s
  | .agsetInstall c => Sys2Proof.Machine.execAgsetInstall c s
  | .qtailWrite b q v => Sys2Proof.Machine.execQtailWrite b q v s
  | .slotRead b q => Sys2Proof.Machine.execSlotRead b q s
  | .dependenceTest l => Sys2Proof.Machine.execDependenceTest l s
  | .turnGrant p => Sys2Proof.Machine.execTurnGrant p s
  | .placement p => Sys2Proof.Machine.execPlacement p s
  | .copyLaunch l => Sys2Proof.Machine.execCopyLaunch l s
  | .loadingComplete l => Sys2Proof.Machine.execLoadingComplete l s
  | .startingLockRelease l => Sys2Proof.Machine.execStartingLockRelease l s
  | .completionWrite l => Sys2Proof.Machine.execCompletionWrite l s
  | .watchdogTest => Sys2Proof.Machine.execWatchdogTest s
  | .preemptionRequest l => Sys2Proof.Machine.execPreemptionRequest l s
  | .imageWritten l => Sys2Proof.Machine.execImageWritten l s
  | .gangResume l => Sys2Proof.Machine.execGangResume l s
  | .gctlResume b q seq => Sys2Proof.Machine.execGctlResume b q seq s
  | .gctlDiscard b q seq => Sys2Proof.Machine.execGctlDiscard b q seq s
  | .prepare l gid tlim gang heat => Sys2Proof.Machine.execPrepare l gid tlim gang heat s
  | .prepareReply l rank ack => Sys2Proof.Machine.execPrepareReply l rank ack s
  | .commit gid tc => Sys2Proof.Machine.execCommit gid tc s
  | .abort gid => Sys2Proof.Machine.execAbort gid s
  | .tlimExpiry l => Sys2Proof.Machine.execTlimExpiry l s
  | .gangBarrierTimeout l => Sys2Proof.Machine.execGangBarrierTimeout l s
  | .partitionTableWrite p r v => Sys2Proof.Machine.execPartitionTableWrite p r v s
  | .addTwinWrite p r v => Sys2Proof.Machine.execAddTwinWrite p r v s
  | .relTwinWrite p r v deadline => Sys2Proof.Machine.execRelTwinWrite p r v deadline s
  | .rszackWrite p rid => Sys2Proof.Machine.execRszackWrite p rid s
  | .resizeDeadline p => Sys2Proof.Machine.execResizeDeadline p s
  | .scrubGateDone x fails => Sys2Proof.Machine.execScrubGateDone x fails s
  | .tinvWrite p v => Sys2Proof.Machine.execTinvWrite p v s
  | .tinvComplete p => Sys2Proof.Machine.execTinvComplete p s
  | .pageWalkComplete d p ctx va => Sys2Proof.Machine.execPageWalkComplete d p ctx va s
  | .bindUnbind p idx => Sys2Proof.Machine.execBindUnbind p idx s
  | .flr p => Sys2Proof.Machine.execFlr p s
  | .flrReady p => Sys2Proof.Machine.execFlrReady p s
  | .hostWindowRead p off n => Sys2Proof.Machine.execHostWindowRead p off n s
  | .hostWindowWrite p off bs => Sys2Proof.Machine.execHostWindowWrite p off bs s
  | .hostCompletion c u r => Sys2Proof.Machine.execHostCompletion c u r s
  | .domainJoin => Sys2Proof.Machine.execDomainJoin s
  | .domainLeave => Sys2Proof.Machine.execDomainLeave s
  | .offsetMeasure off => Sys2Proof.Machine.execOffsetMeasure off s
  | .pllLockLoss => Sys2Proof.Machine.execPllLockLoss s
  | .bportEnableWrite n en => Sys2Proof.Machine.execBportEnableWrite n en s
  | .linkTrained n peer => Sys2Proof.Machine.execLinkTrained n peer s
  | .trainingTimeout n => Sys2Proof.Machine.execTrainingTimeout n s
  | .linkError n => Sys2Proof.Machine.execLinkError n s
  | .retrainResult n ok => Sys2Proof.Machine.execRetrainResult n ok s
  | .downRetry n => Sys2Proof.Machine.execDownRetry n s
  | .flitReplay n => Sys2Proof.Machine.execFlitReplay n s
  | .portStateFlit m ups => Sys2Proof.Machine.execPortStateFlit m ups s
  | .maintenanceDue t sym => Sys2Proof.Machine.execMaintenanceDue t sym s
  | .wornSet t => Sys2Proof.Machine.execWornSet t s
  | .healthRecordAppend => Sys2Proof.Machine.execHealthRecordAppend s
  | .patrolScrub a bad => Sys2Proof.Machine.execPatrolScrub a bad s
  | .readhealth => Sys2Proof.Machine.execReadhealth s
  | .readtotals => Sys2Proof.Machine.execReadtotals s
  | .readcert => Sys2Proof.Machine.execReadcert s
  | .quote => Sys2Proof.Machine.execQuote s
  | .signman => Sys2Proof.Machine.execSignman s
  | .install => Sys2Proof.Machine.execInstall s
  | .remap => Sys2Proof.Machine.execRemap s
  | .loadfw => Sys2Proof.Machine.execLoadfw s
  | .mailboxBadOp op => Sys2Proof.Machine.execMailboxBadOp op s
  | .mailboxDone => Sys2Proof.Machine.execMailboxDone s
  | .moduleReset => Sys2Proof.Machine.execModuleReset s
  | .bootVerify => Sys2Proof.Machine.execBootVerify s
  | .perstRelease => Sys2Proof.Machine.execPerstRelease s
  | .powerLoss => Sys2Proof.Machine.execPowerLoss s
  | .registerWrite r v => Sys2Proof.Machine.execRegisterWrite r v s
  | .rcRegisterRead r => Sys2Proof.Machine.execRcRegisterRead r s
  | .fabricRequestReceived p ppa va n op from_ => Sys2Proof.Machine.execFabricRequestReceived p ppa va n op from_ s
  | .dieJointRetrained j => Sys2Proof.Machine.execDieJointRetrained j s
  | .fabricPllLock => Sys2Proof.Machine.execFabricPllLock s
  | .timeExchange off => Sys2Proof.Machine.execTimeExchange off s
  | .junctionTemperatureSample t => Sys2Proof.Machine.execJunctionTemperatureSample t s
  | .doeRequest req => Sys2Proof.Machine.execDoeRequest req s

end Sys2Proof.Machine
end

