-- ==== Sys2Proof/Machine/RunEvent.lean ====
section
/-! DEFINITION. What a queued event does: the meaning that `exec` gives to the constructor of `Instr` of the same
name. -/

namespace Sys2Proof.Machine

open Sys2Proof

/-- What an event does. -/
def runEv (e : Ev) (s : State) : Out :=
  match e with
  | .stallExpiry c b => execStallExpiry c b s
  | .berthSwitch c => execBerthSwitch c s
  | .waitWake c b => execWaitWake c b s
  | .sleepcWake c b => execSleepcWake c b s
  | .sleeppWake c b => execSleeppWake c b s
  | .waitpWake c b => execWaitpWake c b s
  | .barrierWake c b => execBarrierWake c b s
  | .barrierWaitTimeout c b => execBarrierWaitTimeout c b s
  | .tokinWake c b => execTokinWake c b s
  | .tokoutWake c b => execTokoutWake c b s
  | .tokenInboxRoom c => execTokenInboxRoom c s
  | .idleWake c => execIdleWake c s
  | .droopAlarm q => execDroopAlarm q s
  | .stretchEnd q => execStretchEnd q s
  | .halfRateWindowEnd q => execHalfRateWindowEnd q s
  | .resultWriteback c => execResultWriteback c s
  | .enginePushResume c => execEnginePushResume c s
  | .vxeEntryStart c => execVxeEntryStart c s
  | .ldeEntryStart c => execLdeEntryStart c s
  | .steEntryStart c => execSteEntryStart c s
  | .memoryTransferPerformed c u r => execMemoryTransferPerformed c u r s
  | .engineEntryComplete c => execEngineEntryComplete c s
  | .deferredTrapTaken c b => execDeferredTrapTaken c b s
  | .copyAccept c absent => execCopyAccept c absent s
  | .copyUnitPerformed c k r => execCopyUnitPerformed c k r s
  | .objectCount c => execObjectCount c s
  | .bargeSend c sf => execBargeSend c sf s
  | .operandLatched t => execOperandLatched t s
  | .gateFlipSeen t => execGateFlipSeen t s
  | .bargeIssue t => execBargeIssue t s
  | .stampWindowExpiry t => execStampWindowExpiry t s
  | .arrCeilingAdmit t => execArrCeilingAdmit t s
  | .arrayCommandComplete t fail => execArrayCommandComplete t fail s
  | .sfBargeStart => execSfBargeStart s
  | .sfTransferComplete k fail => execSfTransferComplete k fail s
  | .dieJointFailure j => execDieJointFailure j s
  | .lockArrivalCount c => execLockArrivalCount c s
  | .lockReportReceived l m d => execLockReportReceived l m d s
  | .trelReceived l d trel => execTrelReceived l d trel s
  | .lockRelease l => execLockRelease l s
  | .barrierReleaseMessage l d n => execBarrierReleaseMessage l d n s
  | .estimatorWindow q => execEstimatorWindow q s
  | .intervalBoundary => execIntervalBoundary s
  | .thermalCeiling d => execThermalCeiling d s
  | .vecStepChange up => execVecStepChange up s
  | .clockStopEnd => execClockStopEnd s
  | .thermalTrip d => execThermalTrip d s
  | .quadPowerGate q => execQuadPowerGate q s
  | .wakeRequest q => execWakeRequest q s
  | .wakeHoldExpiry q => execWakeHoldExpiry q s
  | .inrushAdmit d => execInrushAdmit d s
  | .railsStable q => execRailsStable q s
  | .transientRequest d line wr => execTransientRequest d line wr s
  | .tokenMessageReceived k => execTokenMessageReceived k s
  | .requestResendTimeout d line => execRequestResendTimeout d line s
  | .persistentActivation at_ d line wr => execPersistentActivation at_ d line wr s
  | .persistentDeactivation at_ d line => execPersistentDeactivation at_ d line s
  | .lineEviction h line => execLineEviction h line s
  | .rlsMessageReceived p g rank scnt sseq flag val => execRlsMessageReceived p g rank scnt sseq flag val s
  | .rlsAckReceived p g rank sseq => execRlsAckReceived p g rank sseq s
  | .fabricWriteReceived p g rank num ppa va bs comb obj => execFabricWriteReceived p g rank num ppa va bs comb obj s
  | .fabricResend p g rank => execFabricResend p g rank s
  | .agsetInstall c => execAgsetInstall c s
  | .qtailWrite b q v => execQtailWrite b q v s
  | .slotRead b q => execSlotRead b q s
  | .dependenceTest l => execDependenceTest l s
  | .turnGrant p => execTurnGrant p s
  | .placement p => execPlacement p s
  | .copyLaunch l => execCopyLaunch l s
  | .loadingComplete l => execLoadingComplete l s
  | .startingLockRelease l => execStartingLockRelease l s
  | .completionWrite l => execCompletionWrite l s
  | .watchdogTest => execWatchdogTest s
  | .preemptionRequest l => execPreemptionRequest l s
  | .imageWritten l => execImageWritten l s
  | .gangResume l => execGangResume l s
  | .gctlResume b q seq => execGctlResume b q seq s
  | .gctlDiscard b q seq => execGctlDiscard b q seq s
  | .prepare l gid tlim gang heat => execPrepare l gid tlim gang heat s
  | .prepareReply l rank ack => execPrepareReply l rank ack s
  | .commit gid tc => execCommit gid tc s
  | .abort gid => execAbort gid s
  | .tlimExpiry l => execTlimExpiry l s
  | .gangBarrierTimeout l => execGangBarrierTimeout l s
  | .partitionTableWrite p r v => execPartitionTableWrite p r v s
  | .addTwinWrite p r v => execAddTwinWrite p r v s
  | .relTwinWrite p r v deadline => execRelTwinWrite p r v deadline s
  | .rszackWrite p rid => execRszackWrite p rid s
  | .resizeDeadline p => execResizeDeadline p s
  | .scrubGateDone x fails => execScrubGateDone x fails s
  | .tinvWrite p v => execTinvWrite p v s
  | .tinvComplete p => execTinvComplete p s
  | .pageWalkComplete d p ctx va => execPageWalkComplete d p ctx va s
  | .bindUnbind p idx => execBindUnbind p idx s
  | .flr p => execFlr p s
  | .flrReady p => execFlrReady p s
  | .hostWindowRead p off n => execHostWindowRead p off n s
  | .hostWindowWrite p off bs => execHostWindowWrite p off bs s
  | .hostCompletion c u r => execHostCompletion c u r s
  | .domainJoin => execDomainJoin s
  | .domainLeave => execDomainLeave s
  | .offsetMeasure off => execOffsetMeasure off s
  | .pllLockLoss => execPllLockLoss s
  | .bportEnableWrite n en => execBportEnableWrite n en s
  | .linkTrained n peer => execLinkTrained n peer s
  | .trainingTimeout n => execTrainingTimeout n s
  | .linkError n => execLinkError n s
  | .retrainResult n ok => execRetrainResult n ok s
  | .downRetry n => execDownRetry n s
  | .flitReplay n => execFlitReplay n s
  | .portStateFlit m ups => execPortStateFlit m ups s
  | .maintenanceDue t sym => execMaintenanceDue t sym s
  | .wornSet t => execWornSet t s
  | .healthRecordAppend => execHealthRecordAppend s
  | .patrolScrub a bad => execPatrolScrub a bad s
  | .readhealth => execReadhealth s
  | .readtotals => execReadtotals s
  | .readcert => execReadcert s
  | .quote => execQuote s
  | .signman => execSignman s
  | .install => execInstall s
  | .remap => execRemap s
  | .loadfw => execLoadfw s
  | .mailboxBadOp op => execMailboxBadOp op s
  | .mailboxDone => execMailboxDone s
  | .moduleReset => execModuleReset s
  | .bootVerify => execBootVerify s
  | .perstRelease => execPerstRelease s
  | .powerLoss => execPowerLoss s
  | .registerWrite r v => execRegisterWrite r v s
  | .rcRegisterRead r => execRcRegisterRead r s
  | .fabricRequestReceived p ppa va n op from_ => execFabricRequestReceived p ppa va n op from_ s
  | .dieJointRetrained j => execDieJointRetrained j s
  | .fabricPllLock => execFabricPllLock s
  | .timeExchange off => execTimeExchange off s
  | .junctionTemperatureSample t => execJunctionTemperatureSample t s
  | .doeRequest req => execDoeRequest req s

end Sys2Proof.Machine
end

