-- ==== Sys2Proof/Machine/Cycle.lean ====
section
/-! DEFINITION. One core cycle and one fabric tick: which words are issued and which events are due when
(spec 02 R20 to R26, 03 R39, 06 R83, 07 R103 to R122, 20 R306 to R308, R313; log 1). -/

namespace Sys2Proof.Machine

open Sys2Proof

/-! ## The round of cores -/

/-- The first active core from a number on. -/
def State.activeFrom (s : State) (n : Nat) : Option CoreId :=
  (List.finRange 128).find? (fun c => decide (n ≤ c.val) && (s.core c).active)

/-- A quad's core cycle: stretches and windows run down, and the estimator's window grows with each core cycle that ends; a
stretched cycle takes two rounds (02 R24, 15 R274). -/
def Quad.cycle (x : Quad) : Quad :=
  let x := { x with cycles := if x.stretch ≠ 0 ∧ !x.half then x.cycles else x.cycles + 1 }
  if x.stretch ≠ 0 then
    if !x.half then { x with half := true }
    else if x.stretch = 1 then x else { x with stretch := x.stretch - 1, half := false }
  else if 1 < x.window then { x with window := x.window - 1 } else x

/-- The end of a stretch or of a window with a quad's core cycle: an alarm whose edge lies in that cycle comes before (02 R24). -/
def quadEnds (q : QuadId) (x : Quad) : List Ev :=
  (if x.stretch = 1 ∧ x.half then [.stretchEnd q] else []) ++ (if x.stretch = 0 ∧ x.window = 1 then [.halfRateWindowEnd q] else [])

/-- The estimator's window that ends with a quad's core cycle. -/
def quadEvents (q : QuadId) (x : Quad) : List Ev :=
  (if 127 ≤ x.cycles ∧ ¬(x.stretch ≠ 0 ∧ !x.half) then [.estimatorWindow q] else [])

/-- A quad's cores have had a cycle. -/
def State.quadRuns (s : State) (q : QuadId) : Bool := !s.clockStop && decide ((s.quad q).power = .on)

/-- The round of cores ends: every clocked quad has had its cycle, and 16 twentieths of a tick at 2.0 GHz have gone by. -/
def roundEnd (s : State) : State :=
  let es := (List.finRange 32).flatMap (fun q => if s.quadRuns q then quadEvents q (s.quad q) else [])
  let ds := (List.finRange 32).flatMap (fun q => if s.quadRuns q then quadEnds q (s.quad q) else [])
  let s := (List.finRange 32).foldl (fun s q => if s.quadRuns q then s.setQuad q (s.quad q).cycle else s) s
  { s.push es with stage := .tick, frac := s.frac + 16, ends := ds }

/-- The next core's cycle comes, or the round ends. -/
def nextCore (s : State) : State :=
  match s.activeFrom (s.cur.val + 1) with
  | some c => { s with cur := c, stage := .wake }
  | none => roundEnd s

/-- A core is clocked in this cycle: its quad is awake, VEC stands still, and it is not the second half of a stretched
cycle (02 R20, R24). -/
def State.clocked (s : State) (c : CoreId) : Bool :=
  let q := s.quad (quadOf c)
  (s.core c).active && !s.clockStop && decide (q.power = .on) && !(decide (q.stretch ≠ 0) && q.half)

/-- Every berth that has not ended is idle under IDLE (02 R21). -/
def Core.idle (k : Core) : Bool :=
  k.berths.toList.all (fun b => !b.started || b.exited || decide (b.wait = .idle))
  && k.berths.toList.any (fun b => decide (b.wait = .idle))

/-! ## Ends of waits (07 R103, R104) -/

/-- A deferred trap of a berth stands to be taken; one that has exited has no handler's RTT to wait for (09 R150, 20 R305). -/
def Berth.trapDue (x : Berth) : Bool := !x.pend.isEmpty && (x.exited || !x.unitHandler)

/-- Events that a berth's wait may end with (07 R104). -/
def wakeEvents (c : CoreId) (b : BerthId) (x : Berth) : List Ev :=
  if x.exited || !x.started then (if x.trapDue then [.deferredTrapTaken c b] else [])
  else match x.wait with
    | .none | .lock | .idle => if x.trapDue && decide (x.wait ≠ .none) then [.deferredTrapTaken c b] else []
    | w => (if x.trapDue then [.deferredTrapTaken c b] else []) ++ (match w with
      | .wait => [.waitWake c b]
      | .bar .. => [.barrierWake c b, .barrierWaitTimeout c b]
      | .tokin .. => [.tokinWake c b]
      | .tokout .. => [.tokoutWake c b]
      | .sleepc _ => [.sleepcWake c b]
      | .sleepp .. => [.sleeppWake c b]
      | .waitp .. => [.waitpWake c b]
      | _ => [])

/-- A strand that RSTR has replaced resumes with this cycle, and a request to stop takes effect at the boundary before it (20 R313,
R321). A berth whose wait is over by now is ready in this
cycle; a stopped core wakes none. -/
def wakeCycle (s : State) : State :=
  let c := s.cur
  let s := if s.clocked c && s.self.restart then resumeCore c s else s
  let s := if s.clocked c && s.self.stopping then s.updCore c Core.halt else s
  let k := s.self
  { s with
    todo := if s.clocked c && !k.stopped then (List.finRange 4).flatMap (fun b => wakeEvents c b (k.berth b)) else [],
    stage := .issue }

/-! ## Issue (02 R22 steps 1 to 5) -/

/-- A trap of the sequencer at the word of the running berth. -/
def fetchTrap (tval : W64) (s : State) : State :=
  let c := s.cur
  let b := (s.core c).cur
  let x := s.berth c b
  takeTrap c b .illop 7 tval x.pc x.pc (s.updBerth c b (fun x => { x with entering := none }))

/-- A fetch outside the image raises ILLOP with TVAL the word that set the pc; at a handler's entry the trap that led
there is escalated, whose TCAUSE, TVAL and EPC stand as it set them (07 R106, 20 R305, R308). -/
def badFetch (s : State) : State :=
  let c := s.cur
  let b := (s.core c).cur
  let x := s.berth c b
  match x.entering with
  | none => fetchTrap x.setter s
  | some word => escalate c b word (s.updBerth c b (fun y => { y with entering := none }))

/-- A word that decodes to nothing raises ILLOP, whatever its guards (06 R93 order 1, 20 R305). -/
def badCode (r : Reject) (w : W128) (s : State) : State :=
  let c := s.cur
  let b := (s.core c).cur
  let x := s.berth c b
  let r := rejectOn (s.core c) w r
  takeTrap c b .illop r.slotNo (r.tval w) x.pc x.pc (s.updBerth c b (fun x => { x with entering := none }))

/-- The state in which the word of a cycle executes: the engines come next, and the PMC events of the cycle are none
yet. -/
def prepare_ (s : State) : State :=
  { s.updCore s.cur (fun k => { k with issued := 0, switched := 0 }) with stage := .engines }

/-- What keeps the sequencer from issuing in this cycle. A trap that a berth takes while the STALL count of another berth runs lets its
handler issue once that count has run out too (06 R83 against 20 R306: DESIGN CHOICE, log 80). -/
def Core.mute (k : Core) : Bool :=
  k.stopped || k.halted || decide (0 < k.skip) || k.berths.toList.any (fun x => decide (0 < x.stall))

/-- A half-rate window lets words issue in the first of its 64 cycles, the third, and so on (02 R24; 11_program_droop, "The
run"). -/
def halfRate (q : Quad) : Bool := decide (q.stretch = 0 ∧ q.window % 2 = 1)

/-- The word at the running berth's pc: it executes, or it traps, unless its queue is full (02 R22). -/
def fetch (s : State) : Out :=
  match s.codeWord s.cur s.me.pc with
  | none => .next (badFetch s)
  | some w =>
    if let some a := s.codeErr s.cur s.me.pc then .next (s.meetsUce s.cur s.self.cur 2 a)
    else match decode w with
    | .ok i => exec i s
    | .error r => .next (if r ≠ .opcode ∧ s.holdsOff (fld w 127 118) then s else badCode r w s)

/-- A cycle in which nothing issues. -/
def muteCycle (s : State) : State :=
  s.updCore s.cur (fun k =>
    if k.stopped then { k with frozen := true } else if k.halted then k else { k with skip := k.skip - 1 })

/-- Steps 1 to 5 of a core's cycle. -/
def issueCycle (s : State) : Out :=
  let k := s.self
  let t := prepare_ s
  if !s.clocked s.cur then .next (nextCore s)
  else if k.mute then .next (muteCycle t)
  else if !k.running then execBerthSwitch s.cur t
  else if halfRate (s.quad (quadOf s.cur)) then .next t
  else if s.me.trapDue then execDeferredTrapTaken s.cur k.cur t
  else fetch t

/-! ## Engines (02 R22, 09, 10) -/

/-- What the engines of a core do in a cycle; a stopped core starts nothing (20 R314). -/
def engineEvents (s : State) (c : CoreId) : List Ev :=
  let k := s.core c
  let go := fun (l : List Ev) => if k.stopped then [] else l
  [.engineEntryComplete c] ++ go [.vxeEntryStart c, .ldeEntryStart c] ++ [.memoryTransferPerformed c .lde .ok]
  ++ go [.steEntryStart c] ++ [.memoryTransferPerformed c .ste .ok] ++ go [.copyAccept c 0]
  ++ k.counts.map (fun _ => .objectCount c) ++ go [.bargeSend c false, .bargeSend c true]

/-- An uncorrectable error that the sequencer has met is reported, and its gang saved as at an access fault (27 R372). -/
def takeUce (c : CoreId) (s : State) : State :=
  match (s.core c).uce with
  | none => s
  | some (n, a, b) =>
    let s := bump (hUncorr n.val) 1 (s.updCore c (fun k => { k with uce := none }))
    faultGang c 0x02 a (coreFault c b 0x02 0 a a s)

def engineCycle (s : State) : State := takeUce s.cur { s with todo := engineEvents s s.cur, stage := .writeback }

/-! ## Writeback (02 R22 step 6) -/

/-- Results that are due are written; what is in flight in a frozen core stands still (20 R313). -/
def writebackCycle (s : State) : State :=
  { s with todo := if s.self.frozen then [] else [.resultWriteback s.cur, .enginePushResume s.cur], stage := .advance }

/-! ## Fences (07 R120, R122, 09 R162) -/

/-- A queued entry has a shape record to read: a form of the load and store engines with REF, a copy, an array or special-function
command (07 R122, 09 R149, 10 R193). -/
def readsRecord (q : QEntry) : Bool :=
  let opc := opcOf q.ins
  if 0x200 ≤ opc ∧ opc < 0x280 then !(copyTids q).isEmpty
  else if 0x280 ≤ opc ∧ opc < 0x300 then (lmInputs q.ins).1 || (lmInputs q.ins).2 || decide (outForm q ≠ .none)
  else usesRecord q.ins || decide (0x300 ≤ opc)

/-- A fence still waits for accesses of its berth. -/
def Core.fenceWaits (k : Core) (b : BerthId) (f : Fence) : Bool :=
  match f.only with
  | some id => k.acc.any (fun a => decide (a.id = id ∧ a.kinds ≠ 0))
  | none =>
    k.acc.any (fun a => decide (a.berth = b ∧ a.id < f.upto ∧ a.kinds &&& f.pre ≠ 0))
    || (match f.act with
      | .rcinv _ => (k.ldeQ ++ k.steQ ++ k.cpyQ ++ k.arrQ ++ k.sfQ).any (fun q => decide (q.berth = b ∧ q.id < f.upto) && readsRecord q)
      | _ => false)

/-- Cached translations of a context go: the page of one address, or all (21 R326). -/
def dropPages (x : Ctx) (va : Option W64) (l : List TlbE) : List TlbE :=
  l.filter (fun e => !(decide (e.s2 = false ∧ e.part = x.part ∧ e.ctx = x.ctx)
    && (match va with
      | some a => decide (e.va ≤ a.toNat ∧ a.toNat < e.va + e.size)
      | none => true)))

/-- Cached shape records go: the named one of the context, or all of the partition's (13 R251). -/
def dropRecs (x : Ctx) (tid : Option (Fin 4096)) (l : List RecE) : List RecE :=
  l.filter (fun r => !(match tid with
    | some t => decide (r.part = x.part ∧ r.ctx = x.ctx ∧ r.tid = t)
    | none => decide (r.part = x.part)))

/-- What a fence does once its wait is over. -/
def fenceAct (c : CoreId) (a : FenceAct) (s : State) : State :=
  let x := s.coreCtx c
  match a with
  | .none => s
  | .tinv va =>
    { s with dies := s.dies.map (fun d => { d with tlb := dropPages x va d.tlb }),
             cores := s.cores.map (fun k => { k with tlb := dropPages x va k.tlb }) }
  | .rcinv t => { s with dies := s.dies.map (fun d => { d with recs := dropRecs x t d.recs }) }

/-- Fences of a berth whose waits are over end, and act. -/
def settleFences (c : CoreId) (b : BerthId) (s : State) : State :=
  let k := s.core c
  let (stay, done) := (k.berth b).fences.partition (k.fenceWaits b)
  done.foldl (fun s f => fenceAct c f.act s) (s.updBerth c b (fun x => { x with fences := stay }))

/-! ## The end of a core's cycle -/

/-- A STALL count runs from the cycle after its word's (06 R83). -/
def Berth.tickStall (x : Berth) : Berth := if 1 < x.stall then { x with stall := x.stall - 1 } else x

/-- The berth whose word issued in this cycle does not count its STALL yet. -/
def Core.counts_ (k : Core) (b : BerthId) : Bool := !(decide (k.issued = 1) && decide (b = k.cur))

def Core.tickStalls (k : Core) : Core :=
  (List.finRange 4).foldl (fun k b => if k.counts_ b then k.updBerth b Berth.tickStall else k) k

/-- STALL counts that end with this cycle. -/
def stallEvents (c : CoreId) (k : Core) : List Ev :=
  (List.finRange 4).filterMap (fun b => if k.counts_ b && decide ((k.berth b).stall = 1) then some (.stallExpiry c b) else none)

/-- LCY and the PMC events of a cycle; the cycle in which the last IDLE issues counts still (02 R21, 03 R39, R40). Events of an MTS's
own cycle count on top of the value that it wrote into a PMC (DESIGN CHOICE, log 80). -/
def Core.clock (k : Core) : Core :=
  let k := if k.stopped || (k.idle && decide (k.issued = 0)) then k
    else { ((k.count 1 1).count 2 k.issued).count 3 k.switched with lcy := k.lcy + 1 }
  { k with pmon := k.pmsel }

/-- Copies of tokens wait for this core's inbox. -/
def State.owedToken (s : State) (c : CoreId) : Bool :=
  match s.gangOf c with
  | some (_, l) => decide ((s.core c).inbox.length < inboxSize) && (s.part l.part).tokens.any (fun t => t.owed.contains c)
  | none => false

/-- A strand of the gang has a berth that has not ended. -/
def State.someRuns (s : State) (l : Launch) : Bool :=
  l.cores.any (fun c => (s.core c).berths.toList.any (fun b => b.started && !b.exited))

/-- Every berth of the strand stands at the lock or has ended, and its arrival has not been reported. Of a gang on this module a
strand that runs is left; over several modules that may be on another (12 R228). -/
def State.newlyArrived (s : State) (c : CoreId) : Bool :=
  match s.gangOf c with
  | some (_, l) =>
    decide (l.state = .started ∧ l.gang = .running) && !l.counted.contains c && s.strandArrived c && (l.mmod || s.someRuns l)
    && !s.inputs.any (fun e => decide (e.2 = .lockArrivalCount c))
  | none => false

/-- Typical ticks from the arrival of a strand's last berth to its count (12 R228). -/
def arrivalTicks : Nat := 8

/-- A core that was stopped to be saved, or that a SNAP stopped, has finished (20 R314, R321). -/
def saveEvents (s : State) (c : CoreId) : List Ev :=
  match s.gangOf c with
  | some (i, l) => if s.quiet c && (l.pre.isSome || (s.core c).snap.isSome) then [.imageWritten i] else []
  | none => []

/-- Cycles gone by since a pre-emption, and since a FIFO_OVF that the load engine's results await the RTT of (20 R315). -/
def Core.agePast (k : Core) : Core :=
  { k with since := if k.frozen then k.since + 1 else k.since,
           lde := k.lde.map (fun a => if a.hold.isSome ∧ !k.frozen then { a with age := a.age + 1 } else a) }

/-- What ends a core's cycle: fences, STALL counts, LCY; a strand that has ended discards what its FIFOs hold (07 R107). -/
def advanceCycle (s : State) : State :=
  let c := s.cur
  let s := (List.finRange 4).foldl (fun s b => settleFences c b s) s
  let s := if s.strandEnded c then s.dropFifos c else s
  let k := s.core c
  let es := (if k.stopped then [] else stallEvents c k) ++ (if s.owedToken c then [.tokenInboxRoom c] else [])
    ++ saveEvents s c
  let s := if s.newlyArrived c then s.later arrivalTicks (.lockArrivalCount c) else s
  let s := s.updCore c (fun k => (if k.stopped then k else k.tickStalls).clock.agePast)
  nextCore { s with todo := es }

/-! ## The tick -/

/-- Every `n` ticks. -/
def every (n : Nat) (s : State) (l : List Ev) : List Ev := if s.cyc.toNat % n = 0 then l else []

/-- What a launch may be waiting for (19 R298, 12 R228, R230, 19 R304). -/
def launchEvents (s : State) (x : Nat × Launch) : List Ev :=
  let (i, l) := x
  (if l.state = .completing ∧ completionTicks ≤ since s l.ended then [.completionWrite i] else [])
  ++ (if l.gang = .releasing ∧ cycGe s.cyc l.trel then [.lockRelease i] else [])
  ++ (if l.state = .resuming ∧ cycGe s.cyc l.resumed then [.gangResume i] else [])
  ++ (if l.state = .held ∧ l.turn ∧ l.quads.all s.awake then [.gangResume i] else [])
  ++ (if l.mmod ∧ l.firstReport.isSome then [.gangBarrierTimeout i] else [])

/-- What the barges at a pair may do in a tick. -/
def pairEvents (t : PairId) : List Ev :=
  [.arrayCommandComplete t false, .operandLatched t, .gateFlipSeen t, .bargeIssue t, .stampWindowExpiry t]

/-- What the special-function die may do in a tick: later barges first, so that the numbers stand. -/
def sfEvents (s : State) : List Ev :=
  if s.sfRun.isEmpty then [] else .sfBargeStart :: ((List.range s.sfRun.length).reverse.map (fun k => .sfTransferComplete k false))

/-- Accepted commands whose time has come, oldest first (15 R277); a stopped core goes on with those that must complete
(20 R315). -/
def copyEvents (s : State) (c : CoreId) : List Ev :=
  let k := s.core c
  let all := (List.finRange 8).filterMap (fun i => (k.copies.get i).map (fun y => (i, y)))
  (all.mergeSort (fun a b => decide (a.2.q.id ≤ b.2.q.id))).flatMap (fun x =>
    if cycGe s.cyc x.2.at_ && k.goesOn x.2 then
      List.replicate (if x.2.targets.isEmpty then 1 else s.unitsPerTick c x.2.path) (Ev.copyUnitPerformed c x.1 .ok)
    else [])

/-- Pairs that the maintenance sequencer looks at, and those that firmware finds worn. -/
def dueEvents (s : State) : List Ev :=
  (List.finRange 1088).flatMap (fun t =>
    (if s.due t false then [Ev.maintenanceDue t false] else []) ++ (if s.due t true then [Ev.maintenanceDue t true] else [])
    ++ (if s.wornDue t then [Ev.wornSet t] else []))

/-- Lines with an error that the patrol, which reads every line once in 2^47 ticks, finds (27 R373; log 20). -/
def patrolEvents (s : State) : List Ev :=
  ((s.bad.filter patrolled).map (fun g => g / 128 * 128)).eraseDups.map (fun a => .patrolScrub (.mem (BitVec.ofNat 64 a)) true)

/-- The events of a tick; those that find nothing to do leave the machine as it is. A sensor shows what it last showed, and so does
the time master's offset, unless the outside tells otherwise (log 2). -/
def tickEvents (s : State) : List Ev :=
  every 1024 s [.watchdogTest]
  ++ every 16384 s ((s.numbered.filter (fun x => decide (x.2.state = .waiting))).map (fun x => .dependenceTest x.1))
  ++ every (2 ^ 47) s (patrolEvents s)
  ++ every (2 ^ 20) s (.junctionTemperatureSample []
      :: (if s.dom = .joined then [Ev.offsetMeasure s.domOffs] else []) ++ dueEvents s)
  ++ every 5760000000 s [.healthRecordAppend]
  ++ s.numbered.flatMap (launchEvents s)
  ++ s.writeWait.head?.toList.map Ev.arrCeilingAdmit
  ++ (List.finRange 1088).flatMap (fun t => if (s.pair t).slots.isEmpty then [] else pairEvents t)
  ++ sfEvents s ++ (List.finRange 128).flatMap (copyEvents s)

/-- One tick: CYC advances; at a boundary the new interval's grants come first (15 R280), then what is due from outside arrives, and the
events of the tick follow. -/
def tick (s : State) : State :=
  let s := endGangs (finishReleases { s with frac := s.frac - s.freq, cyc := s.cyc + 1 })
  let (due, rest) := s.inputs.partition (fun e => cycGe s.cyc e.1)
  { s with inputs := rest, todo := s.todo ++ every 1024 s [.intervalBoundary] ++ due.map (fun e => e.2) ++ tickEvents s }

/-- After a round of cores, ticks until CYC has caught up. -/
def tickStage (s : State) : State :=
  if s.freq ≤ s.frac then tick s else { s with stage := .wake, cur := (s.activeFrom 0).getD 0, todo := s.todo ++ s.ends, ends := [] }

/-! ## Without power (27 R382, R383) -/

/-- What happens without power: a mailbox command ends, where the security block kept its rail (27 R382); else the first module reset or
power-up that the outside asks for. -/
def resetEvent (s : State) : Option Ev :=
  let l := s.todo ++ s.inputs.map (fun e => e.2)
  if s.flash.trip ∧ s.mbox.busy ∧ l.contains .mailboxDone then some .mailboxDone
  else l.find? (fun e => decide (e = .moduleReset))

/-! ## Placing a word where the next fetch finds it (log 31) -/

/-- A launch that runs on core 0 alone, with an image of one word. -/
def oneWordLaunch : Launch :=
  { blk := .pf0, queue := 0, seq := 0, ctx := 0, part := 0,
    record := ((Vector.replicate 16 (0 : W64)).set 1 (1 + 1 <<< 32)), deps := [], state := .started, gang := .running,
    cores := [0], quads := [0], vmap := [0], rank0 := 0, size := 1, comm := false, trel := 0, trelAt := [], counted := [],
    reports := [], gone := [], allOver := false, expects := [], released := [], firstReport := none, 
    bars := .replicate 96 (0, 0, false), phs := 0, start := 0, resumed := 0, fcode := 0,
    det := 0, aborted := false, pre := none, savedCores := [], turn := false, copied := 0, tlim := 0, acks := [], ended := 0 }

/-- The image of one word. -/
def oneWordImage (l w : Nat) : Image :=
  { code := 0, csize := 1, ctx := 0, part := 0, bytes := Mem.writes [] 0 (toBytes 16 w), bad := [], users := [l] }

/-- A core about to issue its first word. -/
def firstWordCore (l : Nat) (k : Core) : Core :=
  { k with active := true, launch := some l, stopped := false, frozen := false, halted := false, running := true, cur := 0,
           stopping := false, since := 0, restart := false, skip := 0,
           berths := (Vector.replicate 4 Berth.reset).set 0 { Berth.reset with started := true } }

/-- The word stands in the image of a gang that runs on core 0, whose berth 0 fetches it next. -/
def placeWord (w : Nat) (s : State) : State :=
  let l := s.launches.length
  let d := s.die 0
  let s := (s.setDie 0 { d with images := oneWordImage l w :: d.images }).updCore 0 (firstWordCore l)
  { s with
    launches := s.launches ++ [oneWordLaunch], cur := 0, stage := .issue, todo := [], ends := [], powered := true, clockStop := false,
    quads := s.quads.set 0 { s.quad 0 with power := .on, stretch := 0, window := 0, half := false } }

end Sys2Proof.Machine
end

