-- ==== Sys2Proof/Machine/Step.lean ====
section
/-! DEFINITION. One step of the machine, and placing an instruction where the next step fetches it. -/

namespace Sys2Proof.Machine

open Sys2Proof

/-- One step: an event that is due, or the next part of a core's cycle or of the tick (02 R20 to R22). -/
def step (s : State) : Host.Outcome State Fault Refusal :=
  if !s.powered then
    match resetEvent s with
    | some e => runEv e s
    | none => .fault .noPower
  else
    match s.todo with
    | e :: r => runEv e { s with todo := r }
    | [] =>
      match s.stage with
      | .wake => .next (wakeCycle s)
      | .issue => issueCycle s
      | .engines => .next (engineCycle s)
      | .writeback => .next (writebackCycle s)
      | .advance => .next (advanceCycle s)
      | .tick => .next (tickStage s)

/-- An instruction stored where `step` fetches its next one (log 31). -/
def State.withFetchWord (s : State) (_nbits w : Nat) : State := placeWord w s

end Sys2Proof.Machine
end

