-- ==== Sys2Proof/Safety.lean ====
section
/-! DEFINITION. The terms in which the statements speak: when a word is issued, what an issue leaves behind, what stays
as it was, and the invariants of the machine. -/

namespace Sys2Proof.Machine

open Sys2Proof

/-! ## A word that is issued (06 R93) -/

/-- The word gets past every check that comes before its operands: no fence holds it back and its queue has room, its guards
hold, its results have room, the core may run it, and every lender that it names is present. -/
def ready (i : Instr) (h : Head) (s : State) : Bool :=
  !s.holdsOff (opcOf i) && !tileIllop i s.self && s.me.guard h && s.self.resultRoom (opcOf i)
    && (!privileged (opcOf i) || s.self.priv) && (lendMissing i s.self).isNone

/-- An operand reader, in a state, gives a value and leaves a state: nothing stops it. -/
def Reads (m : M α) (s : State) (x : α) (t : State) : Prop := m s = .ok (x, t)

/-- One more result of the issued word in flight: it is written in step 6 of the cycle `lat - 1` cycles on (02 R22). -/
def State.emit (u : State) (unit : ResUnit) (dst : Dst) (v : RVal) (lat : Nat) : State :=
  u.updCore u.cur (fun k => { k with
    inflight := k.inflight ++ [{ unit := unit, dst := dst, val := v, rem := lat - 1, berth := k.cur, addr := u.wordAddr,
                                 id := k.serial, flags := 0, tok := 0 }] })

/-- A scalar of the sequencer. -/
def State.emitS (u : State) (d : SDst) (v : W64) (lat : Nat) : State := u.emit .seq (dstS d) (.s v) lat

/-- Change the running berth. -/
def State.onMe (u : State) (f : Berth → Berth) : State := u.updBerth u.cur u.self.cur f

/-- Change the issuing core. -/
def State.onSelf (u : State) (f : Core → Core) : State := u.updCore u.cur f

/-- The running berth goes on at a target, and the next issue cycle is empty (07 R105). -/
def State.jump (u : State) (target : W64) : State := u.onMe (fun x => { x with pc := target, stall := max x.stall 1 })

/-- The block ends, and the running berth waits at the issued word (07 R104). -/
def State.park (u : State) (w : Wait) : State :=
  u.onSelf (fun k => { k.updBerth k.cur (fun x => { x with pc := x.setter, wait := w }) with running := false })

/-- The block ends (07 R104). -/
def State.rest (u : State) : State := u.onSelf (fun k => { k with running := false })

/-- An entry joins the queue of the vector pipe (02 R22 step 5). -/
def State.toVxe (u : State) (i : Instr) (xs : List VArg) (vals : List W64) : State :=
  u.onSelf (fun k => { k with vxeQ := k.vxeQ ++ [entry i 0 0 0 vals (entriesOf xs) u] })

/-- An entry joins the queue of its load or store engine. -/
def State.toMem (u : State) (q : QEntry) : State := u.onSelf (fun k => k.memQueue q)

/-- An entry joins the copy-engine queue: an access of kind e until accepted, a command until its bytes are counted. -/
def State.toCopy (u : State) (i : Instr) (q : QEntry) : State :=
  u.onSelf (fun k => { k with
    acc := k.acc ++ [{ id := q.id, berth := q.berth, kinds := kindsOf (opcOf i), bo := false, arr := false, cpy := true }],
    cpyQ := k.cpyQ ++ [q] })

/-- An entry joins the array queue, as a command that has not counted its bytes. -/
def State.toArray (u : State) (i : Instr) (q : QEntry) : State :=
  u.onSelf (fun k => { k with
    acc := k.acc ++ [{ id := q.id, berth := q.berth, kinds := kindsOf (opcOf i), bo := false, arr := true, cpy := false }],
    vbuf := k.vbuf + q.vops.length, arrQ := k.arrQ ++ [q] })

/-- An entry joins the special-function queue. -/
def State.toSf (u : State) (i : Instr) (q : QEntry) : State :=
  u.onSelf (fun k => { k with
    acc := k.acc ++ [{ id := q.id, berth := q.berth, kinds := kindsOf (opcOf i), bo := false, arr := true, cpy := false }],
    sfQ := k.sfQ ++ [q] })

/-! ## What stays as it was -/

/-- Everything outside one core is as it was. -/
def OnlyCore (c : CoreId) (s t : State) : Prop := t = s.setCore c (t.core c)

/-- Of a core, only the sequencer, the queues and the accounts of what is in flight may differ. -/
def SameRegs (x y : Core) : Prop :=
  y = { x with
    berths := y.berths, running := y.running, issued := y.issued, serial := y.serial, inflight := y.inflight,
    ldeQ := y.ldeQ, vxeQ := y.vxeQ, steQ := y.steQ, cpyQ := y.cpyQ, arrQ := y.arrQ, sfQ := y.sfQ, acc := y.acc, vbuf := y.vbuf }

/-- Of a berth, only the pc, its setter, STALL, the wait and the place in a handler's entry may differ. -/
def SameBerth (x y : Berth) : Prop :=
  y = { x with pc := y.pc, setter := y.setter, stall := y.stall, wait := y.wait, entering := y.entering }

/-- A change that belongs to the sequencer and the queues of the issuing core alone. -/
def Quiet (s t : State) : Prop :=
  OnlyCore s.cur s t ∧ SameRegs s.self t.self ∧ ∀ b : BerthId, SameBerth (s.self.berth b) (t.self.berth b)

/-- Branches, scalar words, predicate words and FCNT (06 R92). -/
def scalarWord (i : Instr) : Bool := decide (opcOf i ≤ 0x006 ∨ (0x030 ≤ opcOf i ∧ opcOf i ≤ 0x060))

/-- Words of the engines, FDROP and FCLR: all that read or queue and change no register of the sequencer's. -/
def engineWord (i : Instr) : Bool :=
  decide (opcOf i = 0x061 ∨ opcOf i = 0x062 ∨ (0x080 ≤ opcOf i ∧ opcOf i < 0x340 ∧ opcOf i ≠ 0x28D))

/-- What the issue of a word may change in its core: the sequencer, queues, accounts, holds and main-file entries; of its berths only
the running one, and there the place, the wait, fences, what a trap's entry sets, and the FIFOs, whose entries only leave. -/
def Issued (x y : Core) : Prop :=
  y = { x with
    berths := y.berths, running := y.running, issued := y.issued, serial := y.serial, skip := y.skip, uce := y.uce,
    inflight := y.inflight, ldeQ := y.ldeQ, vxeQ := y.vxeQ, steQ := y.steQ, cpyQ := y.cpyQ, arrQ := y.arrQ, sfQ := y.sfQ,
    acc := y.acc, vbuf := y.vbuf, holds := y.holds, file := y.file } ∧
  (∀ b : BerthId, b ≠ x.cur → y.berth b = x.berth b) ∧
  (let p := x.berth x.cur
   let q := y.berth x.cur
   q = { p with
    pc := q.pc, setter := q.setter, stall := q.stall, wait := q.wait, entering := q.entering, s := q.s, fences := q.fences,
    tcode := q.tcode, tslot := q.tslot, tval := q.tval, epc := q.epc, handlers := q.handlers } ∧
   ∀ n : Fin 64, q.s.get n <:+ p.s.get n)

/-- Memory is in its canonical form: addresses strictly rising, and no cell equal to what an unlisted address reads as. -/
def State.canonical (s : State) : Prop := s.mem.wf = true

/-- Nothing of memory and of the module's clock has changed: HBM, SRAM and host memory, the locations with an error, the
token lines and messages, the tile pairs, flash and CYC. -/
def State.sameMemory (s t : State) : Prop :=
  t.mem = s.mem ∧ t.bad = s.bad ∧ t.lines = s.lines ∧ t.tokMsgs = s.tokMsgs ∧ t.tokReqs = s.tokReqs ∧ t.pairs = s.pairs ∧
  t.saved = s.saved ∧ t.flash = s.flash ∧ t.cyc = s.cyc

/-- Guards, hint and scheduling fields of a word as a header (06 R80 to R84). -/
def rawHead (r : Raw) : Head :=
  ⟨Fin.ofNat 16 r.ga, decide (r.gan = 1), Fin.ofNat 16 r.gb, decide (r.gbn = 1), (Hint.ofCode r.ch).getD .normal,
   Fin.ofNat 16 r.stall, decide (r.yld = 1), BitVec.ofNat 2 r.pb, BitVec.ofNat 2 r.pa⟩

/-- The opcodes of 06 R92, as ranges. -/
def opcodeRanges : List (Nat × Nat) :=
  [(0x000, 0x01B), (0x020, 0x025), (0x030, 0x051), (0x058, 0x05C), (0x060, 0x062), (0x080, 0x099), (0x0A0, 0x0A5),
   (0x0B0, 0x0B2), (0x0C0, 0x0CB), (0x0D0, 0x0D2), (0x0E0, 0x0E1), (0x0F0, 0x0F5), (0x180, 0x18A), (0x190, 0x194),
   (0x1A0, 0x1A2), (0x200, 0x208), (0x280, 0x290), (0x300, 0x30E), (0x340, 0x345)]

/-- An opcode of 06 R92. -/
def listed (o : Nat) : Bool := opcodeRanges.any (fun r => decide (r.1 ≤ o ∧ o ≤ r.2))

/-- A core's next step fetches and issues: it is clocked, its running berth is free to issue, and no trap stands. -/
def issuing (s : State) : Bool :=
  s.powered && s.todo.isEmpty && decide (s.stage = .issue) && s.clocked s.cur && !s.self.mute && s.self.running
    && !halfRate (s.quad (quadOf s.cur)) && !s.me.trapDue

/-- The trap of an issued word: the state as it was before the word, and the berth past its handler's first fetch. -/
def State.trapHere (s : State) (code : Code) (slot : Nat) (tval epc : W64) : State :=
  takeTrap s.cur s.self.cur code slot tval epc s.me.pc (s.onMe (fun x => { x with entering := none }))

/-- Width and lowest bit of each part selector (03 R36). -/
def partTable : List (Part × Nat × Nat) :=
  [(.h0, 16, 0), (.h1, 16, 16), (.b0, 8, 0), (.b1, 8, 8), (.b2, 8, 16), (.b3, 8, 24), (.n0, 4, 0), (.n1, 4, 4), (.n2, 4, 8),
   (.n3, 4, 12), (.n4, 4, 16), (.n5, 4, 20), (.n6, 4, 24), (.n7, 4, 28)]

/-- A source lane after the exchange of its halves that SWP asks for (03 R36 step 1). -/
def swapped (swp : Bool) (x : W32) : W32 := if swp then x.extractLsb' 0 16 ++ x.extractLsb' 16 16 else x

/-- A vector result of tag `t`, element by element: `f l i` where lane l is enabled, zero elsewhere, the low bits of ACC12 zero
(08 R128, R129, 04 R43); and a flag stands exactly where an element of an enabled lane, or the word's immediate, raises it. -/
def ElementsAre (o : VOut) (d : VDst) (t : Fmt) (m : Mask) (imm : Flags) (f : Nat → Nat → CF) : Prop :=
  o.dst = dstV d ∧
  (∃ e : VEntry, o.val = .v e ∧ e.tag = t ∧ ∀ l i, l < 1024 → i < count t →
    sub (e.lanes.at l) (i * width t) (width t) =
      if m.at l then sub (if t = .acc12 then (f l i).1 &&& 0xFFFFF800 else (f l i).1) 0 (width t) else 0) ∧
  ∀ j, o.flags.getLsbD j = true ↔ ∃ l, l < 1024 ∧ m.at l = true ∧
    (imm.getLsbD j = true ∨ ∃ i, i < count t ∧ (f l i).2.getLsbD j = true)

/-- A vector result of whole lanes, with no flag: `f l` where lane l is enabled, zero elsewhere (08 R129, R134). -/
def LanesAre (o : VOut) (d : VDst) (t : Fmt) (m : Mask) (f : Nat → W32) : Prop :=
  o.dst = dstV d ∧ o.flags = 0 ∧
  ∃ e : VEntry, o.val = .v e ∧ e.tag = t ∧ ∀ l, l < 1024 →
    e.lanes.at l = if m.at l then (if t = .acc12 then f l &&& 0xFFFFF800 else f l) else 0

/-- The 64 lanes of lane l's row, or the 16 of its column (03 R28). -/
def lanesBeside (row : Bool) (l : Nat) : List Nat :=
  if row then (List.range 64).map (fun c => l / 64 * 64 + c) else (List.range 16).map (fun r => r * 64 + l % 64)

/-! ## Operands that pass their checks -/

/-- Every register among vector operands carries the tag of the first one, which is accepted, and its part fits (08 R128). -/
def SameTags (ok : Fmt → Bool) (xs : List VArg) : Prop :=
  ∀ y : Src, VArg.src y ∈ xs → y.e.tag = (argAt xs 0).tag ∧ ok y.e.tag = true ∧ y.partOk = true

/-- A register with an accepted tag, whose part fits, or an immediate. -/
def Fits (ok : Fmt → Bool) (x : VArg) : Prop := ∀ y : Src, x = .src y → ok y.e.tag = true ∧ y.partOk = true

/-- The vector operand buffer has room for n more operands (09 R152). -/
def roomFor (n : Nat) (s : State) : Bool := decide (s.self.vbuf + n ≤ 8)

/-- Later accesses of the berth wait for the issued word (09 R162). -/
def State.acquired (u : State) : State :=
  u.onMe (fun x => { x with fences := x.fences ++ [⟨1, 7, 0, some u.wordId, .none⟩] })

/-- The 8 words of a command block (10 R189). -/
def blockWords (a : W64) (s : State) : List W64 := (List.range 8).map (fun i => s.self.word (a.toNat + 8 * i))

/-- A command block at a whole line of LM without an uncorrectable error (27 R372), with good values (10 R190, R191). -/
def blockGood (a : W64) (u : BlockUse) (array : Bool) (p1 p2 : W64 → Bool) (s : State) : Bool :=
  decide (a.toNat % 64 = 0 ∧ a.toNat < 0x400000) && (s.lmErr s.cur a.toNat 64).isNone
    && (badWord u array (fun i => s.self.word (a.toNat + 8 * i)) p1 p2).isNone

/-- The operands of an array word, slot by slot (10 R192). -/
def arrayArgs (t : TileRef) (cb : SSrc) (x y : VLm) (rep : Rep) : M (W64 × W64 × Option Src × Option Src × Nat × Int) := do
  let v ← readTile t
  let a ← readS 2 cb
  let b ← readVL 3 x
  let c ← readVL 4 y
  let r ← readRep 4 1 rep
  return (v, a, b, c, r)

/-- An input vector: absent (it comes from LM), or a whole register with an accepted tag. -/
def inputGood (ok : Fmt → Bool) : Option Src → Bool
  | none => true
  | some y => ok y.e.tag && decide (y.part = .whole) && !y.swp

/-- A tile that the core may name: its own, or a lender's (10 R192). -/
def tileGood (v : W64) (s : State) : Bool :=
  decide (v.toNat ≤ 31) && (decide (v.toNat ≤ 7) || decide (s.self.lend ≠ 0)) && s.self.lent (v.toNat / 8)

/-- What an array word needs in order to be queued: operands, inputs, tile, repeat and command block are good. -/
def ArrayOk (h : Head) (t : TileRef) (cb : SSrc) (x y : VLm) (rep : Rep) (u : BlockUse) (ok : Fmt → Bool)
    (p1 p2 : W64 → Bool) (s : State) (v a : W64) (b c : Option Src) (r : Nat × Int) (z : State) : Prop :=
  Reads (arrayArgs t cb x y rep) (scheduled h s) (v, a, b, c, r) z ∧
  roomFor ((if isLm x then 0 else 1) + (if isLm y then 0 else 1)) s = true ∧
  inputGood ok b = true ∧ inputGood ok c = true ∧ tileGood v z = true ∧ (b = none ∨ r.1 = 0) ∧
  blockGood a u true p1 p2 z = true

/-- The entry that an array word queues: its tile, its block as it stands, its window and the tick. -/
def arrayEntry (i : Instr) (v a : W64) (b c : Option Src) (r : Nat × Int) (z : State) : QEntry :=
  entry i 0 r.1 r.2 (arrayVals v (blockWords a z) z) (srcEntries b ++ srcEntries c) z

/-- The row step of a special-function word: its own, or the block's rows with an immediate repeat (10 R214). -/
def sfStep (rep : Rep) (given : Int) (rows : W64) : Int :=
  match rep with
  | .imm _ => rows.toNat
  | .src _ => given

/-- The copy-engine words that move bytes, in units (09 R179 to R185). -/
def movesBytes : Instr → Bool
  | .cpy .. | .cpyd .. | .cpyr .. | .mlr .. | .cpym .. | .mst .. => true
  | _ => false

/-- A location word as 09 R175 allows it, of one of some kinds. -/
def lwGood (kinds : List Nat) (w : W64) : Bool :=
  decide (lwKind w ≠ 3 ∧ fld w 63 47 = 0 ∧ (lwKind w = 2 ∨ lwDcore w = 0)) && kinds.contains (lwKind w)

end Sys2Proof.Machine
end

