-- ==== Sys2Proof/Certificates/Slice0/Obligations.lean ====
section
/-! DEFINITION. The statements for the provers. Each docstring names the rules of the spec that the statement
formalises. Of a word they speak in a state in which it is `ready`: it gets past the checks of 06 R93 that come before
its operands. `Reads m s x t` says that an operand reader gives x and leaves t. -/

open Sys2Proof Sys2Proof.Machine

/-! ## Control -/

/-- Branches and calls (07 R105, R109): NOP only advances; a taken branch goes to its target and leaves the next issue
cycle empty; a register target that is no multiple of 16 raises ALIGN; CALL and LOOP write their result beside it; PHASE
writes the entry's number and goes to its label, or writes 8. -/
def Obligations.BranchesCompleteAsStated : Prop :=
  ∀ (h : Head) (d : SDst) (c : Cond) (a : SSrc) (b : SOp) (dist : W16) (far : W32) (s t u : State) (x y : W64),
  (ready (.nop h) h s → exec (.nop h) s = .next (scheduled h s)) ∧
  (ready (.br h far) h s →
    exec (.br h far) s = .next ((scheduled h s).jump ((scheduled h s).wordAddr + far.signExtend 64 * 16))) ∧
  (ready (.call h d far) h s →
    exec (.call h d far) s = .next (((scheduled h s).emitS d ((scheduled h s).wordAddr + 16) 1).jump
      ((scheduled h s).wordAddr + far.signExtend 64 * 16))) ∧
  (Reads (readS 1 a) (scheduled h s) x t →
    (Reads (readSI 2 b) t y u → ready (.brc h c a b dist) h s →
      exec (.brc h c a b dist) s = .next (if condHolds c x y then u.jump (u.wordAddr + dist.signExtend 64 * 16) else u)) ∧
    (x.toNat % 16 = 0 → ready (.bri h a) h s → exec (.bri h a) s = .next (t.jump x)) ∧
    (x.toNat % 16 = 0 → ready (.ret h a) h s → exec (.ret h a) s = .next (t.jump x)) ∧
    (x.toNat % 16 ≠ 0 →
      (ready (.bri h a) h s → exec (.bri h a) s = .next (s.trapHere .align 1 x s.me.pc)) ∧
      (ready (.ret h a) h s → exec (.ret h a) s = .next (s.trapHere .align 1 x s.me.pc))) ∧
    (ready (.loop h d a dist) h s →
      exec (.loop h d a dist) s = .next (if x = 1 then t.emitS d 0 1
        else (t.emitS d (x - 1) 1).jump (t.wordAddr + dist.signExtend 64 * 16)))) ∧
  (ready (.phase h d) h s →
    exec (.phase h d) s = .next (match ((scheduled h s).gangOf s.cur).bind (fun g => schedule g.2 s.self.psize) with
      | some (k, off) => ((scheduled h s).emitS d (BitVec.ofNat 64 k) 1).jump off
      | none => (scheduled h s).emitS d 8 1))

/-- Ends of blocks (07 R104, R107, R110, 19 R303, 20 R321): WAIT, YIELD and EXIT end the block, and the last EXIT of a strand
lifts its holds; BEAT restarts the watchdog of a persistent gang; LOCK arrives and waits, or only ends the block where its lock
has released it already; IDLE waits. -/
def Obligations.BlockEndsCompleteAsStated : Prop :=
  ∀ (h : Head) (s : State),
  let u := scheduled h s
  (ready (.wait h) h s → exec (.wait h) s = .next (u.onMe (fun x => { x with wait := .wait })).rest) ∧
  (ready (.yield h) h s → exec (.yield h) s = .next u.rest) ∧
  (ready (.exit h) h s →
    exec (.exit h) s = .next ((u.onMe (fun x => { x with exited := true })).onSelf (fun k =>
      if k.berths.toList.all (fun b => !b.started || b.exited) then { k with holds := [] } else k)).rest) ∧
  (ready (.beat h) h s →
    exec (.beat h) s = .next (if ((u.gangOf u.cur).map (fun g => g.2.pers)) = some true
      then u.onSelf (fun k => { k with beat := u.cyc }) else u)) ∧
  (ready (.lock h) h s →
    exec (.lock h) s = .next (if u.me.lockPassed = true ∧ u.me.lockAt = u.wordAddr
      then (u.onMe (fun x => { x with lockPassed := false })).rest
      else (u.onMe (fun x => { x with lockArrived := true, lockPassed := false, lockAt := u.wordAddr })).park .lock)) ∧
  (ready (.idle h) h s → exec (.idle h) s = .next (u.park .idle))


/-- Named barriers (07 R104, R111): BARA arrives and gives the phase before its arrival, BARAW arrives and waits, BARW
waits while the phase is the one given. A count that R112 does not allow, or that is not the one the phase's first arrival gave,
raises BARTO. A BARAW whose arrival stands already waits on (20 R307). -/
def Obligations.NamedBarriersCompleteAsStated : Prop :=
  ∀ (h : Head) (d : SDst) (n : Fin 96) (count : SOp) (s t : State) (v : W64),
  Reads (readSI 2 count) (scheduled h s) v t →
  (∀ (i : Nat) (l : Launch), t.gangOf t.cur = some (i, l) → 1 ≤ v.toNat → v.toNat ≤ l.size →
    ((l.bars.get n).2.1 = 0 ∨ (l.bars.get n).1.toNat = v.toNat) →
    (ready (.bara h d n count) h s →
      exec (.bara h d n count) s = .next (arrive n (v.truncate 16) (t.emitS d (BitVec.ofNat 64 (b2n (t.self.barPh n))) 1))) ∧
    (ready (.baraw h n count) h s → t.me.marked n = false →
      exec (.baraw h n count) s = .next (((arrive n (v.truncate 16) t).onMe (fun x =>
        { x with barMarks := x.barMarks ++ [n] })).park (.bar n (t.self.barPh n) (t.cyc + 160000))))) ∧
  (∀ (i : Nat) (l : Launch), t.gangOf t.cur = some (i, l) →
    let refused := fun (tval : Nat) =>
      (ready (.bara h d n count) h s → exec (.bara h d n count) s = .next (s.trapHere .barto 2 (BitVec.ofNat 64 tval) s.me.pc)) ∧
      (ready (.baraw h n count) h s → t.me.marked n = false →
        exec (.baraw h n count) s = .next (s.trapHere .barto 2 (BitVec.ofNat 64 tval) s.me.pc))
    (v.toNat = 0 ∨ l.size < v.toNat → refused (2 ^ 63 + v.toNat % 65536)) ∧
    (1 ≤ v.toNat → v.toNat ≤ l.size → (l.bars.get n).2.1 ≠ 0 → (l.bars.get n).1.toNat ≠ v.toNat →
      refused (2 ^ 63 + (l.bars.get n).1.toNat))) ∧
  (ready (.barw h n count) h s →
    exec (.barw h n count) s = .next (if t.self.barPh n ≠ bit v 0 then t else t.park (.bar n (bit v 0) (t.cyc + 160000)))) ∧
  (ready (.baraw h n count) h s → t.me.marked n = true →
    exec (.baraw h n count) s = .next (t.park (.bar n (t.self.barPh n) (t.cyc + 160000))))

/-- Micro-batch tokens (07 R113): TOKIN takes the token of its kind and id out of the inbox or waits for it; TOKOUT enters
one into the partition's table, or waits while all 256 are taken. -/
def Obligations.TokensCompleteAsStated : Prop :=
  ∀ (h : Head) (k : MbKind) (stage mb : SOp) (s t : State) (x : W64), Reads (readSI 1 stage) (scheduled h s) x t →
  (ready (.tokin h k stage) h s →
    exec (.tokin h k stage) s = .next (match takeToken k (x.truncate 8) t.self.inbox with
      | some r => t.onSelf (fun c => { c with inbox := r })
      | none => t.park (.tokin k (x.truncate 8)))) ∧
  (∀ (u : State) (y : W64), Reads (readSI 2 mb) t y u → ready (.tokout h k stage mb) h s →
    exec (.tokout h k stage mb) s = .next (if tokenRoom u u.cur then enterToken k (x.truncate 6) (y.truncate 8) u.cur u
      else u.park (.tokout k (x.truncate 6) (y.truncate 8))))

/-- Waits on time and on barrier objects (07 R114, R115): the word completes where its condition holds, and otherwise its
berth waits; a SLEEPP waits while its object has no promise, or one that has not passed, and past its promise it raises PMISS; an
object that has flipped with ERR raises BOBJERR. -/
def Obligations.WaitsCompleteAsStated : Prop :=
  ∀ (h : Head) (a : SSrc) (bo ph : SOp) (s t u : State) (x y : W64),
  (Reads (readS 1 a) (scheduled h s) x t → ready (.sleepc h a) h s →
    exec (.sleepc h a) s = .next (if t.cyc.toNat < x.toNat then t.park (.sleepc x) else t)) ∧
  (Reads (readSI 1 bo) (scheduled h s) x t → Reads (readSI 2 ph) t y u → x.toNat < 4096 →
    let o : Fin 4096 := Fin.ofNat 4096 x.toNat
    u.objErrs u.cur o = none →
    (u.self.objPh o ≠ bit y 0 → u.self.objErr o = false →
      (ready (.waitp h bo ph) h s → exec (.waitp h bo ph) s = .next u) ∧
      (ready (.sleepp h bo ph) h s → exec (.sleepp h bo ph) s = .next u)) ∧
    (u.self.objPh o ≠ bit y 0 → u.self.objErr o = true →
      (ready (.waitp h bo ph) h s → exec (.waitp h bo ph) s = .next (s.trapHere .bobjerr 7 (bobjTval u.self o) s.me.pc)) ∧
      (ready (.sleepp h bo ph) h s → exec (.sleepp h bo ph) s = .next (s.trapHere .bobjerr 7 (bobjTval u.self o) s.me.pc))) ∧
    (u.self.objPh o = bit y 0 → u.self.objProm o ≠ 0 → (u.self.objProm o).toNat ≤ u.cyc.toNat → ready (.sleepp h bo ph) h s →
      exec (.sleepp h bo ph) s = .next (s.trapHere .pmiss 7 (u.self.objProm o) s.me.pc)) ∧
    (u.self.objPh o = bit y 0 →
      (ready (.waitp h bo ph) h s → exec (.waitp h bo ph) s = .next (u.park (.waitp o (bit y 0)))) ∧
      (ready (.sleepp h bo ph) h s → (u.self.objProm o = 0 ∨ u.cyc.toNat < (u.self.objProm o).toNat) →
        exec (.sleepp h bo ph) s = .next (u.park (.sleepp o (bit y 0) (u.self.objProm o))))))

/-- Time, registers, locality (03 R39, 07 R114, R117, R118, 10 R211, 20 R321): STAMP gives PHS + off, TSR the pair CYC and
LCY, MFS and MFSP a register's value, LOC its answer with latency 4; MTS, MTSP and XWSET write a register, and XWSET refuses a value
that is no valid window with ILLOP (03 R37); HALT stops the core, SNAP pre-empts its strand, and RSTR puts an image in its place, which goes on with the next
cycle; an image address that is no multiple of 4096 raises ALIGN, and one without an image that fits raises ILLOP. A write changes the
fields that its register has and no other register, and a read then gives them (00 R4, 15 R276); FPF's bits are cleared by writing
one. -/
def Obligations.RegisterWordsCompleteAsStated : Prop :=
  ∀ (h : Head) (d : SDst) (e f : Fin 64) (n : MfsName) (r : SysReg) (pr : PrivName) (w : Fin 8) (sl : Bool) (a : SOp)
    (b : SSrc) (s t : State) (x : W64),
  let u := scheduled h s
  (ready (.tsr h e f) h s → exec (.tsr h e f) s = .next (u.emit .seq (.s2 e f) (.pair u.cyc u.self.lcy) 1)) ∧
  (ready (.mfs h d n) h s → exec (.mfs h d n) s = .next (u.emitS d (match n with
    | .sys r => readSys u u.cur r
    | .bar n => barReg (u.self.bars.get n)
    | .win n => u.self.wins.get n) 1)) ∧
  (ready (.mfsp h d pr) h s → exec (.mfsp h d pr) s = .next (u.emitS d (match pr with
    | .sys r => readSys u u.cur r
    | .quad r => readQuad (u.quad (quadOf u.cur)) r) 1)) ∧
  (ready (.halt h) h s → exec (.halt h) s = .next (u.onSelf (fun k => { k with halted := true }))) ∧
  (Reads (readSI 1 a) u x t →
    (ready (.stamp h d a) h s → exec (.stamp h d a) s = .next (t.emitS d (t.self.phs + x) 1)) ∧
    (ready (.loc h sl d a) h s →
      exec (.loc h sl d a) s = .next (t.emitS d (if sl then locSlice t t.cur x else locCore t t.cur x) 4)) ∧
    (ready (.xwset h w a) h s → windowOk x → exec (.xwset h w a) s =
      .next (t.onSelf (fun k => { k with wins := k.wins.set w.val x w.isLt }))) ∧
    (ready (.xwset h w a) h s → (fld x 26 16 = 0 ∨ fld x 58 48 = 0 ∨ 1024 < fld x 9 0 + fld x 26 16 ∨
        1024 < fld x 41 32 + fld x 58 48 ∨ x &&& 0xF800FC00F800FC00 ≠ 0) →
      exec (.xwset h w a) s = .next (s.trapHere .illop 1 x s.me.pc))) ∧
  (Reads (readSI 2 a) u x t →
    (ready (.mts h r a) h s → sysReadOnly r = false → exec (.mts h r a) s = .next (t.onSelf (writeSys r x))) ∧
    (ready (.mtsp h pr a) h s → exec (.mtsp h pr a) s = .next (writePriv pr x t))) ∧
  (Reads (readS 1 b) u x t → x.toNat % 4096 = 0 →
    (ready (.snap h b) h s → exec (.snap h b) s = .next (t.onSelf (fun k => { k.preempted with snap := some x }))) ∧
    (ready (.rstr h b) h s → ∀ (y : Option Saved) (m : Mem), imageFor t t.cur x = some (y, m) →
      exec (.rstr h b) s = .next ((restoreAt t.cur y m t).onSelf (fun k =>
        { k with stopped := true, frozen := true, restart := true }))) ∧
    (ready (.rstr h b) h s → imageFor t t.cur x = none → exec (.rstr h b) s = .next (s.trapHere .illop 1 x s.me.pc))) ∧
  (Reads (readS 1 b) u x t → x.toNat % 4096 ≠ 0 →
    (ready (.snap h b) h s → exec (.snap h b) s = .next (s.trapHere .align 1 x s.me.pc)) ∧
    (ready (.rstr h b) h s → exec (.rstr h b) s = .next (s.trapHere .align 1 x s.me.pc))) ∧
  (let after := fun (r : SysReg) => readSys (s.onSelf (writeSys r x)) s.cur;
    (∀ r' : SysReg, r' ≠ r → after r r' = readSys s s.cur r') ∧
    after .xwin .xwin = x &&& 0xFF ∧ after .seed0 .seed0 = x ∧ after .seed1 .seed1 = x ∧ after .layer .layer = x &&& 0xFFFFFFFF ∧
    after .srmode .srmode = x &&& 3 ∧ after .fpf .fpf = readSys s s.cur .fpf &&& ~~~x ∧ after .psize .psize = x &&& 0xFFFF ∧
    after .trapv .trapv = x &&& ~~~0xF ∧ after .epc .epc = x &&& ~~~0xF ∧
    (∀ n, after (.pmc n) (.pmc n) = x) ∧ (∀ n, after (.pmsel n) (.pmsel n) = x &&& 0xFF) ∧
    (sysReadOnly r = true → writeSys r x s.self = s.self)) ∧
  (∀ (g g' : QuadReg) (q : Quad), let q' := writeQuad g x q;
    (g' ≠ g → readQuad q' g' = readQuad q g') ∧ (∀ n, g = .qpew n → readQuad q' g = x &&& 0xFFFF) ∧
    (g = .qpest → q' = q) ∧ (g = .qplvl → q' = { q with fwcap := x.truncate 4 }) ∧
    (g = .qpslk → q' = { q with slkMin := x.truncate 16 })) ∧
  (((writePriv (.sys .drpth) x s).quad (quadOf s.cur)).thr =
    if fld x 7 0 < (Config.thrFloor s.rails).toNat then Config.thrFloor s.rails
    else if (Config.thrCeil s.rails).toNat < fld x 7 0 then Config.thrCeil s.rails else BitVec.ofNat 8 (fld x 7 0))

/-- The trap forms (07 R116): TRAP takes its trap with the code in TVAL and the next word in EPC; entry to any trap sets
TCAUSE, TVAL and EPC, whatever they held, and the pc goes to TRAPV.ADDR × 16 (for TRAPV 0 see `TrapsEscalate`); RTT goes to
EPC, and that of a FIFO_OVF's handler puts the results held since its entry in flight again, in start order, with the cycles that
they had left, counted from the next cycle; one of another trap leaves them held. -/
def Obligations.TrapWordsCompleteAsStated : Prop :=
  ∀ (h : Head) (code : W16) (s : State),
  let c := s.cur
  let b := s.self.cur
  (ready (.trap h code) h s →
    exec (.trap h code) s = .next (takeTrap c b .trap 7 (code.zeroExtend 64) (s.me.pc + 16) s.me.pc
      (s.onMe (fun x => { x with entering := none })))) ∧
  (∀ (kind : Code) (slot : Nat) (tval epc word : W64), s.me.trapv ≠ 0 → slot < 8 →
    let x := (takeTrap c b kind slot tval epc word s).berth c b
    x.tcode = kind.num ∧ x.tslot.toNat = slot ∧ x.tval = tval ∧ x.epc = epc &&& ~~~0xF ∧ x.pc = s.me.trapv ∧
    Code.num .trap = 0x20) ∧
  (∀ (v : W64), fld ((readSys (s.onSelf (writeSys .trapv v)) c .trapv)) 63 4 = fld v 63 4 ∧
    (s.onSelf (writeSys .trapv v)).me.trapv = BitVec.ofNat 64 (fld v 63 4 * 16)) ∧
  (ready (.rtt h) h s → ∃ t : State, exec (.rtt h) s = .next t ∧ t.me.pc = s.me.epc ∧
    t = returnTrap c b s.me.pc (scheduled h s) ∧
    (∀ (n : Nat) (r : List Handler), s.me.handlers = .ovf n :: r → t.me.handlers = r ∧ t.me.held = s.me.held.take n ∧
      t.self.inflight = startOrder ((s.me.held.drop n).map (fun r => { r with rem := r.rem + 1 }) ++ s.self.inflight)) ∧
    (∀ r : List Handler, s.me.handlers = .other :: r → t.me.handlers = r ∧ t.me.held = s.me.held) ∧
    (∀ (u : TrapUnit) (r : List Handler), s.me.handlers = .unit u :: r → t.me.handlers = r ∧ t.me.held = s.me.held))

/-- Fences (07 R119 to R122): FENCE, FSC, TFENCE and RCFENCE leave a fence over what the berth issued before them, with the
kinds that it holds back and what it drops at its end; MARK enters both queues. ICFENCE only advances: R122 has it discard words
that the core has fetched ahead, and a core that holds none is the model's choice (logs 46 and 63). -/
def Obligations.FencesCompleteAsStated : Prop :=
  ∀ (h : Head) (sc : Scope) (pre post : BitVec 3) (a : SSrc) (b : SOp) (s t : State) (x : W64),
  let u := scheduled h s
  let behind := fun (u : State) (pre post : BitVec 3) (act : FenceAct) =>
    u.onMe (fun x => { x with fences := x.fences ++ [⟨pre, post, u.wordId, none, act⟩] })
  (ready (.fence h sc pre post) h s → exec (.fence h sc pre post) s = .next (behind u pre post .none)) ∧
  (ready (.fsc h sc) h s → exec (.fsc h sc) s = .next (behind u 7 7 .none)) ∧
  (ready (.mark h) h s → exec (.mark h) s = .next (u.onSelf (fun k =>
    { k with ldeQ := k.ldeQ ++ [entry (.mark h) 0 0 0 [] [] u], steQ := k.steQ ++ [entry (.mark h) 0 0 0 [] [] u] }))) ∧
  (ready (.tfence h none) h s → exec (.tfence h none) s = .next (behind u 2 7 (.tinv none))) ∧
  (ready (.rcfence h none) h s → exec (.rcfence h none) s = .next (behind u 2 7 (.rcinv none))) ∧
  (Reads (readS 2 a) u x t → ready (.tfence h (some a)) h s →
    exec (.tfence h (some a)) s = .next (behind t 2 7 (.tinv (some x)))) ∧
  (Reads (readSI 2 b) u x t → x.toNat < 4096 → ready (.rcfence h (some b)) h s →
    exec (.rcfence h (some b)) s = .next (behind t 2 7 (.rcinv (some (Fin.ofNat 4096 x.toNat))))) ∧
  (ready (.icfence h) h s → exec (.icfence h) s = .next u)

/-! ## Scalars -/

/-- The 34 scalar forms (07 R123): value, latency and destination of each, with no flag; a zero divisor gives all ones and
the dividend; CMP writes its predicate and 1 or 0 in LS, and with P0 only LS. A word whose immediates break the limits, or a
CMP without WB 0b01, is accepted by no decoding and raises ILLOP, once no fence and no full queue holds it. Which slot and which
TVAL a refused word gives, and the trap of one at a handler's entry, are the model's reading (`rejectOn`; DEDUCED, logs 11 and 47). -/
def Obligations.ScalarsCompleteAsStated : Prop :=
  ∀ (h : Head) (d : SDst) (a : SSrc) (b : SOp) (c : Cond) (p : Fin 16) (k pos len : W16) (v : W64) (s : State),
  (∀ (t u : State) (x y : W64), Reads (readS 1 a) (scheduled h s) x t → Reads (readSI 2 b) t y u →
    (ready (.add h d a b) h s → exec (.add h d a b) s = .next (u.emitS d (x + y) 1)) ∧
    (ready (.sub h d a b) h s → exec (.sub h d a b) s = .next (u.emitS d (x - y) 1)) ∧
    (ready (.mul h d a b) h s → exec (.mul h d a b) s = .next (u.emitS d (x * y) 3)) ∧
    (ready (.mulh h d a b) h s →
      exec (.mulh h d a b) s = .next (u.emitS d (BitVec.ofInt 64 (x.toInt * y.toInt / 2 ^ 64)) 3)) ∧
    (ready (.mulhu h d a b) h s →
      exec (.mulhu h d a b) s = .next (u.emitS d (BitVec.ofNat 64 (x.toNat * y.toNat / 2 ^ 64)) 3)) ∧
    (ready (.div h d a b) h s →
      exec (.div h d a b) s = .next (u.emitS d (if y = 0 then BitVec.allOnes 64 else BitVec.ofInt 64 (x.toInt.tdiv y.toInt)) 18)) ∧
    (ready (.divu h d a b) h s →
      exec (.divu h d a b) s = .next (u.emitS d (if y = 0 then BitVec.allOnes 64 else x / y) 18)) ∧
    (ready (.rem h d a b) h s →
      exec (.rem h d a b) s = .next (u.emitS d (if y = 0 then x else BitVec.ofInt 64 (x.toInt.tmod y.toInt)) 18)) ∧
    (ready (.remu h d a b) h s → exec (.remu h d a b) s = .next (u.emitS d (if y = 0 then x else x % y) 18)) ∧
    (ready (.and h d a b) h s → exec (.and h d a b) s = .next (u.emitS d (x &&& y) 1)) ∧
    (ready (.or h d a b) h s → exec (.or h d a b) s = .next (u.emitS d (x ||| y) 1)) ∧
    (ready (.xor h d a b) h s → exec (.xor h d a b) s = .next (u.emitS d (x ^^^ y) 1)) ∧
    (ready (.andn h d a b) h s → exec (.andn h d a b) s = .next (u.emitS d (x &&& ~~~y) 1)) ∧
    (ready (.shl h d a b) h s → exec (.shl h d a b) s = .next (u.emitS d (x <<< (y.toNat % 64)) 1)) ∧
    (ready (.shr h d a b) h s → exec (.shr h d a b) s = .next (u.emitS d (x >>> (y.toNat % 64)) 1)) ∧
    (ready (.sar h d a b) h s → exec (.sar h d a b) s = .next (u.emitS d (x.sshiftRight (y.toNat % 64)) 1)) ∧
    (ready (.rol h d a b) h s → exec (.rol h d a b) s = .next (u.emitS d (x.rotateLeft (y.toNat % 64)) 1)) ∧
    (ready (.min h d a b) h s → exec (.min h d a b) s = .next (u.emitS d (if x.toInt ≤ y.toInt then x else y) 1)) ∧
    (ready (.max h d a b) h s → exec (.max h d a b) s = .next (u.emitS d (if x.toInt ≤ y.toInt then y else x) 1)) ∧
    (ready (.minu h d a b) h s → exec (.minu h d a b) s = .next (u.emitS d (if x.toNat ≤ y.toNat then x else y) 1)) ∧
    (ready (.maxu h d a b) h s → exec (.maxu h d a b) s = .next (u.emitS d (if x.toNat ≤ y.toNat then y else x) 1)) ∧
    (ready (.aidx h d a b k) h s → exec (.aidx h d a b k) s = .next (u.emitS d (x + (y <<< k.toNat)) 1)) ∧
    (ready (.bfi h d a b pos len) h s → exec (.bfi h d a b pos len) s =
      .next (u.emitS d (setFld x pos.toNat len.toNat y.toNat) 1))) ∧
  (∀ (t u : State) (x y : W64),
    (ready (.li h d v) h s → exec (.li h d v) s = .next ((scheduled h s).emitS d v 1)) ∧
    (Reads (readSI 1 b) (scheduled h s) x t → ready (.mov h d b) h s → exec (.mov h d b) s = .next (t.emitS d x 1)) ∧
    (Reads (readS 1 a) (scheduled h s) x t →
      (ready (.clz h d a) h s → exec (.clz h d a) s = .next (t.emitS d (if x = 0 then 64 else BitVec.ofNat 64 (63 - x.toNat.log2)) 1)) ∧
      (ready (.ctz h d a) h s → exec (.ctz h d a) s =
        .next (t.emitS d (BitVec.ofNat 64 ((List.range 64).findIdx (fun i => x.getLsbD i))) 1)) ∧
      (ready (.popc h d a) h s → exec (.popc h d a) s =
        .next (t.emitS d (BitVec.ofNat 64 ((List.range 64).filter (fun i => x.getLsbD i)).length) 1)) ∧
      (ready (.abs h d a) h s → exec (.abs h d a) s = .next (t.emitS d (if x.toInt < 0 then -x else x) 1)) ∧
      (ready (.sext h d a k) h s → exec (.sext h d a k) s = .next (t.emitS d (sext64 k.toNat x.toNat) 1)) ∧
      (ready (.zext h d a k) h s → exec (.zext h d a k) s = .next (t.emitS d (BitVec.ofNat 64 (x.toNat % 2 ^ k.toNat)) 1)) ∧
      (ready (.bfx h d a pos len) h s → exec (.bfx h d a pos len) s =
        .next (t.emitS d (BitVec.ofNat 64 (x.toNat / 2 ^ pos.toNat % 2 ^ len.toNat)) 1)) ∧
      (Reads (readSI 2 b) t y u → ready (.cmp h c p a b) h s →
        exec (.cmp h c p a b) s = .next (u.emit .seq (.p p) (.pred (condHolds c x y) true) 1))) ∧
    (Reads (readS 2 a) (scheduled h s) x t → Reads (readSI 3 b) t y u → ready (.sel h d p a b) h s →
      exec (.sel h d p a b) s = .next (u.emitS d (if (scheduled h s).me.readP p then x else y) 1))) ∧
  (∀ (r : Pend) (f : Bool), r.unit = .seq → r.dst = .p 0 → r.val = .pred f true → r.flags = 0 → r.tok = 0 →
    writeback s.cur r s = s.updBerth s.cur r.berth (fun x => { x with ls := if f then 1 else 0 })) ∧
  (∀ (w : W128),
    (decode w = .ok (.sext h d a k) → 1 ≤ k.toNat ∧ k.toNat ≤ 64) ∧
    (decode w = .ok (.zext h d a k) → 1 ≤ k.toNat ∧ k.toNat ≤ 64) ∧
    (decode w = .ok (.aidx h d a b k) → k.toNat ≤ 7) ∧
    (decode w = .ok (.bfx h d a pos len) → pos.toNat ≤ 63 ∧ 1 ≤ len.toNat ∧ len.toNat ≤ 64 ∧ pos.toNat + len.toNat ≤ 64) ∧
    (decode w = .ok (.bfi h d a b pos len) → pos.toNat ≤ 63 ∧ 1 ≤ len.toNat ∧ len.toNat ≤ 64 ∧ pos.toNat + len.toNat ≤ 64) ∧
    (decode w = .ok (.cmp h c p a b) → (Raw.ofWord w).wb = 1) ∧
    (∀ (r : Reject), s.codeWord s.cur s.me.pc = some w → decode w = .error r →
      (r = .opcode ∨ s.holdsOff (fld w 127 118) = false) →
      fetch s = .next (takeTrap s.cur s.self.cur .illop (rejectOn s.self w r).slotNo ((rejectOn s.self w r).tval w)
        s.me.pc s.me.pc (s.onMe (fun x => { x with entering := none })))))

/-- Predicate words, and the forms that act on a FIFO as it stands (07 R124, R125). -/
def Obligations.PredicatesAndFifosCompleteAsStated : Prop :=
  ∀ (h : Head) (d : SDst) (p a b : Fin 16) (v : Bool) (n : FifoName) (s : State),
  let u := scheduled h s
  let x := u.me
  let put := fun (v : Bool) => Host.Outcome.next (u.emit .seq (.p p) (.pred v false) 1)
  (ready (.pand h p a b) h s → exec (.pand h p a b) s = put (x.readP a && x.readP b)) ∧
  (ready (.por h p a b) h s → exec (.por h p a b) s = put (x.readP a || x.readP b)) ∧
  (ready (.pxor h p a b) h s → exec (.pxor h p a b) s = put (x.readP a != x.readP b)) ∧
  (ready (.pnot h p a) h s → exec (.pnot h p a) s = put (!x.readP a)) ∧
  (ready (.pmov h p (.p a)) h s → exec (.pmov h p (.p a)) s = put (x.readP a)) ∧
  (ready (.pmov h p (.imm v)) h s → exec (.pmov h p (.imm v)) s = put v) ∧
  (ready (.fcnt h d n) h s → exec (.fcnt h d n) s = .next (u.emitS d (BitVec.ofNat 64 (fifoCount u n)) 1)) ∧
  (ready (.fdrop h n) h s → exec (.fdrop h n) s = .next (match n with
    | .v i => u.setVFifo u.cur i (u.vFifo u.cur i).tail
    | .s i => u.onMe (fun y => y.setS i (y.s.get i).tail))) ∧
  (ready (.fclr h n) h s → exec (.fclr h n) s = .next (match n with
    | .v i => u.setVFifo u.cur i []
    | .s i => u.onMe (fun y => y.setS i [])))


/-! ## Vector words: the entry that issue leaves for the vector pipe -/

/-- Lane words (08 R131 to R135): the operands are captured in slot order, and an entry joins the queue of the vector
pipe. All registers carry one accepted tag; VAND, VOR, VXOR and VNOT take any; SAT goes with an integer tag. -/
def Obligations.LaneWordsCompleteAsStated : Prop :=
  ∀ (h : Head) (d : VDst) (dm m k : Fin 8) (b : VSrc) (c e : VOp) (rm : RM) (vc : VCond) (s t : State) (xs : List VArg),
  let at1 := fun (vs : List VOp) => Reads (readVIs 1 vs) (scheduled h s) xs t
  let queued := fun (i : Instr) => Host.Outcome.next (t.toVxe i xs [])
  (at1 [.src b, c, e] → SameTags isArith xs →
    (ready (.vfma h d b c e) h s → exec (.vfma h d b c e) s = queued (.vfma h d b c e)) ∧
    (ready (.vfms h d b c e) h s → exec (.vfms h d b c e) s = queued (.vfms h d b c e)) ∧
    (ready (.vnfma h d b c e) h s → exec (.vnfma h d b c e) s = queued (.vnfma h d b c e)) ∧
    (ready (.vclamp h d b c e) h s → exec (.vclamp h d b c e) s = queued (.vclamp h d b c e))) ∧
  (at1 [.src b, c] → SameTags isArith xs →
    (∀ sat : Bool, (sat = true → isInt (argAt xs 0).tag = true) →
      (ready (.vadd h d b c m rm sat) h s → exec (.vadd h d b c m rm sat) s = queued (.vadd h d b c m rm sat)) ∧
      (ready (.vsub h d b c m rm sat) h s → exec (.vsub h d b c m rm sat) s = queued (.vsub h d b c m rm sat)) ∧
      (ready (.vmul h d b c m rm sat) h s → exec (.vmul h d b c m rm sat) s = queued (.vmul h d b c m rm sat))) ∧
    (ready (.vmin h d b c m) h s → exec (.vmin h d b c m) s = queued (.vmin h d b c m)) ∧
    (ready (.vmax h d b c m) h s → exec (.vmax h d b c m) s = queued (.vmax h d b c m)) ∧
    (ready (.vcmp h vc dm b c m) h s → exec (.vcmp h vc dm b c m) s = queued (.vcmp h vc dm b c m))) ∧
  (at1 [.src b, c] → SameTags isInt xs →
    (ready (.vshl h d b c m) h s → exec (.vshl h d b c m) s = queued (.vshl h d b c m)) ∧
    (ready (.vshr h d b c m) h s → exec (.vshr h d b c m) s = queued (.vshr h d b c m)) ∧
    (ready (.vsar h d b c m) h s → exec (.vsar h d b c m) s = queued (.vsar h d b c m)) ∧
    (ready (.vmulh h d b c m) h s → exec (.vmulh h d b c m) s = queued (.vmulh h d b c m))) ∧
  (at1 [.src b, c] →
    (ready (.vand h d b c m) h s → exec (.vand h d b c m) s = queued (.vand h d b c m)) ∧
    (ready (.vor h d b c m) h s → exec (.vor h d b c m) s = queued (.vor h d b c m)) ∧
    (ready (.vxor h d b c m) h s → exec (.vxor h d b c m) s = queued (.vxor h d b c m))) ∧
  (at1 [.src b] → SameTags isArith xs →
    (ready (.vabs h d b m) h s → exec (.vabs h d b m) s = queued (.vabs h d b m)) ∧
    (ready (.vneg h d b m) h s → exec (.vneg h d b m) s = queued (.vneg h d b m))) ∧
  (at1 [.src b] → SameTags isInt xs →
    (ready (.vclz h d b m) h s → exec (.vclz h d b m) s = queued (.vclz h d b m)) ∧
    (ready (.vpopc h d b m) h s → exec (.vpopc h d b m) s = queued (.vpopc h d b m))) ∧
  (at1 [.src b] → ready (.vnot h d b m) h s → exec (.vnot h d b m) s = queued (.vnot h d b m)) ∧
  (Reads (readVIs 2 [.src b, c]) (scheduled h s) xs t → (∀ y : Src, argAt xs 1 = .src y → y.e.tag = (argAt xs 0).tag) →
    ready (.vsel h d k b c) h s → exec (.vsel h d k b c) s = queued (.vsel h d k b c))

/-- Conversions, block formats, ACC12 and dot products (08 R136 to R141): the same with each form's tags. -/
def Obligations.ConversionsCompleteAsStated : Prop :=
  ∀ (h : Head) (d : VDst) (m : Fin 8) (a b : VSrc) (c : VOp) (rm : RM) (ft : Fmt) (q : Fin 8) (sg sp : SSrc)
    (s t u : State) (x0 x1 x2 : VArg) (ys : List W64),
  let at1 := fun (vs : List VOp) (xs : List VArg) => Reads (readVIs 1 vs) (scheduled h s) xs t
  let drawOk := fun (sp : W64) => 1 ≤ fld sp 15 0 ∧ fld sp 15 0 ≤ 8192 ∧ fld sp 63 56 = 0
  (at1 [.src b] [x0] →
    (Fits (fun f => notNone f && (decide (b.part ≠ .whole) || decide (count f ≤ count ft))) x0 →
      (ready (.vcvt h d b m rm ft none) h s →
        exec (.vcvt h d b m rm ft none) s = .next (t.toVxe (.vcvt h d b m rm ft none) [x0] [])) ∧
      (Reads (readSIs [(3, .src sg), (4, .src sp)]) t ys u → drawOk (ys.getD 1 0) →
        ready (.vcvt h d b m rm ft (some (sg, sp))) h s →
        exec (.vcvt h d b m rm ft (some (sg, sp))) s = .next (u.toVxe (.vcvt h d b m rm ft (some (sg, sp))) [x0] ys))) ∧
    (ready (.vtag h d b m ft) h s → exec (.vtag h d b m ft) s = .next (t.toVxe (.vtag h d b m ft) [x0] [])) ∧
    (Fits isFloat x0 → ready (.vround h d b m rm) h s →
      exec (.vround h d b m rm) s = .next (t.toVxe (.vround h d b m rm) [x0] [])) ∧
    (Fits (fun f => decide (widePartner f ≠ .none)) x0 →
      (ready (.vunpkl h d b m rm) h s → exec (.vunpkl h d b m rm) s = .next (t.toVxe (.vunpkl h d b m rm) [x0] [])) ∧
      (ready (.vunpkh h d b m rm) h s → exec (.vunpkh h d b m rm) s = .next (t.toVxe (.vunpkh h d b m rm) [x0] []))) ∧
    (Fits (blockSrc ft q.val) x0 → ready (.vblks h d b none rm ft q) h s →
      exec (.vblks h d b none rm ft q) s = .next (t.toVxe (.vblks h d b none rm ft q) [x0] [])) ∧
    (Fits (fun f => isBlock f && decide (q.val < count f / count ft)) x0 → ready (.vblkg h d b m rm ft q) h s →
      exec (.vblkg h d b m rm ft q) s = .next (t.toVxe (.vblkg h d b m rm ft q) [x0] []))) ∧
  (at1 [.src b, .src a] [x0, x1] →
    (SameTags (fun f => decide (f = widePartner ft)) [x0, x1] → ready (.vpack h d b a m rm ft) h s →
      exec (.vpack h d b a m rm ft) s = .next (t.toVxe (.vpack h d b a m rm ft) [x0, x1] [])) ∧
    (Fits (blockSrc ft q.val) x0 → Fits (fun f => decide (f = ft)) x1 → ready (.vblks h d b (some a) rm ft q) h s →
      exec (.vblks h d b (some a) rm ft q) s = .next (t.toVxe (.vblks h d b (some a) rm ft q) [x0, x1] []))) ∧
  (at1 [.src b, c] [x0, x1] → Fits (fun f => decide (f = .acc12)) x0 →
    Fits (fun f => decide (f = .fp32) || decide (f = .acc12) || ((decide (f = .fp16) || decide (f = .bf16)) && match c with
      | .src y => decide (y.part ≠ .whole)
      | .imm _ => false)) x1 →
    Reads (readSIs [(3, .src sg), (4, .src sp)]) t ys u → drawOk (ys.getD 1 0) → ready (.vacc12 h d b c sg sp) h s →
    exec (.vacc12 h d b c sg sp) s = .next (u.toVxe (.vacc12 h d b c sg sp) [x0, x1] ys)) ∧
  (at1 [.src b, .src a, c] [x0, x1, x2] → Fits (fun f => decide (f = if isInt x0.tag then .int32 else .fp32)) x2 →
    (Fits (fun f => f == .bf16 || f == .fp16 || f == .int16) x0 → Fits (fun f => decide (f = x0.tag)) x1 →
      ready (.vdot2 h d b a c) h s → exec (.vdot2 h d b a c) s = .next (t.toVxe (.vdot2 h d b a c) [x0, x1, x2] [])) ∧
    (Fits (dotPair 4 x0.tag) x1 → Fits (fun f => f == .e4m3 || f == .e5m2 || f == .int8 || f == .uint8) x0 →
      ready (.vdot4 h d b a c) h s → exec (.vdot4 h d b a c) s = .next (t.toVxe (.vdot4 h d b a c) [x0, x1, x2] [])) ∧
    (Fits (fun f => f == .e2m1s || f == .int4) x0 → Fits (fun f => decide (f = x0.tag)) x1 →
      ready (.vdot8 h d b a c) h s → exec (.vdot8 h d b a c) s = .next (t.toVxe (.vdot8 h d b a c) [x0, x1, x2] [])))

/-- Moves, reductions, element access, draws and mask words (08 R142 to R147). -/
def Obligations.MovesCompleteAsStated : Prop :=
  ∀ (h : Head) (d : VDst) (sd : Fin 64) (dm m1 m2 m : Fin 8) (b a : VSrc) (k k2 : SOp) (g p : SSrc) (rm : RM) (rk : RedKind)
    (ft : Fmt) (dk : DrawKind) (sx : Bool) (kt : W16) (s t u : State) (x y : VArg) (v w : W64),
  let put := fun (i : Instr) => Host.Outcome.next ((scheduled h s).toVxe i [] [])
  let drawOk := fun (sp : W64) => 1 ≤ fld sp 15 0 ∧ fld sp 15 0 ≤ 8192 ∧ fld sp 63 56 = 0
  (Reads (readVI 1 (.src b)) (scheduled h s) x t →
    ((rk = .and ∨ rk = .or ∨ rk = .xor ∨ Fits isArith x) →
      (ready (.vredr h d b m rm rk) h s → exec (.vredr h d b m rm rk) s = .next (t.toVxe (.vredr h d b m rm rk) [x] [])) ∧
      (ready (.vredc h d b m rm rk) h s → exec (.vredc h d b m rm rk) s = .next (t.toVxe (.vredc h d b m rm rk) [x] [])) ∧
      (ready (.vscanr h d b m rm rk) h s → exec (.vscanr h d b m rm rk) s = .next (t.toVxe (.vscanr h d b m rm rk) [x] [])) ∧
      (ready (.vscanc h d b m rm rk) h s → exec (.vscanc h d b m rm rk) s = .next (t.toVxe (.vscanc h d b m rm rk) [x] []))) ∧
    (ready (.vtrb h d b m) h s → exec (.vtrb h d b m) s = .next (t.toVxe (.vtrb h d b m) [x] [])) ∧
    (ready (.vmov h d b) h s → exec (.vmov h d b) s = .next (t.toVxe (.vmov h d b) [x] [])) ∧
    (Reads (readVI 2 (.src a)) t y u → ready (.vshfr h d b a m) h s →
      exec (.vshfr h d b a m) s = .next (u.toVxe (.vshfr h d b a m) [x, y] [])) ∧
    (Reads (readSI 2 k) t v u →
      (ready (.vrotr h d b k m) h s → exec (.vrotr h d b k m) s = .next (u.toVxe (.vrotr h d b k m) [x] [v])) ∧
      (ready (.vrotc h d b k m) h s → exec (.vrotc h d b k m) s = .next (u.toVxe (.vrotc h d b k m) [x] [v])) ∧
      (v.toNat < 64 → ready (.vbcr h d b k m) h s → exec (.vbcr h d b k m) s = .next (u.toVxe (.vbcr h d b k m) [x] [v])) ∧
      (v.toNat < 16 → ready (.vbcc h d b k m) h s → exec (.vbcc h d b k m) s = .next (u.toVxe (.vbcc h d b k m) [x] [v])) ∧
      (v.toNat < 1024 * count x.tag → ready (.vext h sd b k sx) h s →
        exec (.vext h sd b k sx) s = .next (u.toVxe (.vext h sd b k sx) [x] [v]))) ∧
    (Reads (readSIs [(2, .src g), (3, k)]) t [v, w] u → w.toNat < 1024 * count x.tag → ready (.vins h d b g k) h s →
      exec (.vins h d b g k) s = .next (u.toVxe (.vins h d b g k) [x] [v, w])) ∧
    (Reads (readSIs [(2, .src g), (3, .src p)]) t [v, w] u → Fits notNone x → drawOk w → ready (.vdrop h d b g p kt) h s →
      exec (.vdrop h d b g p kt) s = .next (u.toVxe (.vdrop h d b g p kt) [x] [v, w]))) ∧
  (Reads (readSIs [(1, k), (2, k2)]) (scheduled h s) [v, w] u → ready (.viota h d k k2 m ft) h s →
    exec (.viota h d k k2 m ft) s = .next (u.toVxe (.viota h d k k2 m ft) [] [v, w])) ∧
  (Reads (readSI 1 k) (scheduled h s) v u → ready (.vsplat h d k m ft) h s →
    exec (.vsplat h d k m ft) s = .next (u.toVxe (.vsplat h d k m ft) [] [v])) ∧
  (Reads (readSIs [(1, .src g), (2, .src p)]) (scheduled h s) [v, w] u → drawOk w → ready (.vrng h d g p m dk) h s →
    exec (.vrng h d g p m dk) s = .next (u.toVxe (.vrng h d g p m dk) [] [v, w])) ∧
  (ready (.mand h dm m1 m2) h s → exec (.mand h dm m1 m2) s = put (.mand h dm m1 m2)) ∧
  (ready (.mor h dm m1 m2) h s → exec (.mor h dm m1 m2) s = put (.mor h dm m1 m2)) ∧
  (ready (.mxor h dm m1 m2) h s → exec (.mxor h dm m1 m2) s = put (.mxor h dm m1 m2)) ∧
  (ready (.mnot h dm m1) h s → exec (.mnot h dm m1) s = put (.mnot h dm m1)) ∧
  (ready (.mcnt h sd m1) h s → exec (.mcnt h sd m1) s = put (.mcnt h sd m1)) ∧
  (ready (.mfirst h sd m1) h s → exec (.mfirst h sd m1) s = put (.mfirst h sd m1))

/-! ## Words of the memory, copy, array and special-function engines: the entry that issue leaves -/

/-- Loads (09 R152, R157 to R163): with a TID below 4096 and an aligned offset, a load's entry joins the queue of the load
engine; LDA holds later accesses back until it is performed. -/
def Obligations.LoadsCompleteAsStated : Prop :=
  ∀ (h : Head) (d : VDst) (sd : Fin 64) (md : Fin 8) (tid : Ref) (off : SOp) (sc : SSrc) (vi : VSrc) (rep : Rep) (sz : Size)
    (sx tr dbl : Bool) (scope : Scope) (s t u w : State) (x y : W64) (z : Src) (r : Nat × Int),
  Reads (readRef 1 tid) (scheduled h s) x t → x.toNat < 4096 → roomFor 0 s →
  (Reads (readSI 2 off) t y u →
    (y.toNat % 128 = 0 → Reads (readRep 4 32 rep) u r w → ready (.ldv h d tid off rep) h s →
      exec (.ldv h d tid off rep) s = .next (w.toMem (entry (.ldv h d tid off rep) x.toNat r.1 r.2 [y] [] w))) ∧
    (y.toNat % 128 = 0 → Reads (readRep 4 1 rep) u r w → ready (.ldm h md tid off rep) h s →
      exec (.ldm h md tid off rep) s = .next (w.toMem (entry (.ldm h md tid off rep) x.toNat r.1 r.2 [y] [] w))) ∧
    (y.toNat % sizeBytes sz = 0 → Reads (readRep 4 1 rep) u r w → ready (.ldsc h sd tid off sz sx rep) h s →
      exec (.ldsc h sd tid off sz sx rep) s =
        .next (w.toMem (entry (.ldsc h sd tid off sz sx rep) x.toNat r.1 r.2 [y] [] w))) ∧
    (y.toNat % (if dbl then 8 else 4) = 0 → ready (.lda h sd tid off dbl scope) h s →
      exec (.lda h sd tid off dbl scope) s =
        .next (u.acquired.toMem (entry (.lda h sd tid off dbl scope) x.toNat 0 0 [y] [] u.acquired)))) ∧
  (Reads (readS 2 sc) t y u → ready (.ldvt h d tid sc tr) h s →
    exec (.ldvt h d tid sc tr) s = .next (u.toMem (entry (.ldvt h d tid sc tr) x.toNat 0 0 [y] [] u))) ∧
  (roomFor 1 s → Reads (readSrc 2 vi) t z u → Reads (readSI 3 off) u y w → z.e.tag = .int32 → z.partOk →
    ready (.ldvg h d tid vi off) h s →
    exec (.ldvg h d tid vi off) s = .next (w.toMem (entry (.ldvg h d tid vi off) x.toNat 0 0 [y] [indexEntry z] w)))

/-- Stores (09 R152, R157 to R164): the same, with their data. -/
def Obligations.StoresCompleteAsStated : Prop :=
  ∀ (h : Head) (v vi : VSrc) (a : SSrc) (md : Fin 8) (tid : Ref) (off : SOp) (rep : Rep) (sz : Size) (dbl : Bool)
    (scope : Scope) (s t u w z : State) (e : VEntry) (y : Src) (x o g : W64) (r : Nat × Int), x.toNat < 4096 →
  (Reads (readV 1 v) (scheduled h s) e t → e.tag ≠ .none → Reads (readRef 2 tid) t x u →
    (roomFor 1 s → Reads (readSI 3 off) u o w → o.toNat % 128 = 0 → Reads (readRep 4 32 rep) w r z →
      ready (.stv h v tid off rep) h s →
      exec (.stv h v tid off rep) s = .next (z.toMem (entry (.stv h v tid off rep) x.toNat r.1 r.2 [o] [e] z))) ∧
    (roomFor 2 s → Reads (readSrc 3 vi) u y w → Reads (readSI 4 off) w o z → y.e.tag = .int32 → y.partOk →
      ready (.stvs h v tid vi off) h s →
      exec (.stvs h v tid vi off) s = .next (z.toMem (entry (.stvs h v tid vi off) x.toNat 0 0 [o] [e, indexEntry y] z)))) ∧
  (roomFor 0 s → Reads (readS 1 a) (scheduled h s) g t → Reads (readRef 2 tid) t x u → Reads (readSI 3 off) u o w →
    (o.toNat % sizeBytes sz = 0 → ready (.stsc h a tid off sz) h s →
      exec (.stsc h a tid off sz) s = .next (w.toMem (entry (.stsc h a tid off sz) x.toNat 0 0 [o, g] [] w))) ∧
    (o.toNat % (if dbl then 8 else 4) = 0 → ready (.stl h a tid off dbl scope) h s →
      exec (.stl h a tid off dbl scope) s = .next (w.toMem (entry (.stl h a tid off dbl scope) x.toNat 0 0 [o, g] [] w)))) ∧
  (roomFor 0 s → Reads (readRef 2 tid) (scheduled h s) x t → Reads (readSI 3 off) t o u → o.toNat % 128 = 0 →
    Reads (readRep 4 1 rep) u r w → ready (.stm h md tid off rep) h s →
    exec (.stm h md tid off rep) s = .next (w.toMem (entry (.stm h md tid off rep) x.toNat r.1 r.2 [o] [] w)))

/-- Atomics, near-memory updates and barrier objects (09 R165 to R172): the entry joins its engine's queue; an order with
acquire holds later accesses back, and so does a BORD of word 0 (14 R259). -/
def Obligations.AtomicsCompleteAsStated : Prop :=
  ∀ (h : Head) (d : Fin 64) (a g : SSrc) (b n : SOp) (c : Option SOp) (op : AmoOp) (dbl : Bool) (ord : AmoOrd) (sc : Scope)
    (v : VSrc) (tid bo : Ref) (k : Comb3) (uk : UpdKind) (wd : Fin 4) (s t u w : State) (x y z o : W64) (e : VEntry),
  let held := fun (w : State) => match ord with
    | .acq | .ar => w.acquired
    | .rlx | .rel => w
  (roomFor 0 s → Reads (readS 1 a) (scheduled h s) x t → Reads (readSI 2 b) t y u → x.toNat % (if dbl then 8 else 4) = 0 →
    (Reads (readCas c) u z w →
      (ready (.amo h d a b c op dbl ord sc) h s →
        exec (.amo h d a b c op dbl ord sc) s =
          .next ((held w).toMem (entry (.amo h d a b c op dbl ord sc) 0 0 0 [x, y, z] [] (held w)))) ∧
      (ready (.amor h d a b c op dbl sc) h s →
        exec (.amor h d a b c op dbl sc) s = .next (w.toMem (entry (.amor h d a b c op dbl sc) 0 0 0 [x, y, z] [] w)))) ∧
    (Reads (readS 3 g) u z w → fld z 63 12 = 0 → ready (.famo h d a b g op dbl ord sc) h s →
      exec (.famo h d a b g op dbl ord sc) s =
        .next ((held w).toMem (entry (.famo h d a b g op dbl ord sc) 0 0 0 [x, y, 0, z] [] (held w))))) ∧
  (roomFor 1 s → Reads (readV 1 v) (scheduled h s) e t → Reads (readRef 2 tid) t x u → x.toNat < 4096 →
    (Reads (readSI 3 n) u o w → e.tag = .fp32 ∨ e.tag = .bf16 ∨ e.tag = .int32 → o.toNat % 128 = 0 →
      ready (.red h v tid n k) h s →
      exec (.red h v tid n k) s = .next (w.toMem (entry (.red h v tid n k) x.toNat 0 0 [o] [e] w))) ∧
    (Reads (readS 3 g) u o w → e.tag = .fp32 → fld o 47 24 % 32 = 0 → fld o 63 48 = 0 → ready (.updr h v tid g uk) h s →
      exec (.updr h v tid g uk) s = .next (w.toMem (entry (.updr h v tid g uk) x.toNat 0 0 [o] [e] w)))) ∧
  (roomFor 0 s → Reads (readRef 1 bo) (scheduled h s) o t → o.toNat < 4096 →
    (Reads (readSI 2 n) t x u → 1 ≤ x.toNat → x.toNat ≤ 2 ^ 47 → ready (.boarm h bo n) h s →
      exec (.boarm h bo n) s = .next (u.toMem (entry (.boarm h bo n) o.toNat 0 0 [x] [] u))) ∧
    (ready (.boclr h bo) h s → exec (.boclr h bo) s = .next (t.toMem (entry (.boclr h bo) o.toNat 0 0 [] [] t))) ∧
    (ready (.bord h d bo wd) h s →
      let u := if wd = 0 then t.acquired else t
      exec (.bord h d bo wd) s = .next (u.toMem (entry (.bord h d bo wd) o.toNat 0 0 [] [] u))))

/-- Copies and fabric words (09 R175, R179 to R187): with an object below 4096 and location words that the form allows,
the entry joins the copy-engine queue. -/
def Obligations.CopiesCompleteAsStated : Prop :=
  ∀ (h : Head) (bo : Ref) (dst src : Lw) (rep : Rep) (m ch : SSrc) (a b : SOp) (k : Comb3) (s t u w z : State)
    (o x y g : W64) (r : Nat × Int), Reads (readRef 1 bo) (scheduled h s) o t → o.toNat < 4096 →
  let all := [0, 1, 2]
  (Reads (readLw 2 dst) t x u → Reads (readLw 3 src) u y w →
    (lwGood all x → lwGood all y →
      (Reads (readRep 4 0 rep) w r z → ready (.cpy h bo dst src rep) h s →
        exec (.cpy h bo dst src rep) s =
          .next (z.toCopy (.cpy h bo dst src rep) (entry (.cpy h bo dst src rep) o.toNat r.1 r.2 [x, y] [] z))) ∧
      (Reads (readSI 4 a) w g z → g.toNat % 32 = 0 → ready (.cpyd h bo dst src a) h s →
        exec (.cpyd h bo dst src a) s =
          .next (z.toCopy (.cpyd h bo dst src a) (entry (.cpyd h bo dst src a) o.toNat 0 0 [x, y, g] [] z))) ∧
      (ready (.cpyr h bo dst src k) h s →
        exec (.cpyr h bo dst src k) s =
          .next (w.toCopy (.cpyr h bo dst src k) (entry (.cpyr h bo dst src k) o.toNat 0 0 [x, y] [] w)))) ∧
    (lwGood [0, 1] x → lwGood [2] y → ready (.mlr h bo dst src k) h s →
      exec (.mlr h bo dst src k) s =
        .next (w.toCopy (.mlr h bo dst src k) (entry (.mlr h bo dst src k) o.toNat 0 0 [x, y] [] w))) ∧
    (Reads (readS 4 m) w g z → lwGood all y →
      (lwGood [1] x → ready (.cpym h bo dst src m) h s →
        exec (.cpym h bo dst src m) s =
          .next (z.toCopy (.cpym h bo dst src m) (entry (.cpym h bo dst src m) o.toNat 0 0 [x, y, g] [] z))) ∧
      (lwGood [2] x → ready (.mst h bo dst src m) h s →
        exec (.mst h bo dst src m) s =
          .next (z.toCopy (.mst h bo dst src m) (entry (.mst h bo dst src m) o.toNat 0 0 [x, y, g] [] z))))) ∧
  (Reads (readS 2 ch) t x u → Reads (readSI 3 b) u y w → fld x 63 24 = 0 → ready (.rls h bo ch b) h s →
    exec (.rls h bo ch b) s = .next (w.toCopy (.rls h bo ch b) (entry (.rls h bo ch b) o.toNat 0 0 [x, y] [] w))) ∧
  (Reads (readFlag 2 a) t x u → Reads (readSI 3 b) u y w → fld x 63 19 = 0 → ready (.acqw h bo a b) h s →
    exec (.acqw h bo a b) s = .next (w.toCopy (.acqw h bo a b) (entry (.acqw h bo a b) o.toNat 0 0 [x, y] [] w))) ∧
  (Reads (readSI 2 a) t x u → Reads (readSI 3 b) u y w → x.toNat ≤ 63 → y.toNat % 64 = 0 → ready (.agset h bo a b) h s →
    exec (.agset h bo a b) s = .next (w.toCopy (.agset h bo a b) (entry (.agset h bo a b) o.toNat 0 0 [x, y] [] w)))

/-- Array words (10 R189 to R193, R202 to R209): with good operands, inputs, tile and command block, the entry joins the
array queue with the block as it stands at issue. -/
def Obligations.ArrayWordsCompleteAsStated : Prop :=
  ∀ (h : Head) (t : TileRef) (cb : SSrc) (x y : VLm) (rep : Rep) (s z : State) (v a : W64) (b c : Option Src) (r : Nat × Int),
  let bare := noUse
  let runs := fun (i : Instr) => ready i h s → exec i s = .next (z.toArray i (arrayEntry i v a b c r z))
  let ok := fun (x y : VLm) (rep : Rep) (u : BlockUse) (tag : Fmt → Bool) (p1 p2 : W64 → Bool) =>
    ArrayOk h t cb x y rep u tag p1 p2 s v a b c r z
  (ok x .lm rep (prodUse (isLm x) false) inputTag anyP anyP → runs (.xfwd h t cb x rep) ∧ runs (.xbwd h t cb x rep)) ∧
  (ok x .lm (.imm 0) (prodUse (isLm x) false) inputTag anyP anyP → runs (.xdist h t cb x)) ∧
  (ok x .lm (.imm 0) (prodUse (isLm x) true) inputTag countP1 anyP → runs (.xtopk h t cb x)) ∧
  (ok x .lm (.imm 0) { prodUse true true with in2 := isLm x } (fun f => decide (f = .int16)) countP1 anyP →
    runs (.xfwdb h t cb x)) ∧
  (ok x y (.imm 0) { bare with in1 := isLm x, in2 := isLm y, p1 := true, p2 := true } inputTag updP1 updP2 →
    runs (.xupd h t cb x y)) ∧
  (ok .lm .lm (.imm 0) { bare with p1 := true, p2 := true } inputTag xfrP1 updP2 → runs (.xxfr h t cb)) ∧
  (ok .lm .lm (.imm 0) { bare with p1 := true } inputTag (fun w => decide (1 ≤ w.toNat ∧ w.toNat ≤ 4095)) anyP →
    runs (.xsym h t cb)) ∧
  (ok .lm .lm (.imm 0) { bare with out := true, p1 := true } inputTag ckrP1 anyP → runs (.xckr h t cb)) ∧
  (ok .lm .lm (.imm 0) { bare with in1 := true, in2 := true, p1 := true } inputTag prgP1 anyP → runs (.xprg h t cb)) ∧
  (ok .lm .lm (.imm 0) bare inputTag anyP anyP → runs (.xscrb h t cb) ∧ runs (.xcal h t cb) ∧ runs (.xnorm h t cb)) ∧
  (ok .lm .lm (.imm 0) { bare with win := false, p1 := true, p2 := true } inputTag gsetP1 anyP → runs (.xgset h t cb)) ∧
  (ok .lm .lm (.imm 0) { bare with win := false, out := true } inputTag anyP anyP → runs (.xstat h t cb))

/-- XFENCE (10 R212): Drain and Hold join the array queue, Hold stops later pulse forms to its tiles from its issue on, a
hold that stands going on as it is, and Rel ends the hold and joins the array queue, where its 8 bytes are counted. -/
def Obligations.TileFencesCompleteAsStated : Prop :=
  ∀ (h : Head) (t : TileRef) (bo : SOp) (all : Bool) (s u w : State) (v o : W64),
  Reads (readTile t) (scheduled h s) v u → Reads (readSI 2 bo) u o w → o.toNat < 4096 → (all = false → tileGood v w) →
  let m := if all then 0xFFFFFFFF else 1#64 <<< v.toNat
  let cleared := fun (k : Core) => k.holds.filter (fun x => !bit m x.1.val)
  (roomFor 0 s → ready (.xfenceDrain h t bo all) h s →
    exec (.xfenceDrain h t bo all) s =
      .next (w.toArray (.xfenceDrain h t bo all) (entry (.xfenceDrain h t bo all) o.toNat 0 0 [m] [] w))) ∧
  (roomFor 0 s → ready (.xfenceHold h t bo all) h s →
    let w' := w.onSelf (fun k => { k with
      holds := k.holds ++ ((maskTiles m).filter (fun t => !k.holds.any (fun x => decide (x.1 = t)))).map (fun t => (t, k.serial)) })
    exec (.xfenceHold h t bo all) s =
      .next (w'.toArray (.xfenceHold h t bo all) (entry (.xfenceHold h t bo all) o.toNat 0 0 [m] [] w'))) ∧
  (roomFor 0 s → ready (.xfenceRel h t bo all) h s →
    let w' := w.onSelf (fun k => { k with holds := cleared k })
    exec (.xfenceRel h t bo all) s =
      .next (w'.toArray (.xfenceRel h t bo all) (entry (.xfenceRel h t bo all) o.toNat 0 0 [m] [] w')))

/-- Special-function words (10 R213, R214): with an object below 4096 and a good command block of 1 to 65536 rows, the
entry joins the special-function queue; an immediate repeat steps by the rows of the block. -/
def Obligations.SpecialFunctionsCompleteAsStated : Prop :=
  ∀ (h : Head) (bo : Ref) (cb : SSrc) (acc : Bool) (rep : Rep) (s t u w : State) (o a : W64) (r : Nat × Int),
  Reads (readRef 1 bo) (scheduled h s) o t → Reads (readS 2 cb) t a u → Reads (readRep 4 0 rep) u r w → o.toNat < 4096 →
  blockGood a sfUse false sfP1 anyP w →
  let step := sfStep rep r.2 ((blockWords a w).getD 5 0)
  let queued := fun (i : Instr) => Host.Outcome.next (w.toSf i (entry i o.toNat r.1 step (arrayVals 0 (blockWords a w) w) [] w))
  (ready (.fexp h bo cb acc rep) h s → exec (.fexp h bo cb acc rep) s = queued (.fexp h bo cb acc rep)) ∧
  (ready (.fexp2 h bo cb acc rep) h s → exec (.fexp2 h bo cb acc rep) s = queued (.fexp2 h bo cb acc rep)) ∧
  (ready (.flog h bo cb acc rep) h s → exec (.flog h bo cb acc rep) s = queued (.flog h bo cb acc rep)) ∧
  (ready (.flog2 h bo cb acc rep) h s → exec (.flog2 h bo cb acc rep) s = queued (.flog2 h bo cb acc rep)) ∧
  (ready (.frcp h bo cb acc rep) h s → exec (.frcp h bo cb acc rep) s = queued (.frcp h bo cb acc rep)) ∧
  (ready (.frsq h bo cb acc rep) h s → exec (.frsq h bo cb acc rep) s = queued (.frsq h bo cb acc rep)) ∧
  (ready (.fsqrt h bo cb acc rep) h s → exec (.fsqrt h bo cb acc rep) s = queued (.fsqrt h bo cb acc rep)) ∧
  (ready (.ftanh h bo cb acc rep) h s → exec (.ftanh h bo cb acc rep) s = queued (.ftanh h bo cb acc rep)) ∧
  (ready (.fsig h bo cb acc rep) h s → exec (.fsig h bo cb acc rep) s = queued (.fsig h bo cb acc rep)) ∧
  (ready (.fgelu h bo cb acc rep) h s → exec (.fgelu h bo cb acc rep) s = queued (.fgelu h bo cb acc rep)) ∧
  (ready (.fsilu h bo cb acc rep) h s → exec (.fsilu h bo cb acc rep) s = queued (.fsilu h bo cb acc rep)) ∧
  (ready (.fsin h bo cb acc rep) h s → exec (.fsin h bo cb acc rep) s = queued (.fsin h bo cb acc rep)) ∧
  (ready (.fcos h bo cb acc rep) h s → exec (.fcos h bo cb acc rep) s = queued (.fcos h bo cb acc rep)) ∧
  (ready (.ferf h bo cb acc rep) h s → exec (.ferf h bo cb acc rep) s = queued (.ferf h bo cb acc rep)) ∧
  (ready (.fsmax h bo cb acc rep) h s → exec (.fsmax h bo cb acc rep) s = queued (.fsmax h bo cb acc rep))

/-! ## Events -/

/-- Events of the sequencer (02 R24, 07 R103 to R115, 12 R233): a stall count that runs out, the switch to the next ready
berth, and the ends of waits: a sleep at its tick, an object or a named barrier at its phase, PMISS at the promise, BARTO
after 160,000 ticks, a token in the inbox, room in the token table, and a doorbell to idle berths. -/
def Obligations.SequencerEventsRun : Prop :=
  ∀ (c : CoreId) (b : BerthId) (s : State),
  let x := s.berth c b
  let k := s.core c
  let go := fun (s : State) => s.updBerth c b (fun x => { x with pc := x.pc + 16, wait := .none })
  (x.stall = 1 → exec (.stallExpiry c b) s = .next (s.updBerth c b (fun x => { x with stall := 0 }))) ∧
  (x.stall ≠ 1 → exec (.stallExpiry c b) s = .next s) ∧
  (k.running = false → k.nextBerth = some b →
    exec (.berthSwitch c) s = .next (s.setCore c { k with cur := b, running := true, skip := 1, switched := 1 })) ∧
  (k.running = true ∨ k.nextBerth = none → exec (.berthSwitch c) s = .next s) ∧
  (x.wait = .wait → k.noResults b = true → nextReads s c b = true →
    exec (.waitWake c b) s = .next (s.updBerth c b (fun x => { x with wait := .none }))) ∧
  (∀ t : W64, x.wait = .sleepc t →
    exec (.sleepcWake c b) s = .next (if t.toNat ≤ s.cyc.toNat then go s else s)) ∧
  (∀ (o : Fin 4096) (ph : Bool), x.wait = .waitp o ph → s.objErrs c o = none →
    exec (.waitpWake c b) s = .next (if k.objPh o ≠ ph then objectWake c b o s else s)) ∧
  (∀ (o : Fin 4096) (ph : Bool) (prom : W64), x.wait = .sleepp o ph prom → s.objErrs c o = none →
    exec (.sleeppWake c b) s = .next (if k.objPh o ≠ ph then objectWake c b o s
      else if prom ≠ 0 ∧ prom.toNat ≤ s.cyc.toNat then takeTrapWaiting c b .pmiss 7 prom x.pc x.pc s else s)) ∧
  (∀ (n : Fin 96) (ph : Bool) (t : W64), x.wait = .bar n ph t →
    (k.barPh n ≠ ph → exec (.barrierWake c b) s = .next ((go s).updBerth c b (Berth.unmark n))) ∧
    (k.barPh n = ph → exec (.barrierWake c b) s = .next s ∧
      exec (.barrierWaitTimeout c b) s = .next (if t.toNat ≤ s.cyc.toNat
        then takeTrapWaiting c b .barto 7 ((k.bars.get n).2.1.zeroExtend 64) x.pc x.pc s else s))) ∧
  (∀ (kd : MbKind) (mb : Byte), x.wait = .tokin kd mb →
    exec (.tokinWake c b) s = .next (match takeToken kd mb k.inbox with
      | some r => go (s.updCore c (fun k => { k with inbox := r }))
      | none => s)) ∧
  (∀ (kd : MbKind) (st : BitVec 6) (mb : Byte), x.wait = .tokout kd st mb →
    exec (.tokoutWake c b) s = .next (if tokenRoom s c then go (enterToken kd st mb c s) else s)) ∧
  (exec (.idleWake c) s = .next ((List.finRange 4).foldl (fun s b =>
    if (s.berth c b).wait = .idle then s.updBerth c b (fun x => { x with pc := x.pc + 16, wait := .none }) else s) s)) ∧
  (∀ (i : Nat) (l : Launch), s.gangOf c = some (i, l) →
    (∀ t ∈ (s.part l.part).tokens, c ∉ t.owed) → exec (.tokenInboxRoom c) s = .next s)

/-- A token held for an inbox is delivered when the inbox gains room, to a gang of the token's stage (12 R233). -/
def Obligations.HeldTokenDelivered : Prop :=
  ∀ (c : CoreId) (s t : State) (i : Nat) (l : Launch) (k : Tok), s.gangOf c = some (i, l) →
  (s.part l.part).tokens.find? (fun t => t.owed.contains c && bit (l.record.get 1) 54
    && decide (fld (l.record.get 1) 61 56 = t.stage.toNat)) = some k →
  giveToken k c s = (t, true) →
  let p := t.part l.part
  let owed := k.owed.filter (fun x => !decide (x = c))
  let left := if owed.isEmpty then p.tokens.erase k else p.tokens.map (fun x => if x = k then { x with owed := owed } else x)
  exec (.tokenInboxRoom c) s = .next (t.setPart l.part { p with tokens := left })

/-- Clock events (02 R20, R21, R24, 15 R272 to R276, R278, R280, 27 R382): a droop alarm starts 6 stretched cycles outside a
stretch, and then comes a window of 64; the sums QEST and QSIG of a window are the weighted counts over 1,024, saturated; VEC moves one
step within its bounds and stops the core clock while it does; a thermal trip takes the power away, but for the security block's. At a
boundary of the interval the ceilings, a new record of rails and the shares of the RDC take effect. The model's choices: the counts
of a window are free values, the next 48 (logs 25 and 8); a die's ceiling raises one step of VEC at a time (log 44). -/
def Obligations.ClockEventsRun : Prop :=
  ∀ (q : QuadId) (d : Fin 13) (up : Bool) (s : State),
  let counted := (quadCores q).foldl (fun s c => s.updCore c (fun k =>
    { k.count 8 1 with drpCnt := if k.drpCnt = 0xFFFF then k.drpCnt else k.drpCnt + 1 })) (bump (hDroop q) 1 s)
  let x := s.quad q
  (exec (.droopAlarm q) s = .next (if (counted.quad q).stretch = 0
    then counted.setQuad q { counted.quad q with stretch := 6, window := 0, half := false } else counted)) ∧
  (exec (.stretchEnd q) s = .next (if x.stretch = 1 then s.setQuad q { x with stretch := 0, window := 64, half := false } else s)) ∧
  (exec (.halfRateWindowEnd q) s = .next (if x.window = 1 then s.setQuad q { x with window := 0 } else s)) ∧
  (let sum := fun (weight : Fin 48 → W16) =>
      min (((List.finRange 48).map (fun i => (Config.free (s.free + i.val)).toNat * (weight i).toNat)).sum / 1024) 0xFFFFFFFF;
    ∃ t, exec (.estimatorWindow q) s = .next t ∧ t.free = s.free + 48 ∧
      (t.quad q).qest.toNat = sum (fun i => x.qpew.get i) ∧ (t.quad q).qsig.toNat = sum (Config.qsigWeight s.ceilings) ∧
      (Config.qceil s.ceilings < (t.quad q).qsig → (t.quad q).fall = true) ∧
      t.todo = (if s.moduleCeil < t.estimate then s.todo ++ [.vecStepChange false] else s.todo)) ∧
  (exec .intervalBoundary s = .next (trimRdc { s with
    quads := s.quads.map (fun x => (if s.installed 3 = s.rails then x
      else { x with thr := Config.thrInit (s.installed 3) }).boundary),
    dies := s.dies.map (ingressGrant s), ceilings := s.installed 1, rails := s.installed 3,
    parts := s.parts.map (fun p => { p with share := p.rdcs }) })) ∧
  (exec (.thermalCeiling d) s = .next { s with thermal := true, todo := s.todo ++ [.vecStepChange false] }) ∧
  ((if up then s.vecHigh ≤ s.freq else s.freq ≤ s.vecLow) → exec (.vecStepChange up) s = .next s) ∧
  (¬ (if up then s.vecHigh ≤ s.freq else s.freq ≤ s.vecLow) →
    ∃ t, exec (.vecStepChange up) s = .next t ∧ t.freq = (if up then s.freq + 1 else s.freq - 1) ∧ t.clockStop = true) ∧
  (exec .clockStopEnd s = .next (if s.stopEnd.toNat ≤ s.cyc.toNat then { s with clockStop := false } else s)) ∧
  (exec (.thermalTrip d) s = .next { s with
      powered := false, pcieUp := false, todo := s.todo.filter (fun e => decide (e = .mailboxDone)),
      flash := { s.flash with trip := true, trips := s.flash.trips + 1 } })

/-- Gating and waking of a quad (15 R283, R284): an empty quad is gated; a request waits for the hold time and then for the
arbiter; two ramps may run on a die at a time; stable rails turn the quad on, which leaves the ramps of its die, and the arbiter
looks at the next one. That rails are stable after the typical 4,800 ticks exactly is the model's choice (log 33). -/
def Obligations.PowerEventsRun : Prop :=
  ∀ (q : QuadId) (d : DieId) (r : List QuadId) (t : W64) (w : Bool) (s : State),
  let x := s.quad q
  (s.quadEmpty q = true → x.power = .on →
    exec (.quadPowerGate q) s = .next (s.setQuad q { x with power := .gated s.cyc false })) ∧
  (s.quadEmpty q = false ∨ x.power ≠ .on → exec (.quadPowerGate q) s = .next s) ∧
  (x.power = .gated t w → exec (.wakeRequest q) s = .next (if holdTicks ≤ since s t then enterArbiter q s
    else (s.setQuad q { x with power := .gated t true }).later (holdTicks - since s t) (.wakeHoldExpiry q))) ∧
  (x.power = .gated t true →
    exec (.wakeHoldExpiry q) s = .next (if holdTicks ≤ since s t then enterArbiter q s else s)) ∧
  ((s.die d).rush = q :: r → 2 ≤ (s.die d).admitted.length → exec (.inrushAdmit d) s = .next s) ∧
  ((s.die d).rush = q :: r → (s.die d).admitted.length < 2 →
    exec (.inrushAdmit d) s = .next (((s.setDie d { s.die d with rush := r, admitted := (s.die d).admitted ++ [q] }).setQuad q
      { x with power := .ramping }).later railTicks (.railsStable q))) ∧
  (x.power = .ramping → ∃ t r, exec (.railsStable q) s = .next t ∧ (t.quad q).power = .on ∧
    (t.die (dieOfQuad q)).admitted = (s.die (dieOfQuad q)).admitted.erase q ∧
    t.todo = s.todo ++ .inrushAdmit (dieOfQuad q) :: r) ∧
  (x.power ≠ .ramping → exec (.railsStable q) s = .next s)

/-- Events of the vector pipe and of the load and store engines (02 R22, 07 R101, 08 R130, 09 R152 to R155): writeback takes
the sequencer's results, the vector pipe's and the load engine's, in this order; the first vector entry starts when its
result can; the first entry of an engine that may start does, and is its active entry; a transfer that can be performed moves
its entry on, whose last ends it; tokens of ended entries are pushed; a deferred trap is taken outside the handlers of such traps, and
for a berth that has exited what its unit holds is discarded; a count is applied to its object. The model's choices: a completion of
the host that reports an error and that no entry awaits marks its location (log 83), and a count for an object whose line has an
error leaves it as it is and posts a record (log 20). -/
def Obligations.PipeEventsRun : Prop :=
  ∀ (c : CoreId) (b : BerthId) (u : MemUnit) (r : Reply) (q : QEntry) (rest : List QEntry) (n : Count) (ns : List Count)
    (t : DTrap) (ts : List DTrap) (y : Pend) (sn : Fin 64) (m : Fin 1024) (w : W64) (e : VEntry) (tk : Tokens) (a : Active)
    (sh : Rec) (s : State),
  let k := s.core c
  let x := s.berth c b
  (k.inflight = [y] → k.ldPush = [] → y.unit = .seq → y.rem = 0 → y.tok = 0 → y.dst = .s sn → y.val = .s w →
    ((s.berth c y.berth).s.get sn).length < 2 → ∃ t : State, exec (.resultWriteback c) s = .next t ∧
      (t.berth c y.berth).s.get sn = (s.berth c y.berth).s.get sn ++ [w] ∧ (t.berth c y.berth).ls = w ∧ (t.core c).inflight = []) ∧
  (k.ldPush = [y] → y.unit = .lde → y.tok = 0 → y.dst = .v m → m.val < 256 → y.val = .v e → (s.vFifo c m).length < 2 →
    ∃ t : State, exec (.enginePushResume c) s = .next t ∧
      t.vFifo c m = s.vFifo c m ++ [e] ∧ (t.core c).ll = e ∧ (t.core c).ldPush = []) ∧
  (let starts := fun (u : MemUnit) => match u with
      | .lde => exec (.ldeEntryStart c) s
      | .ste => exec (.steEntryStart c) s
    let s' := s.setCore c { k.setQueue u ((k.queueOf u).erase q) with tokens := tk, vbuf := k.vbuf - q.vops.length }
    let begun := fun (q : QEntry) (sh : Option Rec) =>
      some { q := q, shape := sh, n := 0, src := none, sent := false, lines := .start, busy := 0, paid := 0, fault := false,
             hold := none, age := 0 }
    nextEntry k u = some q → Tokens.pop k.tokens (unitCls u) (pbOf q) = some tk → engineFree k u = true → k.stopped = false →
    (usesRecord q.ins = false → startTrap q none = none → ∃ t : State, starts u = .next t ∧ (t.core c).active_ u = begun q none ∧
      (t.core c).queueOf u = (k.queueOf u).erase q ∧ (t.core c).tokens = tk) ∧
    (∀ (z : State) (p : QEntry), usesRecord q.ins = true → recMore c q.ref s' = none → readRec c q.ref s' = .ok (sh, z) →
      startTrap q (some sh) = none → startValues z c q = some p → coefErr z c q = none →
      starts u = .next (z.updCore c (fun k => k.setActive u (begun p (some sh)))))) ∧
  (let l := letAllIn c ((unitPaths s c a.q (recLm sh) (planOf a.q sh a.n a.src s.cyc)).drop a.paid) s
    let p := planOf a.q sh a.n a.src s.cyc
    let z := { a with paid := a.paid + l.1 }
    k.active_ u = some a → a.fault = false → (u = .lde → k.loadStands = false) → a.shape = some sh →
    ((∃ h d i o sz sx rep, a.q.ins = .ldsc h d i o sz sx rep) ∨ (∃ h v i o sz, a.q.ins = .stsc h v i o sz)) →
    storeBehind s c u a = false → a.busy ≤ 1 → planWalks c a (recLm sh) p s = none →
    l.1 = ((unitPaths s c a.q (recLm sh) p).drop a.paid).length →
    ∀ (g : State) (v : Option RVal) (lat : Nat),
    ((a.sent = true ∨ ∀ w : W64, r ≠ .uce w) →
      movePlan c u z p (recLm sh) (some r) (lmFound c (recLm sh) (some r) l.2) = .done g v lat →
      exec (.hostCompletion c u r) s = .next (moved c u z v lat p.flags g) ∧
      (a.q.rep ≤ a.n → ((moved c u z v lat p.flags g).core c).active_ u = none)) ∧
    (movePlan c u z p (recLm sh) none l.2 = .done g v lat →
      exec (.memoryTransferPerformed c u .ok) s = .next (moved c u z v lat p.flags g) ∧
      (a.q.rep ≤ a.n → ((moved c u z v lat p.flags g).core c).active_ u = none))) ∧
  (∀ (cl : Cls) (pa : BitVec 2), k.retire = [(cl, pa)] → Tokens.push k.tokens cl pa = some tk →
    exec (.engineEntryComplete c) s = .next (s.updCore c (fun k => { k with retire := [], tokens := tk }))) ∧
  (let s1 := writeUnit c .vxe 128 (writeUnit c .seq 128 s)
    let l := (s1.core c).ldPush ++ due .lde (s1.core c).inflight
    exec (.resultWriteback c) s = .next ((loadPushes c l (s1.updCore c (fun k =>
      { k with ldPush := [], inflight := k.inflight.filter (fun r => !decide (r.unit = .lde ∧ r.rem = 0)) }))).updCore c
        (fun k => { k with inflight := k.inflight.map (fun r => { r with rem := r.rem - 1 }) }))) ∧
  (exec (.enginePushResume c) s = .next (loadPushes c k.ldPush (s.updCore c (fun k => { k with ldPush := [] })))) ∧
  (k.vxeQ = q :: rest → vxeReady k = true → exec (.vxeEntryStart c) s = .next (s.updCore c (fun k =>
    { k with vxeQ := rest, tokens := (Tokens.pop k.tokens .vxe (pbOf q)).getD k.tokens,
             inflight := k.inflight ++ [vxePend (vxeOut k q) q] }))) ∧
  (k.vxeQ = [] ∨ vxeReady k = false → exec (.vxeEntryStart c) s = .next s) ∧
  (exec (.ldeEntryStart c) s = .next (startEntry c .lde s)) ∧
  (exec (.steEntryStart c) s = .next (startEntry c .ste s)) ∧
  (exec (.memoryTransferPerformed c u r) s = .next (transfer c u (if r = .ok then none else some r) s)) ∧
  ((∀ w : W64, r ≠ .uce w) → exec (.hostCompletion c u r) s = .next (transfer c u (some r) s)) ∧
  (∀ w : W64, k.active_ u = none → hostBase ≤ w.toNat → w.toNat < 2 ^ 48 → ∃ t : State,
    exec (.hostCompletion c u (.uce w)) s = .next t ∧ t.bad = s.bad.filter (fun g => !decide (g = w.toNat / 8 * 8)) ++ [w.toNat / 8 * 8]) ∧
  (k.retire = [] → exec (.engineEntryComplete c) s = .next (s.updCore c (fun k => { k with retire := [] }))) ∧
  (x.pend = t :: ts →
    (x.exited = true →
      let s' := s.updCore c (fun k => discardUnit t.unit b (k.updBerth b (fun x => { x with pend := ts })))
      exec (.deferredTrapTaken c b) s = .next (match t.unit with
        | .lde | .ste => coreFault c b 0x89 0 (t.code.num.zeroExtend 64) t.tval s'
        | .arr | .sf => s')) ∧
    (x.exited = false → x.unitHandler = false →
      let s' := s.updBerth c b (fun x => { x with pend := ts })
      let taken := if x.wait = .none then takeTrap c b t.code 7 t.tval x.pc x.pc s'
        else takeTrapWaiting c b t.code 7 t.tval x.pc x.pc s'
      exec (.deferredTrapTaken c b) s = .next (taken.updBerth c b (fun y => { y with handlers := .unit t.unit :: x.handlers })))) ∧
  (x.pend = [] ∨ (x.exited = false ∧ x.unitHandler = true) → exec (.deferredTrapTaken c b) s = .next s) ∧
  (k.counts = n :: ns →
    (s.lmErr c (objAddr n.bo) 32 = none →
      exec (.objectCount c) s = .next (s.updCore c (fun k => applyCount { k with counts := ns } n))) ∧
    (∀ l : Nat, s.lmErr c (objAddr n.bo) 32 = some l → exec (.objectCount c) s = .next (coreFault c 0 0x02 1 (BitVec.ofNat 64 l)
      (BitVec.ofNat 64 l) (bump (hUncorr 0) 1 (s.updCore c (fun k => { k with counts := ns })))))) ∧
  (k.counts = [] → exec (.objectCount c) s = .next s)

/-- Events of the copy engine and the fabric (09 R177 to R187, 22 R345 to R348): a command is accepted by its form; a copy whose
records are good and fit takes a unit with its bytes to count, and one whose records do not fit is refused with SHAPE; a unit moves and
is counted, or the command ends; AGSET installs its group or reports a defect; a flag waits for the writes before it, and its
acknowledgement ends the RLS, and unacknowledged flags stand for the port of the new path; a write counts once per number, and waits
where its die's ingress has no budget left (15 R280). The model's choices: the dies that a message enters, and that it waits for the
next interval (log 40); a flag to the own rank goes round in 1900 ticks, and flags and writes for a group not installed are dropped
(log 39); which members are absent for reasons that other modules hold is a free value (log 82). -/
def Obligations.CopyEventsRun : Prop :=
  ∀ (c : CoreId) (absent : W64) (i : Fin 8) (r : Reply) (q : QEntry) (y : Copy) (p : PartId) (g rank : Fin 64) (a b : W32)
    (flag : BitVec 12) (v : W64) (m : FabMsg) (x : Group) (s : State),
  (acceptable s c = none → exec (.copyAccept c absent) s = .next s) ∧
  (∀ t : State, acceptable s c = some q → recsMore c (copyTids q) s = some t →
    exec (.copyAccept c absent) s = .next (t.push [.copyAccept c absent])) ∧
  (acceptable s c = some q → recsMore c (copyTids q) s = none →
    let told := if needsMembers q then absent ||| Config.free s.free else absent
    let t := (if needsMembers q then { s with free := s.free + 1 } else s).updCore c (fun k =>
      ({ k with cpyQ := k.cpyQ.drop 1 } : Core).perform q.id 4)
    (∀ h bo ch n, q.ins = .rls h bo ch n → exec (.copyAccept c absent) s = .next (acceptRls c q told t)) ∧
    (∀ h bo f n, q.ins = .acqw h bo f n → exec (.copyAccept c absent) s =
      .next (match acqGroup (t.part (t.coreCtx c).part) (val0 q 0) with
        | some g =>
          launchCopy c { plainCopy q with srcPlace := .member g 0 } (flagLat t c g (val0 q 0)) (flagLat t c g (val0 q 0)) t
        | none => refuse c q (some 8) [] (errDown (val0 q 0)) 0 t)) ∧
    (∀ h bo f n, q.ins = .agset h bo f n → exec (.copyAccept c absent) s =
      .next ((launchCopy c (plainCopy q) 200 0 t).push ((t.core c).freeCopy.map (fun i => Ev.copyUnitPerformed c i .ok)).toList)) ∧
    (∀ h bo f n, q.ins = .agset h bo f n → (s.core c).freeCopy = some i → ∃ (u : State) (z : Copy),
      exec (.copyAccept c absent) s = .next u ∧ (u.core c).cpyQ = (s.core c).cpyQ.drop 1 ∧
      (u.core c).copies.get i = some z ∧ z.q = q ∧ z.left = 8) ∧
    (movesBytes q.ins = true → exec (.copyAccept c absent) s = .next (acceptRecords c q told t) ∧
      ∀ (dst src : Rec) (u w : State), headRec c q.id (lwTid (val0 q 0)) t = .ok (dst, u) → recState dst = .good →
      let n := copyBytes q dst
      let l := targetsOf u c q dst told n
      let all := n * l.length + extraBytes q.ins
      firstError l = none → headRec c q.id (lwTid (val0 q 1)) u = .ok (src, w) →
      (recState src ≠ .good ∨ shapesOk q.ins src dst = false →
        exec (.copyAccept c absent) s = .next (refuse c q (some all) (goodTargets l) errShape 0 w)) ∧
      (∀ sp : Place, recState src = .good → shapesOk q.ins src dst = true → sourceOf w c q src told = .ok sp →
        lmEndOk w sp q src dst false = true → (∀ x ∈ goodTargets l, lmEndOk w x.place q src dst true = true) →
        (s.core c).freeCopy = some i → ∃ (z : State) (y : Copy), exec (.copyAccept c absent) s = .next z ∧
          (z.core c).cpyQ = (s.core c).cpyQ.drop 1 ∧ (z.core c).copies.get i = some y ∧ y.q = q ∧ y.src = src ∧ y.dst = dst ∧
          y.srcPlace = sp ∧ y.left = all ∧ y.unit = 0))) ∧
  ((s.core c).copies.get i = none → exec (.copyUnitPerformed c i r) s = .next s) ∧
  ((s.core c).copies.get i = some y →
    (movesBytes y.q.ins = true → exec (.copyUnitPerformed c i r) s = .next (moveCopy c i y r s) ∧
      (y.current = none → exec (.copyUnitPerformed c i r) s = .next (endCopy c i y s)) ∧
      (∀ (n : Nat) (t : Target) (w z : State) (data : List Byte), y.current = some (n, t) → y.sent = false →
        y.paced s c (unitCount y.q y.dst y.unit) = true → unitWalks c y t s = none →
        letIn c (unitClass s c y.q y.src y.dst (sourceEnds s c y.q y.srcPlace) (s.endOf c t.place) y.unit) (copyDies s c y t) s = some w →
        runUnit c y t r w = .done z data → exec (.copyUnitPerformed c i r) s = .next (unitDone c i y n t data z))) ∧
    (∀ h bo f n, y.q.ins = .acqw h bo f n → exec (.copyUnitPerformed c i r) s = .next (moveAcqw c i y s) ∧
      (∀ (g' rank' : Fin 64) (w : W64), y.srcPlace = .member g' rank' →
        flagWord (countLook c i y g' s) c g' (val0 y.q 0) = .ok w →
        (val0 y.q 1).toNat ≤ w.toNat → ∃ u : State, exec (.copyUnitPerformed c i r) s = .next u ∧
          (u.core c).copies.get i = none ∧
          (u.core c).counts = (s.core c).counts ++ [{ bo := issuerObj y.q, n := some 8, err := none, prom := none }]))) ∧
  (agsetReady (s.core c) = none → exec (.agsetInstall c) s = .next s) ∧
  (agsetReady (s.core c) = some (i, y) → s.lmErr c (val0 y.q 1).toNat 512 = none →
    let p := (s.coreCtx c).part
    let g := Fin.ofNat 64 (val0 y.q 0).toNat
    let x : Group := { record := groupRecord (s.core c) (val0 y.q 1).toNat, chans := .replicate 64 Channel.zero }
    (∀ d : Nat × Bool, (groupDefects s p g x).find? (fun d => d.2) = some d →
      exec (.agsetInstall c) s = .next (endPlain c i y.q (some ⟨0x0B, BitVec.ofNat 64 d.1⟩) 0 s)) ∧
    ((groupDefects s p g x).find? (fun d => d.2) = none →
      let t := groupDown p g s
      exec (.agsetInstall c) s = .next (endPlain c i y.q none 0
        (t.setPart p { t.part p with groups := (t.part p).groups.set g.val (some x) g.isLt })))) ∧
  ((s.part p).groups.get g = none → exec (.rlsMessageReceived p g rank a b flag v) s = .next s ∧
    exec (.fabricWriteReceived p g rank m.num m.ppa m.va m.bytes m.comb (m.obj, m.err)) s = .next s ∧
    exec (.fabricResend p g rank) s = .next s) ∧
  ((s.part p).groups.get g = some x →
    let msg : FlagMsg := { scnt := a, sseq := b, flag := flag, val := v, via := none }
    let flagDies := if s.isSelf x rank.val then [] else portDies s (x.mod rank.val) (arriving s p x (x.mod rank.val) false false true
      (x.flagva + BitVec.ofNat 64 (8 * flag.toNat)) 8)
    exec (.rlsMessageReceived p g rank a b flag v) s = .next (match enterDies p flagDies s with
      | none => s.later s.nextInterval (.rlsMessageReceived p g rank a b flag v)
      | some s => if serialGe (x.chans.get rank).rcnt a then applyFlag p g rank x msg s
        else updChan p g rank (fun ch => { ch with heldFlags := ch.heldFlags ++ [msg] }) s) ∧
    (∀ w u : State, enterDies p flagDies s = some w → serialGe (x.chans.get rank).rcnt a = true →
      serialGe (x.chans.get rank).rseq b = false →
      (updChan p g rank (fun ch => { ch with rseq := b }) w).writeVa ⟨p, x.fctx, 0, none⟩
        (x.flagva + BitVec.ofNat 64 (8 * flag.toNat)) (toBytes 8 v.toNat) = .ok u →
      exec (.rlsMessageReceived p g rank a b flag v) s =
        .next (if w.isSelf x rank.val then u.later 1900 (.rlsAckReceived p g rank b) else u)) ∧
    (serialGe (x.chans.get rank).rcnt m.num = true →
      exec (.fabricWriteReceived p g rank m.num m.ppa m.va m.bytes m.comb (m.obj, m.err)) s = .next s) ∧
    (serialGe (x.chans.get rank).rcnt m.num = false →
      let way := enterDies p (portDies s (x.mod rank.val) (arriving s p x (x.mod rank.val) m.ppa false true m.va m.bytes.length)) s
      (way = none → exec (.fabricWriteReceived p g rank m.num m.ppa m.va m.bytes m.comb (m.obj, m.err)) s =
        .next (s.later s.nextInterval (.fabricWriteReceived p g rank m.num m.ppa m.va m.bytes m.comb (m.obj, m.err)))) ∧
      (∀ t : State, way = some t →
        exec (.fabricWriteReceived p g rank m.num m.ppa m.va m.bytes m.comb (m.obj, m.err)) s = .next (releaseFlags p g rank
          (applyWrites p g rank ((x.chans.get rank).early.length + 1)
            (updChan p g rank (fun ch => { ch with early := ch.early ++ [{ m with via := none }] }) t))))) ∧
    (s.isSelf x rank.val = false →
      exec (.fabricResend p g rank) s = .next (updChan p g rank (Channel.resent (s.portTo (x.mod rank.val))) s)) ∧
    (∀ f : FlagMsg, s.isSelf x rank.val = true → (x.chans.get rank).unackedFlags = [f] → exec (.fabricResend p g rank) s =
      .next (s.later 1900 (.rlsMessageReceived p g rank f.scnt f.sseq f.flag f.val)))) ∧
  (let t := updChan p g rank (Channel.flagAcked b) s;
    (∀ ch : Channel, (ch.flagAcked b).unackedFlags = ch.unackedFlags.filter (fun m => !decide (m.sseq = b))) ∧
    exec (.rlsAckReceived p g rank b) s = .next (match rlsWaiting t p g rank b with
      | some (c, i, q) => endPlain c i q none 0 t
      | none => t)) ∧
  (∀ (grp : Option (Fin 64)) (n : Fin 129) (op : Option (AmoOp × Bool × W64 × W64)) (from_ : BitVec 6),
    ((s.part p).en = false ∨ (∃ k, grp = some k ∧ (s.part p).groups.get k = none) ∨
      (grp = none ∧ (s.part p).groupOf from_.toNat = none)) →
    exec (.fabricRequestReceived p grp v n op from_) s = .next s)

/-- A request of another module for an atomic at a word of the sync window performs it there, in the context of the group that it
names, or by PPA, once the dies that it enters let it in, and brings the word's line into the engine's SRAM (09 R165, 13 R246, 15 R280,
22 R347, R348). That it enters the die of its port and the die of the word is the model's choice (log 40). -/
def Obligations.ModuleAtomicPerformed : Prop :=
  ∀ (p : PartId) (g : Fin 64) (rank : Nat) (x : Group) (ppa dbl : Bool) (va b c : W64) (n : Fin 129) (op : AmoOp)
    (from_ : BitVec 6) (e : Seg) (s t : State),
  (s.part p).en = true → (s.part p).groups.get g = some x →
  (if ppa then (s.part p).groupOf from_.toNat = some (g, rank) else x.rankOf from_.toNat = some rank) →
  let k := if dbl then 8 else 4
  arriving s p x from_.toNat ppa true true va k = .ok [e] → e.site = .sync →
  enterDies p (portDies s from_.toNat (.ok [e])) s = some t → t.badIn e.dpa k = none →
  exec (.fabricRequestReceived p (if ppa then none else some g) va n (some (op, dbl, b, c)) from_) s =
    .next (useSync e (t.putBytes e.dpa (toBytes k (amoNew op k (BitVec.ofNat 64 (ofBytes (t.bytes e.dpa k))) b c).toNat)))

/-- Events of the array engine, the special-function die and the joints (02 R26, 05 R66, 10 R194 to R200, R212, 01 R16): a queue
sends its head as a barge, operands are latched, a gate's flip is seen, the pair's next command starts or waits for its place
under the write ceiling, a late one is refused; a command's end writes its outputs and counts its bytes, and the pair's next event
follows in the same tick. The die sees a flip 40 ticks after the tick that made it (10 R195), which is 39 after the one that finds it. A joint
that fails cuts the ring where another hop is down. The model's choice: a special-function barge stands as latched from its sending
(log 72). -/
def Obligations.ArrayEventsRun : Prop :=
  ∀ (c : CoreId) (t : PairId) (b b' : Barge) (q : QEntry) (fail : Bool) (j : Fin 24) (k : Nat) (s u : State),
  let p := s.pair t
  let x := s.core c
  (recsMore c (arrayTids s c) s = none → exec (.bargeSend c false) s = .next (sendArray c s)) ∧
  (recsMore c (sfTids s c) s = none → exec (.bargeSend c true) s = .next (sendSf c s)) ∧
  (recsMore c (arrayTids s c) s = some u → exec (.bargeSend c false) s = .next (u.push [.bargeSend c false])) ∧
  (recsMore c (sfTids s c) s = some u → exec (.bargeSend c true) s = .next (u.push [.bargeSend c true])) ∧
  (let s' := s.updCore c (fun k => ({ k with arrQ := k.arrQ.erase q, vbuf := k.vbuf - q.vops.length } : Core).perform q.id 4);
    recsMore c (arrayTids s c) s = none → (∀ y ∈ x.arrQ, isRel y = false) → arrayHead x = some q → headWaits x q = false →
    fenceAll q = false → s.pairOf c (entryTile q) = some t → s.slotFree t = true → checkArray c q (some t) s' = .ok (b, u) →
    u.joints.get (pairJoint t) = true → ∃ v : State, exec (.bargeSend c false) s = .next v ∧
      ∃ b' : Barge, (v.pair t).slots = (u.pair t).slots ++ [b'] ∧ b'.q = b.q ∧ b'.core = c ∧ b'.state = b.state) ∧
  (x.arrQ = [q] → isRel q = true → boPending x q = false → foreignTile s c q = none → ∃ v : State,
    exec (.bargeSend c false) s = .next v ∧ (v.core c).arrQ = [] ∧
    (v.core c).counts = x.counts ++ [{ bo := issuerObj q, n := some 8, err := none, prom := none }]) ∧
  (∀ n : Nat, x.arrQ = [q] → isRel q = true → boPending x q = false → foreignTile s c q = some n → ∃ v : State,
    exec (.bargeSend c false) s = .next v ∧ v = failArray x.launch c q ⟨xNotBound, arrayDet s n 0⟩ (s.updCore c (fun k =>
      ({ k with arrQ := k.arrQ.erase q } : Core).perform q.id 4))) ∧
  (let s' := s.updCore c (fun k => ({ k with sfQ := k.sfQ.erase q } : Core).perform q.id 4);
    recsMore c (sfTids s c) s = none → sfHead x = some q → x.stopped = false → boPending x q = false →
    ∀ r1 r3 : Rec, sfRecords c q s' = .ok (r1, r3, u) → ∃ v : State, exec (.bargeSend c true) s = .next v ∧
      ∃ b' : Barge, v.sfRun = u.sfRun ++ [b'] ∧ b'.q = q ∧ b'.core = c ∧ b'.state = .latched ∧ b'.count = sfCount q r3) ∧
  (p.slots.find? (fun b => decide (b.state = .sent)) = some b →
    exec (.operandLatched t) s = .next (if b.at_.toNat ≤ s.cyc.toNat ∧ p.latched s.cyc + latchNeed b.q ≤ 2
      then (s.putBarge t b { b with state := .latched }).push [.operandLatched t] else s)) ∧
  (p.slots = [b] → b.started = false → entryMode b.q = 2 → b.gate = none → s.cyc.toNat + 39 < 2 ^ 64 →
    (gateFlipped s b = none → exec (.gateFlipSeen t) s = .next s) ∧
    (∀ e : Bool, gateFlipped s b = some e →
      exec (.gateFlipSeen t) s = .next (s.setPair t { p with slots := [{ b with gate := some (s.cyc + 39, e) }] }))) ∧
  (∀ g : W64, p.slots = [b] → b.started = false → b.gate = some (g, true) → g.toNat ≤ s.cyc.toNat →
    exec (.gateFlipSeen t) s = .next (failBarge b ⟨xGateErr, arrayDet s (entryTile b.q) 0⟩ (s.dropBarge t b))) ∧
  (p.next = some b → mayIssue s p b = true → isFence b.q = false →
    (programs b = false → lmIndices b.q = false → exec (.bargeIssue t) s = .next ((startDrive t b s).push [.bargeIssue t])) ∧
    (programs b = true → exec (.bargeIssue t) s =
      .next ((({ s.putBarge t b { b with state := .ceiling } with writeWait := s.writeWait ++ [t] }).push
        [.arrCeilingAdmit t]).push [.bargeIssue t]))) ∧
  (p.next = some b → mayIssue s p b = true → isFence b.q = true → exec (.bargeIssue t) s =
    .next (((s.putBarge t b { b with state := .fenced }).push [.arrayCommandComplete t false]).push [.bargeIssue t])) ∧
  (p.slots.find? (expired s) = some b →
    exec (.stampWindowExpiry t) s = .next ((missBarge .arr b.core b.q
      (failBarge b ⟨xSmiss, arrayDet s (entryTile b.q) (missReason p b)⟩ (s.dropBarge t b))).push [.stampWindowExpiry t])) ∧
  (p.slots.find? (fun b => decide (b.state = .ceiling)) = some b →
    let held := s.writing.filter (fun e => decide (s.cyc.toNat < e.toNat))
    let n := programTicks (entryWin b.q)
    (∀ r : List PairId, s.writeWait = t :: r → held.length < writeCeiling →
      let s' := { s with writing := held ++ [s.cyc + BitVec.ofNat 64 n], writeWait := r }
      exec (.arrCeilingAdmit t) s = .next (startDrive t b (s'.push (r.head?.toList.map Ev.arrCeilingAdmit)))) ∧
    (writeCeiling ≤ held.length → exec (.arrCeilingAdmit t) s = .next s)) ∧
  (dueBarge s p = none → exec (.arrayCommandComplete t fail) s = .next s) ∧
  (dueBarge s p = some b → b.count ≠ 0 → isFence b.q = false → s.joints.get (pairJoint t) = true → fld b.status 7 0 ≠ 0x42 →
    outErr (s.dropBarge t b) b = none → exec (.arrayCommandComplete t false) s =
      .next (afterEnd t b.core ((sendCount b.core (entryObj b.q) (some b.count) none (writeOutputs b (s.dropBarge t b))).updCore
        b.core (fun k => k.counted b.q.id)))) ∧
  (let s' := { s with sfRun := s.sfRun.map (watchGate s) };
    (s'.sfRun.findSome? (fun b => (sfAct s' b).map (fun a => (b, a))) = some (b, .start) → exec .sfBargeStart s =
      .next ((s'.putSf b { b with state := .driving s.cyc (s.cyc + BitVec.ofNat 64 (sfReady s' b.q b.inR 0)) }).push
        [.sfBargeStart])) ∧
    (s'.sfRun.findSome? (fun b => (sfAct s' b).map (fun a => (b, a))) = none → exec .sfBargeStart s = .next s')) ∧
  (∀ start ready : W64, s.sfRun[k]? = some b → b.state = .driving start ready →
    (s.cyc.toNat < ready.toNat → exec (.sfTransferComplete k fail) s = .next s) ∧
    (ready.toNat ≤ s.cyc.toNat → exec (.sfTransferComplete k true) s =
      .next (failSf b.launch b.core b.q b.status (some b.count) ⟨0x60, arrayDet s 0 0⟩ (bump (hUncorr 8) 1 (s.dropSf b)))) ∧
    (ready.toNat ≤ s.cyc.toNat → s.joints.get (sfJoint b.core) = true → sfErr s b = none → b.n < b.q.rep →
      let r := sfTransfer b.core b s
      exec (.sfTransferComplete k false) s = .next (r.1.putSf b { b with
        n := b.n + 1, status := b.status ||| r.2.zeroExtend 64,
        state := .driving start (ready + BitVec.ofNat 64 (sfTicks s b.q b.inR)) }))) ∧
  (let u := bump (hUncorr 10) 1 { s with joints := s.joints.set j.val false j.isLt };
    (j.val < 4 → (∀ h : Fin 24, h.val < 4 → s.joints.get h = true) → exec (.dieJointFailure j) s = .next u) ∧
    (∀ h : Fin 24, j.val < 4 → h.val < 4 → h ≠ j → s.joints.get h = false → exec (.dieJointFailure j) s =
      .next ((trafficParts s).foldl (fun s p => moduleFault (.part p) 0x03 5 (jointLink j.val) 0 s) u)) ∧
    (4 ≤ j.val → j.val < 12 → exec (.dieJointFailure j) s = .next (failPairs (j.val - 4) u)) ∧
    (12 ≤ j.val → j.val < 16 → exec (.dieJointFailure j) s = .next (failSfs (j.val - 12) u)) ∧
    (16 ≤ j.val → exec (.dieJointFailure j) s = .next u)) ∧
  (exec (.dieJointRetrained j) s = .next (if s.joints.get j then s
    else bump (hRetrain (48 + j.val)) 1 { s with joints := s.joints.set j.val true j.isLt }))

/-- Events of the lock and of named barriers (07 R110, 12 R225, R226, R229, R230, 19 R304): the report of the last die lets the
master die choose TREL as its time and LRD; the release comes at TREL on every die that has it by then, and on another when it
does, and where a pre-emption waits for it the cores of those dies stop before any of their berths issues. A gang that is saved keeps its
reports and its broadcast. The model's choices: the barrier timeout acts on gangs over modules alone (log 48); when every strand of such a
gang has ended, the master's word says so instead of a Trel (log 85). -/
def Obligations.LockEventsRun : Prop :=
  ∀ (i : Nat) (m : BitVec 6) (e : Bool) (d : DieId) (trel : W64) (n : Fin 96) (c : CoreId) (l : Launch) (s : State),
  s.launch i = some l →
  (l.gang = .running → s.hasMaster l = true → (m, d) ∉ l.reports →
    let l' : Launch := { l with
      reports := l.reports ++ [(m, d)], gone := if e = true ∧ (m, d) ∉ l.gone then l.gone ++ [(m, d)] else l.gone,
      firstReport := if l.firstReport.isNone then some s.cyc else l.firstReport }
    let t := s.cyc + BitVec.ofNat 64 (s.lrd l)
    let word := fun (w : Option W64) (s : State) =>
      l.dies.foldl (fun s x => s.lockSend (s.lockTicks l.master x) (.trelReceived i x w)) s
    (l.state = .started → s.allGone l' = false → exec (.lockReportReceived i (m, e) d) s = .next (if s.allReported l'
      then word (some t) (s.setLaunch i { l' with gang := .releasing, trel := t }) else s.setLaunch i l')) ∧
    (l.alive = true → s.allGone l' = true →
      exec (.lockReportReceived i (m, e) d) s = .next (word none (s.setLaunch i l'))) ∧
    ((l.state = .held ∨ l.state = .saved ∨ l.state = .resuming) → s.allGone l' = false →
      exec (.lockReportReceived i (m, e) d) s = .next (s.setLaunch i l'))) ∧
  (l.alive = true → (l.gang = .running ∨ l.gang = .releasing) → d ∈ l.dies → d ∉ l.trelAt →
    exec (.trelReceived i d (some trel)) s =
      .next (s.setLaunch i { l with gang := .releasing, trel := trel, trelAt := l.trelAt ++ [d] })) ∧
  (d ∈ l.trelAt → exec (.trelReceived i d (some trel)) s = .next s) ∧
  (l.alive = true → l.mmod = true → d ∈ l.dies →
    exec (.trelReceived i d none) s = .next (s.setLaunch i { l with allOver := true })) ∧
  (s.cyc.toNat < l.trel.toNat → exec (.lockRelease i) s = .next s ∧ exec (.startingLockRelease i) s = .next s) ∧
  (l.state = .started → l.gang = .releasing → l.trel.toNat ≤ s.cyc.toNat → (∃ d ∈ l.trelAt, d ∉ l.released) →
    (∀ c ∈ l.cores, dieOf c ∈ l.released ∨ ((s.core c).stopped = false ∧ (s.core c).stopping = false)) →
    let ds := l.trelAt.filter (fun d => !l.released.contains d)
    let free := releaseDies l ds (if l.released = [] then passTokens l.part (fun t => decide (t.launch = i) && !t.passed) s else s)
    let w := if l.pre.isSome then takeDeferred l ds free else free
    (∀ c ∈ l.cores, dieOf c ∈ ds → l.pre.isSome = true → (w.core c).stopping = true) ∧
    ((∀ d ∈ l.dies, d ∈ l.trelAt) →
      exec (.lockRelease i) s = .next (applyAdd l.part (w.setLaunch i { l with
        gang := .running, comm := !l.comm, phs := l.trel, counted := [], reports := [], firstReport := none, trelAt := [],
        released := [] }))) ∧
    ((∃ d ∈ l.dies, d ∉ l.trelAt) → exec (.lockRelease i) s = .next (w.setLaunch i { l with
      phs := l.trel, released := l.released ++ ds }))) ∧
  (l.mmod = false → exec (.barrierReleaseMessage i d n) s =
    .next ((l.cores.filter (fun c => decide (dieOf c = d))).foldl (fun s c => s.updCore c (fun k =>
      { k with
        bars := k.bars.set n.val ((k.bars.get n).1, (k.bars.get n).2.1, !(k.bars.get n).2.2) n.isLt,
        berths := k.berths.map (fun x => { x with barMarks := x.barMarks.filter (fun m => !decide (m = n)) }) })) s)) ∧
  ((l.state = .started ∨ l.state = .prepared) → l.gang = .starting → l.trel.toNat ≤ s.cyc.toNat → l.pre = none →
    exec (.startingLockRelease i) s = .next ((stageTokens l
      ((l.cores.foldl (fun s c => s.updCore c (fun k => k.begin l.trel)) s).setLaunch i { l with
        state := .started, gang := .running, comm := false, phs := l.trel, start := l.trel, resumed := l.trel,
        counted := [], reports := [], trelAt := [], released := [] })).push [.placement l.part])) ∧
  (∀ t : W64, l.firstReport = some t → exec (.gangBarrierTimeout i) s =
    .next (if l.mmod = true ∧ l.alive = true ∧ l.gang = .running ∧ l.gbt ≤ since s t then abortGang i l s else s)) ∧
  (s.gangOf c = some (i, l) → l.state = .started → l.gang = .running → c ∉ l.counted → c ∈ l.cores →
    s.strandArrived c = true → (s.core c).stopped = false → (s.core c).stopping = false →
    let l' : Launch := { l with counted := l.counted ++ [c] }
    let t := (s.setLaunch i l').setQuad (quadOf c) { s.quad (quadOf c) with countedAt := s.cyc }
    exec (.lockArrivalCount c) s = .next (
      let mine := l.cores.filter (fun x => decide (dieOf x = dieOf c))
      if t.hasMaster l' && mine.all l'.counted.contains
      then t.lockSend (t.lockTicks (dieOf c) l.master) (.lockReportReceived i (t.modid, mine.all t.strandEnded) (dieOf c)) else t))

/-- Token coherence (14 R264 to R267): a request stands in its die's list and is broadcast: every other holder answers it, a write
with all its tokens, a read with one of the owner's, unless its own persistent request wins there; unmet for 512 ticks it is broadcast
again, and unmet once more it becomes persistent. A message's tokens go to their holder, on from it to the winner of a persistent
request, or home where nothing asked for them. An activation enters a die's table, whose winner is the first die from p on; a
deactivation leaves it and moves p; an evicted line's tokens go home. The model's choice: a request that has its tokens when its 512
ticks end is over (log 62). -/
def Obligations.CoherenceEventsRun : Prop :=
  ∀ (d e : DieId) (line k : Nat) (wr : Bool) (h : Holder) (r : TokReq) (s : State),
  (s.request d line = some r →
    let met := s.mayAccess line (holderOf line d) r.wr
    exec (.transientRequest d line wr) s = .next s ∧
    ((s.cyc - r.sent).toNat < 512 → exec (.requestResendTimeout d line) s = .next s) ∧
    (512 ≤ (s.cyc - r.sent).toNat →
      (met = true → ∃ t : State, exec (.requestResendTimeout d line) s = .next t ∧ t.request d line = none) ∧
      (met = false → exec (.requestResendTimeout d line) s = .next (
        if r.resent && decide ((s.die d).active d < 8) then activate d line r.wr (dropRequest d line s)
        else broadcast d line r.wr { s with
          tokReqs := s.tokReqs.map (fun x => if x = r then ({ r with resent := true, sent := s.cyc } : TokReq) else x) })))) ∧
  (s.request d line = none →
    (let t : State := { s with tokReqs := s.tokReqs ++ [{ die := d, line := line, wr := wr, sent := s.cyc, resent := false }] };
      exec (.transientRequest d line wr) s = .next (((holders line).foldl (fun t h => answer line (holderOf line d) h wr t) t).later 512
        (.requestResendTimeout d line))) ∧
    ((s.die d).own d line = none → exec (.requestResendTimeout d line) s = .next s) ∧
    (∀ y : Persist, (s.die d).own d line = some y → exec (.requestResendTimeout d line) s =
      .next (if s.mayAccess line (holderOf line d) y.wr then deactivate d line s else lookAgain d line s))) ∧
  (let x := (s.tokLine line).get h;
    let wins := (s.die (holderDie line h)).winner line = some (holderDie line h)
    (h = holderOf line d ∨ wins → answer line (holderOf line d) h wr s = s) ∧
    (h ≠ holderOf line d → ¬ wins →
      (x.t ≠ 0 → answer line (holderOf line d) h true s = sendTokens line h (holderOf line d) x.t x.owner s) ∧
      (x.owner = true → answer line (holderOf line d) h false s = sendTokens line h (holderOf line d) 1 (decide (x.t < 2)) s) ∧
      (x.t = 0 → answer line (holderOf line d) h true s = s) ∧
      (x.owner = false → answer line (holderOf line d) h false s = s))) ∧
  (s.tokMsgs[k]? = none → exec (.tokenMessageReceived k) s = .next s) ∧
  (∀ m : TokMsg, s.tokMsgs[k]? = some m →
    let t := takeTokens m { s with tokMsgs := s.tokMsgs.eraseIdx k }
    let d := holderDie m.line m.dest
    let x := (t.tokLine m.line).get m.dest
    (∀ w : DieId, (t.die d).winner m.line = some w → exec (.tokenMessageReceived k) s =
      .next (if w = d then evictFor m.line m.dest t else sendTokens m.line m.dest (holderOf m.line w) x.t x.owner t)) ∧
    ((t.die d).winner m.line = none → exec (.tokenMessageReceived k) s = .next (
      if t.wants m.line m.dest then evictFor m.line m.dest t
      else if m.dest = .home then t else sendTokens m.line m.dest .home m.t m.owner t))) ∧
  (let x : Die := { s.die e with persist := (s.die e).persist ++ [{ die := d, line := line, wr := wr }] };
    exec (.persistentActivation e d line wr) s =
      .next (obey e line (s.setDie e (x.setTurn { x.turn line with cur := nextWinner x line (x.turn line).p })))) ∧
  (let x : Die := { s.die e with persist := (s.die e).persist.filter (fun r => !decide (r.die = d ∧ r.line = line)) };
    exec (.persistentDeactivation e d line) s =
      .next (obey e line (s.setDie e (x.setTurn { line := line, p := d + 1, cur := nextWinner x line (d + 1) })))) ∧
  (let x := (s.tokLine line).get h;
    exec (.lineEviction h line) s = .next (if h = .home || x.t == 0 then s else sendTokens line h .home x.t x.owner s))

/-- Launch events (19 R294 to R302): a tail write is taken by an enabled queue; a slot becomes a launch; a waiting launch
is ready, waits on, or is refused; the turn goes by priority and round; placement takes free quads; a launch that has
ended completes; an image is loaded, and its gang started once every earlier launch of its queue has; a gang that runs beyond its
limit is to be saved. The model's choices: a load that finds no room for its image is tried again (log 42), a slot is read after the
typical time exactly (log 33), and the record that has the turn keeps it when one of a higher priority comes (log 27). -/
def Obligations.LaunchEventsRun : Prop :=
  ∀ (b : Block) (q : Fin 64) (v : W16) (i : Nat) (l : Launch) (p : PartId) (s : State),
  let x := s.queue b q
  (hasQueue b q = false ∨ s.blockOpen b = false → exec (.qtailWrite b q v) s = .next s) ∧
  (hasQueue b q = true → s.blockOpen b = true →
    (x.en = false → exec (.qtailWrite b q v) s =
      .next (retest (s.queuePart b q) (s.setQueue b q { x with tail := v, head := v }))) ∧
    (x.en = true →
      let y : Queue := { x with tail := v }
      let t := s.setQueue b q y
      let u := if y.overfull then stopQueue b q x.head 0x86 0 t
        else if x.head = x.tail then readLater b q t else t
      exec (.qtailWrite b q v) s = .next (retest (u.queuePart b q) u))) ∧
  (x.en = false ∨ x.head = x.tail → exec (.slotRead b q) s = .next s) ∧
  (∀ (bs : List Byte) (t : State), hasQueue b q = true → x.en = true → x.head ≠ x.tail →
    (s.part (s.queuePart b q)).en = true →
    s.readVa ⟨s.queuePart b q, x.ctx, 0, none⟩ (x.base + BitVec.ofNat 64 (128 * (x.head.toNat % 2 ^ x.logn.toNat))) 128
      = .ok (bs, t) →
    let u := t.setQueue b q { x with head := x.head + 1 }
    exec (.slotRead b q) s = .next (enterLaunch (Launch.fresh b q x (s.queuePart b q) (launchRecord bs))
      (if x.head + 1 = x.tail then u else readLater b q u))) ∧
  (∀ u : State, readLater b q u = if u.inputs.any (fun e => decide (e.2 = .slotRead b q)) then u
    else u.later slotTicks (.slotRead b q)) ∧
  ((s.holder p).isSome = true → exec (.turnGrant p) s = .next s) ∧
  (s.holder p = none → s.candidates p = [] → exec (.turnGrant p) s = .next s) ∧
  (∀ k : Nat × Launch, s.holder p = none →
    let c := s.candidates p
    let top := c.foldl (fun (a : Nat) (x : Nat × Launch) => max a x.2.prio) 0
    let level := c.filter (fun x => decide (x.2.prio = top))
    let order := afterLast ((s.part p).last.get (Fin.ofNat 4 top)).val (byRound level)
    (level.find? (fun x => decide (x.2.state = .held)) = some k →
      exec (.turnGrant p) s = .next ((s.setLaunch k.1 { k.2 with turn := true }).push [.placement p])) ∧
    (level.find? (fun x => decide (x.2.state = .held)) = none →
      order.find? (fun x => decide (0 < (s.queue x.2.blk x.2.queue).credit)) = some k →
      exec (.turnGrant p) s = .next (serve p k s))) ∧
  (s.holder p = none → exec (.placement p) s = .next (beginLoads p s)) ∧
  (s.launch i = some l →
    (l.state = .waiting → exec (.dependenceTest i) s = .next (match depState s l.ctxOf 0 l.deps with
      | .ready => (s.setLaunch i { l with state := .ready }).push [.turnGrant l.part]
      | .wait => s
      | .fail k => refuseLaunch i l 3 0x81 (BitVec.ofNat 64 k) 0 s
      | .fault f => refuseLaunch i l 2 f.code f.det f.addr s)) ∧
    (l.state ≠ .waiting → exec (.dependenceTest i) s = .next s) ∧
    (l.state ≠ .loading → exec (.loadingComplete i) s = .next s) ∧
    (l.state = .loading → s.behind i l = true → exec (.loadingComplete i) s = .next (s.later 1 (.loadingComplete i))) ∧
    (l.state = .loading → s.behind i l = false → l.isCopy = true →
      exec (.loadingComplete i) s = .next ((s.setLaunch i { l with state := .started }).push [.copyLaunch i])) ∧
    (l.state = .loading → s.behind i l = false → l.isCopy = false → s.maintained l = true →
      exec (.loadingComplete i) s = .next (s.later loadRetry (.loadingComplete i))) ∧
    (∀ (code : Mem) (areas : List (Nat × List Byte)) (args : List Byte) (u : State),
      l.state = .loading → s.behind i l = false → l.isCopy = false → s.maintained l = false →
      s.loads l = .ok (code, areas, args) → loadImages i l code s l.dies = some u → l.mmod = false →
      ∃ t : State, exec (.loadingComplete i) s = .next t ∧
        t.launch i = some { l with state := .started, gang := .starting, trel := s.cyc + 96 }) ∧
    (l.state ≠ .started ∨ l.isCopy = false → exec (.copyLaunch i) s = .next s) ∧
    (exec (.completionWrite i) s = .next (if l.state = .completing then endLaunch i 1 0 0 s else s))) ∧
  (s.holder p = some (i, l) → l.state ≠ .held →
    (l.isCopy = true → exec (.placement p) s =
      .next ((s.setLaunch i { l with state := .loading, turn := false }).push [.loadingComplete i, .turnGrant p])) ∧
    (∀ qs, l.isCopy = false → chooseQuads l.need (s.freeQuads p) = some qs → exec (.placement p) s =
      .next ((beginLoads p (reserve i l qs s)).push [.turnGrant p]))) ∧
  (s.launches = [] → exec .watchdogTest s = .next s) ∧
  (∀ d : W64, s.launches = [l] → l.pre = none → watchdogDet s l = some d →
    exec .watchdogTest s = .next (((postFault l.blk (launchRec l 0x83 6 0xFF 0 d 0) s).setLaunch 0
      { l with pre := some .watchdog, fcode := 0x83, det := d }).push [.preemptionRequest 0]))

/-- A copy launch moves the bytes of its length, in order of their addresses, and completes when all are copied (19 R302). That it moves
128 of them a tick is the model's choice (log 42), for R302 gives no rate. -/
def Obligations.CopyLaunchMoves : Prop :=
  ∀ (i : Nat) (l : Launch) (bs data : List Byte) (src dst : W64) (len : Nat) (s t u w : State),
  s.launch i = some l → l.state = .started → l.isCopy = true → s.readVa l.ctxOf (l.record.get 2) 64 = .ok (bs, t) →
  copyBlock bs = some (src, dst, len) →
  (len ≤ l.copied → exec (.copyLaunch i) s =
    .next (s.setLaunch i { l with state := .completing, gang := .ended, ended := s.cyc })) ∧
  (l.copied < len → s.readVa l.ctxOf (src + BitVec.ofNat 64 l.copied) 128 = .ok (data, u) →
    u.writeVa l.ctxOf (dst + BitVec.ofNat 64 l.copied) data = .ok w →
    exec (.copyLaunch i) s = .next ((w.setLaunch i { l with copied := l.copied + 128 }).later 1 (.copyLaunch i)))

/-- Pre-emption, resuming and gangs over modules (12 R230, 19 R299 to R304, 20 R317 to R319): a pre-emption by priority
waits while the gang is in its lock; GCTL resumes or discards a held gang; Prepare, its reply, Commit, Abort and TLIM. The model's
choices: a reply names the dies that hold its member's strands (log 58); a NACK ends the start at once, an ABORT after the start aborts
the gang, and so does Tlim at a member that has acknowledged (log 28). -/
def Obligations.GangEventsRun : Prop :=
  ∀ (i : Nat) (l : Launch) (w : PreWhy) (b : Block) (q : Fin 64) (seq : W16) (gid : W32) (tlim : W64) (gang heat : Nat)
    (rank : Fin 64) (dies : BitVec 4) (s : State), s.launch i = some l →
  (l.pre = none → exec (.preemptionRequest i) s = .next s) ∧
  (l.pre = some w →
    (l.state ≠ .started → exec (.preemptionRequest i) s = .next s) ∧
    (l.state = .started → exec (.preemptionRequest i) s =
      .next (if (w = .priority ∨ w = .drain) ∧ s.inLock l = true then s else stopGang l s))) ∧
  (∀ (c : CoreId) (va : W64), s.snapCore l = some (c, va) → exec (.imageWritten i) s = .next (snapWrite i l c va s)) ∧
  (s.snapCore l = none → l.pre = none → exec (.imageWritten i) s = .next s) ∧
  (∀ t : State, s.snapCore l = none → l.pre = some w → l.state = .started → l.cores.all s.quiet = true →
    s.barPending i = false → saveAll l s = .ok t → exec (.imageWritten i) s = .next (saved i l w t)) ∧
  (l.state ≠ .held → l.state ≠ .saved → l.state ≠ .resuming → exec (.gangResume i) s = .next s) ∧
  (l.state = .resuming → l.turn = false → l.resumed.toNat ≤ s.cyc.toNat → exec (.gangResume i) s =
    (let l' : Launch := { l with state := .started, fcode := 0, det := 0 }
    .next ((goOn i l' (s.setLaunch i l')).push
      ((if l.pre.isSome then [.preemptionRequest i] else []) ++ [.placement l.part])))) ∧
  (s.gctl b q seq = some (i, l) →
    exec (.gctlResume b q seq) s = .next ((s.setLaunch i { l with turn := true }).push [.gangResume i]) ∧
    exec (.gctlDiscard b q seq) s = .next (if l.fcode = 0 then endLaunch i 2 0x84 l.det (launchFault l 0x84 l.det 0 s)
      else endLaunch i 2 l.fcode l.det s)) ∧
  (s.gctl b q seq = none → exec (.gctlResume b q seq) s = .next s ∧ exec (.gctlDiscard b q seq) s = .next s) ∧
  (l.pending = true → l.gid = gid → s.hasMaster l = false → exec (.prepare i gid tlim gang heat) s =
    .next (let t := s.setLaunch i { l with tlim := tlim, acks := match s.gangGroup l with
        | some g => if l.strands = gang ∧ l.heat = heat then [Fin.ofNat 64 g.rank] else []
        | none => [] }
      if tlim.toNat ≤ s.cyc.toNat then t.push [.tlimExpiry i] else t.later ((tlim - s.cyc).toNat) (.tlimExpiry i))) ∧
  (l.gid ≠ gid → exec (.prepare i gid tlim gang heat) s = .next s) ∧
  (l.state = .prepared → l.gang = .placed → s.hasMaster l = true →
    exec (.prepareReply i rank none) s = .next (prepFail i s)) ∧
  (l.state = .prepared → l.gang = .placed → s.hasMaster l = true → rank ∈ l.acks → s.allAcks l = true →
    s.cyc.toNat + commitTicks ≤ l.tlim.toNat → exec (.prepareReply i rank (some dies)) s =
      .next ((s.setLaunch i { l with gang := .starting, trel := s.cyc + BitVec.ofNat 64 commitTicks }).later commitTicks
        (.startingLockRelease i))) ∧
  (l.state ≠ .prepared → ∀ ack, exec (.prepareReply i rank ack) s = .next s) ∧
  (exec (.tlimExpiry i) s = .next (if l.pending = true ∧ l.tlim ≠ 0 ∧
      (if s.hasMaster l then l.tlim - BitVec.ofNat 64 commitTicks else l.tlim).toNat ≤ s.cyc.toNat
    then (if s.hasMaster l = false ∧ l.state = .prepared ∧ l.acks ≠ [] then abortGang i l s else prepFail i s) else s)) ∧
  (s.ofGid gid (fun l => decide (l.state = .prepared ∧ l.gang = .placed ∧ l.acks ≠ []) && cycGe l.tlim s.cyc) = [i] →
    exec (.commit gid tlim) s = .next ((s.updLaunch i (fun l => { l with gang := .starting, trel := tlim })).later
      ((tlim - s.cyc).toNat) (.startingLockRelease i))) ∧
  (∀ j m, s.ofGid gid Launch.pending = [j] → (prepFail j s).ofGid gid
      (fun l => l.occupies && decide (l.state ≠ .completing) && decide (l.gang ≠ .placed)) = [i] →
    (prepFail j s).launch i = some m → exec (.abort gid) s = .next (abortGang i m (prepFail j s)))

/-- Partition events (21 R325 to R335): a write of the partition table, a grant and a release of resources with their
checks, the scrub gate, invalidation, a page walk and an unbinding. The twins read back what was written; a request or a release
under way takes no further one. The model's choices: registers of one tick join one request (log 87), the figures of a walk
and of an invalidation are exact (log 33), a release of what the partition does not hold is refused with BADVAL, and a release
drains the gangs started on what it names and discards the others (log 43). -/
def Obligations.PartitionEventsRun : Prop :=
  ∀ (p : PartId) (r : PtReg) (v dl : W64) (rid : W16) (z : Resource) (fails : W32) (d : DieId) (ctx : Byte)
    (idx : Fin 1024) (s : State),
  let x := s.part p
  let m := Masks.ofReg r v
  (s.boot ≠ .running → exec (.partitionTableWrite p r v) s = .next s) ∧
  (s.boot = .running → badPtWrite x r v = true → exec (.partitionTableWrite p r v) s = .next (s.setPart p (x.refused 3))) ∧
  (s.boot = .running → badPtWrite x r v = false →
    let t := s.setPart p (x.setReg r v)
    exec (.partitionTableWrite p r v) s = .next (if !x.en && (t.part p).en then enableReads p t else t)) ∧
  (isMask r = false → exec (.addTwinWrite p r v) s = .next s ∧ exec (.relTwinWrite p r v dl) s = .next s) ∧
  (isMask r = true → ¬(r = .quad ∧ fld v 63 32 ≠ 0) →
    let free := s.freeRes.or (Masks.ofReg r (x.add.reg r))
    let add := x.add.setReg r v
    let rel := x.rel.setReg r v
    (add.reg r = m.reg r ∧ rel.reg r = m.reg r ∧ ∀ r' : PtReg, r' ≠ r → add.reg r' = x.add.reg r' ∧ rel.reg r' = x.rel.reg r') ∧
    ((m.and x.held).empty = false → exec (.addTwinWrite p r v) s = .next (s.setPart p (x.refused 2))) ∧
    ((m.and x.held).empty = true → (m.minus free).empty = false →
      exec (.addTwinWrite p r v) s = .next (s.setPart p (x.refused 1))) ∧
    ((m.and x.held).empty = true → (m.minus free).empty = true →
      let t := { s.setPart p { x with add := add, pendAdd := !add.empty } with freeRes := free.minus m }
      exec (.addTwinWrite p r v) s = .next (if t.resident p then t else applyAdd p t)) ∧
    ((x.resizing = true ∧ x.joins r s.cyc = false) ∨ (m.minus x.held).empty = false →
      exec (.relTwinWrite p r v dl) s = .next (s.setPart p (x.refused 3))) ∧
    (x.joins r s.cyc = true → (m.minus x.held).empty = true →
      exec (.relTwinWrite p r v dl) s = .next (s.setPart p { x with rel := rel, rsz := rel })) ∧
    (x.resizing = false → (m.minus x.held).empty = true → m.empty = false →
      let y : Partition := { x with
        rel := rel, rsz := rel, rid := x.rid + 1, requested := true, reqAt := s.cyc, deadline := dl }
      let u := postInt (.part p) 2 0 0 ((x.rid + 1).zeroExtend 64) dl (s.setPart p y)
      exec (.relTwinWrite p r v dl) s = .next (u.later ((dl - u.cyc).toNat) (.resizeDeadline p)))) ∧
  (exec (.rszackWrite p rid) s = .next (if x.requested = true ∧ x.rid = rid then beginRelease p s else s)) ∧
  (exec (.resizeDeadline p) s =
    .next (if x.requested = true ∧ x.deadline.toNat ≤ s.cyc.toNat then beginRelease p s else s)) ∧
  (s.scrubbing.contains z = false → exec (.scrubGateDone z fails) s = .next s) ∧
  (∀ t : State, s.scrubbing.contains z = true → gatePending z s = some t → exec (.scrubGateDone z fails) s = .next t) ∧
  (s.scrubbing.contains z = true → gatePending z s = none →
    let t := scrub z fails { s with scrubbing := s.scrubbing.erase z }
    let u := if t.gatePasses z then { t with freeRes := t.freeRes.or (Masks.one z) } else t
    u.releaser z = none → exec (.scrubGateDone z fails) s = .next (bringUp u)) ∧
  (exec (.tinvWrite p v) s = .next (if s.blockOpen (.part p) = true ∧ x.tinvDone = true ∧ fld v 1 0 ≠ 3
    then (s.setPart p { x with tinv := v, tinvDone := false, tinvWait := none }).later tinvTicks (.tinvComplete p) else s)) ∧
  (x.tinvDone = true → exec (.tinvComplete p) s = .next s) ∧
  (x.tinvDone = false →
    let t := if x.tinvWait.isNone then dropTlb (tinvHits p x.tinv) s else s
    let w := stillOut t p (x.tinvWait.getD (x.sentPpa, t.askedBy p))
    exec (.tinvComplete p) s = .next (if w = ([], []) then t.setPart p { x with tinvDone := true, tinvWait := none }
      else (t.setPart p { x with tinvWait := some w }).later tinvLook (.tinvComplete p))) ∧
  (let asks := fun (w : Walk) => w.begun && decide (w.part = p ∧ w.ctx = ctx ∧ w.va = v ∧ w.failed = false);
    ((s.die d).walks.find? asks = none → exec (.pageWalkComplete d p ctx v) s = .next s) ∧
    ∀ w : Walk, (s.die d).walks.find? asks = some w →
      let t := s.setDie d { s.die d with walks := (s.die d).walks.erase w }
      exec (.pageWalkComplete d p ctx v) s = .next (beginWalks d (match t.walkVa d p ctx v with
        | .ok e => fillWalk d v e t
        | .error _ => t.setDie d { t.die d with walks := { w with failed := true } :: (t.die d).walks }))) ∧
  (s.blockOpen (.part p) = false → exec (.bindUnbind p idx) s = .next s) ∧
  (∀ t : Fin 1024, s.blockOpen (.part p) = true → s.bindTile p idx.val = some t →
    exec (.bindUnbind p idx) s = .next (s.setPart p { x with bind := x.bind.set t.val none t.isLt }))

/-- The host port (21 R324, R335, 22 R337 to R342, R351, 27 R383): a function reset, the host window, and registers by name or by
their offset, with the side effect of reading them, once the link is up; a write-only register reads as zero (00 R4, R6). The model's
choices: a function that is disabled or in an FLR ignores writes (log 44), the answer to a read stands in a field of State (log 73),
and the deadline of a release that a write asks for is a free value (log 87). -/
def Obligations.HostEventsRun : Prop :=
  ∀ (p : PartId) (off : BitVec 36) (n : Fin 4097) (bs : List Byte) (r : HostReg) (v : W64) (b : Block) (k : Fin 48) (s : State),
  (let t := discardAll p ((List.finRange 64).foldl (fun s q => discardQueued (.part p) q s) s);
    exec (.flr p) s = .next ((t.setPart p (t.part p).flrReset).later flrTicks (.flrReady p))) ∧
  (exec (.flrReady p) s = .next (s.setPart p { s.part p with flr := false })) ∧
  (s.pcieUp = false ∨ s.blockOpen (.part p) = false →
    exec (.hostWindowRead p off n) s = .next { s with hostData := none } ∧ exec (.hostWindowWrite p off bs) s = .next s) ∧
  (s.pcieUp = true → s.blockOpen (.part p) = true →
    (exec (.hostWindowRead p off n) s = .next (match s.readVa (s.windowCtx p) ((s.part p).windowVa off) n.val with
      | .ok r => { r.2 with hostData := some r.1 }
      | .error f => { windowFault p f s with hostData := none })) ∧
    (exec (.hostWindowWrite p off bs) s = .next (match s.writeVa (s.windowCtx p) ((s.part p).windowVa off) bs with
      | .ok t => t
      | .error f => windowFault p f s))) ∧
  (s.pcieUp = false → exec (.registerWrite r v) s = .next s ∧ exec (.rcRegisterRead r) s = .next { s with hostData := none }) ∧
  (s.pcieUp = true →
    let r' := regOf r
    (∀ x : PtReg, r' = .ptRel p x → ∃ t : State, exec (.registerWrite r v) s = .next t ∧ t.free = s.free + 1 ∧
      t.todo = s.todo ++ [.relTwinWrite p x v (Config.free s.free)]) ∧
    ((∀ q x, r' ≠ .ptRel q x) → exec (.registerWrite r v) s = .next (match regBlock r' with
      | some b => if s.blockOpen b then (writePartReg r' v (writeQueueReg r' v s)).push (writeEvents r' v) else s
      | none => (writeModuleReg r' v s).push (writeEvents r' v))) ∧
    (s.blockOpen b = true → exec (.rcRegisterRead (.fqovf b)) s =
      .next { s.setBlock b { s.block b with fq := { (s.block b).fq with ovf := 0 } } with
        hostData := some (toBytes 8 (s.block b).fq.ovf.toNat) }) ∧
    (exec (.rcRegisterRead (.bport k)) s =
      .next { s with ports := s.ports.set k.val { s.ports.get k with rtr := 0, rpl := 0 } k.isLt,
                     hostData := some (toBytes 8 (hostRegister s (.bport k)).toNat) }) ∧
    ((∃ b, regBlock r' = some b ∧ s.blockOpen b = false) → exec (.rcRegisterRead r) s = .next { s with hostData := none }) ∧
    ((∀ b, r' ≠ .fqovf b) → (∀ n, r' ≠ .bport n) → (∀ b, regBlock r' = some b → s.blockOpen b = true) →
      exec (.rcRegisterRead r) s = .next { s with hostData := some (toBytes 8 (hostRegister s r').toNat) })) ∧
  (hasQueue .pf0 63 = false ∧ regOf (.qctl .pf0 63) = .unassigned ∧ regOf (.bar0 .pf0 0) = .modid ∧ regOf (.bar0 .pf0 0x20) = .unassigned) ∧
  ((r = .unassigned ∨ r = .mbcmd ∨ r = .domctl ∨ r = .gctl b ∨ r = .rszack p) → hostRegister s r = 0) ∧
  (exec (.doeRequest bs) s = .next { s with doe := Config.doe bs (measurements s) })

/-- The time domain and the ports (02 R20, 22 R343 to R346): joining needs the lock and no enabled partition; an offset
beyond 8 ticks or a lost lock loses the domain; a port trains, comes up, retrains, and goes down after three failures. While the
module boots, or is in recovery, it joins no domain and trains no port (27 R377). The model's choices: how a module knows itself the
first, and the rounding of the mean offset (DEDUCED, log 30); training takes its typical time exactly (log 33). -/
def Obligations.DomainEventsRun : Prop :=
  ∀ (n : Fin 48) (en ok : Bool) (peer m : BitVec 6) (off : Byte) (t : W64) (ups : BitVec 49) (s : State),
  let x := s.port n
  (s.boot ≠ .running → exec .domainJoin s = .next s ∧ exec (.bportEnableWrite n en) s = .next s) ∧
  (s.dom ≠ .alone ∨ s.domLock = false → exec .domainJoin s = .next s) ∧
  (s.boot = .running → s.dom = .alone → s.domLock = true → (∀ q ∈ s.parts.toList, q.en = false) → (∀ y ∈ s.ports.toList, y.state ≠ .up) →
    exec .domainJoin s = .next (joined { s with domOffs := 0 })) ∧
  (exec .domainLeave s = .next (reroute { s with dom := .alone })) ∧
  (exec (.offsetMeasure off) s = .next (if s.dom = .joined then
    (if 8 < off.toInt ∨ off.toInt < -8 then lose { s with domOffs := off } else { s with domOffs := off }) else s)) ∧
  (exec .pllLockLoss s = .next (if s.dom = .joined then lose { s with domLock := false } else { s with domLock := false })) ∧
  (exec .fabricPllLock s = .next { s with domLock := true }) ∧
  (s.dom ≠ .joining → exec (.timeExchange t) s = .next s) ∧
  (s.dom = .joining → s.joinRounds + 1 < 16 → exec (.timeExchange t) s =
    .next { s with joinRounds := s.joinRounds + 1, joinSum := s.joinSum + t.toInt }) ∧
  (s.boot = .running → exec (.bportEnableWrite n en) s = .next (if en then
      (if x.state = .off then train n (s.setPort n { x with en := true }) else s)
    else reroute (s.setPort n { x with en := false, state := .off, peer := 0x3F, fails := 0 }))) ∧
  (exec (.linkTrained n peer) s = .next (if x.state = .training
    then reroute (s.setPort n { x with state := .up, peer := peer, fails := 0 }) else s)) ∧
  (exec (.trainingTimeout n) s = .next (if x.state = .training ∧ trainTicks ≤ since s x.since
    then (s.setPort n { x with state := .down, since := s.cyc }).later downTicks (.downRetry n) else s)) ∧
  (exec (.linkError n) s = .next (if x.state = .up
    then reroute (bump (hRetrain n.val) 1 (s.setPort n { x with
      state := .retraining, rtr := if x.rtr = 0xFFFF then x.rtr else x.rtr + 1 }))
    else s)) ∧
  (x.state = .retraining →
    (ok = true → exec (.retrainResult n ok) s = .next (reroute (s.setPort n { x with state := .up, fails := 0 }))) ∧
    (ok = false → x.fails + 1 < 3 → exec (.retrainResult n ok) s = .next (s.setPort n { x with fails := x.fails + 1 })) ∧
    (ok = false → 3 ≤ x.fails + 1 → exec (.retrainResult n ok) s =
      .next (everyFault 0x03 5 (BitVec.ofNat 64 n.val) 0 (reroute (bump (hUncorr 11) 1 ((s.setPort n { x with
        state := .down, peer := 0x3F, fails := 0, since := s.cyc }).later downTicks (.downRetry n))))))) ∧
  (exec (.downRetry n) s = .next (if x.state = .down ∧ downTicks ≤ since s x.since then train n s else s)) ∧
  (exec (.flitReplay n) s =
    .next (bump (hCorr 11) 1 (s.setPort n { x with rpl := if x.rpl = 0xFFFFFFFF then x.rpl else x.rpl + 1 }))) ∧
  (∀ h : m.toNat < 49, exec (.portStateFlit m ups) s = .next (reroute { s with peerUps := s.peerUps.set m.toNat ups h }))

/-- Maintenance, wear, scrubbing, temperatures, the mailbox, boot, power and reset (25 R359, R361, 27 R372 to R383). An error is
corrected and counted, or found and reported; module reset goes on by the boot ROM, the joints, the stacks and the scrub gate. The
model's choices: which places an event of an error names (log 20), when a mailbox command ends and what module reset keeps (DEDUCED,
log 45), and what the boot ROM and recovery ignore (log 90). -/
def Obligations.ModuleEventsRun : Prop :=
  ∀ (t : PairId) (sym : Bool) (a : W64) (e : ErrAt) (k : Nat) (op : Byte) (ts : List Byte) (s : State),
  (s.servable t sym = true → (∀ u : PairId, u.val < t.val → arrayDie u = arrayDie t → s.servable u sym = false) →
    exec (.maintenanceDue t sym) s = .next (maintain t sym s) ∧
    ∃ b : Barge, ((maintain t sym s).pair t).slots = (s.pair t).slots ++ [b] ∧ b.q = maintenanceEntry s sym ∧ b.count = 0) ∧
  (s.servable t sym = false → exec (.maintenanceDue t sym) s = .next s) ∧
  ((s.pair t).worn = true ∨ (s.pair t).insv = false → exec (.wornSet t) s = .next s) ∧
  ((s.pair t).worn = false → (s.pair t).insv = true →
    let u := bump (hTile (arrayDie t) 2) 1 (s.setPair t { s.pair t with worn := true })
    let det := arrayDet u ((s.pair t).tile.val % 8) 4
    let w := moduleFault .pf0 xTileFault 5 det 0 u
    exec (.wornSet t) s = .next (match w.binder t with
      | some (q, _) => moduleFault (.part q) xTileFault 5 det 0 w
      | none => w)) ∧
  (errClass e = none → ∀ bad, exec (.patrolScrub e bad) s = .next s) ∧
  (errClass e = some k →
    (neverMends k = false → exec (.patrolScrub e false) s = .next (bump (hCorr k) 1 (dropEntry e s))) ∧
    (alwaysMends k = true → exec (.patrolScrub e true) s = .next (bump (hCorr k) 1 (dropEntry e s)))) ∧
  (errClass (.mem a) = some k → patrolled a.toNat = true → alwaysMends k = false →
    let g := a.toNat / eccBytes a.toNat * eccBytes a.toNat
    let line := BitVec.ofNat 64 (a.toNat / 128 * 128)
    let u := bump (hUncorr (eccClass a.toNat)) 1 { s with bad := if s.bad.contains g then s.bad else s.bad ++ [g] }
    exec (.patrolScrub (.mem a) true) s = .next (moduleFault (match u.owner a.toNat with
      | some p => .part p
      | none => .pf0) 0x02 5 line line u)) ∧
  (ts.length = 13 → ∃ u, exec (.junctionTemperatureSample ts) s = .next u ∧
    (u.thermal = true ↔ ∃ d : Fin 13, ceilingTemp ≤ (ts.getD d.val 0).toNat)) ∧
  (∃ u, exec .healthRecordAppend s = .next u ∧
    u.flash.hours = (s.flash.hours ++ [hourRecord s]).drop ((s.flash.hours ++ [hourRecord s]).length - hourRing) ∧
    u.flash.totals = (s.flash.total (hourRecord s)).totals ∧ u.flash.trips = 0 ∧ u.health = [] ∧ u.hourly = s.hourly + 1 ∧ u.mem = s.mem) ∧
  (let started := fun (n : Byte) => Host.Outcome.next (if s.mbox.busy = true ∨ s.boot = .rom then s
      else ({ s with mbox := { s.mbox with
        op := n, busy := true, input := s.mbox.buf.reads 0 mbBytes, inLen := s.mbox.filled, flashBad := false,
        inArg := s.mbox.args.get 0 } }).later 1 .mailboxDone);
    exec .readhealth s = started 1 ∧ exec .readtotals s = started 2 ∧ exec .readcert s = started 3 ∧
    exec .quote s = started 4 ∧ exec .signman s = started 5 ∧ exec .install s = started 6 ∧
    exec .remap s = started 7 ∧ exec .loadfw s = started 8 ∧
    (op = 0 ∨ 8 < op.toNat → exec (.mailboxBadOp op) s = started op)) ∧
  (s.mbox.busy = false → exec .mailboxDone s = .next s) ∧
  (s.mbox.busy = true → exec .mailboxDone s = .next (match runCommand s with
    | .error c => { s with mbox := s.mbox.ended (some c) [] }
    | .ok r => { r.2 with mbox := r.2.mbox.ended none (r.1.take mbBytes) })) ∧
  (exec .moduleReset s = .next (resetState s)) ∧
  (s.boot = .gate ∨ s.boot = .running ∨ s.boot = .recovery → exec .bootVerify s = .next s) ∧
  (s.boot = .rom → ∃ u, exec .bootVerify s = .next u ∧ (u.boot = .joints ∨ u.boot = .recovery) ∧ (u.boot = .joints → u.pcieUp = s.pcieUp)) ∧
  (s.boot = .joints → exec .bootVerify s = .next ((raiseJoints 0 16 { s with boot := .stacks }).later stackTicks .bootVerify)) ∧
  (s.boot = .stacks → exec .bootVerify s = .next (enterGate 0 Masks.all (raiseJoints 16 24 { s with boot := .gate }))) ∧
  (bringUp s = if s.boot = .gate ∧ s.scrubbing = [] then { s with boot := .running, pcieUp := !s.perst } else s) ∧
  (exec .perstRelease s = .next { s with
    perst := false, pcieUp := s.powered && decide (s.boot = .running ∨ s.boot = .recovery) }) ∧
  (exec .powerLoss s = .next { s with powered := false, pcieUp := false, todo := [], mbox := Mbox.reset })

/-! ## Decoding (06 R79 to R92) -/

/-- The words that the spec writes out bit by bit, in its worked examples, decode to the instructions that it gives for
them (06, 07, 08, 09, 10, 11, 16, 17, 18), and the all-zero word is NOP (06 R80). -/
def Obligations.WorkedWordsDecode : Prop :=
  let h : Head := ⟨0, false, 0, false, .normal, 0, false, 0, 0⟩
  let v := fun (l : VLoc) => (⟨l, .whole, false⟩ : VSrc)
  decode 0#128 = .ok (.nop h) ∧
  decode 0x20C8742640030000_4110080800000000#128 = .ok (.vfma ⟨2, false, 3, true, .keep, 1, false, 1, 2⟩ (.main 12)
    ⟨.main 4 false, .h1, false⟩ (.src (v (.opf 2))) (.src (v .lv))) ∧
  decode 0x0180002040004000_103FFFF000000000#128 = .ok (.loop { h with stall := 1 } (some 1) (.s 1 false) 0xFFFF) ∧
  decode 0x3100000040050000_3030000000000000#128 = .ok (.vredr h (.main 20) (v (.main 3 false)) 0 .rne .add) ∧
  decode 0x80000000000000C0_00B0014C00570000#128 = .ok (.cpy h (.imm 2) (.imm 0x14) (.imm 0x15) (.imm 0)) ∧
  decode 0xA0000000000000C0_00000C0008030000#128 = .ok (.xfwd h (.imm 0) (.s 3 false) (.src (v (.main 8 false))) (.imm 0)) ∧
  decode 0x20C0000041010040_1010080403000000#128 = .ok (.vfma h (.opf 4) (v (.opf 1)) (.src (v (.opf 2))) (.src (v (.opf 3)))) ∧
  decode 0x08000000000000C0_0030024000000000#128 = .ok (.fence h .core 4 2) ∧
  decode 0x09000000000000C0_0030005000000000#128 = .ok (.rcfence h (some (.imm 5))) ∧
  decode 0x3840000040004040_10001A000D838000#128 = .ok (.vdrop h (.main 1) (v (.opf 1)) (.s 6 true) (.s 13 true) 0x8000) ∧
  decode 0x04400000000000C0_0000520C00040000#128 = .ok (.tokout h .bwd (.imm 0) (.src (.s 20 true)))

/-- Decoding gives back every well-formed word, whatever its operands (06 R79 to R88). -/
def Obligations.DecodeGivesBackEveryWord : Prop :=
  ∀ (i : Instr), i.wf = true → ∃ w : W128, encode i = some w ∧ decode w = .ok i

/-- A word is accepted for one instruction alone: it is well-formed and its encoding is that word, so that no bit of an
accepted word is ignored (06 R79, R82, R85 to R88). -/
def Obligations.EveryBitOfAWordCounts : Prop :=
  ∀ (w : W128) (i : Instr), decode w = .ok i → i.wf = true ∧ encode i = some w

/-- Every opcode that is not listed is refused, and so is every word with a reserved bit, a reserved cache hint or a
reserved writeback level (06 R79, R81, R82, R85, R92); an accepted word has none of them. -/
def Obligations.ReservedEncodingsRefused : Prop :=
  ∀ (w : W128),
  (listed (w.toNat / 2 ^ 118) = false → decode w = .error .opcode) ∧
  (∀ i : Instr, decode w = .ok i →
    listed (w.toNat / 2 ^ 118) = true ∧ w.toNat / 2 ^ 90 % 16 = 0 ∧ w.toNat / 2 ^ 105 % 8 < 4 ∧ w.toNat / 2 ^ 94 % 4 < 2)

/-! ## Steps (02 R20 to R22) -/

/-- The word at the pc is what executes: where a core issues and the 16 bytes at the running berth's pc, free of an uncorrectable
error, decode to an instruction, the step is `exec` of it, in the state with the cycle's PMC events cleared and the engines' part of
the cycle next; the 16 bytes are those of the code image from the pc on (06 R79, 07 R106; of an error, see `BadFetchesTrap`). -/
def Obligations.StepRunsTheDecodedWord : Prop :=
  ∀ (s : State) (w : W128) (i : Instr) (x : Image), issuing s = true → s.imageOf s.cur = some x →
  s.me.pc.toNat + 16 ≤ 16 * x.csize → s.codeErr s.cur s.me.pc = none → w = BitVec.ofNat 128 (x.bytes.num s.me.pc.toNat 16) →
  decode w = .ok i → step s = exec i { s.onSelf (fun k => { k with issued := 0, switched := 0 }) with stage := .engines }

/-- Events that are due are taken before anything else, oldest first; without them a step is the next part of the core's
cycle, or of the tick (02 R20 to R22). Without power nothing runs but a module reset and, after a thermal trip, the end of a mailbox
command, since the security block keeps its rail (27 R382). An uncorrectable error that the issued word met is reported before the
engines act (27 R372). A queued event does what `exec` does with the instruction of its name.
The order among the parts of one cycle, and of events that fall due together, is the model's choice (DESIGN CHOICE, log 1). -/
def Obligations.StepTakesDueEventsFirst : Prop :=
  ∀ (s : State),
  (∀ (e : Ev) (r : List Ev), s.powered = true → s.todo = e :: r → step s = runEv e { s with todo := r }) ∧
  (s.powered = true → s.todo = [] →
    (s.stage = .wake → step s = .next (wakeCycle s)) ∧ (s.stage = .issue → step s = issueCycle s) ∧
    (let u := { s with todo := engineEvents s s.cur, stage := .writeback };
      (s.stage = .engines → step s = .next (takeUce s.cur u)) ∧ (s.stage = .engines → s.self.uce = none → step s = .next u)) ∧
    (s.stage = .writeback → step s = .next (writebackCycle s)) ∧ (s.stage = .advance → step s = .next (advanceCycle s)) ∧
    (s.stage = .tick → step s = .next (tickStage s)) ∧
    (s.stage = .issue → s.clocked s.cur = true → s.self.mute = false → s.self.running = false →
      step s = execBerthSwitch s.cur (prepare_ s))) ∧
  (let waits := fun (e : Ev) => e ∈ s.todo ∨ ∃ t : W64, (t, e) ∈ s.inputs;
    let ends := s.flash.trip = true ∧ s.mbox.busy = true ∧ waits .mailboxDone
    s.powered = false →
      (ends → step s = exec .mailboxDone s) ∧
      (¬ends → waits .moduleReset → step s = exec .moduleReset s) ∧
      (¬ends → ¬waits .moduleReset → step s = .fault .noPower)) ∧
  (∀ (c : CoreId) (b : BerthId), runEv (.stallExpiry c b) s = exec (.stallExpiry c b) s) ∧
  (∀ (c : CoreId), runEv (.berthSwitch c) s = exec (.berthSwitch c) s) ∧
  (∀ (c : CoreId) (b : BerthId), runEv (.waitWake c b) s = exec (.waitWake c b) s) ∧
  (∀ (c : CoreId) (b : BerthId), runEv (.sleepcWake c b) s = exec (.sleepcWake c b) s) ∧
  (∀ (c : CoreId) (b : BerthId), runEv (.sleeppWake c b) s = exec (.sleeppWake c b) s) ∧
  (∀ (c : CoreId) (b : BerthId), runEv (.waitpWake c b) s = exec (.waitpWake c b) s) ∧
  (∀ (c : CoreId) (b : BerthId), runEv (.barrierWake c b) s = exec (.barrierWake c b) s) ∧
  (∀ (c : CoreId) (b : BerthId), runEv (.barrierWaitTimeout c b) s = exec (.barrierWaitTimeout c b) s) ∧
  (∀ (c : CoreId) (b : BerthId), runEv (.tokinWake c b) s = exec (.tokinWake c b) s) ∧
  (∀ (c : CoreId) (b : BerthId), runEv (.tokoutWake c b) s = exec (.tokoutWake c b) s) ∧
  (∀ (c : CoreId), runEv (.tokenInboxRoom c) s = exec (.tokenInboxRoom c) s) ∧
  (∀ (c : CoreId), runEv (.idleWake c) s = exec (.idleWake c) s) ∧
  (∀ (q : QuadId), runEv (.droopAlarm q) s = exec (.droopAlarm q) s) ∧
  (∀ (q : QuadId), runEv (.stretchEnd q) s = exec (.stretchEnd q) s) ∧
  (∀ (q : QuadId), runEv (.halfRateWindowEnd q) s = exec (.halfRateWindowEnd q) s) ∧
  (∀ (c : CoreId), runEv (.resultWriteback c) s = exec (.resultWriteback c) s) ∧
  (∀ (c : CoreId), runEv (.enginePushResume c) s = exec (.enginePushResume c) s) ∧
  (∀ (c : CoreId), runEv (.vxeEntryStart c) s = exec (.vxeEntryStart c) s) ∧
  (∀ (c : CoreId), runEv (.ldeEntryStart c) s = exec (.ldeEntryStart c) s) ∧
  (∀ (c : CoreId), runEv (.steEntryStart c) s = exec (.steEntryStart c) s) ∧
  (∀ (c : CoreId) (u : MemUnit) (r : Reply), runEv (.memoryTransferPerformed c u r) s = exec (.memoryTransferPerformed c u r) s) ∧
  (∀ (c : CoreId), runEv (.engineEntryComplete c) s = exec (.engineEntryComplete c) s) ∧
  (∀ (c : CoreId) (b : BerthId), runEv (.deferredTrapTaken c b) s = exec (.deferredTrapTaken c b) s) ∧
  (∀ (c : CoreId) (absent : W64), runEv (.copyAccept c absent) s = exec (.copyAccept c absent) s) ∧
  (∀ (c : CoreId) (k : Fin 8) (r : Reply), runEv (.copyUnitPerformed c k r) s = exec (.copyUnitPerformed c k r) s) ∧
  (∀ (c : CoreId), runEv (.objectCount c) s = exec (.objectCount c) s) ∧
  (∀ (c : CoreId) (sf : Bool), runEv (.bargeSend c sf) s = exec (.bargeSend c sf) s) ∧
  (∀ (t : PairId), runEv (.operandLatched t) s = exec (.operandLatched t) s) ∧
  (∀ (t : PairId), runEv (.gateFlipSeen t) s = exec (.gateFlipSeen t) s) ∧
  (∀ (t : PairId), runEv (.bargeIssue t) s = exec (.bargeIssue t) s) ∧
  (∀ (t : PairId), runEv (.stampWindowExpiry t) s = exec (.stampWindowExpiry t) s) ∧
  (∀ (t : PairId), runEv (.arrCeilingAdmit t) s = exec (.arrCeilingAdmit t) s) ∧
  (∀ (t : PairId) (fail : Bool), runEv (.arrayCommandComplete t fail) s = exec (.arrayCommandComplete t fail) s) ∧
  runEv .sfBargeStart s = exec .sfBargeStart s ∧
  (∀ (k : Nat) (fail : Bool), runEv (.sfTransferComplete k fail) s = exec (.sfTransferComplete k fail) s) ∧
  (∀ (j : Fin 24), runEv (.dieJointFailure j) s = exec (.dieJointFailure j) s) ∧
  (∀ (c : CoreId), runEv (.lockArrivalCount c) s = exec (.lockArrivalCount c) s) ∧
  (∀ (l : Nat) (m : BitVec 6 × Bool) (d : DieId), runEv (.lockReportReceived l m d) s = exec (.lockReportReceived l m d) s) ∧
  (∀ (l : Nat) (d : DieId) (trel : Option W64), runEv (.trelReceived l d trel) s = exec (.trelReceived l d trel) s) ∧
  (∀ (l : Nat), runEv (.lockRelease l) s = exec (.lockRelease l) s) ∧
  (∀ (l : Nat) (d : DieId) (n : Fin 96), runEv (.barrierReleaseMessage l d n) s = exec (.barrierReleaseMessage l d n) s) ∧
  (∀ (q : QuadId), runEv (.estimatorWindow q) s = exec (.estimatorWindow q) s) ∧
  runEv .intervalBoundary s = exec .intervalBoundary s ∧
  (∀ (d : Fin 13), runEv (.thermalCeiling d) s = exec (.thermalCeiling d) s) ∧
  (∀ (up : Bool), runEv (.vecStepChange up) s = exec (.vecStepChange up) s) ∧
  runEv .clockStopEnd s = exec .clockStopEnd s ∧
  (∀ (d : Fin 13), runEv (.thermalTrip d) s = exec (.thermalTrip d) s) ∧
  (∀ (q : QuadId), runEv (.quadPowerGate q) s = exec (.quadPowerGate q) s) ∧
  (∀ (q : QuadId), runEv (.wakeRequest q) s = exec (.wakeRequest q) s) ∧
  (∀ (q : QuadId), runEv (.wakeHoldExpiry q) s = exec (.wakeHoldExpiry q) s) ∧
  (∀ (d : DieId), runEv (.inrushAdmit d) s = exec (.inrushAdmit d) s) ∧
  (∀ (q : QuadId), runEv (.railsStable q) s = exec (.railsStable q) s) ∧
  (∀ (d : DieId) (line : Nat) (wr : Bool), runEv (.transientRequest d line wr) s = exec (.transientRequest d line wr) s) ∧
  (∀ (k : Nat), runEv (.tokenMessageReceived k) s = exec (.tokenMessageReceived k) s) ∧
  (∀ (d : DieId) (line : Nat), runEv (.requestResendTimeout d line) s = exec (.requestResendTimeout d line) s) ∧
  (∀ (at_ d : DieId) (line : Nat) (wr : Bool), runEv (.persistentActivation at_ d line wr) s = exec (.persistentActivation at_ d line wr) s) ∧
  (∀ (at_ d : DieId) (line : Nat), runEv (.persistentDeactivation at_ d line) s = exec (.persistentDeactivation at_ d line) s) ∧
  (∀ (h : Holder) (line : Nat), runEv (.lineEviction h line) s = exec (.lineEviction h line) s) ∧
  (∀ (p : PartId) (g : Fin 64) (rank : Fin 64) (scnt sseq : W32) (flag : BitVec 12) (val : W64), runEv (.rlsMessageReceived p g rank scnt sseq flag val) s = exec (.rlsMessageReceived p g rank scnt sseq flag val) s) ∧
  (∀ (p : PartId) (g : Fin 64) (rank : Fin 64) (sseq : W32), runEv (.rlsAckReceived p g rank sseq) s = exec (.rlsAckReceived p g rank sseq) s) ∧
  (∀ (p : PartId) (g : Fin 64) (rank : Fin 64) (num : W32) (ppa : Bool) (va : W64) (bs : List Byte) (comb : Option (Comb3 × Fmt)) (obj : Option (Byte × Option (Fin 4096)) × Option (Byte × W64)), runEv (.fabricWriteReceived p g rank num ppa va bs comb obj) s = exec (.fabricWriteReceived p g rank num ppa va bs comb obj) s) ∧
  (∀ (p : PartId) (g : Fin 64) (rank : Fin 64), runEv (.fabricResend p g rank) s = exec (.fabricResend p g rank) s) ∧
  (∀ (c : CoreId), runEv (.agsetInstall c) s = exec (.agsetInstall c) s) ∧
  (∀ (b : Block) (q : Fin 64) (v : W16), runEv (.qtailWrite b q v) s = exec (.qtailWrite b q v) s) ∧
  (∀ (b : Block) (q : Fin 64), runEv (.slotRead b q) s = exec (.slotRead b q) s) ∧
  (∀ (l : Nat), runEv (.dependenceTest l) s = exec (.dependenceTest l) s) ∧
  (∀ (p : PartId), runEv (.turnGrant p) s = exec (.turnGrant p) s) ∧
  (∀ (p : PartId), runEv (.placement p) s = exec (.placement p) s) ∧
  (∀ (l : Nat), runEv (.copyLaunch l) s = exec (.copyLaunch l) s) ∧
  (∀ (l : Nat), runEv (.loadingComplete l) s = exec (.loadingComplete l) s) ∧
  (∀ (l : Nat), runEv (.startingLockRelease l) s = exec (.startingLockRelease l) s) ∧
  (∀ (l : Nat), runEv (.completionWrite l) s = exec (.completionWrite l) s) ∧
  runEv .watchdogTest s = exec .watchdogTest s ∧
  (∀ (l : Nat), runEv (.preemptionRequest l) s = exec (.preemptionRequest l) s) ∧
  (∀ (l : Nat), runEv (.imageWritten l) s = exec (.imageWritten l) s) ∧
  (∀ (l : Nat), runEv (.gangResume l) s = exec (.gangResume l) s) ∧
  (∀ (b : Block) (q : Fin 64) (seq : W16), runEv (.gctlResume b q seq) s = exec (.gctlResume b q seq) s) ∧
  (∀ (b : Block) (q : Fin 64) (seq : W16), runEv (.gctlDiscard b q seq) s = exec (.gctlDiscard b q seq) s) ∧
  (∀ (l : Nat) (gid : W32) (tlim : W64) (gang : Nat) (heat : Nat), runEv (.prepare l gid tlim gang heat) s = exec (.prepare l gid tlim gang heat) s) ∧
  (∀ (l : Nat) (rank : Fin 64) (ack : Option (BitVec 4)), runEv (.prepareReply l rank ack) s = exec (.prepareReply l rank ack) s) ∧
  (∀ (gid : W32) (tc : W64), runEv (.commit gid tc) s = exec (.commit gid tc) s) ∧
  (∀ (gid : W32), runEv (.abort gid) s = exec (.abort gid) s) ∧
  (∀ (l : Nat), runEv (.tlimExpiry l) s = exec (.tlimExpiry l) s) ∧
  (∀ (l : Nat), runEv (.gangBarrierTimeout l) s = exec (.gangBarrierTimeout l) s) ∧
  (∀ (p : PartId) (r : PtReg) (v : W64), runEv (.partitionTableWrite p r v) s = exec (.partitionTableWrite p r v) s) ∧
  (∀ (p : PartId) (r : PtReg) (v : W64), runEv (.addTwinWrite p r v) s = exec (.addTwinWrite p r v) s) ∧
  (∀ (p : PartId) (r : PtReg) (v : W64) (deadline : W64), runEv (.relTwinWrite p r v deadline) s = exec (.relTwinWrite p r v deadline) s) ∧
  (∀ (p : PartId) (rid : W16), runEv (.rszackWrite p rid) s = exec (.rszackWrite p rid) s) ∧
  (∀ (p : PartId), runEv (.resizeDeadline p) s = exec (.resizeDeadline p) s) ∧
  (∀ (x : Resource) (fails : W32), runEv (.scrubGateDone x fails) s = exec (.scrubGateDone x fails) s) ∧
  (∀ (p : PartId) (v : W64), runEv (.tinvWrite p v) s = exec (.tinvWrite p v) s) ∧
  (∀ (p : PartId), runEv (.tinvComplete p) s = exec (.tinvComplete p) s) ∧
  (∀ (d : DieId) (p : PartId) (ctx : Byte) (va : W64), runEv (.pageWalkComplete d p ctx va) s = exec (.pageWalkComplete d p ctx va) s) ∧
  (∀ (p : PartId) (idx : Fin 1024), runEv (.bindUnbind p idx) s = exec (.bindUnbind p idx) s) ∧
  (∀ (p : PartId), runEv (.flr p) s = exec (.flr p) s) ∧
  (∀ (p : PartId), runEv (.flrReady p) s = exec (.flrReady p) s) ∧
  (∀ (p : PartId) (off : BitVec 36) (n : Fin 4097), runEv (.hostWindowRead p off n) s = exec (.hostWindowRead p off n) s) ∧
  (∀ (p : PartId) (off : BitVec 36) (bs : List Byte), runEv (.hostWindowWrite p off bs) s = exec (.hostWindowWrite p off bs) s) ∧
  (∀ (c : CoreId) (u : MemUnit) (r : Reply), runEv (.hostCompletion c u r) s = exec (.hostCompletion c u r) s) ∧
  runEv .domainJoin s = exec .domainJoin s ∧
  runEv .domainLeave s = exec .domainLeave s ∧
  (∀ (off : Byte), runEv (.offsetMeasure off) s = exec (.offsetMeasure off) s) ∧
  runEv .pllLockLoss s = exec .pllLockLoss s ∧
  (∀ (n : Fin 48) (en : Bool), runEv (.bportEnableWrite n en) s = exec (.bportEnableWrite n en) s) ∧
  (∀ (n : Fin 48) (peer : BitVec 6), runEv (.linkTrained n peer) s = exec (.linkTrained n peer) s) ∧
  (∀ (n : Fin 48), runEv (.trainingTimeout n) s = exec (.trainingTimeout n) s) ∧
  (∀ (n : Fin 48), runEv (.linkError n) s = exec (.linkError n) s) ∧
  (∀ (n : Fin 48) (ok : Bool), runEv (.retrainResult n ok) s = exec (.retrainResult n ok) s) ∧
  (∀ (n : Fin 48), runEv (.downRetry n) s = exec (.downRetry n) s) ∧
  (∀ (n : Fin 48), runEv (.flitReplay n) s = exec (.flitReplay n) s) ∧
  (∀ (m : BitVec 6) (ups : BitVec 49), runEv (.portStateFlit m ups) s = exec (.portStateFlit m ups) s) ∧
  (∀ (t : PairId) (sym : Bool), runEv (.maintenanceDue t sym) s = exec (.maintenanceDue t sym) s) ∧
  (∀ (t : PairId), runEv (.wornSet t) s = exec (.wornSet t) s) ∧
  runEv .healthRecordAppend s = exec .healthRecordAppend s ∧
  (∀ (a : ErrAt) (bad : Bool), runEv (.patrolScrub a bad) s = exec (.patrolScrub a bad) s) ∧
  runEv .readhealth s = exec .readhealth s ∧
  runEv .readtotals s = exec .readtotals s ∧
  runEv .readcert s = exec .readcert s ∧
  runEv .quote s = exec .quote s ∧
  runEv .signman s = exec .signman s ∧
  runEv .install s = exec .install s ∧
  runEv .remap s = exec .remap s ∧
  runEv .loadfw s = exec .loadfw s ∧
  (∀ (op : Byte), runEv (.mailboxBadOp op) s = exec (.mailboxBadOp op) s) ∧
  runEv .mailboxDone s = exec .mailboxDone s ∧
  runEv .moduleReset s = exec .moduleReset s ∧
  runEv .bootVerify s = exec .bootVerify s ∧
  runEv .perstRelease s = exec .perstRelease s ∧
  runEv .powerLoss s = exec .powerLoss s ∧
  (∀ (r : HostReg) (v : W64), runEv (.registerWrite r v) s = exec (.registerWrite r v) s) ∧
  (∀ (r : HostReg), runEv (.rcRegisterRead r) s = exec (.rcRegisterRead r) s) ∧
  (∀ (p : PartId) (ppa : Option (Fin 64)) (va : W64) (n : Fin 129) (op : Option (AmoOp × Bool × W64 × W64)) (from_ : BitVec 6), runEv (.fabricRequestReceived p ppa va n op from_) s = exec (.fabricRequestReceived p ppa va n op from_) s) ∧
  (∀ (j : Fin 24), runEv (.dieJointRetrained j) s = exec (.dieJointRetrained j) s) ∧
  runEv .fabricPllLock s = exec .fabricPllLock s ∧
  (∀ (off : W64), runEv (.timeExchange off) s = exec (.timeExchange off) s) ∧
  (∀ (t : List Byte), runEv (.junctionTemperatureSample t) s = exec (.junctionTemperatureSample t) s) ∧
  (∀ (req : List Byte), runEv (.doeRequest req) s = exec (.doeRequest req) s)

/-- A fetch outside the image raises ILLOP with TVAL the word that set the pc, and at a handler's entry it escalates the trap
that led there, whose TCAUSE, TVAL and EPC stand. A fetch that meets an uncorrectable error stops the core (27 R372). A word that
decodes to nothing raises ILLOP with the slot at fault, TVAL its bits [127:64] or the immediate value
out of range; where a fence holds its kind back or its queue is full it stays instead, unless its opcode is none of the table
(06 R93, 07 R102, R106, 20 R305, R308). Which defect of a word counts first, and the slot of one that lies in no slot, are the
model's reading (DEDUCED, log 11), and so is that a word at a handler's entry that decodes to nothing escalates no trap (DEDUCED,
log 47). -/
def Obligations.BadFetchesTrap : Prop :=
  ∀ (s : State), issuing s = true →
  let u := prepare_ s
  let b := s.self.cur
  (s.codeWord s.cur s.me.pc = none →
    (s.me.entering = none → step s = .next (u.trapHere .illop 7 s.me.setter s.me.pc)) ∧
    (∀ word : W64, s.me.entering = some word → step s = .next (escalate s.cur b word (u.onMe (fun y => { y with entering := none }))))) ∧
  (∀ (w : W128) (a : W64), s.codeWord s.cur s.me.pc = some w → s.codeErr s.cur s.me.pc = some a →
    step s = .next (u.meetsUce s.cur b 2 a)) ∧
  (∀ (w : W128) (r : Reject), s.codeWord s.cur s.me.pc = some w → s.codeErr s.cur s.me.pc = none → decode w = .error r →
    let x := rejectOn s.self w r
    let held := s.holdsOff (fld w 127 118)
    (r = .opcode ∨ held = false → step s = .next (u.trapHere .illop x.slotNo (x.tval w) s.me.pc)) ∧
    (r ≠ .opcode → held = true → step s = .next u) ∧
    (r = .opcode → step s = .next (u.trapHere .illop 7 (w.extractLsb' 64 64) s.me.pc)) ∧
    (∀ (k : Fin 5) (v : W64), (r = .value k v → s.self.lend ≠ 0 → x.slotNo = k.val ∧ x.tval w = v) ∧
      (r = .slot k → s.self.lend ≠ 0 → x.slotNo = k.val ∧ x.tval w = w.extractLsb' 64 64)))

/-- The order in which a word is refused (02 R22, 06 R80, R93, 07 R120, 20 R321, 03 R31, R41): a fence or a full engine queue, at
which the word stays; an encoding that this core's lenders make illegal; a false guard, which leaves only the scheduling; results
in flight that leave no room, at which it stays; then privilege, then an absent lender. -/
def Obligations.WordsAreRefusedInOrder : Prop :=
  ∀ (i : Instr) (r : Raw) (s : State), encodeRaw i = some r →
  let k := s.self
  let held := s.me.fenced (kindsOf r.opc) || !k.queueRoom r.opc
  (held = true → exec i s = .next s) ∧
  (held = false →
    (tileIllop i k = true → exec i s = .next (s.trapHere .illop 1 (wordHi i) s.me.pc)) ∧
    (tileIllop i k = false → s.me.guard (rawHead r) = false → exec i s = .next (scheduled (rawHead r) s)) ∧
    (tileIllop i k = false → s.me.guard (rawHead r) = true →
      (k.resultRoom r.opc = false → exec i s = .next s) ∧
      (k.resultRoom r.opc = true → privileged r.opc = true → k.priv = false →
        exec i s = .next (s.trapHere .priv 7 (wordHi i) s.me.pc)) ∧
      (k.resultRoom r.opc = true → (privileged r.opc = true → k.priv = true) → ∀ (slot name : Nat),
        lendMissing i k = some (slot, name) → exec i s = .next (s.trapHere .lendx slot (BitVec.ofNat 64 name) s.me.pc)))) ∧
  (∃ t : State, exec i s = .next t)

/-! ## Reset and invariants -/

/-- What module reset leaves, where the spec gives it: CYC 0 and power on, the boot ROM running, no launch and every queue
disabled, no partition enabled, no resource in the free pool before the scrub gate has run, no strand on any core, empty FIFOs, P0 true and the other
predicates false, latches and operand file zero with tag NONE, lane masks all ones, windows over the whole tile, named
barriers 0, ceiling and slack at level 15, every port off (03 R27, 15 R276, 21 R335, 27 R382). The model's choices
are no part of the spec's reset: memory that lists nothing and reads zero before the scrub gate has run, host memory included (log 6),
no remap in the flash as delivered (log 4), and a free pool that fills 200,000,000 ticks after the boot ROM (log 79). -/
def Obligations.ResetLeaves : Prop :=
  let s := State.reset
  s.cyc = 0 ∧ s.powered = true ∧ s.boot = .rom ∧ s.launches = [] ∧ s.mem = [] ∧ s.bad = [] ∧ s.dom = .alone ∧
  s.freeRes = Masks.none ∧ s.scrubbing = [] ∧ s.remaps = [] ∧
  (∀ c : CoreId,
    let k := s.core c
    k.active = false ∧ k.launch = none ∧ k.lcy = 0 ∧ k.inflight = [] ∧ k.fpf = 0 ∧ (∀ n : Fin 256, k.file.get n = []) ∧
    (∀ n : Fin 8, k.opf.get n = VEntry.zero ∧ k.masks.get n = BitVec.allOnes 1024 ∧
      fld (k.wins.get n) 26 16 = 1024 ∧ fld (k.wins.get n) 58 48 = 1024 ∧ fld (k.wins.get n) 9 0 = 0 ∧ fld (k.wins.get n) 41 32 = 0) ∧
    k.lv = VEntry.zero ∧ k.ll = VEntry.zero ∧ VEntry.zero.tag = .none ∧
    (∀ n : Fin 96, k.bars.get n = (0, 0, false)) ∧
    (∀ b : BerthId,
      let x := k.berth b
      x.started = false ∧ x.ls = 0 ∧ x.trapv = 0 ∧ (∀ n : Fin 64, x.s.get n = []) ∧ ∀ n : Fin 16, x.p.get n = decide (n = 0))) ∧
  (∀ q : QuadId, (s.quad q).ceil = 15 ∧ (s.quad q).slk = 15 ∧ (s.quad q).eff = 15 ∧ (s.quad q).stretch = 0) ∧
  (∀ p : PartId, (s.part p).en = false ∧ ∀ n : Fin 64, ((s.part p).blk.queues.get n).en = false) ∧
  (∀ n : Fin 48, (s.ports.get n).en = false ∧ (s.ports.get n).state = .off)

/-- The memory of the machine after reset is in its canonical form. -/
def Obligations.ResetMemoryCanonical : Prop := State.reset.canonical

/-- Memory stays in its canonical form at every step, of a word or of an event, from every state in which it is. -/
def Obligations.StepKeepsMemoryCanonical : Prop :=
  ∀ (s t : State), s.canonical → step s = .next t → t.canonical

/-- No word changes memory when it issues (02 R22): whatever becomes of it, HBM, SRAM and host memory, the tile pairs, flash
and CYC are as before, and but for RSTR so is every byte of every core's LM. Stores happen when their engines perform them. -/
def Obligations.WordsLeaveMemory : Prop :=
  ∀ (i : Instr) (r : Raw) (s t : State), encodeRaw i = some r → exec i s = .next t →
  s.sameMemory t ∧ ((∀ (h : Head) (a : SSrc), i ≠ .rstr h a) → ∀ c : CoreId, (t.core c).lm = (s.core c).lm)

/-! ## Operands and results (03 R29 to R36, 06 R88) -/

/-- A read pops the oldest entry or, with PK, peeks it; a read that finds no entry ends in FIFO_UNF at its slot; two reads of
one name in a word see the queue one after the other; LS, O0 to O7, LV and LL are read and never consumed; an integer
immediate is sign-extended (03 R29, R30, R32, 06 R88), where no register has an error (20 R312). When a word traps, the state is the one
before it: no pop remains. -/
def Obligations.OperandsReadInSlotOrder : Prop :=
  ∀ (s : State) (k j : Nat) (n : Fin 64) (m : Fin 1024) (pk sw : Bool) (p : Part) (x y : W64) (r : List W64) (e : VEntry)
    (q : List VEntry),
  (s.me.s.get n = x :: r →
    Reads (readS k (.s n true)) s x s ∧
    ∃ t : State, Reads (readS k (.s n false)) s x t ∧ t = s.onMe (fun b => { b with s := b.s.set n.val r n.isLt }) ∧
      t.me.s.get n = r ∧ (r = [] → readS j (.s n pk) t = .error (.trap .fifoUnf j 0)) ∧
      (∀ l : List W64, r = y :: l → Reads (readS j (.s n true)) t y t ∧
        ∃ u : State, Reads (readS j (.s n false)) t y u ∧ u.me.s.get n = l)) ∧
  (s.me.s.get n = [] → readS k (.s n pk) s = .error (.trap .fifoUnf k 0)) ∧
  Reads (readS k .ls) s s.me.ls s ∧
  (∀ v : W16, Reads (readSI k (.imm v)) s (v.signExtend 64) s) ∧
  ((∀ l : VLoc, s.fileErr s.cur l = none) → s.vFifo s.cur m = e :: q → Reads (readV k ⟨.main m true, p, sw⟩) s e s ∧
    ∃ t : State, Reads (readV k ⟨.main m false, p, sw⟩) s e t ∧ t.vFifo s.cur m = q ∧
      (∀ c : CoreId, ∀ i : Fin 256, (s.vOwner s.cur m ≠ some (c, i)) → (t.core c).file.get i = (s.core c).file.get i)) ∧
  ((∀ l : VLoc, s.fileErr s.cur l = none) →
    (s.vFifo s.cur m = [] → readV k ⟨.main m pk, p, sw⟩ s = .error (.trap .fifoUnf k 0)) ∧
    (∀ o : Fin 8, Reads (readV k ⟨.opf o, p, sw⟩) s (s.self.opf.get o) s) ∧
    Reads (readV k ⟨.lv, p, sw⟩) s s.self.lv s ∧ Reads (readV k ⟨.ll, p, sw⟩) s s.self.ll s) ∧
  (∀ (i : Instr) (h : Head) (body : M Unit) (c : Code) (slot : Nat) (v : W64), ready i h s = true →
    body (scheduled h s) = .error (.trap c slot v) →
    issue i h body s = .next (s.trapHere c slot (trapTval i c v s) (if c = .trap then s.me.pc + 16 else s.me.pc)))

/-- Source operands (03 R36): SWP exchanges the halves of a lane, and PART selects bits of it; whole is always legal, a part
needs the element width of the entry's tag and stands for one element per lane, else the word raises TAGX; raw operands take
any part, zero-extended; PART 15 is refused with ILLOP, and so is a scalar slot with a PART or with SWP. -/
def Obligations.PartsAndSwap : Prop :=
  ∀ (e : VEntry) (sw : Bool) (l i : Nat),
  ((⟨e, sw, .whole⟩ : Src).raw l = swapped sw (e.lanes.at l) ∧ (⟨e, sw, .whole⟩ : Src).partOk = true) ∧
  (∀ x ∈ partTable,
    let y : Src := ⟨e, sw, x.1⟩
    (∀ j : Nat, (y.raw l).getLsbD j = (decide (j < x.2.1) && (swapped sw (e.lanes.at l)).getLsbD (x.2.2 + j))) ∧
    y.code l i = y.raw l ∧ (y.partOk = true ↔ x.2.1 = width e.tag)) ∧
  (∀ (ok : Fmt → Bool) (slot : Nat) (p : Part) (r : List VArg) (s : State), (⟨e, sw, p⟩ : Src).partOk = false →
    tagCheck slot (sameTag ok (.src ⟨e, sw, p⟩ :: r)) (.src ⟨e, sw, p⟩ :: r) s =
      .error (.trap .tagx slot (tagTval (tagsTval slot (.src ⟨e, sw, p⟩ :: r))))) ∧
  (∀ (i : Instr) (h : Head) (loc : VLoc) (p : Part) (s t : State), ready i h s = true →
    Reads (readV 1 ⟨loc, p, sw⟩) (scheduled h s) e t →
    vraw i h 1 [.src ⟨loc, p, sw⟩] s = .next (t.toVxe i [.src ⟨e, sw, p⟩] [])) ∧
  (∀ (k : Fin 5) (x : Nat), x < 3 * 65536 → (x / 2 % 16 = 15 → pV k x = .error (.slot k)) ∧
    (x % 32 ≠ 0 → pS k x = .error (.slot k)))

/-- Writeback (02 R22 step 6, 03 R29, R30, R32, 04 R58, 07 R101, R123, R124, 20 R312): a result is pushed behind what its name holds, or
replaces a plain register, whose error it mends, and goes to its unit's latch whatever the destination; its flags join FPF; a push by the
sequencer or the vector pipe into a full FIFO traps with FIFO_OVF and writes nothing, and the other results in flight are held for
the berth's RTT. The model's choices (log 55): EPC of a berth that waits names the waiting word, and no flag of the discarded result
joins FPF. -/
def Obligations.ResultsWriteBack : Prop :=
  ∀ (c : CoreId) (r : Pend) (s : State) (n : Fin 64) (m : Fin 1024) (o : Fin 8) (p : Fin 16) (x : W64) (e : VEntry) (v : Bool),
  let b := r.berth
  (∀ t : State, writeDst c b r.dst r.val s = some t → (∀ n m, r.dst ≠ .s2 n m) →
    ((writeback c r s).core c).fpf = (s.core c).fpf ||| r.flags ∧
    ∃ u : State, loadback c r s = some u ∧ (u.core c).fpf = (s.core c).fpf ||| r.flags) ∧
  (r.tok = 0 → (s.berth c b).exited = false →
    (r.unit = .seq ∧ r.val = .s x ∧ r.dst = .s n ∧ 2 ≤ ((s.berth c b).s.get n).length) ∨
      (r.unit = .vxe ∧ r.val = .v e ∧ r.dst = .v m ∧ 2 ≤ (s.vFifo c m).length) →
    let t := s.updCore c (Core.holdResults b)
    writeback c r s = (takeTrap c b .fifoOvf 0 r.addr (s.berth c b).pc (s.berth c b).pc t).updBerth c b (fun y =>
      { y with handlers := .ovf (s.berth c b).held.length :: (s.berth c b).handlers }) ∧
    (t.berth c b).s = (s.berth c b).s ∧ (t.berth c b).ls = (s.berth c b).ls ∧ (t.core c).file = (s.core c).file ∧
    (t.core c).lv = (s.core c).lv ∧ (t.core c).fpf = (s.core c).fpf ∧
    ∀ y ∈ (t.core c).inflight, y ∈ (s.core c).inflight ∧ y.rem = 0) ∧
  (r.tok = 0 → r.flags = 0 →
  (r.unit = .seq → r.val = .s x →
    (r.dst = .none → writeback c r s = s.updBerth c b (fun y => { y with ls := x })) ∧
    (r.dst = .s n → ((s.berth c b).s.get n).length < 2 →
      writeback c r s = s.updBerth c b (fun y => { y with s := y.s.set n.val (y.s.get n ++ [x]) n.isLt, ls := x }))) ∧
  (r.unit = .seq → r.dst = .p p → r.val = .pred v false → p ≠ 0 →
    writeback c r s = s.updBerth c b (fun y => { y with p := y.p.set p.val v p.isLt })) ∧
  (r.unit = .vxe → r.val = .v e →
    (r.dst = .none → writeback c r s = s.updCore c (fun k => { k with lv := e, fileBad := k.fileBad.filter (· ≠ 264) })) ∧
    (r.dst = .opf o → writeback c r s = s.updCore c (fun k => { k with
      opf := k.opf.set o.val e o.isLt, lv := e, fileBad := (k.fileBad.filter (· ≠ 256 + o.val)).filter (· ≠ 264) })) ∧
    (m.val < 256 → r.dst = .v m → (s.vFifo c m).length < 2 →
      writeback c r s = s.updCore c (fun k =>
        { k with file := k.file.set (m.val % 256) (k.file.get (Fin.ofNat 256 m.val) ++ [e]) (Nat.mod_lt _ (by decide)), lv := e,
                 fileBad := k.fileBad.filter (· ≠ 264) }))) ∧
  (r.unit = .lde → r.val = .v e → m.val < 256 → r.dst = .v m →
    ((s.vFifo c m).length < 2 → loadback c r s = some (s.updCore c (fun k =>
      { k with file := k.file.set (m.val % 256) (k.file.get (Fin.ofNat 256 m.val) ++ [e]) (Nat.mod_lt _ (by decide)), ll := e,
               fileBad := k.fileBad.filter (· ≠ 265) }))) ∧
    (2 ≤ (s.vFifo c m).length → loadback c r s = none ∧
      loadPushes c [r] s = s.updCore c (fun k => { k with ldPush := [r] }))))

/-- Vector results element by element, for registers, parts, exchanged halves and immediates (08 R128, R129, R132 to R134, R136,
R137, R141, R143; 04 R48 to R50, R58): on INT32 the sum, difference and product wrap, under SAT they clip, MIN and MAX are signed;
on every arithmetic tag a result is the exact one finished under the word's rounding; shifts by the width or more give 0 or the
sign fill; the bitwise words work on raw lanes; conversions round each element and leave the positions that they do not fill zero;
dot products, reductions and scans follow their rules; a lane that its mask disables is zero and raises nothing. The value of a
floating dot product within its bound is a constant of the machine (DESIGN CHOICE, log 9), and the first lane of a scan is
copied as it stands (DESIGN CHOICE, log 74). -/
def Obligations.VectorLanes : Prop :=
  ∀ (h : Head) (d : VDst) (a b : VSrc) (c z : VOp) (g : Fin 8) (rm : RM) (sat : Bool) (q : QEntry) (k : Core),
  let o := vxeOut k q
  let m := fun (n : Fin 8) => k.masks.get n
  let xs := rebuild [.src b, c, z] q.vops
  let t := (argAt xs 0).tag
  let v := fun n l i => (argAt xs n).val t l i
  let u := fun n l i => (argAt xs n).code t l i
  let r := fun n l => (argAt xs n).raw t l
  let fl1 := (argAt xs 0).flags t
  let fl2 := fl1 ||| (argAt xs 1).flags t
  let fl3 := fl2 ||| (argAt xs 2).flags t
  let fin := fun (x : XR × Flags) => finish t rm sat x
  let near := fun (x : XR × Flags) => finish t .rne false x
  (q.ins = .vadd h d b c g rm sat → ElementsAre o d t (m g) fl2 (fun l i => fin (addOp rm (v 0 l i) (v 1 l i)))) ∧
  (q.ins = .vsub h d b c g rm sat → ElementsAre o d t (m g) fl2 (fun l i => fin (subOp rm (v 0 l i) (v 1 l i)))) ∧
  (q.ins = .vmul h d b c g rm sat → ElementsAre o d t (m g) fl2 (fun l i => fin (XR.mul (v 0 l i) (v 1 l i)))) ∧
  (q.ins = .vfma h d b c z → ElementsAre o d t (m 0) fl3 (fun l i => near (fmaOp false false (v 0 l i) (v 1 l i) (v 2 l i)))) ∧
  (q.ins = .vfms h d b c z → ElementsAre o d t (m 0) fl3 (fun l i => near (fmaOp false true (v 0 l i) (v 1 l i) (v 2 l i)))) ∧
  (q.ins = .vnfma h d b c z → ElementsAre o d t (m 0) fl3 (fun l i => near (fmaOp true false (v 0 l i) (v 1 l i) (v 2 l i)))) ∧
  (q.ins = .vclamp h d b c z → ElementsAre o d t (m 0) fl3 (fun l i => near (minOp (maxOp (v 0 l i) (v 1 l i)) (v 2 l i), 0))) ∧
  (q.ins = .vmin h d b c g → ElementsAre o d t (m g) fl2 (fun l i => near (minOp (v 0 l i) (v 1 l i), 0))) ∧
  (q.ins = .vmax h d b c g → ElementsAre o d t (m g) fl2 (fun l i => near (maxOp (v 0 l i) (v 1 l i), 0))) ∧
  (q.ins = .vabs h d b g → ElementsAre o d t (m g) fl1 (fun l i => near ((v 0 l i).abs, 0))) ∧
  (q.ins = .vneg h d b g → ElementsAre o d t (m g) fl1 (fun l i => near ((v 0 l i).negate, 0))) ∧
  (q.ins = .vround h d b g rm → ElementsAre o d t (m g) fl1 (fun l i => near (integral rm (v 0 l i)))) ∧
  (t = .int32 → (∀ w, argAt xs 1 = .src w → w.e.tag = .int32) →
    let x := fun l => u 0 l 0
    let y := fun l => u 1 l 0
    (q.ins = .vadd h d b c g rm false → ElementsAre o d t (m g) 0 (fun l _ => (x l + y l, 0))) ∧
    (q.ins = .vsub h d b c g rm false → ElementsAre o d t (m g) 0 (fun l _ => (x l - y l, 0))) ∧
    (q.ins = .vmul h d b c g rm false →
      ElementsAre o d t (m g) 0 (fun l _ => (x l * y l, 0))) ∧
    (q.ins = .vadd h d b c g rm true → ElementsAre o d t (m g) 0 (fun l _ =>
      let n := (x l).toInt + (y l).toInt
      if n < -2 ^ 31 then (0x80000000, Flags.sat) else if 2 ^ 31 ≤ n then (0x7FFFFFFF, Flags.sat) else (x l + y l, 0))) ∧
    (q.ins = .vmin h d b c g →
      ElementsAre o d t (m g) 0 (fun l _ => (if (x l).toInt ≤ (y l).toInt then x l else y l, 0))) ∧
    (q.ins = .vmax h d b c g →
      ElementsAre o d t (m g) 0 (fun l _ => (if (x l).toInt ≤ (y l).toInt then y l else x l, 0)))) ∧
  (isInt t = true →
    (q.ins = .vshl h d b c g → ElementsAre o d t (m g) fl2 (fun l i =>
      (if width t ≤ (u 1 l i).toNat then 0 else u 0 l i <<< (u 1 l i).toNat, 0))) ∧
    (q.ins = .vshr h d b c g → ElementsAre o d t (m g) fl2 (fun l i => (if width t ≤ (u 1 l i).toNat then 0 else u 0 l i >>> (u 1 l i).toNat, 0))) ∧
    (q.ins = .vsar h d b c g → ElementsAre o d t (m g) fl2 (fun l i =>
      (BitVec.ofInt 32 (decInt t (u 0 l i) / 2 ^ (u 1 l i).toNat), 0)))) ∧
  (q.ins = .vand h d b c g → LanesAre o d t (m g) (fun l => r 0 l &&& r 1 l)) ∧
  (q.ins = .vor h d b c g → LanesAre o d t (m g) (fun l => r 0 l ||| r 1 l)) ∧
  (q.ins = .vxor h d b c g → LanesAre o d t (m g) (fun l => r 0 l ^^^ r 1 l)) ∧
  (q.ins = .vnot h d b g → LanesAre o d t (m g) (fun l => ~~~(r 0 l))) ∧
  (∀ y, xs.head? = some (.src y) →
    let full := fun (ft : Fmt) => if y.part = .whole then count y.e.tag else count ft
    (∀ ft s, rm ≠ .sr → q.ins = .vcvt h d b g rm ft s → ElementsAre o d ft (m g) 0 (fun l i =>
      if i < full ft then roundTo (y.val l i) ft rm 0 else (0, 0))) ∧
    (∀ ft s, q.ins = .vcvt h d b g .sr ft s → ElementsAre o d ft (m g) 0 (fun l i =>
      if i < full ft then
        roundTo (y.val l i) ft .sr (draw16 q.key1 (q.vals.getD 0 0) (q.vals.getD 1 0) (l * count ft + i))
      else (0, 0))) ∧
    (∀ ft w, c = .src w → q.ins = .vpack h d b w g rm ft → ElementsAre o d ft (m g) 0 (fun l i =>
      if i < count t then roundTo (v 0 l i) ft rm 0 else roundTo (v 1 l (i - count t)) ft rm 0)) ∧
    (t ≠ .e2m1s →
      (q.ins = .vunpkl h d b g rm → ElementsAre o d (widePartner t) (m g) 0 (fun l i =>
        if i < count t / 2 then roundTo (y.val l i) (widePartner t) rm 0 else (0, 0))) ∧
      (q.ins = .vunpkh h d b g rm → ElementsAre o d (widePartner t) (m g) 0 (fun l i =>
        if i < count t / 2 then roundTo (y.val l (i + count t / 2)) (widePartner t) rm 0 else (0, 0)))) ∧
    (∀ (row : Bool) (kind : RedKind), ¬ kind ∈ [RedKind.and, .or, .xor] →
      let line := fun l i => (lanesBeside row l).map (fun n => (y.code n i, (0 : Flags)))
      let at_ := fun l => if row then l % 64 else l / 64
      let raises := fun (res : Nat → Nat → List CF) => ∀ j, o.flags.getLsbD j = true ↔
        ∃ l i, l < 1024 ∧ i < count t ∧ (m g).at l = true ∧ ∃ x ∈ res l i, x.2.getLsbD j = true
      let whole := fun (res : Nat → Nat → List CF) => raises res ∧ o.dst = dstV d ∧ ∃ e : VEntry, o.val = .v e ∧ e.tag = t ∧
        ∀ l i, l < 1024 → i < count t → t ≠ .acc12 →
          sub (e.lanes.at l) (i * width t) (width t) =
            if (m g).at l then sub ((res l i).getD (at_ l) (0, 0)).1 0 (width t) else 0
      (q.ins = (if row then .vredr h d b g rm kind else .vredc h d b g rm kind) →
        whole (fun l i => (lanesBeside row l).map (fun _ => tree (combElem t rm kind) (if row then 6 else 4) (line l i)))) ∧
      (q.ins = (if row then .vscanr h d b g rm kind else .vscanc h d b g rm kind) →
        whole (fun l i => scan (combElem t rm kind) (line l i)))) ∧
    (∀ row : Bool,
      let red := fun kind => q.ins = (if row then Instr.vredr h d b g rm kind else .vredc h d b g rm kind)
      let over_ := fun (op : W32 → W32 → W32) (e0 : W32) l => (lanesBeside row l).foldl (fun s n => op s (y.raw n)) e0
      (red .and → LanesAre o d t (m g) (over_ (· &&& ·) (BitVec.allOnes 32))) ∧
      (red .or → LanesAre o d t (m g) (over_ (· ||| ·) 0)) ∧
      (red .xor → LanesAre o d t (m g) (over_ (· ^^^ ·) 0)) ∧
      (t = .int32 → y.part = .whole → red .add → LanesAre o d t (m g) (over_ (· + ·) 0)))) ∧
  (∀ (n : Nat) (x y : Src) (w : VArg), rebuild [.src a, .src b, c] q.vops = [.src x, .src y, w] →
    q.ins = (if n = 2 then .vdot2 h d a b c else if n = 4 then .vdot4 h d a b c else .vdot8 h d a b c) →
    n ∈ [2, 4, 8] →
    if isInt x.e.tag then
      ElementsAre o d .int32 (m 0) 0 (fun l _ =>
        satInt .int32 ((w.val .int32 l 0).mant 0 + ((List.range n).map (fun i =>
          (XR.mul (x.val l i) (y.val l i)).1.mant 0)).sum))
    else ElementsAre o d .fp32 (m 0) 0 (fun l _ => dotFloat x y (w.val .fp32 l 0) (w.code .fp32 l 0) n l))

/-- A finite code of a floating format rounds to itself in every mode, with no flag (04 R42, R50). The clove code of E2M1S stands
for no value of its own (04 R46). -/
def Obligations.FiniteCodesAreExact : Prop :=
  ∀ (f : Fmt) (c : W32) (rm : RM), f ∈ [Fmt.fp32, .bf16, .fp16, .acc12, .e4m3, .e5m2, .e2m1s] → c.toNat < 2 ^ width f →
  c.toNat % 2 ^ lowPad f = 0 → ¬(f = .e2m1s ∧ c = 8) → (decFloat f c).isNaN = false → (decFloat f c).isInf = false →
  roundTo (decFloat f c) f rm 0 = (c, 0)

/-! ## Windows, escalation, frames -/

/-- A trap taken with TRAPV 0 is escalated (20 R308): TCAUSE, TVAL and EPC are set, the pc stays at the word that trapped, the gang
is asked to be pre-empted with code UNHANDLED, and DET holds TCAUSE and the strand's rank. -/
def Obligations.TrapsEscalate : Prop :=
  ∀ (c : CoreId) (b : BerthId) (kind : Code) (slot : Nat) (tval epc word : W64) (s : State) (l : Nat) (g : Launch),
  (s.berth c b).trapv = 0 → slot < 8 → kind ≠ .pmiss → (s.core c).launch = some l → s.launch l = some g →
  let t := takeTrap c b kind slot tval epc word s
  let x := t.berth c b
  x.tcode = kind.num ∧ x.tslot.toNat = slot ∧ x.tval = tval ∧ x.epc = epc &&& ~~~0xF ∧ x.pc = word ∧ x.again = true ∧
  t.todo = s.todo ++ [.preemptionRequest l] ∧
  (∃ g' : Launch, t.launch l = some g' ∧ g'.pre = some .escalated ∧ g'.fcode = 0x85 ∧
    g'.det = BitVec.ofNat 64 (kind.num.toNat + 256 * slot + 65536 * (s.core c).rank)) ∧
  ∀ b' : BerthId, b' ≠ b → t.berth c b' = s.berth c b'

/-- The frame of an issue (02 R22, 03 R29, 06 R93): whatever becomes of a branch, a scalar word, a predicate word or FCNT, held, dropped,
trapped or run, only its own core's sequencer, the results in flight and the scalar FIFOs that it reads change; of a word of an
engine, and of FDROP and FCLR, besides these the queues, accounts and holds of its core and the main-file names that it reads, its
lenders' among them. No latch, operand-file register, mask, window, barrier, predicate, special register or byte of memory changes.
Where TRAPV is 0 a trap is escalated (see `TrapsEscalate`). The changes that bodies are made of are of this kind. -/
def Obligations.IssueFrame : Prop :=
  ∀ (h : Head) (s : State) (unit : ResUnit) (dst : Dst) (v : RVal) (lat : Nat) (a : W64) (w : Wait) (i : Instr) (xs : List VArg)
    (vals : List W64) (q : QEntry),
  (Quiet s (scheduled h s) ∧ Quiet s (s.emit unit dst v lat) ∧ Quiet s (s.jump a) ∧ Quiet s (s.park w) ∧ Quiet s s.rest ∧
    Quiet s (s.toVxe i xs vals) ∧ Quiet s (s.toMem q) ∧ Quiet s (s.toCopy i q) ∧ Quiet s (s.toArray i q) ∧ Quiet s (s.toSf i q)) ∧
  ∀ (r : Raw) (t : State), encodeRaw i = some r → s.me.trapv ≠ 0 → exec i s = .next t →
    (scalarWord i = true → OnlyCore s.cur s t ∧ Issued s.self t.self ∧
      t.self = { s.self with
        berths := t.self.berths, running := t.self.running, issued := t.self.issued, serial := t.self.serial, skip := t.self.skip,
        inflight := t.self.inflight } ∧ s.self.inflight <+: t.self.inflight) ∧
    (engineWord i = true → t = { s with cores := t.cores } ∧ Issued s.self t.self ∧ t.self.inflight = s.self.inflight ∧
      (∀ c : CoreId, c ≠ s.cur → t.core c = { s.core c with file := (t.core c).file }) ∧
      ∀ (c : CoreId) (n : Fin 256), (t.core c).file.get n <:+ (s.core c).file.get n)

/-- The frame of reading operands (03 R29): a scalar read changes no entry but those of its own name, in the running berth alone; a
vector read changes no main-file name but its own. -/
def Obligations.OperandFrame : Prop :=
  ∀ (k : Nat) (x : SSrc) (y : VSrc) (s t : State) (v : W64) (e : VEntry),
  (Reads (readS k x) s v t →
    OnlyCore s.cur s t ∧ t.self = { s.self with berths := t.self.berths } ∧
    (∀ b : BerthId, b ≠ s.self.cur → t.self.berth b = s.self.berth b) ∧ t.me = { s.me with s := t.me.s } ∧
    ∀ n : Fin 64, (∀ pk : Bool, x ≠ .s n pk) → t.me.s.get n = s.me.s.get n) ∧
  (Reads (readV k y) s e t →
    t = { s with cores := t.cores } ∧ ∀ c : CoreId, t.core c = { s.core c with file := (t.core c).file } ∧
      ∀ i : Fin 256, (∀ (m : Fin 1024) (pk : Bool), y.loc = .main m pk → s.vOwner s.cur m ≠ some (c, i)) →
        (t.core c).file.get i = (s.core c).file.get i)

/-! ## Memory -/

/-- Memory reads back what was written, byte by byte, wherever the line's owner token is, and every other byte as before; numbers are
little-endian (13 R239, R241, 14 R264). -/
def Obligations.MemoryReadsBack : Prop :=
  ∀ (s : State), s.canonical → (∀ (n : Nat) (d : List Byte), s.ownerData n = some d → d.length = 128) →
  ∀ (a b n : Nat) (v : Byte) (bs : List Byte) (x : W64),
  (s.putByte a v).byte b = (if b = a then v else s.byte b) ∧
  ((s.putBytes a bs).byte b = if a ≤ b ∧ b < a + bs.length then bs.getD (b - a) 0 else s.byte b) ∧
  (s.putWord a x).word a = x ∧
  (n < 8 → (s.putWord a x).byte (a + n) = x.extractLsb' (8 * n) 8)

/-- A store into the LM map writes the bytes of its operand at the address that its record and offset give, little-endian, and no other
byte of the core's own LM nor of memory (09 R152, R155, R161): STSC, when its
engine performs its transfer, no granule there has an error (20 R312) and no earlier access of its berth to the same bytes stands in
the load engine (14 R256). -/
def Obligations.ScalarStoreToLm : Prop :=
  ∀ (c : CoreId) (s : State) (a : Active) (r : Rec) (h : Head) (src : SSrc) (tid : Ref) (off : SOp) (sz : Size),
  (s.core c).ste = some a → a.fault = false → a.shape = some r → recLm r = true → a.q.ins = .stsc h src tid off sz → a.busy ≤ 1 →
  let va := recBase r + stepOff (val0 a.q 0) a.q.step a.n
  let n := sizeBytes sz
  va.toNat + n ≤ 0x400000 → (s.core c).lm.wf = true →
  256 ≤ (s.quad (quadOf c)).sluice.get 0 → s.lmBads c = [] → storeBehind s c .ste a = false →
  ∃ t : State, exec (.memoryTransferPerformed c .ste .ok) s = .next t ∧ t.mem = s.mem ∧
    (∀ i : Nat, i < n → (t.core c).lm.read (va.toNat + i) = (val0 a.q 1).extractLsb' (8 * i) 8) ∧
    (∀ b : Nat, (b < va.toNat ∨ va.toNat + n ≤ b) → (t.core c).lm.read b = (s.core c).lm.read b) ∧
    ∀ c' : CoreId, c' ≠ c → t.core c' = s.core c'

/-- Whatever a transfer puts into the LM map or into memory, every byte outside the places that its puts name is as before
(09 R155, 13 R239). -/
def Obligations.StoresLeaveOtherBytes : Prop :=
  ∀ (c : CoreId) (s : State) (ps : List Put) (segs : List Seg),
  ((∀ o : CoreId, (s.core o).lm.wf = true) → ∀ (o : CoreId) (x : Nat),
    (∀ p ∈ ps, s.lmOwner c (p.addr.toNat % 2 ^ 24) ≠ some (o, x)) →
    ((lmApply c ps s).core o).lm.read x = (s.core o).lm.read x ∧ (lmApply c ps s).mem = s.mem) ∧
  (s.canonical → ∀ b : Nat,
    (∀ p ∈ ps, dpaOf (segs.filter (fun g => match g.site with | .module .. => false | _ => true)) p.addr ≠ some b) →
    (memApply segs ps s).byte b = s.byte b)
end

