-- ==== Sys2Proof/Laws/Decode.lean ====
section
/-! SUPPORT. Every field of a word reads back as it was written: the slots, the modifiers, the header, and the word. -/

namespace Sys2Proof

/-! ## The decoder's monad -/

@[simp] theorem ok_bind (x : α) (f : α → P β) : ((Except.ok x : P α) >>= f) = f x := rfl
@[simp] theorem ok_map (f : α → β) (x : α) : f <$> (Except.ok x : P α) = .ok (f x) := rfl
@[simp] theorem pure_ok (x : α) : (pure x : P α) = .ok x := rfl
theorem pBelow_of {n : Nat} {x : SOp} (h : x.below n = true) (k : Fin 5) : pBelow k n x = .ok () := by
  cases x with
  | src _ => rfl
  | imm v => simp only [SOp.below, decide_eq_true_eq] at h; simp [pBelow, h]
@[simp] theorem opt_some (k : Fin 5) (x : α) : opt k (some x) = .ok x := rfl

/-! ## Codes -/

@[simp] theorem Hint.ofCode_code (x : Hint) : Hint.ofCode x.code = some x := by cases x <;> rfl
@[simp] theorem Fmt.ofCode_code (x : Fmt) : Fmt.ofCode x.code = some x := by cases x <;> rfl
@[simp] theorem Part.ofCode_code (x : Part) : Part.ofCode x.code = some x := by cases x <;> rfl
@[simp] theorem RM.ofCode_code (x : RM) : RM.ofCode x.code = some x := by cases x <;> rfl
@[simp] theorem Cond.ofCode_code (x : Cond) : Cond.ofCode x.code = some x := by cases x <;> rfl
@[simp] theorem Scope.ofCode_code (x : Scope) : Scope.ofCode x.code = some x := by cases x <;> rfl
@[simp] theorem MbKind.ofCode_code (x : MbKind) : MbKind.ofCode x.code = some x := by cases x <;> rfl
@[simp] theorem VCond.ofCode_code (x : VCond) : VCond.ofCode x.code = some x := by cases x <;> rfl
@[simp] theorem RedKind.ofCode_code (x : RedKind) : RedKind.ofCode x.code = some x := by cases x <;> rfl
@[simp] theorem DrawKind.ofCode_code (x : DrawKind) : DrawKind.ofCode x.code = some x := by cases x <;> rfl
@[simp] theorem Size.ofCode_code (x : Size) : Size.ofCode x.code = some x := by cases x <;> rfl
@[simp] theorem AmoOp.ofCode_code (x : AmoOp) : AmoOp.ofCode x.code = some x := by cases x <;> rfl
@[simp] theorem AmoOrd.ofCode_code (x : AmoOrd) : AmoOrd.ofCode x.code = some x := by cases x <;> rfl
@[simp] theorem Comb3.ofCode_code (x : Comb3) : Comb3.ofCode x.code = some x := by cases x <;> rfl
@[simp] theorem UpdKind.ofCode_code (x : UpdKind) : UpdKind.ofCode x.code = some x := by cases x <;> rfl

theorem Hint.code_lt (x : Hint) : x.code < 8 := by cases x <;> decide
theorem Fmt.code_lt (x : Fmt) : x.code < 16 := by cases x <;> decide
theorem Part.code_lt (x : Part) : x.code < 15 := by cases x <;> decide
theorem RM.code_lt (x : RM) : x.code < 5 := by cases x <;> decide
theorem RM.code_det {x : RM} (h : x.det = true) : x.code < 4 := by cases x <;> revert h <;> decide
theorem Cond.code_lt (x : Cond) : x.code < 6 := by cases x <;> decide
theorem Scope.code_lt (x : Scope) : x.code < 5 := by cases x <;> decide
theorem MbKind.code_lt (x : MbKind) : x.code < 3 := by cases x <;> decide
theorem VCond.code_lt (x : VCond) : x.code < 6 := by cases x <;> decide
theorem RedKind.code_lt (x : RedKind) : x.code < 6 := by cases x <;> decide
theorem DrawKind.code_lt (x : DrawKind) : x.code < 3 := by cases x <;> decide
theorem Size.code_lt (x : Size) : x.code < 4 := by cases x <;> decide
theorem AmoOp.code_lt (x : AmoOp) : x.code < 11 := by cases x <;> decide
theorem AmoOrd.code_lt (x : AmoOrd) : x.code < 4 := by cases x <;> decide
theorem Comb3.code_lt (x : Comb3) : x.code < 3 := by cases x <;> decide
theorem UpdKind.code_lt (x : UpdKind) : x.code < 3 := by cases x <;> decide

@[simp] theorem b2n_true : b2n true = 1 := rfl
@[simp] theorem b2n_false : b2n false = 0 := rfl
theorem b2n_lt (b : Bool) : b2n b < 2 := by cases b <;> decide
@[simp] theorem b2n_eq_one (b : Bool) : decide (b2n b = 1) = b := by cases b <;> rfl

@[simp] theorem fin_back (n : Nat) [NeZero n] (x : Fin n) : Fin.ofNat n x.val = x := by
  ext; simp

theorem fin_back' {n m : Nat} [NeZero n] (x : Fin n) (h : m = x.val) : Fin.ofNat n m = x := by
  subst h; exact fin_back n x

@[simp] theorem SysReg.ofCode_code (x : SysReg) : SysReg.ofCode x.code = some x := by
  cases x <;> try rfl
  all_goals
    rename_i n
    have := n.isLt
    have e : ∀ k, k + n.val - k = n.val := fun k => Nat.add_sub_cancel_left ..
    simp only [SysReg.ofCode, SysReg.code, e]
    first
      | rw [if_pos ⟨by omega, by omega⟩, fin_back]
      | rw [if_neg (by omega), if_pos ⟨by omega, by omega⟩, fin_back]

theorem SysReg.code_lt (x : SysReg) : x.code < 0x60 := by
  cases x <;> simp [SysReg.code] <;> omega

@[simp] theorem PrivName.ofCode_code (x : PrivName) : PrivName.ofCode x.code = some x := by
  rcases x with r | q
  · have := r.code_lt
    have h1 : ¬ (0x100 ≤ r.code ∧ r.code < 0x130) := by omega
    have h2 : r.code ≠ 0x130 := by omega
    have h3 : r.code ≠ 0x131 := by omega
    have h4 : r.code ≠ 0x132 := by omega
    simp only [PrivName.ofCode, PrivName.code, h1, h2, h3, h4, ite_false, SysReg.ofCode_code, Option.map_some]
  · cases q <;> try rfl
    rename_i n
    have := n.isLt
    simp [PrivName.ofCode, PrivName.code]
    omega

theorem PrivName.code_lt (x : PrivName) : x.code < 1024 := by
  rcases x with r | q
  · have := r.code_lt
    simp only [PrivName.code]; omega
  · cases q <;> simp [PrivName.code] <;> omega

/-! ## Slots -/

@[simp] theorem pZ_zero (k : Fin 5) : pZ k 0 = .ok () := rfl
@[simp] theorem pI_eI (k : Fin 5) (v : W16) : pI k (eI v) = .ok v := by simp [pI, eI]
@[simp] theorem pM_eM (k : Fin 5) (m : Nat) : pM k (eM m) = .ok m := by simp [pM, eM]

theorem pN_eN (k : Fin 5) (n : Nat) [NeZero n] (hn : n ≤ 1024) (x : Fin n) : pN k n (eN x.val) = .ok x := by
  have := x.isLt
  have h2 : x.val * 64 / 64 = x.val := by omega
  simp only [pN, eN, h2]
  rw [if_pos ⟨by omega, x.isLt, by omega⟩, fin_back]

@[simp] theorem pX_eN (k : Fin 5) (n : Nat) (h : n < 1024) : pX k (eN n) = .ok n := by
  have h2 : n * 64 / 64 = n := by omega
  simp only [pX, eN, h2]
  rw [if_pos (by omega)]

@[simp] theorem pS_eS (k : Fin 5) (x : SSrc) : pS k (eS x) = .ok x := by
  rcases x with ⟨n, pk⟩ | _
  · have := n.isLt
    have hb := b2n_lt pk
    have h2 : (n.val * 64 + b2n pk * 32) / 64 = n.val := by omega
    have h3 : (n.val * 64 + b2n pk * 32) / 32 % 2 = b2n pk := by omega
    simp only [pS, eS, h2, h3]
    rw [if_pos (by omega), fin_back, b2n_eq_one]
  · rfl

theorem eS_lt (x : SSrc) : eS x < immMark := by
  rcases x with ⟨n, pk⟩ | _
  · have := n.isLt
    have := b2n_lt pk
    simp only [eS, immMark]; omega
  · decide

@[simp] theorem pSI_eSI (k : Fin 5) (x : SOp) : pSI k (eSI x) = .ok x := by
  rcases x with x | v
  · simp [pSI, eSI, Nat.not_le.mpr (eS_lt x)]
  · simp [pSI, eSI, eI]

theorem vloc_eLoc (l : VLoc) (p s : Nat) (hp : p < 15) (hs : s < 2) : vloc (eLoc l + p * 2 + s) = some l := by
  rcases l with ⟨n, pk⟩ | n | _ | _
  · have := n.isLt
    have hb := b2n_lt pk
    have h2 : (n.val * 64 + b2n pk * 32 + p * 2 + s) / 64 = n.val := by omega
    have h3 : (n.val * 64 + b2n pk * 32 + p * 2 + s) / 32 % 2 = b2n pk := by omega
    simp only [vloc, eLoc, h2, h3]
    rw [if_pos (by omega), fin_back, b2n_eq_one]
  · have := n.isLt
    have h2 : (65536 + n.val * 64 + p * 2 + s) / 64 - 1024 = n.val := by omega
    simp only [vloc, eLoc, h2]
    rw [if_neg (by omega), if_neg (by omega), if_pos (by omega), if_pos (by omega), fin_back]
  · have h2 : (2 * 65536 + p * 2 + s) / 64 = 2048 := by omega
    show vloc (2 * 65536 + p * 2 + s) = _
    unfold vloc
    rw [h2, if_neg (by omega), if_neg (by omega), if_neg (by omega), if_pos rfl]
  · have h2 : (2 * 65536 + 64 + p * 2 + s) / 64 = 2049 := by omega
    show vloc (2 * 65536 + 64 + p * 2 + s) = _
    unfold vloc
    rw [h2, if_neg (by omega), if_neg (by omega), if_neg (by omega), if_neg (by omega), if_pos rfl]

theorem eLoc_lt (l : VLoc) : eLoc l + 32 < immMark ∧ eLoc l % 32 = 0 := by
  rcases l with ⟨n, pk⟩ | n | _ | _
  · have := n.isLt
    have := b2n_lt pk
    simp only [eLoc, immMark]; omega
  · have := n.isLt
    simp only [eLoc, immMark]; omega
  · decide
  · decide

theorem eV_lt (v : VSrc) : eV v < immMark := by
  have := eLoc_lt v.loc
  have := v.part.code_lt
  have := b2n_lt v.swp
  simp only [eV]; omega

@[simp] theorem pV_eV (k : Fin 5) (v : VSrc) : pV k (eV v) = .ok v := by
  have := eLoc_lt v.loc
  have := v.part.code_lt
  have := b2n_lt v.swp
  have h1 : eV v / 2 % 16 = v.part.code := by simp only [eV]; omega
  have h2 : eV v % 2 = b2n v.swp := by simp only [eV]; omega
  have h3 : vloc (eV v) = some v.loc := vloc_eLoc _ _ _ (Part.code_lt _) (b2n_lt _)
  simp only [pV, h1, h2, h3, Part.ofCode_code, b2n_eq_one]

@[simp] theorem pVI_eVI (k : Fin 5) (x : VOp) : pVI k (eVI x) = .ok x := by
  rcases x with x | v
  · simp [pVI, eVI, Nat.not_le.mpr (eV_lt x)]
  · simp [pVI, eVI, eI]

@[simp] theorem pVL_eVL (k : Fin 5) (x : VLm) : pVL k (eVL x) = .ok x := by
  rcases x with x | _
  · have := eV_lt x
    simp [pVL, eVL, show eV x ≠ immMark by omega, show ¬ immMark < eV x by omega]
  · rfl

@[simp] theorem pVZ_eVZ (k : Fin 5) (x : Option VSrc) : pVZ k (eVZ x) = .ok x := by
  rcases x with _ | x
  · rfl
  · have := eV_lt x
    simp [pVZ, eVZ, show eV x ≠ immMark by omega, show ¬ immMark < eV x by omega]

@[simp] theorem pR_eR (k : Fin 5) (x : Ref) : pR k (eR x) = .ok x := by
  rcases x with n | x
  · simp [pR, eR, n.isLt]
  · simp [pR, eR, Nat.not_le.mpr (eS_lt x)]

@[simp] theorem pRep_eRep (k : Fin 5) (x : Rep) : pRep k (eRep x) = .ok x := by
  rcases x with n | x
  · simp [pRep, eRep, n.isLt]
  · simp [pRep, eRep, Nat.not_le.mpr (eS_lt x)]

@[simp] theorem pT_eT (k : Fin 5) (x : TileRef) : pT k (eT x) = .ok x := by
  rcases x with n | x
  · simp [pT, eT, n.isLt]
  · simp [pT, eT, Nat.not_le.mpr (eS_lt x)]

@[simp] theorem pLw_eLw (k : Fin 5) (x : Lw) (h : x.ok = true) : pLw k (eLw x) = .ok x := by
  rcases x with v | x
  · have h' : v.toNat / 4096 % 4 ≠ 3 := by
      simpa [Lw.ok, fld, Nat.shiftRight_eq_div_pow] using h
    simp [pLw, eLw, eI, h']
  · simp [pLw, eLw, Nat.not_le.mpr (eS_lt x)]

@[simp] theorem pSD_eSD (d : SDst) : pSD d.wb (eSD d) = .ok d := by
  rcases d with _ | n
  · rfl
  · simp only [pSD, SDst.wb, eSD, Option.isSome, b2n_true, Nat.one_ne_zero, if_false]
    rw [pN_eN 0 64 (by decide)]; rfl

@[simp] theorem pVD_eVD (d : VDst) : pVD d.wb (eVD d) = .ok d := by
  rcases d with _ | n | n
  · rfl
  · have := n.isLt
    have h1 : n.val * 64 % 64 = 0 := by omega
    show pVD 1 (n.val * 64) = _
    unfold pVD
    rw [if_neg (by decide), if_neg (by omega), if_pos (by omega), Nat.mul_div_cancel _ (by decide), fin_back]
  · have := n.isLt
    have h2 : (65536 + n.val * 64) / 64 - 1024 = n.val := by omega
    show pVD 1 (65536 + n.val * 64) = _
    unfold pVD
    rw [h2, if_neg (by decide), if_neg (by omega), if_neg (by omega), if_pos (by omega), fin_back]

theorem pReq_eN (n : Nat) [NeZero n] (hn : n ≤ 1024) (x : Fin n) : pReq n 1 (eN x.val) = .ok x := pN_eN 0 n hn x

@[simp] theorem pReq8 (x : Fin 8) : pReq 8 1 (eN x.val) = .ok x := pReq_eN 8 (by decide) x
@[simp] theorem pReq16 (x : Fin 16) : pReq 16 1 (eN x.val) = .ok x := pReq_eN 16 (by decide) x
@[simp] theorem pReq64 (x : Fin 64) : pReq 64 1 (eN x.val) = .ok x := pReq_eN 64 (by decide) x
@[simp] theorem pN8 (k : Fin 5) (x : Fin 8) : pN k 8 (eN x.val) = .ok x := pN_eN k 8 (by decide) x
@[simp] theorem pN16 (k : Fin 5) (x : Fin 16) : pN k 16 (eN x.val) = .ok x := pN_eN k 16 (by decide) x
@[simp] theorem pN64 (k : Fin 5) (x : Fin 64) : pN k 64 (eN x.val) = .ok x := pN_eN k 64 (by decide) x
@[simp] theorem pN96 (k : Fin 5) (x : Fin 96) : pN k 96 (eN x.val) = .ok x := pN_eN k 96 (by decide) x

@[simp] theorem pKind_eM (k : Fin 5) (lim m : Nat) (h : m < lim) : pKind k lim (eM m) = .ok m := by
  simp [pKind, h]

@[simp] theorem pVP_eV (k : Fin 5) (v : VSrc) (h : v.plain = true) : pVP k (eV v) = .ok v := by
  simp [pVP, h]

@[simp] theorem pPOp_ePOp (k : Fin 5) (x : PredOp) : pPOp k (ePOp x) = .ok x := by
  rcases x with n | b
  · have := n.isLt
    have h : ¬ immMark ≤ eN n.val := by simp only [eN, immMark]; omega
    simp [pPOp, ePOp, h]
  · cases b <;> rfl

@[simp] theorem mfsName_back (x : MfsName) : mfsName x.num x.kind = some x := by
  rcases x with r | n | n
  · simp [mfsName, MfsName.num, MfsName.kind]
  · simp [mfsName, MfsName.num, MfsName.kind, n.isLt]
  · simp [mfsName, MfsName.num, MfsName.kind, n.isLt]

theorem MfsName.num_lt (x : MfsName) : x.num < 1024 := by
  rcases x with r | n | n
  · have := r.code_lt; simp only [MfsName.num]; omega
  · have := n.isLt; simp only [MfsName.num]; omega
  · have := n.isLt; simp only [MfsName.num]; omega

theorem MfsName.kind_lt (x : MfsName) : x.kind < 3 := by rcases x with r | n | n <;> simp [MfsName.kind]

@[simp] theorem fifoName_back (x : FifoName) : fifoName x.num x.kind = some x := by
  rcases x with n | n <;> simp [fifoName, FifoName.num, FifoName.kind, n.isLt]

theorem FifoName.num_lt (x : FifoName) : x.num < 1024 := by
  rcases x with n | n <;> have := n.isLt <;> simp only [FifoName.num] <;> omega

theorem FifoName.kind_lt (x : FifoName) : x.kind < 2 := by rcases x with n | n <;> simp [FifoName.kind]

@[simp] theorem pComb_eM (k : Comb3) : pComb (eM k.code) = .ok k := by simp [pComb]

@[simp] theorem ldaMod_eLdaMod (k : Fin 5) (dbl : Bool) (sc : Scope) :
    ldaMod k (eLdaMod dbl sc) = .ok (dbl, sc) := by
  cases dbl <;> cases sc <;> rfl

@[simp] theorem pCas_eCas (op : AmoOp) (c : Option SOp) (h : c.isSome = decide (op = .cas)) :
    pCas op (eCas c) = .ok c := by
  rcases c with _ | c
  · have : op ≠ .cas := by intro e; simp [e] at h
    simp [pCas, eCas, this]
  · have : op = .cas := by simpa using h
    simp [pCas, eCas, this]

theorem pAmoD_of {d e : Nat} {op : AmoOp} (h : AmoOp.ofCode ((e - immMark) % 16) = some op) : pAmoD d e = pCas op d := by
  rw [pAmoD, h]
  rfl

theorem pAmoD_eCas (op : AmoOp) (dbl : Bool) (ord : AmoOrd) (sc : Scope) (c : Option SOp) (h : c.isSome = decide (op = .cas)) :
    pAmoD (eCas c) (eAmo op dbl ord sc) = .ok c := by
  have h1 := op.code_lt
  have e1 : (op.code + b2n (!dbl) * 16 + ord.code * 32 + sc.code * 128) % 16 = op.code := by omega
  rw [pAmoD_of (op := op), pCas_eCas op c h]
  unfold eAmo eM
  generalize op.code + b2n (!dbl) * 16 + ord.code * 32 + sc.code * 128 = x at e1
  rw [Nat.add_sub_cancel_left, e1, AmoOp.ofCode_code]

@[simp] theorem amoSlot_eAmo (op : AmoOp) (dbl : Bool) (ord : AmoOrd) (sc : Scope)
    (h : ¬ (op = .fadd ∧ dbl = true)) : amoSlot (eAmo op dbl ord sc) = some ⟨op, dbl, ord, sc⟩ := by
  have h1 := op.code_lt
  have h2 := ord.code_lt
  have h3 := sc.code_lt
  have h4 := b2n_lt (!dbl)
  have e1 : (op.code + b2n (!dbl) * 16 + ord.code * 32 + sc.code * 128) % 16 = op.code := by omega
  have e2 : (op.code + b2n (!dbl) * 16 + ord.code * 32 + sc.code * 128) / 32 % 4 = ord.code := by omega
  have e3 : (op.code + b2n (!dbl) * 16 + ord.code * 32 + sc.code * 128) / 128 = sc.code := by omega
  have e4 : (op.code + b2n (!dbl) * 16 + ord.code * 32 + sc.code * 128) / 16 % 2 = b2n (!dbl) := by omega
  unfold amoSlot eAmo eM
  rw [if_pos (Nat.le_add_right ..), Nat.add_sub_cancel_left]
  simp only [amoMod, e1, e2, e3, e4, AmoOp.ofCode_code, AmoOrd.ofCode_code, Scope.ofCode_code]
  cases dbl
  · simp
  · have : op ≠ .fadd := fun e => h ⟨e, rfl⟩
    simp [this]

/-! ## The header -/

@[simp] theorem pHead_enc (cls : Cls) (wr : WbRule) (opc : Nat) (h : Head) (wb a b c d e : Nat)
    (hk : h.ok cls = true) (hw : wr.ok wb = true) : pHead cls wr (enc opc h wb a b c d e) = .ok h := by
  simp only [Head.ok] at hk
  simp only [pHead, enc, Hint.ofCode_code, BitVec.ofNat_toNat, BitVec.setWidth_eq, hk, hw, fin_back, ne_eq,
    not_true_eq_false, if_false, Bool.not_true, Bool.false_eq_true]
  rcases h with ⟨ga, gan, gb, gbn, ch, stall, yld, pb, pa⟩
  cases gan <;> cases gbn <;> cases yld <;> rfl

@[simp] theorem wbOk_sdst (d : SDst) : WbRule.any.ok d.wb = true := by cases d <;> rfl
@[simp] theorem wbOk_vdst (d : VDst) : WbRule.any.ok d.wb = true := by cases d <;> rfl

@[simp] theorem pHead_zero (cls : Cls) (opc : Nat) (h : Head) (a b c d e : Nat) (hk : h.ok cls = true) :
    pHead cls .zero (enc opc h 0 a b c d e) = .ok h := pHead_enc cls .zero opc h 0 a b c d e hk rfl

@[simp] theorem pHead_one (cls : Cls) (opc : Nat) (h : Head) (a b c d e : Nat) (hk : h.ok cls = true) :
    pHead cls .one (enc opc h 1 a b c d e) = .ok h := pHead_enc cls .one opc h 1 a b c d e hk rfl

/-! ## A written word's fields -/

@[simp] theorem enc_opc (o : Nat) (h : Head) (w a b c d e : Nat) : (enc o h w a b c d e).opc = o := rfl
@[simp] theorem enc_wb (o : Nat) (h : Head) (w a b c d e : Nat) : (enc o h w a b c d e).wb = w := rfl
@[simp] theorem enc_a (o : Nat) (h : Head) (w a b c d e : Nat) : (enc o h w a b c d e).a = a := rfl
@[simp] theorem enc_b (o : Nat) (h : Head) (w a b c d e : Nat) : (enc o h w a b c d e).b = b := rfl
@[simp] theorem enc_c (o : Nat) (h : Head) (w a b c d e : Nat) : (enc o h w a b c d e).c = c := rfl
@[simp] theorem enc_d (o : Nat) (h : Head) (w a b c d e : Nat) : (enc o h w a b c d e).d = d := rfl
@[simp] theorem enc_e (o : Nat) (h : Head) (w a b c d e : Nat) : (enc o h w a b c d e).e = e := rfl

/-! ## The word -/

/-- Every field lies within its bits (06 R79). -/
def Raw.fits (r : Raw) : Prop :=
  r.opc < 1024 ∧ r.ga < 16 ∧ r.gan < 2 ∧ r.gb < 16 ∧ r.gbn < 2 ∧ r.ch < 8 ∧ r.stall < 16 ∧ r.yld < 2 ∧ r.pb < 4 ∧
  r.pa < 4 ∧ r.wb < 4 ∧ r.rsv < 16 ∧ r.a < 262144 ∧ r.b < 262144 ∧ r.c < 262144 ∧ r.d < 262144 ∧ r.e < 262144

theorem enc_fits (opc : Nat) (h : Head) (wb a b c d e : Nat) (ho : opc < 1024) (hw : wb < 4) (ha : a < 262144)
    (hb : b < 262144) (hc : c < 262144) (hd : d < 262144) (he : e < 262144) : (enc opc h wb a b c d e).fits :=
  ⟨ho, h.ga.isLt, b2n_lt _, h.gb.isLt, b2n_lt _, h.ch.code_lt, h.stall.isLt, b2n_lt _, h.pb.isLt, h.pa.isLt, hw,
    Nat.zero_lt_succ _, ha, hb, hc, hd, he⟩

/-- A word built from fields within their bits is taken apart into the same fields. -/
theorem Raw.ofWord_toWord (r : Raw) (h : r.fits) : Raw.ofWord r.toWord = r := by
  obtain ⟨h1, h2, h3, h4, h5, h6, h7, h8, h9, h10, h11, h12, h13, h14, h15, h16, h17⟩ := h
  rcases r with ⟨opc, ga, gan, gb, gbn, ch, stall, yld, pb, pa, wb, rsv, a, b, c, d, e⟩
  simp only at h1 h2 h3 h4 h5 h6 h7 h8 h9 h10 h11 h12 h13 h14 h15 h16 h17
  simp only [Raw.ofWord, Raw.toWord, fld, BitVec.toNat_ofNat, Nat.shiftRight_eq_div_pow, Raw.mk.injEq]
  refine ⟨?_, ?_, ?_, ?_, ?_, ?_, ?_, ?_, ?_, ?_, ?_, ?_, ?_, ?_, ?_, ?_, ?_⟩ <;> omega

/-! ## Bounds of the slots -/

theorem eI_lt (v : W16) : eI v < 262144 := by have := v.isLt; simp only [eI, immMark]; omega
theorem eM_lt {m : Nat} (h : m < 65536) : eM m < 262144 := by simp only [eM, immMark]; omega
theorem eN_lt {n : Nat} (h : n < 1024) : eN n < 262144 := by simp only [eN]; omega
theorem eS_lt' (x : SSrc) : eS x < 262144 := by have := eS_lt x; simp only [immMark] at this; omega
theorem eSI_lt (x : SOp) : eSI x < 262144 := by
  rcases x with x | v
  · exact eS_lt' x
  · exact eI_lt v
theorem eV_lt' (x : VSrc) : eV x < 262144 := by have := eV_lt x; simp only [immMark] at this; omega
theorem eVI_lt (x : VOp) : eVI x < 262144 := by
  rcases x with x | v
  · exact eV_lt' x
  · exact eI_lt v
theorem eVL_lt (x : VLm) : eVL x < 262144 := by
  rcases x with x | _
  · exact eV_lt' x
  · exact Nat.lt_of_sub_pos (by decide)
theorem eVZ_lt (x : Option VSrc) : eVZ x < 262144 := by
  rcases x with _ | x
  · exact Nat.lt_of_sub_pos (by decide)
  · exact eV_lt' x
theorem eR_lt (x : Ref) : eR x < 262144 := by
  rcases x with n | x
  case src => exact eS_lt' x
  have := n.isLt
  simp only [eR, immMark]; omega
theorem eRep_lt (x : Rep) : eRep x < 262144 := by
  rcases x with n | x
  case src => exact eS_lt' x
  have := n.isLt
  simp only [eRep, immMark]; omega
theorem eT_lt (x : TileRef) : eT x < 262144 := by
  rcases x with n | x
  case src => exact eS_lt' x
  have := n.isLt
  simp only [eT, immMark]; omega
theorem eLw_lt (x : Lw) : eLw x < 262144 := by
  rcases x with v | x
  · exact eI_lt v
  · exact eS_lt' x
theorem eSD_lt (d : SDst) : eSD d < 262144 := by
  rcases d with _ | n
  · exact Nat.zero_lt_succ _
  · exact eN_lt (Nat.lt_trans n.isLt (by decide))
theorem eVD_lt (d : VDst) : eVD d < 262144 := by
  rcases d with _ | n | n
  · exact Nat.zero_lt_succ _
  · exact eN_lt n.isLt
  · have := n.isLt
    simp only [eVD]; omega
theorem ePOp_lt (x : PredOp) : ePOp x < 262144 := by
  rcases x with n | b
  · exact eN_lt (Nat.lt_trans n.isLt (by decide))
  · cases b <;> exact Nat.lt_of_sub_pos (by decide)
theorem eCas_lt (c : Option SOp) : eCas c < 262144 := by
  rcases c with _ | c
  · exact Nat.zero_lt_succ _
  · exact eSI_lt c
theorem eAmo_lt (op : AmoOp) (dbl : Bool) (ord : AmoOrd) (sc : Scope) : eAmo op dbl ord sc < 262144 := by
  have := op.code_lt
  have := ord.code_lt
  have := sc.code_lt
  have := b2n_lt (!dbl)
  exact eM_lt (by omega)
theorem eLdaMod_lt (dbl : Bool) (sc : Scope) : eLdaMod dbl sc < 262144 := by
  have := sc.code_lt
  have := b2n_lt dbl
  exact eM_lt (by omega)
theorem sdstWb_lt (d : SDst) : d.wb < 4 := Nat.lt_trans (b2n_lt _) (by decide)
theorem vdstWb_lt (d : VDst) : d.wb < 4 := by cases d <;> simp [VDst.wb]

/-! ## Forms shared by several opcodes -/

theorem fZ_back (mk : Head → Instr) (o : Nat) {h : Head} (hk : h.ok .other = true) :
    fZ mk (enc o h 0 0 0 0 0 0) = .ok (mk h) := by simp [fZ, hk]

theorem fS_back (mk : Head → SSrc → Instr) (o : Nat) {h : Head} (a : SSrc) (hk : h.ok .other = true) :
    fS mk (enc o h 0 0 (eS a) 0 0 0) = .ok (mk h a) := by simp [fS, hk]

theorem fDSS_back (mk : Head → SDst → SSrc → SOp → Instr) (o : Nat) {h : Head} (d : SDst) (a : SSrc) (b : SOp)
    (hk : h.ok .other = true) : fDSS mk (eDSS o h d a b) = .ok (mk h d a b) := by simp [fDSS, eDSS, hk]

theorem fDS_back (mk : Head → SDst → SSrc → Instr) (o : Nat) {h : Head} (d : SDst) (a : SSrc)
    (hk : h.ok .other = true) : fDS mk (eDS o h d a) = .ok (mk h d a) := by simp [fDS, eDS, hk]

theorem fDSI_back (mk : Head → SDst → SOp → Instr) (o : Nat) {h : Head} (d : SDst) (a : SOp)
    (hk : h.ok .other = true) : fDSI mk (enc o h d.wb (eSD d) (eSI a) 0 0 0) = .ok (mk h d a) := by simp [fDSI, hk]

theorem fPPP_back (mk : Head → Fin 16 → Fin 16 → Fin 16 → Instr) (o : Nat) {h : Head} (d a b : Fin 16)
    (hk : h.ok .other = true) : fPPP mk (enc o h 1 (eN d.val) (eN a.val) (eN b.val) 0 0) = .ok (mk h d a b) := by
  simp [fPPP, hk]

theorem fBar_back (mk : Head → Fin 96 → SOp → Instr) (o : Nat) {h : Head} (n : Fin 96) (c : SOp)
    (hk : h.ok .other = true) : fBar mk (enc o h 0 0 (eN n.val) (eSI c) 0 0) = .ok (mk h n c) := by simp [fBar, hk]

theorem fBoPh_back (mk : Head → SOp → SOp → Instr) (o : Nat) {h : Head} (bo ph : SOp)
    (hk : (h.ok .other && bo.below 4096) = true) :
    fBoPh mk (enc o h 0 0 (eSI bo) (eSI ph) 0 0) = .ok (mk h bo ph) := by
  simp only [Bool.and_eq_true] at hk
  simp [fBoPh, hk, pBelow_of hk.2]

theorem fExt_back (mk : Head → SDst → SSrc → W16 → Instr) (o : Nat) {h : Head} (d : SDst) (a : SSrc) (w : W16)
    (hk : (h.ok .other && decide (1 ≤ w.toNat ∧ w.toNat ≤ 64)) = true) :
    fExt mk (enc o h d.wb (eSD d) (eS a) (eI w) 0 0) = .ok (mk h d a w) := by
  simp only [Bool.and_eq_true, decide_eq_true_eq] at hk
  simp [fExt, hk]

theorem fFifo_back (mk : Head → FifoName → Instr) (o : Nat) {h : Head} (n : FifoName) (hk : h.ok .other = true) :
    fFifo mk (enc o h 0 0 (eN n.num) (eM n.kind) 0 0) = .ok (mk h n) := by
  simp [fFifo, hk, n.num_lt, n.kind_lt]

@[simp] theorem rmDet_code (k : Fin 5) (rm : RM) (h : rm.det = true) : rmDet k rm.code = .ok rm := by
  simp [rmDet, RM.code_det h]

theorem fV3r_back (mk : Head → VDst → VSrc → VOp → Fin 8 → RM → Bool → Instr) (o : Nat) {h : Head} (d : VDst)
    (b : VSrc) (c : VOp) (m : Fin 8) (rm : RM) (sat : Bool) (hk : (h.ok .vxe && rm.det) = true) :
    fV3r mk (eV3 o h d b c (m.val + rm.code * 8 + b2n sat * 64)) = .ok (mk h d b c m rm sat) := by
  simp only [Bool.and_eq_true] at hk
  have := m.isLt
  have := RM.code_det hk.2
  have := b2n_lt sat
  have e1 : (m.val + rm.code * 8 + b2n sat * 64) / 8 % 8 = rm.code := by omega
  have e2 : (m.val + rm.code * 8 + b2n sat * 64) % 8 = m.val := by omega
  have e3 : (m.val + rm.code * 8 + b2n sat * 64) / 64 = b2n sat := by omega
  have e4 : m.val + rm.code * 8 + b2n sat * 64 < 128 := by omega
  simp [fV3r, eV3, hk, e1, e2, e3, e4]

theorem fV3_back (mk : Head → VDst → VSrc → VOp → Fin 8 → Instr) (o : Nat) {h : Head} (d : VDst) (b : VSrc) (c : VOp)
    (m : Fin 8) (hk : h.ok .vxe = true) : fV3 mk (eV3 o h d b c m.val) = .ok (mk h d b c m) := by
  simp [fV3, eV3, hk, m.isLt]

theorem fV4_back (mk : Head → VDst → VSrc → VOp → VOp → Instr) (o : Nat) {h : Head} (d : VDst) (b : VSrc) (c e : VOp)
    (hk : h.ok .vxe = true) : fV4 mk (eV4 o h d b c e) = .ok (mk h d b c e) := by simp [fV4, eV4, hk]

theorem fV2_back (mk : Head → VDst → VSrc → Fin 8 → Instr) (o : Nat) {h : Head} (d : VDst) (b : VSrc) (m : Fin 8)
    (hk : h.ok .vxe = true) : fV2 mk (eV2 o h d b m.val) = .ok (mk h d b m) := by simp [fV2, eV2, hk, m.isLt]

theorem fV2r_back (mk : Head → VDst → VSrc → Fin 8 → RM → Instr) (o : Nat) {h : Head} (d : VDst) (b : VSrc)
    (m : Fin 8) (rm : RM) (hk : (h.ok .vxe && rm.det) = true) :
    fV2r mk (eV2 o h d b (m.val + rm.code * 8)) = .ok (mk h d b m rm) := by
  simp only [Bool.and_eq_true] at hk
  have := m.isLt
  have e1 : (m.val + rm.code * 8) / 8 = rm.code := by omega
  have e2 : (m.val + rm.code * 8) % 8 = m.val := by omega
  simp [fV2r, eV2, hk, e1, e2]

theorem fDot_back (mk : Head → VDst → VSrc → VSrc → VOp → Instr) (o : Nat) {h : Head} (d : VDst) (a b : VSrc)
    (c : VOp) (hk : h.ok .vxe = true) :
    fDot mk (enc o h d.wb (eVD d) (eV a) (eV b) (eVI c) 0) = .ok (mk h d a b c) := by simp [fDot, hk]

theorem below_immediate (k : SOp) : k.below 65536 = true := by
  rcases k with x | v
  · rfl
  · simp [SOp.below, v.isLt]

theorem fVK_back (lim : Nat) (mk : Head → VDst → VSrc → SOp → Fin 8 → Instr) (o : Nat) {h : Head} (d : VDst)
    (b : VSrc) (k : SOp) (m : Fin 8) (hk : (h.ok .vxe && k.below lim) = true) :
    fVK lim mk (enc o h d.wb (eVD d) (eV b) (eSI k) (eM m.val) 0) = .ok (mk h d b k m) := by
  simp only [Bool.and_eq_true] at hk
  simp [fVK, hk, pBelow_of hk.2, m.isLt]

theorem fRed_back (scan : Bool) (mk : Head → VDst → VSrc → Fin 8 → RM → RedKind → Instr) (o : Nat) {h : Head}
    (d : VDst) (b : VSrc) (m : Fin 8) (rm : RM) (k : RedKind) (hk : (h.ok .vxe && rm.det) = true)
    (hb : k.bitwise = false ∨ scan = false ∧ rm = .rne) :
    fRed scan mk (eV2 o h d b (m.val + rm.code * 8 + k.code * 128)) = .ok (mk h d b m rm k) := by
  simp only [Bool.and_eq_true] at hk
  have := m.isLt
  have := RM.code_det hk.2
  have := k.code_lt
  have e1 : (m.val + rm.code * 8 + k.code * 128) / 8 % 8 = rm.code := by omega
  have e2 : (m.val + rm.code * 8 + k.code * 128) % 8 = m.val := by omega
  have e3 : (m.val + rm.code * 8 + k.code * 128) / 128 = k.code := by omega
  have e4 : (m.val + rm.code * 8 + k.code * 128) / 64 % 2 = 0 := by omega
  simp [fRed, eV2, hk, e1, e2, e3, e4, hb]

theorem fMMM_back (mk : Head → Fin 8 → Fin 8 → Fin 8 → Instr) (o : Nat) {h : Head} (d a b : Fin 8)
    (hk : h.ok .vxe = true) : fMMM mk (enc o h 1 (eN d.val) (eN a.val) (eN b.val) 0 0) = .ok (mk h d a b) := by
  simp [fMMM, hk]

theorem fMS_back (mk : Head → Fin 64 → Fin 8 → Instr) (o : Nat) {h : Head} (d : Fin 64) (a : Fin 8)
    (hk : h.ok .vxe = true) : fMS mk (enc o h 1 (eN d.val) (eN a.val) 0 0 0) = .ok (mk h d a) := by simp [fMS, hk]

theorem fCpy_back (mk : Head → Ref → Lw → Lw → α → Instr) (last : Nat → P α) (o : Nat) {h : Head} (bo : Ref)
    (dst src : Lw) (x : α) (e : Nat) (hl : last e = .ok x) (hk : (h.ok .other && dst.ok && src.ok) = true) :
    fCpy mk last (enc o h 0 0 (eR bo) (eLw dst) (eLw src) e) = .ok (mk h bo dst src x) := by
  simp only [Bool.and_eq_true] at hk
  simp [fCpy, hk, hl]

theorem fAcq_back (lim : Nat) (mk : Head → Ref → SOp → SOp → Instr) (o : Nat) {h : Head} (bo : Ref) (f v : SOp)
    (hk : (h.ok .other && f.below lim) = true) :
    fAcq lim mk (enc o h 0 0 (eR bo) (eSI f) (eSI v) 0) = .ok (mk h bo f v) := by
  simp only [Bool.and_eq_true] at hk
  simp [fAcq, hk, pBelow_of hk.2]

theorem fTS_back (mk : Head → TileRef → SSrc → Instr) (o : Nat) {h : Head} (t : TileRef) (cb : SSrc)
    (hk : h.ok .other = true) : fTS mk (eTS o h t cb 0 0) = .ok (mk h t cb) := by simp [fTS, eTS, hk]

theorem fTSV_back (mk : Head → TileRef → SSrc → VLm → Instr) (o : Nat) {h : Head} (t : TileRef) (cb : SSrc) (x : VLm)
    (hk : h.ok .other = true) : fTSV mk (eTS o h t cb (eVL x) 0) = .ok (mk h t cb x) := by simp [fTSV, eTS, hk]

theorem fTSVR_back (mk : Head → TileRef → SSrc → VLm → Rep → Instr) (o : Nat) {h : Head} (t : TileRef) (cb : SSrc)
    (x : VLm) (rep : Rep) (hk : (h.ok .other && repLm x rep) = true) :
    fTSVR mk (eTS o h t cb (eVL x) (eRep rep)) = .ok (mk h t cb x rep) := by
  simp only [Bool.and_eq_true] at hk
  simp [fTSVR, eTS, hk]

theorem fSf_back (mk : Head → Ref → SSrc → Bool → Rep → Instr) (o : Nat) {h : Head} (bo : Ref) (cb : SSrc)
    (acc : Bool) (rep : Rep) (hk : h.ok .other = true) : fSf mk (eSf o h bo cb acc rep) = .ok (mk h bo cb acc rep) := by
  cases acc <;> simp [fSf, eSf, hk]

theorem fXfence_back {h : Head} (t : TileRef) (bo : SOp) (all : Bool) (mode : Nat) (hm : mode < 3)
    (hk : (h.ok .other && xfenceOk t bo all) = true) :
    fXfence (eXfence h t bo mode all) = .ok (if mode = 0 then .xfenceDrain h t bo all
      else if mode = 1 then .xfenceHold h t bo all else .xfenceRel h t bo all) := by
  simp only [Bool.and_eq_true, xfenceOk, Bool.or_eq_true, Bool.not_eq_true', decide_eq_true_eq] at hk
  obtain ⟨h1, h2, h3⟩ := hk
  cases all
  · match mode, hm with
    | 0, _ | 1, _ | 2, _ => simp [fXfence, eXfence, h1, pBelow_of h3, eM, immMark, pKind, pM]
  · have ht : t = .imm 0 := by simpa using h2
    subst ht
    match mode, hm with
    | 0, _ | 1, _ | 2, _ => simp [fXfence, eXfence, h1, pBelow_of h3, eM, immMark, pKind, pM]

theorem dist32_back (v : W32) : dist32 (v.extractLsb' 16 16) (v.extractLsb' 0 16) = v := by
  apply BitVec.eq_of_getLsbD_eq
  intro i hi
  simp only [dist32, BitVec.getLsbD_append, BitVec.getLsbD_extractLsb']
  split
  · simp [*]
  · simp [show i - 16 < 16 by omega, show 16 + (i - 16) = i by omega]

theorem quarters_back (v : W64) :
    (v.extractLsb' 48 16 ++ v.extractLsb' 32 16 ++ v.extractLsb' 16 16 ++ v.extractLsb' 0 16 : W64) = v := by
  apply BitVec.eq_of_getLsbD_eq
  intro i hi
  simp only [BitVec.getLsbD_append, BitVec.getLsbD_extractLsb']
  split
  · simp [*]
  · split
    · simp [*, show 16 + (i - 16) = i by omega]
    · split
      · simp [*, show 32 + (i - 16 - 16) = i by omega]
      · simp [show i - 16 - 16 - 16 < 16 by omega, show 48 + (i - 16 - 16 - 16) = i by omega]

end Sys2Proof
end

