-- ==== Sys2Proof/Laws/Exec.lean ====
section
/-! SUPPORT. Each arm of `exec` as an equation, for rewriting. -/

namespace Sys2Proof.Machine

open Sys2Proof

theorem exec_nop {x1} (s : State) : exec (.nop x1) s = execNop x1 s := rfl
theorem exec_br {x1 x2} (s : State) : exec (.br x1 x2) s = execBr x1 x2 s := rfl
theorem exec_brc {x1 x2 x3 x4 x5} (s : State) : exec (.brc x1 x2 x3 x4 x5) s = execBrc x1 x2 x3 x4 x5 s := rfl
theorem exec_bri {x1 x2} (s : State) : exec (.bri x1 x2) s = execBri x1 x2 s := rfl
theorem exec_call {x1 x2 x3} (s : State) : exec (.call x1 x2 x3) s = execCall x1 x2 x3 s := rfl
theorem exec_ret {x1 x2} (s : State) : exec (.ret x1 x2) s = execRet x1 x2 s := rfl
theorem exec_loop {x1 x2 x3 x4} (s : State) : exec (.loop x1 x2 x3 x4) s = execLoop x1 x2 x3 x4 s := rfl
theorem exec_wait {x1} (s : State) : exec (.wait x1) s = execWait x1 s := rfl
theorem exec_yield {x1} (s : State) : exec (.yield x1) s = execYield x1 s := rfl
theorem exec_exit {x1} (s : State) : exec (.exit x1) s = execExit x1 s := rfl
theorem exec_beat {x1} (s : State) : exec (.beat x1) s = execBeat x1 s := rfl
theorem exec_phase {x1 x2} (s : State) : exec (.phase x1 x2) s = execPhase x1 x2 s := rfl
theorem exec_lock {x1} (s : State) : exec (.lock x1) s = execLock x1 s := rfl
theorem exec_bara {x1 x2 x3 x4} (s : State) : exec (.bara x1 x2 x3 x4) s = execBara x1 x2 x3 x4 s := rfl
theorem exec_barw {x1 x2 x3} (s : State) : exec (.barw x1 x2 x3) s = execBarw x1 x2 x3 s := rfl
theorem exec_baraw {x1 x2 x3} (s : State) : exec (.baraw x1 x2 x3) s = execBaraw x1 x2 x3 s := rfl
theorem exec_tokin {x1 x2 x3} (s : State) : exec (.tokin x1 x2 x3) s = execTokin x1 x2 x3 s := rfl
theorem exec_tokout {x1 x2 x3 x4} (s : State) : exec (.tokout x1 x2 x3 x4) s = execTokout x1 x2 x3 x4 s := rfl
theorem exec_stamp {x1 x2 x3} (s : State) : exec (.stamp x1 x2 x3) s = execStamp x1 x2 x3 s := rfl
theorem exec_tsr {x1 x2 x3} (s : State) : exec (.tsr x1 x2 x3) s = execTsr x1 x2 x3 s := rfl
theorem exec_sleepc {x1 x2} (s : State) : exec (.sleepc x1 x2) s = execSleepc x1 x2 s := rfl
theorem exec_sleepp {x1 x2 x3} (s : State) : exec (.sleepp x1 x2 x3) s = execSleepp x1 x2 x3 s := rfl
theorem exec_waitp {x1 x2 x3} (s : State) : exec (.waitp x1 x2 x3) s = execWaitp x1 x2 x3 s := rfl
theorem exec_trap {x1 x2} (s : State) : exec (.trap x1 x2) s = execTrap x1 x2 s := rfl
theorem exec_rtt {x1} (s : State) : exec (.rtt x1) s = execRtt x1 s := rfl
theorem exec_mfs {x1 x2 x3} (s : State) : exec (.mfs x1 x2 x3) s = execMfs x1 x2 x3 s := rfl
theorem exec_mts {x1 x2 x3} (s : State) : exec (.mts x1 x2 x3) s = execMts x1 x2 x3 s := rfl
theorem exec_loc {x1 x2 x3 x4} (s : State) : exec (.loc x1 x2 x3 x4) s = execLoc x1 x2 x3 x4 s := rfl
theorem exec_fence {x1 x2 x3 x4} (s : State) : exec (.fence x1 x2 x3 x4) s = execFence x1 x2 x3 x4 s := rfl
theorem exec_fsc {x1 x2} (s : State) : exec (.fsc x1 x2) s = execFsc x1 x2 s := rfl
theorem exec_mark {x1} (s : State) : exec (.mark x1) s = execMark x1 s := rfl
theorem exec_tfence {x1 x2} (s : State) : exec (.tfence x1 x2) s = execTfence x1 x2 s := rfl
theorem exec_rcfence {x1 x2} (s : State) : exec (.rcfence x1 x2) s = execRcfence x1 x2 s := rfl
theorem exec_icfence {x1} (s : State) : exec (.icfence x1) s = execIcfence x1 s := rfl
theorem exec_li {x1 x2 x3} (s : State) : exec (.li x1 x2 x3) s = execLi x1 x2 x3 s := rfl
theorem exec_mov {x1 x2 x3} (s : State) : exec (.mov x1 x2 x3) s = execMov x1 x2 x3 s := rfl
theorem exec_add {x1 x2 x3 x4} (s : State) : exec (.add x1 x2 x3 x4) s = execAdd x1 x2 x3 x4 s := rfl
theorem exec_sub {x1 x2 x3 x4} (s : State) : exec (.sub x1 x2 x3 x4) s = execSub x1 x2 x3 x4 s := rfl
theorem exec_mul {x1 x2 x3 x4} (s : State) : exec (.mul x1 x2 x3 x4) s = execMul x1 x2 x3 x4 s := rfl
theorem exec_mulh {x1 x2 x3 x4} (s : State) : exec (.mulh x1 x2 x3 x4) s = execMulh x1 x2 x3 x4 s := rfl
theorem exec_mulhu {x1 x2 x3 x4} (s : State) : exec (.mulhu x1 x2 x3 x4) s = execMulhu x1 x2 x3 x4 s := rfl
theorem exec_div {x1 x2 x3 x4} (s : State) : exec (.div x1 x2 x3 x4) s = execDiv x1 x2 x3 x4 s := rfl
theorem exec_divu {x1 x2 x3 x4} (s : State) : exec (.divu x1 x2 x3 x4) s = execDivu x1 x2 x3 x4 s := rfl
theorem exec_rem {x1 x2 x3 x4} (s : State) : exec (.rem x1 x2 x3 x4) s = execRem x1 x2 x3 x4 s := rfl
theorem exec_remu {x1 x2 x3 x4} (s : State) : exec (.remu x1 x2 x3 x4) s = execRemu x1 x2 x3 x4 s := rfl
theorem exec_and {x1 x2 x3 x4} (s : State) : exec (.and x1 x2 x3 x4) s = execAnd x1 x2 x3 x4 s := rfl
theorem exec_or {x1 x2 x3 x4} (s : State) : exec (.or x1 x2 x3 x4) s = execOr x1 x2 x3 x4 s := rfl
theorem exec_xor {x1 x2 x3 x4} (s : State) : exec (.xor x1 x2 x3 x4) s = execXor x1 x2 x3 x4 s := rfl
theorem exec_andn {x1 x2 x3 x4} (s : State) : exec (.andn x1 x2 x3 x4) s = execAndn x1 x2 x3 x4 s := rfl
theorem exec_shl {x1 x2 x3 x4} (s : State) : exec (.shl x1 x2 x3 x4) s = execShl x1 x2 x3 x4 s := rfl
theorem exec_shr {x1 x2 x3 x4} (s : State) : exec (.shr x1 x2 x3 x4) s = execShr x1 x2 x3 x4 s := rfl
theorem exec_sar {x1 x2 x3 x4} (s : State) : exec (.sar x1 x2 x3 x4) s = execSar x1 x2 x3 x4 s := rfl
theorem exec_rol {x1 x2 x3 x4} (s : State) : exec (.rol x1 x2 x3 x4) s = execRol x1 x2 x3 x4 s := rfl
theorem exec_clz {x1 x2 x3} (s : State) : exec (.clz x1 x2 x3) s = execClz x1 x2 x3 s := rfl
theorem exec_ctz {x1 x2 x3} (s : State) : exec (.ctz x1 x2 x3) s = execCtz x1 x2 x3 s := rfl
theorem exec_popc {x1 x2 x3} (s : State) : exec (.popc x1 x2 x3) s = execPopc x1 x2 x3 s := rfl
theorem exec_abs {x1 x2 x3} (s : State) : exec (.abs x1 x2 x3) s = execAbs x1 x2 x3 s := rfl
theorem exec_min {x1 x2 x3 x4} (s : State) : exec (.min x1 x2 x3 x4) s = execMin x1 x2 x3 x4 s := rfl
theorem exec_max {x1 x2 x3 x4} (s : State) : exec (.max x1 x2 x3 x4) s = execMax x1 x2 x3 x4 s := rfl
theorem exec_minu {x1 x2 x3 x4} (s : State) : exec (.minu x1 x2 x3 x4) s = execMinu x1 x2 x3 x4 s := rfl
theorem exec_maxu {x1 x2 x3 x4} (s : State) : exec (.maxu x1 x2 x3 x4) s = execMaxu x1 x2 x3 x4 s := rfl
theorem exec_sel {x1 x2 x3 x4 x5} (s : State) : exec (.sel x1 x2 x3 x4 x5) s = execSel x1 x2 x3 x4 x5 s := rfl
theorem exec_cmp {x1 x2 x3 x4 x5} (s : State) : exec (.cmp x1 x2 x3 x4 x5) s = execCmp x1 x2 x3 x4 x5 s := rfl
theorem exec_sext {x1 x2 x3 x4} (s : State) : exec (.sext x1 x2 x3 x4) s = execSext x1 x2 x3 x4 s := rfl
theorem exec_zext {x1 x2 x3 x4} (s : State) : exec (.zext x1 x2 x3 x4) s = execZext x1 x2 x3 x4 s := rfl
theorem exec_aidx {x1 x2 x3 x4 x5} (s : State) : exec (.aidx x1 x2 x3 x4 x5) s = execAidx x1 x2 x3 x4 x5 s := rfl
theorem exec_bfx {x1 x2 x3 x4 x5} (s : State) : exec (.bfx x1 x2 x3 x4 x5) s = execBfx x1 x2 x3 x4 x5 s := rfl
theorem exec_bfi {x1 x2 x3 x4 x5 x6} (s : State) : exec (.bfi x1 x2 x3 x4 x5 x6) s = execBfi x1 x2 x3 x4 x5 x6 s := rfl
theorem exec_pand {x1 x2 x3 x4} (s : State) : exec (.pand x1 x2 x3 x4) s = execPand x1 x2 x3 x4 s := rfl
theorem exec_por {x1 x2 x3 x4} (s : State) : exec (.por x1 x2 x3 x4) s = execPor x1 x2 x3 x4 s := rfl
theorem exec_pxor {x1 x2 x3 x4} (s : State) : exec (.pxor x1 x2 x3 x4) s = execPxor x1 x2 x3 x4 s := rfl
theorem exec_pnot {x1 x2 x3} (s : State) : exec (.pnot x1 x2 x3) s = execPnot x1 x2 x3 s := rfl
theorem exec_pmov {x1 x2 x3} (s : State) : exec (.pmov x1 x2 x3) s = execPmov x1 x2 x3 s := rfl
theorem exec_fcnt {x1 x2 x3} (s : State) : exec (.fcnt x1 x2 x3) s = execFcnt x1 x2 x3 s := rfl
theorem exec_fdrop {x1 x2} (s : State) : exec (.fdrop x1 x2) s = execFdrop x1 x2 s := rfl
theorem exec_fclr {x1 x2} (s : State) : exec (.fclr x1 x2) s = execFclr x1 x2 s := rfl
theorem exec_vadd {x1 x2 x3 x4 x5 x6 x7} (s : State) : exec (.vadd x1 x2 x3 x4 x5 x6 x7) s = execVadd x1 x2 x3 x4 x5 x6 x7 s := rfl
theorem exec_vsub {x1 x2 x3 x4 x5 x6 x7} (s : State) : exec (.vsub x1 x2 x3 x4 x5 x6 x7) s = execVsub x1 x2 x3 x4 x5 x6 x7 s := rfl
theorem exec_vmul {x1 x2 x3 x4 x5 x6 x7} (s : State) : exec (.vmul x1 x2 x3 x4 x5 x6 x7) s = execVmul x1 x2 x3 x4 x5 x6 x7 s := rfl
theorem exec_vfma {x1 x2 x3 x4 x5} (s : State) : exec (.vfma x1 x2 x3 x4 x5) s = execVfma x1 x2 x3 x4 x5 s := rfl
theorem exec_vfms {x1 x2 x3 x4 x5} (s : State) : exec (.vfms x1 x2 x3 x4 x5) s = execVfms x1 x2 x3 x4 x5 s := rfl
theorem exec_vnfma {x1 x2 x3 x4 x5} (s : State) : exec (.vnfma x1 x2 x3 x4 x5) s = execVnfma x1 x2 x3 x4 x5 s := rfl
theorem exec_vmin {x1 x2 x3 x4 x5} (s : State) : exec (.vmin x1 x2 x3 x4 x5) s = execVmin x1 x2 x3 x4 x5 s := rfl
theorem exec_vmax {x1 x2 x3 x4 x5} (s : State) : exec (.vmax x1 x2 x3 x4 x5) s = execVmax x1 x2 x3 x4 x5 s := rfl
theorem exec_vabs {x1 x2 x3 x4} (s : State) : exec (.vabs x1 x2 x3 x4) s = execVabs x1 x2 x3 x4 s := rfl
theorem exec_vneg {x1 x2 x3 x4} (s : State) : exec (.vneg x1 x2 x3 x4) s = execVneg x1 x2 x3 x4 s := rfl
theorem exec_vclamp {x1 x2 x3 x4 x5} (s : State) : exec (.vclamp x1 x2 x3 x4 x5) s = execVclamp x1 x2 x3 x4 x5 s := rfl
theorem exec_vcmp {x1 x2 x3 x4 x5 x6} (s : State) : exec (.vcmp x1 x2 x3 x4 x5 x6) s = execVcmp x1 x2 x3 x4 x5 x6 s := rfl
theorem exec_vsel {x1 x2 x3 x4 x5} (s : State) : exec (.vsel x1 x2 x3 x4 x5) s = execVsel x1 x2 x3 x4 x5 s := rfl
theorem exec_vand {x1 x2 x3 x4 x5} (s : State) : exec (.vand x1 x2 x3 x4 x5) s = execVand x1 x2 x3 x4 x5 s := rfl
theorem exec_vor {x1 x2 x3 x4 x5} (s : State) : exec (.vor x1 x2 x3 x4 x5) s = execVor x1 x2 x3 x4 x5 s := rfl
theorem exec_vxor {x1 x2 x3 x4 x5} (s : State) : exec (.vxor x1 x2 x3 x4 x5) s = execVxor x1 x2 x3 x4 x5 s := rfl
theorem exec_vnot {x1 x2 x3 x4} (s : State) : exec (.vnot x1 x2 x3 x4) s = execVnot x1 x2 x3 x4 s := rfl
theorem exec_vshl {x1 x2 x3 x4 x5} (s : State) : exec (.vshl x1 x2 x3 x4 x5) s = execVshl x1 x2 x3 x4 x5 s := rfl
theorem exec_vshr {x1 x2 x3 x4 x5} (s : State) : exec (.vshr x1 x2 x3 x4 x5) s = execVshr x1 x2 x3 x4 x5 s := rfl
theorem exec_vsar {x1 x2 x3 x4 x5} (s : State) : exec (.vsar x1 x2 x3 x4 x5) s = execVsar x1 x2 x3 x4 x5 s := rfl
theorem exec_vmulh {x1 x2 x3 x4 x5} (s : State) : exec (.vmulh x1 x2 x3 x4 x5) s = execVmulh x1 x2 x3 x4 x5 s := rfl
theorem exec_vclz {x1 x2 x3 x4} (s : State) : exec (.vclz x1 x2 x3 x4) s = execVclz x1 x2 x3 x4 s := rfl
theorem exec_vpopc {x1 x2 x3 x4} (s : State) : exec (.vpopc x1 x2 x3 x4) s = execVpopc x1 x2 x3 x4 s := rfl
theorem exec_vcvt {x1 x2 x3 x4 x5 x6 x7} (s : State) : exec (.vcvt x1 x2 x3 x4 x5 x6 x7) s = execVcvt x1 x2 x3 x4 x5 x6 x7 s := rfl
theorem exec_vtag {x1 x2 x3 x4 x5} (s : State) : exec (.vtag x1 x2 x3 x4 x5) s = execVtag x1 x2 x3 x4 x5 s := rfl
theorem exec_vround {x1 x2 x3 x4 x5} (s : State) : exec (.vround x1 x2 x3 x4 x5) s = execVround x1 x2 x3 x4 x5 s := rfl
theorem exec_vpack {x1 x2 x3 x4 x5 x6 x7} (s : State) : exec (.vpack x1 x2 x3 x4 x5 x6 x7) s = execVpack x1 x2 x3 x4 x5 x6 x7 s := rfl
theorem exec_vunpkl {x1 x2 x3 x4 x5} (s : State) : exec (.vunpkl x1 x2 x3 x4 x5) s = execVunpkl x1 x2 x3 x4 x5 s := rfl
theorem exec_vunpkh {x1 x2 x3 x4 x5} (s : State) : exec (.vunpkh x1 x2 x3 x4 x5) s = execVunpkh x1 x2 x3 x4 x5 s := rfl
theorem exec_vblks {x1 x2 x3 x4 x5 x6 x7} (s : State) : exec (.vblks x1 x2 x3 x4 x5 x6 x7) s = execVblks x1 x2 x3 x4 x5 x6 x7 s := rfl
theorem exec_vblkg {x1 x2 x3 x4 x5 x6 x7} (s : State) : exec (.vblkg x1 x2 x3 x4 x5 x6 x7) s = execVblkg x1 x2 x3 x4 x5 x6 x7 s := rfl
theorem exec_vacc12 {x1 x2 x3 x4 x5 x6} (s : State) : exec (.vacc12 x1 x2 x3 x4 x5 x6) s = execVacc12 x1 x2 x3 x4 x5 x6 s := rfl
theorem exec_vdot2 {x1 x2 x3 x4 x5} (s : State) : exec (.vdot2 x1 x2 x3 x4 x5) s = execVdot2 x1 x2 x3 x4 x5 s := rfl
theorem exec_vdot4 {x1 x2 x3 x4 x5} (s : State) : exec (.vdot4 x1 x2 x3 x4 x5) s = execVdot4 x1 x2 x3 x4 x5 s := rfl
theorem exec_vdot8 {x1 x2 x3 x4 x5} (s : State) : exec (.vdot8 x1 x2 x3 x4 x5) s = execVdot8 x1 x2 x3 x4 x5 s := rfl
theorem exec_vrotr {x1 x2 x3 x4 x5} (s : State) : exec (.vrotr x1 x2 x3 x4 x5) s = execVrotr x1 x2 x3 x4 x5 s := rfl
theorem exec_vrotc {x1 x2 x3 x4 x5} (s : State) : exec (.vrotc x1 x2 x3 x4 x5) s = execVrotc x1 x2 x3 x4 x5 s := rfl
theorem exec_vbcr {x1 x2 x3 x4 x5} (s : State) : exec (.vbcr x1 x2 x3 x4 x5) s = execVbcr x1 x2 x3 x4 x5 s := rfl
theorem exec_vbcc {x1 x2 x3 x4 x5} (s : State) : exec (.vbcc x1 x2 x3 x4 x5) s = execVbcc x1 x2 x3 x4 x5 s := rfl
theorem exec_vredr {x1 x2 x3 x4 x5 x6} (s : State) : exec (.vredr x1 x2 x3 x4 x5 x6) s = execVredr x1 x2 x3 x4 x5 x6 s := rfl
theorem exec_vredc {x1 x2 x3 x4 x5 x6} (s : State) : exec (.vredc x1 x2 x3 x4 x5 x6) s = execVredc x1 x2 x3 x4 x5 x6 s := rfl
theorem exec_vscanr {x1 x2 x3 x4 x5 x6} (s : State) : exec (.vscanr x1 x2 x3 x4 x5 x6) s = execVscanr x1 x2 x3 x4 x5 x6 s := rfl
theorem exec_vscanc {x1 x2 x3 x4 x5 x6} (s : State) : exec (.vscanc x1 x2 x3 x4 x5 x6) s = execVscanc x1 x2 x3 x4 x5 x6 s := rfl
theorem exec_vshfr {x1 x2 x3 x4 x5} (s : State) : exec (.vshfr x1 x2 x3 x4 x5) s = execVshfr x1 x2 x3 x4 x5 s := rfl
theorem exec_vtrb {x1 x2 x3 x4} (s : State) : exec (.vtrb x1 x2 x3 x4) s = execVtrb x1 x2 x3 x4 s := rfl
theorem exec_viota {x1 x2 x3 x4 x5 x6} (s : State) : exec (.viota x1 x2 x3 x4 x5 x6) s = execViota x1 x2 x3 x4 x5 x6 s := rfl
theorem exec_vmov {x1 x2 x3} (s : State) : exec (.vmov x1 x2 x3) s = execVmov x1 x2 x3 s := rfl
theorem exec_vsplat {x1 x2 x3 x4 x5} (s : State) : exec (.vsplat x1 x2 x3 x4 x5) s = execVsplat x1 x2 x3 x4 x5 s := rfl
theorem exec_vext {x1 x2 x3 x4 x5} (s : State) : exec (.vext x1 x2 x3 x4 x5) s = execVext x1 x2 x3 x4 x5 s := rfl
theorem exec_vins {x1 x2 x3 x4 x5} (s : State) : exec (.vins x1 x2 x3 x4 x5) s = execVins x1 x2 x3 x4 x5 s := rfl
theorem exec_vrng {x1 x2 x3 x4 x5 x6} (s : State) : exec (.vrng x1 x2 x3 x4 x5 x6) s = execVrng x1 x2 x3 x4 x5 x6 s := rfl
theorem exec_vdrop {x1 x2 x3 x4 x5 x6} (s : State) : exec (.vdrop x1 x2 x3 x4 x5 x6) s = execVdrop x1 x2 x3 x4 x5 x6 s := rfl
theorem exec_mand {x1 x2 x3 x4} (s : State) : exec (.mand x1 x2 x3 x4) s = execMand x1 x2 x3 x4 s := rfl
theorem exec_mor {x1 x2 x3 x4} (s : State) : exec (.mor x1 x2 x3 x4) s = execMor x1 x2 x3 x4 s := rfl
theorem exec_mxor {x1 x2 x3 x4} (s : State) : exec (.mxor x1 x2 x3 x4) s = execMxor x1 x2 x3 x4 s := rfl
theorem exec_mnot {x1 x2 x3} (s : State) : exec (.mnot x1 x2 x3) s = execMnot x1 x2 x3 s := rfl
theorem exec_mcnt {x1 x2 x3} (s : State) : exec (.mcnt x1 x2 x3) s = execMcnt x1 x2 x3 s := rfl
theorem exec_mfirst {x1 x2 x3} (s : State) : exec (.mfirst x1 x2 x3) s = execMfirst x1 x2 x3 s := rfl
theorem exec_ldv {x1 x2 x3 x4 x5} (s : State) : exec (.ldv x1 x2 x3 x4 x5) s = execLdv x1 x2 x3 x4 x5 s := rfl
theorem exec_stv {x1 x2 x3 x4 x5} (s : State) : exec (.stv x1 x2 x3 x4 x5) s = execStv x1 x2 x3 x4 x5 s := rfl
theorem exec_ldvt {x1 x2 x3 x4 x5} (s : State) : exec (.ldvt x1 x2 x3 x4 x5) s = execLdvt x1 x2 x3 x4 x5 s := rfl
theorem exec_ldvg {x1 x2 x3 x4 x5} (s : State) : exec (.ldvg x1 x2 x3 x4 x5) s = execLdvg x1 x2 x3 x4 x5 s := rfl
theorem exec_stvs {x1 x2 x3 x4 x5} (s : State) : exec (.stvs x1 x2 x3 x4 x5) s = execStvs x1 x2 x3 x4 x5 s := rfl
theorem exec_ldsc {x1 x2 x3 x4 x5 x6 x7} (s : State) : exec (.ldsc x1 x2 x3 x4 x5 x6 x7) s = execLdsc x1 x2 x3 x4 x5 x6 x7 s := rfl
theorem exec_stsc {x1 x2 x3 x4 x5} (s : State) : exec (.stsc x1 x2 x3 x4 x5) s = execStsc x1 x2 x3 x4 x5 s := rfl
theorem exec_lda {x1 x2 x3 x4 x5 x6} (s : State) : exec (.lda x1 x2 x3 x4 x5 x6) s = execLda x1 x2 x3 x4 x5 x6 s := rfl
theorem exec_stl {x1 x2 x3 x4 x5 x6} (s : State) : exec (.stl x1 x2 x3 x4 x5 x6) s = execStl x1 x2 x3 x4 x5 x6 s := rfl
theorem exec_ldm {x1 x2 x3 x4 x5} (s : State) : exec (.ldm x1 x2 x3 x4 x5) s = execLdm x1 x2 x3 x4 x5 s := rfl
theorem exec_stm {x1 x2 x3 x4 x5} (s : State) : exec (.stm x1 x2 x3 x4 x5) s = execStm x1 x2 x3 x4 x5 s := rfl
theorem exec_amo {x1 x2 x3 x4 x5 x6 x7 x8 x9} (s : State) : exec (.amo x1 x2 x3 x4 x5 x6 x7 x8 x9) s = execAmo x1 x2 x3 x4 x5 x6 x7 x8 x9 s := rfl
theorem exec_famo {x1 x2 x3 x4 x5 x6 x7 x8 x9} (s : State) : exec (.famo x1 x2 x3 x4 x5 x6 x7 x8 x9) s = execFamo x1 x2 x3 x4 x5 x6 x7 x8 x9 s := rfl
theorem exec_amor {x1 x2 x3 x4 x5 x6 x7 x8} (s : State) : exec (.amor x1 x2 x3 x4 x5 x6 x7 x8) s = execAmor x1 x2 x3 x4 x5 x6 x7 x8 s := rfl
theorem exec_red {x1 x2 x3 x4 x5} (s : State) : exec (.red x1 x2 x3 x4 x5) s = execRed x1 x2 x3 x4 x5 s := rfl
theorem exec_updr {x1 x2 x3 x4 x5} (s : State) : exec (.updr x1 x2 x3 x4 x5) s = execUpdr x1 x2 x3 x4 x5 s := rfl
theorem exec_boarm {x1 x2 x3} (s : State) : exec (.boarm x1 x2 x3) s = execBoarm x1 x2 x3 s := rfl
theorem exec_boclr {x1 x2} (s : State) : exec (.boclr x1 x2) s = execBoclr x1 x2 s := rfl
theorem exec_bord {x1 x2 x3 x4} (s : State) : exec (.bord x1 x2 x3 x4) s = execBord x1 x2 x3 x4 s := rfl
theorem exec_cpy {x1 x2 x3 x4 x5} (s : State) : exec (.cpy x1 x2 x3 x4 x5) s = execCpy x1 x2 x3 x4 x5 s := rfl
theorem exec_cpym {x1 x2 x3 x4 x5} (s : State) : exec (.cpym x1 x2 x3 x4 x5) s = execCpym x1 x2 x3 x4 x5 s := rfl
theorem exec_cpyr {x1 x2 x3 x4 x5} (s : State) : exec (.cpyr x1 x2 x3 x4 x5) s = execCpyr x1 x2 x3 x4 x5 s := rfl
theorem exec_cpyd {x1 x2 x3 x4 x5} (s : State) : exec (.cpyd x1 x2 x3 x4 x5) s = execCpyd x1 x2 x3 x4 x5 s := rfl
theorem exec_mlr {x1 x2 x3 x4 x5} (s : State) : exec (.mlr x1 x2 x3 x4 x5) s = execMlr x1 x2 x3 x4 x5 s := rfl
theorem exec_mst {x1 x2 x3 x4 x5} (s : State) : exec (.mst x1 x2 x3 x4 x5) s = execMst x1 x2 x3 x4 x5 s := rfl
theorem exec_rls {x1 x2 x3 x4} (s : State) : exec (.rls x1 x2 x3 x4) s = execRls x1 x2 x3 x4 s := rfl
theorem exec_acqw {x1 x2 x3 x4} (s : State) : exec (.acqw x1 x2 x3 x4) s = execAcqw x1 x2 x3 x4 s := rfl
theorem exec_agset {x1 x2 x3 x4} (s : State) : exec (.agset x1 x2 x3 x4) s = execAgset x1 x2 x3 x4 s := rfl
theorem exec_xfwd {x1 x2 x3 x4 x5} (s : State) : exec (.xfwd x1 x2 x3 x4 x5) s = execXfwd x1 x2 x3 x4 x5 s := rfl
theorem exec_xfwdb {x1 x2 x3 x4} (s : State) : exec (.xfwdb x1 x2 x3 x4) s = execXfwdb x1 x2 x3 x4 s := rfl
theorem exec_xbwd {x1 x2 x3 x4 x5} (s : State) : exec (.xbwd x1 x2 x3 x4 x5) s = execXbwd x1 x2 x3 x4 x5 s := rfl
theorem exec_xupd {x1 x2 x3 x4 x5} (s : State) : exec (.xupd x1 x2 x3 x4 x5) s = execXupd x1 x2 x3 x4 x5 s := rfl
theorem exec_xxfr {x1 x2 x3} (s : State) : exec (.xxfr x1 x2 x3) s = execXxfr x1 x2 x3 s := rfl
theorem exec_xtopk {x1 x2 x3 x4} (s : State) : exec (.xtopk x1 x2 x3 x4) s = execXtopk x1 x2 x3 x4 s := rfl
theorem exec_xdist {x1 x2 x3 x4} (s : State) : exec (.xdist x1 x2 x3 x4) s = execXdist x1 x2 x3 x4 s := rfl
theorem exec_xsym {x1 x2 x3} (s : State) : exec (.xsym x1 x2 x3) s = execXsym x1 x2 x3 s := rfl
theorem exec_xckr {x1 x2 x3} (s : State) : exec (.xckr x1 x2 x3) s = execXckr x1 x2 x3 s := rfl
theorem exec_xprg {x1 x2 x3} (s : State) : exec (.xprg x1 x2 x3) s = execXprg x1 x2 x3 s := rfl
theorem exec_xscrb {x1 x2 x3} (s : State) : exec (.xscrb x1 x2 x3) s = execXscrb x1 x2 x3 s := rfl
theorem exec_xcal {x1 x2 x3} (s : State) : exec (.xcal x1 x2 x3) s = execXcal x1 x2 x3 s := rfl
theorem exec_xnorm {x1 x2 x3} (s : State) : exec (.xnorm x1 x2 x3) s = execXnorm x1 x2 x3 s := rfl
theorem exec_xwset {x1 x2 x3} (s : State) : exec (.xwset x1 x2 x3) s = execXwset x1 x2 x3 s := rfl
theorem exec_xgset {x1 x2 x3} (s : State) : exec (.xgset x1 x2 x3) s = execXgset x1 x2 x3 s := rfl
theorem exec_xfenceDrain {x1 x2 x3 x4} (s : State) : exec (.xfenceDrain x1 x2 x3 x4) s = execXfenceDrain x1 x2 x3 x4 s := rfl
theorem exec_xfenceHold {x1 x2 x3 x4} (s : State) : exec (.xfenceHold x1 x2 x3 x4) s = execXfenceHold x1 x2 x3 x4 s := rfl
theorem exec_xfenceRel {x1 x2 x3 x4} (s : State) : exec (.xfenceRel x1 x2 x3 x4) s = execXfenceRel x1 x2 x3 x4 s := rfl
theorem exec_xstat {x1 x2 x3} (s : State) : exec (.xstat x1 x2 x3) s = execXstat x1 x2 x3 s := rfl
theorem exec_fexp {x1 x2 x3 x4 x5} (s : State) : exec (.fexp x1 x2 x3 x4 x5) s = execFexp x1 x2 x3 x4 x5 s := rfl
theorem exec_fexp2 {x1 x2 x3 x4 x5} (s : State) : exec (.fexp2 x1 x2 x3 x4 x5) s = execFexp2 x1 x2 x3 x4 x5 s := rfl
theorem exec_flog {x1 x2 x3 x4 x5} (s : State) : exec (.flog x1 x2 x3 x4 x5) s = execFlog x1 x2 x3 x4 x5 s := rfl
theorem exec_flog2 {x1 x2 x3 x4 x5} (s : State) : exec (.flog2 x1 x2 x3 x4 x5) s = execFlog2 x1 x2 x3 x4 x5 s := rfl
theorem exec_frcp {x1 x2 x3 x4 x5} (s : State) : exec (.frcp x1 x2 x3 x4 x5) s = execFrcp x1 x2 x3 x4 x5 s := rfl
theorem exec_frsq {x1 x2 x3 x4 x5} (s : State) : exec (.frsq x1 x2 x3 x4 x5) s = execFrsq x1 x2 x3 x4 x5 s := rfl
theorem exec_fsqrt {x1 x2 x3 x4 x5} (s : State) : exec (.fsqrt x1 x2 x3 x4 x5) s = execFsqrt x1 x2 x3 x4 x5 s := rfl
theorem exec_ftanh {x1 x2 x3 x4 x5} (s : State) : exec (.ftanh x1 x2 x3 x4 x5) s = execFtanh x1 x2 x3 x4 x5 s := rfl
theorem exec_fsig {x1 x2 x3 x4 x5} (s : State) : exec (.fsig x1 x2 x3 x4 x5) s = execFsig x1 x2 x3 x4 x5 s := rfl
theorem exec_fgelu {x1 x2 x3 x4 x5} (s : State) : exec (.fgelu x1 x2 x3 x4 x5) s = execFgelu x1 x2 x3 x4 x5 s := rfl
theorem exec_fsilu {x1 x2 x3 x4 x5} (s : State) : exec (.fsilu x1 x2 x3 x4 x5) s = execFsilu x1 x2 x3 x4 x5 s := rfl
theorem exec_fsin {x1 x2 x3 x4 x5} (s : State) : exec (.fsin x1 x2 x3 x4 x5) s = execFsin x1 x2 x3 x4 x5 s := rfl
theorem exec_fcos {x1 x2 x3 x4 x5} (s : State) : exec (.fcos x1 x2 x3 x4 x5) s = execFcos x1 x2 x3 x4 x5 s := rfl
theorem exec_ferf {x1 x2 x3 x4 x5} (s : State) : exec (.ferf x1 x2 x3 x4 x5) s = execFerf x1 x2 x3 x4 x5 s := rfl
theorem exec_fsmax {x1 x2 x3 x4 x5} (s : State) : exec (.fsmax x1 x2 x3 x4 x5) s = execFsmax x1 x2 x3 x4 x5 s := rfl
theorem exec_halt {x1} (s : State) : exec (.halt x1) s = execHalt x1 s := rfl
theorem exec_snap {x1 x2} (s : State) : exec (.snap x1 x2) s = execSnap x1 x2 s := rfl
theorem exec_rstr {x1 x2} (s : State) : exec (.rstr x1 x2) s = execRstr x1 x2 s := rfl
theorem exec_mtsp {x1 x2 x3} (s : State) : exec (.mtsp x1 x2 x3) s = execMtsp x1 x2 x3 s := rfl
theorem exec_mfsp {x1 x2 x3} (s : State) : exec (.mfsp x1 x2 x3) s = execMfsp x1 x2 x3 s := rfl
theorem exec_idle {x1} (s : State) : exec (.idle x1) s = execIdle x1 s := rfl
theorem exec_stallExpiry {x1 x2} (s : State) : exec (.stallExpiry x1 x2) s = execStallExpiry x1 x2 s := rfl
theorem exec_berthSwitch {x1} (s : State) : exec (.berthSwitch x1) s = execBerthSwitch x1 s := rfl
theorem exec_waitWake {x1 x2} (s : State) : exec (.waitWake x1 x2) s = execWaitWake x1 x2 s := rfl
theorem exec_sleepcWake {x1 x2} (s : State) : exec (.sleepcWake x1 x2) s = execSleepcWake x1 x2 s := rfl
theorem exec_sleeppWake {x1 x2} (s : State) : exec (.sleeppWake x1 x2) s = execSleeppWake x1 x2 s := rfl
theorem exec_waitpWake {x1 x2} (s : State) : exec (.waitpWake x1 x2) s = execWaitpWake x1 x2 s := rfl
theorem exec_barrierWake {x1 x2} (s : State) : exec (.barrierWake x1 x2) s = execBarrierWake x1 x2 s := rfl
theorem exec_barrierWaitTimeout {x1 x2} (s : State) : exec (.barrierWaitTimeout x1 x2) s = execBarrierWaitTimeout x1 x2 s := rfl
theorem exec_tokinWake {x1 x2} (s : State) : exec (.tokinWake x1 x2) s = execTokinWake x1 x2 s := rfl
theorem exec_tokoutWake {x1 x2} (s : State) : exec (.tokoutWake x1 x2) s = execTokoutWake x1 x2 s := rfl
theorem exec_tokenInboxRoom {x1} (s : State) : exec (.tokenInboxRoom x1) s = execTokenInboxRoom x1 s := rfl
theorem exec_idleWake {x1} (s : State) : exec (.idleWake x1) s = execIdleWake x1 s := rfl
theorem exec_droopAlarm {x1} (s : State) : exec (.droopAlarm x1) s = execDroopAlarm x1 s := rfl
theorem exec_stretchEnd {x1} (s : State) : exec (.stretchEnd x1) s = execStretchEnd x1 s := rfl
theorem exec_halfRateWindowEnd {x1} (s : State) : exec (.halfRateWindowEnd x1) s = execHalfRateWindowEnd x1 s := rfl
theorem exec_resultWriteback {x1} (s : State) : exec (.resultWriteback x1) s = execResultWriteback x1 s := rfl
theorem exec_enginePushResume {x1} (s : State) : exec (.enginePushResume x1) s = execEnginePushResume x1 s := rfl
theorem exec_vxeEntryStart {x1} (s : State) : exec (.vxeEntryStart x1) s = execVxeEntryStart x1 s := rfl
theorem exec_ldeEntryStart {x1} (s : State) : exec (.ldeEntryStart x1) s = execLdeEntryStart x1 s := rfl
theorem exec_steEntryStart {x1} (s : State) : exec (.steEntryStart x1) s = execSteEntryStart x1 s := rfl
theorem exec_memoryTransferPerformed {x1 x2 x3} (s : State) : exec (.memoryTransferPerformed x1 x2 x3) s = execMemoryTransferPerformed x1 x2 x3 s := rfl
theorem exec_engineEntryComplete {x1} (s : State) : exec (.engineEntryComplete x1) s = execEngineEntryComplete x1 s := rfl
theorem exec_deferredTrapTaken {x1 x2} (s : State) : exec (.deferredTrapTaken x1 x2) s = execDeferredTrapTaken x1 x2 s := rfl
theorem exec_copyAccept {x1 x2} (s : State) : exec (.copyAccept x1 x2) s = execCopyAccept x1 x2 s := rfl
theorem exec_copyUnitPerformed {x1 x2 x3} (s : State) : exec (.copyUnitPerformed x1 x2 x3) s = execCopyUnitPerformed x1 x2 x3 s := rfl
theorem exec_objectCount {x1} (s : State) : exec (.objectCount x1) s = execObjectCount x1 s := rfl
theorem exec_bargeSend {x1 x2} (s : State) : exec (.bargeSend x1 x2) s = execBargeSend x1 x2 s := rfl
theorem exec_operandLatched {x1} (s : State) : exec (.operandLatched x1) s = execOperandLatched x1 s := rfl
theorem exec_gateFlipSeen {x1} (s : State) : exec (.gateFlipSeen x1) s = execGateFlipSeen x1 s := rfl
theorem exec_bargeIssue {x1} (s : State) : exec (.bargeIssue x1) s = execBargeIssue x1 s := rfl
theorem exec_stampWindowExpiry {x1} (s : State) : exec (.stampWindowExpiry x1) s = execStampWindowExpiry x1 s := rfl
theorem exec_arrCeilingAdmit {x1} (s : State) : exec (.arrCeilingAdmit x1) s = execArrCeilingAdmit x1 s := rfl
theorem exec_arrayCommandComplete {x1 x2} (s : State) : exec (.arrayCommandComplete x1 x2) s = execArrayCommandComplete x1 x2 s := rfl
theorem exec_sfBargeStart (s : State) : exec (.sfBargeStart) s = execSfBargeStart s := rfl
theorem exec_sfTransferComplete {x1 x2} (s : State) : exec (.sfTransferComplete x1 x2) s = execSfTransferComplete x1 x2 s := rfl
theorem exec_dieJointFailure {x1} (s : State) : exec (.dieJointFailure x1) s = execDieJointFailure x1 s := rfl
theorem exec_lockArrivalCount {x1} (s : State) : exec (.lockArrivalCount x1) s = execLockArrivalCount x1 s := rfl
theorem exec_lockReportReceived {x1 x2 x3} (s : State) : exec (.lockReportReceived x1 x2 x3) s = execLockReportReceived x1 x2 x3 s := rfl
theorem exec_trelReceived {x1 x2 x3} (s : State) : exec (.trelReceived x1 x2 x3) s = execTrelReceived x1 x2 x3 s := rfl
theorem exec_lockRelease {x1} (s : State) : exec (.lockRelease x1) s = execLockRelease x1 s := rfl
theorem exec_barrierReleaseMessage {x1 x2 x3} (s : State) : exec (.barrierReleaseMessage x1 x2 x3) s = execBarrierReleaseMessage x1 x2 x3 s := rfl
theorem exec_estimatorWindow {x1} (s : State) : exec (.estimatorWindow x1) s = execEstimatorWindow x1 s := rfl
theorem exec_intervalBoundary (s : State) : exec (.intervalBoundary) s = execIntervalBoundary s := rfl
theorem exec_thermalCeiling {x1} (s : State) : exec (.thermalCeiling x1) s = execThermalCeiling x1 s := rfl
theorem exec_vecStepChange {x1} (s : State) : exec (.vecStepChange x1) s = execVecStepChange x1 s := rfl
theorem exec_clockStopEnd (s : State) : exec (.clockStopEnd) s = execClockStopEnd s := rfl
theorem exec_thermalTrip {x1} (s : State) : exec (.thermalTrip x1) s = execThermalTrip x1 s := rfl
theorem exec_quadPowerGate {x1} (s : State) : exec (.quadPowerGate x1) s = execQuadPowerGate x1 s := rfl
theorem exec_wakeRequest {x1} (s : State) : exec (.wakeRequest x1) s = execWakeRequest x1 s := rfl
theorem exec_wakeHoldExpiry {x1} (s : State) : exec (.wakeHoldExpiry x1) s = execWakeHoldExpiry x1 s := rfl
theorem exec_inrushAdmit {x1} (s : State) : exec (.inrushAdmit x1) s = execInrushAdmit x1 s := rfl
theorem exec_railsStable {x1} (s : State) : exec (.railsStable x1) s = execRailsStable x1 s := rfl
theorem exec_transientRequest {x1 x2 x3} (s : State) : exec (.transientRequest x1 x2 x3) s = execTransientRequest x1 x2 x3 s := rfl
theorem exec_tokenMessageReceived {x1} (s : State) : exec (.tokenMessageReceived x1) s = execTokenMessageReceived x1 s := rfl
theorem exec_requestResendTimeout {x1 x2} (s : State) : exec (.requestResendTimeout x1 x2) s = execRequestResendTimeout x1 x2 s := rfl
theorem exec_persistentActivation {x1 x2 x3 x4} (s : State) : exec (.persistentActivation x1 x2 x3 x4) s = execPersistentActivation x1 x2 x3 x4 s := rfl
theorem exec_persistentDeactivation {x1 x2 x3} (s : State) : exec (.persistentDeactivation x1 x2 x3) s = execPersistentDeactivation x1 x2 x3 s := rfl
theorem exec_lineEviction {x1 x2} (s : State) : exec (.lineEviction x1 x2) s = execLineEviction x1 x2 s := rfl
theorem exec_rlsMessageReceived {x1 x2 x3 x4 x5 x6 x7} (s : State) : exec (.rlsMessageReceived x1 x2 x3 x4 x5 x6 x7) s = execRlsMessageReceived x1 x2 x3 x4 x5 x6 x7 s := rfl
theorem exec_rlsAckReceived {x1 x2 x3 x4} (s : State) : exec (.rlsAckReceived x1 x2 x3 x4) s = execRlsAckReceived x1 x2 x3 x4 s := rfl
theorem exec_fabricWriteReceived {x1 x2 x3 x4 x5 x6 x7 x8 x9} (s : State) : exec (.fabricWriteReceived x1 x2 x3 x4 x5 x6 x7 x8 x9) s = execFabricWriteReceived x1 x2 x3 x4 x5 x6 x7 x8 x9 s := rfl
theorem exec_fabricResend {x1 x2 x3} (s : State) : exec (.fabricResend x1 x2 x3) s = execFabricResend x1 x2 x3 s := rfl
theorem exec_agsetInstall {x1} (s : State) : exec (.agsetInstall x1) s = execAgsetInstall x1 s := rfl
theorem exec_qtailWrite {x1 x2 x3} (s : State) : exec (.qtailWrite x1 x2 x3) s = execQtailWrite x1 x2 x3 s := rfl
theorem exec_slotRead {x1 x2} (s : State) : exec (.slotRead x1 x2) s = execSlotRead x1 x2 s := rfl
theorem exec_dependenceTest {x1} (s : State) : exec (.dependenceTest x1) s = execDependenceTest x1 s := rfl
theorem exec_turnGrant {x1} (s : State) : exec (.turnGrant x1) s = execTurnGrant x1 s := rfl
theorem exec_placement {x1} (s : State) : exec (.placement x1) s = execPlacement x1 s := rfl
theorem exec_copyLaunch {x1} (s : State) : exec (.copyLaunch x1) s = execCopyLaunch x1 s := rfl
theorem exec_loadingComplete {x1} (s : State) : exec (.loadingComplete x1) s = execLoadingComplete x1 s := rfl
theorem exec_startingLockRelease {x1} (s : State) : exec (.startingLockRelease x1) s = execStartingLockRelease x1 s := rfl
theorem exec_completionWrite {x1} (s : State) : exec (.completionWrite x1) s = execCompletionWrite x1 s := rfl
theorem exec_watchdogTest (s : State) : exec (.watchdogTest) s = execWatchdogTest s := rfl
theorem exec_preemptionRequest {x1} (s : State) : exec (.preemptionRequest x1) s = execPreemptionRequest x1 s := rfl
theorem exec_imageWritten {x1} (s : State) : exec (.imageWritten x1) s = execImageWritten x1 s := rfl
theorem exec_gangResume {x1} (s : State) : exec (.gangResume x1) s = execGangResume x1 s := rfl
theorem exec_gctlResume {x1 x2 x3} (s : State) : exec (.gctlResume x1 x2 x3) s = execGctlResume x1 x2 x3 s := rfl
theorem exec_gctlDiscard {x1 x2 x3} (s : State) : exec (.gctlDiscard x1 x2 x3) s = execGctlDiscard x1 x2 x3 s := rfl
theorem exec_prepare {x1 x2 x3 x4 x5} (s : State) : exec (.prepare x1 x2 x3 x4 x5) s = execPrepare x1 x2 x3 x4 x5 s := rfl
theorem exec_prepareReply {x1 x2 x3} (s : State) : exec (.prepareReply x1 x2 x3) s = execPrepareReply x1 x2 x3 s := rfl
theorem exec_commit {x1 x2} (s : State) : exec (.commit x1 x2) s = execCommit x1 x2 s := rfl
theorem exec_abort {x1} (s : State) : exec (.abort x1) s = execAbort x1 s := rfl
theorem exec_tlimExpiry {x1} (s : State) : exec (.tlimExpiry x1) s = execTlimExpiry x1 s := rfl
theorem exec_gangBarrierTimeout {x1} (s : State) : exec (.gangBarrierTimeout x1) s = execGangBarrierTimeout x1 s := rfl
theorem exec_partitionTableWrite {x1 x2 x3} (s : State) : exec (.partitionTableWrite x1 x2 x3) s = execPartitionTableWrite x1 x2 x3 s := rfl
theorem exec_addTwinWrite {x1 x2 x3} (s : State) : exec (.addTwinWrite x1 x2 x3) s = execAddTwinWrite x1 x2 x3 s := rfl
theorem exec_relTwinWrite {x1 x2 x3 x4} (s : State) : exec (.relTwinWrite x1 x2 x3 x4) s = execRelTwinWrite x1 x2 x3 x4 s := rfl
theorem exec_rszackWrite {x1 x2} (s : State) : exec (.rszackWrite x1 x2) s = execRszackWrite x1 x2 s := rfl
theorem exec_resizeDeadline {x1} (s : State) : exec (.resizeDeadline x1) s = execResizeDeadline x1 s := rfl
theorem exec_scrubGateDone {x1 x2} (s : State) : exec (.scrubGateDone x1 x2) s = execScrubGateDone x1 x2 s := rfl
theorem exec_tinvWrite {x1 x2} (s : State) : exec (.tinvWrite x1 x2) s = execTinvWrite x1 x2 s := rfl
theorem exec_tinvComplete {x1} (s : State) : exec (.tinvComplete x1) s = execTinvComplete x1 s := rfl
theorem exec_pageWalkComplete {x1 x2 x3 x4} (s : State) : exec (.pageWalkComplete x1 x2 x3 x4) s = execPageWalkComplete x1 x2 x3 x4 s := rfl
theorem exec_bindUnbind {x1 x2} (s : State) : exec (.bindUnbind x1 x2) s = execBindUnbind x1 x2 s := rfl
theorem exec_flr {x1} (s : State) : exec (.flr x1) s = execFlr x1 s := rfl
theorem exec_flrReady {x1} (s : State) : exec (.flrReady x1) s = execFlrReady x1 s := rfl
theorem exec_hostWindowRead {x1 x2 x3} (s : State) : exec (.hostWindowRead x1 x2 x3) s = execHostWindowRead x1 x2 x3 s := rfl
theorem exec_hostWindowWrite {x1 x2 x3} (s : State) : exec (.hostWindowWrite x1 x2 x3) s = execHostWindowWrite x1 x2 x3 s := rfl
theorem exec_hostCompletion {x1 x2 x3} (s : State) : exec (.hostCompletion x1 x2 x3) s = execHostCompletion x1 x2 x3 s := rfl
theorem exec_domainJoin (s : State) : exec (.domainJoin) s = execDomainJoin s := rfl
theorem exec_domainLeave (s : State) : exec (.domainLeave) s = execDomainLeave s := rfl
theorem exec_offsetMeasure {x1} (s : State) : exec (.offsetMeasure x1) s = execOffsetMeasure x1 s := rfl
theorem exec_pllLockLoss (s : State) : exec (.pllLockLoss) s = execPllLockLoss s := rfl
theorem exec_bportEnableWrite {x1 x2} (s : State) : exec (.bportEnableWrite x1 x2) s = execBportEnableWrite x1 x2 s := rfl
theorem exec_linkTrained {x1 x2} (s : State) : exec (.linkTrained x1 x2) s = execLinkTrained x1 x2 s := rfl
theorem exec_trainingTimeout {x1} (s : State) : exec (.trainingTimeout x1) s = execTrainingTimeout x1 s := rfl
theorem exec_linkError {x1} (s : State) : exec (.linkError x1) s = execLinkError x1 s := rfl
theorem exec_retrainResult {x1 x2} (s : State) : exec (.retrainResult x1 x2) s = execRetrainResult x1 x2 s := rfl
theorem exec_downRetry {x1} (s : State) : exec (.downRetry x1) s = execDownRetry x1 s := rfl
theorem exec_flitReplay {x1} (s : State) : exec (.flitReplay x1) s = execFlitReplay x1 s := rfl
theorem exec_portStateFlit {x1 x2} (s : State) : exec (.portStateFlit x1 x2) s = execPortStateFlit x1 x2 s := rfl
theorem exec_maintenanceDue {x1 x2} (s : State) : exec (.maintenanceDue x1 x2) s = execMaintenanceDue x1 x2 s := rfl
theorem exec_wornSet {x1} (s : State) : exec (.wornSet x1) s = execWornSet x1 s := rfl
theorem exec_healthRecordAppend (s : State) : exec (.healthRecordAppend) s = execHealthRecordAppend s := rfl
theorem exec_patrolScrub {x1 x2} (s : State) : exec (.patrolScrub x1 x2) s = execPatrolScrub x1 x2 s := rfl
theorem exec_readhealth (s : State) : exec (.readhealth) s = execReadhealth s := rfl
theorem exec_readtotals (s : State) : exec (.readtotals) s = execReadtotals s := rfl
theorem exec_readcert (s : State) : exec (.readcert) s = execReadcert s := rfl
theorem exec_quote (s : State) : exec (.quote) s = execQuote s := rfl
theorem exec_signman (s : State) : exec (.signman) s = execSignman s := rfl
theorem exec_install (s : State) : exec (.install) s = execInstall s := rfl
theorem exec_remap (s : State) : exec (.remap) s = execRemap s := rfl
theorem exec_loadfw (s : State) : exec (.loadfw) s = execLoadfw s := rfl
theorem exec_mailboxBadOp {x1} (s : State) : exec (.mailboxBadOp x1) s = execMailboxBadOp x1 s := rfl
theorem exec_mailboxDone (s : State) : exec (.mailboxDone) s = execMailboxDone s := rfl
theorem exec_moduleReset (s : State) : exec (.moduleReset) s = execModuleReset s := rfl
theorem exec_bootVerify (s : State) : exec (.bootVerify) s = execBootVerify s := rfl
theorem exec_perstRelease (s : State) : exec (.perstRelease) s = execPerstRelease s := rfl
theorem exec_powerLoss (s : State) : exec (.powerLoss) s = execPowerLoss s := rfl
theorem exec_registerWrite {x1 x2} (s : State) : exec (.registerWrite x1 x2) s = execRegisterWrite x1 x2 s := rfl
theorem exec_rcRegisterRead {x1} (s : State) : exec (.rcRegisterRead x1) s = execRcRegisterRead x1 s := rfl
theorem exec_fabricRequestReceived {x1 x2 x3 x4 x5 x6} (s : State) : exec (.fabricRequestReceived x1 x2 x3 x4 x5 x6) s = execFabricRequestReceived x1 x2 x3 x4 x5 x6 s := rfl
theorem exec_dieJointRetrained {x1} (s : State) : exec (.dieJointRetrained x1) s = execDieJointRetrained x1 s := rfl
theorem exec_fabricPllLock (s : State) : exec (.fabricPllLock) s = execFabricPllLock s := rfl
theorem exec_timeExchange {x1} (s : State) : exec (.timeExchange x1) s = execTimeExchange x1 s := rfl
theorem exec_junctionTemperatureSample {x1} (s : State) : exec (.junctionTemperatureSample x1) s = execJunctionTemperatureSample x1 s := rfl
theorem exec_doeRequest {x1} (s : State) : exec (.doeRequest x1) s = execDoeRequest x1 s := rfl

end Sys2Proof.Machine
end

