-- ==== Sys2Proof/Laws/Mem.lean ====
section
/-! SUPPORT. Sparse memory: a read after a write, and every operation keeps the canonical form. -/

namespace Sys2Proof.Machine

open Sys2Proof

/-- Every listed address of a memory lies above `a`. -/
def Mem.above (a : Nat) : Mem → Prop
  | [] => True
  | (k, _) :: _ => a < k

@[simp] theorem Mem.above_nil (a : Nat) : Mem.above a [] := trivial
@[simp] theorem Mem.above_cons (a k : Nat) (v : Byte) (r : Mem) : Mem.above a ((k, v) :: r) ↔ a < k := Iff.rfl

theorem Mem.wf_cons (k : Nat) (v : Byte) (r : Mem) :
    Mem.wf ((k, v) :: r) = true ↔ v ≠ 0 ∧ Mem.above k r ∧ Mem.wf r = true := by
  cases r with
  | nil => simp [Mem.wf]
  | cons c r => obtain ⟨k', v'⟩ := c; simp [Mem.wf, and_assoc]

theorem Mem.above_trans {a b : Nat} {m : Mem} (h : a ≤ b) (hm : Mem.above b m) : Mem.above a m := by
  cases m with
  | nil => trivial
  | cons c r => obtain ⟨k, v⟩ := c; exact Nat.lt_of_le_of_lt h hm

/-- Below its first address a memory reads 0. -/
theorem Mem.read_above {a : Nat} {m : Mem} (h : Mem.above a m) : m.read a = 0 := by
  cases m with
  | nil => rfl
  | cons c r =>
    obtain ⟨k, v⟩ := c
    have h : a < k := h
    simp [Mem.read, Nat.ne_of_lt h, h]

theorem Mem.cell_above {a b : Nat} (v : Byte) {r : Mem} (h : b < a) (hr : Mem.above b r) : Mem.above b (Mem.cell a v r) := by
  unfold Mem.cell; split
  · exact hr
  · exact h

theorem Mem.cell_wf {a : Nat} (v : Byte) {r : Mem} (h : Mem.above a r) (hr : Mem.wf r = true) :
    Mem.wf (Mem.cell a v r) = true := by
  unfold Mem.cell; split
  · exact hr
  · exact (wf_cons _ _ _).2 ⟨‹_›, h, hr⟩

/-- A write keeps the canonical form, and the addresses above what they were above. -/
theorem Mem.write_keeps (a : Nat) (v : Byte) :
    (m : Mem) → Mem.wf m = true → Mem.wf (m.write a v) = true ∧ ∀ b < a, Mem.above b m → Mem.above b (m.write a v)
  | [], _ => ⟨cell_wf v trivial rfl, fun _ h _ => cell_above v h trivial⟩
  | (k, w) :: r, h => by
    obtain ⟨hw, ha, hr⟩ := (wf_cons _ _ _).1 h
    have ih := write_keeps a v r hr
    unfold Mem.write
    split
    · exact ⟨cell_wf v ‹_› h, fun b hb hm => cell_above v hb hm⟩
    · split
      · subst_vars
        exact ⟨cell_wf v ha hr, fun b hb hm => cell_above v hb (above_trans (Nat.le_of_lt hb) ha)⟩
      · have hk : k < a := by omega
        exact ⟨(wf_cons _ _ _).2 ⟨hw, ih.2 k hk ha, ih.1⟩, fun b _ hm => hm⟩

theorem Mem.write_wf (m : Mem) (a : Nat) (v : Byte) (h : Mem.wf m = true) : Mem.wf (m.write a v) = true :=
  (write_keeps a v m h).1

theorem Mem.writes_wf (l : List Byte) (m : Mem) (a : Nat) (h : Mem.wf m = true) : Mem.wf (m.writes a l) = true := by
  induction l generalizing m a with
  | nil => exact h
  | cons b r ih => exact ih _ _ (write_wf m a b h)

theorem Mem.setWord_wf (m : Mem) (a : Nat) (v : W64) (h : Mem.wf m = true) : Mem.wf (m.setWord a v) = true :=
  writes_wf _ _ _ h

theorem Mem.filter_above (p : Host.Cell → Bool) : (m : Mem) → Mem.wf m = true → ∀ b, Mem.above b m → Mem.above b (m.filter p)
  | [], _, _, _ => trivial
  | (k, v) :: r, h, b, hb => by
    obtain ⟨-, ha, hr⟩ := (wf_cons _ _ _).1 h
    rw [List.filter_cons]
    split
    · exact hb
    · exact filter_above p r hr b (above_trans (Nat.le_of_lt hb) ha)

/-- Dropping entries keeps the canonical form. -/
theorem Mem.filter_wf (p : Host.Cell → Bool) : (m : Mem) → Mem.wf m = true → Mem.wf (m.filter p) = true
  | [], _ => rfl
  | (k, v) :: r, h => by
    obtain ⟨hv, ha, hr⟩ := (wf_cons _ _ _).1 h
    rw [List.filter_cons]
    split
    · exact (wf_cons _ _ _).2 ⟨hv, filter_above p r hr k ha, filter_wf p r hr⟩
    · exact filter_wf p r hr

theorem Mem.clear_wf (m : Mem) (a n : Nat) (h : Mem.wf m = true) : Mem.wf (m.clear a n) = true := filter_wf _ m h

theorem Mem.read_cell (a b : Nat) (v : Byte) {r : Mem} (h : Mem.above a r) :
    (Mem.cell a v r).read b = if b = a then v else if b < a then 0 else r.read b := by
  unfold Mem.cell
  split
  · subst_vars
    split
    · subst_vars; exact read_above h
    · split
      · exact read_above (above_trans (Nat.le_of_lt ‹_›) h)
      · rfl
  · simp only [Mem.read]

/-- A read after a write: the byte written, and every other byte as before. -/
theorem Mem.read_write (a b : Nat) (v : Byte) : (m : Mem) → Mem.wf m = true →
    (m.write a v).read b = if b = a then v else m.read b
  | [], _ => by
    simp only [Mem.write, read_cell a b v (above_nil a), Mem.read]
    split <;> simp
  | (k, w) :: r, h => by
    obtain ⟨-, ha, hr⟩ := (wf_cons _ _ _).1 h
    have ih := read_write a b v r hr
    unfold Mem.write
    split
    · rw [read_cell a b v (r := (k, w) :: r) ‹_›]
      split
      · rfl
      · split
        · simp [Mem.read, Nat.ne_of_lt (Nat.lt_trans ‹b < a› ‹a < k›), Nat.lt_trans ‹b < a› ‹a < k›]
        · rfl
    · split
      · rename_i e
        rw [read_cell a b v (e ▸ ha)]
        simp only [Mem.read, e]
        split <;> rfl
      · simp only [Mem.read, ih]
        have hk : k < a := by omega
        by_cases h1 : b = k
        · subst h1; simp [Nat.ne_of_lt hk]
        · by_cases h2 : b < k
          · have : b ≠ a := by omega
            simp [h1, h2, this]
          · simp [h1, h2]

theorem Mem.read_write_same (m : Mem) (a : Nat) (v : Byte) (h : Mem.wf m = true) : (m.write a v).read a = v := by
  simp [read_write a a v m h]

theorem Mem.read_write_ne (m : Mem) (a b : Nat) (v : Byte) (h : Mem.wf m = true) (hb : b ≠ a) :
    (m.write a v).read b = m.read b := by
  simp [read_write a b v m h, hb]

/-- A byte outside the written range is as before. -/
theorem Mem.read_writes_out (l : List Byte) (m : Mem) (a b : Nat) (h : Mem.wf m = true) (hb : b < a ∨ a + l.length ≤ b) :
    (m.writes a l).read b = m.read b := by
  induction l generalizing m a with
  | nil => rfl
  | cons x r ih =>
    simp only [List.length_cons] at hb
    rw [Mem.writes, ih _ _ (write_wf m a x h) (by omega), read_write_ne _ _ _ _ h (by omega)]

/-- A byte of the written range is the one written. -/
theorem Mem.read_writes_in (l : List Byte) (m : Mem) (a i : Nat) (h : Mem.wf m = true) (hi : i < l.length) :
    (m.writes a l).read (a + i) = l[i] := by
  induction l generalizing m a i with
  | nil => simp at hi
  | cons x r ih =>
    cases i with
    | zero =>
      rw [Mem.writes, read_writes_out _ _ _ _ (write_wf m a x h) (by omega)]
      exact read_write_same _ _ _ h
    | succ i =>
      have := ih (m.write a x) (a + 1) i (write_wf m a x h) (by simpa using hi)
      rw [Mem.writes, show a + (i + 1) = a + 1 + i by omega]
      simpa using this

end Sys2Proof.Machine
end

