-- ==== Sys2Proof/Laws/Image.lean ====
section
/-! SUPPORT. The canonical form of a memory as a fact about all its entries; regions and splices keep it. What the pages of a
slot hold (20 R317). -/

namespace Sys2Proof.Machine

open Sys2Proof

/-- The canonical form: addresses strictly rising, and no entry that holds 0. -/
theorem Mem.wf_iff (m : Mem) : m.wf = true ↔ m.Pairwise (fun a b => a.1 < b.1) ∧ ∀ c ∈ m, c.2 ≠ 0 := by
  induction m with
  | nil => simp [Mem.wf]
  | cons c r ih =>
    obtain ⟨k, v⟩ := c
    rw [Mem.wf_cons, ih, List.pairwise_cons]
    constructor
    · rintro ⟨hv, ha, hp, hz⟩
      refine ⟨⟨fun y hy => ?_, hp⟩, fun y hy => ?_⟩
      · cases r with
        | nil => cases hy
        | cons d r =>
          rcases List.mem_cons.1 hy with rfl | h
          · exact ha
          · exact Nat.lt_trans ha ((List.pairwise_cons.1 hp).1 _ h)
      · rcases List.mem_cons.1 hy with rfl | h
        · exact hv
        · exact hz _ h
    · rintro ⟨⟨ha, hp⟩, hz⟩
      refine ⟨hz (k, v) (by simp), ?_, hp, fun y hy => hz y (by simp [hy])⟩
      cases r with
      | nil => trivial
      | cons d r => exact ha d (by simp)

theorem Mem.canon_wf (m : Mem) : (Mem.canon m).wf = true := by
  induction m with
  | nil => rfl
  | cons c r ih => exact Mem.write_wf _ _ _ ih

theorem Mem.splice_wf (m : Mem) (a n : Nat) (cells : Mem) (h : m.wf = true) : (m.splice a n cells).wf = true := by
  have h1 := (Mem.wf_iff _).1 (Mem.filter_wf (fun c => decide (c.1 < a)) m h)
  have h2 := (Mem.wf_iff _).1 (Mem.filter_wf (fun c => decide (c.1 < n)) _ (Mem.canon_wf cells))
  have h3 := (Mem.wf_iff _).1 (Mem.filter_wf (fun c => decide (a + n ≤ c.1)) m h)
  refine (Mem.wf_iff _).2 ⟨?_, ?_⟩
  · simp only [Mem.splice, List.pairwise_append, List.pairwise_map]
    refine ⟨⟨h1.1, h2.1.imp (by simp), fun x hx y hy => ?_⟩, h3.1, fun x hx y hy => ?_⟩
    · simp only [List.mem_map, List.mem_filter, decide_eq_true_eq] at hx hy
      obtain ⟨z, _, rfl⟩ := hy
      simp only; omega
    · simp only [List.mem_append, List.mem_map, List.mem_filter, decide_eq_true_eq] at hx hy
      rcases hx with hx | ⟨z, hz, rfl⟩ <;> omega
  · intro c hc
    simp only [Mem.splice, List.mem_append, List.mem_map] at hc
    rcases hc with (hc | ⟨z, hz, rfl⟩) | hc
    · exact h1.2 c hc
    · exact h2.2 z hz
    · exact h3.2 c hc

theorem Mem.region_wf (m : Mem) (a n : Nat) (h : m.wf = true) : (m.region a n).wf = true := by
  have h1 := (Mem.wf_iff _).1 (Mem.filter_wf (fun c => decide (a ≤ c.1 ∧ c.1 < a + n)) m h)
  refine (Mem.wf_iff _).2 ⟨?_, ?_⟩
  · simp only [Mem.region, List.pairwise_map]
    refine List.Pairwise.imp_of_mem (fun hx _ hxy => ?_) h1.1
    simp only [List.mem_filter, decide_eq_true_eq] at hx
    omega
  · intro c hc
    simp only [Mem.region, List.mem_map] at hc
    obtain ⟨z, hz, rfl⟩ := hc
    exact h1.2 z hz

/-! ## Cells and pages -/

/-- Two neighbouring ranges of a memory in rising order make one. -/
theorem Mem.filter_meet (m : Mem) (hm : m.Pairwise (fun a b => a.1 < b.1)) {a b d : Nat} (hab : a ≤ b) (hbd : b ≤ d) :
    m.filter (fun c => decide (a ≤ c.1 ∧ c.1 < b)) ++ m.filter (fun c => decide (b ≤ c.1 ∧ c.1 < d)) =
      m.filter (fun c => decide (a ≤ c.1 ∧ c.1 < d)) := by
  induction m with
  | nil => rfl
  | cons c r ih =>
    obtain ⟨hc, hr⟩ := List.pairwise_cons.1 hm
    have ih := ih hr
    simp only [List.filter_cons]
    by_cases h1 : c.1 < a
    · rw [if_neg (by simp; omega), if_neg (by simp; omega), if_neg (by simp; omega), ih]
    · by_cases h2 : c.1 < b
      · rw [if_pos (by simp; omega), if_neg (by simp; omega), if_pos (by simp; omega), List.cons_append, ih]
      · have hn : r.filter (fun c => decide (a ≤ c.1 ∧ c.1 < b)) = [] := by
          refine List.filter_eq_nil_iff.2 (fun x hx => ?_)
          have := hc x hx
          simp; omega
        rw [hn, List.nil_append] at ih
        rw [if_neg (by simp; omega), hn, List.nil_append, ih]
        split <;> rename_i h3 <;> simp at h3
        · rw [if_pos (by simp; omega)]
        · rw [if_neg (by simp; omega)]

/-- The pages of a range, one after another, hold the cells of the range. -/
theorem Mem.pages_cover (m : Mem) (hm : m.Pairwise (fun a b => a.1 < b.1)) (k n : Nat) :
    (List.range n).flatMap (fun i => m.filter (fun c => decide (k + i * pageBytes ≤ c.1 ∧ c.1 < k + i * pageBytes + pageBytes))) =
      m.filter (fun c => decide (k ≤ c.1 ∧ c.1 < k + n * pageBytes)) := by
  induction n with
  | zero =>
    symm
    simp only [List.range_zero, List.flatMap_nil]
    exact List.filter_eq_nil_iff.2 (fun x _ => by simp)
  | succ n ih =>
    rw [List.range_succ, List.flatMap_append, ih, List.flatMap_singleton]
    have := Mem.filter_meet m hm (a := k) (b := k + n * pageBytes) (d := k + n * pageBytes + pageBytes) (by omega) (by omega)
    rw [this]
    congr 1; funext c; congr 1; simp only [Nat.add_mul, Nat.one_mul]; rw [← Nat.add_assoc]

/-- A region put back at its place is the cells of that range. -/
theorem shiftCells_region (m : Mem) (o n : Nat) : shiftCells o (m.region o n) = m.filter (fun c => decide (o ≤ c.1 ∧ c.1 < o + n)) := by
  unfold shiftCells Mem.region
  rw [List.map_map]
  refine (List.map_congr_left (fun c hc => ?_)).trans (List.map_id _)
  have := (List.mem_filter.1 hc).2
  simp only [decide_eq_true_eq] at this
  simp only [Function.comp, id]
  ext <;> simp; omega

/-- The first byte of cells. -/
theorem cellsAt_cons (o : Nat) (b : Byte) (l : List Byte) :
    cellsAt o (b :: l) = (if b ≠ 0 then [(o, b)] else []) ++ cellsAt (o + 1) l := by
  unfold cellsAt
  rw [List.mapIdx_cons, List.filter_cons]
  have : (fun (i : Nat) (v : Byte) => (o + (i + 1), v)) = fun i v => (o + 1 + i, v) := by
    funext i v; congr 1; omega
  simp only [this]
  by_cases h : b = 0
  · simp [h]
  · rw [if_pos (by simpa using h), if_pos h]; rfl

/-- Cells stand where their bytes go. -/
theorem cellsAt_in (l : List Byte) : ∀ o, ∀ c ∈ cellsAt o l, o ≤ c.1 ∧ c.1 < o + l.length := by
  induction l with
  | nil => intro o c h; simp [cellsAt] at h
  | cons b l ih =>
    intro o c h
    rw [cellsAt_cons] at h
    rcases List.mem_append.1 h with h | h
    · split at h
      · simp at h; subst h; simp
      · cases h
    · have := ih _ c h
      simp; omega

/-- Cells rise. -/
theorem cellsAt_sorted (l : List Byte) : ∀ o, (cellsAt o l).Pairwise (fun a b => a.1 < b.1) := by
  induction l with
  | nil => intro o; simp [cellsAt]
  | cons b l ih =>
    intro o
    rw [cellsAt_cons]
    refine List.pairwise_append.2 ⟨by split <;> simp, ih _, fun x hx y hy => ?_⟩
    have := cellsAt_in l _ y hy
    split at hx
    · simp at hx; subst hx; simp; omega
    · cases hx

/-- Cells counted from their place. -/
theorem cellsAt_shift (l : List Byte) : ∀ o, (cellsAt o l).map (fun c => (c.1 - o, c.2)) = cellsAt 0 l := by
  have : ∀ (l : List Byte) (o p : Nat), (cellsAt (o + p) l).map (fun c => (c.1 - o, c.2)) = cellsAt p l := by
    intro l
    induction l with
    | nil => intros; rfl
    | cons b l ih =>
      intro o p
      rw [cellsAt_cons, cellsAt_cons, List.map_append, Nat.add_assoc, ih o (p + 1)]
      split <;> simp
  intro o
  exact this l o 0

/-- A range that holds every cell. -/
theorem Mem.filter_all (m : Mem) (a b : Nat) (h : ∀ c ∈ m, a ≤ c.1 ∧ c.1 < b) :
    m.filter (fun c => decide (a ≤ c.1 ∧ c.1 < b)) = m :=
  List.filter_eq_self.2 (fun c hc => decide_eq_true (h c hc))

/-- A range that holds none. -/
theorem Mem.filter_none (m : Mem) (a b : Nat) (h : ∀ c ∈ m, c.1 < a ∨ b ≤ c.1) :
    m.filter (fun c => decide (a ≤ c.1 ∧ c.1 < b)) = [] :=
  List.filter_eq_nil_iff.2 (fun c hc => by have := h c hc; simp; omega)

end Sys2Proof.Machine
end

