-- ==== Sys2Proof/Laws/State.lean ====
section
/-! SUPPORT. One lemma for each field and each update of the state, a core and a berth, and reading back what was
replaced. -/

namespace Sys2Proof.Machine

open Sys2Proof

/-! ## `State.setCore` -/

@[simp] theorem State.setCore_cur (s : State) (c : CoreId) (k : Core) : (s.setCore c k).cur = s.cur := rfl
@[simp] theorem State.setCore_stage (s : State) (c : CoreId) (k : Core) : (s.setCore c k).stage = s.stage := rfl
@[simp] theorem State.setCore_todo (s : State) (c : CoreId) (k : Core) : (s.setCore c k).todo = s.todo := rfl
@[simp] theorem State.setCore_ends (s : State) (c : CoreId) (k : Core) : (s.setCore c k).ends = s.ends := rfl
@[simp] theorem State.setCore_inputs (s : State) (c : CoreId) (k : Core) : (s.setCore c k).inputs = s.inputs := rfl
@[simp] theorem State.setCore_free (s : State) (c : CoreId) (k : Core) : (s.setCore c k).free = s.free := rfl
@[simp] theorem State.setCore_frac (s : State) (c : CoreId) (k : Core) : (s.setCore c k).frac = s.frac := rfl
@[simp] theorem State.setCore_cyc (s : State) (c : CoreId) (k : Core) : (s.setCore c k).cyc = s.cyc := rfl
@[simp] theorem State.setCore_powered (s : State) (c : CoreId) (k : Core) : (s.setCore c k).powered = s.powered := rfl
@[simp] theorem State.setCore_freq (s : State) (c : CoreId) (k : Core) : (s.setCore c k).freq = s.freq := rfl
@[simp] theorem State.setCore_clockStop (s : State) (c : CoreId) (k : Core) : (s.setCore c k).clockStop = s.clockStop := rfl
@[simp] theorem State.setCore_stopEnd (s : State) (c : CoreId) (k : Core) : (s.setCore c k).stopEnd = s.stopEnd := rfl
@[simp] theorem State.setCore_thermal (s : State) (c : CoreId) (k : Core) : (s.setCore c k).thermal = s.thermal := rfl
@[simp] theorem State.setCore_modid (s : State) (c : CoreId) (k : Core) : (s.setCore c k).modid = s.modid := rfl
@[simp] theorem State.setCore_dom (s : State) (c : CoreId) (k : Core) : (s.setCore c k).dom = s.dom := rfl
@[simp] theorem State.setCore_domLock (s : State) (c : CoreId) (k : Core) : (s.setCore c k).domLock = s.domLock := rfl
@[simp] theorem State.setCore_domOffs (s : State) (c : CoreId) (k : Core) : (s.setCore c k).domOffs = s.domOffs := rfl
@[simp] theorem State.setCore_domMods (s : State) (c : CoreId) (k : Core) : (s.setCore c k).domMods = s.domMods := rfl
@[simp] theorem State.setCore_joinRounds (s : State) (c : CoreId) (k : Core) : (s.setCore c k).joinRounds = s.joinRounds := rfl
@[simp] theorem State.setCore_joinSum (s : State) (c : CoreId) (k : Core) : (s.setCore c k).joinSum = s.joinSum := rfl
@[simp] theorem State.setCore_ports (s : State) (c : CoreId) (k : Core) : (s.setCore c k).ports = s.ports := rfl
@[simp] theorem State.setCore_peerUps (s : State) (c : CoreId) (k : Core) : (s.setCore c k).peerUps = s.peerUps := rfl
@[simp] theorem State.setCore_joints (s : State) (c : CoreId) (k : Core) : (s.setCore c k).joints = s.joints := rfl
@[simp] theorem State.setCore_ceilings (s : State) (c : CoreId) (k : Core) : (s.setCore c k).ceilings = s.ceilings := rfl
@[simp] theorem State.setCore_rails (s : State) (c : CoreId) (k : Core) : (s.setCore c k).rails = s.rails := rfl
@[simp] theorem State.setCore_mbox (s : State) (c : CoreId) (k : Core) : (s.setCore c k).mbox = s.mbox := rfl
@[simp] theorem State.setCore_flash (s : State) (c : CoreId) (k : Core) : (s.setCore c k).flash = s.flash := rfl
@[simp] theorem State.setCore_health (s : State) (c : CoreId) (k : Core) : (s.setCore c k).health = s.health := rfl
@[simp] theorem State.setCore_hourly (s : State) (c : CoreId) (k : Core) : (s.setCore c k).hourly = s.hourly := rfl
@[simp] theorem State.setCore_temps (s : State) (c : CoreId) (k : Core) : (s.setCore c k).temps = s.temps := rfl
@[simp] theorem State.setCore_boot (s : State) (c : CoreId) (k : Core) : (s.setCore c k).boot = s.boot := rfl
@[simp] theorem State.setCore_fwVer (s : State) (c : CoreId) (k : Core) : (s.setCore c k).fwVer = s.fwVer := rfl
@[simp] theorem State.setCore_fwB (s : State) (c : CoreId) (k : Core) : (s.setCore c k).fwB = s.fwB := rfl
@[simp] theorem State.setCore_pufBad (s : State) (c : CoreId) (k : Core) : (s.setCore c k).pufBad = s.pufBad := rfl
@[simp] theorem State.setCore_fwMeas (s : State) (c : CoreId) (k : Core) : (s.setCore c k).fwMeas = s.fwMeas := rfl
@[simp] theorem State.setCore_doe (s : State) (c : CoreId) (k : Core) : (s.setCore c k).doe = s.doe := rfl
@[simp] theorem State.setCore_hostData (s : State) (c : CoreId) (k : Core) : (s.setCore c k).hostData = s.hostData := rfl
@[simp] theorem State.setCore_perst (s : State) (c : CoreId) (k : Core) : (s.setCore c k).perst = s.perst := rfl
@[simp] theorem State.setCore_pcieUp (s : State) (c : CoreId) (k : Core) : (s.setCore c k).pcieUp = s.pcieUp := rfl
@[simp] theorem State.setCore_freeRes (s : State) (c : CoreId) (k : Core) : (s.setCore c k).freeRes = s.freeRes := rfl
@[simp] theorem State.setCore_scrubbing (s : State) (c : CoreId) (k : Core) : (s.setCore c k).scrubbing = s.scrubbing := rfl
@[simp] theorem State.setCore_gate (s : State) (c : CoreId) (k : Core) : (s.setCore c k).gate = s.gate := rfl
@[simp] theorem State.setCore_remaps (s : State) (c : CoreId) (k : Core) : (s.setCore c k).remaps = s.remaps := rfl
@[simp] theorem State.setCore_writing (s : State) (c : CoreId) (k : Core) : (s.setCore c k).writing = s.writing := rfl
@[simp] theorem State.setCore_writeWait (s : State) (c : CoreId) (k : Core) : (s.setCore c k).writeWait = s.writeWait := rfl
@[simp] theorem State.setCore_calPer (s : State) (c : CoreId) (k : Core) : (s.setCore c k).calPer = s.calPer := rfl
@[simp] theorem State.setCore_symPer (s : State) (c : CoreId) (k : Core) : (s.setCore c k).symPer = s.symPer := rfl
@[simp] theorem State.setCore_symP (s : State) (c : CoreId) (k : Core) : (s.setCore c k).symP = s.symP := rfl
@[simp] theorem State.setCore_mntEn (s : State) (c : CoreId) (k : Core) : (s.setCore c k).mntEn = s.mntEn := rfl
@[simp] theorem State.setCore_sfRun (s : State) (c : CoreId) (k : Core) : (s.setCore c k).sfRun = s.sfRun := rfl
@[simp] theorem State.setCore_quads (s : State) (c : CoreId) (k : Core) : (s.setCore c k).quads = s.quads := rfl
@[simp] theorem State.setCore_dies (s : State) (c : CoreId) (k : Core) : (s.setCore c k).dies = s.dies := rfl
@[simp] theorem State.setCore_pairs (s : State) (c : CoreId) (k : Core) : (s.setCore c k).pairs = s.pairs := rfl
@[simp] theorem State.setCore_launches (s : State) (c : CoreId) (k : Core) : (s.setCore c k).launches = s.launches := rfl
@[simp] theorem State.setCore_prepares (s : State) (c : CoreId) (k : Core) : (s.setCore c k).prepares = s.prepares := rfl
@[simp] theorem State.setCore_parts (s : State) (c : CoreId) (k : Core) : (s.setCore c k).parts = s.parts := rfl
@[simp] theorem State.setCore_pf0 (s : State) (c : CoreId) (k : Core) : (s.setCore c k).pf0 = s.pf0 := rfl
@[simp] theorem State.setCore_mem (s : State) (c : CoreId) (k : Core) : (s.setCore c k).mem = s.mem := rfl
@[simp] theorem State.setCore_bad (s : State) (c : CoreId) (k : Core) : (s.setCore c k).bad = s.bad := rfl
@[simp] theorem State.setCore_saved (s : State) (c : CoreId) (k : Core) : (s.setCore c k).saved = s.saved := rfl
@[simp] theorem State.setCore_lines (s : State) (c : CoreId) (k : Core) : (s.setCore c k).lines = s.lines := rfl
@[simp] theorem State.setCore_tokMsgs (s : State) (c : CoreId) (k : Core) : (s.setCore c k).tokMsgs = s.tokMsgs := rfl
@[simp] theorem State.setCore_tokReqs (s : State) (c : CoreId) (k : Core) : (s.setCore c k).tokReqs = s.tokReqs := rfl

/-! ## `State.updCore` -/

@[simp] theorem State.updCore_cur (s : State) (c : CoreId) (f : Core → Core) : (s.updCore c f).cur = s.cur := rfl
@[simp] theorem State.updCore_stage (s : State) (c : CoreId) (f : Core → Core) : (s.updCore c f).stage = s.stage := rfl
@[simp] theorem State.updCore_todo (s : State) (c : CoreId) (f : Core → Core) : (s.updCore c f).todo = s.todo := rfl
@[simp] theorem State.updCore_ends (s : State) (c : CoreId) (f : Core → Core) : (s.updCore c f).ends = s.ends := rfl
@[simp] theorem State.updCore_inputs (s : State) (c : CoreId) (f : Core → Core) : (s.updCore c f).inputs = s.inputs := rfl
@[simp] theorem State.updCore_free (s : State) (c : CoreId) (f : Core → Core) : (s.updCore c f).free = s.free := rfl
@[simp] theorem State.updCore_frac (s : State) (c : CoreId) (f : Core → Core) : (s.updCore c f).frac = s.frac := rfl
@[simp] theorem State.updCore_cyc (s : State) (c : CoreId) (f : Core → Core) : (s.updCore c f).cyc = s.cyc := rfl
@[simp] theorem State.updCore_powered (s : State) (c : CoreId) (f : Core → Core) : (s.updCore c f).powered = s.powered := rfl
@[simp] theorem State.updCore_freq (s : State) (c : CoreId) (f : Core → Core) : (s.updCore c f).freq = s.freq := rfl
@[simp] theorem State.updCore_clockStop (s : State) (c : CoreId) (f : Core → Core) : (s.updCore c f).clockStop = s.clockStop := rfl
@[simp] theorem State.updCore_stopEnd (s : State) (c : CoreId) (f : Core → Core) : (s.updCore c f).stopEnd = s.stopEnd := rfl
@[simp] theorem State.updCore_thermal (s : State) (c : CoreId) (f : Core → Core) : (s.updCore c f).thermal = s.thermal := rfl
@[simp] theorem State.updCore_modid (s : State) (c : CoreId) (f : Core → Core) : (s.updCore c f).modid = s.modid := rfl
@[simp] theorem State.updCore_dom (s : State) (c : CoreId) (f : Core → Core) : (s.updCore c f).dom = s.dom := rfl
@[simp] theorem State.updCore_domLock (s : State) (c : CoreId) (f : Core → Core) : (s.updCore c f).domLock = s.domLock := rfl
@[simp] theorem State.updCore_domOffs (s : State) (c : CoreId) (f : Core → Core) : (s.updCore c f).domOffs = s.domOffs := rfl
@[simp] theorem State.updCore_domMods (s : State) (c : CoreId) (f : Core → Core) : (s.updCore c f).domMods = s.domMods := rfl
@[simp] theorem State.updCore_joinRounds (s : State) (c : CoreId) (f : Core → Core) : (s.updCore c f).joinRounds = s.joinRounds := rfl
@[simp] theorem State.updCore_joinSum (s : State) (c : CoreId) (f : Core → Core) : (s.updCore c f).joinSum = s.joinSum := rfl
@[simp] theorem State.updCore_ports (s : State) (c : CoreId) (f : Core → Core) : (s.updCore c f).ports = s.ports := rfl
@[simp] theorem State.updCore_peerUps (s : State) (c : CoreId) (f : Core → Core) : (s.updCore c f).peerUps = s.peerUps := rfl
@[simp] theorem State.updCore_joints (s : State) (c : CoreId) (f : Core → Core) : (s.updCore c f).joints = s.joints := rfl
@[simp] theorem State.updCore_ceilings (s : State) (c : CoreId) (f : Core → Core) : (s.updCore c f).ceilings = s.ceilings := rfl
@[simp] theorem State.updCore_rails (s : State) (c : CoreId) (f : Core → Core) : (s.updCore c f).rails = s.rails := rfl
@[simp] theorem State.updCore_mbox (s : State) (c : CoreId) (f : Core → Core) : (s.updCore c f).mbox = s.mbox := rfl
@[simp] theorem State.updCore_flash (s : State) (c : CoreId) (f : Core → Core) : (s.updCore c f).flash = s.flash := rfl
@[simp] theorem State.updCore_health (s : State) (c : CoreId) (f : Core → Core) : (s.updCore c f).health = s.health := rfl
@[simp] theorem State.updCore_hourly (s : State) (c : CoreId) (f : Core → Core) : (s.updCore c f).hourly = s.hourly := rfl
@[simp] theorem State.updCore_temps (s : State) (c : CoreId) (f : Core → Core) : (s.updCore c f).temps = s.temps := rfl
@[simp] theorem State.updCore_boot (s : State) (c : CoreId) (f : Core → Core) : (s.updCore c f).boot = s.boot := rfl
@[simp] theorem State.updCore_fwVer (s : State) (c : CoreId) (f : Core → Core) : (s.updCore c f).fwVer = s.fwVer := rfl
@[simp] theorem State.updCore_fwB (s : State) (c : CoreId) (f : Core → Core) : (s.updCore c f).fwB = s.fwB := rfl
@[simp] theorem State.updCore_pufBad (s : State) (c : CoreId) (f : Core → Core) : (s.updCore c f).pufBad = s.pufBad := rfl
@[simp] theorem State.updCore_fwMeas (s : State) (c : CoreId) (f : Core → Core) : (s.updCore c f).fwMeas = s.fwMeas := rfl
@[simp] theorem State.updCore_doe (s : State) (c : CoreId) (f : Core → Core) : (s.updCore c f).doe = s.doe := rfl
@[simp] theorem State.updCore_hostData (s : State) (c : CoreId) (f : Core → Core) : (s.updCore c f).hostData = s.hostData := rfl
@[simp] theorem State.updCore_perst (s : State) (c : CoreId) (f : Core → Core) : (s.updCore c f).perst = s.perst := rfl
@[simp] theorem State.updCore_pcieUp (s : State) (c : CoreId) (f : Core → Core) : (s.updCore c f).pcieUp = s.pcieUp := rfl
@[simp] theorem State.updCore_freeRes (s : State) (c : CoreId) (f : Core → Core) : (s.updCore c f).freeRes = s.freeRes := rfl
@[simp] theorem State.updCore_scrubbing (s : State) (c : CoreId) (f : Core → Core) : (s.updCore c f).scrubbing = s.scrubbing := rfl
@[simp] theorem State.updCore_gate (s : State) (c : CoreId) (f : Core → Core) : (s.updCore c f).gate = s.gate := rfl
@[simp] theorem State.updCore_remaps (s : State) (c : CoreId) (f : Core → Core) : (s.updCore c f).remaps = s.remaps := rfl
@[simp] theorem State.updCore_writing (s : State) (c : CoreId) (f : Core → Core) : (s.updCore c f).writing = s.writing := rfl
@[simp] theorem State.updCore_writeWait (s : State) (c : CoreId) (f : Core → Core) : (s.updCore c f).writeWait = s.writeWait := rfl
@[simp] theorem State.updCore_calPer (s : State) (c : CoreId) (f : Core → Core) : (s.updCore c f).calPer = s.calPer := rfl
@[simp] theorem State.updCore_symPer (s : State) (c : CoreId) (f : Core → Core) : (s.updCore c f).symPer = s.symPer := rfl
@[simp] theorem State.updCore_symP (s : State) (c : CoreId) (f : Core → Core) : (s.updCore c f).symP = s.symP := rfl
@[simp] theorem State.updCore_mntEn (s : State) (c : CoreId) (f : Core → Core) : (s.updCore c f).mntEn = s.mntEn := rfl
@[simp] theorem State.updCore_sfRun (s : State) (c : CoreId) (f : Core → Core) : (s.updCore c f).sfRun = s.sfRun := rfl
@[simp] theorem State.updCore_quads (s : State) (c : CoreId) (f : Core → Core) : (s.updCore c f).quads = s.quads := rfl
@[simp] theorem State.updCore_dies (s : State) (c : CoreId) (f : Core → Core) : (s.updCore c f).dies = s.dies := rfl
@[simp] theorem State.updCore_pairs (s : State) (c : CoreId) (f : Core → Core) : (s.updCore c f).pairs = s.pairs := rfl
@[simp] theorem State.updCore_launches (s : State) (c : CoreId) (f : Core → Core) : (s.updCore c f).launches = s.launches := rfl
@[simp] theorem State.updCore_prepares (s : State) (c : CoreId) (f : Core → Core) : (s.updCore c f).prepares = s.prepares := rfl
@[simp] theorem State.updCore_parts (s : State) (c : CoreId) (f : Core → Core) : (s.updCore c f).parts = s.parts := rfl
@[simp] theorem State.updCore_pf0 (s : State) (c : CoreId) (f : Core → Core) : (s.updCore c f).pf0 = s.pf0 := rfl
@[simp] theorem State.updCore_mem (s : State) (c : CoreId) (f : Core → Core) : (s.updCore c f).mem = s.mem := rfl
@[simp] theorem State.updCore_bad (s : State) (c : CoreId) (f : Core → Core) : (s.updCore c f).bad = s.bad := rfl
@[simp] theorem State.updCore_saved (s : State) (c : CoreId) (f : Core → Core) : (s.updCore c f).saved = s.saved := rfl
@[simp] theorem State.updCore_lines (s : State) (c : CoreId) (f : Core → Core) : (s.updCore c f).lines = s.lines := rfl
@[simp] theorem State.updCore_tokMsgs (s : State) (c : CoreId) (f : Core → Core) : (s.updCore c f).tokMsgs = s.tokMsgs := rfl
@[simp] theorem State.updCore_tokReqs (s : State) (c : CoreId) (f : Core → Core) : (s.updCore c f).tokReqs = s.tokReqs := rfl

/-! ## `State.updBerth` -/

@[simp] theorem State.updBerth_cur (s : State) (c : CoreId) (b : BerthId) (f : Berth → Berth) : (s.updBerth c b f).cur = s.cur := rfl
@[simp] theorem State.updBerth_stage (s : State) (c : CoreId) (b : BerthId) (f : Berth → Berth) : (s.updBerth c b f).stage = s.stage := rfl
@[simp] theorem State.updBerth_todo (s : State) (c : CoreId) (b : BerthId) (f : Berth → Berth) : (s.updBerth c b f).todo = s.todo := rfl
@[simp] theorem State.updBerth_ends (s : State) (c : CoreId) (b : BerthId) (f : Berth → Berth) : (s.updBerth c b f).ends = s.ends := rfl
@[simp] theorem State.updBerth_inputs (s : State) (c : CoreId) (b : BerthId) (f : Berth → Berth) : (s.updBerth c b f).inputs = s.inputs := rfl
@[simp] theorem State.updBerth_free (s : State) (c : CoreId) (b : BerthId) (f : Berth → Berth) : (s.updBerth c b f).free = s.free := rfl
@[simp] theorem State.updBerth_frac (s : State) (c : CoreId) (b : BerthId) (f : Berth → Berth) : (s.updBerth c b f).frac = s.frac := rfl
@[simp] theorem State.updBerth_cyc (s : State) (c : CoreId) (b : BerthId) (f : Berth → Berth) : (s.updBerth c b f).cyc = s.cyc := rfl
@[simp] theorem State.updBerth_powered (s : State) (c : CoreId) (b : BerthId) (f : Berth → Berth) : (s.updBerth c b f).powered = s.powered := rfl
@[simp] theorem State.updBerth_freq (s : State) (c : CoreId) (b : BerthId) (f : Berth → Berth) : (s.updBerth c b f).freq = s.freq := rfl
@[simp] theorem State.updBerth_clockStop (s : State) (c : CoreId) (b : BerthId) (f : Berth → Berth) : (s.updBerth c b f).clockStop = s.clockStop := rfl
@[simp] theorem State.updBerth_stopEnd (s : State) (c : CoreId) (b : BerthId) (f : Berth → Berth) : (s.updBerth c b f).stopEnd = s.stopEnd := rfl
@[simp] theorem State.updBerth_thermal (s : State) (c : CoreId) (b : BerthId) (f : Berth → Berth) : (s.updBerth c b f).thermal = s.thermal := rfl
@[simp] theorem State.updBerth_modid (s : State) (c : CoreId) (b : BerthId) (f : Berth → Berth) : (s.updBerth c b f).modid = s.modid := rfl
@[simp] theorem State.updBerth_dom (s : State) (c : CoreId) (b : BerthId) (f : Berth → Berth) : (s.updBerth c b f).dom = s.dom := rfl
@[simp] theorem State.updBerth_domLock (s : State) (c : CoreId) (b : BerthId) (f : Berth → Berth) : (s.updBerth c b f).domLock = s.domLock := rfl
@[simp] theorem State.updBerth_domOffs (s : State) (c : CoreId) (b : BerthId) (f : Berth → Berth) : (s.updBerth c b f).domOffs = s.domOffs := rfl
@[simp] theorem State.updBerth_domMods (s : State) (c : CoreId) (b : BerthId) (f : Berth → Berth) : (s.updBerth c b f).domMods = s.domMods := rfl
@[simp] theorem State.updBerth_joinRounds (s : State) (c : CoreId) (b : BerthId) (f : Berth → Berth) : (s.updBerth c b f).joinRounds = s.joinRounds := rfl
@[simp] theorem State.updBerth_joinSum (s : State) (c : CoreId) (b : BerthId) (f : Berth → Berth) : (s.updBerth c b f).joinSum = s.joinSum := rfl
@[simp] theorem State.updBerth_ports (s : State) (c : CoreId) (b : BerthId) (f : Berth → Berth) : (s.updBerth c b f).ports = s.ports := rfl
@[simp] theorem State.updBerth_peerUps (s : State) (c : CoreId) (b : BerthId) (f : Berth → Berth) : (s.updBerth c b f).peerUps = s.peerUps := rfl
@[simp] theorem State.updBerth_joints (s : State) (c : CoreId) (b : BerthId) (f : Berth → Berth) : (s.updBerth c b f).joints = s.joints := rfl
@[simp] theorem State.updBerth_ceilings (s : State) (c : CoreId) (b : BerthId) (f : Berth → Berth) : (s.updBerth c b f).ceilings = s.ceilings := rfl
@[simp] theorem State.updBerth_rails (s : State) (c : CoreId) (b : BerthId) (f : Berth → Berth) : (s.updBerth c b f).rails = s.rails := rfl
@[simp] theorem State.updBerth_mbox (s : State) (c : CoreId) (b : BerthId) (f : Berth → Berth) : (s.updBerth c b f).mbox = s.mbox := rfl
@[simp] theorem State.updBerth_flash (s : State) (c : CoreId) (b : BerthId) (f : Berth → Berth) : (s.updBerth c b f).flash = s.flash := rfl
@[simp] theorem State.updBerth_health (s : State) (c : CoreId) (b : BerthId) (f : Berth → Berth) : (s.updBerth c b f).health = s.health := rfl
@[simp] theorem State.updBerth_hourly (s : State) (c : CoreId) (b : BerthId) (f : Berth → Berth) : (s.updBerth c b f).hourly = s.hourly := rfl
@[simp] theorem State.updBerth_temps (s : State) (c : CoreId) (b : BerthId) (f : Berth → Berth) : (s.updBerth c b f).temps = s.temps := rfl
@[simp] theorem State.updBerth_boot (s : State) (c : CoreId) (b : BerthId) (f : Berth → Berth) : (s.updBerth c b f).boot = s.boot := rfl
@[simp] theorem State.updBerth_fwVer (s : State) (c : CoreId) (b : BerthId) (f : Berth → Berth) : (s.updBerth c b f).fwVer = s.fwVer := rfl
@[simp] theorem State.updBerth_fwB (s : State) (c : CoreId) (b : BerthId) (f : Berth → Berth) : (s.updBerth c b f).fwB = s.fwB := rfl
@[simp] theorem State.updBerth_pufBad (s : State) (c : CoreId) (b : BerthId) (f : Berth → Berth) : (s.updBerth c b f).pufBad = s.pufBad := rfl
@[simp] theorem State.updBerth_fwMeas (s : State) (c : CoreId) (b : BerthId) (f : Berth → Berth) : (s.updBerth c b f).fwMeas = s.fwMeas := rfl
@[simp] theorem State.updBerth_doe (s : State) (c : CoreId) (b : BerthId) (f : Berth → Berth) : (s.updBerth c b f).doe = s.doe := rfl
@[simp] theorem State.updBerth_hostData (s : State) (c : CoreId) (b : BerthId) (f : Berth → Berth) : (s.updBerth c b f).hostData = s.hostData := rfl
@[simp] theorem State.updBerth_perst (s : State) (c : CoreId) (b : BerthId) (f : Berth → Berth) : (s.updBerth c b f).perst = s.perst := rfl
@[simp] theorem State.updBerth_pcieUp (s : State) (c : CoreId) (b : BerthId) (f : Berth → Berth) : (s.updBerth c b f).pcieUp = s.pcieUp := rfl
@[simp] theorem State.updBerth_freeRes (s : State) (c : CoreId) (b : BerthId) (f : Berth → Berth) : (s.updBerth c b f).freeRes = s.freeRes := rfl
@[simp] theorem State.updBerth_scrubbing (s : State) (c : CoreId) (b : BerthId) (f : Berth → Berth) : (s.updBerth c b f).scrubbing = s.scrubbing := rfl
@[simp] theorem State.updBerth_gate (s : State) (c : CoreId) (b : BerthId) (f : Berth → Berth) : (s.updBerth c b f).gate = s.gate := rfl
@[simp] theorem State.updBerth_remaps (s : State) (c : CoreId) (b : BerthId) (f : Berth → Berth) : (s.updBerth c b f).remaps = s.remaps := rfl
@[simp] theorem State.updBerth_writing (s : State) (c : CoreId) (b : BerthId) (f : Berth → Berth) : (s.updBerth c b f).writing = s.writing := rfl
@[simp] theorem State.updBerth_writeWait (s : State) (c : CoreId) (b : BerthId) (f : Berth → Berth) : (s.updBerth c b f).writeWait = s.writeWait := rfl
@[simp] theorem State.updBerth_calPer (s : State) (c : CoreId) (b : BerthId) (f : Berth → Berth) : (s.updBerth c b f).calPer = s.calPer := rfl
@[simp] theorem State.updBerth_symPer (s : State) (c : CoreId) (b : BerthId) (f : Berth → Berth) : (s.updBerth c b f).symPer = s.symPer := rfl
@[simp] theorem State.updBerth_symP (s : State) (c : CoreId) (b : BerthId) (f : Berth → Berth) : (s.updBerth c b f).symP = s.symP := rfl
@[simp] theorem State.updBerth_mntEn (s : State) (c : CoreId) (b : BerthId) (f : Berth → Berth) : (s.updBerth c b f).mntEn = s.mntEn := rfl
@[simp] theorem State.updBerth_sfRun (s : State) (c : CoreId) (b : BerthId) (f : Berth → Berth) : (s.updBerth c b f).sfRun = s.sfRun := rfl
@[simp] theorem State.updBerth_quads (s : State) (c : CoreId) (b : BerthId) (f : Berth → Berth) : (s.updBerth c b f).quads = s.quads := rfl
@[simp] theorem State.updBerth_dies (s : State) (c : CoreId) (b : BerthId) (f : Berth → Berth) : (s.updBerth c b f).dies = s.dies := rfl
@[simp] theorem State.updBerth_pairs (s : State) (c : CoreId) (b : BerthId) (f : Berth → Berth) : (s.updBerth c b f).pairs = s.pairs := rfl
@[simp] theorem State.updBerth_launches (s : State) (c : CoreId) (b : BerthId) (f : Berth → Berth) : (s.updBerth c b f).launches = s.launches := rfl
@[simp] theorem State.updBerth_prepares (s : State) (c : CoreId) (b : BerthId) (f : Berth → Berth) : (s.updBerth c b f).prepares = s.prepares := rfl
@[simp] theorem State.updBerth_parts (s : State) (c : CoreId) (b : BerthId) (f : Berth → Berth) : (s.updBerth c b f).parts = s.parts := rfl
@[simp] theorem State.updBerth_pf0 (s : State) (c : CoreId) (b : BerthId) (f : Berth → Berth) : (s.updBerth c b f).pf0 = s.pf0 := rfl
@[simp] theorem State.updBerth_mem (s : State) (c : CoreId) (b : BerthId) (f : Berth → Berth) : (s.updBerth c b f).mem = s.mem := rfl
@[simp] theorem State.updBerth_bad (s : State) (c : CoreId) (b : BerthId) (f : Berth → Berth) : (s.updBerth c b f).bad = s.bad := rfl
@[simp] theorem State.updBerth_saved (s : State) (c : CoreId) (b : BerthId) (f : Berth → Berth) : (s.updBerth c b f).saved = s.saved := rfl
@[simp] theorem State.updBerth_lines (s : State) (c : CoreId) (b : BerthId) (f : Berth → Berth) : (s.updBerth c b f).lines = s.lines := rfl
@[simp] theorem State.updBerth_tokMsgs (s : State) (c : CoreId) (b : BerthId) (f : Berth → Berth) : (s.updBerth c b f).tokMsgs = s.tokMsgs := rfl
@[simp] theorem State.updBerth_tokReqs (s : State) (c : CoreId) (b : BerthId) (f : Berth → Berth) : (s.updBerth c b f).tokReqs = s.tokReqs := rfl

/-! ## `State.setPair` -/

@[simp] theorem State.setPair_cur (s : State) (t : PairId) (p : Pair) : (s.setPair t p).cur = s.cur := rfl
@[simp] theorem State.setPair_stage (s : State) (t : PairId) (p : Pair) : (s.setPair t p).stage = s.stage := rfl
@[simp] theorem State.setPair_todo (s : State) (t : PairId) (p : Pair) : (s.setPair t p).todo = s.todo := rfl
@[simp] theorem State.setPair_ends (s : State) (t : PairId) (p : Pair) : (s.setPair t p).ends = s.ends := rfl
@[simp] theorem State.setPair_inputs (s : State) (t : PairId) (p : Pair) : (s.setPair t p).inputs = s.inputs := rfl
@[simp] theorem State.setPair_free (s : State) (t : PairId) (p : Pair) : (s.setPair t p).free = s.free := rfl
@[simp] theorem State.setPair_frac (s : State) (t : PairId) (p : Pair) : (s.setPair t p).frac = s.frac := rfl
@[simp] theorem State.setPair_cyc (s : State) (t : PairId) (p : Pair) : (s.setPair t p).cyc = s.cyc := rfl
@[simp] theorem State.setPair_powered (s : State) (t : PairId) (p : Pair) : (s.setPair t p).powered = s.powered := rfl
@[simp] theorem State.setPair_freq (s : State) (t : PairId) (p : Pair) : (s.setPair t p).freq = s.freq := rfl
@[simp] theorem State.setPair_clockStop (s : State) (t : PairId) (p : Pair) : (s.setPair t p).clockStop = s.clockStop := rfl
@[simp] theorem State.setPair_stopEnd (s : State) (t : PairId) (p : Pair) : (s.setPair t p).stopEnd = s.stopEnd := rfl
@[simp] theorem State.setPair_thermal (s : State) (t : PairId) (p : Pair) : (s.setPair t p).thermal = s.thermal := rfl
@[simp] theorem State.setPair_modid (s : State) (t : PairId) (p : Pair) : (s.setPair t p).modid = s.modid := rfl
@[simp] theorem State.setPair_dom (s : State) (t : PairId) (p : Pair) : (s.setPair t p).dom = s.dom := rfl
@[simp] theorem State.setPair_domLock (s : State) (t : PairId) (p : Pair) : (s.setPair t p).domLock = s.domLock := rfl
@[simp] theorem State.setPair_domOffs (s : State) (t : PairId) (p : Pair) : (s.setPair t p).domOffs = s.domOffs := rfl
@[simp] theorem State.setPair_domMods (s : State) (t : PairId) (p : Pair) : (s.setPair t p).domMods = s.domMods := rfl
@[simp] theorem State.setPair_joinRounds (s : State) (t : PairId) (p : Pair) : (s.setPair t p).joinRounds = s.joinRounds := rfl
@[simp] theorem State.setPair_joinSum (s : State) (t : PairId) (p : Pair) : (s.setPair t p).joinSum = s.joinSum := rfl
@[simp] theorem State.setPair_ports (s : State) (t : PairId) (p : Pair) : (s.setPair t p).ports = s.ports := rfl
@[simp] theorem State.setPair_peerUps (s : State) (t : PairId) (p : Pair) : (s.setPair t p).peerUps = s.peerUps := rfl
@[simp] theorem State.setPair_joints (s : State) (t : PairId) (p : Pair) : (s.setPair t p).joints = s.joints := rfl
@[simp] theorem State.setPair_ceilings (s : State) (t : PairId) (p : Pair) : (s.setPair t p).ceilings = s.ceilings := rfl
@[simp] theorem State.setPair_rails (s : State) (t : PairId) (p : Pair) : (s.setPair t p).rails = s.rails := rfl
@[simp] theorem State.setPair_mbox (s : State) (t : PairId) (p : Pair) : (s.setPair t p).mbox = s.mbox := rfl
@[simp] theorem State.setPair_flash (s : State) (t : PairId) (p : Pair) : (s.setPair t p).flash = s.flash := rfl
@[simp] theorem State.setPair_health (s : State) (t : PairId) (p : Pair) : (s.setPair t p).health = s.health := rfl
@[simp] theorem State.setPair_hourly (s : State) (t : PairId) (p : Pair) : (s.setPair t p).hourly = s.hourly := rfl
@[simp] theorem State.setPair_temps (s : State) (t : PairId) (p : Pair) : (s.setPair t p).temps = s.temps := rfl
@[simp] theorem State.setPair_boot (s : State) (t : PairId) (p : Pair) : (s.setPair t p).boot = s.boot := rfl
@[simp] theorem State.setPair_fwVer (s : State) (t : PairId) (p : Pair) : (s.setPair t p).fwVer = s.fwVer := rfl
@[simp] theorem State.setPair_fwB (s : State) (t : PairId) (p : Pair) : (s.setPair t p).fwB = s.fwB := rfl
@[simp] theorem State.setPair_pufBad (s : State) (t : PairId) (p : Pair) : (s.setPair t p).pufBad = s.pufBad := rfl
@[simp] theorem State.setPair_fwMeas (s : State) (t : PairId) (p : Pair) : (s.setPair t p).fwMeas = s.fwMeas := rfl
@[simp] theorem State.setPair_doe (s : State) (t : PairId) (p : Pair) : (s.setPair t p).doe = s.doe := rfl
@[simp] theorem State.setPair_hostData (s : State) (t : PairId) (p : Pair) : (s.setPair t p).hostData = s.hostData := rfl
@[simp] theorem State.setPair_perst (s : State) (t : PairId) (p : Pair) : (s.setPair t p).perst = s.perst := rfl
@[simp] theorem State.setPair_pcieUp (s : State) (t : PairId) (p : Pair) : (s.setPair t p).pcieUp = s.pcieUp := rfl
@[simp] theorem State.setPair_freeRes (s : State) (t : PairId) (p : Pair) : (s.setPair t p).freeRes = s.freeRes := rfl
@[simp] theorem State.setPair_scrubbing (s : State) (t : PairId) (p : Pair) : (s.setPair t p).scrubbing = s.scrubbing := rfl
@[simp] theorem State.setPair_gate (s : State) (t : PairId) (p : Pair) : (s.setPair t p).gate = s.gate := rfl
@[simp] theorem State.setPair_remaps (s : State) (t : PairId) (p : Pair) : (s.setPair t p).remaps = s.remaps := rfl
@[simp] theorem State.setPair_writing (s : State) (t : PairId) (p : Pair) : (s.setPair t p).writing = s.writing := rfl
@[simp] theorem State.setPair_writeWait (s : State) (t : PairId) (p : Pair) : (s.setPair t p).writeWait = s.writeWait := rfl
@[simp] theorem State.setPair_calPer (s : State) (t : PairId) (p : Pair) : (s.setPair t p).calPer = s.calPer := rfl
@[simp] theorem State.setPair_symPer (s : State) (t : PairId) (p : Pair) : (s.setPair t p).symPer = s.symPer := rfl
@[simp] theorem State.setPair_symP (s : State) (t : PairId) (p : Pair) : (s.setPair t p).symP = s.symP := rfl
@[simp] theorem State.setPair_mntEn (s : State) (t : PairId) (p : Pair) : (s.setPair t p).mntEn = s.mntEn := rfl
@[simp] theorem State.setPair_sfRun (s : State) (t : PairId) (p : Pair) : (s.setPair t p).sfRun = s.sfRun := rfl
@[simp] theorem State.setPair_cores (s : State) (t : PairId) (p : Pair) : (s.setPair t p).cores = s.cores := rfl
@[simp] theorem State.setPair_quads (s : State) (t : PairId) (p : Pair) : (s.setPair t p).quads = s.quads := rfl
@[simp] theorem State.setPair_dies (s : State) (t : PairId) (p : Pair) : (s.setPair t p).dies = s.dies := rfl
@[simp] theorem State.setPair_launches (s : State) (t : PairId) (p : Pair) : (s.setPair t p).launches = s.launches := rfl
@[simp] theorem State.setPair_prepares (s : State) (t : PairId) (p : Pair) : (s.setPair t p).prepares = s.prepares := rfl
@[simp] theorem State.setPair_parts (s : State) (t : PairId) (p : Pair) : (s.setPair t p).parts = s.parts := rfl
@[simp] theorem State.setPair_pf0 (s : State) (t : PairId) (p : Pair) : (s.setPair t p).pf0 = s.pf0 := rfl
@[simp] theorem State.setPair_mem (s : State) (t : PairId) (p : Pair) : (s.setPair t p).mem = s.mem := rfl
@[simp] theorem State.setPair_bad (s : State) (t : PairId) (p : Pair) : (s.setPair t p).bad = s.bad := rfl
@[simp] theorem State.setPair_saved (s : State) (t : PairId) (p : Pair) : (s.setPair t p).saved = s.saved := rfl
@[simp] theorem State.setPair_lines (s : State) (t : PairId) (p : Pair) : (s.setPair t p).lines = s.lines := rfl
@[simp] theorem State.setPair_tokMsgs (s : State) (t : PairId) (p : Pair) : (s.setPair t p).tokMsgs = s.tokMsgs := rfl
@[simp] theorem State.setPair_tokReqs (s : State) (t : PairId) (p : Pair) : (s.setPair t p).tokReqs = s.tokReqs := rfl

/-! ## `State.setPart` -/

@[simp] theorem State.setPart_cur (s : State) (p : PartId) (x : Partition) : (s.setPart p x).cur = s.cur := rfl
@[simp] theorem State.setPart_stage (s : State) (p : PartId) (x : Partition) : (s.setPart p x).stage = s.stage := rfl
@[simp] theorem State.setPart_todo (s : State) (p : PartId) (x : Partition) : (s.setPart p x).todo = s.todo := rfl
@[simp] theorem State.setPart_ends (s : State) (p : PartId) (x : Partition) : (s.setPart p x).ends = s.ends := rfl
@[simp] theorem State.setPart_inputs (s : State) (p : PartId) (x : Partition) : (s.setPart p x).inputs = s.inputs := rfl
@[simp] theorem State.setPart_free (s : State) (p : PartId) (x : Partition) : (s.setPart p x).free = s.free := rfl
@[simp] theorem State.setPart_frac (s : State) (p : PartId) (x : Partition) : (s.setPart p x).frac = s.frac := rfl
@[simp] theorem State.setPart_cyc (s : State) (p : PartId) (x : Partition) : (s.setPart p x).cyc = s.cyc := rfl
@[simp] theorem State.setPart_powered (s : State) (p : PartId) (x : Partition) : (s.setPart p x).powered = s.powered := rfl
@[simp] theorem State.setPart_freq (s : State) (p : PartId) (x : Partition) : (s.setPart p x).freq = s.freq := rfl
@[simp] theorem State.setPart_clockStop (s : State) (p : PartId) (x : Partition) : (s.setPart p x).clockStop = s.clockStop := rfl
@[simp] theorem State.setPart_stopEnd (s : State) (p : PartId) (x : Partition) : (s.setPart p x).stopEnd = s.stopEnd := rfl
@[simp] theorem State.setPart_thermal (s : State) (p : PartId) (x : Partition) : (s.setPart p x).thermal = s.thermal := rfl
@[simp] theorem State.setPart_modid (s : State) (p : PartId) (x : Partition) : (s.setPart p x).modid = s.modid := rfl
@[simp] theorem State.setPart_dom (s : State) (p : PartId) (x : Partition) : (s.setPart p x).dom = s.dom := rfl
@[simp] theorem State.setPart_domLock (s : State) (p : PartId) (x : Partition) : (s.setPart p x).domLock = s.domLock := rfl
@[simp] theorem State.setPart_domOffs (s : State) (p : PartId) (x : Partition) : (s.setPart p x).domOffs = s.domOffs := rfl
@[simp] theorem State.setPart_domMods (s : State) (p : PartId) (x : Partition) : (s.setPart p x).domMods = s.domMods := rfl
@[simp] theorem State.setPart_joinRounds (s : State) (p : PartId) (x : Partition) : (s.setPart p x).joinRounds = s.joinRounds := rfl
@[simp] theorem State.setPart_joinSum (s : State) (p : PartId) (x : Partition) : (s.setPart p x).joinSum = s.joinSum := rfl
@[simp] theorem State.setPart_ports (s : State) (p : PartId) (x : Partition) : (s.setPart p x).ports = s.ports := rfl
@[simp] theorem State.setPart_peerUps (s : State) (p : PartId) (x : Partition) : (s.setPart p x).peerUps = s.peerUps := rfl
@[simp] theorem State.setPart_joints (s : State) (p : PartId) (x : Partition) : (s.setPart p x).joints = s.joints := rfl
@[simp] theorem State.setPart_ceilings (s : State) (p : PartId) (x : Partition) : (s.setPart p x).ceilings = s.ceilings := rfl
@[simp] theorem State.setPart_rails (s : State) (p : PartId) (x : Partition) : (s.setPart p x).rails = s.rails := rfl
@[simp] theorem State.setPart_mbox (s : State) (p : PartId) (x : Partition) : (s.setPart p x).mbox = s.mbox := rfl
@[simp] theorem State.setPart_flash (s : State) (p : PartId) (x : Partition) : (s.setPart p x).flash = s.flash := rfl
@[simp] theorem State.setPart_health (s : State) (p : PartId) (x : Partition) : (s.setPart p x).health = s.health := rfl
@[simp] theorem State.setPart_hourly (s : State) (p : PartId) (x : Partition) : (s.setPart p x).hourly = s.hourly := rfl
@[simp] theorem State.setPart_temps (s : State) (p : PartId) (x : Partition) : (s.setPart p x).temps = s.temps := rfl
@[simp] theorem State.setPart_boot (s : State) (p : PartId) (x : Partition) : (s.setPart p x).boot = s.boot := rfl
@[simp] theorem State.setPart_fwVer (s : State) (p : PartId) (x : Partition) : (s.setPart p x).fwVer = s.fwVer := rfl
@[simp] theorem State.setPart_fwB (s : State) (p : PartId) (x : Partition) : (s.setPart p x).fwB = s.fwB := rfl
@[simp] theorem State.setPart_pufBad (s : State) (p : PartId) (x : Partition) : (s.setPart p x).pufBad = s.pufBad := rfl
@[simp] theorem State.setPart_fwMeas (s : State) (p : PartId) (x : Partition) : (s.setPart p x).fwMeas = s.fwMeas := rfl
@[simp] theorem State.setPart_doe (s : State) (p : PartId) (x : Partition) : (s.setPart p x).doe = s.doe := rfl
@[simp] theorem State.setPart_hostData (s : State) (p : PartId) (x : Partition) : (s.setPart p x).hostData = s.hostData := rfl
@[simp] theorem State.setPart_perst (s : State) (p : PartId) (x : Partition) : (s.setPart p x).perst = s.perst := rfl
@[simp] theorem State.setPart_pcieUp (s : State) (p : PartId) (x : Partition) : (s.setPart p x).pcieUp = s.pcieUp := rfl
@[simp] theorem State.setPart_freeRes (s : State) (p : PartId) (x : Partition) : (s.setPart p x).freeRes = s.freeRes := rfl
@[simp] theorem State.setPart_scrubbing (s : State) (p : PartId) (x : Partition) : (s.setPart p x).scrubbing = s.scrubbing := rfl
@[simp] theorem State.setPart_gate (s : State) (p : PartId) (x : Partition) : (s.setPart p x).gate = s.gate := rfl
@[simp] theorem State.setPart_remaps (s : State) (p : PartId) (x : Partition) : (s.setPart p x).remaps = s.remaps := rfl
@[simp] theorem State.setPart_writing (s : State) (p : PartId) (x : Partition) : (s.setPart p x).writing = s.writing := rfl
@[simp] theorem State.setPart_writeWait (s : State) (p : PartId) (x : Partition) : (s.setPart p x).writeWait = s.writeWait := rfl
@[simp] theorem State.setPart_calPer (s : State) (p : PartId) (x : Partition) : (s.setPart p x).calPer = s.calPer := rfl
@[simp] theorem State.setPart_symPer (s : State) (p : PartId) (x : Partition) : (s.setPart p x).symPer = s.symPer := rfl
@[simp] theorem State.setPart_symP (s : State) (p : PartId) (x : Partition) : (s.setPart p x).symP = s.symP := rfl
@[simp] theorem State.setPart_mntEn (s : State) (p : PartId) (x : Partition) : (s.setPart p x).mntEn = s.mntEn := rfl
@[simp] theorem State.setPart_sfRun (s : State) (p : PartId) (x : Partition) : (s.setPart p x).sfRun = s.sfRun := rfl
@[simp] theorem State.setPart_cores (s : State) (p : PartId) (x : Partition) : (s.setPart p x).cores = s.cores := rfl
@[simp] theorem State.setPart_quads (s : State) (p : PartId) (x : Partition) : (s.setPart p x).quads = s.quads := rfl
@[simp] theorem State.setPart_dies (s : State) (p : PartId) (x : Partition) : (s.setPart p x).dies = s.dies := rfl
@[simp] theorem State.setPart_pairs (s : State) (p : PartId) (x : Partition) : (s.setPart p x).pairs = s.pairs := rfl
@[simp] theorem State.setPart_launches (s : State) (p : PartId) (x : Partition) : (s.setPart p x).launches = s.launches := rfl
@[simp] theorem State.setPart_prepares (s : State) (p : PartId) (x : Partition) : (s.setPart p x).prepares = s.prepares := rfl
@[simp] theorem State.setPart_pf0 (s : State) (p : PartId) (x : Partition) : (s.setPart p x).pf0 = s.pf0 := rfl
@[simp] theorem State.setPart_mem (s : State) (p : PartId) (x : Partition) : (s.setPart p x).mem = s.mem := rfl
@[simp] theorem State.setPart_bad (s : State) (p : PartId) (x : Partition) : (s.setPart p x).bad = s.bad := rfl
@[simp] theorem State.setPart_saved (s : State) (p : PartId) (x : Partition) : (s.setPart p x).saved = s.saved := rfl
@[simp] theorem State.setPart_lines (s : State) (p : PartId) (x : Partition) : (s.setPart p x).lines = s.lines := rfl
@[simp] theorem State.setPart_tokMsgs (s : State) (p : PartId) (x : Partition) : (s.setPart p x).tokMsgs = s.tokMsgs := rfl
@[simp] theorem State.setPart_tokReqs (s : State) (p : PartId) (x : Partition) : (s.setPart p x).tokReqs = s.tokReqs := rfl

/-! ## `State.setDie` -/

@[simp] theorem State.setDie_cur (s : State) (d : DieId) (x : Die) : (s.setDie d x).cur = s.cur := rfl
@[simp] theorem State.setDie_stage (s : State) (d : DieId) (x : Die) : (s.setDie d x).stage = s.stage := rfl
@[simp] theorem State.setDie_todo (s : State) (d : DieId) (x : Die) : (s.setDie d x).todo = s.todo := rfl
@[simp] theorem State.setDie_ends (s : State) (d : DieId) (x : Die) : (s.setDie d x).ends = s.ends := rfl
@[simp] theorem State.setDie_inputs (s : State) (d : DieId) (x : Die) : (s.setDie d x).inputs = s.inputs := rfl
@[simp] theorem State.setDie_free (s : State) (d : DieId) (x : Die) : (s.setDie d x).free = s.free := rfl
@[simp] theorem State.setDie_frac (s : State) (d : DieId) (x : Die) : (s.setDie d x).frac = s.frac := rfl
@[simp] theorem State.setDie_cyc (s : State) (d : DieId) (x : Die) : (s.setDie d x).cyc = s.cyc := rfl
@[simp] theorem State.setDie_powered (s : State) (d : DieId) (x : Die) : (s.setDie d x).powered = s.powered := rfl
@[simp] theorem State.setDie_freq (s : State) (d : DieId) (x : Die) : (s.setDie d x).freq = s.freq := rfl
@[simp] theorem State.setDie_clockStop (s : State) (d : DieId) (x : Die) : (s.setDie d x).clockStop = s.clockStop := rfl
@[simp] theorem State.setDie_stopEnd (s : State) (d : DieId) (x : Die) : (s.setDie d x).stopEnd = s.stopEnd := rfl
@[simp] theorem State.setDie_thermal (s : State) (d : DieId) (x : Die) : (s.setDie d x).thermal = s.thermal := rfl
@[simp] theorem State.setDie_modid (s : State) (d : DieId) (x : Die) : (s.setDie d x).modid = s.modid := rfl
@[simp] theorem State.setDie_dom (s : State) (d : DieId) (x : Die) : (s.setDie d x).dom = s.dom := rfl
@[simp] theorem State.setDie_domLock (s : State) (d : DieId) (x : Die) : (s.setDie d x).domLock = s.domLock := rfl
@[simp] theorem State.setDie_domOffs (s : State) (d : DieId) (x : Die) : (s.setDie d x).domOffs = s.domOffs := rfl
@[simp] theorem State.setDie_domMods (s : State) (d : DieId) (x : Die) : (s.setDie d x).domMods = s.domMods := rfl
@[simp] theorem State.setDie_joinRounds (s : State) (d : DieId) (x : Die) : (s.setDie d x).joinRounds = s.joinRounds := rfl
@[simp] theorem State.setDie_joinSum (s : State) (d : DieId) (x : Die) : (s.setDie d x).joinSum = s.joinSum := rfl
@[simp] theorem State.setDie_ports (s : State) (d : DieId) (x : Die) : (s.setDie d x).ports = s.ports := rfl
@[simp] theorem State.setDie_peerUps (s : State) (d : DieId) (x : Die) : (s.setDie d x).peerUps = s.peerUps := rfl
@[simp] theorem State.setDie_joints (s : State) (d : DieId) (x : Die) : (s.setDie d x).joints = s.joints := rfl
@[simp] theorem State.setDie_ceilings (s : State) (d : DieId) (x : Die) : (s.setDie d x).ceilings = s.ceilings := rfl
@[simp] theorem State.setDie_rails (s : State) (d : DieId) (x : Die) : (s.setDie d x).rails = s.rails := rfl
@[simp] theorem State.setDie_mbox (s : State) (d : DieId) (x : Die) : (s.setDie d x).mbox = s.mbox := rfl
@[simp] theorem State.setDie_flash (s : State) (d : DieId) (x : Die) : (s.setDie d x).flash = s.flash := rfl
@[simp] theorem State.setDie_health (s : State) (d : DieId) (x : Die) : (s.setDie d x).health = s.health := rfl
@[simp] theorem State.setDie_hourly (s : State) (d : DieId) (x : Die) : (s.setDie d x).hourly = s.hourly := rfl
@[simp] theorem State.setDie_temps (s : State) (d : DieId) (x : Die) : (s.setDie d x).temps = s.temps := rfl
@[simp] theorem State.setDie_boot (s : State) (d : DieId) (x : Die) : (s.setDie d x).boot = s.boot := rfl
@[simp] theorem State.setDie_fwVer (s : State) (d : DieId) (x : Die) : (s.setDie d x).fwVer = s.fwVer := rfl
@[simp] theorem State.setDie_fwB (s : State) (d : DieId) (x : Die) : (s.setDie d x).fwB = s.fwB := rfl
@[simp] theorem State.setDie_pufBad (s : State) (d : DieId) (x : Die) : (s.setDie d x).pufBad = s.pufBad := rfl
@[simp] theorem State.setDie_fwMeas (s : State) (d : DieId) (x : Die) : (s.setDie d x).fwMeas = s.fwMeas := rfl
@[simp] theorem State.setDie_doe (s : State) (d : DieId) (x : Die) : (s.setDie d x).doe = s.doe := rfl
@[simp] theorem State.setDie_hostData (s : State) (d : DieId) (x : Die) : (s.setDie d x).hostData = s.hostData := rfl
@[simp] theorem State.setDie_perst (s : State) (d : DieId) (x : Die) : (s.setDie d x).perst = s.perst := rfl
@[simp] theorem State.setDie_pcieUp (s : State) (d : DieId) (x : Die) : (s.setDie d x).pcieUp = s.pcieUp := rfl
@[simp] theorem State.setDie_freeRes (s : State) (d : DieId) (x : Die) : (s.setDie d x).freeRes = s.freeRes := rfl
@[simp] theorem State.setDie_scrubbing (s : State) (d : DieId) (x : Die) : (s.setDie d x).scrubbing = s.scrubbing := rfl
@[simp] theorem State.setDie_gate (s : State) (d : DieId) (x : Die) : (s.setDie d x).gate = s.gate := rfl
@[simp] theorem State.setDie_remaps (s : State) (d : DieId) (x : Die) : (s.setDie d x).remaps = s.remaps := rfl
@[simp] theorem State.setDie_writing (s : State) (d : DieId) (x : Die) : (s.setDie d x).writing = s.writing := rfl
@[simp] theorem State.setDie_writeWait (s : State) (d : DieId) (x : Die) : (s.setDie d x).writeWait = s.writeWait := rfl
@[simp] theorem State.setDie_calPer (s : State) (d : DieId) (x : Die) : (s.setDie d x).calPer = s.calPer := rfl
@[simp] theorem State.setDie_symPer (s : State) (d : DieId) (x : Die) : (s.setDie d x).symPer = s.symPer := rfl
@[simp] theorem State.setDie_symP (s : State) (d : DieId) (x : Die) : (s.setDie d x).symP = s.symP := rfl
@[simp] theorem State.setDie_mntEn (s : State) (d : DieId) (x : Die) : (s.setDie d x).mntEn = s.mntEn := rfl
@[simp] theorem State.setDie_sfRun (s : State) (d : DieId) (x : Die) : (s.setDie d x).sfRun = s.sfRun := rfl
@[simp] theorem State.setDie_cores (s : State) (d : DieId) (x : Die) : (s.setDie d x).cores = s.cores := rfl
@[simp] theorem State.setDie_quads (s : State) (d : DieId) (x : Die) : (s.setDie d x).quads = s.quads := rfl
@[simp] theorem State.setDie_pairs (s : State) (d : DieId) (x : Die) : (s.setDie d x).pairs = s.pairs := rfl
@[simp] theorem State.setDie_launches (s : State) (d : DieId) (x : Die) : (s.setDie d x).launches = s.launches := rfl
@[simp] theorem State.setDie_prepares (s : State) (d : DieId) (x : Die) : (s.setDie d x).prepares = s.prepares := rfl
@[simp] theorem State.setDie_parts (s : State) (d : DieId) (x : Die) : (s.setDie d x).parts = s.parts := rfl
@[simp] theorem State.setDie_pf0 (s : State) (d : DieId) (x : Die) : (s.setDie d x).pf0 = s.pf0 := rfl
@[simp] theorem State.setDie_mem (s : State) (d : DieId) (x : Die) : (s.setDie d x).mem = s.mem := rfl
@[simp] theorem State.setDie_bad (s : State) (d : DieId) (x : Die) : (s.setDie d x).bad = s.bad := rfl
@[simp] theorem State.setDie_saved (s : State) (d : DieId) (x : Die) : (s.setDie d x).saved = s.saved := rfl
@[simp] theorem State.setDie_lines (s : State) (d : DieId) (x : Die) : (s.setDie d x).lines = s.lines := rfl
@[simp] theorem State.setDie_tokMsgs (s : State) (d : DieId) (x : Die) : (s.setDie d x).tokMsgs = s.tokMsgs := rfl
@[simp] theorem State.setDie_tokReqs (s : State) (d : DieId) (x : Die) : (s.setDie d x).tokReqs = s.tokReqs := rfl

/-! ## `State.setQuad` -/

@[simp] theorem State.setQuad_cur (s : State) (q : QuadId) (x : Quad) : (s.setQuad q x).cur = s.cur := rfl
@[simp] theorem State.setQuad_stage (s : State) (q : QuadId) (x : Quad) : (s.setQuad q x).stage = s.stage := rfl
@[simp] theorem State.setQuad_todo (s : State) (q : QuadId) (x : Quad) : (s.setQuad q x).todo = s.todo := rfl
@[simp] theorem State.setQuad_ends (s : State) (q : QuadId) (x : Quad) : (s.setQuad q x).ends = s.ends := rfl
@[simp] theorem State.setQuad_inputs (s : State) (q : QuadId) (x : Quad) : (s.setQuad q x).inputs = s.inputs := rfl
@[simp] theorem State.setQuad_free (s : State) (q : QuadId) (x : Quad) : (s.setQuad q x).free = s.free := rfl
@[simp] theorem State.setQuad_frac (s : State) (q : QuadId) (x : Quad) : (s.setQuad q x).frac = s.frac := rfl
@[simp] theorem State.setQuad_cyc (s : State) (q : QuadId) (x : Quad) : (s.setQuad q x).cyc = s.cyc := rfl
@[simp] theorem State.setQuad_powered (s : State) (q : QuadId) (x : Quad) : (s.setQuad q x).powered = s.powered := rfl
@[simp] theorem State.setQuad_freq (s : State) (q : QuadId) (x : Quad) : (s.setQuad q x).freq = s.freq := rfl
@[simp] theorem State.setQuad_clockStop (s : State) (q : QuadId) (x : Quad) : (s.setQuad q x).clockStop = s.clockStop := rfl
@[simp] theorem State.setQuad_stopEnd (s : State) (q : QuadId) (x : Quad) : (s.setQuad q x).stopEnd = s.stopEnd := rfl
@[simp] theorem State.setQuad_thermal (s : State) (q : QuadId) (x : Quad) : (s.setQuad q x).thermal = s.thermal := rfl
@[simp] theorem State.setQuad_modid (s : State) (q : QuadId) (x : Quad) : (s.setQuad q x).modid = s.modid := rfl
@[simp] theorem State.setQuad_dom (s : State) (q : QuadId) (x : Quad) : (s.setQuad q x).dom = s.dom := rfl
@[simp] theorem State.setQuad_domLock (s : State) (q : QuadId) (x : Quad) : (s.setQuad q x).domLock = s.domLock := rfl
@[simp] theorem State.setQuad_domOffs (s : State) (q : QuadId) (x : Quad) : (s.setQuad q x).domOffs = s.domOffs := rfl
@[simp] theorem State.setQuad_domMods (s : State) (q : QuadId) (x : Quad) : (s.setQuad q x).domMods = s.domMods := rfl
@[simp] theorem State.setQuad_joinRounds (s : State) (q : QuadId) (x : Quad) : (s.setQuad q x).joinRounds = s.joinRounds := rfl
@[simp] theorem State.setQuad_joinSum (s : State) (q : QuadId) (x : Quad) : (s.setQuad q x).joinSum = s.joinSum := rfl
@[simp] theorem State.setQuad_ports (s : State) (q : QuadId) (x : Quad) : (s.setQuad q x).ports = s.ports := rfl
@[simp] theorem State.setQuad_peerUps (s : State) (q : QuadId) (x : Quad) : (s.setQuad q x).peerUps = s.peerUps := rfl
@[simp] theorem State.setQuad_joints (s : State) (q : QuadId) (x : Quad) : (s.setQuad q x).joints = s.joints := rfl
@[simp] theorem State.setQuad_ceilings (s : State) (q : QuadId) (x : Quad) : (s.setQuad q x).ceilings = s.ceilings := rfl
@[simp] theorem State.setQuad_rails (s : State) (q : QuadId) (x : Quad) : (s.setQuad q x).rails = s.rails := rfl
@[simp] theorem State.setQuad_mbox (s : State) (q : QuadId) (x : Quad) : (s.setQuad q x).mbox = s.mbox := rfl
@[simp] theorem State.setQuad_flash (s : State) (q : QuadId) (x : Quad) : (s.setQuad q x).flash = s.flash := rfl
@[simp] theorem State.setQuad_health (s : State) (q : QuadId) (x : Quad) : (s.setQuad q x).health = s.health := rfl
@[simp] theorem State.setQuad_hourly (s : State) (q : QuadId) (x : Quad) : (s.setQuad q x).hourly = s.hourly := rfl
@[simp] theorem State.setQuad_temps (s : State) (q : QuadId) (x : Quad) : (s.setQuad q x).temps = s.temps := rfl
@[simp] theorem State.setQuad_boot (s : State) (q : QuadId) (x : Quad) : (s.setQuad q x).boot = s.boot := rfl
@[simp] theorem State.setQuad_fwVer (s : State) (q : QuadId) (x : Quad) : (s.setQuad q x).fwVer = s.fwVer := rfl
@[simp] theorem State.setQuad_fwB (s : State) (q : QuadId) (x : Quad) : (s.setQuad q x).fwB = s.fwB := rfl
@[simp] theorem State.setQuad_pufBad (s : State) (q : QuadId) (x : Quad) : (s.setQuad q x).pufBad = s.pufBad := rfl
@[simp] theorem State.setQuad_fwMeas (s : State) (q : QuadId) (x : Quad) : (s.setQuad q x).fwMeas = s.fwMeas := rfl
@[simp] theorem State.setQuad_doe (s : State) (q : QuadId) (x : Quad) : (s.setQuad q x).doe = s.doe := rfl
@[simp] theorem State.setQuad_hostData (s : State) (q : QuadId) (x : Quad) : (s.setQuad q x).hostData = s.hostData := rfl
@[simp] theorem State.setQuad_perst (s : State) (q : QuadId) (x : Quad) : (s.setQuad q x).perst = s.perst := rfl
@[simp] theorem State.setQuad_pcieUp (s : State) (q : QuadId) (x : Quad) : (s.setQuad q x).pcieUp = s.pcieUp := rfl
@[simp] theorem State.setQuad_freeRes (s : State) (q : QuadId) (x : Quad) : (s.setQuad q x).freeRes = s.freeRes := rfl
@[simp] theorem State.setQuad_scrubbing (s : State) (q : QuadId) (x : Quad) : (s.setQuad q x).scrubbing = s.scrubbing := rfl
@[simp] theorem State.setQuad_gate (s : State) (q : QuadId) (x : Quad) : (s.setQuad q x).gate = s.gate := rfl
@[simp] theorem State.setQuad_remaps (s : State) (q : QuadId) (x : Quad) : (s.setQuad q x).remaps = s.remaps := rfl
@[simp] theorem State.setQuad_writing (s : State) (q : QuadId) (x : Quad) : (s.setQuad q x).writing = s.writing := rfl
@[simp] theorem State.setQuad_writeWait (s : State) (q : QuadId) (x : Quad) : (s.setQuad q x).writeWait = s.writeWait := rfl
@[simp] theorem State.setQuad_calPer (s : State) (q : QuadId) (x : Quad) : (s.setQuad q x).calPer = s.calPer := rfl
@[simp] theorem State.setQuad_symPer (s : State) (q : QuadId) (x : Quad) : (s.setQuad q x).symPer = s.symPer := rfl
@[simp] theorem State.setQuad_symP (s : State) (q : QuadId) (x : Quad) : (s.setQuad q x).symP = s.symP := rfl
@[simp] theorem State.setQuad_mntEn (s : State) (q : QuadId) (x : Quad) : (s.setQuad q x).mntEn = s.mntEn := rfl
@[simp] theorem State.setQuad_sfRun (s : State) (q : QuadId) (x : Quad) : (s.setQuad q x).sfRun = s.sfRun := rfl
@[simp] theorem State.setQuad_cores (s : State) (q : QuadId) (x : Quad) : (s.setQuad q x).cores = s.cores := rfl
@[simp] theorem State.setQuad_dies (s : State) (q : QuadId) (x : Quad) : (s.setQuad q x).dies = s.dies := rfl
@[simp] theorem State.setQuad_pairs (s : State) (q : QuadId) (x : Quad) : (s.setQuad q x).pairs = s.pairs := rfl
@[simp] theorem State.setQuad_launches (s : State) (q : QuadId) (x : Quad) : (s.setQuad q x).launches = s.launches := rfl
@[simp] theorem State.setQuad_prepares (s : State) (q : QuadId) (x : Quad) : (s.setQuad q x).prepares = s.prepares := rfl
@[simp] theorem State.setQuad_parts (s : State) (q : QuadId) (x : Quad) : (s.setQuad q x).parts = s.parts := rfl
@[simp] theorem State.setQuad_pf0 (s : State) (q : QuadId) (x : Quad) : (s.setQuad q x).pf0 = s.pf0 := rfl
@[simp] theorem State.setQuad_mem (s : State) (q : QuadId) (x : Quad) : (s.setQuad q x).mem = s.mem := rfl
@[simp] theorem State.setQuad_bad (s : State) (q : QuadId) (x : Quad) : (s.setQuad q x).bad = s.bad := rfl
@[simp] theorem State.setQuad_saved (s : State) (q : QuadId) (x : Quad) : (s.setQuad q x).saved = s.saved := rfl
@[simp] theorem State.setQuad_lines (s : State) (q : QuadId) (x : Quad) : (s.setQuad q x).lines = s.lines := rfl
@[simp] theorem State.setQuad_tokMsgs (s : State) (q : QuadId) (x : Quad) : (s.setQuad q x).tokMsgs = s.tokMsgs := rfl
@[simp] theorem State.setQuad_tokReqs (s : State) (q : QuadId) (x : Quad) : (s.setQuad q x).tokReqs = s.tokReqs := rfl

/-! ## `State.setLaunch` -/

@[simp] theorem State.setLaunch_cur (s : State) (l : Nat) (x : Launch) : (s.setLaunch l x).cur = s.cur := rfl
@[simp] theorem State.setLaunch_stage (s : State) (l : Nat) (x : Launch) : (s.setLaunch l x).stage = s.stage := rfl
@[simp] theorem State.setLaunch_todo (s : State) (l : Nat) (x : Launch) : (s.setLaunch l x).todo = s.todo := rfl
@[simp] theorem State.setLaunch_ends (s : State) (l : Nat) (x : Launch) : (s.setLaunch l x).ends = s.ends := rfl
@[simp] theorem State.setLaunch_inputs (s : State) (l : Nat) (x : Launch) : (s.setLaunch l x).inputs = s.inputs := rfl
@[simp] theorem State.setLaunch_free (s : State) (l : Nat) (x : Launch) : (s.setLaunch l x).free = s.free := rfl
@[simp] theorem State.setLaunch_frac (s : State) (l : Nat) (x : Launch) : (s.setLaunch l x).frac = s.frac := rfl
@[simp] theorem State.setLaunch_cyc (s : State) (l : Nat) (x : Launch) : (s.setLaunch l x).cyc = s.cyc := rfl
@[simp] theorem State.setLaunch_powered (s : State) (l : Nat) (x : Launch) : (s.setLaunch l x).powered = s.powered := rfl
@[simp] theorem State.setLaunch_freq (s : State) (l : Nat) (x : Launch) : (s.setLaunch l x).freq = s.freq := rfl
@[simp] theorem State.setLaunch_clockStop (s : State) (l : Nat) (x : Launch) : (s.setLaunch l x).clockStop = s.clockStop := rfl
@[simp] theorem State.setLaunch_stopEnd (s : State) (l : Nat) (x : Launch) : (s.setLaunch l x).stopEnd = s.stopEnd := rfl
@[simp] theorem State.setLaunch_thermal (s : State) (l : Nat) (x : Launch) : (s.setLaunch l x).thermal = s.thermal := rfl
@[simp] theorem State.setLaunch_modid (s : State) (l : Nat) (x : Launch) : (s.setLaunch l x).modid = s.modid := rfl
@[simp] theorem State.setLaunch_dom (s : State) (l : Nat) (x : Launch) : (s.setLaunch l x).dom = s.dom := rfl
@[simp] theorem State.setLaunch_domLock (s : State) (l : Nat) (x : Launch) : (s.setLaunch l x).domLock = s.domLock := rfl
@[simp] theorem State.setLaunch_domOffs (s : State) (l : Nat) (x : Launch) : (s.setLaunch l x).domOffs = s.domOffs := rfl
@[simp] theorem State.setLaunch_domMods (s : State) (l : Nat) (x : Launch) : (s.setLaunch l x).domMods = s.domMods := rfl
@[simp] theorem State.setLaunch_joinRounds (s : State) (l : Nat) (x : Launch) : (s.setLaunch l x).joinRounds = s.joinRounds := rfl
@[simp] theorem State.setLaunch_joinSum (s : State) (l : Nat) (x : Launch) : (s.setLaunch l x).joinSum = s.joinSum := rfl
@[simp] theorem State.setLaunch_ports (s : State) (l : Nat) (x : Launch) : (s.setLaunch l x).ports = s.ports := rfl
@[simp] theorem State.setLaunch_peerUps (s : State) (l : Nat) (x : Launch) : (s.setLaunch l x).peerUps = s.peerUps := rfl
@[simp] theorem State.setLaunch_joints (s : State) (l : Nat) (x : Launch) : (s.setLaunch l x).joints = s.joints := rfl
@[simp] theorem State.setLaunch_ceilings (s : State) (l : Nat) (x : Launch) : (s.setLaunch l x).ceilings = s.ceilings := rfl
@[simp] theorem State.setLaunch_rails (s : State) (l : Nat) (x : Launch) : (s.setLaunch l x).rails = s.rails := rfl
@[simp] theorem State.setLaunch_mbox (s : State) (l : Nat) (x : Launch) : (s.setLaunch l x).mbox = s.mbox := rfl
@[simp] theorem State.setLaunch_flash (s : State) (l : Nat) (x : Launch) : (s.setLaunch l x).flash = s.flash := rfl
@[simp] theorem State.setLaunch_health (s : State) (l : Nat) (x : Launch) : (s.setLaunch l x).health = s.health := rfl
@[simp] theorem State.setLaunch_hourly (s : State) (l : Nat) (x : Launch) : (s.setLaunch l x).hourly = s.hourly := rfl
@[simp] theorem State.setLaunch_temps (s : State) (l : Nat) (x : Launch) : (s.setLaunch l x).temps = s.temps := rfl
@[simp] theorem State.setLaunch_boot (s : State) (l : Nat) (x : Launch) : (s.setLaunch l x).boot = s.boot := rfl
@[simp] theorem State.setLaunch_fwVer (s : State) (l : Nat) (x : Launch) : (s.setLaunch l x).fwVer = s.fwVer := rfl
@[simp] theorem State.setLaunch_fwB (s : State) (l : Nat) (x : Launch) : (s.setLaunch l x).fwB = s.fwB := rfl
@[simp] theorem State.setLaunch_pufBad (s : State) (l : Nat) (x : Launch) : (s.setLaunch l x).pufBad = s.pufBad := rfl
@[simp] theorem State.setLaunch_fwMeas (s : State) (l : Nat) (x : Launch) : (s.setLaunch l x).fwMeas = s.fwMeas := rfl
@[simp] theorem State.setLaunch_doe (s : State) (l : Nat) (x : Launch) : (s.setLaunch l x).doe = s.doe := rfl
@[simp] theorem State.setLaunch_hostData (s : State) (l : Nat) (x : Launch) : (s.setLaunch l x).hostData = s.hostData := rfl
@[simp] theorem State.setLaunch_perst (s : State) (l : Nat) (x : Launch) : (s.setLaunch l x).perst = s.perst := rfl
@[simp] theorem State.setLaunch_pcieUp (s : State) (l : Nat) (x : Launch) : (s.setLaunch l x).pcieUp = s.pcieUp := rfl
@[simp] theorem State.setLaunch_freeRes (s : State) (l : Nat) (x : Launch) : (s.setLaunch l x).freeRes = s.freeRes := rfl
@[simp] theorem State.setLaunch_scrubbing (s : State) (l : Nat) (x : Launch) : (s.setLaunch l x).scrubbing = s.scrubbing := rfl
@[simp] theorem State.setLaunch_gate (s : State) (l : Nat) (x : Launch) : (s.setLaunch l x).gate = s.gate := rfl
@[simp] theorem State.setLaunch_remaps (s : State) (l : Nat) (x : Launch) : (s.setLaunch l x).remaps = s.remaps := rfl
@[simp] theorem State.setLaunch_writing (s : State) (l : Nat) (x : Launch) : (s.setLaunch l x).writing = s.writing := rfl
@[simp] theorem State.setLaunch_writeWait (s : State) (l : Nat) (x : Launch) : (s.setLaunch l x).writeWait = s.writeWait := rfl
@[simp] theorem State.setLaunch_calPer (s : State) (l : Nat) (x : Launch) : (s.setLaunch l x).calPer = s.calPer := rfl
@[simp] theorem State.setLaunch_symPer (s : State) (l : Nat) (x : Launch) : (s.setLaunch l x).symPer = s.symPer := rfl
@[simp] theorem State.setLaunch_symP (s : State) (l : Nat) (x : Launch) : (s.setLaunch l x).symP = s.symP := rfl
@[simp] theorem State.setLaunch_mntEn (s : State) (l : Nat) (x : Launch) : (s.setLaunch l x).mntEn = s.mntEn := rfl
@[simp] theorem State.setLaunch_sfRun (s : State) (l : Nat) (x : Launch) : (s.setLaunch l x).sfRun = s.sfRun := rfl
@[simp] theorem State.setLaunch_cores (s : State) (l : Nat) (x : Launch) : (s.setLaunch l x).cores = s.cores := rfl
@[simp] theorem State.setLaunch_quads (s : State) (l : Nat) (x : Launch) : (s.setLaunch l x).quads = s.quads := rfl
@[simp] theorem State.setLaunch_dies (s : State) (l : Nat) (x : Launch) : (s.setLaunch l x).dies = s.dies := rfl
@[simp] theorem State.setLaunch_pairs (s : State) (l : Nat) (x : Launch) : (s.setLaunch l x).pairs = s.pairs := rfl
@[simp] theorem State.setLaunch_prepares (s : State) (l : Nat) (x : Launch) : (s.setLaunch l x).prepares = s.prepares := rfl
@[simp] theorem State.setLaunch_parts (s : State) (l : Nat) (x : Launch) : (s.setLaunch l x).parts = s.parts := rfl
@[simp] theorem State.setLaunch_pf0 (s : State) (l : Nat) (x : Launch) : (s.setLaunch l x).pf0 = s.pf0 := rfl
@[simp] theorem State.setLaunch_mem (s : State) (l : Nat) (x : Launch) : (s.setLaunch l x).mem = s.mem := rfl
@[simp] theorem State.setLaunch_bad (s : State) (l : Nat) (x : Launch) : (s.setLaunch l x).bad = s.bad := rfl
@[simp] theorem State.setLaunch_saved (s : State) (l : Nat) (x : Launch) : (s.setLaunch l x).saved = s.saved := rfl
@[simp] theorem State.setLaunch_lines (s : State) (l : Nat) (x : Launch) : (s.setLaunch l x).lines = s.lines := rfl
@[simp] theorem State.setLaunch_tokMsgs (s : State) (l : Nat) (x : Launch) : (s.setLaunch l x).tokMsgs = s.tokMsgs := rfl
@[simp] theorem State.setLaunch_tokReqs (s : State) (l : Nat) (x : Launch) : (s.setLaunch l x).tokReqs = s.tokReqs := rfl

/-! ## `State.push` -/

@[simp] theorem State.push_cur (s : State) (es : List Ev) : (s.push es).cur = s.cur := rfl
@[simp] theorem State.push_stage (s : State) (es : List Ev) : (s.push es).stage = s.stage := rfl
@[simp] theorem State.push_ends (s : State) (es : List Ev) : (s.push es).ends = s.ends := rfl
@[simp] theorem State.push_inputs (s : State) (es : List Ev) : (s.push es).inputs = s.inputs := rfl
@[simp] theorem State.push_free (s : State) (es : List Ev) : (s.push es).free = s.free := rfl
@[simp] theorem State.push_frac (s : State) (es : List Ev) : (s.push es).frac = s.frac := rfl
@[simp] theorem State.push_cyc (s : State) (es : List Ev) : (s.push es).cyc = s.cyc := rfl
@[simp] theorem State.push_powered (s : State) (es : List Ev) : (s.push es).powered = s.powered := rfl
@[simp] theorem State.push_freq (s : State) (es : List Ev) : (s.push es).freq = s.freq := rfl
@[simp] theorem State.push_clockStop (s : State) (es : List Ev) : (s.push es).clockStop = s.clockStop := rfl
@[simp] theorem State.push_stopEnd (s : State) (es : List Ev) : (s.push es).stopEnd = s.stopEnd := rfl
@[simp] theorem State.push_thermal (s : State) (es : List Ev) : (s.push es).thermal = s.thermal := rfl
@[simp] theorem State.push_modid (s : State) (es : List Ev) : (s.push es).modid = s.modid := rfl
@[simp] theorem State.push_dom (s : State) (es : List Ev) : (s.push es).dom = s.dom := rfl
@[simp] theorem State.push_domLock (s : State) (es : List Ev) : (s.push es).domLock = s.domLock := rfl
@[simp] theorem State.push_domOffs (s : State) (es : List Ev) : (s.push es).domOffs = s.domOffs := rfl
@[simp] theorem State.push_domMods (s : State) (es : List Ev) : (s.push es).domMods = s.domMods := rfl
@[simp] theorem State.push_joinRounds (s : State) (es : List Ev) : (s.push es).joinRounds = s.joinRounds := rfl
@[simp] theorem State.push_joinSum (s : State) (es : List Ev) : (s.push es).joinSum = s.joinSum := rfl
@[simp] theorem State.push_ports (s : State) (es : List Ev) : (s.push es).ports = s.ports := rfl
@[simp] theorem State.push_peerUps (s : State) (es : List Ev) : (s.push es).peerUps = s.peerUps := rfl
@[simp] theorem State.push_joints (s : State) (es : List Ev) : (s.push es).joints = s.joints := rfl
@[simp] theorem State.push_ceilings (s : State) (es : List Ev) : (s.push es).ceilings = s.ceilings := rfl
@[simp] theorem State.push_rails (s : State) (es : List Ev) : (s.push es).rails = s.rails := rfl
@[simp] theorem State.push_mbox (s : State) (es : List Ev) : (s.push es).mbox = s.mbox := rfl
@[simp] theorem State.push_flash (s : State) (es : List Ev) : (s.push es).flash = s.flash := rfl
@[simp] theorem State.push_health (s : State) (es : List Ev) : (s.push es).health = s.health := rfl
@[simp] theorem State.push_hourly (s : State) (es : List Ev) : (s.push es).hourly = s.hourly := rfl
@[simp] theorem State.push_temps (s : State) (es : List Ev) : (s.push es).temps = s.temps := rfl
@[simp] theorem State.push_boot (s : State) (es : List Ev) : (s.push es).boot = s.boot := rfl
@[simp] theorem State.push_fwVer (s : State) (es : List Ev) : (s.push es).fwVer = s.fwVer := rfl
@[simp] theorem State.push_fwB (s : State) (es : List Ev) : (s.push es).fwB = s.fwB := rfl
@[simp] theorem State.push_pufBad (s : State) (es : List Ev) : (s.push es).pufBad = s.pufBad := rfl
@[simp] theorem State.push_fwMeas (s : State) (es : List Ev) : (s.push es).fwMeas = s.fwMeas := rfl
@[simp] theorem State.push_doe (s : State) (es : List Ev) : (s.push es).doe = s.doe := rfl
@[simp] theorem State.push_hostData (s : State) (es : List Ev) : (s.push es).hostData = s.hostData := rfl
@[simp] theorem State.push_perst (s : State) (es : List Ev) : (s.push es).perst = s.perst := rfl
@[simp] theorem State.push_pcieUp (s : State) (es : List Ev) : (s.push es).pcieUp = s.pcieUp := rfl
@[simp] theorem State.push_freeRes (s : State) (es : List Ev) : (s.push es).freeRes = s.freeRes := rfl
@[simp] theorem State.push_scrubbing (s : State) (es : List Ev) : (s.push es).scrubbing = s.scrubbing := rfl
@[simp] theorem State.push_gate (s : State) (es : List Ev) : (s.push es).gate = s.gate := rfl
@[simp] theorem State.push_remaps (s : State) (es : List Ev) : (s.push es).remaps = s.remaps := rfl
@[simp] theorem State.push_writing (s : State) (es : List Ev) : (s.push es).writing = s.writing := rfl
@[simp] theorem State.push_writeWait (s : State) (es : List Ev) : (s.push es).writeWait = s.writeWait := rfl
@[simp] theorem State.push_calPer (s : State) (es : List Ev) : (s.push es).calPer = s.calPer := rfl
@[simp] theorem State.push_symPer (s : State) (es : List Ev) : (s.push es).symPer = s.symPer := rfl
@[simp] theorem State.push_symP (s : State) (es : List Ev) : (s.push es).symP = s.symP := rfl
@[simp] theorem State.push_mntEn (s : State) (es : List Ev) : (s.push es).mntEn = s.mntEn := rfl
@[simp] theorem State.push_sfRun (s : State) (es : List Ev) : (s.push es).sfRun = s.sfRun := rfl
@[simp] theorem State.push_cores (s : State) (es : List Ev) : (s.push es).cores = s.cores := rfl
@[simp] theorem State.push_quads (s : State) (es : List Ev) : (s.push es).quads = s.quads := rfl
@[simp] theorem State.push_dies (s : State) (es : List Ev) : (s.push es).dies = s.dies := rfl
@[simp] theorem State.push_pairs (s : State) (es : List Ev) : (s.push es).pairs = s.pairs := rfl
@[simp] theorem State.push_launches (s : State) (es : List Ev) : (s.push es).launches = s.launches := rfl
@[simp] theorem State.push_prepares (s : State) (es : List Ev) : (s.push es).prepares = s.prepares := rfl
@[simp] theorem State.push_parts (s : State) (es : List Ev) : (s.push es).parts = s.parts := rfl
@[simp] theorem State.push_pf0 (s : State) (es : List Ev) : (s.push es).pf0 = s.pf0 := rfl
@[simp] theorem State.push_mem (s : State) (es : List Ev) : (s.push es).mem = s.mem := rfl
@[simp] theorem State.push_bad (s : State) (es : List Ev) : (s.push es).bad = s.bad := rfl
@[simp] theorem State.push_saved (s : State) (es : List Ev) : (s.push es).saved = s.saved := rfl
@[simp] theorem State.push_lines (s : State) (es : List Ev) : (s.push es).lines = s.lines := rfl
@[simp] theorem State.push_tokMsgs (s : State) (es : List Ev) : (s.push es).tokMsgs = s.tokMsgs := rfl
@[simp] theorem State.push_tokReqs (s : State) (es : List Ev) : (s.push es).tokReqs = s.tokReqs := rfl

/-! ## Cores -/

@[simp] theorem Core.setBerth_active (k : Core) (b : BerthId) (x : Berth) : (k.setBerth b x).active = k.active := rfl
@[simp] theorem Core.setBerth_lender (k : Core) (b : BerthId) (x : Berth) : (k.setBerth b x).lender = k.lender := rfl
@[simp] theorem Core.setBerth_launch (k : Core) (b : BerthId) (x : Berth) : (k.setBerth b x).launch = k.launch := rfl
@[simp] theorem Core.setBerth_rank (k : Core) (b : BerthId) (x : Berth) : (k.setBerth b x).rank = k.rank := rfl
@[simp] theorem Core.setBerth_vcore (k : Core) (b : BerthId) (x : Berth) : (k.setBerth b x).vcore = k.vcore := rfl
@[simp] theorem Core.setBerth_heat (k : Core) (b : BerthId) (x : Berth) : (k.setBerth b x).heat = k.heat := rfl
@[simp] theorem Core.setBerth_lend (k : Core) (b : BerthId) (x : Berth) : (k.setBerth b x).lend = k.lend := rfl
@[simp] theorem Core.setBerth_lenders (k : Core) (b : BerthId) (x : Berth) : (k.setBerth b x).lenders = k.lenders := rfl
@[simp] theorem Core.setBerth_priv (k : Core) (b : BerthId) (x : Berth) : (k.setBerth b x).priv = k.priv := rfl
@[simp] theorem Core.setBerth_lcy (k : Core) (b : BerthId) (x : Berth) : (k.setBerth b x).lcy = k.lcy := rfl
@[simp] theorem Core.setBerth_phs (k : Core) (b : BerthId) (x : Berth) : (k.setBerth b x).phs = k.phs := rfl
@[simp] theorem Core.setBerth_xwin (k : Core) (b : BerthId) (x : Berth) : (k.setBerth b x).xwin = k.xwin := rfl
@[simp] theorem Core.setBerth_seed0 (k : Core) (b : BerthId) (x : Berth) : (k.setBerth b x).seed0 = k.seed0 := rfl
@[simp] theorem Core.setBerth_seed1 (k : Core) (b : BerthId) (x : Berth) : (k.setBerth b x).seed1 = k.seed1 := rfl
@[simp] theorem Core.setBerth_layer (k : Core) (b : BerthId) (x : Berth) : (k.setBerth b x).layer = k.layer := rfl
@[simp] theorem Core.setBerth_srmode (k : Core) (b : BerthId) (x : Berth) : (k.setBerth b x).srmode = k.srmode := rfl
@[simp] theorem Core.setBerth_fpf (k : Core) (b : BerthId) (x : Berth) : (k.setBerth b x).fpf = k.fpf := rfl
@[simp] theorem Core.setBerth_psize (k : Core) (b : BerthId) (x : Berth) : (k.setBerth b x).psize = k.psize := rfl
@[simp] theorem Core.setBerth_wdp (k : Core) (b : BerthId) (x : Berth) : (k.setBerth b x).wdp = k.wdp := rfl
@[simp] theorem Core.setBerth_pmc (k : Core) (b : BerthId) (x : Berth) : (k.setBerth b x).pmc = k.pmc := rfl
@[simp] theorem Core.setBerth_pmsel (k : Core) (b : BerthId) (x : Berth) : (k.setBerth b x).pmsel = k.pmsel := rfl
@[simp] theorem Core.setBerth_pmon (k : Core) (b : BerthId) (x : Berth) : (k.setBerth b x).pmon = k.pmon := rfl
@[simp] theorem Core.setBerth_drpCnt (k : Core) (b : BerthId) (x : Berth) : (k.setBerth b x).drpCnt = k.drpCnt := rfl
@[simp] theorem Core.setBerth_flips (k : Core) (b : BerthId) (x : Berth) : (k.setBerth b x).flips = k.flips := rfl
@[simp] theorem Core.setBerth_recsRead (k : Core) (b : BerthId) (x : Berth) : (k.setBerth b x).recsRead = k.recsRead := rfl
@[simp] theorem Core.setBerth_file (k : Core) (b : BerthId) (x : Berth) : (k.setBerth b x).file = k.file := rfl
@[simp] theorem Core.setBerth_opf (k : Core) (b : BerthId) (x : Berth) : (k.setBerth b x).opf = k.opf := rfl
@[simp] theorem Core.setBerth_lv (k : Core) (b : BerthId) (x : Berth) : (k.setBerth b x).lv = k.lv := rfl
@[simp] theorem Core.setBerth_ll (k : Core) (b : BerthId) (x : Berth) : (k.setBerth b x).ll = k.ll := rfl
@[simp] theorem Core.setBerth_masks (k : Core) (b : BerthId) (x : Berth) : (k.setBerth b x).masks = k.masks := rfl
@[simp] theorem Core.setBerth_wins (k : Core) (b : BerthId) (x : Berth) : (k.setBerth b x).wins = k.wins := rfl
@[simp] theorem Core.setBerth_bars (k : Core) (b : BerthId) (x : Berth) : (k.setBerth b x).bars = k.bars := rfl
@[simp] theorem Core.setBerth_cur (k : Core) (b : BerthId) (x : Berth) : (k.setBerth b x).cur = k.cur := rfl
@[simp] theorem Core.setBerth_running (k : Core) (b : BerthId) (x : Berth) : (k.setBerth b x).running = k.running := rfl
@[simp] theorem Core.setBerth_skip (k : Core) (b : BerthId) (x : Berth) : (k.setBerth b x).skip = k.skip := rfl
@[simp] theorem Core.setBerth_halted (k : Core) (b : BerthId) (x : Berth) : (k.setBerth b x).halted = k.halted := rfl
@[simp] theorem Core.setBerth_stopping (k : Core) (b : BerthId) (x : Berth) : (k.setBerth b x).stopping = k.stopping := rfl
@[simp] theorem Core.setBerth_stopped (k : Core) (b : BerthId) (x : Berth) : (k.setBerth b x).stopped = k.stopped := rfl
@[simp] theorem Core.setBerth_frozen (k : Core) (b : BerthId) (x : Berth) : (k.setBerth b x).frozen = k.frozen := rfl
@[simp] theorem Core.setBerth_since (k : Core) (b : BerthId) (x : Berth) : (k.setBerth b x).since = k.since := rfl
@[simp] theorem Core.setBerth_restart (k : Core) (b : BerthId) (x : Berth) : (k.setBerth b x).restart = k.restart := rfl
@[simp] theorem Core.setBerth_snap (k : Core) (b : BerthId) (x : Berth) : (k.setBerth b x).snap = k.snap := rfl
@[simp] theorem Core.setBerth_serial (k : Core) (b : BerthId) (x : Berth) : (k.setBerth b x).serial = k.serial := rfl
@[simp] theorem Core.setBerth_issued (k : Core) (b : BerthId) (x : Berth) : (k.setBerth b x).issued = k.issued := rfl
@[simp] theorem Core.setBerth_switched (k : Core) (b : BerthId) (x : Berth) : (k.setBerth b x).switched = k.switched := rfl
@[simp] theorem Core.setBerth_inflight (k : Core) (b : BerthId) (x : Berth) : (k.setBerth b x).inflight = k.inflight := rfl
@[simp] theorem Core.setBerth_ldPush (k : Core) (b : BerthId) (x : Berth) : (k.setBerth b x).ldPush = k.ldPush := rfl
@[simp] theorem Core.setBerth_ldeQ (k : Core) (b : BerthId) (x : Berth) : (k.setBerth b x).ldeQ = k.ldeQ := rfl
@[simp] theorem Core.setBerth_vxeQ (k : Core) (b : BerthId) (x : Berth) : (k.setBerth b x).vxeQ = k.vxeQ := rfl
@[simp] theorem Core.setBerth_steQ (k : Core) (b : BerthId) (x : Berth) : (k.setBerth b x).steQ = k.steQ := rfl
@[simp] theorem Core.setBerth_cpyQ (k : Core) (b : BerthId) (x : Berth) : (k.setBerth b x).cpyQ = k.cpyQ := rfl
@[simp] theorem Core.setBerth_arrQ (k : Core) (b : BerthId) (x : Berth) : (k.setBerth b x).arrQ = k.arrQ := rfl
@[simp] theorem Core.setBerth_sfQ (k : Core) (b : BerthId) (x : Berth) : (k.setBerth b x).sfQ = k.sfQ := rfl
@[simp] theorem Core.setBerth_lde (k : Core) (b : BerthId) (x : Berth) : (k.setBerth b x).lde = k.lde := rfl
@[simp] theorem Core.setBerth_ste (k : Core) (b : BerthId) (x : Berth) : (k.setBerth b x).ste = k.ste := rfl
@[simp] theorem Core.setBerth_retire (k : Core) (b : BerthId) (x : Berth) : (k.setBerth b x).retire = k.retire := rfl
@[simp] theorem Core.setBerth_tokens (k : Core) (b : BerthId) (x : Berth) : (k.setBerth b x).tokens = k.tokens := rfl
@[simp] theorem Core.setBerth_vbuf (k : Core) (b : BerthId) (x : Berth) : (k.setBerth b x).vbuf = k.vbuf := rfl
@[simp] theorem Core.setBerth_acc (k : Core) (b : BerthId) (x : Berth) : (k.setBerth b x).acc = k.acc := rfl
@[simp] theorem Core.setBerth_copies (k : Core) (b : BerthId) (x : Berth) : (k.setBerth b x).copies = k.copies := rfl
@[simp] theorem Core.setBerth_counts (k : Core) (b : BerthId) (x : Berth) : (k.setBerth b x).counts = k.counts := rfl
@[simp] theorem Core.setBerth_holds (k : Core) (b : BerthId) (x : Berth) : (k.setBerth b x).holds = k.holds := rfl
@[simp] theorem Core.setBerth_inbox (k : Core) (b : BerthId) (x : Berth) : (k.setBerth b x).inbox = k.inbox := rfl
@[simp] theorem Core.setBerth_lm (k : Core) (b : BerthId) (x : Berth) : (k.setBerth b x).lm = k.lm := rfl
@[simp] theorem Core.setBerth_lmBad (k : Core) (b : BerthId) (x : Berth) : (k.setBerth b x).lmBad = k.lmBad := rfl
@[simp] theorem Core.setBerth_fileBad (k : Core) (b : BerthId) (x : Berth) : (k.setBerth b x).fileBad = k.fileBad := rfl
@[simp] theorem Core.setBerth_uce (k : Core) (b : BerthId) (x : Berth) : (k.setBerth b x).uce = k.uce := rfl
@[simp] theorem Core.setBerth_tlb (k : Core) (b : BerthId) (x : Berth) : (k.setBerth b x).tlb = k.tlb := rfl
@[simp] theorem Core.setBerth_beat (k : Core) (b : BerthId) (x : Berth) : (k.setBerth b x).beat = k.beat := rfl

@[simp] theorem Core.updBerth_active (k : Core) (b : BerthId) (f : Berth → Berth) : (k.updBerth b f).active = k.active := rfl
@[simp] theorem Core.updBerth_lender (k : Core) (b : BerthId) (f : Berth → Berth) : (k.updBerth b f).lender = k.lender := rfl
@[simp] theorem Core.updBerth_launch (k : Core) (b : BerthId) (f : Berth → Berth) : (k.updBerth b f).launch = k.launch := rfl
@[simp] theorem Core.updBerth_rank (k : Core) (b : BerthId) (f : Berth → Berth) : (k.updBerth b f).rank = k.rank := rfl
@[simp] theorem Core.updBerth_vcore (k : Core) (b : BerthId) (f : Berth → Berth) : (k.updBerth b f).vcore = k.vcore := rfl
@[simp] theorem Core.updBerth_heat (k : Core) (b : BerthId) (f : Berth → Berth) : (k.updBerth b f).heat = k.heat := rfl
@[simp] theorem Core.updBerth_lend (k : Core) (b : BerthId) (f : Berth → Berth) : (k.updBerth b f).lend = k.lend := rfl
@[simp] theorem Core.updBerth_lenders (k : Core) (b : BerthId) (f : Berth → Berth) : (k.updBerth b f).lenders = k.lenders := rfl
@[simp] theorem Core.updBerth_priv (k : Core) (b : BerthId) (f : Berth → Berth) : (k.updBerth b f).priv = k.priv := rfl
@[simp] theorem Core.updBerth_lcy (k : Core) (b : BerthId) (f : Berth → Berth) : (k.updBerth b f).lcy = k.lcy := rfl
@[simp] theorem Core.updBerth_phs (k : Core) (b : BerthId) (f : Berth → Berth) : (k.updBerth b f).phs = k.phs := rfl
@[simp] theorem Core.updBerth_xwin (k : Core) (b : BerthId) (f : Berth → Berth) : (k.updBerth b f).xwin = k.xwin := rfl
@[simp] theorem Core.updBerth_seed0 (k : Core) (b : BerthId) (f : Berth → Berth) : (k.updBerth b f).seed0 = k.seed0 := rfl
@[simp] theorem Core.updBerth_seed1 (k : Core) (b : BerthId) (f : Berth → Berth) : (k.updBerth b f).seed1 = k.seed1 := rfl
@[simp] theorem Core.updBerth_layer (k : Core) (b : BerthId) (f : Berth → Berth) : (k.updBerth b f).layer = k.layer := rfl
@[simp] theorem Core.updBerth_srmode (k : Core) (b : BerthId) (f : Berth → Berth) : (k.updBerth b f).srmode = k.srmode := rfl
@[simp] theorem Core.updBerth_fpf (k : Core) (b : BerthId) (f : Berth → Berth) : (k.updBerth b f).fpf = k.fpf := rfl
@[simp] theorem Core.updBerth_psize (k : Core) (b : BerthId) (f : Berth → Berth) : (k.updBerth b f).psize = k.psize := rfl
@[simp] theorem Core.updBerth_wdp (k : Core) (b : BerthId) (f : Berth → Berth) : (k.updBerth b f).wdp = k.wdp := rfl
@[simp] theorem Core.updBerth_pmc (k : Core) (b : BerthId) (f : Berth → Berth) : (k.updBerth b f).pmc = k.pmc := rfl
@[simp] theorem Core.updBerth_pmsel (k : Core) (b : BerthId) (f : Berth → Berth) : (k.updBerth b f).pmsel = k.pmsel := rfl
@[simp] theorem Core.updBerth_pmon (k : Core) (b : BerthId) (f : Berth → Berth) : (k.updBerth b f).pmon = k.pmon := rfl
@[simp] theorem Core.updBerth_drpCnt (k : Core) (b : BerthId) (f : Berth → Berth) : (k.updBerth b f).drpCnt = k.drpCnt := rfl
@[simp] theorem Core.updBerth_flips (k : Core) (b : BerthId) (f : Berth → Berth) : (k.updBerth b f).flips = k.flips := rfl
@[simp] theorem Core.updBerth_recsRead (k : Core) (b : BerthId) (f : Berth → Berth) : (k.updBerth b f).recsRead = k.recsRead := rfl
@[simp] theorem Core.updBerth_file (k : Core) (b : BerthId) (f : Berth → Berth) : (k.updBerth b f).file = k.file := rfl
@[simp] theorem Core.updBerth_opf (k : Core) (b : BerthId) (f : Berth → Berth) : (k.updBerth b f).opf = k.opf := rfl
@[simp] theorem Core.updBerth_lv (k : Core) (b : BerthId) (f : Berth → Berth) : (k.updBerth b f).lv = k.lv := rfl
@[simp] theorem Core.updBerth_ll (k : Core) (b : BerthId) (f : Berth → Berth) : (k.updBerth b f).ll = k.ll := rfl
@[simp] theorem Core.updBerth_masks (k : Core) (b : BerthId) (f : Berth → Berth) : (k.updBerth b f).masks = k.masks := rfl
@[simp] theorem Core.updBerth_wins (k : Core) (b : BerthId) (f : Berth → Berth) : (k.updBerth b f).wins = k.wins := rfl
@[simp] theorem Core.updBerth_bars (k : Core) (b : BerthId) (f : Berth → Berth) : (k.updBerth b f).bars = k.bars := rfl
@[simp] theorem Core.updBerth_cur (k : Core) (b : BerthId) (f : Berth → Berth) : (k.updBerth b f).cur = k.cur := rfl
@[simp] theorem Core.updBerth_running (k : Core) (b : BerthId) (f : Berth → Berth) : (k.updBerth b f).running = k.running := rfl
@[simp] theorem Core.updBerth_skip (k : Core) (b : BerthId) (f : Berth → Berth) : (k.updBerth b f).skip = k.skip := rfl
@[simp] theorem Core.updBerth_halted (k : Core) (b : BerthId) (f : Berth → Berth) : (k.updBerth b f).halted = k.halted := rfl
@[simp] theorem Core.updBerth_stopping (k : Core) (b : BerthId) (f : Berth → Berth) : (k.updBerth b f).stopping = k.stopping := rfl
@[simp] theorem Core.updBerth_stopped (k : Core) (b : BerthId) (f : Berth → Berth) : (k.updBerth b f).stopped = k.stopped := rfl
@[simp] theorem Core.updBerth_frozen (k : Core) (b : BerthId) (f : Berth → Berth) : (k.updBerth b f).frozen = k.frozen := rfl
@[simp] theorem Core.updBerth_since (k : Core) (b : BerthId) (f : Berth → Berth) : (k.updBerth b f).since = k.since := rfl
@[simp] theorem Core.updBerth_restart (k : Core) (b : BerthId) (f : Berth → Berth) : (k.updBerth b f).restart = k.restart := rfl
@[simp] theorem Core.updBerth_snap (k : Core) (b : BerthId) (f : Berth → Berth) : (k.updBerth b f).snap = k.snap := rfl
@[simp] theorem Core.updBerth_serial (k : Core) (b : BerthId) (f : Berth → Berth) : (k.updBerth b f).serial = k.serial := rfl
@[simp] theorem Core.updBerth_issued (k : Core) (b : BerthId) (f : Berth → Berth) : (k.updBerth b f).issued = k.issued := rfl
@[simp] theorem Core.updBerth_switched (k : Core) (b : BerthId) (f : Berth → Berth) : (k.updBerth b f).switched = k.switched := rfl
@[simp] theorem Core.updBerth_inflight (k : Core) (b : BerthId) (f : Berth → Berth) : (k.updBerth b f).inflight = k.inflight := rfl
@[simp] theorem Core.updBerth_ldPush (k : Core) (b : BerthId) (f : Berth → Berth) : (k.updBerth b f).ldPush = k.ldPush := rfl
@[simp] theorem Core.updBerth_ldeQ (k : Core) (b : BerthId) (f : Berth → Berth) : (k.updBerth b f).ldeQ = k.ldeQ := rfl
@[simp] theorem Core.updBerth_vxeQ (k : Core) (b : BerthId) (f : Berth → Berth) : (k.updBerth b f).vxeQ = k.vxeQ := rfl
@[simp] theorem Core.updBerth_steQ (k : Core) (b : BerthId) (f : Berth → Berth) : (k.updBerth b f).steQ = k.steQ := rfl
@[simp] theorem Core.updBerth_cpyQ (k : Core) (b : BerthId) (f : Berth → Berth) : (k.updBerth b f).cpyQ = k.cpyQ := rfl
@[simp] theorem Core.updBerth_arrQ (k : Core) (b : BerthId) (f : Berth → Berth) : (k.updBerth b f).arrQ = k.arrQ := rfl
@[simp] theorem Core.updBerth_sfQ (k : Core) (b : BerthId) (f : Berth → Berth) : (k.updBerth b f).sfQ = k.sfQ := rfl
@[simp] theorem Core.updBerth_lde (k : Core) (b : BerthId) (f : Berth → Berth) : (k.updBerth b f).lde = k.lde := rfl
@[simp] theorem Core.updBerth_ste (k : Core) (b : BerthId) (f : Berth → Berth) : (k.updBerth b f).ste = k.ste := rfl
@[simp] theorem Core.updBerth_retire (k : Core) (b : BerthId) (f : Berth → Berth) : (k.updBerth b f).retire = k.retire := rfl
@[simp] theorem Core.updBerth_tokens (k : Core) (b : BerthId) (f : Berth → Berth) : (k.updBerth b f).tokens = k.tokens := rfl
@[simp] theorem Core.updBerth_vbuf (k : Core) (b : BerthId) (f : Berth → Berth) : (k.updBerth b f).vbuf = k.vbuf := rfl
@[simp] theorem Core.updBerth_acc (k : Core) (b : BerthId) (f : Berth → Berth) : (k.updBerth b f).acc = k.acc := rfl
@[simp] theorem Core.updBerth_copies (k : Core) (b : BerthId) (f : Berth → Berth) : (k.updBerth b f).copies = k.copies := rfl
@[simp] theorem Core.updBerth_counts (k : Core) (b : BerthId) (f : Berth → Berth) : (k.updBerth b f).counts = k.counts := rfl
@[simp] theorem Core.updBerth_holds (k : Core) (b : BerthId) (f : Berth → Berth) : (k.updBerth b f).holds = k.holds := rfl
@[simp] theorem Core.updBerth_inbox (k : Core) (b : BerthId) (f : Berth → Berth) : (k.updBerth b f).inbox = k.inbox := rfl
@[simp] theorem Core.updBerth_lm (k : Core) (b : BerthId) (f : Berth → Berth) : (k.updBerth b f).lm = k.lm := rfl
@[simp] theorem Core.updBerth_lmBad (k : Core) (b : BerthId) (f : Berth → Berth) : (k.updBerth b f).lmBad = k.lmBad := rfl
@[simp] theorem Core.updBerth_fileBad (k : Core) (b : BerthId) (f : Berth → Berth) : (k.updBerth b f).fileBad = k.fileBad := rfl
@[simp] theorem Core.updBerth_uce (k : Core) (b : BerthId) (f : Berth → Berth) : (k.updBerth b f).uce = k.uce := rfl
@[simp] theorem Core.updBerth_tlb (k : Core) (b : BerthId) (f : Berth → Berth) : (k.updBerth b f).tlb = k.tlb := rfl
@[simp] theorem Core.updBerth_beat (k : Core) (b : BerthId) (f : Berth → Berth) : (k.updBerth b f).beat = k.beat := rfl

/-! ## Berths -/

@[simp] theorem Berth.setS_started (x : Berth) (n : Fin 64) (q : List W64) : (x.setS n q).started = x.started := rfl
@[simp] theorem Berth.setS_exited (x : Berth) (n : Fin 64) (q : List W64) : (x.setS n q).exited = x.exited := rfl
@[simp] theorem Berth.setS_pc (x : Berth) (n : Fin 64) (q : List W64) : (x.setS n q).pc = x.pc := rfl
@[simp] theorem Berth.setS_setter (x : Berth) (n : Fin 64) (q : List W64) : (x.setS n q).setter = x.setter := rfl
@[simp] theorem Berth.setS_p (x : Berth) (n : Fin 64) (q : List W64) : (x.setS n q).p = x.p := rfl
@[simp] theorem Berth.setS_ls (x : Berth) (n : Fin 64) (q : List W64) : (x.setS n q).ls = x.ls := rfl
@[simp] theorem Berth.setS_stall (x : Berth) (n : Fin 64) (q : List W64) : (x.setS n q).stall = x.stall := rfl
@[simp] theorem Berth.setS_wait (x : Berth) (n : Fin 64) (q : List W64) : (x.setS n q).wait = x.wait := rfl
@[simp] theorem Berth.setS_lockArrived (x : Berth) (n : Fin 64) (q : List W64) : (x.setS n q).lockArrived = x.lockArrived := rfl
@[simp] theorem Berth.setS_lockPassed (x : Berth) (n : Fin 64) (q : List W64) : (x.setS n q).lockPassed = x.lockPassed := rfl
@[simp] theorem Berth.setS_lockAt (x : Berth) (n : Fin 64) (q : List W64) : (x.setS n q).lockAt = x.lockAt := rfl
@[simp] theorem Berth.setS_barMarks (x : Berth) (n : Fin 64) (q : List W64) : (x.setS n q).barMarks = x.barMarks := rfl
@[simp] theorem Berth.setS_trapv (x : Berth) (n : Fin 64) (q : List W64) : (x.setS n q).trapv = x.trapv := rfl
@[simp] theorem Berth.setS_tcode (x : Berth) (n : Fin 64) (q : List W64) : (x.setS n q).tcode = x.tcode := rfl
@[simp] theorem Berth.setS_tslot (x : Berth) (n : Fin 64) (q : List W64) : (x.setS n q).tslot = x.tslot := rfl
@[simp] theorem Berth.setS_tval (x : Berth) (n : Fin 64) (q : List W64) : (x.setS n q).tval = x.tval := rfl
@[simp] theorem Berth.setS_epc (x : Berth) (n : Fin 64) (q : List W64) : (x.setS n q).epc = x.epc := rfl
@[simp] theorem Berth.setS_pend (x : Berth) (n : Fin 64) (q : List W64) : (x.setS n q).pend = x.pend := rfl
@[simp] theorem Berth.setS_unitHolds (x : Berth) (n : Fin 64) (q : List W64) : (x.setS n q).unitHolds = x.unitHolds := rfl
@[simp] theorem Berth.setS_handlers (x : Berth) (n : Fin 64) (q : List W64) : (x.setS n q).handlers = x.handlers := rfl
@[simp] theorem Berth.setS_held (x : Berth) (n : Fin 64) (q : List W64) : (x.setS n q).held = x.held := rfl
@[simp] theorem Berth.setS_fences (x : Berth) (n : Fin 64) (q : List W64) : (x.setS n q).fences = x.fences := rfl
@[simp] theorem Berth.setS_again (x : Berth) (n : Fin 64) (q : List W64) : (x.setS n q).again = x.again := rfl
@[simp] theorem Berth.setS_entering (x : Berth) (n : Fin 64) (q : List W64) : (x.setS n q).entering = x.entering := rfl
@[simp] theorem Berth.setP_started (x : Berth) (n : Fin 16) (v : Bool) : (x.setP n v).started = x.started := by
  unfold Berth.setP; split <;> rfl
@[simp] theorem Berth.setP_exited (x : Berth) (n : Fin 16) (v : Bool) : (x.setP n v).exited = x.exited := by
  unfold Berth.setP; split <;> rfl
@[simp] theorem Berth.setP_pc (x : Berth) (n : Fin 16) (v : Bool) : (x.setP n v).pc = x.pc := by
  unfold Berth.setP; split <;> rfl
@[simp] theorem Berth.setP_setter (x : Berth) (n : Fin 16) (v : Bool) : (x.setP n v).setter = x.setter := by
  unfold Berth.setP; split <;> rfl
@[simp] theorem Berth.setP_s (x : Berth) (n : Fin 16) (v : Bool) : (x.setP n v).s = x.s := by
  unfold Berth.setP; split <;> rfl
@[simp] theorem Berth.setP_ls (x : Berth) (n : Fin 16) (v : Bool) : (x.setP n v).ls = x.ls := by
  unfold Berth.setP; split <;> rfl
@[simp] theorem Berth.setP_stall (x : Berth) (n : Fin 16) (v : Bool) : (x.setP n v).stall = x.stall := by
  unfold Berth.setP; split <;> rfl
@[simp] theorem Berth.setP_wait (x : Berth) (n : Fin 16) (v : Bool) : (x.setP n v).wait = x.wait := by
  unfold Berth.setP; split <;> rfl
@[simp] theorem Berth.setP_lockArrived (x : Berth) (n : Fin 16) (v : Bool) : (x.setP n v).lockArrived = x.lockArrived := by
  unfold Berth.setP; split <;> rfl
@[simp] theorem Berth.setP_lockPassed (x : Berth) (n : Fin 16) (v : Bool) : (x.setP n v).lockPassed = x.lockPassed := by
  unfold Berth.setP; split <;> rfl
@[simp] theorem Berth.setP_lockAt (x : Berth) (n : Fin 16) (v : Bool) : (x.setP n v).lockAt = x.lockAt := by
  unfold Berth.setP; split <;> rfl
@[simp] theorem Berth.setP_barMarks (x : Berth) (n : Fin 16) (v : Bool) : (x.setP n v).barMarks = x.barMarks := by
  unfold Berth.setP; split <;> rfl
@[simp] theorem Berth.setP_trapv (x : Berth) (n : Fin 16) (v : Bool) : (x.setP n v).trapv = x.trapv := by
  unfold Berth.setP; split <;> rfl
@[simp] theorem Berth.setP_tcode (x : Berth) (n : Fin 16) (v : Bool) : (x.setP n v).tcode = x.tcode := by
  unfold Berth.setP; split <;> rfl
@[simp] theorem Berth.setP_tslot (x : Berth) (n : Fin 16) (v : Bool) : (x.setP n v).tslot = x.tslot := by
  unfold Berth.setP; split <;> rfl
@[simp] theorem Berth.setP_tval (x : Berth) (n : Fin 16) (v : Bool) : (x.setP n v).tval = x.tval := by
  unfold Berth.setP; split <;> rfl
@[simp] theorem Berth.setP_epc (x : Berth) (n : Fin 16) (v : Bool) : (x.setP n v).epc = x.epc := by
  unfold Berth.setP; split <;> rfl
@[simp] theorem Berth.setP_pend (x : Berth) (n : Fin 16) (v : Bool) : (x.setP n v).pend = x.pend := by
  unfold Berth.setP; split <;> rfl
@[simp] theorem Berth.setP_unitHolds (x : Berth) (n : Fin 16) (v : Bool) : (x.setP n v).unitHolds = x.unitHolds := by
  unfold Berth.setP; split <;> rfl
@[simp] theorem Berth.setP_handlers (x : Berth) (n : Fin 16) (v : Bool) : (x.setP n v).handlers = x.handlers := by
  unfold Berth.setP; split <;> rfl
@[simp] theorem Berth.setP_held (x : Berth) (n : Fin 16) (v : Bool) : (x.setP n v).held = x.held := by
  unfold Berth.setP; split <;> rfl
@[simp] theorem Berth.setP_fences (x : Berth) (n : Fin 16) (v : Bool) : (x.setP n v).fences = x.fences := by
  unfold Berth.setP; split <;> rfl
@[simp] theorem Berth.setP_again (x : Berth) (n : Fin 16) (v : Bool) : (x.setP n v).again = x.again := by
  unfold Berth.setP; split <;> rfl
@[simp] theorem Berth.setP_entering (x : Berth) (n : Fin 16) (v : Bool) : (x.setP n v).entering = x.entering := by
  unfold Berth.setP; split <;> rfl

/-! ## Reading back -/

theorem get_eq (v : Vector α n) (i : Fin n) : v.get i = v[i.val]'i.isLt := rfl
theorem get_set_if (v : Vector α n) (i j : Fin n) (x : α) :
    (v.set i.val x i.isLt).get j = if i = j then x else v.get j := by
  simp only [get_eq, Vector.getElem_set, Fin.ext_iff]
@[simp] theorem get_set_same (v : Vector α n) (i : Fin n) (x : α) : (v.set i.val x i.isLt).get i = x := by
  simp [get_set_if]
theorem get_set_ne (v : Vector α n) (i j : Fin n) (x : α) (h : i ≠ j) : (v.set i.val x i.isLt).get j = v.get j := by
  simp [get_set_if, h]

@[simp] theorem State.core_setCore (s : State) (c : CoreId) (x : Core) : (s.setCore c x).core c = x := by
  simp [State.core, State.setCore]
theorem State.core_setCore_ne (s : State) (c j : CoreId) (x : Core) (h : c ≠ j) : (s.setCore c x).core j = s.core j := by
  simp [State.core, State.setCore, get_set_ne _ _ _ _ h]
theorem State.core_setCore_if (s : State) (c j : CoreId) (x : Core) :
    (s.setCore c x).core j = if c = j then x else s.core j := by
  by_cases h : c = j
  · subst h; simp
  · simp [State.core_setCore_ne, h]
@[simp] theorem State.pair_setPair (s : State) (t : PairId) (x : Pair) : (s.setPair t x).pair t = x := by
  simp [State.pair, State.setPair]
theorem State.pair_setPair_ne (s : State) (t j : PairId) (x : Pair) (h : t ≠ j) : (s.setPair t x).pair j = s.pair j := by
  simp [State.pair, State.setPair, get_set_ne _ _ _ _ h]
theorem State.pair_setPair_if (s : State) (t j : PairId) (x : Pair) :
    (s.setPair t x).pair j = if t = j then x else s.pair j := by
  by_cases h : t = j
  · subst h; simp
  · simp [State.pair_setPair_ne, h]
@[simp] theorem State.part_setPart (s : State) (p : PartId) (x : Partition) : (s.setPart p x).part p = x := by
  simp [State.part, State.setPart]
theorem State.part_setPart_ne (s : State) (p j : PartId) (x : Partition) (h : p ≠ j) : (s.setPart p x).part j = s.part j := by
  simp [State.part, State.setPart, get_set_ne _ _ _ _ h]
theorem State.part_setPart_if (s : State) (p j : PartId) (x : Partition) :
    (s.setPart p x).part j = if p = j then x else s.part j := by
  by_cases h : p = j
  · subst h; simp
  · simp [State.part_setPart_ne, h]
@[simp] theorem State.die_setDie (s : State) (d : DieId) (x : Die) : (s.setDie d x).die d = x := by
  simp [State.die, State.setDie]
theorem State.die_setDie_ne (s : State) (d j : DieId) (x : Die) (h : d ≠ j) : (s.setDie d x).die j = s.die j := by
  simp [State.die, State.setDie, get_set_ne _ _ _ _ h]
theorem State.die_setDie_if (s : State) (d j : DieId) (x : Die) :
    (s.setDie d x).die j = if d = j then x else s.die j := by
  by_cases h : d = j
  · subst h; simp
  · simp [State.die_setDie_ne, h]
@[simp] theorem State.quad_setQuad (s : State) (q : QuadId) (x : Quad) : (s.setQuad q x).quad q = x := by
  simp [State.quad, State.setQuad]
theorem State.quad_setQuad_ne (s : State) (q j : QuadId) (x : Quad) (h : q ≠ j) : (s.setQuad q x).quad j = s.quad j := by
  simp [State.quad, State.setQuad, get_set_ne _ _ _ _ h]
theorem State.quad_setQuad_if (s : State) (q j : QuadId) (x : Quad) :
    (s.setQuad q x).quad j = if q = j then x else s.quad j := by
  by_cases h : q = j
  · subst h; simp
  · simp [State.quad_setQuad_ne, h]
@[simp] theorem Core.berth_setBerth (k : Core) (b : BerthId) (x : Berth) : (k.setBerth b x).berth b = x := by
  simp [Core.berth, Core.setBerth]
theorem Core.berth_setBerth_ne (k : Core) (b j : BerthId) (x : Berth) (h : b ≠ j) : (k.setBerth b x).berth j = k.berth j := by
  simp [Core.berth, Core.setBerth, get_set_ne _ _ _ _ h]
theorem Core.berth_setBerth_if (k : Core) (b j : BerthId) (x : Berth) :
    (k.setBerth b x).berth j = if b = j then x else k.berth j := by
  by_cases h : b = j
  · subst h; simp
  · simp [Core.berth_setBerth_ne, h]
@[simp] theorem Core.berth_updBerth (k : Core) (b : BerthId) (f : Berth → Berth) : (k.updBerth b f).berth b = f (k.berth b) := by
  simp [Core.updBerth]
@[simp] theorem State.core_updCore (s : State) (c : CoreId) (f : Core → Core) : (s.updCore c f).core c = f (s.core c) := by
  simp [State.updCore]
theorem State.core_updCore_ne (s : State) (c j : CoreId) (f : Core → Core) (h : c ≠ j) : (s.updCore c f).core j = s.core j := by
  simp [State.updCore, State.core_setCore_ne _ _ _ _ h]
theorem State.core_updCore_if (s : State) (c j : CoreId) (f : Core → Core) :
    (s.updCore c f).core j = if c = j then f (s.core c) else s.core j := by
  simp [State.updCore, State.core_setCore_if]
@[simp] theorem State.berth_updBerth (s : State) (c : CoreId) (b : BerthId) (f : Berth → Berth) :
    (s.updBerth c b f).berth c b = f (s.berth c b) := by
  simp [State.updBerth, State.berth]
@[simp] theorem State.updCore_updCore (s : State) (c : CoreId) (f g : Core → Core) :
    (s.updCore c f).updCore c g = s.updCore c (fun k => g (f k)) := by
  simp [State.updCore, State.setCore, State.core]
@[simp] theorem State.self_updCore (s : State) (f : Core → Core) : (s.updCore s.cur f).self = f s.self := by
  simp [State.self]

end Sys2Proof.Machine
end

