-- ==== Sys2Proof/Laws/Issue.lean ====
section
/-! SUPPORT. What the issue of a word can do, and the parts of its body. -/

namespace Sys2Proof.Machine

open Sys2Proof

/-! ## The monad of a body -/

theorem bind_of {m : M α} {f : α → M β} {s t : State} {x : α} (h : Reads m s x t) : (m >>= f) s = f x t := by
  simp [Reads] at h
  simp [Bind.bind, StateT.bind, h, Except.bind]

@[simp] theorem pure_run (x : α) (s : State) : (pure x : M α) s = .ok (x, s) := rfl
@[simp] theorem get_bind (f : State → M β) (s : State) : ((get : M State) >>= f) s = f s s := rfl
@[simp] theorem updSelf_run (f : Core → Core) (s : State) : updSelf f s = .ok ((), s.onSelf f) := rfl
@[simp] theorem updMe_run (f : Berth → Berth) (s : State) :
    updMe f s = .ok ((), s.onMe f) := rfl
@[simp] theorem modify_run (f : State → State) (s : State) : (modify f : M Unit) s = .ok ((), f s) := rfl
@[simp] theorem modify_bind (f : State → State) (g : Unit → M β) (s : State) :
    ((modify f : M Unit) >>= g) s = g () (f s) := rfl
@[simp] theorem updSelf_bind (f : Core → Core) (g : Unit → M β) (s : State) :
    (updSelf f >>= g) s = g () (s.onSelf f) := rfl
@[simp] theorem updMe_bind (f : Berth → Berth) (g : Unit → M β) (s : State) :
    (updMe f >>= g) s = g () (s.onMe f) := rfl
@[simp] theorem pure_bind_run (x : α) (g : α → M β) (s : State) : ((pure x : M α) >>= g) s = g x s := rfl
@[simp] theorem need_true (code : Code) (slot : Nat) (tval : W64) : need true code slot tval = pure () := rfl
theorem need_of {b : Bool} (h : b = true) (code : Code) (slot : Nat) (tval : W64) : need b code slot tval = pure () := by
  subst h; rfl
@[simp] theorem result_run (unit : ResUnit) (dst : Dst) (v : RVal) (lat : Nat) (s : State) :
    result unit dst v lat 0#6 s = .ok ((), s.emit unit dst v lat) := rfl
@[simp] theorem result_bind (unit : ResUnit) (dst : Dst) (v : RVal) (lat : Nat) (g : Unit → M β) (s : State) :
    (result unit dst v lat 0#6 >>= g) s = g () (s.emit unit dst v lat) := rfl
@[simp] theorem scalar_run (d : SDst) (v : W64) (lat : Nat) (s : State) : scalar d lat v s = .ok ((), s.emitS d v lat) := rfl
@[simp] theorem seqResult_run (d : SDst) (v : W64) (s : State) : seqResult d v s = .ok ((), s.emitS d v 1) := rfl
@[simp] theorem seqResult_bind (d : SDst) (v : W64) (g : Unit → M β) (s : State) :
    (seqResult d v >>= g) s = g () (s.emitS d v 1) := rfl
@[simp] theorem branch_run (a : W64) (s : State) : branch a s = .ok ((), s.jump a) := rfl
@[simp] theorem waitHere_run (w : Wait) (s : State) : waitHere w s = .ok ((), s.park w) := rfl
@[simp] theorem endBlock_run (s : State) : endBlock s = .ok ((), s.rest) := rfl

@[simp] theorem scheduled_cur (h : Head) (s : State) : (scheduled h s).cur = s.cur := rfl
@[simp] theorem scheduled_cyc (h : Head) (s : State) : (scheduled h s).cyc = s.cyc := rfl
@[simp] theorem scheduled_self_cur (h : Head) (s : State) : (scheduled h s).self.cur = s.self.cur := by
  simp [scheduled, State.self, Core.updBerth, Core.setBerth]
theorem onMe_eq (s : State) (f : Berth → Berth) : s.updBerth s.cur s.self.cur f = s.onMe f := rfl
theorem onSelf_eq (s : State) (f : Core → Core) : s.updCore s.cur f = s.onSelf f := rfl
@[simp] theorem onMe_cur (s : State) (f : Berth → Berth) : (s.onMe f).cur = s.cur := rfl
@[simp] theorem onSelf_cur (s : State) (f : Core → Core) : (s.onSelf f).cur = s.cur := rfl
@[simp] theorem emit_cur (u : State) (unit : ResUnit) (dst : Dst) (v : RVal) (lat : Nat) : (u.emit unit dst v lat).cur = u.cur := rfl
@[simp] theorem emitS_cur (u : State) (d : SDst) (v : W64) (lat : Nat) : (u.emitS d v lat).cur = u.cur := rfl

@[simp] theorem emit_self (u : State) (unit : ResUnit) (dst : Dst) (v : RVal) (lat : Nat) :
    (u.emit unit dst v lat).self = { u.self with
      inflight := u.self.inflight ++ [{ unit := unit, dst := dst, val := v, rem := lat - 1, berth := u.self.cur,
                                        addr := u.wordAddr, id := u.self.serial, flags := 0, tok := 0 }] } := by
  simp [State.emit]
@[simp] theorem emit_me (u : State) (unit : ResUnit) (dst : Dst) (v : RVal) (lat : Nat) :
    (u.emit unit dst v lat).me = u.me := by
  simp [State.me, Core.berth]
@[simp] theorem emitS_me (u : State) (d : SDst) (v : W64) (lat : Nat) : (u.emitS d v lat).me = u.me := emit_me ..
@[simp] theorem emitS_wordAddr (u : State) (d : SDst) (v : W64) (lat : Nat) : (u.emitS d v lat).wordAddr = u.wordAddr := by
  simp [State.wordAddr]
theorem onSelf_self (s : State) (f : Core → Core) : (s.onSelf f).self = f s.self := by
  simp [State.onSelf]

/-! ## The issue -/

/-- A word that is ready does what its body does. -/
theorem issue_ready {i : Instr} {h : Head} {s : State} (hr : ready i h s = true) (body : M Unit) :
    issue i h body s = match body (scheduled h s) with
      | .ok (_, t) => .next t
      | .error .hold => .next s
      | .error (.uce n line) => .next (s.meetsUce s.cur s.self.cur n line)
      | .error (.trap code slot tval) =>
        .next (takeTrap s.cur s.self.cur code slot (trapTval i code tval s) (if code = .trap then s.me.pc + 16 else s.me.pc) s.me.pc
          (s.updBerth s.cur s.self.cur (fun x => { x with entering := none }))) := by
  simp only [ready, Bool.and_eq_true, Bool.not_eq_true', Bool.or_eq_true, Option.isNone_iff_eq_none] at hr
  obtain ⟨⟨⟨⟨⟨h1, h2⟩, h3⟩, h4⟩, h5⟩, h6⟩ := hr
  have h7 : (privileged (opcOf i) && !s.self.priv) = false := by
    rcases h5 with h5 | h5 <;> simp [h5]
  simp only [issue, h1, h2, h3, h4, h6, h7]
  cases body (scheduled h s) with
  | ok x => rfl
  | error e => cases e <;> rfl

/-- A word whose body runs through gives the state that the body leaves. -/
theorem issue_next {i : Instr} {h : Head} {s t : State} {body : M Unit} (hr : ready i h s = true)
    (hb : body (scheduled h s) = .ok ((), t)) : issue i h body s = .next t := by
  rw [issue_ready hr, hb]

end Sys2Proof.Machine
end

