-- ==== Sys2Proof/Laws/Keeps.lean ====
section
/-! SUPPORT. Bodies of words keep what stores hold: memory, the module's clock and every byte of LM. -/

namespace Sys2Proof.Machine

open Sys2Proof

/- One proof at a time: proofs that wait for the equations of one definition would each hold a thread. -/
set_option Elab.async false

/-- Two states with the same memory and the same LM in every core. -/
def SameStore (s t : State) : Prop := s.sameMemory t ∧ ∀ c : CoreId, (t.core c).lm = (s.core c).lm

theorem SameStore.refl (s : State) : SameStore s s := ⟨⟨rfl, rfl, rfl, rfl, rfl, rfl, rfl, rfl, rfl⟩, fun _ => rfl⟩
theorem SameStore.trans {s t u : State} (h : SameStore s t) (k : SameStore t u) : SameStore s u := by
  obtain ⟨⟨h1, h2, h3, h4, h5, h6, h7, h8, h9⟩, hl⟩ := h
  obtain ⟨⟨k1, k2, k3, k4, k5, k6, k7, k8, k9⟩, kl⟩ := k
  exact ⟨⟨k1.trans h1, k2.trans h2, k3.trans h3, k4.trans h4, k5.trans h5, k6.trans h6, k7.trans h7, k8.trans h8, k9.trans h9⟩,
    fun c => (kl c).trans (hl c)⟩
theorem SameStore.mem {s t : State} (h : SameStore s t) : t.mem = s.mem := h.1.1

/-! ## State operations that words use -/

theorem same_setCore {s : State} {c : CoreId} {k : Core} (h : k.lm = (s.core c).lm) : SameStore s (s.setCore c k) := by
  refine ⟨⟨rfl, rfl, rfl, rfl, rfl, rfl, rfl, rfl, rfl⟩, fun d => ?_⟩
  rw [State.core_setCore_if]
  split
  · rename_i e; rw [h, e]
  · rfl
theorem same_updCore {s : State} {c : CoreId} {f : Core → Core} (h : ∀ k, (f k).lm = k.lm := by intro k; rfl) : SameStore s (s.updCore c f) :=
  same_setCore (h _)
theorem same_updBerth {s : State} {c : CoreId} {b : BerthId} {f : Berth → Berth} : SameStore s (s.updBerth c b f) :=
  same_updCore
theorem same_setVFifo {s : State} {c : CoreId} {n : Fin 1024} {q : List VEntry} : SameStore s (s.setVFifo c n q) := by
  unfold State.setVFifo
  split
  · exact same_updCore
  · exact .refl s
theorem same_setPart {s : State} {p : PartId} {x : Partition} : SameStore s (s.setPart p x) :=
  ⟨⟨rfl, rfl, rfl, rfl, rfl, rfl, rfl, rfl, rfl⟩, fun _ => rfl⟩
theorem same_setQuad {s : State} {q : QuadId} {x : Quad} : SameStore s (s.setQuad q x) :=
  ⟨⟨rfl, rfl, rfl, rfl, rfl, rfl, rfl, rfl, rfl⟩, fun _ => rfl⟩
theorem same_setLaunch {s : State} {i : Nat} {l : Launch} : SameStore s (s.setLaunch i l) :=
  ⟨⟨rfl, rfl, rfl, rfl, rfl, rfl, rfl, rfl, rfl⟩, fun _ => rfl⟩
theorem same_inputs {s : State} {l : List (W64 × Ev)} : SameStore s { s with inputs := l } :=
  ⟨⟨rfl, rfl, rfl, rfl, rfl, rfl, rfl, rfl, rfl⟩, fun _ => rfl⟩
theorem same_todo {s : State} {l : List Ev} : SameStore s { s with todo := l } :=
  ⟨⟨rfl, rfl, rfl, rfl, rfl, rfl, rfl, rfl, rfl⟩, fun _ => rfl⟩
theorem same_foldl {f : State → α → State} (hf : ∀ s x, SameStore s (f s x)) (l : List α) (s : State) :
    SameStore s (l.foldl f s) := by
  induction l generalizing s with
  | nil => exact .refl s
  | cons a r ih => exact (hf s a).trans (ih _)
theorem same_scheduled {h : Head} {s : State} : SameStore s (scheduled h s) := same_updCore
theorem same_mirrorBar {l : Launch} {n : Fin 96} {s : State} : SameStore s (mirrorBar l n s) :=
  same_foldl (fun _ _ => same_updCore) _ _
theorem same_arrive {n : Fin 96} {v : W16} {s : State} : SameStore s (arrive n v s) := by
  have h : ∀ l m i, SameStore s ((mirrorBar l n s).setLaunch i m) := fun _ _ _ => same_mirrorBar.trans same_setLaunch
  unfold arrive
  split
  · exact .refl s
  · rename_i i l hl
    rcases l.bars.get n with ⟨e0, a0, p0⟩
    dsimp only
    generalize (if a0 = 0 then v else e0) = e
    split
    · refine SameStore.trans ?_ same_inputs
      exact h _ _ _
    · exact h _ _ _
theorem same_enterToken {k : MbKind} {st : BitVec 6} {mb : Byte} {c : CoreId} {s : State} :
    SameStore s (enterToken k st mb c s) := by
  unfold enterToken
  split
  · exact .refl s
  · exact same_setPart
theorem same_returnTrap {c : CoreId} {b : BerthId} {w : W64} {s : State} : SameStore s (returnTrap c b w s) :=
  same_updCore
theorem writeSys_lm (r : SysReg) (v : W64) (k : Core) : (writeSys r v k).lm = k.lm := by
  cases r <;> rfl
theorem same_writePriv {n : PrivName} {v : W64} {s : State} : SameStore s (writePriv n v s) := by
  unfold writePriv
  split
  · exact same_setQuad
  · exact same_updCore (writeSys_lm _ _)
  · exact same_setQuad
theorem same_updLaunch {s : State} {i : Nat} {f : Launch → Launch} : SameStore s (s.updLaunch i f) := by
  unfold State.updLaunch
  split
  · exact same_setLaunch
  · exact .refl s
theorem same_escalate {c : CoreId} {b : BerthId} {w : W64} {s : State} : SameStore s (escalate c b w s) := by
  unfold escalate
  dsimp only
  split
  · refine SameStore.trans ?_ same_todo
    exact same_updBerth.trans same_updLaunch
  · exact same_updBerth
theorem same_bump {f : Nat} {n : Nat} {s : State} : SameStore s (bump f n s) :=
  ⟨⟨rfl, rfl, rfl, rfl, rfl, rfl, rfl, rfl, rfl⟩, fun _ => rfl⟩
theorem same_takeTrap {c : CoreId} {b : BerthId} {code : Code} {slot : Nat} {tval epc w : W64} {s : State} :
    SameStore s (takeTrap c b code slot tval epc w s) := by
  unfold takeTrap
  dsimp only
  have h : SameStore s (if code = .pmiss then bump (hPmiss (quadOf c)) 1 s else s) := by
    split
    · exact same_bump
    · exact .refl s
  generalize (if code = .pmiss then bump (hPmiss (quadOf c)) 1 s else s) = z at h ⊢
  split
  · exact (h.trans same_updBerth).trans same_escalate
  · refine SameStore.trans ?_ same_updCore
    exact h.trans same_updBerth

/-! ## Bodies -/

/-- A body that keeps what stores hold. -/
def Keeps (x : M α) : Prop := ∀ s a t, x s = .ok (a, t) → SameStore s t

theorem keeps_pure (a : α) : Keeps (pure a : M α) := by
  intro s b t e; cases e; exact .refl s
theorem keeps_get : Keeps (get : M State) := by
  intro s b t e; cases e; exact .refl s
theorem keeps_bind {x : M α} {f : α → M β} (hx : Keeps x) (hf : ∀ a, Keeps (f a)) : Keeps (x >>= f) := by
  intro s b t e
  cases hxs : x s with
  | error r => simp [Bind.bind, StateT.bind, hxs, Except.bind] at e
  | ok p => exact (hx _ _ _ hxs).trans (hf p.1 _ _ _ (by simpa [Bind.bind, StateT.bind, hxs, Except.bind] using e))
theorem keeps_map {x : M α} {f : α → β} (hx : Keeps x) : Keeps (f <$> x) := by
  intro s b t e
  cases hxs : x s with
  | error r => simp [Functor.map, StateT.map, hxs, Bind.bind, Except.bind] at e
  | ok p =>
    have e' : t = p.2 := by
      simp [Functor.map, StateT.map, hxs, Bind.bind, Except.bind, pure, Except.pure] at e; exact e.2.symm
    rw [e']; exact hx _ _ _ hxs
theorem keeps_modify {f : State → State} (hf : ∀ s, SameStore s (f s)) : Keeps (modify f : M Unit) := by
  intro s b t e; cases e; exact hf s
theorem keeps_updSelf {f : Core → Core} (hf : ∀ k, (f k).lm = k.lm := by intro k; rfl) : Keeps (updSelf f) :=
  keeps_modify fun _ => same_updCore hf
theorem keeps_updMe {f : Berth → Berth} : Keeps (updMe f) := keeps_updSelf
theorem keeps_raise {code : Code} {slot : Nat} {v : W64} : Keeps (raise code slot v : M α) := by
  intro s b t e; cases e
theorem keeps_holdWord : Keeps (holdWord : M α) := by
  intro s b t e; cases e
theorem keeps_failing {n : Fin 16} {o : Option Nat} : Keeps (failing n o) := by
  cases o
  · exact keeps_pure _
  · intro s b t e; cases e
theorem keeps_need {ok : Bool} {code : Code} {slot : Nat} {v : W64} : Keeps (need ok code slot v) := by
  cases ok
  · exact keeps_raise
  · exact keeps_pure _
theorem keeps_ite {c : Prop} [Decidable c] {x y : M α} (hx : Keeps x) (hy : Keeps y) : Keeps (if c then x else y) := by
  split <;> assumption
theorem keeps_readS {slot : Nat} {x : SSrc} : Keeps (readS slot x) := by
  unfold readS
  split
  · exact keeps_bind keeps_get fun _ => keeps_pure _
  · refine keeps_bind keeps_get fun s => ?_
    split
    · exact keeps_raise
    · dsimp only
      split
      · exact keeps_pure _
      · exact keeps_bind keeps_updMe fun _ => keeps_pure _
theorem keeps_readSI {slot : Nat} {x : SOp} : Keeps (readSI slot x) := by
  cases x
  all_goals first
    | exact keeps_readS
    | exact keeps_pure _
theorem keeps_readV {slot : Nat} {x : VSrc} : Keeps (readV slot x) := by
  obtain ⟨loc, p, sw⟩ := x
  intro s a t e
  unfold readV at e
  rw [get_bind] at e
  dsimp only at e
  cases hf : s.fileErr s.cur loc with
  | some l => rw [hf] at e; cases e
  | none =>
    rw [hf, show failing 1 none = pure () from rfl, pure_bind_run] at e
    cases loc with
    | main n pk =>
      dsimp only at e
      cases hq : s.vFifo s.cur n with
      | nil => rw [hq] at e; cases e
      | cons v r =>
        rw [hq] at e
        cases pk
        · cases e; exact same_setVFifo
        · cases e; exact .refl s
    | opf n => cases e; exact .refl s
    | lv => cases e; exact .refl s
    | ll => cases e; exact .refl s
theorem keeps_readSrc {slot : Nat} {x : VSrc} : Keeps (readSrc slot x) := keeps_bind keeps_readV fun _ => keeps_pure _
theorem keeps_readVI {slot : Nat} {x : VOp} : Keeps (readVI slot x) := by
  cases x
  all_goals first
    | exact keeps_bind keeps_readSrc fun _ => keeps_pure _
    | exact keeps_pure _
theorem keeps_readVIs : ∀ {slot : Nat} {l : List VOp}, Keeps (readVIs slot l)
  | _, [] => keeps_pure _
  | _, _ :: _ => keeps_bind keeps_readVI fun _ => keeps_bind keeps_readVIs fun _ => keeps_pure _
theorem keeps_readSIs : ∀ {l : List (Nat × SOp)}, Keeps (readSIs l)
  | [] => keeps_pure _
  | _ :: _ => keeps_bind keeps_readSI fun _ => keeps_bind keeps_readSIs fun _ => keeps_pure _
theorem keeps_readVL {slot : Nat} {x : VLm} : Keeps (readVL slot x) := by
  cases x
  all_goals first
    | exact keeps_pure _
    | exact keeps_bind keeps_readSrc fun _ => keeps_pure _
theorem keeps_readTile {t : TileRef} : Keeps (readTile t) := by
  cases t
  all_goals first
    | exact keeps_readS
    | exact keeps_pure _
theorem keeps_readRep {slot : Nat} {n : Int} {r : Rep} : Keeps (readRep slot n r) := by
  cases r
  all_goals first
    | exact keeps_bind keeps_readS fun _ => keeps_pure _
    | exact keeps_pure _
theorem keeps_readRef {slot : Nat} {r : Ref} : Keeps (readRef slot r) := by
  cases r
  all_goals first
    | exact keeps_readS
    | exact keeps_pure _
theorem keeps_readLw {slot : Nat} {r : Lw} : Keeps (readLw slot r) := by
  cases r
  all_goals first
    | exact keeps_readS
    | exact keeps_pure _
theorem keeps_readFlag {slot : Nat} {r : SOp} : Keeps (readFlag slot r) := by
  cases r
  all_goals first
    | exact keeps_readS
    | exact keeps_pure _
theorem keeps_readCas {r : Option SOp} : Keeps (readCas r) := by
  cases r
  all_goals first
    | exact keeps_pure _
    | exact keeps_readSI
theorem keeps_aligned {slot : Nat} {v : W64} {n : Nat} : Keeps (aligned slot v n) := keeps_need
theorem keeps_refOk {slot : Nat} {v : W64} : Keeps (refOk slot v) := keeps_need
theorem keeps_lwOk {slot : Nat} {v : W64} : Keeps (lwOk slot v) := keeps_need
theorem keeps_lwIs {slot : Nat} {v : W64} {l : List Nat} : Keeps (lwIs slot v l) := keeps_need
theorem keeps_spOk {slot : Nat} {v : W64} : Keeps (spOk slot v) := keeps_need
theorem keeps_tileOk {v : W64} : Keeps (tileOk v) :=
  keeps_bind keeps_get fun _ => keeps_bind keeps_need fun _ => keeps_need
theorem keeps_vlOk {ok : Fmt → Bool} {slot : Nat} {l : List (Nat × Fmt)} {y : Option Src} : Keeps (vlOk ok slot l y) := by
  cases y
  · exact keeps_pure _
  · exact keeps_need
theorem keeps_readBlock {cb : W64} {u : BlockUse} {ar : Bool} {p q : W64 → Bool} : Keeps (readBlock cb u ar p q) := by
  refine keeps_bind keeps_aligned fun _ => keeps_bind keeps_need fun _ => keeps_bind keeps_get fun s =>
    keeps_bind keeps_failing fun _ => ?_
  dsimp only
  split
  · exact keeps_raise
  · exact keeps_pure _
theorem keeps_captured {i : Instr} {ref : W64} {rep : Nat × Int} {vals : List W64} {vops : List VEntry} :
    Keeps (captured i ref rep vals vops) := keeps_bind keeps_get fun _ => keeps_pure _
theorem keeps_fenceArgs {t : TileRef} {bo : SOp} {all : Bool} : Keeps (fenceArgs t bo all) := by
  refine keeps_bind keeps_readTile fun _ => keeps_bind keeps_readSI fun _ => ?_
  dsimp only
  split
  · exact keeps_bind keeps_refOk fun _ => keeps_pure _
  · exact keeps_bind keeps_tileOk fun _ => keeps_bind keeps_refOk fun _ => keeps_pure _
theorem keeps_result {u : ResUnit} {d : Dst} {v : RVal} {n : Nat} {fl : Flags} : Keeps (result u d v n fl) :=
  keeps_modify fun _ => same_updCore
theorem keeps_seqResult {d : SDst} {v : W64} : Keeps (seqResult d v) := keeps_result
theorem keeps_scalar {d : SDst} {n : Nat} {v : W64} : Keeps (scalar d n v) := keeps_result
theorem keeps_branch {v : W64} : Keeps (branch v) := keeps_updMe
theorem keeps_branchReg {slot : Nat} {v : W64} : Keeps (branchReg slot v) := keeps_bind keeps_need fun _ => keeps_branch
theorem keeps_endBlock : Keeps endBlock := keeps_updSelf
theorem keeps_waitHere {w : Wait} : Keeps (waitHere w) := keeps_updSelf
theorem keeps_countOk {n : Fin 96} {v : W64} : Keeps (countOk n v) :=
  keeps_bind keeps_get fun _ => keeps_bind keeps_need fun _ => keeps_need
theorem keeps_objIndex {slot : Nat} {v : W64} : Keeps (objIndex slot v) := keeps_bind keeps_refOk fun _ => keeps_pure _
theorem keeps_flipped {bo : Fin 4096} : Keeps (flipped bo) := keeps_bind keeps_get fun _ => keeps_need
theorem keeps_fence {p q : BitVec 3} {a : FenceAct} : Keeps (fence p q a) := keeps_bind keeps_get fun _ => keeps_updMe
theorem keeps_acquire : Keeps acquire := keeps_bind keeps_get fun _ => keeps_updMe
theorem keeps_storeTag {l : List (Nat × Fmt)} {e : VEntry} : Keeps (storeTag l e) := keeps_need
theorem keeps_fifoMap {n : FifoName} {f : List VEntry → List VEntry} {g : List W64 → List W64} : Keeps (fifoMap n f g) := by
  cases n
  · exact keeps_modify fun _ => same_setVFifo
  · exact keeps_updMe
theorem keeps_vxePush {i : Instr} {xs : List VArg} {vals : List W64} : Keeps (vxePush i xs vals) :=
  keeps_modify fun _ => same_updCore
theorem keeps_tagTrap {slot : Nat} {xs : List VArg} {o : Option Nat} : Keeps (tagTrap slot xs o) := by
  cases o
  · exact keeps_pure _
  · exact keeps_raise
theorem keeps_tagCheck {slot : Nat} {oks : List (Fmt → Bool)} {xs : List VArg} : Keeps (tagCheck slot oks xs) := keeps_tagTrap
theorem keeps_satCheck {sat : Bool} {xs : List VArg} : Keeps (satCheck sat xs) :=
  keeps_bind keeps_tagCheck fun _ => keeps_ite keeps_tagTrap (keeps_pure _)
theorem keeps_drawCheck {slot n : Nat} {ys : List W64} : Keeps (drawCheck slot n ys) := keeps_spOk
theorem keeps_dotCheck {k : Nat} {xs : List VArg} : Keeps (dotCheck k xs) := keeps_tagCheck
theorem keeps_belowCheck {n slot : Nat} {ys : List W64} : Keeps (belowCheck n slot ys) := keeps_need
theorem keeps_redCheck {k : RedKind} {xs : List VArg} : Keeps (redCheck k xs) := by
  cases k
  all_goals first
    | exact keeps_pure _
    | exact keeps_tagCheck
theorem keeps_indexCheck {slot : Nat} {xs : List VArg} {e : W64} : Keeps (indexCheck slot xs e) := keeps_need

/-! ## The issue -/

/-- A word whose body keeps what stores hold keeps it, whatever becomes of the word. -/
theorem issue_same {i : Instr} {h : Head} {body : M Unit} {s t : State} (hb : Keeps body)
    (e : issue i h body s = .next t) : SameStore s t := by
  have ht : ∀ (code : Code) (slot : Nat) (tval epc : W64), SameStore s (takeTrap s.cur s.self.cur code slot tval epc s.me.pc
      (s.updBerth s.cur s.self.cur (fun x => { x with entering := none }))) :=
    fun code slot tval epc => same_updBerth.trans same_takeTrap
  unfold issue at e
  dsimp only at e
  split at e
  · injection e with e; rw [← e]; exact .refl s
  · split at e
    · injection e with e; rw [← e]; exact ht _ _ _ _
    · split at e
      · injection e with e; rw [← e]; exact same_scheduled
      · split at e
        · injection e with e; rw [← e]; exact .refl s
        · split at e
          · injection e with e; rw [← e]; exact ht _ _ _ _
          · split at e
            · injection e with e; rw [← e]; exact ht _ _ _ _
            · split at e
              · rename_i u hu
                injection e with e; rw [← e]; exact same_scheduled.trans (hb _ _ _ hu)
              · injection e with e; rw [← e]; exact .refl s
              · injection e with e; rw [← e]; exact same_updCore
              · injection e with e; rw [← e]; exact ht _ _ _ _

/-! ## The dispatches -/

theorem vword_same {i : Instr} {h : Head} {slot : Nat} {vs : List VOp} {ss : List (Nat × SOp)}
    {check : List VArg → List W64 → M Unit} {s t : State} (hc : ∀ xs ys, Keeps (check xs ys))
    (e : vword i h slot vs ss check s = .next t) : SameStore s t :=
  issue_same (keeps_bind keeps_readVIs fun _ => keeps_bind keeps_readSIs fun _ => keeps_bind (hc _ _) fun _ => keeps_vxePush) e
theorem vtagged_same {i : Instr} {h : Head} {slot : Nat} {vs : List VOp} {ok : Fmt → Bool} {s t : State}
    (e : vtagged i h slot vs ok s = .next t) : SameStore s t := vword_same (fun _ _ => keeps_tagCheck) e
theorem vraw_same {i : Instr} {h : Head} {slot : Nat} {vs : List VOp} {s t : State}
    (e : vraw i h slot vs s = .next t) : SameStore s t := vword_same (fun _ _ => keeps_pure _) e
theorem scalar1_same {i : Instr} {h : Head} {d : SDst} {a : SSrc} {f : W64 → W64} {s t : State}
    (e : scalar1 i h d a f s = .next t) : SameStore s t :=
  issue_same (keeps_bind keeps_readS fun _ => keeps_scalar) e
theorem scalar2_same {i : Instr} {h : Head} {d : SDst} {a : SSrc} {b : SOp} {n : Nat} {f : W64 → W64 → W64} {s t : State}
    (e : scalar2 i h d a b n f s = .next t) : SameStore s t :=
  issue_same (keeps_bind keeps_readS fun _ => keeps_bind keeps_readSI fun _ => keeps_scalar) e
theorem pred2_same {i : Instr} {h : Head} {d a b : Fin 16} {f : Bool → Bool → Bool} {s t : State}
    (e : pred2 i h d a b f s = .next t) : SameStore s t :=
  issue_same (keeps_bind keeps_get fun _ => keeps_result) e
theorem memQueue_lm (k : Core) (q : QEntry) : (k.memQueue q).lm = k.lm := by
  unfold Core.memQueue
  dsimp only
  split <;> rfl
theorem memWord_same {i : Instr} {h : Head} {n : Nat} {body : M QEntry} {s t : State} (hb : Keeps body)
    (e : memWord i h n body s = .next t) : SameStore s t := by
  refine issue_same (keeps_bind keeps_get fun x => ?_) e
  dsimp only
  split
  · exact keeps_bind keeps_holdWord fun _ => keeps_bind hb fun q => keeps_updSelf (fun k => memQueue_lm k q)
  · exact keeps_bind hb fun q => keeps_updSelf (fun k => memQueue_lm k q)
theorem arrayWord_same {i : Instr} {h : Head} {n : Nat} {body : M QEntry} {s t : State} (hb : Keeps body)
    (e : arrayWord i h n body s = .next t) : SameStore s t := by
  refine issue_same (keeps_bind keeps_get fun x => ?_) e
  dsimp only
  split
  · exact keeps_bind keeps_holdWord fun _ => keeps_bind hb fun _ => keeps_updSelf
  · exact keeps_bind hb fun _ => keeps_updSelf
theorem copyWord_same {i : Instr} {h : Head} {body : M QEntry} {s t : State} (hb : Keeps body)
    (e : copyWord i h body s = .next t) : SameStore s t := issue_same (keeps_bind hb fun _ => keeps_updSelf) e
theorem pairWord_same {i : Instr} {h : Head} {bo : Ref} {dst src : Lw} {dk sk : List Nat} {s t : State}
    (e : pairWord i h bo dst src dk sk s = .next t) : SameStore s t :=
  copyWord_same (keeps_bind keeps_readRef fun _ => keeps_bind keeps_readLw fun _ => keeps_bind keeps_readLw fun _ =>
    keeps_bind keeps_refOk fun _ => keeps_bind keeps_lwOk fun _ => keeps_bind keeps_lwIs fun _ =>
    keeps_bind keeps_lwOk fun _ => keeps_bind keeps_lwIs fun _ => keeps_captured) e
theorem maskWord_same {i : Instr} {h : Head} {bo : Ref} {dst src : Lw} {m : SSrc} {dk : List Nat} {s t : State}
    (e : maskWord i h bo dst src m dk s = .next t) : SameStore s t :=
  copyWord_same (keeps_bind keeps_readRef fun _ => keeps_bind keeps_readLw fun _ => keeps_bind keeps_readLw fun _ =>
    keeps_bind keeps_readS fun _ => keeps_bind keeps_refOk fun _ => keeps_bind keeps_lwOk fun _ =>
    keeps_bind keeps_lwIs fun _ => keeps_bind keeps_lwOk fun _ => keeps_captured) e
theorem sfWord_same {i : Instr} {h : Head} {bo : Ref} {cb : SSrc} {rep : Rep} {s t : State}
    (e : sfWord i h bo cb rep s = .next t) : SameStore s t :=
  issue_same (keeps_bind keeps_readRef fun _ => keeps_bind keeps_readS fun _ => keeps_bind keeps_readRep fun _ =>
    keeps_bind keeps_aligned fun _ => keeps_bind keeps_refOk fun _ => keeps_bind keeps_readBlock fun _ =>
    keeps_bind keeps_captured fun _ => keeps_bind keeps_get fun _ => keeps_updSelf) e
theorem arrayForm_same {i : Instr} {h : Head} {t : TileRef} {cb : SSrc} {x y : VLm} {rep : Rep} {u : BlockUse}
    {ok : Fmt → Bool} {p1 p2 : W64 → Bool} {s s' : State}
    (e : arrayForm i h t cb x y rep u ok p1 p2 s = .next s') : SameStore s s' :=
  arrayWord_same (keeps_bind keeps_readTile fun _ => keeps_bind keeps_readS fun _ => keeps_bind keeps_readVL fun _ =>
    keeps_bind keeps_readVL fun _ => keeps_bind keeps_readRep fun _ => keeps_bind keeps_vlOk fun _ =>
    keeps_bind keeps_vlOk fun _ => keeps_bind keeps_aligned fun _ => keeps_bind keeps_tileOk fun _ =>
    keeps_bind keeps_need fun _ => keeps_bind keeps_readBlock fun _ => keeps_bind keeps_captured fun _ =>
    keeps_bind keeps_get fun _ => keeps_pure _) e

end Sys2Proof.Machine
end

