-- ==== Sys2Proof/Laws/MemFrame.lean ====
section
/-! SUPPORT. What each operation and each event does to memory: `mem_f` says that `f` leaves it as it is, `wf_f` that it keeps
the canonical form. An operation that answers a step has its statement over `Out.memAll`. -/

namespace Sys2Proof.Machine

open Sys2Proof

/-! ## Folds, answers and the exceptions' monad -/

theorem mem_foldl {f : State → α → State} (hf : ∀ s x, (f s x).mem = s.mem) (l : List α) (s : State) :
    (l.foldl f s).mem = s.mem := by
  induction l generalizing s with
  | nil => rfl
  | cons a r ih => rw [List.foldl_cons, ih, hf]
theorem wf_foldl {f : State → α → State} (hf : ∀ s x, s.mem.wf = true → (f s x).mem.wf = true) (l : List α) (s : State)
    (h : s.mem.wf = true) : (l.foldl f s).mem.wf = true := by
  induction l generalizing s with
  | nil => exact h
  | cons a r ih => exact ih _ (hf _ _ h)
/-- What is true of the memory of the state that a step answers, if it answers one. -/
def Out.memAll (P : Mem → Prop) : Out → Prop
  | .next t => P t.mem
  | .fault _ => True
  | .refused _ => True
@[simp] theorem Out.memAll_next {P : Mem → Prop} {t : State} : Out.memAll P (.next t) = P t.mem := rfl
@[simp] theorem Out.memAll_fault {P : Mem → Prop} {f : Fault} : Out.memAll P (.fault f) = True := rfl
@[simp] theorem Out.memAll_refused {P : Mem → Prop} {r : Refusal} : Out.memAll P (.refused r) = True := rfl
/-- What is true of the memory of the state in which a transfer is left. -/
def Moved.memAll (P : Mem → Prop) : Moved → Prop
  | .wait s _ _ => P s.mem
  | .trap _ => True
  | .fault _ => True
  | .done s _ _ => P s.mem
@[simp] theorem Moved.memAll_wait {P : Mem → Prop} {s : State} {g : Lines} {b : Bool} : Moved.memAll P
    (.wait s g b) = P s.mem := rfl
@[simp] theorem Moved.memAll_trap {P : Mem → Prop} {c : Code} : Moved.memAll P (.trap c) = True := rfl
@[simp] theorem Moved.memAll_fault {P : Mem → Prop} {f : AFault} : Moved.memAll P (.fault f) = True := rfl
@[simp] theorem Moved.memAll_done {P : Mem → Prop} {s : State} {v : Option RVal} {n : Nat} :
    Moved.memAll P (.done s v n) = P s.mem := rfl
/-- What is true of the memory of the state in which a copy's unit is left. -/
def UnitEnd.memAll (P : Mem → Prop) : UnitEnd → Prop
  | .wait s _ => P s.mem
  | .fault _ => True
  | .sent s _ _ => P s.mem
  | .done s _ => P s.mem
@[simp] theorem UnitEnd.memAll_wait {P : Mem → Prop} {s : State} {g : Lines} : UnitEnd.memAll P (.wait s g) = P s.mem := rfl
@[simp] theorem UnitEnd.memAll_sent {P : Mem → Prop} {s : State} {l : List Byte} {ns} : UnitEnd.memAll P (.sent s l ns) = P s.mem := rfl
@[simp] theorem UnitEnd.memAll_fault {P : Mem → Prop} {f : AFault} : UnitEnd.memAll P (.fault f) = True := rfl
@[simp] theorem UnitEnd.memAll_done {P : Mem → Prop} {s : State} {l : List Byte} : UnitEnd.memAll P (.done s l) = P s.mem := rfl
theorem ok_of_bind {x : Except ε α} {f : α → Except ε β} {b : β} (e : (x >>= f) = .ok b) : ∃ a, x = .ok a ∧ f a = .ok b := by
  cases x with
  | error _ => cases e
  | ok a => exact ⟨a, rfl, e⟩
theorem mem_foldl_option {f : α → State → Option State} (hf : ∀ c s t, f c s = some t → t.mem = s.mem) {l : List α} {s t : State}
    (e : l.foldl (fun (a : Option State) c => a.bind (f c)) (some s) = some t) : t.mem = s.mem := by
  induction l generalizing s with
  | nil => cases e; rfl
  | cons c r ih =>
    rw [List.foldl_cons, Option.bind_some] at e
    cases hx : f c s with
    | some u => rw [hx] at e; exact (ih e).trans (hf c s u hx)
    | none =>
      have hn : ∀ r : List α, r.foldl (fun (a : Option State) c => a.bind (f c)) none = none := by
        intro r
        induction r with
        | nil => rfl
        | cons c r ih => exact ih
      rw [hx, hn] at e
      cases e
theorem ok_of_ite {b : Bool} {x1 x2 x3 y1 y2 y3 : α} {s t : β} {e : ε}
    (h : (if b then Except.ok (x1, x2, x3, s) else .error e) = .ok (y1, y2, y3, t)) : t = s := by
  split at h
  · cases h; rfl
  · cases h
theorem foldl_stop {f : Except ε α → β → Except ε α} {x : ε} (hf : ∀ x b, f (.error x) b = .error x) (l : List β) :
    l.foldl f (.error x) = .error x := by
  induction l with
  | nil => rfl
  | cons b r ih => rw [List.foldl_cons, hf, ih]
theorem mem_foldl2 {f : State × β → α → State × β} (hf : ∀ s x, (f s x).1.mem = s.1.mem) (l : List α) (s : State × β) :
    (l.foldl f s).1.mem = s.1.mem := by
  induction l generalizing s with
  | nil => rfl
  | cons a r ih => rw [List.foldl_cons, ih, hf]

/-! ## Machine/Ops.lean -/

@[simp] theorem mem_State_updLaunch (s : State) (l : ℕ) (f : Launch → Launch) : (State.updLaunch s l f).mem = s.mem := by
  unfold State.updLaunch
  (repeat' split) <;> simp [*]
@[simp] theorem mem_State_draw (s : State) : (State.draw s).2.mem = s.mem := rfl
@[simp] theorem mem_State_lmPut (s : State) (c : CoreId) (a : ℕ) (v : Byte) : (State.lmPut s c a v).mem = s.mem := by
  unfold State.lmPut
  (repeat' split) <;> simp [*]
@[simp] theorem mem_State_lmWrites (s : State) (c : CoreId) (a : ℕ) (bs : List Byte) : (State.lmWrites s c a bs).mem
    = s.mem := by
  induction bs generalizing s a with
  | nil => rfl
  | cons b r ih => rw [State.lmWrites, ih]; simp
@[simp] theorem mem_State_lmMend (s : State) (c : CoreId) (a : ℕ) (n : ℕ) : (State.lmMend s c a n).mem = s.mem := by
  unfold State.lmMend
  try dsimp only
  repeat' (first
    | rfl
    | assumption
    | refine (mem_foldl (fun s x => ?_) _ _).trans ?_
    | split
    | simp only [State.updCore_mem])
@[simp] theorem mem_State_lmSpoil (s : State) (c : CoreId) (a : ℕ) : (State.lmSpoil s c a).mem = s.mem := by
  unfold State.lmSpoil
  (repeat' split) <;> simp [*]
@[simp] theorem mem_State_lmStore (s : State) (c : CoreId) (a : ℕ) (bs : List Byte) : (State.lmStore s c a bs).mem
    = s.mem := by
  simp [State.lmStore]
@[simp] theorem mem_State_setVFifo (s : State) (c : CoreId) (n : Fin 1024) (q : List VEntry)
    : (State.setVFifo s c n q).mem = s.mem := by
  unfold State.setVFifo
  (repeat' split) <;> simp [*]
@[simp] theorem mem_bump (o : ℕ) (n : ℕ) (s : State) : (bump o n s).mem = s.mem := rfl
@[simp] theorem mem_countError (f : AFault) (s : State) : (countError f s).mem = s.mem := by
  unfold countError
  (repeat' split) <;> rfl
@[simp] theorem mem_escalate (c : CoreId) (b : BerthId) (word : W64) (s : State) : (escalate c b word s).mem = s.mem := by
  unfold escalate
  grind -ring -linarith -lia [State.updBerth_mem, State.push_mem, mem_State_updLaunch]
@[simp] theorem mem_takeTrap (c : CoreId) (b : BerthId) (code : Code) (slot : ℕ) (tval : W64) (epc : W64)
    (word : W64) (s : State) : (takeTrap c b code slot tval epc word s).mem = s.mem := by
  unfold takeTrap
  grind -ring -linarith -lia [mem_bump, State.updBerth_mem, mem_escalate, State.updCore_mem]
@[simp] theorem mem_takeTrapWaiting (c : CoreId) (b : BerthId) (code : Code) (slot : ℕ) (tval : W64) (epc : W64)
    (word : W64) (s : State) : (takeTrapWaiting c b code slot tval epc word s).mem = s.mem := by
  unfold takeTrapWaiting
  (repeat' split) <;> simp [*]
@[simp] theorem mem_returnTrap (c : CoreId) (b : BerthId) (word : W64) (s : State) : (returnTrap c b word s).mem
    = s.mem := rfl
@[simp] theorem mem_scheduled (hd : Head) (s : State) : (scheduled hd s).mem = s.mem := rfl

/-! ## Machine/Control.lean -/

@[simp] theorem mem_mirrorBar (l : Launch) (n : Fin 96) (s : State) : (mirrorBar l n s).mem = s.mem := by
  unfold mirrorBar
  try dsimp only
  repeat' (first
    | rfl
    | assumption
    | refine (mem_foldl (fun s x => ?_) _ _).trans ?_
    | split
    | simp only [State.updCore_mem])
@[simp] theorem mem_arrive (n : Fin 96) (count : W16) (s : State) : (arrive n count s).mem = s.mem := by
  unfold arrive
  grind -ring -linarith -lia [State.setLaunch_mem, mem_mirrorBar]
@[simp] theorem mem_enterToken (k : MbKind) (stage : BitVec 6) (mb : Byte) (c : CoreId) (s : State)
    : (enterToken k stage mb c s).mem = s.mem := by
  unfold enterToken
  (repeat' split) <;> simp [*]

/-! ## Machine/Access.lean -/

@[simp] theorem mem_State_later (n : ℕ) (e : Ev) (s : State) : (State.later n e s).mem = s.mem := rfl
@[simp] theorem wf_gather (line : ℕ) (s : State) (h : s.mem.wf = true) : (gather line s).mem.wf = true := by
  have key : ∀ l, Mem.wf (s.mem.writes (line * 128) l) = true := fun l => Mem.writes_wf l s.mem _ h
  unfold gather
  split
  · exact h
  · rw [key]
@[simp] theorem wf_State_putByte (s : State) (a : ℕ) (v : Byte) (h : s.mem.wf = true) : (State.putByte s a v).mem.wf
    = true := by
  unfold State.putByte
  dsimp only
  split <;> exact Mem.write_wf _ _ _ h
@[simp] theorem mem_putLine (l : TokLine) (s : State) : (putLine l s).mem = s.mem := rfl
@[simp] theorem mem_sendTokens (line : ℕ) (from_ : Holder) (dest : Holder) (n : ℕ) (owner : Bool) (s : State)
    : (sendTokens line from_ dest n owner s).mem = s.mem := rfl
@[simp] theorem mem_homeObeys (line : ℕ) (s : State) : (homeObeys line s).mem = s.mem := by
  unfold homeObeys
  dsimp only
  (repeat' split) <;> simp
@[simp] theorem wf_State_putHome (s : State) (a : ℕ) (v : Byte) (h : s.mem.wf = true) : (State.putHome s a v).mem.wf
    = true := by
  exact Mem.write_wf _ _ _ (wf_gather _ _ h)
@[simp] theorem wf_State_putRun (s : State) (a : ℕ) (bs : List Byte) (h : s.mem.wf = true)
    : (State.putRun s a bs).mem.wf = true := by
  induction bs generalizing s a with
  | nil => exact h
  | cons b r ih => exact ih _ _ (wf_State_putHome _ _ _ h)
@[simp] theorem wf_State_putBytes (s : State) (a : ℕ) (bs : List Byte) (h : s.mem.wf = true)
    : (State.putBytes s a bs).mem.wf = true := by
  unfold State.putBytes
  rw [mem_foldl (fun s n => mem_homeObeys n s)]
  exact wf_State_putRun _ _ _ h
@[simp] theorem wf_State_putWord (s : State) (a : ℕ) (v : W64) (h : s.mem.wf = true) : (State.putWord s a v).mem.wf
    = true := by
  simp [State.putWord, h]
@[simp] theorem mem_fillDie (d : DieId) (e : TlbE) (s : State) : (fillDie d e s).mem = s.mem := rfl
@[simp] theorem mem_fillWalk (d : DieId) (va : W64) (e : TlbE) (s : State) : (fillWalk d va e s).mem = s.mem := by
  rw [fillWalk, mem_fillDie]
  exact mem_foldl (fun s x => mem_fillDie d x s) _ _
@[simp] theorem mem_fillCore (c : CoreId) (e : TlbE) (s : State) : (fillCore c e s).mem = s.mem := rfl
@[simp] theorem mem_useDie (x : Ctx) (e : TlbE) (s : State) : (useDie x e s).mem = s.mem := by
  unfold useDie
  split <;> simp
@[simp] theorem mem_useEntry (x : Ctx) (e : TlbE) (s : State) : (useEntry x e s).mem = s.mem := by
  unfold useEntry
  (repeat' split) <;> simp
@[simp] theorem mem_beginWalks (d : DieId) (s : State) : (beginWalks d s).mem = s.mem := by
  unfold beginWalks
  dsimp only
  rw [mem_foldl (fun s w => mem_State_later _ _ s)]
  rfl
@[simp] theorem mem_askWalk (x : Ctx) (va : W64) (s : State) : (askWalk x va s).mem = s.mem := by
  unfold askWalk
  dsimp only
  split
  · rfl
  · rw [mem_beginWalks]; rfl
theorem mem_awaitWalks {x : Ctx} {l : List (W64 × ℕ)} {s t : State} (e : awaitWalks x l s = some t) : t.mem = s.mem := by
  unfold awaitWalks at e
  split at e
  · cases e
  · cases e
    exact mem_foldl (fun s va => mem_askWalk x va s) _ _
@[simp] theorem mem_updChan (p : PartId) (g : Fin 64) (rank : Fin 64) (f : Channel → Channel) (s : State)
    : (updChan p g rank f s).mem = s.mem := by
  unfold updChan
  dsimp only
  split <;> simp
@[simp] theorem mem_sendFabric (p : PartId) (grp rank : Fin 64) (m : FabMsg) (s : State)
    : (sendFabric p grp rank m s).mem = s.mem := mem_updChan _ _ _ _ _
@[simp] theorem mem_reserveNums (p : PartId) (grp rank : Fin 64) (n : ℕ) (s : State)
    : (reserveNums p grp rank n s).2.mem = s.mem := mem_updChan _ _ _ _ _
@[simp] theorem mem_sendPpa (p : PartId) (m ppa : ℕ) (bs : List Byte) (comb : Option (Comb3 × Fmt)) (s : State)
    : (sendPpa p m ppa bs comb s).mem = s.mem := by
  unfold sendPpa
  split
  · exact (mem_sendFabric _ _ _ _ _).trans (mem_reserveNums _ _ _ _ _)
  · rfl
@[simp] theorem mem_useSync (g : Seg) (s : State) : (useSync g s).mem = s.mem := by
  unfold useSync
  split <;> rfl
theorem mem_State_readVa {s : State} {x : Ctx} {va : W64} {n : ℕ} {t} {x1} (e : State.readVa s x va n
    = .ok (x1, t)) : t.mem = s.mem := by
  obtain ⟨l, -, e⟩ := ok_of_bind e
  split at e
  · cases e
  · cases e
    have := mem_foldl (f := fun s (g : Seg × TlbE) => useSync g.1 (useEntry x g.2 s)) (fun s g => by simp) l s
    split <;> exact this
@[simp] theorem mem_clearBad (a : ℕ) (n : ℕ) (s : State) : (clearBad a n s).mem = s.mem := rfl
theorem wf_writeSeg (p : PartId) (g : Seg) (bs : List Byte) (s : State) (h : s.mem.wf = true) :
    (writeSeg p g bs s).mem.wf = true := by
  unfold writeSeg
  split
  · simpa using h
  · rw [mem_useSync]
    exact wf_State_putBytes _ _ _ (by simpa using h)
theorem wf_State_writeVa {s : State} {x : Ctx} {va : W64} {bs : List Byte} {t} (e : State.writeVa s x va bs = .ok t)
    (h : s.mem.wf = true) : t.mem.wf = true := by
  obtain ⟨l, -, e⟩ := ok_of_bind e
  split at e
  · cases e
  · cases e
    exact wf_foldl (fun s g h => wf_writeSeg _ _ _ _ (by simpa using h)) _ _ h

/-! ## Machine/Report.lean -/

@[simp] theorem mem_State_setBlock (s : State) (b : Block) (x : QBlock) : (State.setBlock s b x).mem = s.mem := by
  unfold State.setBlock
  (repeat' split) <;> simp [*]
theorem wf_writeSlot {b : Block} {va : W64} {bs : List Byte} {s : State} {t} (e : writeSlot b va bs s = some t)
    (h : s.mem.wf = true) : t.mem.wf = true := by
  unfold writeSlot at e
  grind -ring -linarith -lia [wf_State_putBytes, → wf_State_writeVa]
@[simp] theorem wf_postFault (b : Block) (f : FRec) (s : State) (h : s.mem.wf = true) : (postFault b f s).mem.wf
    = true := by
  unfold postFault
  grind -ring -linarith -lia [mem_State_setBlock, → wf_writeSlot]
@[simp] theorem wf_postInt (b : Block) (kind : ℕ) (queue : ℕ) (seq : W16) (d0 : W64) (d1 : W64) (s : State)
    (h : s.mem.wf = true) : (postInt b kind queue seq d0 d1 s).mem.wf = true := by
  unfold postInt
  grind -ring -linarith -lia [→ wf_writeSlot, mem_State_setBlock]
@[simp] theorem wf_launchFault (l : Launch) (code : Byte) (det : W64) (addr : W64) (s : State) (h : s.mem.wf = true)
    : (launchFault l code det addr s).mem.wf = true := by
  simp [launchFault, h]
@[simp] theorem wf_gangFault (i : Option ℕ) (c : CoreId) (b : BerthId) (code : Byte) (src : ℕ) (det : W64) (addr : W64)
    (s : State) (h : s.mem.wf = true) : (gangFault i c b code src det addr s).mem.wf = true := by
  unfold gangFault
  split
  · exact wf_postFault _ _ _ h
  · exact h
@[simp] theorem wf_coreFault (c : CoreId) (b : BerthId) (code : Byte) (src : ℕ) (det : W64) (addr : W64) (s : State)
    (h : s.mem.wf = true) : (coreFault c b code src det addr s).mem.wf = true := by
  exact wf_gangFault _ _ _ _ _ _ _ _ h
@[simp] theorem wf_moduleFault (b : Block) (code : Byte) (src : ℕ) (det : W64) (addr : W64) (s : State)
    (h : s.mem.wf = true) : (moduleFault b code src det addr s).mem.wf = true := by
  simp [moduleFault, h]
@[simp] theorem wf_everyFault (code : Byte) (src : ℕ) (det : W64) (addr : W64) (s : State) (h : s.mem.wf = true)
    : (everyFault code src det addr s).mem.wf = true := by
  unfold everyFault
  refine wf_foldl (fun s p h => ?_) _ _ h
  split
  · exact wf_moduleFault _ _ _ _ _ _ h
  · exact h

/-! ## Machine/Coherence.lean -/

@[simp] theorem mem_answer (line : ℕ) (req : Holder) (from_ : Holder) (wr : Bool) (s : State)
    : (answer line req from_ wr s).mem = s.mem := by
  unfold answer
  grind -ring -linarith -lia [mem_sendTokens]
@[simp] theorem mem_broadcast (d : DieId) (line : ℕ) (wr : Bool) (s : State) : (broadcast d line wr s).mem = s.mem := by
  unfold broadcast
  try dsimp only
  repeat' (first
    | rfl
    | assumption
    | refine (mem_foldl (fun s x => ?_) _ _).trans ?_
    | split
    | simp only [mem_State_later, mem_answer])
@[simp] theorem mem_dropRequest (d : DieId) (line : ℕ) (s : State) : (dropRequest d line s).mem = s.mem := rfl
@[simp] theorem mem_execTransientRequest {P : Mem → Prop} (d : DieId) (line : ℕ) (wr : Bool) (s : State)
    (h : P s.mem) : (execTransientRequest d line wr s).memAll P := by
  unfold execTransientRequest
  try dsimp only
  repeat' (first | trivial | exact h | simp only [Out.memAll_next] | split)
  all_goals simp [*]
@[simp] theorem wf_takeTokens (m : TokMsg) (s : State) (h : s.mem.wf = true) : (takeTokens m s).mem.wf = true := by
  unfold takeTokens
  dsimp only
  split
  · exact Mem.writes_wf _ _ _ (by simpa using h)
  · simpa using h
@[simp] theorem mem_sendHome (hd : Holder) (line : ℕ) (s : State) : (sendHome hd line s).mem = s.mem := by
  unfold sendHome
  grind -ring -linarith -lia [mem_sendTokens]
@[simp] theorem mem_evictOne (p : PartId) (d : DieId) (line : ℕ) (s : State) : (evictOne p d line s).mem = s.mem := by
  unfold evictOne
  split <;> simp
@[simp] theorem mem_evictExcess (p : PartId) (d : DieId) (n : ℕ) (s : State) : (evictExcess p d n s).mem = s.mem := by
  induction n generalizing s with
  | zero => rfl
  | succ n ih =>
    unfold evictExcess
    split
    · rfl
    · rw [ih, mem_evictOne]
@[simp] theorem mem_evictFor (line : ℕ) (hd : Holder) (s : State) : (evictFor line hd s).mem = s.mem := by
  unfold evictFor
  (repeat' split) <;> simp [*]
@[simp] theorem wf_execTokenMessageReceived (k : ℕ) (s : State) (h : s.mem.wf = true)
    : (execTokenMessageReceived k s).memAll (fun m => m.wf = true) := by
  unfold execTokenMessageReceived
  try dsimp only
  repeat' (first | trivial | exact h | simp only [Out.memAll_next] | split)
  all_goals simp [*]
@[simp] theorem mem_obey (at_ : DieId) (line : ℕ) (s : State) : (obey at_ line s).mem = s.mem := by
  unfold obey
  grind -ring -linarith -lia [mem_sendTokens]
@[simp] theorem mem_enterRow (at_ : DieId) (d : DieId) (line : ℕ) (wr : Bool) (s : State)
    : (enterRow at_ d line wr s).mem = s.mem := by
  simp [enterRow]
@[simp] theorem mem_leaveRow (at_ : DieId) (d : DieId) (line : ℕ) (s : State) : (leaveRow at_ d line s).mem = s.mem := by
  simp [leaveRow]
@[simp] theorem mem_execPersistentActivation {P : Mem → Prop} (at_ : DieId) (d : DieId) (line : ℕ) (wr : Bool)
    (s : State) (h : P s.mem) : (execPersistentActivation at_ d line wr s).memAll P := by
  simp [execPersistentActivation, h]
@[simp] theorem mem_execPersistentDeactivation {P : Mem → Prop} (at_ : DieId) (d : DieId) (line : ℕ) (s : State)
    (h : P s.mem) : (execPersistentDeactivation at_ d line s).memAll P := by
  simp [execPersistentDeactivation, h]
@[simp] theorem mem_lookAgain (d : DieId) (line : ℕ) (s : State) : (lookAgain d line s).mem = s.mem := rfl
@[simp] theorem mem_activate (d : DieId) (line : ℕ) (wr : Bool) (s : State) : (activate d line wr s).mem = s.mem := by
  unfold activate
  try dsimp only
  repeat' (first
    | rfl
    | assumption
    | refine (mem_foldl (fun s x => ?_) _ _).trans ?_
    | split
    | simp only [mem_bump, State.updCore_mem, mem_State_later, mem_lookAgain, mem_enterRow])
@[simp] theorem mem_deactivate (d : DieId) (line : ℕ) (s : State) : (deactivate d line s).mem = s.mem := by
  unfold deactivate
  try dsimp only
  repeat' (first
    | rfl
    | assumption
    | refine (mem_foldl (fun s x => ?_) _ _).trans ?_
    | split
    | simp only [mem_leaveRow, mem_State_later])
@[simp] theorem mem_execRequestResendTimeout {P : Mem → Prop} (d : DieId) (line : ℕ) (s : State) (h : P s.mem)
    : (execRequestResendTimeout d line s).memAll P := by
  unfold execRequestResendTimeout
  try dsimp only
  repeat' (first | trivial | exact h | simp only [Out.memAll_next] | split)
  all_goals simp [*]
@[simp] theorem mem_execLineEviction {P : Mem → Prop} (hd : Holder) (line : ℕ) (s : State) (h : P s.mem)
    : (execLineEviction hd line s).memAll P := by
  simp [execLineEviction, h]
@[simp] theorem mem_askTokens (d : DieId) (lines : List ℕ) (wr : Bool) (home : Bool) (s : State)
    : (askTokens d lines wr home s).mem = s.mem := rfl
@[simp] theorem mem_keepCached (ch : Hint) (line : ℕ) (s : State) : (keepCached ch line s).mem = s.mem := by
  unfold keepCached
  dsimp only
  (repeat' split) <;> simp
@[simp] theorem mem_afterLine (d : DieId) (home : Bool) (wr : Bool) (ch : Hint) (line : ℕ) (s : State)
    : (afterLine d home wr ch line s).mem = s.mem := by
  unfold afterLine
  grind -ring -linarith -lia [mem_dropRequest, mem_deactivate, mem_putLine, mem_keepCached, State.push_mem]

/-! ## Machine/Shape.lean -/

theorem mem_recMore {c : CoreId} {tid : ℕ} {s : State} {t} (e : recMore c tid s = some t) : t.mem = s.mem := by
  unfold recMore at e
  grind -ring -linarith -lia [→ mem_State_readVa, State.setDie_mem]
theorem mem_recStep {c : CoreId} {id tid : ℕ} {s : State} {t} (e : recStep c id tid s = some t) : t.mem = s.mem := by
  unfold recStep at e
  dsimp only at e
  repeat' (split at e)
  all_goals first
    | (cases e; done)
    | exact mem_recMore e
    | (cases e; simp)
theorem mem_recsMore {c : CoreId} {tids : List (ℕ × ℕ)} {s : State} {t} (e : recsMore c tids s = some t) :
    t.mem = s.mem := by
  obtain ⟨x, -, hx⟩ := List.exists_of_findSome?_eq_some e
  exact mem_recStep hx
theorem mem_readRec {c : CoreId} {tid : ℕ} {s : State} {t} {x1} (e : readRec c tid s = .ok (x1, t)) : t.mem = s.mem := by
  unfold readRec at e
  dsimp only [bind, Except.bind] at e
  repeat' (split at e)
  all_goals cases e
  all_goals first
    | rfl
    | (rw [State.setDie_mem]; exact mem_State_readVa (x1 := _) ‹_›)
theorem mem_headRec {c : CoreId} {id tid : ℕ} {s : State} {t} {x1} (e : headRec c id tid s = .ok (x1, t)) :
    t.mem = s.mem := by
  unfold headRec at e
  split at e
  · cases e; rfl
  · exact mem_readRec e

/-! ## Machine/Pipe.lean -/

@[simp] theorem mem_execEngineEntryComplete {P : Mem → Prop} (c : CoreId) (s : State) (h : P s.mem)
    : (execEngineEntryComplete c s).memAll P := by
  simp [execEngineEntryComplete, h]
@[simp] theorem mem_execVxeEntryStart {P : Mem → Prop} (c : CoreId) (s : State) (h : P s.mem)
    : (execVxeEntryStart c s).memAll P := by
  unfold execVxeEntryStart
  try dsimp only
  repeat' (first | trivial | exact h | simp only [Out.memAll_next] | split)
theorem mem_pushV {c : CoreId} {n : Fin 1024} {e : VEntry} {s : State} {t} (e : pushV c n e s = some t) : t.mem
    = s.mem := by
  unfold pushV at e
  grind -ring -linarith -lia [mem_State_setVFifo]
theorem mem_pushS {c : CoreId} {b : BerthId} {n : Fin 64} {v : W64} {s : State} {t} (e : pushS c b n v s
    = some t) : t.mem = s.mem := by
  unfold pushS at e
  grind -ring -linarith -lia [State.updBerth_mem]
theorem mem_writeDst {c : CoreId} {b : BerthId} {d : Dst} {v : RVal} {s : State} {t} (e : writeDst c b d v s
    = some t) : t.mem = s.mem := by
  unfold writeDst at e
  grind -ring -linarith -lia [→ mem_pushS, → mem_pushV, State.updCore_mem, State.updBerth_mem]
@[simp] theorem mem_writeLatch (c : CoreId) (b : BerthId) (u : ResUnit) (v : RVal) (s : State)
    : (writeLatch c b u v s).mem = s.mem := by
  unfold writeLatch
  (repeat' split) <;> simp [*]
@[simp] theorem mem_overflow (c : CoreId) (rp : Pend) (s : State) : (overflow c rp s).mem = s.mem := by
  unfold overflow
  dsimp only
  split <;> simp
@[simp] theorem mem_writeback (c : CoreId) (rp : Pend) (s : State) : (writeback c rp s).mem = s.mem := by
  unfold writeback
  grind -ring -linarith -lia [→ mem_pushS, mem_overflow, mem_writeLatch, State.updCore_mem, → mem_writeDst]
theorem mem_loadback {c : CoreId} {rp : Pend} {s : State} {t} (e : loadback c rp s = some t) : t.mem = s.mem := by
  unfold loadback at e
  obtain ⟨t', e1, rfl⟩ := Option.map_eq_some_iff.mp e
  simpa using mem_writeDst e1
@[simp] theorem mem_loadPushes (c : CoreId) (z : List Pend) (s : State) : (loadPushes c z s).mem = s.mem := by
  induction z generalizing s with
  | nil => rfl
  | cons r l ih =>
    unfold loadPushes
    split
    · rw [ih]; exact mem_loadback ‹_›
    · simp
@[simp] theorem mem_writeUnit (c : CoreId) (u : ResUnit) (n : ℕ) (s : State) : (writeUnit c u n s).mem = s.mem := by
  induction n generalizing s with
  | zero => rfl
  | succ n ih =>
    unfold writeUnit
    split
    · rw [ih]; simp
    · rfl
@[simp] theorem mem_execResultWriteback {P : Mem → Prop} (c : CoreId) (s : State) (h : P s.mem)
    : (execResultWriteback c s).memAll P := by
  simp [execResultWriteback, h]
@[simp] theorem mem_execEnginePushResume {P : Mem → Prop} (c : CoreId) (s : State) (h : P s.mem)
    : (execEnginePushResume c s).memAll P := by
  simp [execEnginePushResume, h]

/-! ## Machine/MemEngine.lean -/

@[simp] theorem wf_engineTrap (c : CoreId) (u : MemUnit) (q : QEntry) (code : Code) (s : State) (h : s.mem.wf
    = true) : (engineTrap c u q code s).mem.wf = true := by
  unfold engineTrap
  grind -ring -linarith -lia [State.updCore_mem, wf_coreFault, State.updBerth_mem]
@[simp] theorem mem_faultGang (c : CoreId) (code : Byte) (det : W64) (s : State) : (faultGang c code det s).mem
    = s.mem := by
  unfold faultGang
  (repeat' split) <;> simp [*]
@[simp] theorem wf_accessFault (c : CoreId) (u : MemUnit) (a : Active) (f : AFault) (s : State) (h : s.mem.wf
    = true) : (accessFault c u a f s).mem.wf = true := by
  unfold accessFault
  (repeat' split) <;> simp [*]
@[simp] theorem wf_openEntry (c : CoreId) (u : MemUnit) (q : QEntry) (s : State) (h : s.mem.wf = true)
    : (openEntry c u q s).mem.wf = true := by
  unfold openEntry
  grind -ring -linarith -lia [wf_engineTrap, State.updCore_mem, wf_accessFault, → mem_recMore, State.push_mem, → mem_readRec]
@[simp] theorem wf_startEntry (c : CoreId) (u : MemUnit) (s : State) (h : s.mem.wf = true)
    : (startEntry c u s).mem.wf = true := by
  unfold startEntry
  grind -ring -linarith -lia [wf_openEntry, State.setCore_mem]
@[simp] theorem wf_execLdeEntryStart (c : CoreId) (s : State) (h : s.mem.wf = true)
    : (execLdeEntryStart c s).memAll (fun m => m.wf = true) := by
  simp [execLdeEntryStart, h]
@[simp] theorem wf_execSteEntryStart (c : CoreId) (s : State) (h : s.mem.wf = true)
    : (execSteEntryStart c s).memAll (fun m => m.wf = true) := by
  simp [execSteEntryStart, h]
@[simp] theorem mem_lmApply (c : CoreId) (l : List Put) (s : State) : (lmApply c l s).mem = s.mem := by
  unfold lmApply
  try dsimp only
  repeat' (first
    | rfl
    | assumption
    | refine (mem_foldl (fun s x => ?_) _ _).trans ?_
    | split
    | simp only [mem_State_lmPut])
@[simp] theorem mem_lmMended (c : CoreId) (wr : List (W64 × ℕ)) (s : State) : (lmMended c wr s).mem = s.mem := by
  unfold lmMended
  try dsimp only
  repeat' (first
    | rfl
    | assumption
    | refine (mem_foldl (fun s x => ?_) _ _).trans ?_
    | split
    | simp only [mem_State_lmMend])
@[simp] theorem wf_memApply (l : List Seg) (ps : List Put) (s : State) (h : s.mem.wf = true)
    : (memApply l ps s).mem.wf = true := by
  unfold memApply
  try dsimp only
  repeat' (first
    | rfl
    | assumption
    | refine wf_foldl (fun s x h => ?_) _ _ ?_
    | split)
  all_goals grind -ring -linarith -lia [wf_State_putByte]
@[simp] theorem mem_sendOut (c : CoreId) (u : MemUnit) (part : PartId) (rd : List Seg) (wr : List Seg)
    (ps : List Put) (s : State) : (sendOut c u part rd wr ps s).mem = s.mem := by
  unfold sendOut
  try dsimp only
  repeat' (first
    | rfl
    | assumption
    | refine (mem_foldl (fun s x => ?_) _ _).trans ?_
    | split
    | simp only [mem_sendPpa, mem_State_later])
@[simp] theorem mem_ackOut (part : PartId) (nums : List (Fin 64 × Fin 64 × W32)) (s : State) :
    (ackOut part nums s).mem = s.mem := mem_foldl (fun s x => mem_updChan _ _ _ _ s) _ _
@[simp] theorem mem_moved (c : CoreId) (u : MemUnit) (a : Active) (v : Option RVal) (lat : ℕ) (fl : Flags)
    (s : State) : (moved c u a v lat fl s).mem = s.mem := rfl
theorem mem_enterDies {p : PartId} {dies : List DieId} {s : State} {t} (e : enterDies p dies s = some t) : t.mem
    = s.mem := by
  unfold enterDies at e
  split at e
  · cases e
  · cases e
    exact mem_foldl (fun s x => by simp) _ _
theorem mem_letIn {c : CoreId} {cls : Fin 3} {dies : List DieId} {s : State} {t} (e : letIn c cls dies s
    = some t) : t.mem = s.mem := by
  unfold letIn at e
  dsimp only at e
  split at e
  · cases e
  · exact (mem_enterDies e).trans (by simp)
@[simp] theorem mem_letAllIn (c : CoreId) (z : List (Fin 3 × List DieId)) (s : State) : (letAllIn c z s).2.mem
    = s.mem := by
  induction z generalizing s with
  | nil => rfl
  | cons r l ih =>
    unfold letAllIn
    split
    · rfl
    · exact (ih _).trans (mem_letIn ‹_›)
@[simp] theorem mem_lmFound (c : CoreId) (lm : Bool) (rp : Option Reply) (s : State) : (lmFound c lm rp s).mem = s.mem := by
  unfold lmFound
  (repeat' split) <;> simp [*]
theorem mem_lookLines (c : CoreId) (home wr : Bool) (l : List Nat) (x : Lines × State) :
    (lookLines c home wr l x).2.mem = x.2.mem := by
  unfold lookLines
  induction l generalizing x with
  | nil => rfl
  | cons n r ih =>
    rw [List.foldl_cons, ih]
    dsimp only
    repeat' split
    all_goals simp
theorem mem_readLines (d : DieId) (ch : Hint) (l : List Nat) (x : Lines × State) : (readLines d ch l x).2.mem = x.2.mem := by
  unfold readLines
  induction l generalizing x with
  | nil => rfl
  | cons n r ih =>
    rw [List.foldl_cons, ih]
    split <;> simp
theorem wf_writeLines (d : DieId) (home : Bool) (ch : Hint) (ws : List Seg) (ps : State → List Put) (x : Lines × State)
    (h : x.2.mem.wf = true) : (writeLines d home ch ws ps x).2.mem.wf = true := by
  unfold writeLines
  exact wf_foldl (fun s n h => by simpa using h) _ _ (wf_memApply _ _ _ h)
theorem wf_moveSegs (c : CoreId) (u : MemUnit) (i : Instr) (p : Plan) (rd wr : List (Seg × TlbE)) (x : Ctx) (sent : Bool)
    (g : Lines) (s : State) (r : Option Reply) (h : s.mem.wf = true) :
    (moveSegs c u i p rd wr x sent g s r).memAll (fun m => m.wf = true) := by
  unfold moveSegs
  dsimp only
  split
  · trivial
  · split
    · trivial
    · split
      · trivial
      · trivial
      · generalize hz : writeLines x.die _ _ _ _ _ = z
        have hw : z.2.mem.wf = true := by
          rw [← hz]
          exact wf_writeLines _ _ _ _ _ _ (by rw [mem_readLines, mem_lookLines, mem_lookLines]; exact h)
        repeat' (first | exact hw | split)
        all_goals simp only [Moved.memAll_wait, Moved.memAll_done, mem_ackOut, State.updCore_mem, mem_askTokens, mem_sendOut]
        all_goals first
          | exact hw
          | exact wf_foldl (fun s g h => by simpa using h) _ _ (wf_foldl (fun s g h => by simpa using h) _ _
              (wf_memApply _ _ _ hw))
theorem wf_moveMem (c : CoreId) (u : MemUnit) (i : Instr) (p : Plan) (x : Ctx) (sent : Bool) (g : Lines)
    (r : Option Reply) (s : State)
    (h : s.mem.wf = true) : (moveMem c u i p x sent g r s).memAll (fun m => m.wf = true) := by
  unfold moveMem
  repeat' (first | trivial | exact h | exact wf_moveSegs _ _ _ _ _ _ _ _ _ _ _ h | split)
theorem wf_moveFamo (c : CoreId) (u : MemUnit) (a : Active) (p : Plan) (r : Option Reply) (s : State)
    (h : s.mem.wf = true) : (moveFamo c u a p r s).memAll (fun m => m.wf = true) := by
  unfold moveFamo
  repeat' (first | trivial | exact h | exact wf_moveMem _ _ _ _ _ _ _ _ _ h | split)
theorem mem_moveLm {P : Mem → Prop} (c : CoreId) (i : Instr) (p : Plan) (s : State) (h : P s.mem) :
    (moveLm c i p s).memAll P := by
  unfold moveLm
  dsimp only
  repeat' (first | trivial | exact h | split)
  all_goals simpa using h
theorem wf_movePlan (c : CoreId) (u : MemUnit) (a : Active) (p : Plan) (lm : Bool) (r : Option Reply) (s : State)
    (h : s.mem.wf = true) : (movePlan c u a p lm r s).memAll (fun m => m.wf = true) := by
  unfold movePlan
  repeat' (first
    | trivial
    | exact h
    | exact wf_moveMem _ _ _ _ _ _ _ _ _ h
    | exact wf_moveFamo _ _ _ _ _ _ h
    | exact mem_moveLm _ _ _ _ h
    | split)
theorem mem_planWalks {c : CoreId} {a : Active} {lm : Bool} {p : Plan} {s t : State} (e : planWalks c a lm p s = some t) :
    t.mem = s.mem := by
  unfold planWalks at e
  split at e
  · cases e
  · obtain ⟨x, -, e⟩ := Option.bind_eq_some_iff.mp e
    exact mem_awaitWalks e
theorem wf_performPlan (c : CoreId) (u : MemUnit) (a : Active) (lm : Bool) (p : Plan) (rp : Option Reply) (s : State)
    (h : s.mem.wf = true) : (performPlan c u a lm p rp s).mem.wf = true := by
  unfold performPlan
  have hl : (letAllIn c ((unitPaths s c a.q lm p).drop a.paid) s).2.mem.wf = true := by simpa using h
  dsimp only
  split
  · simpa using h
  · generalize letAllIn c _ s = l at hl ⊢
    generalize hf : lmFound c _ rp l.2 = v
    have hv : v.mem.wf = true := by rw [← hf, mem_lmFound]; exact hl
    generalize hm : movePlan c u _ _ _ rp v = m
    have hp : m.memAll (fun m => m.wf = true) := by rw [← hm]; exact wf_movePlan _ _ _ _ _ _ _ hv
    cases m with
    | wait s g b => simpa using hp
    | trap code => exact wf_engineTrap _ _ _ _ _ hl
    | fault f => exact wf_accessFault _ _ _ _ _ hv
    | done t v n => simpa using hp
@[simp] theorem wf_runPlan (c : CoreId) (u : MemUnit) (a : Active) (rp : Option Reply) (s : State) (h : s.mem.wf
    = true) : (runPlan c u a rp s).mem.wf = true := by
  unfold runPlan
  dsimp only
  split
  · rw [State.updCore_mem, mem_planWalks ‹_›]
    exact h
  · exact wf_performPlan _ _ _ _ _ _ _ h
@[simp] theorem wf_transfer (c : CoreId) (u : MemUnit) (rp : Option Reply) (s : State) (h : s.mem.wf = true)
    : (transfer c u rp s).mem.wf = true := by
  have hb : ∀ (a : Active) (v : RVal), (match letIn c 0 [] s with
      | some t => moved c u a (some v) 8 0 t
      | none => s).mem.wf = true := fun a v => by
    split
    · rename_i ht
      rw [mem_moved, mem_letIn ht]
      exact h
    · exact h
  unfold transfer
  dsimp only
  repeat' (first | exact h | exact hb _ _ | split)
  all_goals first
    | exact wf_openEntry _ _ _ _ h
    | exact wf_runPlan _ _ _ _ _ (by simpa using h)
    | exact wf_accessFault _ _ _ _ _ h
    | (rw [mem_moved, mem_letIn ‹_›]; exact h)
    | (simpa using h)
@[simp] theorem wf_execMemoryTransferPerformed (c : CoreId) (u : MemUnit) (rp : Reply) (s : State) (h : s.mem.wf
    = true) : (execMemoryTransferPerformed c u rp s).memAll (fun m => m.wf = true) := by
  exact wf_transfer _ _ _ _ h
@[simp] theorem wf_execHostCompletion (c : CoreId) (u : MemUnit) (rp : Reply) (s : State) (h : s.mem.wf = true)
    : (execHostCompletion c u rp s).memAll (fun m => m.wf = true) := by
  unfold execHostCompletion
  split
  · rw [Out.memAll_next]
    split <;> exact h
  · exact wf_transfer _ _ _ _ h
@[simp] theorem wf_execDeferredTrapTaken (c : CoreId) (b : BerthId) (s : State) (h : s.mem.wf = true)
    : (execDeferredTrapTaken c b s).memAll (fun m => m.wf = true) := by
  unfold execDeferredTrapTaken
  try dsimp only
  repeat' (first | trivial | exact h | simp only [Out.memAll_next] | split)
  all_goals simp [*]

/-! ## Machine/CopyEngine.lean -/

@[simp] theorem mem_sendCount (c : CoreId) (bo : Fin 4096) (n : Option ℕ) (e : Option Err) (s : State)
    : (sendCount c bo n e s).mem = s.mem := rfl
@[simp] theorem wf_execObjectCount (c : CoreId) (s : State) (h : s.mem.wf = true)
    : (execObjectCount c s).memAll (fun m => m.wf = true) := by
  unfold execObjectCount
  split
  · split
    · rw [Out.memAll_next]
      exact wf_coreFault _ _ _ _ _ _ _ (by simpa using h)
    · exact h
  · exact h
@[simp] theorem mem_promise (c : CoreId) (bo : Fin 4096) (p : W64) (s : State) : (promise c bo p s).mem = s.mem := rfl
@[simp] theorem mem_ackFlag (p : PartId) (g : Fin 64) (rank : Fin 64) (self : Bool) (m : FlagMsg) (s : State)
    : (ackFlag p g rank self m s).mem = s.mem := by
  unfold ackFlag
  (repeat' split) <;> simp [*]
@[simp] theorem wf_applyFlag (p : PartId) (g : Fin 64) (rank : Fin 64) (x : Group) (m : FlagMsg) (s : State)
    (h : s.mem.wf = true) : (applyFlag p g rank x m s).mem.wf = true := by
  unfold applyFlag
  grind -ring -linarith -lia [mem_ackFlag, mem_updChan, → wf_State_writeVa]
@[simp] theorem wf_releaseFlags (p : PartId) (g : Fin 64) (rank : Fin 64) (s : State) (h : s.mem.wf = true)
    : (releaseFlags p g rank s).mem.wf = true := by
  unfold releaseFlags
  try dsimp only
  repeat' (first
    | rfl
    | assumption
    | refine wf_foldl (fun s x h => ?_) _ _ ?_
    | split
    | simp only [mem_updChan])
  all_goals grind -ring -linarith -lia [mem_updChan, wf_applyFlag]
@[simp] theorem wf_selfApplied (p : PartId) (g : Fin 64) (rank : Fin 64) (num : W32) (n : ℕ) (s : State)
    (h : s.mem.wf = true) : (selfApplied p g rank num n s).mem.wf = true := by
  simp [selfApplied, h]
@[simp] theorem mem_tellRuns (p : PartId) (g : Fin 64) (rank : Fin 64) (num : W32) (obj : Option (Byte × Option (Fin 4096)))
    (e : Err) (runs : List (W64 × ℕ)) (s : State) : (tellRuns p g rank num obj e runs s).mem = s.mem :=
  mem_foldl (fun s x => mem_sendFabric _ _ _ _ s) _ _
@[simp] theorem wf_endTarget (c : CoreId) (y : Copy) (tk : Target) (from_ : ℕ) (e : Err) (s : State) (h : s.mem.wf
    = true) : (endTarget c y tk from_ e s).mem.wf = true := by
  unfold endTarget
  dsimp only
  repeat' split
  all_goals first
    | (refine wf_selfApplied _ _ _ _ _ _ ?_; simpa using h)
    | simpa using h
@[simp] theorem mem_tellRefused (c : CoreId) (tk : Target) (n : Option ℕ) (e : Err) (s : State)
    : (tellRefused c tk n e s).mem = s.mem := by
  unfold tellRefused
  dsimp only
  repeat' split
  all_goals simp
@[simp] theorem wf_copyFault (c : CoreId) (q : QEntry) (e : Err) (addr : W64) (s : State) (h : s.mem.wf = true)
    : (copyFault c q e addr s).mem.wf = true := by
  simp [copyFault, h]
@[simp] theorem wf_refuse (c : CoreId) (q : QEntry) (n : Option ℕ) (ts : List Target) (e : Err) (addr : W64)
    (s : State) (h : s.mem.wf = true) : (refuse c q n ts e addr s).mem.wf = true := by
  unfold refuse
  try dsimp only
  repeat' (first
    | rfl
    | assumption
    | refine wf_foldl (fun s x h => ?_) _ _ ?_
    | split
    | simp only [mem_sendCount, mem_tellRefused, State.updCore_mem])
  all_goals grind -ring -linarith -lia [wf_copyFault, mem_sendCount, mem_tellRefused, State.updCore_mem]
@[simp] theorem mem_launchCopy (c : CoreId) (y : Copy) (lat : ℕ) (delay : ℕ) (s : State)
    : (launchCopy c y lat delay s).mem = s.mem := by
  unfold launchCopy
  grind -ring -linarith -lia [State.updCore_mem, mem_promise]
@[simp] theorem mem_reserveAll (c : CoreId) (q : QEntry) (src : Rec) (dst : Rec) (ts : List Target) (s : State)
    : (reserveAll c q src dst ts s).2.mem = s.mem := by
  unfold reserveAll
  have key : ∀ (l : List Target) (f : List Target × State → Target → List Target × State) (x : List Target × State),
      (∀ x t, (f x t).2.mem = x.2.mem) → (l.foldl f x).2.mem = x.2.mem := by
    intro l f x hf
    induction l generalizing x with
    | nil => rfl
    | cons a r ih => rw [List.foldl_cons, ih, hf]
  refine key _ _ _ (fun x t => ?_)
  dsimp only
  repeat' split
  all_goals simp
@[simp] theorem wf_acceptRecords (c : CoreId) (q : QEntry) (told : W64) (s : State) (h : s.mem.wf = true)
    : (acceptRecords c q told s).mem.wf = true := by
  unfold acceptRecords
  dsimp only
  repeat' (first | assumption | split | (refine wf_refuse _ _ _ _ _ _ _ ?_) | (simp only [mem_launchCopy, mem_reserveAll]))
  all_goals grind -ring -linarith -lia [mem_countError, → mem_headRec]
@[simp] theorem wf_acceptRls (c : CoreId) (q : QEntry) (told : W64) (s : State) (h : s.mem.wf = true)
    : (acceptRls c q told s).mem.wf = true := by
  unfold acceptRls
  dsimp only
  repeat' split
  all_goals first
    | exact wf_refuse _ _ _ _ _ _ _ h
    | simpa using h
@[simp] theorem wf_execCopyAccept (c : CoreId) (absent : W64) (s : State) (h : s.mem.wf = true)
    : (execCopyAccept c absent s).memAll (fun m => m.wf = true) := by
  unfold execCopyAccept
  split
  · exact h
  · split
    · rw [Out.memAll_next, State.push_mem, mem_recsMore ‹_›]
      exact h
    · dsimp only
      generalize hu : (if needsMembers _ = true then { s with free := s.free + 1 } else s) = u
      have hw : u.mem.wf = true := by rw [← hu]; split <;> exact h
      rw [Out.memAll_next]
      repeat' split
      all_goals first
        | exact wf_acceptRls _ _ _ _ hw
        | exact wf_acceptRecords _ _ _ _ hw
        | exact wf_refuse _ _ _ _ _ _ _ hw
        | (simp only [State.push_mem, mem_launchCopy, State.updCore_mem]; exact hw)
@[simp] theorem mem_sendUnit (c : CoreId) (y : Copy) (tk : Target) (e : End) (p : UnitPlan) (l : List Seg)
    (ps : List Put) (s : State) : (sendUnit c y tk e p l ps s).mem = s.mem := by
  unfold sendUnit
  try dsimp only
  repeat' (first
    | rfl
    | assumption
    | refine (mem_foldl (fun s x => ?_) _ _).trans ?_
    | split
    | simp only [mem_sendFabric, mem_sendPpa])
@[simp] theorem mem_ackUnit (c : CoreId) (e : End) (p : UnitPlan) (tk : Target) (nums : List (Fin 64 × Fin 64 × W32)) (s : State)
    : (ackUnit c e p tk nums s).mem = s.mem := by
  unfold ackUnit
  dsimp only
  split <;> simp
@[simp] theorem mem_patchImages (x : Ctx) (ps : List Put) (s : State) : (patchImages x ps s).mem = s.mem := rfl
@[simp] theorem wf_landUnit (c : CoreId) (e : End) (se : List End) (rl : List (Seg × TlbE)) (wl : List (Seg × TlbE))
    (wr : List (W64 × ℕ)) (ps : List Put) (s : State) (h : s.mem.wf = true) : (landUnit c e se rl wl wr ps s).mem.wf
    = true := by
  unfold landUnit
  dsimp only
  split
  · simp only [mem_lmMended, mem_lmApply]
    exact wf_foldl (fun s g h => by simpa using h) _ _ (by simpa using h)
  · exact wf_foldl (fun s g h => by simpa using h) _ _ (by simpa using h)
  · rw [mem_patchImages]
    refine wf_foldl (fun s g h => by simpa using h) _ _ (wf_memApply _ _ _ ?_)
    refine wf_foldl (fun s g h => by simpa using h) _ _ ?_
    exact wf_foldl (fun s g h => by simpa using h) _ _ (by simpa using h)
@[simp] theorem wf_endCopy (c : CoreId) (i : Fin 8) (y : Copy) (s : State) (h : s.mem.wf = true)
    : (endCopy c i y s).mem.wf = true := by
  unfold endCopy
  grind -ring -linarith -lia [mem_State_lmStore, wf_copyFault, mem_sendCount, State.updCore_mem]
@[simp] theorem wf_failUnit (c : CoreId) (i : Fin 8) (y : Copy) (n : ℕ) (tk : Target) (f : Err) (addr : W64)
    (s : State) (h : s.mem.wf = true) : (failUnit c i y n tk f addr s).mem.wf = true := by
  unfold failUnit
  grind -ring -linarith -lia [wf_endTarget, wf_copyFault, State.updCore_mem, wf_endCopy, mem_sendCount]
@[simp] theorem wf_unitDone (c : CoreId) (i : Fin 8) (y : Copy) (n : ℕ) (tk : Target) (data : List Byte) (s : State)
    (h : s.mem.wf = true) : (unitDone c i y n tk data s).mem.wf = true := by
  unfold unitDone
  grind -ring -linarith -lia [mem_sendCount, wf_selfApplied, State.updCore_mem, wf_endCopy]
theorem wf_runUnit (c : CoreId) (y : Copy) (t : Target) (r : Reply) (s : State) (h : s.mem.wf = true) :
    (runUnit c y t r s).memAll (fun m => m.wf = true) := by
  unfold runUnit
  dsimp only
  repeat' (first | trivial | exact h | split)
  all_goals simp only [UnitEnd.memAll_wait, UnitEnd.memAll_sent, UnitEnd.memAll_done, mem_askTokens, mem_ackUnit, mem_sendUnit,
    mem_readLines, mem_lookLines]
  all_goals repeat' (first
    | exact h
    | (with_reducible refine wf_landUnit _ _ _ _ _ _ _ _ ?_)
    | (with_reducible refine wf_writeLines _ _ _ _ _ _ ?_)
    | (simp only [mem_readLines, mem_lookLines]))
theorem mem_unitWalks {c : CoreId} {y : Copy} {tk : Target} {s t : State} (e : unitWalks c y tk s = some t) :
    t.mem = s.mem := by
  obtain ⟨x, -, hx⟩ := List.exists_of_findSome?_eq_some e
  exact mem_awaitWalks hx
@[simp] theorem wf_moveCopy (c : CoreId) (i : Fin 8) (y : Copy) (rp : Reply) (s : State) (h : s.mem.wf = true)
    : (moveCopy c i y rp s).mem.wf = true := by
  unfold moveCopy
  split
  · exact wf_endCopy _ _ _ _ h
  · dsimp only
    split
    · exact wf_failUnit _ _ _ _ _ _ _ _ h
    · split
      · exact h
      · split
        · rename_i hs
          split at hs
          · cases hs
          · rw [mem_unitWalks hs]; exact h
        · split
          · exact h
          · rename_i s' hs
            have h' : s'.mem.wf = true := by
              split at hs
              · cases hs; exact h
              · rw [mem_letIn hs]; exact h
            generalize hm : runUnit c y _ _ s' = m
            have hp : m.memAll (fun m => m.wf = true) := by rw [← hm]; exact wf_runUnit _ _ _ _ _ h'
            cases m with
            | wait s g => simpa using hp
            | fault f => exact wf_failUnit _ _ _ _ _ _ _ _ (by simpa using h)
            | sent t d ns => simpa using hp
            | done t d => exact wf_unitDone _ _ _ _ _ _ _ hp
@[simp] theorem wf_endPlain (c : CoreId) (i : Fin 8) (q : QEntry) (e : Option Err) (addr : W64) (s : State)
    (h : s.mem.wf = true) : (endPlain c i q e addr s).mem.wf = true := by
  unfold endPlain
  (repeat' split) <;> simp [*]
@[simp] theorem mem_countLook (c : CoreId) (i : Fin 8) (y : Copy) (g : Fin 64) (s : State) : (countLook c i y g s).mem = s.mem := by
  unfold countLook
  dsimp only
  repeat' split
  all_goals simp [mem_lookLines]
@[simp] theorem wf_moveAcqw (c : CoreId) (i : Fin 8) (y : Copy) (s : State) (h : s.mem.wf = true)
    : (moveAcqw c i y s).mem.wf = true := by
  unfold moveAcqw
  dsimp only
  repeat' split
  all_goals simp [h]
@[simp] theorem mem_moveAgset (c : CoreId) (i : Fin 8) (y : Copy) (s : State) : (moveAgset c i y s).mem = s.mem := by
  unfold moveAgset
  (repeat' split) <;> simp [*]
@[simp] theorem wf_execCopyUnitPerformed (c : CoreId) (k : Fin 8) (rp : Reply) (s : State) (h : s.mem.wf = true)
    : (execCopyUnitPerformed c k rp s).memAll (fun m => m.wf = true) := by
  unfold execCopyUnitPerformed
  try dsimp only
  repeat' (first | trivial | exact h | simp only [Out.memAll_next] | split)
  all_goals simp [*]

/-! ## Machine/ArrayEngine.lean -/

@[simp] theorem mem_State_putBarge (s : State) (tk : PairId) (b : Barge) (z : Barge)
    : (State.putBarge s tk b z).mem = s.mem := rfl
@[simp] theorem mem_State_dropEntry (s : State) (c : CoreId) (id : ℕ) (tk : PairId)
    : (State.dropEntry s c id tk).mem = s.mem := rfl
@[simp] theorem mem_State_dropBarge (s : State) (tk : PairId) (b : Barge) : (State.dropBarge s tk b).mem = s.mem := by
  unfold State.dropBarge
  try dsimp only
  repeat' (first
    | rfl
    | assumption
    | refine (mem_foldl (fun s x => ?_) _ _).trans ?_
    | split
    | simp only [mem_State_dropEntry, State.setPair_mem])
@[simp] theorem wf_failArray (i : Option ℕ) (c : CoreId) (q : QEntry) (e : Err) (s : State) (h : s.mem.wf = true)
    : (failArray i c q e s).mem.wf = true := by
  unfold failArray
  dsimp only
  rw [State.updCore_mem, mem_sendCount]
  refine wf_gangFault _ _ _ _ _ _ _ _ ?_
  split
  · rw [mem_State_lmStore]; exact h
  · exact h
@[simp] theorem wf_failBarge (b : Barge) (e : Err) (s : State) (h : s.mem.wf = true) : (failBarge b e s).mem.wf = true := by
  unfold failBarge
  split
  · exact h
  · exact wf_failArray _ _ _ _ _ h
@[simp] theorem mem_missBarge (u : TrapUnit) (c : CoreId) (q : QEntry) (s : State) : (missBarge u c q s).mem = s.mem := by
  unfold missBarge
  grind -ring -linarith -lia [mem_bump, State.updCore_mem, State.updBerth_mem]
theorem mem_recordOf {c : CoreId} {q : QEntry} {used : Bool} {tid : ℕ} {s : State} {t} {x1} (e : recordOf c q used tid s
    = .ok (x1, t)) : t.mem = s.mem := by
  unfold recordOf at e
  repeat' split at e
  all_goals cases e
  · exact mem_headRec ‹_›
  · rfl
theorem mem_arrayRecords {c : CoreId} {q : QEntry} {s : State} {t} {x1 x2 x3} (e : arrayRecords c q s
    = .ok (x1, x2, x3, t)) : t.mem = s.mem := by
  unfold arrayRecords at e
  obtain ⟨⟨a1, s1⟩, e1, e⟩ := ok_of_bind e
  obtain ⟨⟨a2, s2⟩, e2, e⟩ := ok_of_bind e
  obtain ⟨⟨a3, s3⟩, e3, e⟩ := ok_of_bind e
  have m1 := mem_recordOf e1
  have m2 := mem_recordOf e2
  have m3 := mem_recordOf e3
  clear e1 e2 e3
  rw [m2, m1] at m3
  rw [← m3]
  clear m1 m2 m3
  rw [ok_of_ite e]
theorem mem_checkArray {c : CoreId} {q : QEntry} {tk : Option PairId} {s : State} {t} {x1} (e : checkArray c q tk s
    = .ok (x1, t)) : t.mem = s.mem := by
  unfold checkArray at e
  split at e
  · cases e
  · split at e
    · cases e
    · obtain ⟨⟨a1, a2, a3, s1⟩, e1, e⟩ := ok_of_bind e
      dsimp only at e
      repeat' (split at e)
      all_goals cases e
      all_goals exact mem_arrayRecords e1
@[simp] theorem mem_endFence (c : CoreId) (q : QEntry) (s : State) : (endFence c q s).mem = s.mem := rfl
@[simp] theorem wf_endOrRefuse (c : CoreId) (q : QEntry) (s : State) (h : s.mem.wf = true) : (endOrRefuse c q s).mem.wf = true := by
  unfold endOrRefuse
  split
  · exact wf_failArray _ _ _ _ _ (by simpa using h)
  · rw [mem_endFence]; exact h
@[simp] theorem wf_sendAll (c : CoreId) (q : QEntry) (s : State) (h : s.mem.wf = true) : (sendAll c q s).mem.wf = true := by
  unfold sendAll
  dsimp only
  split
  · exact h
  · split
    · exact wf_endOrRefuse _ _ _ h
    · split
      · exact wf_failArray _ _ _ _ _ (by simpa using h)
      · rw [mem_foldl (fun s t => State.setPair_mem _ _ _), State.updCore_mem]
        exact h
@[simp] theorem wf_sendHead (c : CoreId) (q : QEntry) (s : State) (h : s.mem.wf = true) : (sendHead c q s).mem.wf
    = true := by
  unfold sendHead
  grind -ring -linarith -lia [State.updCore_mem, → mem_checkArray, wf_failArray, mem_promise, State.setPair_mem]
@[simp] theorem wf_endReleases (c : CoreId) (s : State) (h : s.mem.wf = true) : (endReleases c s).mem.wf = true :=
  wf_foldl (fun s q h => wf_endOrRefuse _ _ _ h) _ _ h
@[simp] theorem wf_sendArray (c : CoreId) (s : State) (h : s.mem.wf = true) : (sendArray c s).mem.wf = true := by
  unfold sendArray
  grind -ring -linarith -lia [wf_endReleases, wf_sendAll, wf_sendHead]
@[simp] theorem mem_execOperandLatched {P : Mem → Prop} (tk : PairId) (s : State) (h : P s.mem)
    : (execOperandLatched tk s).memAll P := by
  unfold execOperandLatched
  try dsimp only
  repeat' (first | trivial | exact h | simp only [Out.memAll_next] | split)
@[simp] theorem wf_execGateFlipSeen (tk : PairId) (s : State) (h : s.mem.wf = true)
    : (execGateFlipSeen tk s).memAll (fun m => m.wf = true) := by
  unfold execGateFlipSeen
  try dsimp only
  repeat' (first
    | rfl
    | assumption
    | refine wf_foldl (fun s x h => ?_) _ _ ?_
    | split
    | simp only [State.setPair_mem, mem_State_dropBarge])
  all_goals grind -ring -linarith -lia [State.setPair_mem, wf_failBarge, mem_State_dropBarge]
@[simp] theorem mem_countDrift (tk : PairId) (b : Barge) (old : Pair) (new : Pair) (s : State)
    : (countDrift tk b old new s).mem = s.mem := by
  unfold countDrift
  (repeat' split) <;> simp [*]
@[simp] theorem wf_failUce (b : Barge) (line : ℕ) (s : State) (h : s.mem.wf = true) : (failUce b line s).mem.wf = true := by
  simp [failUce, h]
@[simp] theorem wf_startDrive (tk : PairId) (b : Barge) (s : State) (h : s.mem.wf = true)
    : (startDrive tk b s).mem.wf = true := by
  unfold startDrive
  (repeat' split) <;> simp [*]
@[simp] theorem wf_issueBarge (tk : PairId) (b : Barge) (s : State) (h : s.mem.wf = true)
    : (issueBarge tk b s).mem.wf = true := by
  unfold issueBarge
  grind -ring -linarith -lia [State.push_mem, mem_State_putBarge, wf_startDrive, wf_failBarge, mem_State_dropBarge]
@[simp] theorem wf_execBargeIssue (tk : PairId) (s : State) (h : s.mem.wf = true)
    : (execBargeIssue tk s).memAll (fun m => m.wf = true) := by
  unfold execBargeIssue
  try dsimp only
  repeat' (first | trivial | exact h | simp only [Out.memAll_next] | split)
  all_goals simp [*]
@[simp] theorem mem_gateBegins (tk : PairId) (s : State) : (gateBegins tk s).mem = s.mem := rfl
@[simp] theorem wf_execArrCeilingAdmit (tk : PairId) (s : State) (h : s.mem.wf = true)
    : (execArrCeilingAdmit tk s).memAll (fun m => m.wf = true) := by
  unfold execArrCeilingAdmit
  try dsimp only
  repeat' (first | trivial | exact h | simp only [Out.memAll_next] | split)
  all_goals simp [*]
@[simp] theorem wf_execStampWindowExpiry (tk : PairId) (s : State) (h : s.mem.wf = true)
    : (execStampWindowExpiry tk s).memAll (fun m => m.wf = true) := by
  unfold execStampWindowExpiry
  try dsimp only
  repeat' (first | trivial | exact h | simp only [Out.memAll_next] | split)
  all_goals simp [*]
@[simp] theorem mem_writeOutputs (b : Barge) (s : State) : (writeOutputs b s).mem = s.mem := by
  unfold writeOutputs
  rw [mem_State_lmStore, mem_foldl (fun s x => by simp)]
@[simp] theorem mem_keepRegs (tk : PairId) (b : Barge) (s : State) : (keepRegs tk b s).mem = s.mem := by
  unfold keepRegs
  (repeat' split) <;> simp [*]
@[simp] theorem mem_afterEnd (tk : PairId) (c : CoreId) (s : State) : (afterEnd tk c s).mem = s.mem := rfl
@[simp] theorem wf_execArrayCommandComplete (tk : PairId) (fail : Bool) (s : State) (h : s.mem.wf = true)
    : (execArrayCommandComplete tk fail s).memAll (fun m => m.wf = true) := by
  unfold execArrayCommandComplete
  try dsimp only
  repeat' (first | trivial | exact h | simp only [Out.memAll_next] | split)
  all_goals simp [*]

/-! ## Machine/SpecialFn.lean -/

@[simp] theorem wf_failSf (i : Option ℕ) (c : CoreId) (q : QEntry) (fl : W64) (n : Option ℕ) (e : Err) (s : State)
    (h : s.mem.wf = true) : (failSf i c q fl n e s).mem.wf = true := by
  unfold failSf
  dsimp only
  rw [State.updCore_mem, mem_sendCount]
  refine wf_gangFault _ _ _ _ _ _ _ _ ?_
  split
  · rw [mem_State_lmStore]; exact h
  · exact h
theorem mem_sfRecords {c : CoreId} {q : QEntry} {s : State} {t} {x1 x2} (e : sfRecords c q s
    = .ok (x1, x2, t)) : t.mem = s.mem := by
  unfold sfRecords at e
  obtain ⟨⟨a1, s1⟩, e1, e⟩ := ok_of_bind e
  obtain ⟨⟨a2, s2⟩, e2, e⟩ := ok_of_bind e
  dsimp only at e
  repeat' (split at e)
  all_goals cases e
  rw [mem_recordOf e2, mem_recordOf e1]
@[simp] theorem wf_sendSf (c : CoreId) (s : State) (h : s.mem.wf = true) : (sendSf c s).mem.wf = true := by
  unfold sendSf
  dsimp only
  repeat' split
  · exact h
  · exact h
  · exact wf_failSf _ _ _ _ _ _ _ h
  · rename_i e
    have := mem_sfRecords e
    rw [show (promise c _ _ _).mem = _ from mem_promise _ _ _ _, this]
    exact h
@[simp] theorem wf_execBargeSend (c : CoreId) (sf : Bool) (s : State) (h : s.mem.wf = true)
    : (execBargeSend c sf s).memAll (fun m => m.wf = true) := by
  unfold execBargeSend
  try dsimp only
  repeat' (first | trivial | exact h | simp only [Out.memAll_next] | split)
  all_goals first
    | (simp [*]; done)
    | grind -ring -linarith -lia [→ mem_recsMore, State.push_mem, wf_sendSf, wf_sendArray]
@[simp] theorem mem_State_putSf (s : State) (b : Barge) (z : Barge) : (State.putSf s b z).mem = s.mem := rfl
@[simp] theorem mem_State_dropSf (s : State) (b : Barge) : (State.dropSf s b).mem = s.mem := rfl
@[simp] theorem wf_sfServe (b : Barge) (s : State) (z : SfAct) (h : s.mem.wf = true) : (sfServe b s z).mem.wf = true := by
  cases z with
  | start => exact h
  | gateErr => exact wf_failSf _ _ _ _ _ _ _ h
  | miss r => rw [sfServe, mem_missBarge]; exact wf_failSf _ _ _ _ _ _ _ h
@[simp] theorem wf_execSfBargeStart (s : State) (h : s.mem.wf = true) : (execSfBargeStart s).memAll (fun m => m.wf
    = true) := by
  unfold execSfBargeStart
  dsimp only
  split
  · exact h
  · rw [Out.memAll_next, State.push_mem]
    exact wf_sfServe _ _ _ h
@[simp] theorem mem_sfTransfer (c : CoreId) (b : Barge) (s : State) : (sfTransfer c b s).1.mem = s.mem := by
  unfold sfTransfer
  exact mem_foldl2 (fun a n => by simp) _ _
@[simp] theorem wf_execSfTransferComplete (k : ℕ) (fail : Bool) (s : State) (h : s.mem.wf = true)
    : (execSfTransferComplete k fail s).memAll (fun m => m.wf = true) := by
  unfold execSfTransferComplete
  dsimp only
  repeat' split
  all_goals first
    | exact h
    | (rw [Out.memAll_next]; exact wf_failSf _ _ _ _ _ _ _ (by rw [mem_bump, mem_State_dropSf]; exact h))
    | (rw [Out.memAll_next]; exact wf_failSf _ _ _ _ _ _ _ (by rw [mem_State_dropSf]; exact h))
    | (rw [Out.memAll_next]; simpa using h)
@[simp] theorem wf_failPairs (ad : ℕ) (s : State) (h : s.mem.wf = true) : (failPairs ad s).mem.wf = true := by
  unfold failPairs
  refine wf_foldl (fun s t h => ?_) _ _ h
  refine wf_foldl (fun s b h => ?_) _ _ h
  exact wf_failBarge _ _ _ (by simpa using h)
@[simp] theorem wf_failSfs (d : ℕ) (s : State) (h : s.mem.wf = true) : (failSfs d s).mem.wf = true := by
  unfold failSfs
  exact wf_foldl (fun s b h => wf_failSf _ _ _ _ _ _ _ (by rw [mem_State_dropSf]; exact h)) _ _ h
@[simp] theorem wf_execDieJointFailure (j : Fin 24) (s : State) (h : s.mem.wf = true)
    : (execDieJointFailure j s).memAll (fun m => m.wf = true) := by
  unfold execDieJointFailure
  dsimp only
  repeat' split
  · exact wf_foldl (fun s p h => wf_moduleFault _ _ _ _ _ _ h) _ _ h
  · exact wf_failPairs _ _ h
  · exact wf_failSfs _ _ h
  · exact h
@[simp] theorem mem_execDieJointRetrained {P : Mem → Prop} (j : Fin 24) (s : State) (h : P s.mem)
    : (execDieJointRetrained j s).memAll P := by
  unfold execDieJointRetrained
  try dsimp only
  repeat' (first | trivial | exact h | simp only [Out.memAll_next] | split)

/-! ## Machine/Image.lean -/

@[simp] theorem wf_blit (a : ℕ) (n : ℕ) (cells : Mem) (s : State) (h : s.mem.wf = true) : (blit a n cells s).mem.wf
    = true := by
  exact Mem.splice_wf _ _ _ _ h
@[simp] theorem mem_waitAgain (c : CoreId) (s : State) : (waitAgain c s).mem = s.mem := rfl
@[simp] theorem mem_rePromise (c : CoreId) (s : State) : (rePromise c s).mem = s.mem := by
  unfold rePromise
  refine mem_foldl (fun s b => ?_) _ _
  dsimp only
  repeat' split
  all_goals simp
@[simp] theorem mem_takeAgain (c : CoreId) (s : State) : (takeAgain c s).mem = s.mem := by
  unfold takeAgain
  refine mem_foldl (fun s b => ?_) _ _
  dsimp only
  repeat' split
  all_goals simp
@[simp] theorem mem_resumeCore (c : CoreId) (s : State) : (resumeCore c s).mem = s.mem := by
  unfold resumeCore
  simp
@[simp] theorem wf_putPages (pages : List (ℕ × ℕ)) (cells : Mem) (s : State) (h : s.mem.wf = true)
    : (putPages pages cells s).mem.wf = true := by
  unfold putPages
  try dsimp only
  repeat' (first
    | rfl
    | assumption
    | refine wf_foldl (fun s x h => ?_) _ _ ?_
    | split)
  all_goals grind -ring -linarith -lia [wf_blit]
@[simp] theorem wf_saveAt (c : CoreId) (l : Launch) (pages : List (ℕ × ℕ)) (s : State) (h : s.mem.wf = true)
    : (saveAt c l pages s).mem.wf = true := by
  simp [saveAt, h]
@[simp] theorem mem_restoreAt (c : CoreId) (x : Option Saved) (m : Mem) (s : State) : (restoreAt c x m s).mem = s.mem := by
  unfold restoreAt
  generalize restore x _ m = r
  obtain ⟨k, ls⟩ := r
  dsimp only
  rw [State.setCore_mem]
  exact mem_foldl (fun s y => State.updCore_mem _ _ _) _ _
theorem wf_saveStrand {c : CoreId} {l : Launch} {s : State} {t} (e : saveStrand c l s = .ok t) (h : s.mem.wf
    = true) : t.mem.wf = true := by
  obtain ⟨g, -, e⟩ := ok_of_bind e
  cases e
  exact wf_saveAt _ _ _ _ h
theorem mem_loadSaved {c : CoreId} {l : Launch} {x : Option Saved} {m : Mem} {s : State} {t}
    (e : loadSaved c l x m s = .ok t) : t.mem = s.mem := by
  unfold loadSaved at e
  split at e
  · cases e; exact mem_restoreAt _ _ _ _
  · cases e
theorem mem_loadPages {c : CoreId} {l : Launch} {g : List (ℕ × ℕ)} {s : State} {t} (e : loadPages c l g s = .ok t) :
    t.mem = s.mem := by
  unfold loadPages at e
  split at e
  · cases e
  · exact mem_loadSaved e
theorem mem_loadStrand {c : CoreId} {l : Launch} {s : State} {t} (e : loadStrand c l s = .ok t) : t.mem = s.mem := by
  obtain ⟨g, -, e⟩ := ok_of_bind e
  exact mem_loadPages e

/-! ## Machine/Priv.lean -/

@[simp] theorem mem_writePriv (n : PrivName) (v : W64) (s : State) : (writePriv n v s).mem = s.mem := by
  unfold writePriv
  (repeat' split) <;> simp [*]

/-! ## Machine/Sequencer.lean -/

@[simp] theorem mem_execBerthSwitch {P : Mem → Prop} (c : CoreId) (s : State) (h : P s.mem)
    : (execBerthSwitch c s).memAll P := by
  unfold execBerthSwitch
  try dsimp only
  repeat' (first | trivial | exact h | simp only [Out.memAll_next] | split)
  all_goals first
    | (simp [*]; done)
    | grind -ring -linarith -lia [State.setCore_mem]
@[simp] theorem mem_execStallExpiry {P : Mem → Prop} (c : CoreId) (b : BerthId) (s : State) (h : P s.mem)
    : (execStallExpiry c b s).memAll P := by
  unfold execStallExpiry
  try dsimp only
  repeat' (first | trivial | exact h | simp only [Out.memAll_next] | split)
  all_goals first
    | (simp [*]; done)
    | grind -ring -linarith -lia [State.updBerth_mem]
@[simp] theorem mem_wake (c : CoreId) (b : BerthId) (s : State) : (wake c b s).mem = s.mem := rfl
@[simp] theorem mem_wakeTrap (c : CoreId) (b : BerthId) (code : Code) (tval : W64) (s : State)
    : (wakeTrap c b code tval s).mem = s.mem := by
  simp [wakeTrap]
@[simp] theorem mem_execSleepcWake {P : Mem → Prop} (c : CoreId) (b : BerthId) (s : State) (h : P s.mem)
    : (execSleepcWake c b s).memAll P := by
  unfold execSleepcWake
  try dsimp only
  repeat' (first | trivial | exact h | simp only [Out.memAll_next] | split)
  all_goals first
    | (simp [*]; done)
    | grind -ring -linarith -lia [mem_wake]
@[simp] theorem mem_objectWake (c : CoreId) (b : BerthId) (bo : Fin 4096) (s : State) : (objectWake c b bo s).mem
    = s.mem := by
  unfold objectWake
  (repeat' split) <;> simp [*]
@[simp] theorem mem_execSleeppWake {P : Mem → Prop} (c : CoreId) (b : BerthId) (s : State) (h : P s.mem)
    : (execSleeppWake c b s).memAll P := by
  unfold execSleeppWake
  try dsimp only
  repeat' (first | trivial | exact h | simp only [Out.memAll_next] | split)
  all_goals first
    | (simp [*]; done)
    | grind -ring -linarith -lia [mem_objectWake, mem_wakeTrap]
@[simp] theorem mem_execWaitpWake {P : Mem → Prop} (c : CoreId) (b : BerthId) (s : State) (h : P s.mem)
    : (execWaitpWake c b s).memAll P := by
  unfold execWaitpWake
  try dsimp only
  repeat' (first | trivial | exact h | simp only [Out.memAll_next] | split)
  all_goals first
    | (simp [*]; done)
    | grind -ring -linarith -lia [mem_objectWake]
@[simp] theorem mem_execBarrierWake {P : Mem → Prop} (c : CoreId) (b : BerthId) (s : State) (h : P s.mem)
    : (execBarrierWake c b s).memAll P := by
  unfold execBarrierWake
  try dsimp only
  repeat' (first | trivial | exact h | simp only [Out.memAll_next] | split)
  all_goals first
    | (simp [*]; done)
    | grind -ring -linarith -lia [State.updBerth_mem, mem_wake]
@[simp] theorem mem_execBarrierWaitTimeout {P : Mem → Prop} (c : CoreId) (b : BerthId) (s : State) (h : P s.mem)
    : (execBarrierWaitTimeout c b s).memAll P := by
  unfold execBarrierWaitTimeout
  try dsimp only
  repeat' (first | trivial | exact h | simp only [Out.memAll_next] | split)
  all_goals first
    | (simp [*]; done)
    | grind -ring -linarith -lia [mem_wakeTrap]
@[simp] theorem mem_execTokinWake {P : Mem → Prop} (c : CoreId) (b : BerthId) (s : State) (h : P s.mem)
    : (execTokinWake c b s).memAll P := by
  unfold execTokinWake
  try dsimp only
  repeat' (first | trivial | exact h | simp only [Out.memAll_next] | split)
  all_goals first
    | (simp [*]; done)
    | grind -ring -linarith -lia [mem_wake, State.updCore_mem]
@[simp] theorem mem_execTokoutWake {P : Mem → Prop} (c : CoreId) (b : BerthId) (s : State) (h : P s.mem)
    : (execTokoutWake c b s).memAll P := by
  unfold execTokoutWake
  try dsimp only
  repeat' (first | trivial | exact h | simp only [Out.memAll_next] | split)
  all_goals first
    | (simp [*]; done)
    | grind -ring -linarith -lia [mem_wake, mem_enterToken]
@[simp] theorem mem_execIdleWake {P : Mem → Prop} (c : CoreId) (s : State) (h : P s.mem) : (execIdleWake c s).memAll P := by
  unfold execIdleWake
  rw [Out.memAll_next, mem_foldl]
  · exact h
  · intro s b; split <;> simp
@[simp] theorem mem_giveToken (tk : Tok) (c : CoreId) (s : State) : (giveToken tk c s).1.mem = s.mem := by
  unfold giveToken
  (repeat' split) <;> simp [*]
@[simp] theorem mem_deliverTo (tk : Tok) (cs : List CoreId) (s : State) : (deliverTo tk cs s).1.mem = s.mem := by
  induction cs generalizing s with
  | nil => rfl
  | cons c r ih => unfold deliverTo; dsimp only; rw [ih]; simp
@[simp] theorem mem_execTokenInboxRoom {P : Mem → Prop} (c : CoreId) (s : State) (h : P s.mem)
    : (execTokenInboxRoom c s).memAll P := by
  unfold execTokenInboxRoom
  try dsimp only
  repeat' (first | trivial | exact h | simp only [Out.memAll_next] | split)
  all_goals first
    | (simp [*]; done)
    | grind -ring -linarith -lia [mem_giveToken, State.setPart_mem]
@[simp] theorem mem_execDroopAlarm {P : Mem → Prop} (q : QuadId) (s : State) (h : P s.mem)
    : (execDroopAlarm q s).memAll P := by
  have hf : ((quadCores q).foldl (fun s c => s.updCore c (fun k =>
      { k.count 8 1 with drpCnt := if k.drpCnt = 0xFFFF then k.drpCnt else k.drpCnt + 1 })) (bump (hDroop q) 1 s)).mem = s.mem :=
    (mem_foldl (fun s c => by simp) _ _).trans (by simp)
  unfold execDroopAlarm
  dsimp only
  rw [Out.memAll_next]
  split
  · rw [State.setQuad_mem, hf]; exact h
  · rw [hf]; exact h
@[simp] theorem mem_execStretchEnd {P : Mem → Prop} (q : QuadId) (s : State) (h : P s.mem)
    : (execStretchEnd q s).memAll P := by
  unfold execStretchEnd
  try dsimp only
  repeat' (first | trivial | exact h | simp only [Out.memAll_next] | split)
  all_goals first
    | (simp [*]; done)
    | grind -ring -linarith -lia [State.setQuad_mem]
@[simp] theorem mem_execHalfRateWindowEnd {P : Mem → Prop} (q : QuadId) (s : State) (h : P s.mem)
    : (execHalfRateWindowEnd q s).memAll P := by
  unfold execHalfRateWindowEnd
  try dsimp only
  repeat' (first | trivial | exact h | simp only [Out.memAll_next] | split)
  all_goals first
    | (simp [*]; done)
    | grind -ring -linarith -lia [State.setQuad_mem]

/-! ## Machine/Gang.lean -/

@[simp] theorem wf_stopQueue (b : Block) (q : Fin 64) (seq : W16) (code : Byte) (det : W64) (s : State)
    (h : s.mem.wf = true) : (stopQueue b q seq code det s).mem.wf = true := by
  simp [stopQueue, h]
@[simp] theorem mem_retest (p : PartId) (s : State) : (retest p s).mem = s.mem := rfl
@[simp] theorem wf_complete (l : Launch) (status : ℕ) (fcode : Byte) (saved : Bool) (det : W64) (s : State)
    (h : s.mem.wf = true) : (complete l status fcode saved det s).mem.wf = true := by
  unfold complete
  grind -ring -linarith -lia [→ wf_State_writeVa, wf_stopQueue, mem_retest, wf_postInt]
@[simp] theorem mem_vacateAll (i : ℕ) (l : Launch) (s : State) : (vacateAll i l s).mem = s.mem := by
  unfold vacateAll
  try dsimp only
  repeat' (first
    | rfl
    | assumption
    | refine (mem_foldl (fun s x => ?_) _ _).trans ?_
    | split
    | simp only [State.updCore_mem])
  all_goals grind -ring -linarith -lia [State.updCore_mem]
@[simp] theorem mem_dropContext (l : Launch) (s : State) : (dropContext l s).mem = s.mem := by
  unfold dropContext
  try dsimp only
  repeat' (first
    | rfl
    | assumption
    | refine (mem_foldl (fun s x => ?_) _ _).trans ?_
    | split
    | simp only [State.setDie_mem])
  all_goals grind -ring -linarith -lia [State.setDie_mem]
@[simp] theorem mem_leave (i : ℕ) (l : Launch) (s : State) : (leave i l s).mem = s.mem := by
  simp [leave]
@[simp] theorem mem_unswap (x : PairId) (s : State) : (unswap x s).mem = s.mem := by
  unfold unswap
  dsimp only
  split <;> simp
@[simp] theorem mem_swapPair (w : PairId) (x : PairId) (s : State) : (swapPair w x s).mem = s.mem := by
  unfold swapPair
  grind -ring -linarith -lia [State.setPair_mem]
@[simp] theorem mem_assignQuad (q : QuadId) (s : State) : (assignQuad q s).mem = s.mem := by
  unfold assignQuad
  dsimp only
  rw [State.setQuad_mem, mem_foldl (fun s r => mem_swapPair _ _ _), mem_foldl (fun s x => mem_unswap _ _)]
@[simp] theorem wf_applyAdd (p : PartId) (s : State) (h : s.mem.wf = true) : (applyAdd p s).mem.wf = true := by
  unfold applyAdd
  dsimp only
  split
  · simp only [State.push_mem]
    refine wf_postInt _ _ _ _ _ _ _ (wf_foldl (fun s q h => ?_) _ _ (by simpa using h))
    split <;> simpa using h
  · exact h
@[simp] theorem wf_grow (p : PartId) (s : State) (h : s.mem.wf = true) : (grow p s).mem.wf = true := by
  unfold grow
  split
  · exact h
  · exact wf_applyAdd _ _ h
@[simp] theorem wf_endLaunch (i : ℕ) (status : ℕ) (fcode : Byte) (det : W64) (s : State) (h : s.mem.wf = true)
    : (endLaunch i status fcode det s).mem.wf = true := by
  unfold endLaunch
  split
  · exact h
  · exact wf_grow _ _ (by rw [State.push_mem]; exact wf_complete _ _ _ _ _ _ (by simpa using h))
@[simp] theorem mem_State_dropFifos (s : State) (c : CoreId) : (State.dropFifos s c).mem = s.mem := by
  unfold State.dropFifos
  try dsimp only
  repeat' (first
    | rfl
    | assumption
    | refine (mem_foldl (fun s x => ?_) _ _).trans ?_
    | split
    | simp only [State.updCore_mem])
  all_goals grind -ring -linarith -lia [State.updCore_mem]
@[simp] theorem mem_endGangs (s : State) : (endGangs s).mem = s.mem := by
  unfold endGangs
  try dsimp only
  repeat' (first
    | rfl
    | assumption
    | refine (mem_foldl (fun s x => ?_) _ _).trans ?_
    | split
    | simp only [State.setLaunch_mem])
  all_goals grind -ring -linarith -lia [State.setLaunch_mem]
@[simp] theorem wf_execCompletionWrite (i : ℕ) (s : State) (h : s.mem.wf = true)
    : (execCompletionWrite i s).memAll (fun m => m.wf = true) := by
  unfold execCompletionWrite
  try dsimp only
  repeat' (first | trivial | exact h | simp only [Out.memAll_next] | split)
  all_goals first
    | (simp [*]; done)
    | grind -ring -linarith -lia [wf_endLaunch]
@[simp] theorem mem_State_lockSend (s : State) (n : ℕ) (e : Ev) : (State.lockSend s n e).mem = s.mem := by
  unfold State.lockSend
  (repeat' split) <;> simp [*]
@[simp] theorem mem_execLockArrivalCount {P : Mem → Prop} (c : CoreId) (s : State) (h : P s.mem)
    : (execLockArrivalCount c s).memAll P := by
  unfold execLockArrivalCount
  try dsimp only
  repeat' (first | trivial | exact h | simp only [Out.memAll_next] | split)
  all_goals first
    | (simp [*]; done)
    | grind -ring -linarith -lia [State.setQuad_mem, State.setLaunch_mem, mem_State_lockSend]
@[simp] theorem mem_setTrel (i : ℕ) (l : Launch) (s : State) : (setTrel i l s).mem = s.mem := by
  unfold setTrel
  try dsimp only
  repeat' (first
    | rfl
    | assumption
    | refine (mem_foldl (fun s x => ?_) _ _).trans ?_
    | split
    | simp only [State.setLaunch_mem, mem_State_lockSend])
  all_goals grind -ring -linarith -lia [State.setLaunch_mem, mem_State_lockSend]
@[simp] theorem mem_masterWord (i : ℕ) (l : Launch) (t : Option W64) (s : State) : (masterWord i l t s).mem = s.mem :=
  mem_foldl (fun s x => mem_State_lockSend _ _ _) _ _
@[simp] theorem mem_execLockReportReceived {P : Mem → Prop} (i : ℕ) (m : BitVec 6 × Bool) (d : DieId) (s : State)
    (h : P s.mem) : (execLockReportReceived i m d s).memAll P := by
  unfold execLockReportReceived
  dsimp only
  repeat' (first | exact h | split)
  all_goals
    rw [Out.memAll_next]
    simpa using h
@[simp] theorem mem_execTrelReceived {P : Mem → Prop} (i : ℕ) (d : DieId) (trel : W64) (s : State) (h : P s.mem)
    : (execTrelReceived i d trel s).memAll P := by
  unfold execTrelReceived
  try dsimp only
  repeat' (first | trivial | exact h | simp only [Out.memAll_next] | split)
  all_goals first
    | (simp [*]; done)
    | grind -ring -linarith -lia [State.setLaunch_mem]
@[simp] theorem mem_passToken (p : PartId) (tk : Tok) (s : State) : (passToken p tk s).1.mem = s.mem := by
  unfold passToken
  grind -ring -linarith -lia [mem_deliverTo]
@[simp] theorem mem_passTokens (p : PartId) (f : Tok → Bool) (s : State) : (passTokens p f s).mem = s.mem := by
  unfold passTokens
  dsimp only
  simp only [State.setPart_mem]
  refine (mem_foldl2 (fun a t => ?_) _ _).trans rfl
  split
  · exact mem_passToken _ _ _
  · rfl
@[simp] theorem mem_stopGang (l : Launch) (s : State) : (stopGang l s).mem = s.mem := by
  unfold stopGang
  try dsimp only
  repeat' (first
    | rfl
    | assumption
    | refine (mem_foldl (fun s x => ?_) _ _).trans ?_
    | split
    | simp only [State.updCore_mem])
  all_goals grind -ring -linarith -lia [State.updCore_mem]
@[simp] theorem mem_execPreemptionRequest {P : Mem → Prop} (i : ℕ) (s : State) (h : P s.mem)
    : (execPreemptionRequest i s).memAll P := by
  unfold execPreemptionRequest
  try dsimp only
  repeat' (first | trivial | exact h | simp only [Out.memAll_next] | split)
  all_goals first
    | (simp [*]; done)
    | grind -ring -linarith -lia [mem_stopGang]
@[simp] theorem mem_takeDeferred (l : Launch) (ds : List DieId) (s : State) : (takeDeferred l ds s).mem = s.mem :=
  mem_foldl (fun s c => State.updCore_mem _ _ _) _ _
@[simp] theorem mem_releaseDies (l : Launch) (ds : List DieId) (s : State) : (releaseDies l ds s).mem = s.mem := by
  unfold releaseDies
  try dsimp only
  repeat' (first
    | rfl
    | assumption
    | refine (mem_foldl (fun s x => ?_) _ _).trans ?_
    | split
    | simp only [State.updCore_mem, State.setQuad_mem])
  all_goals grind -ring -linarith -lia [State.updCore_mem, State.setQuad_mem]
@[simp] theorem wf_execLockRelease (i : ℕ) (s : State) (h : s.mem.wf = true)
    : (execLockRelease i s).memAll (fun m => m.wf = true) := by
  unfold execLockRelease
  split
  · exact h
  · dsimp only
    split
    · rename_i l _ _
      generalize hu : (if l.pre.isSome = true then _ else _ : State) = u
      have hw : u.mem.wf = true := by
        rw [← hu]
        split
        · rw [mem_takeDeferred, mem_releaseDies]
          split <;> simpa using h
        · rw [mem_releaseDies]
          split <;> simpa using h
      split
      · exact wf_applyAdd _ _ hw
      · exact hw
    · exact h
@[simp] theorem mem_farRelease (i : ℕ) (l : Launch) (d : DieId) (n : Fin 96) (s : State)
    : (farRelease i l d n s).mem = s.mem := by
  unfold farRelease
  (repeat' split) <;> simp [*]
@[simp] theorem mem_execBarrierReleaseMessage {P : Mem → Prop} (i : ℕ) (d : DieId) (n : Fin 96) (s : State)
    (h : P s.mem) : (execBarrierReleaseMessage i d n s).memAll P := by
  unfold execBarrierReleaseMessage
  split
  · exact h
  · rw [Out.memAll_next, mem_foldl (fun s x => by simp), mem_farRelease]
    exact h
@[simp] theorem mem_stageTokens (l : Launch) (s : State) : (stageTokens l s).mem = s.mem := by
  unfold stageTokens
  (repeat' split) <;> simp [*]
@[simp] theorem mem_execStartingLockRelease {P : Mem → Prop} (i : ℕ) (s : State) (h : P s.mem)
    : (execStartingLockRelease i s).memAll P := by
  unfold execStartingLockRelease
  split
  · exact h
  · split
    · simp only [Out.memAll_next, State.push_mem, mem_stageTokens, State.setLaunch_mem]
      rw [mem_foldl (fun s x => by simp)]
      exact h
    · exact h
@[simp] theorem wf_snapWrite (i : ℕ) (l : Launch) (c : CoreId) (va : W64) (s : State) (h : s.mem.wf = true)
    : (snapWrite i l c va s).mem.wf = true := by
  unfold snapWrite
  grind -ring -linarith -lia [wf_endLaunch, wf_launchFault, mem_resumeCore, wf_saveAt, State.updCore_mem]
theorem wf_saveAll {l : Launch} {s : State} {t} (e : saveAll l s = .ok t) (h : s.mem.wf = true) : t.mem.wf = true := by
  unfold saveAll at e
  generalize l.cores = cs at e
  induction cs generalizing s with
  | nil => cases e; exact h
  | cons c r ih =>
    rw [List.foldl_cons] at e
    dsimp only at e
    cases hi : imageErr s c with
    | some a =>
      rw [hi, foldl_stop (fun _ _ => rfl)] at e
      cases e
    | none =>
      rw [hi] at e
      dsimp only at e
      cases hx : saveStrand c l s with
      | ok t' => rw [hx] at e; exact ih (wf_saveStrand hx h) e
      | error f =>
        rw [hx, foldl_stop (fun _ _ => rfl)] at e
        cases e
@[simp] theorem wf_unhandledRecord (l : Launch) (s : State) (h : s.mem.wf = true) : (unhandledRecord l s).mem.wf
    = true := by
  simp [unhandledRecord, h]
@[simp] theorem wf_discard (i : ℕ) (l : Launch) (s : State) (h : s.mem.wf = true) : (discard i l s).mem.wf = true := by
  unfold discard
  (repeat' split) <;> simp [*]
@[simp] theorem wf_saved (i : ℕ) (l : Launch) (w : PreWhy) (s : State) (h : s.mem.wf = true)
    : (saved i l w s).mem.wf = true := by
  unfold saved
  cases w
  · exact wf_grow _ _ (by simpa using h)
  · exact wf_discard _ _ _ h
  · exact wf_complete _ _ _ _ _ _ (by simpa using h)
  · exact wf_complete _ _ _ _ _ _ (by simpa using h)
  · exact wf_complete _ _ _ _ _ _ (wf_unhandledRecord _ _ (by simpa using h))
@[simp] theorem wf_execImageWritten (i : ℕ) (s : State) (h : s.mem.wf = true)
    : (execImageWritten i s).memAll (fun m => m.wf = true) := by
  unfold execImageWritten
  try dsimp only
  repeat' (first | trivial | exact h | simp only [Out.memAll_next] | split)
  all_goals first
    | (simp [*]; done)
    | grind -ring -linarith -lia [wf_snapWrite, → wf_saveAll, wf_endLaunch, wf_launchFault, wf_saved]
@[simp] theorem mem_sit (i : ℕ) (l : Launch) (x : Seat) (s : State) : (sit i l x s).mem = s.mem := by
  unfold sit
  try dsimp only
  repeat' (first
    | rfl
    | assumption
    | refine (mem_foldl (fun s x => ?_) _ _).trans ?_
    | split
    | simp only [State.updCore_mem])
  all_goals grind -ring -linarith -lia [State.updCore_mem]
theorem mem_loadAll {l : Launch} {s : State} {t} (e : loadAll l s = .ok t) : t.mem = s.mem := by
  unfold loadAll at e
  generalize l.cores = cs at e
  induction cs generalizing s with
  | nil => cases e; rfl
  | cons c r ih =>
    rw [List.foldl_cons] at e
    dsimp only at e
    cases hx : loadStrand c l s with
    | ok t' => rw [hx] at e; exact (ih e).trans (mem_loadStrand hx)
    | error f =>
      rw [hx, foldl_stop (fun _ _ => rfl)] at e
      cases e
@[simp] theorem mem_goOn (i : ℕ) (l : Launch) (s : State) : (goOn i l s).mem = s.mem := by
  unfold goOn
  have hf : ∀ l : List CoreId, (l.foldl (fun s' c => resumeCore c (s'.updCore c (fun k => { k with beat := s'.cyc
      }))) s).mem = s.mem :=
    fun l => mem_foldl (fun s c => by simp) _ _
  split
  · simp
  · dsimp only
    rw [mem_stageTokens]
    split
    · rw [mem_setTrel, hf]
    · exact hf _
@[simp] theorem wf_execGangResume (i : ℕ) (s : State) (h : s.mem.wf = true)
    : (execGangResume i s).memAll (fun m => m.wf = true) := by
  unfold execGangResume
  split
  · exact h
  · rename_i l hl
    split
    · split
      · exact h
      · dsimp only
        have hs : (l.quads.foldl (fun s q => s.setQuad q (s.quad q).slackReset)
            (l.seats.foldl (fun s x => sit i l x s) s)).mem = s.mem :=
          (mem_foldl (fun s x => by simp) _ _).trans (mem_foldl (fun s x => by simp) _ _)
        split
        · exact wf_endLaunch _ _ _ _ _ (wf_launchFault _ _ _ _ _ (by rw [hs]; exact h))
        · rename_i t ht
          rw [Out.memAll_next, State.push_mem, State.setLaunch_mem, mem_loadAll ht, hs]
          exact h
    · split
      · dsimp only
        rw [Out.memAll_next, State.push_mem, mem_goOn, State.setLaunch_mem]
        exact h
      · exact h
@[simp] theorem mem_execGctlResume {P : Mem → Prop} (b : Block) (q : Fin 64) (seq : W16) (s : State) (h : P s.mem)
    : (execGctlResume b q seq s).memAll P := by
  unfold execGctlResume
  try dsimp only
  repeat' (first | trivial | exact h | simp only [Out.memAll_next] | split)
  all_goals first
    | (simp [*]; done)
    | grind -ring -linarith -lia [State.push_mem, State.setLaunch_mem]
@[simp] theorem wf_execGctlDiscard (b : Block) (q : Fin 64) (seq : W16) (s : State) (h : s.mem.wf = true)
    : (execGctlDiscard b q seq s).memAll (fun m => m.wf = true) := by
  unfold execGctlDiscard
  try dsimp only
  repeat' (first | trivial | exact h | simp only [Out.memAll_next] | split)
  all_goals first
    | (simp [*]; done)
    | grind -ring -linarith -lia [wf_discard]
@[simp] theorem wf_fire (i : ℕ) (l : Launch) (det : W64) (s : State) (h : s.mem.wf = true) : (fire i l det s).mem.wf
    = true := by
  simp [fire, h]
@[simp] theorem wf_execWatchdogTest (s : State) (h : s.mem.wf = true) : (execWatchdogTest s).memAll (fun m => m.wf
    = true) := by
  unfold execWatchdogTest
  try dsimp only
  repeat' (first
    | rfl
    | assumption
    | refine wf_foldl (fun s x h => ?_) _ _ ?_
    | split)
  all_goals grind -ring -linarith -lia [wf_fire]
@[simp] theorem mem_tellQueued (c : CoreId) (q : QEntry) (e : Err) (s : State) : (tellQueued c q e s).mem = s.mem := by
  unfold tellQueued
  refine mem_foldl (fun s t => ?_) _ _
  dsimp only
  repeat' split
  all_goals simp
@[simp] theorem wf_tellObjects (c : CoreId) (s : State) (h : s.mem.wf = true) : (tellObjects c s).mem.wf = true := by
  unfold tellObjects
  dsimp only
  rw [mem_foldl (fun s q => mem_sendCount _ _ _ _ _), mem_foldl (fun s q => ?_), mem_foldl (fun s q => mem_sendCount _ _ _ _ _)]
  · refine wf_foldl (fun s y h => ?_) _ _ h
    split
    · refine wf_foldl (fun s x h => ?_) _ _ (by simpa using h)
      repeat' split
      · exact h
      · exact wf_endTarget _ _ _ _ _ _ h
      · exact wf_endTarget _ _ _ _ _ _ h
    · exact h
  · split
    · rfl
    · exact mem_tellQueued _ _ _ _
@[simp] theorem wf_abortGang (i : ℕ) (l : Launch) (s : State) (h : s.mem.wf = true) : (abortGang i l s).mem.wf = true := by
  unfold abortGang
  exact wf_endLaunch _ _ _ _ _ (wf_foldl (fun s c h => wf_tellObjects _ _ h) _ _ (wf_postFault _ _ _ h))
@[simp] theorem wf_execGangBarrierTimeout (i : ℕ) (s : State) (h : s.mem.wf = true)
    : (execGangBarrierTimeout i s).memAll (fun m => m.wf = true) := by
  unfold execGangBarrierTimeout
  try dsimp only
  repeat' (first | trivial | exact h | simp only [Out.memAll_next] | split)
  all_goals first
    | (simp [*]; done)
    | grind -ring -linarith -lia [wf_abortGang]

/-! ## Machine/Power.lean -/

@[simp] theorem mem_execEstimatorWindow {P : Mem → Prop} (q : QuadId) (s : State) (h : P s.mem)
    : (execEstimatorWindow q s).memAll P := by
  unfold execEstimatorWindow
  try dsimp only
  repeat' (first | trivial | exact h | simp only [Out.memAll_next] | split)
  all_goals first
    | (simp [*]; done)
    | grind -ring -linarith -lia [State.setQuad_mem, State.push_mem]
@[simp] theorem mem_trimRdc (s : State) : (trimRdc s).mem = s.mem :=
  mem_foldl (fun s p => mem_foldl (fun s d => mem_evictExcess _ _ _ _) _ _) _ _
@[simp] theorem mem_intervalGrants (s : State) : (intervalGrants s).mem = s.mem := rfl
@[simp] theorem mem_execIntervalBoundary {P : Mem → Prop} (s : State) (h : P s.mem)
    : (execIntervalBoundary s).memAll P := by
  simp [execIntervalBoundary, h]
@[simp] theorem mem_execThermalCeiling {P : Mem → Prop} (z : Fin 13) (s : State) (h : P s.mem)
    : (execThermalCeiling z s).memAll P := by
  simp [execThermalCeiling, h]
@[simp] theorem mem_execVecStepChange {P : Mem → Prop} (up : Bool) (s : State) (h : P s.mem)
    : (execVecStepChange up s).memAll P := by
  unfold execVecStepChange
  try dsimp only
  repeat' (first | trivial | exact h | simp only [Out.memAll_next] | split)
  all_goals first
    | (simp [*]; done)
    | grind -ring -linarith -lia [mem_State_later, State.push_mem]
@[simp] theorem mem_execClockStopEnd {P : Mem → Prop} (s : State) (h : P s.mem) : (execClockStopEnd s).memAll P := by
  unfold execClockStopEnd
  try dsimp only
  repeat' (first | trivial | exact h | simp only [Out.memAll_next] | split)
  all_goals first
    | (simp [*]; done)
    | grind -ring -linarith -lia
@[simp] theorem mem_execThermalTrip {P : Mem → Prop} (z : Fin 13) (s : State) (h : P s.mem)
    : (execThermalTrip z s).memAll P := by
  simp [execThermalTrip, h]
@[simp] theorem mem_execQuadPowerGate {P : Mem → Prop} (q : QuadId) (s : State) (h : P s.mem)
    : (execQuadPowerGate q s).memAll P := by
  unfold execQuadPowerGate
  try dsimp only
  repeat' (first | trivial | exact h | simp only [Out.memAll_next] | split)
  all_goals first
    | (simp [*]; done)
    | grind -ring -linarith -lia [State.setQuad_mem]
@[simp] theorem mem_enterArbiter (q : QuadId) (s : State) : (enterArbiter q s).mem = s.mem := rfl
@[simp] theorem mem_execWakeRequest {P : Mem → Prop} (q : QuadId) (s : State) (h : P s.mem)
    : (execWakeRequest q s).memAll P := by
  unfold execWakeRequest
  try dsimp only
  repeat' (first | trivial | exact h | simp only [Out.memAll_next] | split)
  all_goals first
    | (simp [*]; done)
    | grind -ring -linarith -lia [mem_enterArbiter, mem_State_later, State.setQuad_mem]
@[simp] theorem mem_execWakeHoldExpiry {P : Mem → Prop} (q : QuadId) (s : State) (h : P s.mem)
    : (execWakeHoldExpiry q s).memAll P := by
  unfold execWakeHoldExpiry
  try dsimp only
  repeat' (first | trivial | exact h | simp only [Out.memAll_next] | split)
  all_goals first
    | (simp [*]; done)
    | grind -ring -linarith -lia [mem_enterArbiter]
@[simp] theorem mem_execInrushAdmit {P : Mem → Prop} (d : DieId) (s : State) (h : P s.mem)
    : (execInrushAdmit d s).memAll P := by
  unfold execInrushAdmit
  try dsimp only
  repeat' (first | trivial | exact h | simp only [Out.memAll_next] | split)
  all_goals first
    | (simp [*]; done)
    | grind -ring -linarith -lia [State.setDie_mem, mem_State_later, State.setQuad_mem]
@[simp] theorem mem_execRailsStable {P : Mem → Prop} (q : QuadId) (s : State) (h : P s.mem)
    : (execRailsStable q s).memAll P := by
  unfold execRailsStable
  try dsimp only
  repeat' (first | trivial | exact h | simp only [Out.memAll_next] | split)
  all_goals first
    | (simp [*]; done)
    | grind -ring -linarith -lia [State.setQuad_mem, State.setDie_mem, State.push_mem]

/-! ## Machine/Launch.lean -/

@[simp] theorem mem_State_setQueue (s : State) (b : Block) (q : Fin 64) (x : Queue) : (State.setQueue s b q x).mem
    = s.mem := by
  simp [State.setQueue]
@[simp] theorem mem_readLater (b : Block) (q : Fin 64) (s : State) : (readLater b q s).mem = s.mem := by
  unfold readLater
  (repeat' split) <;> simp [*]
@[simp] theorem wf_execQtailWrite (b : Block) (q : Fin 64) (v : W16) (s : State) (h : s.mem.wf = true)
    : (execQtailWrite b q v s).memAll (fun m => m.wf = true) := by
  unfold execQtailWrite
  try dsimp only
  repeat' (first | trivial | exact h | simp only [Out.memAll_next] | split)
  all_goals first
    | (simp [*]; done)
    | grind -ring -linarith -lia [mem_retest, mem_State_setQueue, wf_stopQueue, mem_readLater]
@[simp] theorem wf_refuseLaunch (i : ℕ) (l : Launch) (status : ℕ) (code : Byte) (det addr : W64) (s : State)
    (h : s.mem.wf = true) : (refuseLaunch i l status code det addr s).mem.wf = true := by
  unfold refuseLaunch
  dsimp only
  split
  · exact wf_stopQueue _ _ _ _ _ _ (wf_launchFault _ _ _ _ _ (by simpa using h))
  · rw [State.push_mem]
    exact wf_complete _ _ _ _ _ _ (wf_launchFault _ _ _ _ _ (by simpa using h))
@[simp] theorem mem_applyPrepare (i : ℕ) (l : Launch) (x : Prepare) (s : State) : (applyPrepare i l x s).mem = s.mem := by
  unfold applyPrepare
  grind -ring -linarith -lia [State.setLaunch_mem, State.push_mem, mem_State_later]
@[simp] theorem mem_takePrepare (i : ℕ) (s : State) : (takePrepare i s).mem = s.mem := by
  unfold takePrepare
  (repeat' split) <;> simp [*]
@[simp] theorem wf_enterLaunch (l : Launch) (s : State) (h : s.mem.wf = true) : (enterLaunch l s).mem.wf = true := by
  unfold enterLaunch
  grind -ring -linarith -lia [wf_refuseLaunch, mem_State_draw, mem_takePrepare, State.push_mem, State.setLaunch_mem]
@[simp] theorem wf_execSlotRead (b : Block) (q : Fin 64) (s : State) (h : s.mem.wf = true)
    : (execSlotRead b q s).memAll (fun m => m.wf = true) := by
  unfold execSlotRead
  try dsimp only
  repeat' (first | trivial | exact h | simp only [Out.memAll_next] | split)
  all_goals first
    | (simp [*]; done)
    | grind -ring -linarith -lia [→ mem_State_readVa, wf_stopQueue, mem_State_setQueue, mem_readLater, wf_enterLaunch]
@[simp] theorem wf_execDependenceTest (i : ℕ) (s : State) (h : s.mem.wf = true)
    : (execDependenceTest i s).memAll (fun m => m.wf = true) := by
  unfold execDependenceTest
  try dsimp only
  repeat' (first | trivial | exact h | simp only [Out.memAll_next] | split)
  all_goals first
    | (simp [*]; done)
    | grind -ring -linarith -lia [State.push_mem, State.setLaunch_mem, wf_refuseLaunch]
@[simp] theorem mem_refill (p : PartId) (s : State) : (refill p s).mem = s.mem := rfl
@[simp] theorem mem_serve (p : PartId) (x : ℕ × Launch) (s : State) : (serve p x s).mem = s.mem := by
  simp [serve]
@[simp] theorem mem_execTurnGrant {P : Mem → Prop} (p : PartId) (s : State) (h : P s.mem)
    : (execTurnGrant p s).memAll P := by
  unfold execTurnGrant
  try dsimp only
  repeat' (first | trivial | exact h | simp only [Out.memAll_next] | split)
  all_goals first
    | (simp [*]; done)
    | grind -ring -linarith -lia [State.push_mem, State.setLaunch_mem, mem_serve, mem_refill]
@[simp] theorem mem_bindTiles (p : PartId) (ctx : Byte) (ts : List (Fin 1024)) (s : State)
    : (bindTiles p ctx ts s).mem = s.mem := rfl
@[simp] theorem mem_reserve (i : ℕ) (l : Launch) (qs : List QuadId) (s : State) : (reserve i l qs s).mem = s.mem := by
  unfold reserve
  try dsimp only
  repeat' (first
    | rfl
    | assumption
    | refine (mem_foldl (fun s x => ?_) _ _).trans ?_
    | split
    | simp only [State.setLaunch_mem, State.setQuad_mem, mem_bindTiles, State.push_mem])
  all_goals grind -ring -linarith -lia [State.setLaunch_mem, State.setQuad_mem, mem_bindTiles, State.push_mem]
@[simp] theorem mem_askPriority (x : ℕ × Launch) (s : State) : (askPriority x s).mem = s.mem := by
  simp [askPriority]
@[simp] theorem mem_preemptFor (l : Launch) (s : State) : (preemptFor l s).mem = s.mem := by
  unfold preemptFor
  try dsimp only
  repeat' (first
    | rfl
    | assumption
    | refine (mem_foldl (fun s x => ?_) _ _).trans ?_
    | split
    | simp only [mem_askPriority])
  all_goals grind -ring -linarith -lia [mem_askPriority]
@[simp] theorem mem_preemptHeld (i : ℕ) (l : Launch) (s : State) : (preemptHeld i l s).mem = s.mem := by
  unfold preemptHeld
  try dsimp only
  repeat' (first
    | rfl
    | assumption
    | refine (mem_foldl (fun s x => ?_) _ _).trans ?_
    | split
    | simp only [mem_askPriority])
  all_goals grind -ring -linarith -lia [mem_askPriority]
@[simp] theorem mem_beginLoads (p : PartId) (s : State) : (beginLoads p s).mem = s.mem := by
  unfold beginLoads
  try dsimp only
  repeat' (first
    | rfl
    | assumption
    | refine (mem_foldl (fun s x => ?_) _ _).trans ?_
    | split
    | simp only [mem_State_later, State.setLaunch_mem])
  all_goals grind -ring -linarith -lia [mem_State_later, State.setLaunch_mem]
@[simp] theorem mem_execPlacement {P : Mem → Prop} (p : PartId) (s : State) (h : P s.mem)
    : (execPlacement p s).memAll P := by
  unfold execPlacement
  try dsimp only
  repeat' (first | trivial | exact h | simp only [Out.memAll_next] | split)
  all_goals first
    | (simp [*]; done)
    | grind -ring -linarith -lia [mem_beginLoads, State.push_mem, mem_preemptHeld, State.setLaunch_mem, mem_reserve,
        mem_preemptFor]
theorem mem_loadImages {i : ℕ} {l : Launch} {bytes : Mem} {s : State} {z : List DieId} {t}
    (e : loadImages i l bytes s z = some t) : t.mem = s.mem := by
  induction z generalizing s with
  | nil => cases e; rfl
  | cons d r ih =>
    unfold loadImages at e
    split at e
    · exact (ih e).trans (by simp)
    · cases e
@[simp] theorem mem_startGang (i : ℕ) (l : Launch) (s : State) : (startGang i l s).mem = s.mem := by
  unfold startGang
  grind -ring -linarith -lia [State.setLaunch_mem, State.push_mem, mem_State_later]
@[simp] theorem wf_execLoadingComplete (i : ℕ) (s : State) (h : s.mem.wf = true)
    : (execLoadingComplete i s).memAll (fun m => m.wf = true) := by
  unfold execLoadingComplete
  repeat' (first | exact h | split)
  · exact wf_endLaunch _ _ _ _ _ (wf_launchFault _ _ _ _ _ h)
  · rename_i t hl
    simp only [Out.memAll_next, mem_startGang]
    rw [mem_foldl, mem_loadImages hl]
    · exact h
    · intro s x
      rw [mem_foldl (fun s x => by simp)]
      simp
@[simp] theorem wf_execCopyLaunch (i : ℕ) (s : State) (h : s.mem.wf = true)
    : (execCopyLaunch i s).memAll (fun m => m.wf = true) := by
  unfold execCopyLaunch
  try dsimp only
  repeat' (first | trivial | exact h | simp only [Out.memAll_next] | split)
  all_goals first
    | (simp [*]; done)
    | grind -ring -linarith -lia [→ mem_State_readVa, wf_refuseLaunch, State.setLaunch_mem, → wf_State_writeVa, mem_State_later]
@[simp] theorem wf_prepFail (i : ℕ) (s : State) (h : s.mem.wf = true) : (prepFail i s).mem.wf = true := by
  unfold prepFail
  (repeat' split) <;> simp [*]
@[simp] theorem mem_execPrepare {P : Mem → Prop} (i : ℕ) (gid : W32) (tlim : W64) (gang : ℕ) (heat : ℕ) (s : State)
    (h : P s.mem) : (execPrepare i gid tlim gang heat s).memAll P := by
  unfold execPrepare
  try dsimp only
  repeat' (first | trivial | exact h | simp only [Out.memAll_next] | split)
  all_goals first
    | (simp [*]; done)
    | grind -ring -linarith -lia [mem_applyPrepare]
@[simp] theorem wf_execPrepareReply (i : ℕ) (rank : Fin 64) (ack : Option (BitVec 4)) (s : State) (h : s.mem.wf
    = true) : (execPrepareReply i rank ack s).memAll (fun m => m.wf = true) := by
  unfold execPrepareReply
  try dsimp only
  repeat' (first | trivial | exact h | simp only [Out.memAll_next] | split)
  all_goals first
    | (simp [*]; done)
    | grind -ring -linarith -lia [wf_prepFail, mem_State_later, State.setLaunch_mem]
@[simp] theorem mem_execCommit {P : Mem → Prop} (gid : W32) (tc : W64) (s : State) (h : P s.mem)
    : (execCommit gid tc s).memAll P := by
  unfold execCommit
  rw [Out.memAll_next, mem_foldl (fun s c => by simp)]
  exact h
@[simp] theorem wf_execAbort (gid : W32) (s : State) (h : s.mem.wf = true) : (execAbort gid s).memAll (fun m => m.wf
    = true) := by
  unfold execAbort
  try dsimp only
  repeat' (first
    | rfl
    | assumption
    | refine wf_foldl (fun s x h => ?_) _ _ ?_
    | split)
  all_goals grind -ring -linarith -lia [wf_prepFail, wf_abortGang]
@[simp] theorem wf_execTlimExpiry (i : ℕ) (s : State) (h : s.mem.wf = true)
    : (execTlimExpiry i s).memAll (fun m => m.wf = true) := by
  unfold execTlimExpiry
  try dsimp only
  repeat' (first | trivial | exact h | simp only [Out.memAll_next] | split)
  all_goals first
    | (simp [*]; done)
    | grind -ring -linarith -lia [wf_prepFail, wf_abortGang]

/-! ## Machine/Partition.lean -/

@[simp] theorem mem_enableReads (p : PartId) (s : State) : (enableReads p s).mem = s.mem := by
  unfold enableReads
  refine mem_foldl (fun s b => ?_) _ _
  dsimp only
  split <;> simp
@[simp] theorem mem_execPartitionTableWrite {P : Mem → Prop} (p : PartId) (rp : PtReg) (v : W64) (s : State)
    (h : P s.mem) : (execPartitionTableWrite p rp v s).memAll P := by
  unfold execPartitionTableWrite
  dsimp only
  repeat' split
  all_goals simpa using h
@[simp] theorem wf_execAddTwinWrite (p : PartId) (rp : PtReg) (v : W64) (s : State) (h : s.mem.wf = true)
    : (execAddTwinWrite p rp v s).memAll (fun m => m.wf = true) := by
  unfold execAddTwinWrite
  try dsimp only
  repeat' (first | trivial | exact h | simp only [Out.memAll_next] | split)
  all_goals first
    | (simp [*]; done)
    | grind -ring -linarith -lia [State.setPart_mem, wf_applyAdd]
@[simp] theorem wf_execRelTwinWrite (p : PartId) (rp : PtReg) (v : W64) (deadline : W64) (s : State) (h : s.mem.wf
    = true) : (execRelTwinWrite p rp v deadline s).memAll (fun m => m.wf = true) := by
  unfold execRelTwinWrite
  try dsimp only
  repeat' (first | trivial | exact h | simp only [Out.memAll_next] | split)
  all_goals first
    | (simp [*]; done)
    | grind -ring -linarith -lia [State.setPart_mem, wf_postInt, mem_State_later]
@[simp] theorem wf_drain (i : ℕ) (s : State) (h : s.mem.wf = true) : (drain i s).mem.wf = true := by
  unfold drain
  (repeat' split) <;> simp [*]
@[simp] theorem wf_beginRelease (p : PartId) (s : State) (h : s.mem.wf = true) : (beginRelease p s).mem.wf = true := by
  unfold beginRelease
  try dsimp only
  repeat' (first
    | rfl
    | assumption
    | refine wf_foldl (fun s x h => ?_) _ _ ?_
    | split
    | simp only [State.setPart_mem])
  all_goals grind -ring -linarith -lia [State.setPart_mem, wf_drain]
@[simp] theorem wf_execRszackWrite (p : PartId) (rid : W16) (s : State) (h : s.mem.wf = true)
    : (execRszackWrite p rid s).memAll (fun m => m.wf = true) := by
  unfold execRszackWrite
  try dsimp only
  repeat' (first | trivial | exact h | simp only [Out.memAll_next] | split)
  all_goals first
    | (simp [*]; done)
    | grind -ring -linarith -lia [wf_beginRelease]
@[simp] theorem wf_execResizeDeadline (p : PartId) (s : State) (h : s.mem.wf = true)
    : (execResizeDeadline p s).memAll (fun m => m.wf = true) := by
  unfold execResizeDeadline
  try dsimp only
  repeat' (first | trivial | exact h | simp only [Out.memAll_next] | split)
  all_goals first
    | (simp [*]; done)
    | grind -ring -linarith -lia [wf_beginRelease]
@[simp] theorem mem_dropTlb (f : TlbE → Bool) (s : State) : (dropTlb f s).mem = s.mem := rfl
@[simp] theorem mem_dropImages (p : PartId) (m : Masks) (s : State) : (dropImages p m s).mem = s.mem := by
  unfold dropImages
  try dsimp only
  repeat' (first
    | rfl
    | assumption
    | refine (mem_foldl (fun s x => ?_) _ _).trans ?_
    | split
    | simp only [State.setDie_mem])
  all_goals grind -ring -linarith -lia [State.setDie_mem]
@[simp] theorem mem_enterGate (n : Nat) (m : Masks) (s : State) : (enterGate n m s).mem = s.mem := by
  unfold enterGate
  exact mem_foldl (fun s r => by simp) _ _
/-- What each resource that enters the gate leaves as it is stays as it is. -/
theorem enterGate_keeps {α : Type} (g : State → α) (h : ∀ (s : State) (r : Resource) (n : Nat),
    g ({ s with scrubbing := s.scrubbing ++ [r] }.later n (.scrubGateDone r 0)) = g s) (n : Nat) (m : Masks) (s : State) :
    g (enterGate n m s) = g s := by
  unfold enterGate
  induction m.list generalizing s with
  | nil => rfl
  | cons r l ih => rw [List.foldl_cons, ih, h]
@[simp] theorem enterGate_boot (n : Nat) (m : Masks) (s : State) : (enterGate n m s).boot = s.boot :=
  enterGate_keeps State.boot (fun _ _ _ => rfl) n m s
@[simp] theorem enterGate_pcieUp (n : Nat) (m : Masks) (s : State) : (enterGate n m s).pcieUp = s.pcieUp :=
  enterGate_keeps State.pcieUp (fun _ _ _ => rfl) n m s
@[simp] theorem mem_finishRelease (p : PartId) (s : State) : (finishRelease p s).mem = s.mem := by
  unfold finishRelease
  try dsimp only
  repeat' (first
    | rfl
    | assumption
    | refine (mem_foldl (fun s x => ?_) _ _).trans ?_
    | split
    | simp only [State.setPart_mem, mem_dropImages, mem_dropTlb, mem_enterGate])
  all_goals grind -ring -linarith -lia [State.setPart_mem, mem_dropImages, mem_dropTlb, mem_enterGate]
@[simp] theorem mem_finishReleases (s : State) : (finishReleases s).mem = s.mem := by
  exact mem_foldl (fun s p => by simp) _ _
@[simp] theorem mem_dropLines (f : ℕ → Bool) (s : State) : (dropLines f s).mem = s.mem := rfl
@[simp] theorem mem_gatePair (tk : PairId) (fail : Bool) (s : State) : (gatePair tk fail s).mem = s.mem := by
  unfold gatePair
  (repeat' split) <;> simp [*]
@[simp] theorem mem_gateStorage (q : QuadId) (s : State) : (gateStorage q s).mem = s.mem := by
  unfold gateStorage
  try dsimp only
  repeat' (first
    | rfl
    | assumption
    | refine (mem_foldl (fun s x => ?_) _ _).trans ?_
    | split
    | simp only [State.updCore_mem, State.push_mem])
  all_goals grind -ring -linarith -lia [State.updCore_mem, State.push_mem]
@[simp] theorem wf_scrub (x : Resource) (fails : W32) (s : State) (h : s.mem.wf = true) : (scrub x fails s).mem.wf
    = true := by
  unfold scrub
  try dsimp only
  repeat' (first
    | rfl
    | assumption
    | refine wf_foldl (fun s x h => ?_) _ _ ?_
    | split
    | simp only [State.updCore_mem, mem_gatePair, mem_dropLines])
  all_goals grind -ring -linarith -lia [State.updCore_mem, mem_gatePair, mem_dropLines, wf_blit]
theorem mem_gatePending {x : Resource} {s : State} {t} (e : gatePending x s = some t) : t.mem = s.mem := by
  unfold gatePending at e
  grind -ring -linarith -lia [mem_gateStorage]
@[simp] theorem mem_bringUp (s : State) : (bringUp s).mem = s.mem := by
  unfold bringUp
  split <;> rfl
@[simp] theorem mem_returnQuads (s : State) : (returnQuads s).mem = s.mem := rfl
@[simp] theorem wf_execScrubGateDone (x : Resource) (fails : W32) (s : State) (h : s.mem.wf = true)
    : (execScrubGateDone x fails s).memAll (fun m => m.wf = true) := by
  unfold execScrubGateDone
  split
  · exact h
  · split
    · rw [Out.memAll_next, mem_gatePending ‹_›]
      exact h
    · dsimp only
      generalize hu : scrub x fails _ = u
      have hw : u.mem.wf = true := by rw [← hu]; exact wf_scrub _ _ _ h
      generalize ht : (if u.gatePasses x = true then _ else u : State) = t
      have hv : t.mem.wf = true := by rw [← ht]; split <;> exact hw
      repeat' split
      all_goals first
        | exact hv
        | (rw [Out.memAll_next, mem_bringUp]; exact hv)
        | exact wf_postInt _ _ _ _ _ _ _ (by simpa using hv)
@[simp] theorem mem_execTinvWrite {P : Mem → Prop} (p : PartId) (v : W64) (s : State) (h : P s.mem)
    : (execTinvWrite p v s).memAll P := by
  unfold execTinvWrite
  try dsimp only
  repeat' (first | trivial | exact h | simp only [Out.memAll_next] | split)
  all_goals first
    | (simp [*]; done)
    | grind -ring -linarith -lia [mem_State_later, State.setPart_mem]
@[simp] theorem mem_execTinvComplete {P : Mem → Prop} (p : PartId) (s : State) (h : P s.mem)
    : (execTinvComplete p s).memAll P := by
  unfold execTinvComplete
  dsimp only
  repeat' split
  all_goals first
    | exact h
    | (rw [Out.memAll_next]; simpa using h)
@[simp] theorem mem_execPageWalkComplete {P : Mem → Prop} (d : DieId) (p : PartId) (ctx : Byte) (va : W64)
    (s : State) (h : P s.mem) : (execPageWalkComplete d p ctx va s).memAll P := by
  unfold execPageWalkComplete
  dsimp only
  split
  · exact h
  · rw [Out.memAll_next, mem_beginWalks]
    split
    · simpa using h
    · simpa using h
@[simp] theorem mem_execBindUnbind {P : Mem → Prop} (p : PartId) (idx : Fin 1024) (s : State) (h : P s.mem)
    : (execBindUnbind p idx s).memAll P := by
  unfold execBindUnbind
  try dsimp only
  repeat' (first | trivial | exact h | simp only [Out.memAll_next] | split)
  all_goals first
    | (simp [*]; done)
    | grind -ring -linarith -lia [State.setPart_mem]

/-! ## Machine/HostPort.lean -/

@[simp] theorem wf_discardSlot (b : Block) (q : Fin 64) (x : Queue) (n : ℕ) (s : State) (h : s.mem.wf = true)
    : (discardSlot b q x n s).mem.wf = true := by
  unfold discardSlot
  grind -ring -linarith -lia [→ mem_State_readVa, wf_complete, wf_launchFault]
@[simp] theorem wf_discardQueued (b : Block) (q : Fin 64) (s : State) (h : s.mem.wf = true)
    : (discardQueued b q s).mem.wf = true := by
  unfold discardQueued
  try dsimp only
  repeat' (first
    | rfl
    | assumption
    | refine wf_foldl (fun s x h => ?_) _ _ ?_
    | split)
  all_goals grind -ring -linarith -lia [wf_discardSlot]
@[simp] theorem wf_discardAll (p : PartId) (s : State) (h : s.mem.wf = true) : (discardAll p s).mem.wf = true := by
  unfold discardAll
  try dsimp only
  repeat' (first
    | rfl
    | assumption
    | refine wf_foldl (fun s x h => ?_) _ _ ?_
    | split)
  all_goals grind -ring -linarith -lia [wf_endLaunch, wf_launchFault]
@[simp] theorem wf_execFlr (p : PartId) (s : State) (h : s.mem.wf = true) : (execFlr p s).memAll (fun m => m.wf
    = true) := by
  unfold execFlr
  simp only [Out.memAll_next, mem_State_later, State.setPart_mem]
  exact wf_discardAll _ _ (wf_foldl (fun s q h => wf_discardQueued _ _ _ h) _ _ h)
@[simp] theorem mem_execFlrReady {P : Mem → Prop} (p : PartId) (s : State) (h : P s.mem) : (execFlrReady p s).memAll P := by
  simp [execFlrReady, h]
@[simp] theorem wf_windowFault (p : PartId) (f : AFault) (s : State) (h : s.mem.wf = true)
    : (windowFault p f s).mem.wf = true := by
  simp [windowFault, h]
@[simp] theorem wf_execHostWindowRead (p : PartId) (off : BitVec 36) (n : Fin 4097) (s : State) (h : s.mem.wf
    = true) : (execHostWindowRead p off n s).memAll (fun m => m.wf = true) := by
  unfold execHostWindowRead
  try dsimp only
  repeat' (first | trivial | exact h | simp only [Out.memAll_next] | split)
  all_goals first
    | (simp [*]; done)
    | grind -ring -linarith -lia [→ mem_State_readVa, wf_windowFault]
@[simp] theorem wf_execHostWindowWrite (p : PartId) (off : BitVec 36) (bs : List Byte) (s : State) (h : s.mem.wf
    = true) : (execHostWindowWrite p off bs s).memAll (fun m => m.wf = true) := by
  unfold execHostWindowWrite
  try dsimp only
  repeat' (first | trivial | exact h | simp only [Out.memAll_next] | split)
  all_goals first
    | (simp [*]; done)
    | grind -ring -linarith -lia [→ wf_State_writeVa, wf_windowFault]
@[simp] theorem wf_enableQueue (b : Block) (q : Fin 64) (s : State) (h : s.mem.wf = true)
    : (enableQueue b q s).mem.wf = true := by
  unfold enableQueue
  grind -ring -linarith -lia [wf_stopQueue, mem_readLater]
@[simp] theorem wf_writeQueueReg (rp : HostReg) (v : W64) (s : State) (h : s.mem.wf = true)
    : (writeQueueReg rp v s).mem.wf = true := by
  unfold writeQueueReg
  grind -ring -linarith -lia [mem_State_setQueue, wf_enableQueue, mem_State_setBlock]
@[simp] theorem mem_writePartReg (rp : HostReg) (v : W64) (s : State) : (writePartReg rp v s).mem = s.mem := by
  unfold writePartReg
  (repeat' split) <;> simp [*]
@[simp] theorem mem_writeModuleReg (rp : HostReg) (v : W64) (s : State) : (writeModuleReg rp v s).mem = s.mem := by
  unfold writeModuleReg
  cases rp <;> dsimp only
  all_goals first | rfl | (split <;> rfl)
@[simp] theorem wf_execRegisterWrite (rp : HostReg) (v : W64) (s : State) (h : s.mem.wf = true)
    : (execRegisterWrite rp v s).memAll (fun m => m.wf = true) := by
  unfold execRegisterWrite
  try dsimp only
  repeat' (first | trivial | exact h | simp only [Out.memAll_next] | split)
  all_goals first
    | (simp [*]; done)
    | grind -ring -linarith -lia [State.push_mem, mem_writePartReg, wf_writeQueueReg, mem_writeModuleReg]
@[simp] theorem mem_clearOnRead (rp : HostReg) (s : State) : (clearOnRead rp s).mem = s.mem := by
  unfold clearOnRead
  (repeat' split) <;> simp [*]
@[simp] theorem mem_execRcRegisterRead {P : Mem → Prop} (rp : HostReg) (s : State) (h : P s.mem)
    : (execRcRegisterRead rp s).memAll P := by
  unfold execRcRegisterRead
  try dsimp only
  repeat' (first | trivial | exact h | simp only [Out.memAll_next] | split)
  all_goals first
    | (simp [*]; done)
    | grind -ring -linarith -lia [mem_clearOnRead]

/-! ## Machine/Domain.lean -/

@[simp] theorem mem_reroute (s : State) : (reroute s).mem = s.mem := rfl
@[simp] theorem mem_State_setPort (s : State) (n : Fin 48) (x : Port) : (State.setPort s n x).mem = s.mem := rfl
@[simp] theorem wf_lose (s : State) (h : s.mem.wf = true) : (lose s).mem.wf = true := by
  exact wf_everyFault _ _ _ _ _ h
@[simp] theorem mem_joined (s : State) : (joined s).mem = s.mem := rfl
@[simp] theorem mem_execDomainJoin {P : Mem → Prop} (s : State) (h : P s.mem) : (execDomainJoin s).memAll P := by
  unfold execDomainJoin
  try dsimp only
  repeat' (first | trivial | exact h | simp only [Out.memAll_next] | split)
  all_goals first
    | (simp [*]; done)
    | grind -ring -linarith -lia [mem_State_draw, mem_joined]
@[simp] theorem mem_execDomainLeave {P : Mem → Prop} (s : State) (h : P s.mem) : (execDomainLeave s).memAll P := by
  simp [execDomainLeave, h]
@[simp] theorem mem_stepCyc (n : ℤ) (s : State) : (stepCyc n s).mem = s.mem := rfl
@[simp] theorem mem_execTimeExchange {P : Mem → Prop} (off : W64) (s : State) (h : P s.mem)
    : (execTimeExchange off s).memAll P := by
  unfold execTimeExchange
  try dsimp only
  repeat' (first | trivial | exact h | simp only [Out.memAll_next] | split)
  all_goals first
    | (simp [*]; done)
    | grind -ring -linarith -lia [mem_State_draw, mem_joined, mem_stepCyc]
@[simp] theorem wf_execOffsetMeasure (off : Byte) (s : State) (h : s.mem.wf = true)
    : (execOffsetMeasure off s).memAll (fun m => m.wf = true) := by
  unfold execOffsetMeasure
  dsimp only
  repeat' split
  · exact h
  · exact wf_lose _ h
  · exact h
@[simp] theorem wf_execPllLockLoss (s : State) (h : s.mem.wf = true) : (execPllLockLoss s).memAll (fun m => m.wf
    = true) := by
  unfold execPllLockLoss
  dsimp only
  split
  · exact wf_lose _ h
  · exact h
@[simp] theorem mem_execFabricPllLock {P : Mem → Prop} (s : State) (h : P s.mem) : (execFabricPllLock s).memAll P := by
  simp [execFabricPllLock, h]
@[simp] theorem mem_train (n : Fin 48) (s : State) : (train n s).mem = s.mem := rfl
@[simp] theorem mem_execBportEnableWrite {P : Mem → Prop} (n : Fin 48) (en : Bool) (s : State) (h : P s.mem)
    : (execBportEnableWrite n en s).memAll P := by
  unfold execBportEnableWrite
  try dsimp only
  repeat' (first | trivial | exact h | simp only [Out.memAll_next] | split)
  all_goals first
    | (simp [*]; done)
    | grind -ring -linarith -lia [mem_train, mem_State_setPort, mem_reroute]
@[simp] theorem mem_execLinkTrained {P : Mem → Prop} (n : Fin 48) (peer : BitVec 6) (s : State) (h : P s.mem)
    : (execLinkTrained n peer s).memAll P := by
  unfold execLinkTrained
  try dsimp only
  repeat' (first | trivial | exact h | simp only [Out.memAll_next] | split)
  all_goals first
    | (simp [*]; done)
    | grind -ring -linarith -lia [mem_reroute, mem_State_setPort]
@[simp] theorem mem_execTrainingTimeout {P : Mem → Prop} (n : Fin 48) (s : State) (h : P s.mem)
    : (execTrainingTimeout n s).memAll P := by
  unfold execTrainingTimeout
  try dsimp only
  repeat' (first | trivial | exact h | simp only [Out.memAll_next] | split)
  all_goals first
    | (simp [*]; done)
    | grind -ring -linarith -lia [mem_State_later, mem_State_setPort]
@[simp] theorem mem_execLinkError {P : Mem → Prop} (n : Fin 48) (s : State) (h : P s.mem)
    : (execLinkError n s).memAll P := by
  unfold execLinkError
  try dsimp only
  repeat' (first | trivial | exact h | simp only [Out.memAll_next] | split)
  all_goals first
    | (simp [*]; done)
    | grind -ring -linarith -lia [mem_reroute, mem_bump, mem_State_setPort]
@[simp] theorem wf_execRetrainResult (n : Fin 48) (ok : Bool) (s : State) (h : s.mem.wf = true)
    : (execRetrainResult n ok s).memAll (fun m => m.wf = true) := by
  unfold execRetrainResult
  dsimp only
  repeat' split
  · exact h
  · simpa using h
  · simpa using h
  · exact wf_everyFault _ _ _ _ _ (by simpa using h)
@[simp] theorem mem_execDownRetry {P : Mem → Prop} (n : Fin 48) (s : State) (h : P s.mem)
    : (execDownRetry n s).memAll P := by
  unfold execDownRetry
  try dsimp only
  repeat' (first | trivial | exact h | simp only [Out.memAll_next] | split)
  all_goals first
    | (simp [*]; done)
    | grind -ring -linarith -lia [mem_train]
@[simp] theorem mem_execFlitReplay {P : Mem → Prop} (n : Fin 48) (s : State) (h : P s.mem)
    : (execFlitReplay n s).memAll P := by
  simp [execFlitReplay, h]
@[simp] theorem mem_execPortStateFlit {P : Mem → Prop} (m : BitVec 6) (ups : BitVec 49) (s : State) (h : P s.mem)
    : (execPortStateFlit m ups s).memAll P := by
  unfold execPortStateFlit
  try dsimp only
  repeat' (first | trivial | exact h | simp only [Out.memAll_next] | split)
  all_goals first
    | (simp [*]; done)
    | grind -ring -linarith -lia [mem_reroute]

/-! ## Machine/Fabric.lean -/

@[simp] theorem wf_groupDown (p : PartId) (g : Fin 64) (s : State) (h : s.mem.wf = true) : (groupDown p g s).mem.wf
    = true := by
  unfold groupDown
  try dsimp only
  repeat' (first
    | rfl
    | assumption
    | refine wf_foldl (fun s x h => ?_) _ _ ?_
    | split)
  all_goals grind -ring -linarith -lia [wf_endPlain]
@[simp] theorem wf_execAgsetInstall (c : CoreId) (s : State) (h : s.mem.wf = true)
    : (execAgsetInstall c s).memAll (fun m => m.wf = true) := by
  unfold execAgsetInstall
  split
  · exact h
  · dsimp only
    split
    · exact wf_endPlain _ _ _ _ _ _ (by rw [mem_bump]; exact h)
    · split
      · exact wf_endPlain _ _ _ _ _ _ h
      · exact wf_endPlain _ _ _ _ _ _ (by simpa using wf_groupDown _ _ _ h)
@[simp] theorem wf_execRlsMessageReceived (p : PartId) (g : Fin 64) (rank : Fin 64) (scnt : W32) (sseq : W32)
    (flag : BitVec 12) (val : W64) (s : State) (h : s.mem.wf = true)
    : (execRlsMessageReceived p g rank scnt sseq flag val s).memAll (fun m => m.wf = true) := by
  unfold execRlsMessageReceived
  split
  · exact h
  · dsimp only
    split
    · exact h
    · rename_i hd
      have hs := (mem_enterDies hd).symm ▸ h
      split
      · exact wf_applyFlag _ _ _ _ _ _ hs
      · rw [Out.memAll_next, mem_updChan]; exact hs
@[simp] theorem wf_execRlsAckReceived (p : PartId) (g : Fin 64) (rank : Fin 64) (sseq : W32) (s : State)
    (h : s.mem.wf = true) : (execRlsAckReceived p g rank sseq s).memAll (fun m => m.wf = true) := by
  unfold execRlsAckReceived
  try dsimp only
  repeat' (first | trivial | exact h | simp only [Out.memAll_next] | split)
  all_goals first
    | (simp [*]; done)
    | grind -ring -linarith -lia [mem_updChan, wf_endPlain]
@[simp] theorem mem_countMsg (p : PartId) (m : FabMsg) (e : Option Err) (s : State) : (countMsg p m e s).mem = s.mem := by
  unfold countMsg
  (repeat' split) <;> simp [*]
@[simp] theorem wf_faultMsg (p : PartId) (x : Group) (m : FabMsg) (f : AFault) (s : State) (h : s.mem.wf = true)
    : (faultMsg p x m f s).mem.wf = true := by
  simp [faultMsg, h]
@[simp] theorem wf_applyWrite (p : PartId) (x : Group) (rank : Fin 64) (m : FabMsg) (s : State) (h : s.mem.wf
    = true) : (applyWrite p x rank m s).mem.wf = true := by
  unfold applyWrite
  split
  · exact h
  · split
    · rw [mem_countMsg]; exact h
    · split
      · exact wf_faultMsg _ _ _ _ _ h
      · split
        · exact wf_faultMsg _ _ _ _ _ h
        · dsimp only
          rw [mem_countMsg]
          refine wf_foldl (fun s g h => by simpa using h) _ _ ?_
          refine wf_foldl (fun s g h => ?_) _ _ h
          rw [mem_useSync]
          exact wf_State_putBytes _ _ _ h
@[simp] theorem wf_applyWrites (p : PartId) (g : Fin 64) (rank : Fin 64) (n : ℕ) (s : State) (h : s.mem.wf
    = true) : (applyWrites p g rank n s).mem.wf = true := by
  induction n generalizing s with
  | zero => exact h
  | succ n ih =>
    unfold applyWrites
    split
    · exact h
    · dsimp only
      split
      · exact h
      · exact ih _ (wf_applyWrite _ _ _ _ _ (by simpa using h))
@[simp] theorem wf_execFabricWriteReceived (p : PartId) (g : Fin 64) (rank : Fin 64) (num : W32) (ppa : Bool)
    (va : W64) (bs : List Byte) (comb : Option (Comb3 × Fmt)) (obj : Option (Byte × Option (Fin 4096)) × Option (Byte × W64))
    (s : State) (h : s.mem.wf = true)
    : (execFabricWriteReceived p g rank num ppa va bs comb obj s).memAll (fun m => m.wf = true) := by
  unfold execFabricWriteReceived
  split
  · exact h
  · split
    · exact h
    · split
      · simpa using h
      · rename_i hd
        exact wf_releaseFlags _ _ _ _ (wf_applyWrites _ _ _ _ _ (by rw [mem_updChan, mem_enterDies hd]; exact h))
@[simp] theorem mem_execFabricResend {P : Mem → Prop} (p : PartId) (g : Fin 64) (rank : Fin 64) (s : State)
    (h : P s.mem) : (execFabricResend p g rank s).memAll P := by
  unfold execFabricResend
  split
  · exact h
  · split
    · rw [Out.memAll_next, mem_foldl (fun s x => by simp)]
      exact h
    · rw [Out.memAll_next, mem_updChan]
      exact h
@[simp] theorem wf_execFabricRequestReceived (p : PartId) (grp : Option (Fin 64)) (va : W64) (n : Fin 129)
    (op : Option (AmoOp × Bool × W64 × W64)) (from_ : BitVec 6) (s : State) (h : s.mem.wf = true)
    : (execFabricRequestReceived p grp va n op from_ s).memAll (fun m => m.wf = true) := by
  have hu : ∀ (l : List Seg) (s : State), s.mem.wf = true → (l.foldl (fun s g => useSync g s) s).mem.wf = true :=
    fun l s h => wf_foldl (fun s g h => by simpa using h) _ _ h
  unfold execFabricRequestReceived
  dsimp only
  split
  · exact h
  · generalize arriving s p _ _ _ true _ va _ = l
    split
    · exact h
    · rename_i hd
      have hs := (mem_enterDies hd).symm ▸ h
      repeat' split
      all_goals first
        | exact hs
        | exact hu _ _ hs
        | (rename_i ht; exact hu _ _ ((mem_State_readVa ht).symm ▸ hs))
        | (rw [Out.memAll_next, mem_useSync]; exact wf_State_putBytes _ _ _ hs)

/-! ## Machine/Maintenance.lean -/

@[simp] theorem mem_maintain (tk : PairId) (sym : Bool) (s : State) : (maintain tk sym s).mem = s.mem := rfl
@[simp] theorem mem_execMaintenanceDue {P : Mem → Prop} (tk : PairId) (sym : Bool) (s : State) (h : P s.mem)
    : (execMaintenanceDue tk sym s).memAll P := by
  unfold execMaintenanceDue
  try dsimp only
  repeat' (first | trivial | exact h | simp only [Out.memAll_next] | split)
  all_goals first
    | (simp [*]; done)
    | grind -ring -linarith -lia [mem_maintain]
@[simp] theorem wf_execWornSet (tk : PairId) (s : State) (h : s.mem.wf = true)
    : (execWornSet tk s).memAll (fun m => m.wf = true) := by
  unfold execWornSet
  try dsimp only
  repeat' (first | trivial | exact h | simp only [Out.memAll_next] | split)
  all_goals first
    | (simp [*]; done)
    | grind -ring -linarith -lia [mem_bump, State.setPair_mem, wf_moduleFault]
@[simp] theorem mem_spoil (x : ℕ) (s : State) : (spoil x s).mem = s.mem := rfl
@[simp] theorem wf_patrolFinds (x : ℕ) (s : State) (h : s.mem.wf = true) : (patrolFinds x s).mem.wf = true :=
  wf_moduleFault _ _ _ _ _ _ (by simpa using h)
@[simp] theorem mem_errorAt (x : ErrAt) (s : State) : (errorAt x s).mem = s.mem := by
  cases x <;> simp only [errorAt] <;> (repeat' split) <;> rfl
@[simp] theorem mem_dropEntry (x : ErrAt) (s : State) : (dropEntry x s).mem = s.mem := by
  cases x <;> rfl
@[simp] theorem wf_execPatrolScrub (a : ErrAt) (bad : Bool) (s : State) (h : s.mem.wf = true)
    : (execPatrolScrub a bad s).memAll (fun m => m.wf = true) := by
  unfold execPatrolScrub
  split
  · exact h
  · split
    · simpa using h
    · split
      · rw [Out.memAll_next]
        split
        · exact wf_patrolFinds _ _ h
        · exact h
      · simpa using h
@[simp] theorem mem_readSensors (l : List Byte) (s : State) : (readSensors l s).mem = s.mem := rfl
@[simp] theorem mem_binTemps (s : State) : (binTemps s).mem = s.mem := mem_foldl (fun s d => by simp) _ _
@[simp] theorem mem_execJunctionTemperatureSample {P : Mem → Prop} (l : List Byte) (s : State) (h : P s.mem)
    : (execJunctionTemperatureSample l s).memAll P := by
  unfold execJunctionTemperatureSample
  dsimp only
  rw [Out.memAll_next, State.push_mem]
  split
  · exact (mem_binTemps s).symm ▸ h
  · exact h

/-! ## Machine/Security.lean -/

@[simp] theorem mem_execHealthRecordAppend {P : Mem → Prop} (s : State) (h : P s.mem)
    : (execHealthRecordAppend s).memAll P := by
  simp [execHealthRecordAppend, h]
theorem mem_readHealth {s : State} {t} {x1} (e : readHealth s = .ok (x1, t)) : t.mem = s.mem := by
  unfold readHealth at e
  grind -ring -linarith -lia
theorem mem_signManifest {s : State} {t} {x1} (e : signManifest s = .ok (x1, t)) : t.mem = s.mem := by
  unfold signManifest at e
  grind -ring -linarith -lia
@[simp] theorem mem_setRemaps (l : List (PairId × PairId)) (s : State) : (setRemaps l s).mem = s.mem := rfl
@[simp] theorem mem_putRecord (kind : ℕ) (rec_ : List Byte) (s : State) : (putRecord kind rec_ s).mem = s.mem := rfl
theorem mem_installRecord {s : State} {t} {x1} (e : installRecord s = .ok (x1, t)) : t.mem = s.mem := by
  unfold installRecord at e
  dsimp only at e
  repeat' split at e
  all_goals first
    | (cases e; done)
    | (cases e; rfl)
theorem mem_remapRun {s : State} {t} {x1} (e : remapRun s = .ok (x1, t)) : t.mem = s.mem := by
  unfold remapRun at e
  dsimp only at e
  repeat' split at e
  all_goals first
    | (cases e; done)
    | (cases e; rfl)
theorem mem_loadFw {s : State} {t} {x1} (e : loadFw s = .ok (x1, t)) : t.mem = s.mem := by
  unfold loadFw at e
  grind -ring -linarith -lia
theorem mem_runCommand {s : State} {t} {x1} (e : runCommand s = .ok (x1, t)) : t.mem = s.mem := by
  unfold runCommand at e
  grind -ring -linarith -lia [→ mem_readHealth, → mem_signManifest, → mem_installRecord, → mem_remapRun, → mem_loadFw]
@[simp] theorem mem_startCommand {P : Mem → Prop} (op : Byte) (s : State) (h : P s.mem) : (startCommand op s).memAll P := by
  unfold startCommand
  try dsimp only
  repeat' (first | trivial | exact h | simp only [Out.memAll_next] | split)
  all_goals first
    | (simp [*]; done)
    | grind -ring -linarith -lia [mem_State_later]
@[simp] theorem mem_execReadhealth {P : Mem → Prop} (s : State) (h : P s.mem) : (execReadhealth s).memAll P := by
  simp [execReadhealth, h]
@[simp] theorem mem_execReadtotals {P : Mem → Prop} (s : State) (h : P s.mem) : (execReadtotals s).memAll P := by
  simp [execReadtotals, h]
@[simp] theorem mem_execReadcert {P : Mem → Prop} (s : State) (h : P s.mem) : (execReadcert s).memAll P := by
  simp [execReadcert, h]
@[simp] theorem mem_execQuote {P : Mem → Prop} (s : State) (h : P s.mem) : (execQuote s).memAll P := by
  simp [execQuote, h]
@[simp] theorem mem_execSignman {P : Mem → Prop} (s : State) (h : P s.mem) : (execSignman s).memAll P := by
  simp [execSignman, h]
@[simp] theorem mem_execInstall {P : Mem → Prop} (s : State) (h : P s.mem) : (execInstall s).memAll P := by
  simp [execInstall, h]
@[simp] theorem mem_execRemap {P : Mem → Prop} (s : State) (h : P s.mem) : (execRemap s).memAll P := by
  simp [execRemap, h]
@[simp] theorem mem_execLoadfw {P : Mem → Prop} (s : State) (h : P s.mem) : (execLoadfw s).memAll P := by
  simp [execLoadfw, h]
@[simp] theorem mem_execMailboxBadOp {P : Mem → Prop} (op : Byte) (s : State) (h : P s.mem)
    : (execMailboxBadOp op s).memAll P := by
  unfold execMailboxBadOp
  try dsimp only
  repeat' (first | trivial | exact h | simp only [Out.memAll_next] | split)
  all_goals first
    | (simp [*]; done)
    | grind -ring -linarith -lia [mem_startCommand]
@[simp] theorem mem_execMailboxDone {P : Mem → Prop} (s : State) (h : P s.mem) : (execMailboxDone s).memAll P := by
  unfold execMailboxDone
  split
  · exact h
  · split
    · exact h
    · rename_i e
      rw [Out.memAll_next]
      exact (mem_runCommand e).symm ▸ h
@[simp] theorem wf_resetState (s : State) (h : s.mem.wf = true) : (resetState s).mem.wf = true := by
  exact Mem.filter_wf _ _ h
@[simp] theorem wf_execModuleReset (s : State) (h : s.mem.wf = true) : (execModuleReset s).memAll (fun m => m.wf
    = true) := by
  simp [execModuleReset, h]
@[simp] theorem mem_verifyImages (s : State) : (verifyImages s).mem = s.mem := by
  unfold verifyImages
  dsimp only
  split <;> rfl
@[simp] theorem mem_raiseJoints (lo hi : ℕ) (s : State) : (raiseJoints lo hi s).mem = s.mem := by
  rw [raiseJoints]
@[simp] theorem mem_execBootVerify {P : Mem → Prop} (s : State) (h : P s.mem) : (execBootVerify s).memAll P := by
  have hv : ∀ s : State, (if s.boot = .recovery then s else s.later jointTicks .bootVerify).mem = s.mem := fun s => by
    rw [apply_ite State.mem, mem_State_later, ite_self]
  unfold execBootVerify
  split
  · dsimp only
    rw [Out.memAll_next, hv, mem_verifyImages]
    exact h
  · rw [Out.memAll_next, mem_State_later, mem_raiseJoints]
    exact h
  · rw [Out.memAll_next, mem_enterGate, mem_raiseJoints]
    exact h
  all_goals exact h
@[simp] theorem mem_execPerstRelease {P : Mem → Prop} (s : State) (h : P s.mem) : (execPerstRelease s).memAll P := by
  simp [execPerstRelease, h]
@[simp] theorem mem_execPowerLoss {P : Mem → Prop} (s : State) (h : P s.mem) : (execPowerLoss s).memAll P := by
  simp [execPowerLoss, h]
@[simp] theorem mem_execDoeRequest {P : Mem → Prop} (req : List Byte) (s : State) (h : P s.mem)
    : (execDoeRequest req s).memAll P := by
  simp [execDoeRequest, h]

/-! ## Machine/Cycle.lean -/

@[simp] theorem mem_roundEnd (s : State) : (roundEnd s).mem = s.mem := by
  unfold roundEnd
  dsimp only
  simp only [State.push_mem]
  refine (mem_foldl (fun s x => ?_) _ _).trans rfl
  split <;> simp
@[simp] theorem mem_nextCore (s : State) : (nextCore s).mem = s.mem := by
  unfold nextCore
  (repeat' split) <;> simp [*]
@[simp] theorem mem_wakeCycle (s : State) : (wakeCycle s).mem = s.mem := by
  unfold wakeCycle
  grind -ring -linarith -lia [mem_resumeCore, State.updCore_mem]
@[simp] theorem mem_fetchTrap (tval : W64) (s : State) : (fetchTrap tval s).mem = s.mem := by
  simp [fetchTrap]
@[simp] theorem mem_badFetch (s : State) : (badFetch s).mem = s.mem := by
  unfold badFetch
  grind -ring -linarith -lia [mem_fetchTrap, mem_escalate, State.updBerth_mem]
@[simp] theorem mem_badCode (rp : Reject) (w : W128) (s : State) : (badCode rp w s).mem = s.mem := by
  simp [badCode]
@[simp] theorem mem_prepare_ (s : State) : (prepare_ s).mem = s.mem := rfl
@[simp] theorem mem_muteCycle (s : State) : (muteCycle s).mem = s.mem := rfl
@[simp] theorem wf_takeUce (c : CoreId) (s : State) (h : s.mem.wf = true) : (takeUce c s).mem.wf = true := by
  unfold takeUce
  split
  · exact h
  · dsimp only
    rw [mem_faultGang]
    exact wf_coreFault _ _ _ _ _ _ _ (by simpa using h)
@[simp] theorem wf_engineCycle (s : State) (h : s.mem.wf = true) : (engineCycle s).mem.wf = true := by
  unfold engineCycle
  exact wf_takeUce _ _ h
@[simp] theorem mem_writebackCycle (s : State) : (writebackCycle s).mem = s.mem := rfl
@[simp] theorem mem_fenceAct (c : CoreId) (a : FenceAct) (s : State) : (fenceAct c a s).mem = s.mem := by
  unfold fenceAct
  (repeat' split) <;> simp [*]
@[simp] theorem mem_settleFences (c : CoreId) (b : BerthId) (s : State) : (settleFences c b s).mem = s.mem := by
  unfold settleFences
  try dsimp only
  repeat' (first
    | rfl
    | assumption
    | refine (mem_foldl (fun s x => ?_) _ _).trans ?_
    | split
    | simp only [mem_fenceAct, State.updBerth_mem])
  all_goals grind -ring -linarith -lia [mem_fenceAct, State.updBerth_mem]
@[simp] theorem mem_advanceCycle (s : State) : (advanceCycle s).mem = s.mem := by
  have hf : ∀ c, ((List.finRange 4).foldl (fun s b => settleFences c b s) s).mem = s.mem := fun c =>
    mem_foldl (fun s b => by simp) _ _
  unfold advanceCycle
  dsimp only
  rw [mem_nextCore]
  repeat' split
  all_goals simp [hf]
@[simp] theorem mem_tick (s : State) : (tick s).mem = s.mem := by
  unfold tick
  dsimp only
  rw [mem_endGangs, mem_finishReleases]
@[simp] theorem mem_tickStage (s : State) : (tickStage s).mem = s.mem := by
  unfold tickStage
  (repeat' split) <;> simp [*]
@[simp] theorem mem_placeWord (w : ℕ) (s : State) : (placeWord w s).mem = s.mem := rfl

/-! ## Machine/Step.lean -/

@[simp] theorem mem_State_withFetchWord (s : State) (_nbits : ℕ) (w : ℕ) : (State.withFetchWord s _nbits w).mem
    = s.mem := rfl

end Sys2Proof.Machine
end

