-- ==== Sys2Proof/Laws/PerInstr.lean ====
section
/-! SUPPORT. Family RoundTrip, one lemma per constructor: the fields of a well-formed instruction lie within their
bits and decode to that instruction; an event has no word. -/

namespace Sys2Proof.Laws

open Sys2Proof

/-- A well-formed instruction has fields, they fit their bits, and the decoder reads the instruction from them. -/
def RoundTrip.Statement (i : Instr) : Prop :=
  i.wf = true → ∃ r, encodeRaw i = some r ∧ r.fits ∧ decodeRaw r = .ok i

/-- A zero slot fits. -/
theorem z : 0 < 262144 := Nat.zero_lt_succ _

theorem RoundTrip.nop (h : Head) : RoundTrip.Statement (.nop h) := by
  intro hw
  have hk : (h.ok .other) = true := hw
  clear hw
  exact ⟨_, rfl, enc_fits _ _ _ _ _ _ _ _ (by decide) (by decide) z z z z z,
    (fZ_back .nop 0x000 hk : fZ .nop (enc 0x000 h 0 0 0 0 0 0) = _)⟩

theorem RoundTrip.br (h : Head) (d : W32) : RoundTrip.Statement (.br h d) := by
  intro hw
  have hk : (h.ok .other) = true := hw
  clear hw
  refine ⟨_, rfl, enc_fits _ _ _ _ _ _ _ _ (by decide) (by decide) z (eI_lt _) (eI_lt _) z z, ?_⟩
  show fBr (enc 0x001 h 0 0 (eI (d.extractLsb' 16 16)) (eI (d.extractLsb' 0 16)) 0 0) = _
  simp [fBr, hk, dist32_back]

theorem RoundTrip.brc (h : Head) (c : Cond) (a : SSrc) (b : SOp) (d : W16) : RoundTrip.Statement (.brc h c a b d) :=
    by
  intro hw
  have hk : (h.ok .other) = true := hw
  clear hw
  have hm0 : c.code < 65536 := by
    have := c.code_lt
    omega
  refine ⟨_, rfl, enc_fits _ _ _ _ _ _ _ _ (by decide) (by decide) z (eS_lt' _) (eSI_lt _) (eM_lt hm0) (eI_lt _), ?_⟩
  show fBrc (enc 0x002 h 0 0 (eS a) (eSI b) (eM c.code) (eI d)) = _
  simp [fBrc, hk]

theorem RoundTrip.bri (h : Head) (a : SSrc) : RoundTrip.Statement (.bri h a) := by
  intro hw
  have hk : (h.ok .other) = true := hw
  clear hw
  exact ⟨_, rfl, enc_fits _ _ _ _ _ _ _ _ (by decide) (by decide) z (eS_lt' _) z z z,
    (fS_back .bri 0x003 a hk : fS .bri (enc 0x003 h 0 0 (eS a) 0 0 0) = _)⟩

theorem RoundTrip.call (h : Head) (d : SDst) (t : W32) : RoundTrip.Statement (.call h d t) := by
  intro hw
  have hk : (h.ok .other) = true := hw
  clear hw
  refine ⟨_, rfl, enc_fits _ _ _ _ _ _ _ _ (by decide) (sdstWb_lt _) (eSD_lt _) (eI_lt _) (eI_lt _) z z, ?_⟩
  show fCall (enc 0x004 h d.wb (eSD d) (eI (t.extractLsb' 16 16)) (eI (t.extractLsb' 0 16)) 0 0) = _
  simp [fCall, hk, dist32_back]

theorem RoundTrip.ret (h : Head) (a : SSrc) : RoundTrip.Statement (.ret h a) := by
  intro hw
  have hk : (h.ok .other) = true := hw
  clear hw
  exact ⟨_, rfl, enc_fits _ _ _ _ _ _ _ _ (by decide) (by decide) z (eS_lt' _) z z z,
    (fS_back .ret 0x005 a hk : fS .ret (enc 0x005 h 0 0 (eS a) 0 0 0) = _)⟩

theorem RoundTrip.loop (h : Head) (d : SDst) (a : SSrc) (t : W16) : RoundTrip.Statement (.loop h d a t) := by
  intro hw
  have hk : (h.ok .other) = true := hw
  clear hw
  refine ⟨_, rfl, enc_fits _ _ _ _ _ _ _ _ (by decide) (sdstWb_lt _) (eSD_lt _) (eS_lt' _) (eI_lt _) z z, ?_⟩
  show fLoop (enc 0x006 h d.wb (eSD d) (eS a) (eI t) 0 0) = _
  simp [fLoop, hk]

theorem RoundTrip.wait (h : Head) : RoundTrip.Statement (.wait h) := by
  intro hw
  have hk : (h.ok .other) = true := hw
  clear hw
  exact ⟨_, rfl, enc_fits _ _ _ _ _ _ _ _ (by decide) (by decide) z z z z z,
    (fZ_back .wait 0x007 hk : fZ .wait (enc 0x007 h 0 0 0 0 0 0) = _)⟩

theorem RoundTrip.yield (h : Head) : RoundTrip.Statement (.yield h) := by
  intro hw
  have hk : (h.ok .other) = true := hw
  clear hw
  exact ⟨_, rfl, enc_fits _ _ _ _ _ _ _ _ (by decide) (by decide) z z z z z,
    (fZ_back .yield 0x008 hk : fZ .yield (enc 0x008 h 0 0 0 0 0 0) = _)⟩

theorem RoundTrip.exit (h : Head) : RoundTrip.Statement (.exit h) := by
  intro hw
  have hk : (h.ok .other) = true := hw
  clear hw
  exact ⟨_, rfl, enc_fits _ _ _ _ _ _ _ _ (by decide) (by decide) z z z z z,
    (fZ_back .exit 0x009 hk : fZ .exit (enc 0x009 h 0 0 0 0 0 0) = _)⟩

theorem RoundTrip.beat (h : Head) : RoundTrip.Statement (.beat h) := by
  intro hw
  have hk : (h.ok .other) = true := hw
  clear hw
  exact ⟨_, rfl, enc_fits _ _ _ _ _ _ _ _ (by decide) (by decide) z z z z z,
    (fZ_back .beat 0x00A hk : fZ .beat (enc 0x00A h 0 0 0 0 0 0) = _)⟩

theorem RoundTrip.phase (h : Head) (d : SDst) : RoundTrip.Statement (.phase h d) := by
  intro hw
  have hk : (h.ok .other) = true := hw
  clear hw
  refine ⟨_, rfl, enc_fits _ _ _ _ _ _ _ _ (by decide) (sdstWb_lt _) (eSD_lt _) z z z z, ?_⟩
  show fPhase (enc 0x00B h d.wb (eSD d) 0 0 0 0) = _
  simp [fPhase, hk]

theorem RoundTrip.lock (h : Head) : RoundTrip.Statement (.lock h) := by
  intro hw
  have hk : (h.ok .other) = true := hw
  clear hw
  exact ⟨_, rfl, enc_fits _ _ _ _ _ _ _ _ (by decide) (by decide) z z z z z,
    (fZ_back .lock 0x00C hk : fZ .lock (enc 0x00C h 0 0 0 0 0 0) = _)⟩

theorem RoundTrip.bara (h : Head) (d : SDst) (n : Fin 96) (c : SOp) : RoundTrip.Statement (.bara h d n c) := by
  intro hw
  have hk : (h.ok .other) = true := hw
  clear hw
  refine ⟨_, rfl, enc_fits _ _ _ _ _ _ _ _ (by decide) (sdstWb_lt _) (eSD_lt _) (eN_lt (Nat.lt_of_lt_of_le n.isLt (by
      decide))) (eSI_lt _) z z, ?_⟩
  show fBara (enc 0x00D h d.wb (eSD d) (eN n.val) (eSI c) 0 0) = _
  simp [fBara, hk]

theorem RoundTrip.barw (h : Head) (n : Fin 96) (p : SOp) : RoundTrip.Statement (.barw h n p) := by
  intro hw
  have hk : (h.ok .other) = true := hw
  clear hw
  exact ⟨_, rfl, enc_fits _ _ _ _ _ _ _ _ (by decide) (by decide) z (eN_lt (Nat.lt_of_lt_of_le n.isLt (by decide)))
      (eSI_lt _) z z,
    (fBar_back .barw 0x00E n p hk : fBar .barw (enc 0x00E h 0 0 (eN n.val) (eSI p) 0 0) = _)⟩

theorem RoundTrip.baraw (h : Head) (n : Fin 96) (c : SOp) : RoundTrip.Statement (.baraw h n c) := by
  intro hw
  have hk : (h.ok .other) = true := hw
  clear hw
  exact ⟨_, rfl, enc_fits _ _ _ _ _ _ _ _ (by decide) (by decide) z (eN_lt (Nat.lt_of_lt_of_le n.isLt (by decide)))
      (eSI_lt _) z z,
    (fBar_back .baraw 0x00F n c hk : fBar .baraw (enc 0x00F h 0 0 (eN n.val) (eSI c) 0 0) = _)⟩

theorem RoundTrip.tokin (h : Head) (k : MbKind) (mb : SOp) : RoundTrip.Statement (.tokin h k mb) := by
  intro hw
  have hk : (h.ok .other) = true := hw
  clear hw
  have hm0 : k.code < 65536 := by
    have := k.code_lt
    omega
  refine ⟨_, rfl, enc_fits _ _ _ _ _ _ _ _ (by decide) (by decide) z (eSI_lt _) (eM_lt hm0) z z, ?_⟩
  show fTokin (enc 0x010 h 0 0 (eSI mb) (eM k.code) 0 0) = _
  simp [fTokin, hk]

theorem RoundTrip.tokout (h : Head) (k : MbKind) (st : SOp) (mb : SOp) : RoundTrip.Statement (.tokout h k st mb) := by
  intro hw
  have hk : (h.ok .other) = true := hw
  clear hw
  have hm0 : k.code < 65536 := by
    have := k.code_lt
    omega
  refine ⟨_, rfl, enc_fits _ _ _ _ _ _ _ _ (by decide) (by decide) z (eSI_lt _) (eSI_lt _) (eM_lt hm0) z, ?_⟩
  show fTokout (enc 0x011 h 0 0 (eSI st) (eSI mb) (eM k.code) 0) = _
  simp [fTokout, hk]

theorem RoundTrip.stamp (h : Head) (d : SDst) (o : SOp) : RoundTrip.Statement (.stamp h d o) := by
  intro hw
  have hk : (h.ok .other) = true := hw
  clear hw
  exact ⟨_, rfl, enc_fits _ _ _ _ _ _ _ _ (by decide) (sdstWb_lt _) (eSD_lt _) (eSI_lt _) z z z,
    (fDSI_back .stamp 0x012 d o hk : fDSI .stamp (enc 0x012 h d.wb (eSD d) (eSI o) 0 0 0) = _)⟩

theorem RoundTrip.tsr (h : Head) (d : Fin 64) (e : Fin 64) : RoundTrip.Statement (.tsr h d e) := by
  intro hw
  have hk : (h.ok .other && decide (d ≠ e)) = true := hw
  clear hw
  refine ⟨_, rfl, enc_fits _ _ _ _ _ _ _ _ (by decide) (by decide) (eN_lt (Nat.lt_of_lt_of_le d.isLt (by decide)))
      (eN_lt (Nat.lt_of_lt_of_le e.isLt (by decide))) z z z, ?_⟩
  show fTsr (enc 0x013 h 1 (eN d.val) (eN e.val) 0 0 0) = _
  simp only [Bool.and_eq_true, decide_eq_true_eq] at hk
  simp [fTsr, hk]

theorem RoundTrip.sleepc (h : Head) (a : SSrc) : RoundTrip.Statement (.sleepc h a) := by
  intro hw
  have hk : (h.ok .other) = true := hw
  clear hw
  exact ⟨_, rfl, enc_fits _ _ _ _ _ _ _ _ (by decide) (by decide) z (eS_lt' _) z z z,
    (fS_back .sleepc 0x014 a hk : fS .sleepc (enc 0x014 h 0 0 (eS a) 0 0 0) = _)⟩

theorem RoundTrip.sleepp (h : Head) (bo : SOp) (ph : SOp) : RoundTrip.Statement (.sleepp h bo ph) := by
  intro hw
  have hk : (h.ok .other && bo.below 4096) = true := hw
  clear hw
  exact ⟨_, rfl, enc_fits _ _ _ _ _ _ _ _ (by decide) (by decide) z (eSI_lt _) (eSI_lt _) z z,
    (fBoPh_back .sleepp 0x015 bo ph hk : fBoPh .sleepp (enc 0x015 h 0 0 (eSI bo) (eSI ph) 0 0) = _)⟩

theorem RoundTrip.waitp (h : Head) (bo : SOp) (ph : SOp) : RoundTrip.Statement (.waitp h bo ph) := by
  intro hw
  have hk : (h.ok .other && bo.below 4096) = true := hw
  clear hw
  exact ⟨_, rfl, enc_fits _ _ _ _ _ _ _ _ (by decide) (by decide) z (eSI_lt _) (eSI_lt _) z z,
    (fBoPh_back .waitp 0x016 bo ph hk : fBoPh .waitp (enc 0x016 h 0 0 (eSI bo) (eSI ph) 0 0) = _)⟩

theorem RoundTrip.trap (h : Head) (c : W16) : RoundTrip.Statement (.trap h c) := by
  intro hw
  have hk : (h.ok .other) = true := hw
  clear hw
  refine ⟨_, rfl, enc_fits _ _ _ _ _ _ _ _ (by decide) (by decide) z (eI_lt _) z z z, ?_⟩
  show fTrap (enc 0x017 h 0 0 (eI c) 0 0 0) = _
  simp [fTrap, hk]

theorem RoundTrip.rtt (h : Head) : RoundTrip.Statement (.rtt h) := by
  intro hw
  have hk : (h.ok .other) = true := hw
  clear hw
  exact ⟨_, rfl, enc_fits _ _ _ _ _ _ _ _ (by decide) (by decide) z z z z z,
    (fZ_back .rtt 0x018 hk : fZ .rtt (enc 0x018 h 0 0 0 0 0 0) = _)⟩

theorem RoundTrip.mfs (h : Head) (d : SDst) (n : MfsName) : RoundTrip.Statement (.mfs h d n) := by
  intro hw
  have hk : (h.ok .other) = true := hw
  clear hw
  refine ⟨_, rfl, enc_fits _ _ _ _ _ _ _ _ (by decide) (sdstWb_lt _) (eSD_lt _) (eN_lt n.num_lt) (eM_lt (Nat.lt_trans
      n.kind_lt (by decide))) z z, ?_⟩
  show fMfs (enc 0x019 h d.wb (eSD d) (eN n.num) (eM n.kind) 0 0) = _
  simp [fMfs, hk, n.num_lt, n.kind_lt]

theorem RoundTrip.mts (h : Head) (r : SysReg) (a : SOp) : RoundTrip.Statement (.mts h r a) := by
  intro hw
  have hk : (h.ok .other) = true := hw
  clear hw
  refine ⟨_, rfl, enc_fits _ _ _ _ _ _ _ _ (by decide) (by decide) z (eN_lt (Nat.lt_of_lt_of_le r.code_lt (by
      decide))) (eSI_lt _) z z, ?_⟩
  show fMts (enc 0x01A h 0 0 (eN r.code) (eSI a) 0 0) = _
  simp [fMts, hk, show r.code < 1024 from Nat.lt_trans r.code_lt (by decide)]

theorem RoundTrip.loc (h : Head) (sl : Bool) (d : SDst) (a : SOp) : RoundTrip.Statement (.loc h sl d a) := by
  intro hw
  have hk : (h.ok .other) = true := hw
  clear hw
  have hm0 : b2n sl < 65536 := by
    have := b2n_lt sl
    omega
  refine ⟨_, rfl, enc_fits _ _ _ _ _ _ _ _ (by decide) (sdstWb_lt _) (eSD_lt _) (eSI_lt _) (eM_lt hm0) z z, ?_⟩
  show fLoc (enc 0x01B h d.wb (eSD d) (eSI a) (eM (b2n sl)) 0 0) = _
  cases sl <;> simp [fLoc, hk]

theorem RoundTrip.fence (h : Head) (sc : Scope) (pre : BitVec 3) (post : BitVec 3) : RoundTrip.Statement (.fence h sc
    pre post) := by
  intro hw
  have hk : (h.ok .other && decide (pre ≠ 0) && decide (post ≠ 0)) = true := hw
  clear hw
  have hm0 : sc.code < 65536 := by
    have := sc.code_lt
    omega
  have hm1 : pre.toNat + post.toNat * 16 < 65536 := by
    have := pre.isLt
    have := post.isLt
    omega
  refine ⟨_, rfl, enc_fits _ _ _ _ _ _ _ _ (by decide) (by decide) z (eM_lt hm0) (eM_lt hm1) z z, ?_⟩
  show fFence (enc 0x020 h 0 0 (eM sc.code) (eM (pre.toNat + post.toNat * 16)) 0 0) = _
  simp only [Bool.and_eq_true, decide_eq_true_eq] at hk
  have h1 : pre.toNat ≠ 0 := fun e => hk.1.2 (BitVec.eq_of_toNat_eq e)
  have h2 : post.toNat ≠ 0 := fun e => hk.2 (BitVec.eq_of_toNat_eq e)
  have := pre.isLt
  have := post.isLt
  have e1 : (pre.toNat + post.toNat * 16) < 128 := by omega
  have e2 : (pre.toNat + post.toNat * 16) / 8 % 2 = 0 := by omega
  have e3 : (pre.toNat + post.toNat * 16) % 8 = pre.toNat := by omega
  have e4 : (pre.toNat + post.toNat * 16) / 16 = post.toNat := by omega
  simp [fFence, hk, e1, e2, e3, e4, h1, show ¬ (pre.toNat + post.toNat * 16 < 16) by omega]

theorem RoundTrip.fsc (h : Head) (sc : Scope) : RoundTrip.Statement (.fsc h sc) := by
  intro hw
  have hk : (h.ok .other) = true := hw
  clear hw
  have hm0 : sc.code < 65536 := by
    have := sc.code_lt
    omega
  refine ⟨_, rfl, enc_fits _ _ _ _ _ _ _ _ (by decide) (by decide) z (eM_lt hm0) z z z, ?_⟩
  show fFsc (enc 0x021 h 0 0 (eM sc.code) 0 0 0) = _
  simp [fFsc, hk]

theorem RoundTrip.mark (h : Head) : RoundTrip.Statement (.mark h) := by
  intro hw
  have hk : (h.ok .other) = true := hw
  clear hw
  exact ⟨_, rfl, enc_fits _ _ _ _ _ _ _ _ (by decide) (by decide) z z z z z,
    (fZ_back .mark 0x022 hk : fZ .mark (enc 0x022 h 0 0 0 0 0 0) = _)⟩

theorem RoundTrip.tfence (h : Head) (va : Option SSrc) : RoundTrip.Statement (.tfence h va) := by
  intro hw
  have hk : h.ok .other = true := hw
  clear hw
  rcases va with _ | a
  · refine ⟨_, rfl, enc_fits _ _ _ _ _ _ _ _ (by decide) (by decide) z (eM_lt (by decide)) z z z, ?_⟩
    show fTfence (enc 0x023 h 0 0 (eM 0) 0 0 0) = _
    simp [fTfence, hk]
  · refine ⟨_, rfl, enc_fits _ _ _ _ _ _ _ _ (by decide) (by decide) z (eM_lt (by decide)) (eS_lt' _) z z, ?_⟩
    show fTfence (enc 0x023 h 0 0 (eM 1) (eS a) 0 0) = _
    simp [fTfence, hk]

theorem RoundTrip.rcfence (h : Head) (tid : Option SOp) : RoundTrip.Statement (.rcfence h tid) := by
  intro hk
  rcases tid with _ | t
  · have hk : (h.ok .other && true) = true := hk
    simp only [Bool.and_true] at hk
    refine ⟨_, rfl, enc_fits _ _ _ _ _ _ _ _ (by decide) (by decide) z (eM_lt (by decide)) z z z, ?_⟩
    show fRcfence (enc 0x024 h 0 0 (eM 1) 0 0 0) = _
    simp [fRcfence, hk]
  · have hk : (h.ok .other && t.below 4096) = true := hk
    simp only [Bool.and_eq_true] at hk
    refine ⟨_, rfl, enc_fits _ _ _ _ _ _ _ _ (by decide) (by decide) z (eM_lt (by decide)) (eSI_lt _) z z, ?_⟩
    show fRcfence (enc 0x024 h 0 0 (eM 0) (eSI t) 0 0) = _
    simp [fRcfence, hk, pBelow_of hk.2]

theorem RoundTrip.icfence (h : Head) : RoundTrip.Statement (.icfence h) := by
  intro hw
  have hk : (h.ok .other) = true := hw
  clear hw
  exact ⟨_, rfl, enc_fits _ _ _ _ _ _ _ _ (by decide) (by decide) z z z z z,
    (fZ_back .icfence 0x025 hk : fZ .icfence (enc 0x025 h 0 0 0 0 0 0) = _)⟩

theorem RoundTrip.li (h : Head) (d : SDst) (v : W64) : RoundTrip.Statement (.li h d v) := by
  intro hw
  have hk : (h.ok .other) = true := hw
  clear hw
  refine ⟨_, rfl, enc_fits _ _ _ _ _ _ _ _ (by decide) (sdstWb_lt _) (eSD_lt _) (eI_lt _) (eI_lt _) (eI_lt _) (eI_lt
      _), ?_⟩
  show fLi (enc 0x030 h d.wb (eSD d) (eI (v.extractLsb' 48 16)) (eI (v.extractLsb' 32 16)) (eI (v.extractLsb' 16 16))
      (eI (v.extractLsb' 0 16))) = _
  simp [fLi, hk, quarters_back]

theorem RoundTrip.mov (h : Head) (d : SDst) (a : SOp) : RoundTrip.Statement (.mov h d a) := by
  intro hw
  have hk : (h.ok .other) = true := hw
  clear hw
  exact ⟨_, rfl, enc_fits _ _ _ _ _ _ _ _ (by decide) (sdstWb_lt _) (eSD_lt _) (eSI_lt _) z z z,
    (fDSI_back .mov 0x031 d a hk : fDSI .mov (enc 0x031 h d.wb (eSD d) (eSI a) 0 0 0) = _)⟩

theorem RoundTrip.add (h : Head) (d : SDst) (a : SSrc) (b : SOp) : RoundTrip.Statement (.add h d a b) := by
  intro hw
  have hk : (h.ok .other) = true := hw
  clear hw
  exact ⟨_, rfl, enc_fits _ _ _ _ _ _ _ _ (by decide) (sdstWb_lt _) (eSD_lt _) (eS_lt' _) (eSI_lt _) z z,
    (fDSS_back .add 0x032 d a b hk : fDSS .add (eDSS 0x032 h d a b) = _)⟩

theorem RoundTrip.sub (h : Head) (d : SDst) (a : SSrc) (b : SOp) : RoundTrip.Statement (.sub h d a b) := by
  intro hw
  have hk : (h.ok .other) = true := hw
  clear hw
  exact ⟨_, rfl, enc_fits _ _ _ _ _ _ _ _ (by decide) (sdstWb_lt _) (eSD_lt _) (eS_lt' _) (eSI_lt _) z z,
    (fDSS_back .sub 0x033 d a b hk : fDSS .sub (eDSS 0x033 h d a b) = _)⟩

theorem RoundTrip.mul (h : Head) (d : SDst) (a : SSrc) (b : SOp) : RoundTrip.Statement (.mul h d a b) := by
  intro hw
  have hk : (h.ok .other) = true := hw
  clear hw
  exact ⟨_, rfl, enc_fits _ _ _ _ _ _ _ _ (by decide) (sdstWb_lt _) (eSD_lt _) (eS_lt' _) (eSI_lt _) z z,
    (fDSS_back .mul 0x034 d a b hk : fDSS .mul (eDSS 0x034 h d a b) = _)⟩

theorem RoundTrip.mulh (h : Head) (d : SDst) (a : SSrc) (b : SOp) : RoundTrip.Statement (.mulh h d a b) := by
  intro hw
  have hk : (h.ok .other) = true := hw
  clear hw
  exact ⟨_, rfl, enc_fits _ _ _ _ _ _ _ _ (by decide) (sdstWb_lt _) (eSD_lt _) (eS_lt' _) (eSI_lt _) z z,
    (fDSS_back .mulh 0x035 d a b hk : fDSS .mulh (eDSS 0x035 h d a b) = _)⟩

theorem RoundTrip.mulhu (h : Head) (d : SDst) (a : SSrc) (b : SOp) : RoundTrip.Statement (.mulhu h d a b) := by
  intro hw
  have hk : (h.ok .other) = true := hw
  clear hw
  exact ⟨_, rfl, enc_fits _ _ _ _ _ _ _ _ (by decide) (sdstWb_lt _) (eSD_lt _) (eS_lt' _) (eSI_lt _) z z,
    (fDSS_back .mulhu 0x036 d a b hk : fDSS .mulhu (eDSS 0x036 h d a b) = _)⟩

theorem RoundTrip.div (h : Head) (d : SDst) (a : SSrc) (b : SOp) : RoundTrip.Statement (.div h d a b) := by
  intro hw
  have hk : (h.ok .other) = true := hw
  clear hw
  exact ⟨_, rfl, enc_fits _ _ _ _ _ _ _ _ (by decide) (sdstWb_lt _) (eSD_lt _) (eS_lt' _) (eSI_lt _) z z,
    (fDSS_back .div 0x037 d a b hk : fDSS .div (eDSS 0x037 h d a b) = _)⟩

theorem RoundTrip.divu (h : Head) (d : SDst) (a : SSrc) (b : SOp) : RoundTrip.Statement (.divu h d a b) := by
  intro hw
  have hk : (h.ok .other) = true := hw
  clear hw
  exact ⟨_, rfl, enc_fits _ _ _ _ _ _ _ _ (by decide) (sdstWb_lt _) (eSD_lt _) (eS_lt' _) (eSI_lt _) z z,
    (fDSS_back .divu 0x038 d a b hk : fDSS .divu (eDSS 0x038 h d a b) = _)⟩

theorem RoundTrip.rem (h : Head) (d : SDst) (a : SSrc) (b : SOp) : RoundTrip.Statement (.rem h d a b) := by
  intro hw
  have hk : (h.ok .other) = true := hw
  clear hw
  exact ⟨_, rfl, enc_fits _ _ _ _ _ _ _ _ (by decide) (sdstWb_lt _) (eSD_lt _) (eS_lt' _) (eSI_lt _) z z,
    (fDSS_back .rem 0x039 d a b hk : fDSS .rem (eDSS 0x039 h d a b) = _)⟩

theorem RoundTrip.remu (h : Head) (d : SDst) (a : SSrc) (b : SOp) : RoundTrip.Statement (.remu h d a b) := by
  intro hw
  have hk : (h.ok .other) = true := hw
  clear hw
  exact ⟨_, rfl, enc_fits _ _ _ _ _ _ _ _ (by decide) (sdstWb_lt _) (eSD_lt _) (eS_lt' _) (eSI_lt _) z z,
    (fDSS_back .remu 0x03A d a b hk : fDSS .remu (eDSS 0x03A h d a b) = _)⟩

theorem RoundTrip.and (h : Head) (d : SDst) (a : SSrc) (b : SOp) : RoundTrip.Statement (.and h d a b) := by
  intro hw
  have hk : (h.ok .other) = true := hw
  clear hw
  exact ⟨_, rfl, enc_fits _ _ _ _ _ _ _ _ (by decide) (sdstWb_lt _) (eSD_lt _) (eS_lt' _) (eSI_lt _) z z,
    (fDSS_back .and 0x03B d a b hk : fDSS .and (eDSS 0x03B h d a b) = _)⟩

theorem RoundTrip.or (h : Head) (d : SDst) (a : SSrc) (b : SOp) : RoundTrip.Statement (.or h d a b) := by
  intro hw
  have hk : (h.ok .other) = true := hw
  clear hw
  exact ⟨_, rfl, enc_fits _ _ _ _ _ _ _ _ (by decide) (sdstWb_lt _) (eSD_lt _) (eS_lt' _) (eSI_lt _) z z,
    (fDSS_back .or 0x03C d a b hk : fDSS .or (eDSS 0x03C h d a b) = _)⟩

theorem RoundTrip.xor (h : Head) (d : SDst) (a : SSrc) (b : SOp) : RoundTrip.Statement (.xor h d a b) := by
  intro hw
  have hk : (h.ok .other) = true := hw
  clear hw
  exact ⟨_, rfl, enc_fits _ _ _ _ _ _ _ _ (by decide) (sdstWb_lt _) (eSD_lt _) (eS_lt' _) (eSI_lt _) z z,
    (fDSS_back .xor 0x03D d a b hk : fDSS .xor (eDSS 0x03D h d a b) = _)⟩

theorem RoundTrip.andn (h : Head) (d : SDst) (a : SSrc) (b : SOp) : RoundTrip.Statement (.andn h d a b) := by
  intro hw
  have hk : (h.ok .other) = true := hw
  clear hw
  exact ⟨_, rfl, enc_fits _ _ _ _ _ _ _ _ (by decide) (sdstWb_lt _) (eSD_lt _) (eS_lt' _) (eSI_lt _) z z,
    (fDSS_back .andn 0x03E d a b hk : fDSS .andn (eDSS 0x03E h d a b) = _)⟩

theorem RoundTrip.shl (h : Head) (d : SDst) (a : SSrc) (b : SOp) : RoundTrip.Statement (.shl h d a b) := by
  intro hw
  have hk : (h.ok .other) = true := hw
  clear hw
  exact ⟨_, rfl, enc_fits _ _ _ _ _ _ _ _ (by decide) (sdstWb_lt _) (eSD_lt _) (eS_lt' _) (eSI_lt _) z z,
    (fDSS_back .shl 0x03F d a b hk : fDSS .shl (eDSS 0x03F h d a b) = _)⟩

theorem RoundTrip.shr (h : Head) (d : SDst) (a : SSrc) (b : SOp) : RoundTrip.Statement (.shr h d a b) := by
  intro hw
  have hk : (h.ok .other) = true := hw
  clear hw
  exact ⟨_, rfl, enc_fits _ _ _ _ _ _ _ _ (by decide) (sdstWb_lt _) (eSD_lt _) (eS_lt' _) (eSI_lt _) z z,
    (fDSS_back .shr 0x040 d a b hk : fDSS .shr (eDSS 0x040 h d a b) = _)⟩

theorem RoundTrip.sar (h : Head) (d : SDst) (a : SSrc) (b : SOp) : RoundTrip.Statement (.sar h d a b) := by
  intro hw
  have hk : (h.ok .other) = true := hw
  clear hw
  exact ⟨_, rfl, enc_fits _ _ _ _ _ _ _ _ (by decide) (sdstWb_lt _) (eSD_lt _) (eS_lt' _) (eSI_lt _) z z,
    (fDSS_back .sar 0x041 d a b hk : fDSS .sar (eDSS 0x041 h d a b) = _)⟩

theorem RoundTrip.rol (h : Head) (d : SDst) (a : SSrc) (b : SOp) : RoundTrip.Statement (.rol h d a b) := by
  intro hw
  have hk : (h.ok .other) = true := hw
  clear hw
  exact ⟨_, rfl, enc_fits _ _ _ _ _ _ _ _ (by decide) (sdstWb_lt _) (eSD_lt _) (eS_lt' _) (eSI_lt _) z z,
    (fDSS_back .rol 0x042 d a b hk : fDSS .rol (eDSS 0x042 h d a b) = _)⟩

theorem RoundTrip.clz (h : Head) (d : SDst) (a : SSrc) : RoundTrip.Statement (.clz h d a) := by
  intro hw
  have hk : (h.ok .other) = true := hw
  clear hw
  exact ⟨_, rfl, enc_fits _ _ _ _ _ _ _ _ (by decide) (sdstWb_lt _) (eSD_lt _) (eS_lt' _) z z z,
    (fDS_back .clz 0x043 d a hk : fDS .clz (eDS 0x043 h d a) = _)⟩

theorem RoundTrip.ctz (h : Head) (d : SDst) (a : SSrc) : RoundTrip.Statement (.ctz h d a) := by
  intro hw
  have hk : (h.ok .other) = true := hw
  clear hw
  exact ⟨_, rfl, enc_fits _ _ _ _ _ _ _ _ (by decide) (sdstWb_lt _) (eSD_lt _) (eS_lt' _) z z z,
    (fDS_back .ctz 0x044 d a hk : fDS .ctz (eDS 0x044 h d a) = _)⟩

theorem RoundTrip.popc (h : Head) (d : SDst) (a : SSrc) : RoundTrip.Statement (.popc h d a) := by
  intro hw
  have hk : (h.ok .other) = true := hw
  clear hw
  exact ⟨_, rfl, enc_fits _ _ _ _ _ _ _ _ (by decide) (sdstWb_lt _) (eSD_lt _) (eS_lt' _) z z z,
    (fDS_back .popc 0x045 d a hk : fDS .popc (eDS 0x045 h d a) = _)⟩

theorem RoundTrip.abs (h : Head) (d : SDst) (a : SSrc) : RoundTrip.Statement (.abs h d a) := by
  intro hw
  have hk : (h.ok .other) = true := hw
  clear hw
  exact ⟨_, rfl, enc_fits _ _ _ _ _ _ _ _ (by decide) (sdstWb_lt _) (eSD_lt _) (eS_lt' _) z z z,
    (fDS_back .abs 0x051 d a hk : fDS .abs (eDS 0x051 h d a) = _)⟩

theorem RoundTrip.min (h : Head) (d : SDst) (a : SSrc) (b : SOp) : RoundTrip.Statement (.min h d a b) := by
  intro hw
  have hk : (h.ok .other) = true := hw
  clear hw
  exact ⟨_, rfl, enc_fits _ _ _ _ _ _ _ _ (by decide) (sdstWb_lt _) (eSD_lt _) (eS_lt' _) (eSI_lt _) z z,
    (fDSS_back .min 0x046 d a b hk : fDSS .min (eDSS 0x046 h d a b) = _)⟩

theorem RoundTrip.max (h : Head) (d : SDst) (a : SSrc) (b : SOp) : RoundTrip.Statement (.max h d a b) := by
  intro hw
  have hk : (h.ok .other) = true := hw
  clear hw
  exact ⟨_, rfl, enc_fits _ _ _ _ _ _ _ _ (by decide) (sdstWb_lt _) (eSD_lt _) (eS_lt' _) (eSI_lt _) z z,
    (fDSS_back .max 0x047 d a b hk : fDSS .max (eDSS 0x047 h d a b) = _)⟩

theorem RoundTrip.minu (h : Head) (d : SDst) (a : SSrc) (b : SOp) : RoundTrip.Statement (.minu h d a b) := by
  intro hw
  have hk : (h.ok .other) = true := hw
  clear hw
  exact ⟨_, rfl, enc_fits _ _ _ _ _ _ _ _ (by decide) (sdstWb_lt _) (eSD_lt _) (eS_lt' _) (eSI_lt _) z z,
    (fDSS_back .minu 0x048 d a b hk : fDSS .minu (eDSS 0x048 h d a b) = _)⟩

theorem RoundTrip.maxu (h : Head) (d : SDst) (a : SSrc) (b : SOp) : RoundTrip.Statement (.maxu h d a b) := by
  intro hw
  have hk : (h.ok .other) = true := hw
  clear hw
  exact ⟨_, rfl, enc_fits _ _ _ _ _ _ _ _ (by decide) (sdstWb_lt _) (eSD_lt _) (eS_lt' _) (eSI_lt _) z z,
    (fDSS_back .maxu 0x049 d a b hk : fDSS .maxu (eDSS 0x049 h d a b) = _)⟩

theorem RoundTrip.sel (h : Head) (d : SDst) (p : Fin 16) (a : SSrc) (b : SOp) : RoundTrip.Statement (.sel h d p a b)
    := by
  intro hw
  have hk : (h.ok .other) = true := hw
  clear hw
  refine ⟨_, rfl, enc_fits _ _ _ _ _ _ _ _ (by decide) (sdstWb_lt _) (eSD_lt _) (eN_lt (Nat.lt_of_lt_of_le p.isLt (by
      decide))) (eS_lt' _) (eSI_lt _) z, ?_⟩
  show fSel (enc 0x04A h d.wb (eSD d) (eN p.val) (eS a) (eSI b) 0) = _
  simp [fSel, hk]

theorem RoundTrip.cmp (h : Head) (c : Cond) (d : Fin 16) (a : SSrc) (b : SOp) : RoundTrip.Statement (.cmp h c d a b)
    := by
  intro hw
  have hk : (h.ok .other) = true := hw
  clear hw
  have hm0 : c.code < 65536 := by
    have := c.code_lt
    omega
  refine ⟨_, rfl, enc_fits _ _ _ _ _ _ _ _ (by decide) (by decide) (eN_lt (Nat.lt_of_lt_of_le d.isLt (by decide)))
      (eS_lt' _) (eSI_lt _) (eM_lt hm0) z, ?_⟩
  show fCmp (enc 0x04B h 1 (eN d.val) (eS a) (eSI b) (eM c.code) 0) = _
  simp [fCmp, hk]

theorem RoundTrip.sext (h : Head) (d : SDst) (a : SSrc) (w : W16) : RoundTrip.Statement (.sext h d a w) := by
  intro hw
  have hk : (h.ok .other && decide (1 ≤ w.toNat ∧ w.toNat ≤ 64)) = true := hw
  clear hw
  exact ⟨_, rfl, enc_fits _ _ _ _ _ _ _ _ (by decide) (sdstWb_lt _) (eSD_lt _) (eS_lt' _) (eI_lt _) z z,
    (fExt_back .sext 0x04C d a w hk : fExt .sext (enc 0x04C h d.wb (eSD d) (eS a) (eI w) 0 0) = _)⟩

theorem RoundTrip.zext (h : Head) (d : SDst) (a : SSrc) (w : W16) : RoundTrip.Statement (.zext h d a w) := by
  intro hw
  have hk : (h.ok .other && decide (1 ≤ w.toNat ∧ w.toNat ≤ 64)) = true := hw
  clear hw
  exact ⟨_, rfl, enc_fits _ _ _ _ _ _ _ _ (by decide) (sdstWb_lt _) (eSD_lt _) (eS_lt' _) (eI_lt _) z z,
    (fExt_back .zext 0x04D d a w hk : fExt .zext (enc 0x04D h d.wb (eSD d) (eS a) (eI w) 0 0) = _)⟩

theorem RoundTrip.aidx (h : Head) (d : SDst) (a : SSrc) (b : SOp) (k : W16) : RoundTrip.Statement (.aidx h d a b k)
    := by
  intro hw
  have hk : (h.ok .other && decide (k.toNat ≤ 7)) = true := hw
  clear hw
  refine ⟨_, rfl, enc_fits _ _ _ _ _ _ _ _ (by decide) (sdstWb_lt _) (eSD_lt _) (eS_lt' _) (eSI_lt _) (eI_lt _) z, ?_⟩
  show fAidx (enc 0x04E h d.wb (eSD d) (eS a) (eSI b) (eI k) 0) = _
  simp only [Bool.and_eq_true, decide_eq_true_eq] at hk
  simp [fAidx, hk]

theorem RoundTrip.bfx (h : Head) (d : SDst) (a : SSrc) (p : W16) (l : W16) : RoundTrip.Statement (.bfx h d a p l) :=
    by
  intro hw
  have hk : (h.ok .other && fieldOk p l) = true := hw
  clear hw
  refine ⟨_, rfl, enc_fits _ _ _ _ _ _ _ _ (by decide) (sdstWb_lt _) (eSD_lt _) (eS_lt' _) (eI_lt _) (eI_lt _) z, ?_⟩
  show fBfx (enc 0x04F h d.wb (eSD d) (eS a) (eI p) (eI l) 0) = _
  simp only [Bool.and_eq_true] at hk
  have hp : p.toNat ≤ 63 := by
    have := hk.2
    simp only [fieldOk, decide_eq_true_eq] at this
    exact this.1
  simp [fBfx, pPos, hk, hp]

theorem RoundTrip.bfi (h : Head) (d : SDst) (a : SSrc) (b : SOp) (p : W16) (l : W16) : RoundTrip.Statement (.bfi h d
    a b p l) := by
  intro hw
  have hk : (h.ok .other && fieldOk p l) = true := hw
  clear hw
  refine ⟨_, rfl, enc_fits _ _ _ _ _ _ _ _ (by decide) (sdstWb_lt _) (eSD_lt _) (eS_lt' _) (eSI_lt _) (eI_lt _)
      (eI_lt _), ?_⟩
  show fBfi (enc 0x050 h d.wb (eSD d) (eS a) (eSI b) (eI p) (eI l)) = _
  simp only [Bool.and_eq_true] at hk
  have hp : p.toNat ≤ 63 := by
    have := hk.2
    simp only [fieldOk, decide_eq_true_eq] at this
    exact this.1
  simp [fBfi, pPos, hk, hp]

theorem RoundTrip.pand (h : Head) (d : Fin 16) (a : Fin 16) (b : Fin 16) : RoundTrip.Statement (.pand h d a b) := by
  intro hw
  have hk : (h.ok .other) = true := hw
  clear hw
  exact ⟨_, rfl, enc_fits _ _ _ _ _ _ _ _ (by decide) (by decide) (eN_lt (Nat.lt_of_lt_of_le d.isLt (by decide)))
      (eN_lt (Nat.lt_of_lt_of_le a.isLt (by decide))) (eN_lt (Nat.lt_of_lt_of_le b.isLt (by decide))) z z,
    (fPPP_back .pand 0x058 d a b hk : fPPP .pand (enc 0x058 h 1 (eN d.val) (eN a.val) (eN b.val) 0 0) = _)⟩

theorem RoundTrip.por (h : Head) (d : Fin 16) (a : Fin 16) (b : Fin 16) : RoundTrip.Statement (.por h d a b) := by
  intro hw
  have hk : (h.ok .other) = true := hw
  clear hw
  exact ⟨_, rfl, enc_fits _ _ _ _ _ _ _ _ (by decide) (by decide) (eN_lt (Nat.lt_of_lt_of_le d.isLt (by decide)))
      (eN_lt (Nat.lt_of_lt_of_le a.isLt (by decide))) (eN_lt (Nat.lt_of_lt_of_le b.isLt (by decide))) z z,
    (fPPP_back .por 0x059 d a b hk : fPPP .por (enc 0x059 h 1 (eN d.val) (eN a.val) (eN b.val) 0 0) = _)⟩

theorem RoundTrip.pxor (h : Head) (d : Fin 16) (a : Fin 16) (b : Fin 16) : RoundTrip.Statement (.pxor h d a b) := by
  intro hw
  have hk : (h.ok .other) = true := hw
  clear hw
  exact ⟨_, rfl, enc_fits _ _ _ _ _ _ _ _ (by decide) (by decide) (eN_lt (Nat.lt_of_lt_of_le d.isLt (by decide)))
      (eN_lt (Nat.lt_of_lt_of_le a.isLt (by decide))) (eN_lt (Nat.lt_of_lt_of_le b.isLt (by decide))) z z,
    (fPPP_back .pxor 0x05A d a b hk : fPPP .pxor (enc 0x05A h 1 (eN d.val) (eN a.val) (eN b.val) 0 0) = _)⟩

theorem RoundTrip.pnot (h : Head) (d : Fin 16) (a : Fin 16) : RoundTrip.Statement (.pnot h d a) := by
  intro hw
  have hk : (h.ok .other) = true := hw
  clear hw
  refine ⟨_, rfl, enc_fits _ _ _ _ _ _ _ _ (by decide) (by decide) (eN_lt (Nat.lt_of_lt_of_le d.isLt (by decide)))
      (eN_lt (Nat.lt_of_lt_of_le a.isLt (by decide))) z z z, ?_⟩
  show fPnot (enc 0x05B h 1 (eN d.val) (eN a.val) 0 0 0) = _
  simp [fPnot, hk]

theorem RoundTrip.pmov (h : Head) (d : Fin 16) (a : PredOp) : RoundTrip.Statement (.pmov h d a) := by
  intro hw
  have hk : (h.ok .other) = true := hw
  clear hw
  refine ⟨_, rfl, enc_fits _ _ _ _ _ _ _ _ (by decide) (by decide) (eN_lt (Nat.lt_of_lt_of_le d.isLt (by decide)))
      (ePOp_lt _) z z z, ?_⟩
  show fPmov (enc 0x05C h 1 (eN d.val) (ePOp a) 0 0 0) = _
  simp [fPmov, hk]

theorem RoundTrip.fcnt (h : Head) (d : SDst) (n : FifoName) : RoundTrip.Statement (.fcnt h d n) := by
  intro hw
  have hk : (h.ok .other) = true := hw
  clear hw
  refine ⟨_, rfl, enc_fits _ _ _ _ _ _ _ _ (by decide) (sdstWb_lt _) (eSD_lt _) (eN_lt n.num_lt) (eM_lt (Nat.lt_trans
      n.kind_lt (by decide))) z z, ?_⟩
  show fFcnt (enc 0x060 h d.wb (eSD d) (eN n.num) (eM n.kind) 0 0) = _
  simp [fFcnt, hk, n.num_lt, n.kind_lt]

theorem RoundTrip.fdrop (h : Head) (n : FifoName) : RoundTrip.Statement (.fdrop h n) := by
  intro hw
  have hk : (h.ok .other) = true := hw
  clear hw
  exact ⟨_, rfl, enc_fits _ _ _ _ _ _ _ _ (by decide) (by decide) z (eN_lt n.num_lt) (eM_lt (Nat.lt_trans n.kind_lt
      (by decide))) z z,
    (fFifo_back .fdrop 0x061 n hk : fFifo .fdrop (enc 0x061 h 0 0 (eN n.num) (eM n.kind) 0 0) = _)⟩

theorem RoundTrip.fclr (h : Head) (n : FifoName) : RoundTrip.Statement (.fclr h n) := by
  intro hw
  have hk : (h.ok .other) = true := hw
  clear hw
  exact ⟨_, rfl, enc_fits _ _ _ _ _ _ _ _ (by decide) (by decide) z (eN_lt n.num_lt) (eM_lt (Nat.lt_trans n.kind_lt
      (by decide))) z z,
    (fFifo_back .fclr 0x062 n hk : fFifo .fclr (enc 0x062 h 0 0 (eN n.num) (eM n.kind) 0 0) = _)⟩

theorem RoundTrip.vadd (h : Head) (d : VDst) (b : VSrc) (c : VOp) (m : Fin 8) (rm : RM) (sat : Bool) :
    RoundTrip.Statement (.vadd h d b c m rm sat) := by
  intro hw
  have hk : (h.ok .vxe && rm.det) = true := hw
  clear hw
  have hm0 : m.val + rm.code * 8 + b2n sat * 64 < 65536 := by
    have := m.isLt
    have := rm.code_lt
    have := b2n_lt sat
    omega
  exact ⟨_, rfl, enc_fits _ _ _ _ _ _ _ _ (by decide) (vdstWb_lt _) (eVD_lt _) (eV_lt' _) (eVI_lt _) (eM_lt hm0) z,
    (fV3r_back .vadd 0x080 d b c m rm sat hk : fV3r .vadd (eV3 0x080 h d b c (m.val + rm.code * 8 + b2n sat * 64)) =
        _)⟩

theorem RoundTrip.vsub (h : Head) (d : VDst) (b : VSrc) (c : VOp) (m : Fin 8) (rm : RM) (sat : Bool) :
    RoundTrip.Statement (.vsub h d b c m rm sat) := by
  intro hw
  have hk : (h.ok .vxe && rm.det) = true := hw
  clear hw
  have hm0 : m.val + rm.code * 8 + b2n sat * 64 < 65536 := by
    have := m.isLt
    have := rm.code_lt
    have := b2n_lt sat
    omega
  exact ⟨_, rfl, enc_fits _ _ _ _ _ _ _ _ (by decide) (vdstWb_lt _) (eVD_lt _) (eV_lt' _) (eVI_lt _) (eM_lt hm0) z,
    (fV3r_back .vsub 0x081 d b c m rm sat hk : fV3r .vsub (eV3 0x081 h d b c (m.val + rm.code * 8 + b2n sat * 64)) =
        _)⟩

theorem RoundTrip.vmul (h : Head) (d : VDst) (b : VSrc) (c : VOp) (m : Fin 8) (rm : RM) (sat : Bool) :
    RoundTrip.Statement (.vmul h d b c m rm sat) := by
  intro hw
  have hk : (h.ok .vxe && rm.det) = true := hw
  clear hw
  have hm0 : m.val + rm.code * 8 + b2n sat * 64 < 65536 := by
    have := m.isLt
    have := rm.code_lt
    have := b2n_lt sat
    omega
  exact ⟨_, rfl, enc_fits _ _ _ _ _ _ _ _ (by decide) (vdstWb_lt _) (eVD_lt _) (eV_lt' _) (eVI_lt _) (eM_lt hm0) z,
    (fV3r_back .vmul 0x082 d b c m rm sat hk : fV3r .vmul (eV3 0x082 h d b c (m.val + rm.code * 8 + b2n sat * 64)) =
        _)⟩

theorem RoundTrip.vfma (h : Head) (d : VDst) (b : VSrc) (c : VOp) (e : VOp) : RoundTrip.Statement (.vfma h d b c e)
    := by
  intro hw
  have hk : (h.ok .vxe) = true := hw
  clear hw
  exact ⟨_, rfl, enc_fits _ _ _ _ _ _ _ _ (by decide) (vdstWb_lt _) (eVD_lt _) (eV_lt' _) (eVI_lt _) (eVI_lt _) z,
    (fV4_back .vfma 0x083 d b c e hk : fV4 .vfma (eV4 0x083 h d b c e) = _)⟩

theorem RoundTrip.vfms (h : Head) (d : VDst) (b : VSrc) (c : VOp) (e : VOp) : RoundTrip.Statement (.vfms h d b c e)
    := by
  intro hw
  have hk : (h.ok .vxe) = true := hw
  clear hw
  exact ⟨_, rfl, enc_fits _ _ _ _ _ _ _ _ (by decide) (vdstWb_lt _) (eVD_lt _) (eV_lt' _) (eVI_lt _) (eVI_lt _) z,
    (fV4_back .vfms 0x084 d b c e hk : fV4 .vfms (eV4 0x084 h d b c e) = _)⟩

theorem RoundTrip.vnfma (h : Head) (d : VDst) (b : VSrc) (c : VOp) (e : VOp) : RoundTrip.Statement (.vnfma h d b c e)
    := by
  intro hw
  have hk : (h.ok .vxe) = true := hw
  clear hw
  exact ⟨_, rfl, enc_fits _ _ _ _ _ _ _ _ (by decide) (vdstWb_lt _) (eVD_lt _) (eV_lt' _) (eVI_lt _) (eVI_lt _) z,
    (fV4_back .vnfma 0x085 d b c e hk : fV4 .vnfma (eV4 0x085 h d b c e) = _)⟩

theorem RoundTrip.vmin (h : Head) (d : VDst) (b : VSrc) (c : VOp) (m : Fin 8) : RoundTrip.Statement (.vmin h d b c m)
    := by
  intro hw
  have hk : (h.ok .vxe) = true := hw
  clear hw
  have hm0 : m.val < 65536 := by
    have := m.isLt
    omega
  exact ⟨_, rfl, enc_fits _ _ _ _ _ _ _ _ (by decide) (vdstWb_lt _) (eVD_lt _) (eV_lt' _) (eVI_lt _) (eM_lt hm0) z,
    (fV3_back .vmin 0x086 d b c m hk : fV3 .vmin (eV3 0x086 h d b c m.val) = _)⟩

theorem RoundTrip.vmax (h : Head) (d : VDst) (b : VSrc) (c : VOp) (m : Fin 8) : RoundTrip.Statement (.vmax h d b c m)
    := by
  intro hw
  have hk : (h.ok .vxe) = true := hw
  clear hw
  have hm0 : m.val < 65536 := by
    have := m.isLt
    omega
  exact ⟨_, rfl, enc_fits _ _ _ _ _ _ _ _ (by decide) (vdstWb_lt _) (eVD_lt _) (eV_lt' _) (eVI_lt _) (eM_lt hm0) z,
    (fV3_back .vmax 0x087 d b c m hk : fV3 .vmax (eV3 0x087 h d b c m.val) = _)⟩

theorem RoundTrip.vabs (h : Head) (d : VDst) (b : VSrc) (m : Fin 8) : RoundTrip.Statement (.vabs h d b m) := by
  intro hw
  have hk : (h.ok .vxe) = true := hw
  clear hw
  have hm0 : m.val < 65536 := by
    have := m.isLt
    omega
  exact ⟨_, rfl, enc_fits _ _ _ _ _ _ _ _ (by decide) (vdstWb_lt _) (eVD_lt _) (eV_lt' _) (eM_lt hm0) z z,
    (fV2_back .vabs 0x088 d b m hk : fV2 .vabs (eV2 0x088 h d b m.val) = _)⟩

theorem RoundTrip.vneg (h : Head) (d : VDst) (b : VSrc) (m : Fin 8) : RoundTrip.Statement (.vneg h d b m) := by
  intro hw
  have hk : (h.ok .vxe) = true := hw
  clear hw
  have hm0 : m.val < 65536 := by
    have := m.isLt
    omega
  exact ⟨_, rfl, enc_fits _ _ _ _ _ _ _ _ (by decide) (vdstWb_lt _) (eVD_lt _) (eV_lt' _) (eM_lt hm0) z z,
    (fV2_back .vneg 0x089 d b m hk : fV2 .vneg (eV2 0x089 h d b m.val) = _)⟩

theorem RoundTrip.vclamp (h : Head) (d : VDst) (b : VSrc) (c : VOp) (e : VOp) : RoundTrip.Statement (.vclamp h d b c
    e) := by
  intro hw
  have hk : (h.ok .vxe) = true := hw
  clear hw
  exact ⟨_, rfl, enc_fits _ _ _ _ _ _ _ _ (by decide) (vdstWb_lt _) (eVD_lt _) (eV_lt' _) (eVI_lt _) (eVI_lt _) z,
    (fV4_back .vclamp 0x08A d b c e hk : fV4 .vclamp (eV4 0x08A h d b c e) = _)⟩

theorem RoundTrip.vcmp (h : Head) (k : VCond) (d : Fin 8) (b : VSrc) (c : VOp) (m : Fin 8) : RoundTrip.Statement
    (.vcmp h k d b c m) := by
  intro hw
  have hk : (h.ok .vxe) = true := hw
  clear hw
  have hm0 : m.val + k.code * 128 < 65536 := by
    have := m.isLt
    have := k.code_lt
    omega
  refine ⟨_, rfl, enc_fits _ _ _ _ _ _ _ _ (by decide) (by decide) (eN_lt (Nat.lt_of_lt_of_le d.isLt (by decide)))
      (eV_lt' _) (eVI_lt _) (eM_lt hm0) z, ?_⟩
  show fVcmp (enc 0x08B h 1 (eN d.val) (eV b) (eVI c) (eM (m.val + k.code * 128)) 0) = _
  have := m.isLt
  have := k.code_lt
  have e1 : (m.val + k.code * 128) / 128 = k.code := by omega
  have e2 : (m.val + k.code * 128) % 8 = m.val := by omega
  simp [fVcmp, hk, e1, e2, show m.val % 128 < 8 by omega]

theorem RoundTrip.vsel (h : Head) (d : VDst) (k : Fin 8) (b : VSrc) (c : VOp) : RoundTrip.Statement (.vsel h d k b c)
    := by
  intro hw
  have hk : (h.ok .vxe) = true := hw
  clear hw
  refine ⟨_, rfl, enc_fits _ _ _ _ _ _ _ _ (by decide) (vdstWb_lt _) (eVD_lt _) (eN_lt (Nat.lt_of_lt_of_le k.isLt (by
      decide))) (eV_lt' _) (eVI_lt _) z, ?_⟩
  show fVsel (enc 0x08C h d.wb (eVD d) (eN k.val) (eV b) (eVI c) 0) = _
  simp [fVsel, hk]

theorem RoundTrip.vand (h : Head) (d : VDst) (b : VSrc) (c : VOp) (m : Fin 8) : RoundTrip.Statement (.vand h d b c m)
    := by
  intro hw
  have hk : (h.ok .vxe) = true := hw
  clear hw
  have hm0 : m.val < 65536 := by
    have := m.isLt
    omega
  exact ⟨_, rfl, enc_fits _ _ _ _ _ _ _ _ (by decide) (vdstWb_lt _) (eVD_lt _) (eV_lt' _) (eVI_lt _) (eM_lt hm0) z,
    (fV3_back .vand 0x08D d b c m hk : fV3 .vand (eV3 0x08D h d b c m.val) = _)⟩

theorem RoundTrip.vor (h : Head) (d : VDst) (b : VSrc) (c : VOp) (m : Fin 8) : RoundTrip.Statement (.vor h d b c m)
    := by
  intro hw
  have hk : (h.ok .vxe) = true := hw
  clear hw
  have hm0 : m.val < 65536 := by
    have := m.isLt
    omega
  exact ⟨_, rfl, enc_fits _ _ _ _ _ _ _ _ (by decide) (vdstWb_lt _) (eVD_lt _) (eV_lt' _) (eVI_lt _) (eM_lt hm0) z,
    (fV3_back .vor 0x08E d b c m hk : fV3 .vor (eV3 0x08E h d b c m.val) = _)⟩

theorem RoundTrip.vxor (h : Head) (d : VDst) (b : VSrc) (c : VOp) (m : Fin 8) : RoundTrip.Statement (.vxor h d b c m)
    := by
  intro hw
  have hk : (h.ok .vxe) = true := hw
  clear hw
  have hm0 : m.val < 65536 := by
    have := m.isLt
    omega
  exact ⟨_, rfl, enc_fits _ _ _ _ _ _ _ _ (by decide) (vdstWb_lt _) (eVD_lt _) (eV_lt' _) (eVI_lt _) (eM_lt hm0) z,
    (fV3_back .vxor 0x08F d b c m hk : fV3 .vxor (eV3 0x08F h d b c m.val) = _)⟩

theorem RoundTrip.vnot (h : Head) (d : VDst) (b : VSrc) (m : Fin 8) : RoundTrip.Statement (.vnot h d b m) := by
  intro hw
  have hk : (h.ok .vxe) = true := hw
  clear hw
  have hm0 : m.val < 65536 := by
    have := m.isLt
    omega
  exact ⟨_, rfl, enc_fits _ _ _ _ _ _ _ _ (by decide) (vdstWb_lt _) (eVD_lt _) (eV_lt' _) (eM_lt hm0) z z,
    (fV2_back .vnot 0x090 d b m hk : fV2 .vnot (eV2 0x090 h d b m.val) = _)⟩

theorem RoundTrip.vshl (h : Head) (d : VDst) (b : VSrc) (c : VOp) (m : Fin 8) : RoundTrip.Statement (.vshl h d b c m)
    := by
  intro hw
  have hk : (h.ok .vxe) = true := hw
  clear hw
  have hm0 : m.val < 65536 := by
    have := m.isLt
    omega
  exact ⟨_, rfl, enc_fits _ _ _ _ _ _ _ _ (by decide) (vdstWb_lt _) (eVD_lt _) (eV_lt' _) (eVI_lt _) (eM_lt hm0) z,
    (fV3_back .vshl 0x091 d b c m hk : fV3 .vshl (eV3 0x091 h d b c m.val) = _)⟩

theorem RoundTrip.vshr (h : Head) (d : VDst) (b : VSrc) (c : VOp) (m : Fin 8) : RoundTrip.Statement (.vshr h d b c m)
    := by
  intro hw
  have hk : (h.ok .vxe) = true := hw
  clear hw
  have hm0 : m.val < 65536 := by
    have := m.isLt
    omega
  exact ⟨_, rfl, enc_fits _ _ _ _ _ _ _ _ (by decide) (vdstWb_lt _) (eVD_lt _) (eV_lt' _) (eVI_lt _) (eM_lt hm0) z,
    (fV3_back .vshr 0x092 d b c m hk : fV3 .vshr (eV3 0x092 h d b c m.val) = _)⟩

theorem RoundTrip.vsar (h : Head) (d : VDst) (b : VSrc) (c : VOp) (m : Fin 8) : RoundTrip.Statement (.vsar h d b c m)
    := by
  intro hw
  have hk : (h.ok .vxe) = true := hw
  clear hw
  have hm0 : m.val < 65536 := by
    have := m.isLt
    omega
  exact ⟨_, rfl, enc_fits _ _ _ _ _ _ _ _ (by decide) (vdstWb_lt _) (eVD_lt _) (eV_lt' _) (eVI_lt _) (eM_lt hm0) z,
    (fV3_back .vsar 0x093 d b c m hk : fV3 .vsar (eV3 0x093 h d b c m.val) = _)⟩

theorem RoundTrip.vmulh (h : Head) (d : VDst) (b : VSrc) (c : VOp) (m : Fin 8) : RoundTrip.Statement (.vmulh h d b c
    m) := by
  intro hw
  have hk : (h.ok .vxe) = true := hw
  clear hw
  have hm0 : m.val < 65536 := by
    have := m.isLt
    omega
  exact ⟨_, rfl, enc_fits _ _ _ _ _ _ _ _ (by decide) (vdstWb_lt _) (eVD_lt _) (eV_lt' _) (eVI_lt _) (eM_lt hm0) z,
    (fV3_back .vmulh 0x094 d b c m hk : fV3 .vmulh (eV3 0x094 h d b c m.val) = _)⟩

theorem RoundTrip.vclz (h : Head) (d : VDst) (b : VSrc) (m : Fin 8) : RoundTrip.Statement (.vclz h d b m) := by
  intro hw
  have hk : (h.ok .vxe) = true := hw
  clear hw
  have hm0 : m.val < 65536 := by
    have := m.isLt
    omega
  exact ⟨_, rfl, enc_fits _ _ _ _ _ _ _ _ (by decide) (vdstWb_lt _) (eVD_lt _) (eV_lt' _) (eM_lt hm0) z z,
    (fV2_back .vclz 0x095 d b m hk : fV2 .vclz (eV2 0x095 h d b m.val) = _)⟩

theorem RoundTrip.vpopc (h : Head) (d : VDst) (b : VSrc) (m : Fin 8) : RoundTrip.Statement (.vpopc h d b m) := by
  intro hw
  have hk : (h.ok .vxe) = true := hw
  clear hw
  have hm0 : m.val < 65536 := by
    have := m.isLt
    omega
  exact ⟨_, rfl, enc_fits _ _ _ _ _ _ _ _ (by decide) (vdstWb_lt _) (eVD_lt _) (eV_lt' _) (eM_lt hm0) z z,
    (fV2_back .vpopc 0x096 d b m hk : fV2 .vpopc (eV2 0x096 h d b m.val) = _)⟩

theorem RoundTrip.vcvt (h : Head) (d : VDst) (b : VSrc) (m : Fin 8) (rm : RM) (ft : Fmt)
    (draw : Option (SSrc × SSrc)) : RoundTrip.Statement (.vcvt h d b m rm ft draw) := by
  intro hk
  have hk : (h.ok .vxe && ft.isCvt && decide (draw.isSome = decide (rm = .sr))) = true := hk
  simp only [Bool.and_eq_true, decide_eq_true_eq] at hk
  have := m.isLt
  have := rm.code_lt
  have := ft.code_lt
  have e1 : mFt m.val rm ft / 8 % 8 = rm.code := by simp only [mFt]; omega
  have e2 : mFt m.val rm ft / 128 % 16 = ft.code := by simp only [mFt]; omega
  have e3 : mFt m.val rm ft < 2048 := by simp only [mFt]; omega
  have e4 : mFt m.val rm ft / 64 % 2 = 0 := by simp only [mFt]; omega
  have e5 : mFt m.val rm ft % 8 = m.val := by simp only [mFt]; omega
  have e6 : eM (mFt m.val rm ft) < 262144 := eM_lt (Nat.lt_trans e3 (by decide))
  rcases draw with _ | ⟨sg, sp⟩
  · have hr : rm ≠ .sr := by simpa using hk.2
    refine ⟨_, rfl, enc_fits _ _ _ _ _ _ _ _ (by decide) (vdstWb_lt _) (eVD_lt _) (eV_lt' _) e6 z z, ?_⟩
    show fVcvt (eV2 0x097 h d b (mFt m.val rm ft)) = _
    simp [fVcvt, eV2, hk.1, e1, e2, e3, e4, e5, ftOf, hr]
  · have hr : rm = .sr := by simpa using hk.2
    refine ⟨_, rfl, enc_fits _ _ _ _ _ _ _ _ (by decide) (vdstWb_lt _) (eVD_lt _) (eV_lt' _) e6 (eS_lt' _) (eS_lt'
        _), ?_⟩
    show fVcvt (enc 0x097 h d.wb (eVD d) (eV b) (eM (mFt m.val rm ft)) (eS sg) (eS sp)) = _
    subst hr
    simp [fVcvt, hk.1, e1, e2, e3, e4, e5, ftOf]

theorem RoundTrip.vtag (h : Head) (d : VDst) (b : VSrc) (m : Fin 8) (ft : Fmt) : RoundTrip.Statement (.vtag h d b m
    ft) := by
  intro hw
  have hk : (h.ok .vxe) = true := hw
  clear hw
  have hm0 : m.val + ft.code * 128 < 65536 := by
    have := m.isLt
    have := ft.code_lt
    omega
  refine ⟨_, rfl, enc_fits _ _ _ _ _ _ _ _ (by decide) (vdstWb_lt _) (eVD_lt _) (eV_lt' _) (eM_lt hm0) z z, ?_⟩
  show fVtag (eV2 0x098 h d b (m.val + ft.code * 128)) = _
  have := m.isLt
  have := ft.code_lt
  have e1 : (m.val + ft.code * 128) / 128 % 16 = ft.code := by omega
  have e2 : (m.val + ft.code * 128) < 2048 := by omega
  have e3 : (m.val + ft.code * 128) % 8 = m.val := by omega
  simp [fVtag, hk, e1, e2, e3, ftOf, eV2, show m.val % 128 < 8 by omega]

theorem RoundTrip.vround (h : Head) (d : VDst) (b : VSrc) (m : Fin 8) (rm : RM) : RoundTrip.Statement (.vround h d b
    m rm) := by
  intro hw
  have hk : (h.ok .vxe && rm.det) = true := hw
  clear hw
  have hm0 : m.val + rm.code * 8 < 65536 := by
    have := m.isLt
    have := rm.code_lt
    omega
  exact ⟨_, rfl, enc_fits _ _ _ _ _ _ _ _ (by decide) (vdstWb_lt _) (eVD_lt _) (eV_lt' _) (eM_lt hm0) z z,
    (fV2r_back .vround 0x099 d b m rm hk : fV2r .vround (eV2 0x099 h d b (m.val + rm.code * 8)) = _)⟩

theorem RoundTrip.vpack (h : Head) (d : VDst) (b : VSrc) (c : VSrc) (m : Fin 8) (rm : RM) (ft : Fmt) :
    RoundTrip.Statement (.vpack h d b c m rm ft) := by
  intro hw
  have hk : (h.ok .vxe && rm.det && ft.isPack) = true := hw
  clear hw
  have hm0 : mFt m.val rm ft < 65536 := by
    have := m.isLt
    have := rm.code_lt
    have := ft.code_lt
    simp only [mFt]
    omega
  refine ⟨_, rfl, enc_fits _ _ _ _ _ _ _ _ (by decide) (vdstWb_lt _) (eVD_lt _) (eV_lt' _) (eV_lt' _) (eM_lt hm0) z,
      ?_⟩
  show fVpack (enc 0x0A0 h d.wb (eVD d) (eV b) (eV c) (eM (mFt m.val rm ft)) 0) = _
  simp only [Bool.and_eq_true] at hk
  have := m.isLt
  have := RM.code_det hk.1.2
  have := ft.code_lt
  have e1 : (mFt m.val rm ft) / 8 % 8 = rm.code := by simp only [mFt]; omega
  have e2 : (mFt m.val rm ft) / 128 % 16 = ft.code := by simp only [mFt]; omega
  have e3 : (mFt m.val rm ft) < 2048 := by simp only [mFt]; omega
  have e4 : (mFt m.val rm ft) / 64 % 2 = 0 := by simp only [mFt]; omega
  have e5 : (mFt m.val rm ft) % 8 = m.val := by simp only [mFt]; omega
  simp [fVpack, hk, e1, e2, e3, e4, e5, ftOf]

theorem RoundTrip.vunpkl (h : Head) (d : VDst) (b : VSrc) (m : Fin 8) (rm : RM) : RoundTrip.Statement (.vunpkl h d b
    m rm) := by
  intro hw
  have hk : (h.ok .vxe && rm.det) = true := hw
  clear hw
  have hm0 : m.val + rm.code * 8 < 65536 := by
    have := m.isLt
    have := rm.code_lt
    omega
  exact ⟨_, rfl, enc_fits _ _ _ _ _ _ _ _ (by decide) (vdstWb_lt _) (eVD_lt _) (eV_lt' _) (eM_lt hm0) z z,
    (fV2r_back .vunpkl 0x0A1 d b m rm hk : fV2r .vunpkl (eV2 0x0A1 h d b (m.val + rm.code * 8)) = _)⟩

theorem RoundTrip.vunpkh (h : Head) (d : VDst) (b : VSrc) (m : Fin 8) (rm : RM) : RoundTrip.Statement (.vunpkh h d b
    m rm) := by
  intro hw
  have hk : (h.ok .vxe && rm.det) = true := hw
  clear hw
  have hm0 : m.val + rm.code * 8 < 65536 := by
    have := m.isLt
    have := rm.code_lt
    omega
  exact ⟨_, rfl, enc_fits _ _ _ _ _ _ _ _ (by decide) (vdstWb_lt _) (eVD_lt _) (eV_lt' _) (eM_lt hm0) z z,
    (fV2r_back .vunpkh 0x0A2 d b m rm hk : fV2r .vunpkh (eV2 0x0A2 h d b (m.val + rm.code * 8)) = _)⟩

theorem RoundTrip.vblks (h : Head) (d : VDst) (b : VSrc) (c : Option VSrc) (rm : RM) (ft : Fmt) (q : Fin 8) :
    RoundTrip.Statement (.vblks h d b c rm ft q) := by
  intro hw
  have hk : (h.ok .vxe && rm.det && ft.isBlk) = true := hw
  clear hw
  have hm0 : mFt 0 rm ft + q.val * 2048 < 65536 := by
    have := rm.code_lt
    have := ft.code_lt
    have := q.isLt
    simp only [mFt]
    omega
  refine ⟨_, rfl, enc_fits _ _ _ _ _ _ _ _ (by decide) (vdstWb_lt _) (eVD_lt _) (eV_lt' _) (eVZ_lt _) (eM_lt hm0) z,
      ?_⟩
  show fVblks (enc 0x0A3 h d.wb (eVD d) (eV b) (eVZ c) (eM (mFt 0 rm ft + q.val * 2048)) 0) = _
  simp only [Bool.and_eq_true] at hk
  have := RM.code_det hk.1.2
  have := ft.code_lt
  have := q.isLt
  have e1 : (mFt 0 rm ft + q.val * 2048) / 8 % 8 = rm.code := by simp only [mFt]; omega
  have e2 : (mFt 0 rm ft + q.val * 2048) / 128 % 16 = ft.code := by simp only [mFt]; omega
  have e3 : (mFt 0 rm ft + q.val * 2048) < 16384 := by simp only [mFt]; omega
  have e4 : (mFt 0 rm ft + q.val * 2048) / 64 % 2 = 0 := by simp only [mFt]; omega
  have e5 : (mFt 0 rm ft + q.val * 2048) % 8 = 0 := by simp only [mFt]; omega
  have e6 : (mFt 0 rm ft + q.val * 2048) / 2048 = q.val := by simp only [mFt]; omega
  simp [fVblks, hk, e1, e2, e3, e4, e5, e6, ftOf]

theorem RoundTrip.vblkg (h : Head) (d : VDst) (b : VSrc) (m : Fin 8) (rm : RM) (ft : Fmt) (q : Fin 8) :
    RoundTrip.Statement (.vblkg h d b m rm ft q) := by
  intro hw
  have hk : (h.ok .vxe && rm.det && ft.isBlkGet) = true := hw
  clear hw
  have hm0 : mFt m.val rm ft + q.val * 2048 < 65536 := by
    have := m.isLt
    have := rm.code_lt
    have := ft.code_lt
    have := q.isLt
    simp only [mFt]
    omega
  refine ⟨_, rfl, enc_fits _ _ _ _ _ _ _ _ (by decide) (vdstWb_lt _) (eVD_lt _) (eV_lt' _) (eM_lt hm0) z z, ?_⟩
  show fVblkg (eV2 0x0A4 h d b (mFt m.val rm ft + q.val * 2048)) = _
  simp only [Bool.and_eq_true] at hk
  have := m.isLt
  have := RM.code_det hk.1.2
  have := ft.code_lt
  have := q.isLt
  have e1 : (mFt m.val rm ft + q.val * 2048) / 8 % 8 = rm.code := by simp only [mFt]; omega
  have e2 : (mFt m.val rm ft + q.val * 2048) / 128 % 16 = ft.code := by simp only [mFt]; omega
  have e3 : (mFt m.val rm ft + q.val * 2048) < 16384 := by simp only [mFt]; omega
  have e4 : (mFt m.val rm ft + q.val * 2048) / 64 % 2 = 0 := by simp only [mFt]; omega
  have e5 : (mFt m.val rm ft + q.val * 2048) % 8 = m.val := by simp only [mFt]; omega
  have e6 : (mFt m.val rm ft + q.val * 2048) / 2048 = q.val := by simp only [mFt]; omega
  simp [fVblkg, hk, e1, e2, e3, e4, e5, e6, eV2, ftOf]

theorem RoundTrip.vacc12 (h : Head) (d : VDst) (a : VSrc) (x : VOp) (sg : SSrc) (sp : SSrc) : RoundTrip.Statement
    (.vacc12 h d a x sg sp) := by
  intro hw
  have hk : (h.ok .vxe) = true := hw
  clear hw
  refine ⟨_, rfl, enc_fits _ _ _ _ _ _ _ _ (by decide) (vdstWb_lt _) (eVD_lt _) (eV_lt' _) (eVI_lt _) (eS_lt' _)
      (eS_lt' _), ?_⟩
  show fVacc12 (enc 0x0A5 h d.wb (eVD d) (eV a) (eVI x) (eS sg) (eS sp)) = _
  simp [fVacc12, hk]

theorem RoundTrip.vdot2 (h : Head) (d : VDst) (a : VSrc) (b : VSrc) (c : VOp) : RoundTrip.Statement (.vdot2 h d a b
    c) := by
  intro hw
  have hk : (h.ok .vxe) = true := hw
  clear hw
  exact ⟨_, rfl, enc_fits _ _ _ _ _ _ _ _ (by decide) (vdstWb_lt _) (eVD_lt _) (eV_lt' _) (eV_lt' _) (eVI_lt _) z,
    (fDot_back .vdot2 0x0B0 d a b c hk : fDot .vdot2 (enc 0x0B0 h d.wb (eVD d) (eV a) (eV b) (eVI c) 0) = _)⟩

theorem RoundTrip.vdot4 (h : Head) (d : VDst) (a : VSrc) (b : VSrc) (c : VOp) : RoundTrip.Statement (.vdot4 h d a b
    c) := by
  intro hw
  have hk : (h.ok .vxe) = true := hw
  clear hw
  exact ⟨_, rfl, enc_fits _ _ _ _ _ _ _ _ (by decide) (vdstWb_lt _) (eVD_lt _) (eV_lt' _) (eV_lt' _) (eVI_lt _) z,
    (fDot_back .vdot4 0x0B1 d a b c hk : fDot .vdot4 (enc 0x0B1 h d.wb (eVD d) (eV a) (eV b) (eVI c) 0) = _)⟩

theorem RoundTrip.vdot8 (h : Head) (d : VDst) (a : VSrc) (b : VSrc) (c : VOp) : RoundTrip.Statement (.vdot8 h d a b
    c) := by
  intro hw
  have hk : (h.ok .vxe) = true := hw
  clear hw
  exact ⟨_, rfl, enc_fits _ _ _ _ _ _ _ _ (by decide) (vdstWb_lt _) (eVD_lt _) (eV_lt' _) (eV_lt' _) (eVI_lt _) z,
    (fDot_back .vdot8 0x0B2 d a b c hk : fDot .vdot8 (enc 0x0B2 h d.wb (eVD d) (eV a) (eV b) (eVI c) 0) = _)⟩

theorem RoundTrip.vrotr (h : Head) (d : VDst) (b : VSrc) (k : SOp) (m : Fin 8) : RoundTrip.Statement (.vrotr h d b k
    m) := by
  intro hw
  have hk : (h.ok .vxe) = true := hw
  clear hw
  have hm0 : m.val < 65536 := by
    have := m.isLt
    omega
  exact ⟨_, rfl, enc_fits _ _ _ _ _ _ _ _ (by decide) (vdstWb_lt _) (eVD_lt _) (eV_lt' _) (eSI_lt _) (eM_lt hm0) z,
    (fVK_back 65536 .vrotr 0x0C0 d b k m (by simp [hk, below_immediate]) : fVK 65536 .vrotr (enc 0x0C0 h d.wb (eVD d)
        (eV b) (eSI k) (eM m.val) 0) = _)⟩

theorem RoundTrip.vrotc (h : Head) (d : VDst) (b : VSrc) (k : SOp) (m : Fin 8) : RoundTrip.Statement (.vrotc h d b k
    m) := by
  intro hw
  have hk : (h.ok .vxe) = true := hw
  clear hw
  have hm0 : m.val < 65536 := by
    have := m.isLt
    omega
  exact ⟨_, rfl, enc_fits _ _ _ _ _ _ _ _ (by decide) (vdstWb_lt _) (eVD_lt _) (eV_lt' _) (eSI_lt _) (eM_lt hm0) z,
    (fVK_back 65536 .vrotc 0x0C1 d b k m (by simp [hk, below_immediate]) : fVK 65536 .vrotc (enc 0x0C1 h d.wb (eVD d)
        (eV b) (eSI k) (eM m.val) 0) = _)⟩

theorem RoundTrip.vbcr (h : Head) (d : VDst) (b : VSrc) (k : SOp) (m : Fin 8) : RoundTrip.Statement (.vbcr h d b k m)
    := by
  intro hw
  have hk : (h.ok .vxe && k.below 64) = true := hw
  clear hw
  have hm0 : m.val < 65536 := by
    have := m.isLt
    omega
  exact ⟨_, rfl, enc_fits _ _ _ _ _ _ _ _ (by decide) (vdstWb_lt _) (eVD_lt _) (eV_lt' _) (eSI_lt _) (eM_lt hm0) z,
    (fVK_back 64 .vbcr 0x0C2 d b k m hk : fVK 64 .vbcr (enc 0x0C2 h d.wb (eVD d) (eV b) (eSI k) (eM m.val) 0) = _)⟩

theorem RoundTrip.vbcc (h : Head) (d : VDst) (b : VSrc) (k : SOp) (m : Fin 8) : RoundTrip.Statement (.vbcc h d b k m)
    := by
  intro hw
  have hk : (h.ok .vxe && k.below 16) = true := hw
  clear hw
  have hm0 : m.val < 65536 := by
    have := m.isLt
    omega
  exact ⟨_, rfl, enc_fits _ _ _ _ _ _ _ _ (by decide) (vdstWb_lt _) (eVD_lt _) (eV_lt' _) (eSI_lt _) (eM_lt hm0) z,
    (fVK_back 16 .vbcc 0x0C3 d b k m hk : fVK 16 .vbcc (enc 0x0C3 h d.wb (eVD d) (eV b) (eSI k) (eM m.val) 0) = _)⟩

theorem RoundTrip.vredr (h : Head) (d : VDst) (b : VSrc) (m : Fin 8) (rm : RM) (k : RedKind) : RoundTrip.Statement
    (.vredr h d b m rm k) := by
  intro hw
  have hk : (h.ok .vxe && rm.det) = true ∧ ((!k.bitwise || decide (rm = .rne))) = true := by
    have hw : (h.ok .vxe && rm.det && (!k.bitwise || decide (rm = .rne))) = true := hw
    simpa only [Bool.and_eq_true] using hw
  clear hw
  have hm0 : m.val + rm.code * 8 + k.code * 128 < 65536 := by
    have := m.isLt
    have := rm.code_lt
    have := k.code_lt
    omega
  have hm0 : m.val + rm.code * 8 + k.code * 128 < 65536 := by
    have := m.isLt
    have := rm.code_lt
    have := k.code_lt
    omega
  exact ⟨_, rfl, enc_fits _ _ _ _ _ _ _ _ (by decide) (vdstWb_lt _) (eVD_lt _) (eV_lt' _) (eM_lt hm0) z z,
    (fRed_back false .vredr 0x0C4 d b m rm k hk.1 (by simpa using hk.2) : fRed false .vredr (eV2 0x0C4 h d b (m.val +
        rm.code * 8 + k.code * 128)) = _)⟩

theorem RoundTrip.vredc (h : Head) (d : VDst) (b : VSrc) (m : Fin 8) (rm : RM) (k : RedKind) : RoundTrip.Statement
    (.vredc h d b m rm k) := by
  intro hw
  have hk : (h.ok .vxe && rm.det) = true ∧ ((!k.bitwise || decide (rm = .rne))) = true := by
    have hw : (h.ok .vxe && rm.det && (!k.bitwise || decide (rm = .rne))) = true := hw
    simpa only [Bool.and_eq_true] using hw
  clear hw
  have hm0 : m.val + rm.code * 8 + k.code * 128 < 65536 := by
    have := m.isLt
    have := rm.code_lt
    have := k.code_lt
    omega
  have hm0 : m.val + rm.code * 8 + k.code * 128 < 65536 := by
    have := m.isLt
    have := rm.code_lt
    have := k.code_lt
    omega
  exact ⟨_, rfl, enc_fits _ _ _ _ _ _ _ _ (by decide) (vdstWb_lt _) (eVD_lt _) (eV_lt' _) (eM_lt hm0) z z,
    (fRed_back false .vredc 0x0C5 d b m rm k hk.1 (by simpa using hk.2) : fRed false .vredc (eV2 0x0C5 h d b (m.val +
        rm.code * 8 + k.code * 128)) = _)⟩

theorem RoundTrip.vscanr (h : Head) (d : VDst) (b : VSrc) (m : Fin 8) (rm : RM) (k : RedKind) : RoundTrip.Statement
    (.vscanr h d b m rm k) := by
  intro hw
  have hk : (h.ok .vxe && rm.det) = true ∧ (!k.bitwise) = true := by
    have hw : (h.ok .vxe && rm.det && !k.bitwise) = true := hw
    simpa only [Bool.and_eq_true] using hw
  clear hw
  have hm0 : m.val + rm.code * 8 + k.code * 128 < 65536 := by
    have := m.isLt
    have := rm.code_lt
    have := k.code_lt
    omega
  have hm0 : m.val + rm.code * 8 + k.code * 128 < 65536 := by
    have := m.isLt
    have := rm.code_lt
    have := k.code_lt
    omega
  exact ⟨_, rfl, enc_fits _ _ _ _ _ _ _ _ (by decide) (vdstWb_lt _) (eVD_lt _) (eV_lt' _) (eM_lt hm0) z z,
    (fRed_back true .vscanr 0x0C6 d b m rm k hk.1 (by simpa using hk.2) : fRed true .vscanr (eV2 0x0C6 h d b (m.val +
        rm.code * 8 + k.code * 128)) = _)⟩

theorem RoundTrip.vscanc (h : Head) (d : VDst) (b : VSrc) (m : Fin 8) (rm : RM) (k : RedKind) : RoundTrip.Statement
    (.vscanc h d b m rm k) := by
  intro hw
  have hk : (h.ok .vxe && rm.det) = true ∧ (!k.bitwise) = true := by
    have hw : (h.ok .vxe && rm.det && !k.bitwise) = true := hw
    simpa only [Bool.and_eq_true] using hw
  clear hw
  have hm0 : m.val + rm.code * 8 + k.code * 128 < 65536 := by
    have := m.isLt
    have := rm.code_lt
    have := k.code_lt
    omega
  have hm0 : m.val + rm.code * 8 + k.code * 128 < 65536 := by
    have := m.isLt
    have := rm.code_lt
    have := k.code_lt
    omega
  exact ⟨_, rfl, enc_fits _ _ _ _ _ _ _ _ (by decide) (vdstWb_lt _) (eVD_lt _) (eV_lt' _) (eM_lt hm0) z z,
    (fRed_back true .vscanc 0x0C7 d b m rm k hk.1 (by simpa using hk.2) : fRed true .vscanc (eV2 0x0C7 h d b (m.val +
        rm.code * 8 + k.code * 128)) = _)⟩

theorem RoundTrip.vshfr (h : Head) (d : VDst) (b : VSrc) (x : VSrc) (m : Fin 8) : RoundTrip.Statement (.vshfr h d b x
    m) := by
  intro hw
  have hk : (h.ok .vxe) = true := hw
  clear hw
  have hm0 : m.val < 65536 := by
    have := m.isLt
    omega
  refine ⟨_, rfl, enc_fits _ _ _ _ _ _ _ _ (by decide) (vdstWb_lt _) (eVD_lt _) (eV_lt' _) (eV_lt' _) (eM_lt hm0) z,
      ?_⟩
  show fVshfr (enc 0x0C8 h d.wb (eVD d) (eV b) (eV x) (eM m.val) 0) = _
  simp [fVshfr, hk, m.isLt]

theorem RoundTrip.vtrb (h : Head) (d : VDst) (b : VSrc) (m : Fin 8) : RoundTrip.Statement (.vtrb h d b m) := by
  intro hw
  have hk : (h.ok .vxe) = true := hw
  clear hw
  have hm0 : m.val < 65536 := by
    have := m.isLt
    omega
  exact ⟨_, rfl, enc_fits _ _ _ _ _ _ _ _ (by decide) (vdstWb_lt _) (eVD_lt _) (eV_lt' _) (eM_lt hm0) z z,
    (fV2_back .vtrb 0x0C9 d b m hk : fV2 .vtrb (eV2 0x0C9 h d b m.val) = _)⟩

theorem RoundTrip.viota (h : Head) (d : VDst) (st : SOp) (sd : SOp) (m : Fin 8) (ft : Fmt) : RoundTrip.Statement
    (.viota h d st sd m ft) := by
  intro hw
  have hk : (h.ok .vxe && ft.isInteger) = true := hw
  clear hw
  have hm0 : m.val + ft.code * 128 < 65536 := by
    have := m.isLt
    have := ft.code_lt
    omega
  refine ⟨_, rfl, enc_fits _ _ _ _ _ _ _ _ (by decide) (vdstWb_lt _) (eVD_lt _) (eSI_lt _) (eSI_lt _) (eM_lt hm0) z,
      ?_⟩
  show fViota (enc 0x0CA h d.wb (eVD d) (eSI st) (eSI sd) (eM (m.val + ft.code * 128)) 0) = _
  simp only [Bool.and_eq_true] at hk
  have := m.isLt
  have := ft.code_lt
  have e1 : (m.val + ft.code * 128) / 128 % 16 = ft.code := by omega
  have e2 : (m.val + ft.code * 128) < 2048 := by omega
  have e3 : (m.val + ft.code * 128) % 8 = m.val := by omega
  simp [fViota, hk, e1, e2, e3, ftOf, show m.val % 128 < 8 by omega]

theorem RoundTrip.vmov (h : Head) (d : VDst) (b : VSrc) : RoundTrip.Statement (.vmov h d b) := by
  intro hw
  have hk : (h.ok .vxe) = true := hw
  clear hw
  refine ⟨_, rfl, enc_fits _ _ _ _ _ _ _ _ (by decide) (vdstWb_lt _) (eVD_lt _) (eV_lt' _) z z z, ?_⟩
  show fVmov (enc 0x0CB h d.wb (eVD d) (eV b) 0 0 0) = _
  simp [fVmov, hk]

theorem RoundTrip.vsplat (h : Head) (d : VDst) (a : SOp) (m : Fin 8) (ft : Fmt) : RoundTrip.Statement (.vsplat h d a
    m ft) := by
  intro hw
  have hk : (h.ok .vxe && decide (ft ≠ .none)) = true := hw
  clear hw
  have hm0 : m.val + ft.code * 128 < 65536 := by
    have := m.isLt
    have := ft.code_lt
    omega
  refine ⟨_, rfl, enc_fits _ _ _ _ _ _ _ _ (by decide) (vdstWb_lt _) (eVD_lt _) (eSI_lt _) (eM_lt hm0) z z, ?_⟩
  show fVsplat (enc 0x0D0 h d.wb (eVD d) (eSI a) (eM (m.val + ft.code * 128)) 0 0) = _
  simp only [Bool.and_eq_true, decide_eq_true_eq] at hk
  have := m.isLt
  have := ft.code_lt
  have e1 : (m.val + ft.code * 128) / 128 % 16 = ft.code := by omega
  have e2 : (m.val + ft.code * 128) < 2048 := by omega
  have e3 : (m.val + ft.code * 128) % 8 = m.val := by omega
  simp [fVsplat, hk, e1, e2, e3, ftOf, show m.val % 128 < 8 by omega]

theorem RoundTrip.vext (h : Head) (d : Fin 64) (b : VSrc) (e : SOp) (sx : Bool) : RoundTrip.Statement (.vext h d b e
    sx) := by
  intro hw
  have hk : (h.ok .vxe) = true := hw
  clear hw
  have hm0 : b2n sx * 128 < 65536 := by
    have := b2n_lt sx
    omega
  refine ⟨_, rfl, enc_fits _ _ _ _ _ _ _ _ (by decide) (by decide) (eN_lt (Nat.lt_of_lt_of_le d.isLt (by decide)))
      (eV_lt' _) (eSI_lt _) (eM_lt hm0) z, ?_⟩
  show fVext (enc 0x0D1 h 1 (eN d.val) (eV b) (eSI e) (eM (b2n sx * 128)) 0) = _
  cases sx <;> simp [fVext, hk]

theorem RoundTrip.vins (h : Head) (d : VDst) (b : VSrc) (a : SSrc) (e : SOp) : RoundTrip.Statement (.vins h d b a e)
    := by
  intro hw
  have hk : (h.ok .vxe) = true := hw
  clear hw
  refine ⟨_, rfl, enc_fits _ _ _ _ _ _ _ _ (by decide) (vdstWb_lt _) (eVD_lt _) (eV_lt' _) (eS_lt' _) (eSI_lt _) z,
      ?_⟩
  show fVins (enc 0x0D2 h d.wb (eVD d) (eV b) (eS a) (eSI e) 0) = _
  simp [fVins, hk]

theorem RoundTrip.vrng (h : Head) (d : VDst) (sg : SSrc) (sp : SSrc) (m : Fin 8) (k : DrawKind) : RoundTrip.Statement
    (.vrng h d sg sp m k) := by
  intro hw
  have hk : (h.ok .vxe) = true := hw
  clear hw
  have hm0 : m.val + k.code * 128 < 65536 := by
    have := m.isLt
    have := k.code_lt
    omega
  refine ⟨_, rfl, enc_fits _ _ _ _ _ _ _ _ (by decide) (vdstWb_lt _) (eVD_lt _) (eS_lt' _) (eS_lt' _) (eM_lt hm0) z,
      ?_⟩
  show fVrng (enc 0x0E0 h d.wb (eVD d) (eS sg) (eS sp) (eM (m.val + k.code * 128)) 0) = _
  have := m.isLt
  have := k.code_lt
  have e1 : (m.val + k.code * 128) / 128 = k.code := by omega
  have e2 : (m.val + k.code * 128) % 8 = m.val := by omega
  simp [fVrng, hk, e1, e2, show m.val % 128 < 8 by omega]

theorem RoundTrip.vdrop (h : Head) (d : VDst) (b : VSrc) (sg : SSrc) (sp : SSrc) (kt : W16) : RoundTrip.Statement
    (.vdrop h d b sg sp kt) := by
  intro hw
  have hk : (h.ok .vxe) = true := hw
  clear hw
  refine ⟨_, rfl, enc_fits _ _ _ _ _ _ _ _ (by decide) (vdstWb_lt _) (eVD_lt _) (eV_lt' _) (eS_lt' _) (eS_lt' _)
      (eI_lt _), ?_⟩
  show fVdrop (enc 0x0E1 h d.wb (eVD d) (eV b) (eS sg) (eS sp) (eI kt)) = _
  simp [fVdrop, hk]

theorem RoundTrip.mand (h : Head) (d : Fin 8) (a : Fin 8) (b : Fin 8) : RoundTrip.Statement (.mand h d a b) := by
  intro hw
  have hk : (h.ok .vxe) = true := hw
  clear hw
  exact ⟨_, rfl, enc_fits _ _ _ _ _ _ _ _ (by decide) (by decide) (eN_lt (Nat.lt_of_lt_of_le d.isLt (by decide)))
      (eN_lt (Nat.lt_of_lt_of_le a.isLt (by decide))) (eN_lt (Nat.lt_of_lt_of_le b.isLt (by decide))) z z,
    (fMMM_back .mand 0x0F0 d a b hk : fMMM .mand (enc 0x0F0 h 1 (eN d.val) (eN a.val) (eN b.val) 0 0) = _)⟩

theorem RoundTrip.mor (h : Head) (d : Fin 8) (a : Fin 8) (b : Fin 8) : RoundTrip.Statement (.mor h d a b) := by
  intro hw
  have hk : (h.ok .vxe) = true := hw
  clear hw
  exact ⟨_, rfl, enc_fits _ _ _ _ _ _ _ _ (by decide) (by decide) (eN_lt (Nat.lt_of_lt_of_le d.isLt (by decide)))
      (eN_lt (Nat.lt_of_lt_of_le a.isLt (by decide))) (eN_lt (Nat.lt_of_lt_of_le b.isLt (by decide))) z z,
    (fMMM_back .mor 0x0F1 d a b hk : fMMM .mor (enc 0x0F1 h 1 (eN d.val) (eN a.val) (eN b.val) 0 0) = _)⟩

theorem RoundTrip.mxor (h : Head) (d : Fin 8) (a : Fin 8) (b : Fin 8) : RoundTrip.Statement (.mxor h d a b) := by
  intro hw
  have hk : (h.ok .vxe) = true := hw
  clear hw
  exact ⟨_, rfl, enc_fits _ _ _ _ _ _ _ _ (by decide) (by decide) (eN_lt (Nat.lt_of_lt_of_le d.isLt (by decide)))
      (eN_lt (Nat.lt_of_lt_of_le a.isLt (by decide))) (eN_lt (Nat.lt_of_lt_of_le b.isLt (by decide))) z z,
    (fMMM_back .mxor 0x0F2 d a b hk : fMMM .mxor (enc 0x0F2 h 1 (eN d.val) (eN a.val) (eN b.val) 0 0) = _)⟩

theorem RoundTrip.mnot (h : Head) (d : Fin 8) (a : Fin 8) : RoundTrip.Statement (.mnot h d a) := by
  intro hw
  have hk : (h.ok .vxe) = true := hw
  clear hw
  refine ⟨_, rfl, enc_fits _ _ _ _ _ _ _ _ (by decide) (by decide) (eN_lt (Nat.lt_of_lt_of_le d.isLt (by decide)))
      (eN_lt (Nat.lt_of_lt_of_le a.isLt (by decide))) z z z, ?_⟩
  show fMnot (enc 0x0F3 h 1 (eN d.val) (eN a.val) 0 0 0) = _
  simp [fMnot, hk]

theorem RoundTrip.mcnt (h : Head) (d : Fin 64) (a : Fin 8) : RoundTrip.Statement (.mcnt h d a) := by
  intro hw
  have hk : (h.ok .vxe) = true := hw
  clear hw
  exact ⟨_, rfl, enc_fits _ _ _ _ _ _ _ _ (by decide) (by decide) (eN_lt (Nat.lt_of_lt_of_le d.isLt (by decide)))
      (eN_lt (Nat.lt_of_lt_of_le a.isLt (by decide))) z z z,
    (fMS_back .mcnt 0x0F4 d a hk : fMS .mcnt (enc 0x0F4 h 1 (eN d.val) (eN a.val) 0 0 0) = _)⟩

theorem RoundTrip.mfirst (h : Head) (d : Fin 64) (a : Fin 8) : RoundTrip.Statement (.mfirst h d a) := by
  intro hw
  have hk : (h.ok .vxe) = true := hw
  clear hw
  exact ⟨_, rfl, enc_fits _ _ _ _ _ _ _ _ (by decide) (by decide) (eN_lt (Nat.lt_of_lt_of_le d.isLt (by decide)))
      (eN_lt (Nat.lt_of_lt_of_le a.isLt (by decide))) z z z,
    (fMS_back .mfirst 0x0F5 d a hk : fMS .mfirst (enc 0x0F5 h 1 (eN d.val) (eN a.val) 0 0 0) = _)⟩

theorem RoundTrip.ldv (h : Head) (d : VDst) (t : Ref) (o : SOp) (rep : Rep) : RoundTrip.Statement (.ldv h d t o rep)
    := by
  intro hw
  have hk : (h.ok .lde) = true := hw
  clear hw
  refine ⟨_, rfl, enc_fits _ _ _ _ _ _ _ _ (by decide) (vdstWb_lt _) (eVD_lt _) (eR_lt _) (eSI_lt _) z (eRep_lt _),
      ?_⟩
  show fLdv (enc 0x180 h d.wb (eVD d) (eR t) (eSI o) 0 (eRep rep)) = _
  simp [fLdv, hk]

theorem RoundTrip.stv (h : Head) (v : VSrc) (t : Ref) (o : SOp) (rep : Rep) : RoundTrip.Statement (.stv h v t o rep)
    := by
  intro hw
  have hk : (h.ok .ste && v.plain) = true := hw
  clear hw
  refine ⟨_, rfl, enc_fits _ _ _ _ _ _ _ _ (by decide) (by decide) z (eV_lt' _) (eR_lt _) (eSI_lt _) (eRep_lt _), ?_⟩
  show fStv (enc 0x181 h 0 0 (eV v) (eR t) (eSI o) (eRep rep)) = _
  simp only [Bool.and_eq_true] at hk
  simp [fStv, hk]

theorem RoundTrip.ldvt (h : Head) (d : VDst) (t : Ref) (s : SSrc) (tr : Bool) : RoundTrip.Statement (.ldvt h d t s
    tr) := by
  intro hw
  have hk : (h.ok .lde) = true := hw
  clear hw
  have hm0 : b2n tr < 65536 := by
    have := b2n_lt tr
    omega
  refine ⟨_, rfl, enc_fits _ _ _ _ _ _ _ _ (by decide) (vdstWb_lt _) (eVD_lt _) (eR_lt _) (eS_lt' _) (eM_lt hm0) z,
      ?_⟩
  show fLdvt (enc 0x182 h d.wb (eVD d) (eR t) (eS s) (eM (b2n tr)) 0) = _
  cases tr <;> simp [fLdvt, hk]

theorem RoundTrip.ldvg (h : Head) (d : VDst) (t : Ref) (v : VSrc) (c : SOp) : RoundTrip.Statement (.ldvg h d t v c)
    := by
  intro hw
  have hk : (h.ok .lde) = true := hw
  clear hw
  refine ⟨_, rfl, enc_fits _ _ _ _ _ _ _ _ (by decide) (vdstWb_lt _) (eVD_lt _) (eR_lt _) (eV_lt' _) (eSI_lt _) z, ?_⟩
  show fLdvg (enc 0x183 h d.wb (eVD d) (eR t) (eV v) (eSI c) 0) = _
  simp [fLdvg, hk]

theorem RoundTrip.stvs (h : Head) (v : VSrc) (t : Ref) (x : VSrc) (c : SOp) : RoundTrip.Statement (.stvs h v t x c)
    := by
  intro hw
  have hk : (h.ok .ste && v.plain) = true := hw
  clear hw
  refine ⟨_, rfl, enc_fits _ _ _ _ _ _ _ _ (by decide) (by decide) z (eV_lt' _) (eR_lt _) (eV_lt' _) (eSI_lt _), ?_⟩
  show fStvs (enc 0x184 h 0 0 (eV v) (eR t) (eV x) (eSI c)) = _
  simp only [Bool.and_eq_true] at hk
  simp [fStvs, hk]

theorem RoundTrip.ldsc (h : Head) (d : Fin 64) (t : Ref) (o : SOp) (sz : Size) (sx : Bool) (rep : Rep) :
    RoundTrip.Statement (.ldsc h d t o sz sx rep) := by
  intro hw
  have hk : (h.ok .lde) = true := hw
  clear hw
  have hm0 : sz.code + b2n sx * 4 < 65536 := by
    have := sz.code_lt
    have := b2n_lt sx
    omega
  refine ⟨_, rfl, enc_fits _ _ _ _ _ _ _ _ (by decide) (by decide) (eN_lt (Nat.lt_of_lt_of_le d.isLt (by decide)))
      (eR_lt _) (eSI_lt _) (eM_lt hm0) (eRep_lt _), ?_⟩
  show fLdsc (enc 0x185 h 1 (eN d.val) (eR t) (eSI o) (eM (sz.code + b2n sx * 4)) (eRep rep)) = _
  cases sx <;> cases sz <;> simp [fLdsc, hk, Size.code, Size.ofCode]

theorem RoundTrip.stsc (h : Head) (a : SSrc) (t : Ref) (o : SOp) (sz : Size) : RoundTrip.Statement (.stsc h a t o sz)
    := by
  intro hw
  have hk : (h.ok .ste) = true := hw
  clear hw
  have hm0 : sz.code < 65536 := by
    have := sz.code_lt
    omega
  refine ⟨_, rfl, enc_fits _ _ _ _ _ _ _ _ (by decide) (by decide) z (eS_lt' _) (eR_lt _) (eSI_lt _) (eM_lt hm0), ?_⟩
  show fStsc (enc 0x186 h 0 0 (eS a) (eR t) (eSI o) (eM sz.code)) = _
  simp [fStsc, hk, sz.code_lt]

theorem RoundTrip.lda (h : Head) (d : Fin 64) (t : Ref) (o : SOp) (dbl : Bool) (sc : Scope) : RoundTrip.Statement
    (.lda h d t o dbl sc) := by
  intro hw
  have hk : (h.ok .lde) = true := hw
  clear hw
  refine ⟨_, rfl, enc_fits _ _ _ _ _ _ _ _ (by decide) (by decide) (eN_lt (Nat.lt_of_lt_of_le d.isLt (by decide)))
      (eR_lt _) (eSI_lt _) (eLdaMod_lt ..) z, ?_⟩
  show fLda (enc 0x187 h 1 (eN d.val) (eR t) (eSI o) (eLdaMod dbl sc) 0) = _
  simp [fLda, hk]

theorem RoundTrip.stl (h : Head) (a : SSrc) (t : Ref) (o : SOp) (dbl : Bool) (sc : Scope) : RoundTrip.Statement (.stl
    h a t o dbl sc) := by
  intro hw
  have hk : (h.ok .ste) = true := hw
  clear hw
  refine ⟨_, rfl, enc_fits _ _ _ _ _ _ _ _ (by decide) (by decide) z (eS_lt' _) (eR_lt _) (eSI_lt _) (eLdaMod_lt ..),
      ?_⟩
  show fStl (enc 0x188 h 0 0 (eS a) (eR t) (eSI o) (eLdaMod dbl sc)) = _
  simp [fStl, hk]

theorem RoundTrip.ldm (h : Head) (d : Fin 8) (t : Ref) (o : SOp) (rep : Rep) : RoundTrip.Statement (.ldm h d t o rep)
    := by
  intro hw
  have hk : (h.ok .lde) = true := hw
  clear hw
  refine ⟨_, rfl, enc_fits _ _ _ _ _ _ _ _ (by decide) (by decide) (eN_lt (Nat.lt_of_lt_of_le d.isLt (by decide)))
      (eR_lt _) (eSI_lt _) z (eRep_lt _), ?_⟩
  show fLdm (enc 0x189 h 1 (eN d.val) (eR t) (eSI o) 0 (eRep rep)) = _
  simp [fLdm, hk]

theorem RoundTrip.stm (h : Head) (a : Fin 8) (t : Ref) (o : SOp) (rep : Rep) : RoundTrip.Statement (.stm h a t o rep)
    := by
  intro hw
  have hk : (h.ok .ste) = true := hw
  clear hw
  refine ⟨_, rfl, enc_fits _ _ _ _ _ _ _ _ (by decide) (by decide) z (eN_lt (Nat.lt_of_lt_of_le a.isLt (by decide)))
      (eR_lt _) (eSI_lt _) (eRep_lt _), ?_⟩
  show fStm (enc 0x18A h 0 0 (eN a.val) (eR t) (eSI o) (eRep rep)) = _
  simp [fStm, hk]

theorem RoundTrip.amo (h : Head) (d : Fin 64) (a : SSrc) (b : SOp) (c : Option SOp) (op : AmoOp) (dbl : Bool) (ord :
    AmoOrd) (sc : Scope) : RoundTrip.Statement (.amo h d a b c op dbl ord sc) := by
  intro hw
  have hk : (h.ok .lde && amoOk c.isSome op dbl) = true := hw
  clear hw
  refine ⟨_, rfl, enc_fits _ _ _ _ _ _ _ _ (by decide) (by decide) (eN_lt (Nat.lt_of_lt_of_le d.isLt (by decide)))
      (eS_lt' _) (eSI_lt _) (eCas_lt _) (eAmo_lt ..), ?_⟩
  show fAmo (enc 0x190 h 1 (eN d.val) (eS a) (eSI b) (eCas c) (eAmo op dbl ord sc)) = _
  simp only [Bool.and_eq_true, amoOk, decide_eq_true_eq, Bool.not_eq_true', Bool.and_eq_false_iff] at hk
  have hf : ¬ (op = .fadd ∧ dbl = true) := by
    rintro ⟨rfl, rfl⟩
    simp at hk
  simp [fAmo, hk.1, pAmoD_eCas _ _ _ _ _ hk.2.1, hf]

theorem RoundTrip.famo (h : Head) (d : Fin 64) (a : SSrc) (b : SOp) (st : SSrc) (op : AmoOp) (dbl : Bool) (ord :
    AmoOrd) (sc : Scope) : RoundTrip.Statement (.famo h d a b st op dbl ord sc) := by
  intro hw
  have hk : (h.ok .lde && amoOk false op dbl && sc.fabric) = true := hw
  clear hw
  refine ⟨_, rfl, enc_fits _ _ _ _ _ _ _ _ (by decide) (by decide) (eN_lt (Nat.lt_of_lt_of_le d.isLt (by decide)))
      (eS_lt' _) (eSI_lt _) (eS_lt' _) (eAmo_lt ..), ?_⟩
  show fFamo (enc 0x193 h 1 (eN d.val) (eS a) (eSI b) (eS st) (eAmo op dbl ord sc)) = _
  simp only [Bool.and_eq_true, amoOk, decide_eq_true_eq, Bool.not_eq_true', Bool.and_eq_false_iff] at hk
  have hf : ¬ (op = .fadd ∧ dbl = true) := by
    rintro ⟨rfl, rfl⟩
    simp at hk
  have hc : op ≠ .cas := by
    rintro rfl
    simp at hk
  simp [fFamo, hk.1.1, hk.2, hf, hc]

theorem RoundTrip.amor (h : Head) (d : Fin 64) (a : SSrc) (b : SOp) (c : Option SOp) (op : AmoOp) (dbl : Bool) (sc :
    Scope) : RoundTrip.Statement (.amor h d a b c op dbl sc) := by
  intro hw
  have hk : (h.ok .lde && amoOk c.isSome op dbl) = true := hw
  clear hw
  refine ⟨_, rfl, enc_fits _ _ _ _ _ _ _ _ (by decide) (by decide) (eN_lt (Nat.lt_of_lt_of_le d.isLt (by decide)))
      (eS_lt' _) (eSI_lt _) (eCas_lt _) (eAmo_lt ..), ?_⟩
  show fAmor (enc 0x194 h 1 (eN d.val) (eS a) (eSI b) (eCas c) (eAmo op dbl .rlx sc)) = _
  simp only [Bool.and_eq_true, amoOk, decide_eq_true_eq, Bool.not_eq_true', Bool.and_eq_false_iff] at hk
  have hf : ¬ (op = .fadd ∧ dbl = true) := by
    rintro ⟨rfl, rfl⟩
    simp at hk
  simp [fAmor, hk.1, pAmoD_eCas _ _ _ _ _ hk.2.1, hf]

theorem RoundTrip.red (h : Head) (v : VSrc) (t : Ref) (o : SOp) (k : Comb3) : RoundTrip.Statement (.red h v t o k) :=
    by
  intro hw
  have hk : (h.ok .ste && v.plain) = true := hw
  clear hw
  have hm0 : k.code < 65536 := by
    have := k.code_lt
    omega
  refine ⟨_, rfl, enc_fits _ _ _ _ _ _ _ _ (by decide) (by decide) z (eV_lt' _) (eR_lt _) (eSI_lt _) (eM_lt hm0), ?_⟩
  show fRed' (enc 0x191 h 0 0 (eV v) (eR t) (eSI o) (eM k.code)) = _
  simp only [Bool.and_eq_true] at hk
  simp [fRed', hk]

theorem RoundTrip.updr (h : Head) (v : VSrc) (t : Ref) (s : SSrc) (k : UpdKind) : RoundTrip.Statement (.updr h v t s
    k) := by
  intro hw
  have hk : (h.ok .ste && v.plain) = true := hw
  clear hw
  have hm0 : k.code < 65536 := by
    have := k.code_lt
    omega
  refine ⟨_, rfl, enc_fits _ _ _ _ _ _ _ _ (by decide) (by decide) z (eV_lt' _) (eR_lt _) (eS_lt' _) (eM_lt hm0), ?_⟩
  show fUpdr (enc 0x192 h 0 0 (eV v) (eR t) (eS s) (eM k.code)) = _
  simp only [Bool.and_eq_true] at hk
  simp [fUpdr, hk]

theorem RoundTrip.boarm (h : Head) (bo : Ref) (n : SOp) : RoundTrip.Statement (.boarm h bo n) := by
  intro hw
  refine ⟨_, rfl, enc_fits _ _ _ _ _ _ _ _ (by decide) (by decide) z (eR_lt _) (eSI_lt _) z z, ?_⟩
  show fBoarm (enc 0x1A0 h 0 0 (eR bo) (eSI n) 0 0) = _
  rcases n with x | v
  · have hk : (h.ok .ste && true) = true := hw
    simp only [Bool.and_true] at hk
    simp [fBoarm, hk]
  · have hk : (h.ok .ste && decide (1 ≤ v.toNat ∧ v.toNat < 32768)) = true := hw
    simp only [Bool.and_eq_true, decide_eq_true_eq] at hk
    simp [fBoarm, hk]

theorem RoundTrip.boclr (h : Head) (bo : Ref) : RoundTrip.Statement (.boclr h bo) := by
  intro hw
  have hk : (h.ok .ste) = true := hw
  clear hw
  refine ⟨_, rfl, enc_fits _ _ _ _ _ _ _ _ (by decide) (by decide) z (eR_lt _) z z z, ?_⟩
  show fBoclr (enc 0x1A1 h 0 0 (eR bo) 0 0 0) = _
  simp [fBoclr, hk]

theorem RoundTrip.bord (h : Head) (d : Fin 64) (bo : Ref) (w : Fin 4) : RoundTrip.Statement (.bord h d bo w) := by
  intro hw
  have hk : (h.ok .lde) = true := hw
  clear hw
  have hm0 : w.val < 65536 := by
    have := w.isLt
    omega
  refine ⟨_, rfl, enc_fits _ _ _ _ _ _ _ _ (by decide) (by decide) (eN_lt (Nat.lt_of_lt_of_le d.isLt (by decide)))
      (eR_lt _) (eM_lt hm0) z z, ?_⟩
  show fBord (enc 0x1A2 h 1 (eN d.val) (eR bo) (eM w.val) 0 0) = _
  simp [fBord, hk, w.isLt]

theorem RoundTrip.cpy (h : Head) (bo : Ref) (dst : Lw) (src : Lw) (rep : Rep) : RoundTrip.Statement (.cpy h bo dst
    src rep) := by
  intro hw
  have hk : (h.ok .other && dst.ok && src.ok) = true := hw
  clear hw
  exact ⟨_, rfl, enc_fits _ _ _ _ _ _ _ _ (by decide) (by decide) z (eR_lt _) (eLw_lt _) (eLw_lt _) (eRep_lt _),
    (fCpy_back .cpy (pRep 4) 0x200 bo dst src rep _ (pRep_eRep 4 _) hk : fCpy .cpy (pRep 4) (enc 0x200 h 0 0 (eR bo)
        (eLw dst) (eLw src) (eRep rep)) = _)⟩

theorem RoundTrip.cpym (h : Head) (bo : Ref) (dst : Lw) (src : Lw) (m : SSrc) : RoundTrip.Statement (.cpym h bo dst
    src m) := by
  intro hw
  have hk : (h.ok .other && dst.ok && src.ok) = true := hw
  clear hw
  exact ⟨_, rfl, enc_fits _ _ _ _ _ _ _ _ (by decide) (by decide) z (eR_lt _) (eLw_lt _) (eLw_lt _) (eS_lt' _),
    (fCpy_back .cpym (pS 4) 0x201 bo dst src m _ (pS_eS 4 _) hk : fCpy .cpym (pS 4) (enc 0x201 h 0 0 (eR bo) (eLw
        dst) (eLw src) (eS m)) = _)⟩

theorem RoundTrip.cpyr (h : Head) (bo : Ref) (dst : Lw) (src : Lw) (k : Comb3) : RoundTrip.Statement (.cpyr h bo dst
    src k) := by
  intro hw
  have hk : (h.ok .other && dst.ok && src.ok) = true := hw
  clear hw
  have hm0 : k.code < 65536 := by
    have := k.code_lt
    omega
  exact ⟨_, rfl, enc_fits _ _ _ _ _ _ _ _ (by decide) (by decide) z (eR_lt _) (eLw_lt _) (eLw_lt _) (eM_lt hm0),
    (fCpy_back .cpyr pComb 0x202 bo dst src k _ (pComb_eM _) hk : fCpy .cpyr pComb (enc 0x202 h 0 0 (eR bo) (eLw dst)
        (eLw src) (eM k.code)) = _)⟩

theorem RoundTrip.cpyd (h : Head) (bo : Ref) (dst : Lw) (src : Lw) (dig : SOp) : RoundTrip.Statement (.cpyd h bo dst
    src dig) := by
  intro hw
  have hk : (h.ok .other && dst.ok && src.ok) = true := hw
  clear hw
  exact ⟨_, rfl, enc_fits _ _ _ _ _ _ _ _ (by decide) (by decide) z (eR_lt _) (eLw_lt _) (eLw_lt _) (eSI_lt _),
    (fCpy_back .cpyd (pSI 4) 0x203 bo dst src dig _ (pSI_eSI 4 _) hk : fCpy .cpyd (pSI 4) (enc 0x203 h 0 0 (eR bo)
        (eLw dst) (eLw src) (eSI dig)) = _)⟩

theorem RoundTrip.mlr (h : Head) (bo : Ref) (dst : Lw) (src : Lw) (k : Comb3) : RoundTrip.Statement (.mlr h bo dst
    src k) := by
  intro hw
  have hk : (h.ok .other && dst.ok && src.ok) = true := hw
  clear hw
  have hm0 : k.code < 65536 := by
    have := k.code_lt
    omega
  exact ⟨_, rfl, enc_fits _ _ _ _ _ _ _ _ (by decide) (by decide) z (eR_lt _) (eLw_lt _) (eLw_lt _) (eM_lt hm0),
    (fCpy_back .mlr pComb 0x204 bo dst src k _ (pComb_eM _) hk : fCpy .mlr pComb (enc 0x204 h 0 0 (eR bo) (eLw dst)
        (eLw src) (eM k.code)) = _)⟩

theorem RoundTrip.mst (h : Head) (bo : Ref) (dst : Lw) (src : Lw) (m : SSrc) : RoundTrip.Statement (.mst h bo dst src
    m) := by
  intro hw
  have hk : (h.ok .other && dst.ok && src.ok) = true := hw
  clear hw
  exact ⟨_, rfl, enc_fits _ _ _ _ _ _ _ _ (by decide) (by decide) z (eR_lt _) (eLw_lt _) (eLw_lt _) (eS_lt' _),
    (fCpy_back .mst (pS 4) 0x205 bo dst src m _ (pS_eS 4 _) hk : fCpy .mst (pS 4) (enc 0x205 h 0 0 (eR bo) (eLw dst)
        (eLw src) (eS m)) = _)⟩

theorem RoundTrip.rls (h : Head) (bo : Ref) (ch : SSrc) (v : SOp) : RoundTrip.Statement (.rls h bo ch v) := by
  intro hw
  have hk : (h.ok .other) = true := hw
  clear hw
  refine ⟨_, rfl, enc_fits _ _ _ _ _ _ _ _ (by decide) (by decide) z (eR_lt _) (eS_lt' _) (eSI_lt _) z, ?_⟩
  show fRls (enc 0x206 h 0 0 (eR bo) (eS ch) (eSI v) 0) = _
  simp [fRls, hk]

theorem RoundTrip.acqw (h : Head) (bo : Ref) (f : SOp) (v : SOp) : RoundTrip.Statement (.acqw h bo f v) := by
  intro hw
  have hk : (h.ok .other) = true := hw
  clear hw
  exact ⟨_, rfl, enc_fits _ _ _ _ _ _ _ _ (by decide) (by decide) z (eR_lt _) (eSI_lt _) (eSI_lt _) z,
    (fAcq_back 65536 .acqw 0x207 bo f v (by simp [hk, below_immediate]) : fAcq 65536 .acqw (enc 0x207 h 0 0 (eR bo)
        (eSI f) (eSI v) 0) = _)⟩

theorem RoundTrip.agset (h : Head) (bo : Ref) (g : SOp) (rec : SOp) : RoundTrip.Statement (.agset h bo g rec) := by
  intro hw
  have hk : (h.ok .other && g.below 64) = true := hw
  clear hw
  exact ⟨_, rfl, enc_fits _ _ _ _ _ _ _ _ (by decide) (by decide) z (eR_lt _) (eSI_lt _) (eSI_lt _) z,
    (fAcq_back 64 .agset 0x208 bo g rec hk : fAcq 64 .agset (enc 0x208 h 0 0 (eR bo) (eSI g) (eSI rec) 0) = _)⟩

theorem RoundTrip.xfwd (h : Head) (t : TileRef) (cb : SSrc) (x : VLm) (rep : Rep) : RoundTrip.Statement (.xfwd h t cb
    x rep) := by
  intro hw
  have hk : (h.ok .other && repLm x rep) = true := hw
  clear hw
  exact ⟨_, rfl, enc_fits _ _ _ _ _ _ _ _ (by decide) (by decide) z (eT_lt _) (eS_lt' _) (eVL_lt _) (eRep_lt _),
    (fTSVR_back .xfwd 0x280 t cb x rep hk : fTSVR .xfwd (eTS 0x280 h t cb (eVL x) (eRep rep)) = _)⟩

theorem RoundTrip.xfwdb (h : Head) (t : TileRef) (cb : SSrc) (x : VLm) : RoundTrip.Statement (.xfwdb h t cb x) := by
  intro hw
  have hk : (h.ok .other) = true := hw
  clear hw
  exact ⟨_, rfl, enc_fits _ _ _ _ _ _ _ _ (by decide) (by decide) z (eT_lt _) (eS_lt' _) (eVL_lt _) z,
    (fTSV_back .xfwdb 0x281 t cb x hk : fTSV .xfwdb (eTS 0x281 h t cb (eVL x) 0) = _)⟩

theorem RoundTrip.xbwd (h : Head) (t : TileRef) (cb : SSrc) (x : VLm) (rep : Rep) : RoundTrip.Statement (.xbwd h t cb
    x rep) := by
  intro hw
  have hk : (h.ok .other && repLm x rep) = true := hw
  clear hw
  exact ⟨_, rfl, enc_fits _ _ _ _ _ _ _ _ (by decide) (by decide) z (eT_lt _) (eS_lt' _) (eVL_lt _) (eRep_lt _),
    (fTSVR_back .xbwd 0x282 t cb x rep hk : fTSVR .xbwd (eTS 0x282 h t cb (eVL x) (eRep rep)) = _)⟩

theorem RoundTrip.xupd (h : Head) (t : TileRef) (cb : SSrc) (x : VLm) (y : VLm) : RoundTrip.Statement (.xupd h t cb x
    y) := by
  intro hw
  have hk : (h.ok .other) = true := hw
  clear hw
  refine ⟨_, rfl, enc_fits _ _ _ _ _ _ _ _ (by decide) (by decide) z (eT_lt _) (eS_lt' _) (eVL_lt _) (eVL_lt _), ?_⟩
  show fXupd (eTS 0x283 h t cb (eVL x) (eVL y)) = _
  simp [fXupd, eTS, hk]

theorem RoundTrip.xxfr (h : Head) (t : TileRef) (cb : SSrc) : RoundTrip.Statement (.xxfr h t cb) := by
  intro hw
  have hk : (h.ok .other) = true := hw
  clear hw
  exact ⟨_, rfl, enc_fits _ _ _ _ _ _ _ _ (by decide) (by decide) z (eT_lt _) (eS_lt' _) z z,
    (fTS_back .xxfr 0x284 t cb hk : fTS .xxfr (eTS 0x284 h t cb 0 0) = _)⟩

theorem RoundTrip.xtopk (h : Head) (t : TileRef) (cb : SSrc) (x : VLm) : RoundTrip.Statement (.xtopk h t cb x) := by
  intro hw
  have hk : (h.ok .other) = true := hw
  clear hw
  exact ⟨_, rfl, enc_fits _ _ _ _ _ _ _ _ (by decide) (by decide) z (eT_lt _) (eS_lt' _) (eVL_lt _) z,
    (fTSV_back .xtopk 0x285 t cb x hk : fTSV .xtopk (eTS 0x285 h t cb (eVL x) 0) = _)⟩

theorem RoundTrip.xdist (h : Head) (t : TileRef) (cb : SSrc) (x : VLm) : RoundTrip.Statement (.xdist h t cb x) := by
  intro hw
  have hk : (h.ok .other) = true := hw
  clear hw
  exact ⟨_, rfl, enc_fits _ _ _ _ _ _ _ _ (by decide) (by decide) z (eT_lt _) (eS_lt' _) (eVL_lt _) z,
    (fTSV_back .xdist 0x286 t cb x hk : fTSV .xdist (eTS 0x286 h t cb (eVL x) 0) = _)⟩

theorem RoundTrip.xsym (h : Head) (t : TileRef) (cb : SSrc) : RoundTrip.Statement (.xsym h t cb) := by
  intro hw
  have hk : (h.ok .other) = true := hw
  clear hw
  exact ⟨_, rfl, enc_fits _ _ _ _ _ _ _ _ (by decide) (by decide) z (eT_lt _) (eS_lt' _) z z,
    (fTS_back .xsym 0x287 t cb hk : fTS .xsym (eTS 0x287 h t cb 0 0) = _)⟩

theorem RoundTrip.xckr (h : Head) (t : TileRef) (cb : SSrc) : RoundTrip.Statement (.xckr h t cb) := by
  intro hw
  have hk : (h.ok .other) = true := hw
  clear hw
  exact ⟨_, rfl, enc_fits _ _ _ _ _ _ _ _ (by decide) (by decide) z (eT_lt _) (eS_lt' _) z z,
    (fTS_back .xckr 0x288 t cb hk : fTS .xckr (eTS 0x288 h t cb 0 0) = _)⟩

theorem RoundTrip.xprg (h : Head) (t : TileRef) (cb : SSrc) : RoundTrip.Statement (.xprg h t cb) := by
  intro hw
  have hk : (h.ok .other) = true := hw
  clear hw
  exact ⟨_, rfl, enc_fits _ _ _ _ _ _ _ _ (by decide) (by decide) z (eT_lt _) (eS_lt' _) z z,
    (fTS_back .xprg 0x289 t cb hk : fTS .xprg (eTS 0x289 h t cb 0 0) = _)⟩

theorem RoundTrip.xscrb (h : Head) (t : TileRef) (cb : SSrc) : RoundTrip.Statement (.xscrb h t cb) := by
  intro hw
  have hk : (h.ok .other) = true := hw
  clear hw
  exact ⟨_, rfl, enc_fits _ _ _ _ _ _ _ _ (by decide) (by decide) z (eT_lt _) (eS_lt' _) z z,
    (fTS_back .xscrb 0x28A t cb hk : fTS .xscrb (eTS 0x28A h t cb 0 0) = _)⟩

theorem RoundTrip.xcal (h : Head) (t : TileRef) (cb : SSrc) : RoundTrip.Statement (.xcal h t cb) := by
  intro hw
  have hk : (h.ok .other) = true := hw
  clear hw
  exact ⟨_, rfl, enc_fits _ _ _ _ _ _ _ _ (by decide) (by decide) z (eT_lt _) (eS_lt' _) z z,
    (fTS_back .xcal 0x28B t cb hk : fTS .xcal (eTS 0x28B h t cb 0 0) = _)⟩

theorem RoundTrip.xnorm (h : Head) (t : TileRef) (cb : SSrc) : RoundTrip.Statement (.xnorm h t cb) := by
  intro hw
  have hk : (h.ok .other) = true := hw
  clear hw
  exact ⟨_, rfl, enc_fits _ _ _ _ _ _ _ _ (by decide) (by decide) z (eT_lt _) (eS_lt' _) z z,
    (fTS_back .xnorm 0x28C t cb hk : fTS .xnorm (eTS 0x28C h t cb 0 0) = _)⟩

theorem RoundTrip.xwset (h : Head) (w : Fin 8) (a : SOp) : RoundTrip.Statement (.xwset h w a) := by
  intro hw
  refine ⟨_, rfl, enc_fits _ _ _ _ _ _ _ _ (by decide) (by decide) (eN_lt (Nat.lt_of_lt_of_le w.isLt (by decide)))
      (eSI_lt _) z z z, ?_⟩
  show fXwset (enc 0x28D h 1 (eN w.val) (eSI a) 0 0 0) = _
  have hk : (h.ok .other) = true := hw
  simp [fXwset, hk]

theorem RoundTrip.xgset (h : Head) (t : TileRef) (cb : SSrc) : RoundTrip.Statement (.xgset h t cb) := by
  intro hw
  have hk : (h.ok .other) = true := hw
  clear hw
  exact ⟨_, rfl, enc_fits _ _ _ _ _ _ _ _ (by decide) (by decide) z (eT_lt _) (eS_lt' _) z z,
    (fTS_back .xgset 0x28E t cb hk : fTS .xgset (eTS 0x28E h t cb 0 0) = _)⟩

theorem RoundTrip.xfenceDrain (h : Head) (t : TileRef) (bo : SOp) (all : Bool) : RoundTrip.Statement (.xfenceDrain h
    t bo all) := by
  intro hw
  have hk : (h.ok .other && xfenceOk t bo all) = true := hw
  clear hw
  have hm0 : 0 + b2n all * 4 < 65536 := by
    have := b2n_lt all
    omega
  exact ⟨_, rfl, enc_fits _ _ _ _ _ _ _ _ (by decide) (by decide) z (eT_lt _) (eSI_lt _) (eM_lt hm0) z,
    (fXfence_back t bo all 0 (by decide) hk : fXfence (eXfence h t bo 0 all) = _)⟩

theorem RoundTrip.xfenceHold (h : Head) (t : TileRef) (bo : SOp) (all : Bool) : RoundTrip.Statement (.xfenceHold h t
    bo all) := by
  intro hw
  have hk : (h.ok .other && xfenceOk t bo all) = true := hw
  clear hw
  have hm0 : 1 + b2n all * 4 < 65536 := by
    have := b2n_lt all
    omega
  exact ⟨_, rfl, enc_fits _ _ _ _ _ _ _ _ (by decide) (by decide) z (eT_lt _) (eSI_lt _) (eM_lt hm0) z,
    (fXfence_back t bo all 1 (by decide) hk : fXfence (eXfence h t bo 1 all) = _)⟩

theorem RoundTrip.xfenceRel (h : Head) (t : TileRef) (bo : SOp) (all : Bool) : RoundTrip.Statement (.xfenceRel h t bo
    all) := by
  intro hw
  have hk : (h.ok .other && xfenceOk t bo all) = true := hw
  clear hw
  have hm0 : 2 + b2n all * 4 < 65536 := by
    have := b2n_lt all
    omega
  exact ⟨_, rfl, enc_fits _ _ _ _ _ _ _ _ (by decide) (by decide) z (eT_lt _) (eSI_lt _) (eM_lt hm0) z,
    (fXfence_back t bo all 2 (by decide) hk : fXfence (eXfence h t bo 2 all) = _)⟩

theorem RoundTrip.xstat (h : Head) (t : TileRef) (cb : SSrc) : RoundTrip.Statement (.xstat h t cb) := by
  intro hw
  have hk : (h.ok .other) = true := hw
  clear hw
  exact ⟨_, rfl, enc_fits _ _ _ _ _ _ _ _ (by decide) (by decide) z (eT_lt _) (eS_lt' _) z z,
    (fTS_back .xstat 0x290 t cb hk : fTS .xstat (eTS 0x290 h t cb 0 0) = _)⟩

theorem RoundTrip.fexp (h : Head) (bo : Ref) (cb : SSrc) (acc : Bool) (rep : Rep) : RoundTrip.Statement (.fexp h bo
    cb acc rep) := by
  intro hw
  have hk : (h.ok .other) = true := hw
  clear hw
  have hm0 : b2n acc < 65536 := by
    have := b2n_lt acc
    omega
  exact ⟨_, rfl, enc_fits _ _ _ _ _ _ _ _ (by decide) (by decide) z (eR_lt _) (eS_lt' _) (eM_lt hm0) (eRep_lt _),
    (fSf_back .fexp 0x300 bo cb acc rep hk : fSf .fexp (eSf 0x300 h bo cb acc rep) = _)⟩

theorem RoundTrip.fexp2 (h : Head) (bo : Ref) (cb : SSrc) (acc : Bool) (rep : Rep) : RoundTrip.Statement (.fexp2 h bo
    cb acc rep) := by
  intro hw
  have hk : (h.ok .other) = true := hw
  clear hw
  have hm0 : b2n acc < 65536 := by
    have := b2n_lt acc
    omega
  exact ⟨_, rfl, enc_fits _ _ _ _ _ _ _ _ (by decide) (by decide) z (eR_lt _) (eS_lt' _) (eM_lt hm0) (eRep_lt _),
    (fSf_back .fexp2 0x301 bo cb acc rep hk : fSf .fexp2 (eSf 0x301 h bo cb acc rep) = _)⟩

theorem RoundTrip.flog (h : Head) (bo : Ref) (cb : SSrc) (acc : Bool) (rep : Rep) : RoundTrip.Statement (.flog h bo
    cb acc rep) := by
  intro hw
  have hk : (h.ok .other) = true := hw
  clear hw
  have hm0 : b2n acc < 65536 := by
    have := b2n_lt acc
    omega
  exact ⟨_, rfl, enc_fits _ _ _ _ _ _ _ _ (by decide) (by decide) z (eR_lt _) (eS_lt' _) (eM_lt hm0) (eRep_lt _),
    (fSf_back .flog 0x302 bo cb acc rep hk : fSf .flog (eSf 0x302 h bo cb acc rep) = _)⟩

theorem RoundTrip.flog2 (h : Head) (bo : Ref) (cb : SSrc) (acc : Bool) (rep : Rep) : RoundTrip.Statement (.flog2 h bo
    cb acc rep) := by
  intro hw
  have hk : (h.ok .other) = true := hw
  clear hw
  have hm0 : b2n acc < 65536 := by
    have := b2n_lt acc
    omega
  exact ⟨_, rfl, enc_fits _ _ _ _ _ _ _ _ (by decide) (by decide) z (eR_lt _) (eS_lt' _) (eM_lt hm0) (eRep_lt _),
    (fSf_back .flog2 0x303 bo cb acc rep hk : fSf .flog2 (eSf 0x303 h bo cb acc rep) = _)⟩

theorem RoundTrip.frcp (h : Head) (bo : Ref) (cb : SSrc) (acc : Bool) (rep : Rep) : RoundTrip.Statement (.frcp h bo
    cb acc rep) := by
  intro hw
  have hk : (h.ok .other) = true := hw
  clear hw
  have hm0 : b2n acc < 65536 := by
    have := b2n_lt acc
    omega
  exact ⟨_, rfl, enc_fits _ _ _ _ _ _ _ _ (by decide) (by decide) z (eR_lt _) (eS_lt' _) (eM_lt hm0) (eRep_lt _),
    (fSf_back .frcp 0x304 bo cb acc rep hk : fSf .frcp (eSf 0x304 h bo cb acc rep) = _)⟩

theorem RoundTrip.frsq (h : Head) (bo : Ref) (cb : SSrc) (acc : Bool) (rep : Rep) : RoundTrip.Statement (.frsq h bo
    cb acc rep) := by
  intro hw
  have hk : (h.ok .other) = true := hw
  clear hw
  have hm0 : b2n acc < 65536 := by
    have := b2n_lt acc
    omega
  exact ⟨_, rfl, enc_fits _ _ _ _ _ _ _ _ (by decide) (by decide) z (eR_lt _) (eS_lt' _) (eM_lt hm0) (eRep_lt _),
    (fSf_back .frsq 0x305 bo cb acc rep hk : fSf .frsq (eSf 0x305 h bo cb acc rep) = _)⟩

theorem RoundTrip.fsqrt (h : Head) (bo : Ref) (cb : SSrc) (acc : Bool) (rep : Rep) : RoundTrip.Statement (.fsqrt h bo
    cb acc rep) := by
  intro hw
  have hk : (h.ok .other) = true := hw
  clear hw
  have hm0 : b2n acc < 65536 := by
    have := b2n_lt acc
    omega
  exact ⟨_, rfl, enc_fits _ _ _ _ _ _ _ _ (by decide) (by decide) z (eR_lt _) (eS_lt' _) (eM_lt hm0) (eRep_lt _),
    (fSf_back .fsqrt 0x306 bo cb acc rep hk : fSf .fsqrt (eSf 0x306 h bo cb acc rep) = _)⟩

theorem RoundTrip.ftanh (h : Head) (bo : Ref) (cb : SSrc) (acc : Bool) (rep : Rep) : RoundTrip.Statement (.ftanh h bo
    cb acc rep) := by
  intro hw
  have hk : (h.ok .other) = true := hw
  clear hw
  have hm0 : b2n acc < 65536 := by
    have := b2n_lt acc
    omega
  exact ⟨_, rfl, enc_fits _ _ _ _ _ _ _ _ (by decide) (by decide) z (eR_lt _) (eS_lt' _) (eM_lt hm0) (eRep_lt _),
    (fSf_back .ftanh 0x307 bo cb acc rep hk : fSf .ftanh (eSf 0x307 h bo cb acc rep) = _)⟩

theorem RoundTrip.fsig (h : Head) (bo : Ref) (cb : SSrc) (acc : Bool) (rep : Rep) : RoundTrip.Statement (.fsig h bo
    cb acc rep) := by
  intro hw
  have hk : (h.ok .other) = true := hw
  clear hw
  have hm0 : b2n acc < 65536 := by
    have := b2n_lt acc
    omega
  exact ⟨_, rfl, enc_fits _ _ _ _ _ _ _ _ (by decide) (by decide) z (eR_lt _) (eS_lt' _) (eM_lt hm0) (eRep_lt _),
    (fSf_back .fsig 0x308 bo cb acc rep hk : fSf .fsig (eSf 0x308 h bo cb acc rep) = _)⟩

theorem RoundTrip.fgelu (h : Head) (bo : Ref) (cb : SSrc) (acc : Bool) (rep : Rep) : RoundTrip.Statement (.fgelu h bo
    cb acc rep) := by
  intro hw
  have hk : (h.ok .other) = true := hw
  clear hw
  have hm0 : b2n acc < 65536 := by
    have := b2n_lt acc
    omega
  exact ⟨_, rfl, enc_fits _ _ _ _ _ _ _ _ (by decide) (by decide) z (eR_lt _) (eS_lt' _) (eM_lt hm0) (eRep_lt _),
    (fSf_back .fgelu 0x309 bo cb acc rep hk : fSf .fgelu (eSf 0x309 h bo cb acc rep) = _)⟩

theorem RoundTrip.fsilu (h : Head) (bo : Ref) (cb : SSrc) (acc : Bool) (rep : Rep) : RoundTrip.Statement (.fsilu h bo
    cb acc rep) := by
  intro hw
  have hk : (h.ok .other) = true := hw
  clear hw
  have hm0 : b2n acc < 65536 := by
    have := b2n_lt acc
    omega
  exact ⟨_, rfl, enc_fits _ _ _ _ _ _ _ _ (by decide) (by decide) z (eR_lt _) (eS_lt' _) (eM_lt hm0) (eRep_lt _),
    (fSf_back .fsilu 0x30A bo cb acc rep hk : fSf .fsilu (eSf 0x30A h bo cb acc rep) = _)⟩

theorem RoundTrip.fsin (h : Head) (bo : Ref) (cb : SSrc) (acc : Bool) (rep : Rep) : RoundTrip.Statement (.fsin h bo
    cb acc rep) := by
  intro hw
  have hk : (h.ok .other) = true := hw
  clear hw
  have hm0 : b2n acc < 65536 := by
    have := b2n_lt acc
    omega
  exact ⟨_, rfl, enc_fits _ _ _ _ _ _ _ _ (by decide) (by decide) z (eR_lt _) (eS_lt' _) (eM_lt hm0) (eRep_lt _),
    (fSf_back .fsin 0x30B bo cb acc rep hk : fSf .fsin (eSf 0x30B h bo cb acc rep) = _)⟩

theorem RoundTrip.fcos (h : Head) (bo : Ref) (cb : SSrc) (acc : Bool) (rep : Rep) : RoundTrip.Statement (.fcos h bo
    cb acc rep) := by
  intro hw
  have hk : (h.ok .other) = true := hw
  clear hw
  have hm0 : b2n acc < 65536 := by
    have := b2n_lt acc
    omega
  exact ⟨_, rfl, enc_fits _ _ _ _ _ _ _ _ (by decide) (by decide) z (eR_lt _) (eS_lt' _) (eM_lt hm0) (eRep_lt _),
    (fSf_back .fcos 0x30C bo cb acc rep hk : fSf .fcos (eSf 0x30C h bo cb acc rep) = _)⟩

theorem RoundTrip.ferf (h : Head) (bo : Ref) (cb : SSrc) (acc : Bool) (rep : Rep) : RoundTrip.Statement (.ferf h bo
    cb acc rep) := by
  intro hw
  have hk : (h.ok .other) = true := hw
  clear hw
  have hm0 : b2n acc < 65536 := by
    have := b2n_lt acc
    omega
  exact ⟨_, rfl, enc_fits _ _ _ _ _ _ _ _ (by decide) (by decide) z (eR_lt _) (eS_lt' _) (eM_lt hm0) (eRep_lt _),
    (fSf_back .ferf 0x30D bo cb acc rep hk : fSf .ferf (eSf 0x30D h bo cb acc rep) = _)⟩

theorem RoundTrip.fsmax (h : Head) (bo : Ref) (cb : SSrc) (acc : Bool) (rep : Rep) : RoundTrip.Statement (.fsmax h bo
    cb acc rep) := by
  intro hw
  have hk : (h.ok .other) = true := hw
  clear hw
  have hm0 : b2n acc < 65536 := by
    have := b2n_lt acc
    omega
  exact ⟨_, rfl, enc_fits _ _ _ _ _ _ _ _ (by decide) (by decide) z (eR_lt _) (eS_lt' _) (eM_lt hm0) (eRep_lt _),
    (fSf_back .fsmax 0x30E bo cb acc rep hk : fSf .fsmax (eSf 0x30E h bo cb acc rep) = _)⟩

theorem RoundTrip.halt (h : Head) : RoundTrip.Statement (.halt h) := by
  intro hw
  have hk : (h.ok .other) = true := hw
  clear hw
  exact ⟨_, rfl, enc_fits _ _ _ _ _ _ _ _ (by decide) (by decide) z z z z z,
    (fZ_back .halt 0x340 hk : fZ .halt (enc 0x340 h 0 0 0 0 0 0) = _)⟩

theorem RoundTrip.snap (h : Head) (a : SSrc) : RoundTrip.Statement (.snap h a) := by
  intro hw
  have hk : (h.ok .other) = true := hw
  clear hw
  exact ⟨_, rfl, enc_fits _ _ _ _ _ _ _ _ (by decide) (by decide) z (eS_lt' _) z z z,
    (fS_back .snap 0x341 a hk : fS .snap (enc 0x341 h 0 0 (eS a) 0 0 0) = _)⟩

theorem RoundTrip.rstr (h : Head) (a : SSrc) : RoundTrip.Statement (.rstr h a) := by
  intro hw
  have hk : (h.ok .other) = true := hw
  clear hw
  exact ⟨_, rfl, enc_fits _ _ _ _ _ _ _ _ (by decide) (by decide) z (eS_lt' _) z z z,
    (fS_back .rstr 0x342 a hk : fS .rstr (enc 0x342 h 0 0 (eS a) 0 0 0) = _)⟩

theorem RoundTrip.mtsp (h : Head) (r : PrivName) (a : SOp) : RoundTrip.Statement (.mtsp h r a) := by
  intro hw
  have hk : (h.ok .other) = true := hw
  clear hw
  refine ⟨_, rfl, enc_fits _ _ _ _ _ _ _ _ (by decide) (by decide) z (eN_lt (Nat.lt_of_lt_of_le r.code_lt (by
      decide))) (eSI_lt _) z z, ?_⟩
  show fMtsp (enc 0x343 h 0 0 (eN r.code) (eSI a) 0 0) = _
  simp [fMtsp, hk, r.code_lt]

theorem RoundTrip.mfsp (h : Head) (d : SDst) (r : PrivName) : RoundTrip.Statement (.mfsp h d r) := by
  intro hw
  have hk : (h.ok .other) = true := hw
  clear hw
  refine ⟨_, rfl, enc_fits _ _ _ _ _ _ _ _ (by decide) (sdstWb_lt _) (eSD_lt _) (eN_lt (Nat.lt_of_lt_of_le r.code_lt
      (by decide))) z z z, ?_⟩
  show fMfsp (enc 0x344 h d.wb (eSD d) (eN r.code) 0 0 0) = _
  simp [fMfsp, hk, r.code_lt]

theorem RoundTrip.idle (h : Head) : RoundTrip.Statement (.idle h) := by
  intro hw
  have hk : (h.ok .other) = true := hw
  clear hw
  exact ⟨_, rfl, enc_fits _ _ _ _ _ _ _ _ (by decide) (by decide) z z z z z,
    (fZ_back .idle 0x345 hk : fZ .idle (enc 0x345 h 0 0 0 0 0 0) = _)⟩

theorem RoundTrip.stallExpiry (c : CoreId) (b : BerthId) : RoundTrip.Statement (.stallExpiry c b) := fun hk =>
    nomatch (hk : false = true)

theorem RoundTrip.berthSwitch (c : CoreId) : RoundTrip.Statement (.berthSwitch c) := fun hk => nomatch (hk : false =
    true)

theorem RoundTrip.waitWake (c : CoreId) (b : BerthId) : RoundTrip.Statement (.waitWake c b) := fun hk => nomatch (hk
    : false = true)

theorem RoundTrip.sleepcWake (c : CoreId) (b : BerthId) : RoundTrip.Statement (.sleepcWake c b) := fun hk => nomatch
    (hk : false = true)

theorem RoundTrip.sleeppWake (c : CoreId) (b : BerthId) : RoundTrip.Statement (.sleeppWake c b) := fun hk => nomatch
    (hk : false = true)

theorem RoundTrip.waitpWake (c : CoreId) (b : BerthId) : RoundTrip.Statement (.waitpWake c b) := fun hk => nomatch
    (hk : false = true)

theorem RoundTrip.barrierWake (c : CoreId) (b : BerthId) : RoundTrip.Statement (.barrierWake c b) := fun hk =>
    nomatch (hk : false = true)

theorem RoundTrip.barrierWaitTimeout (c : CoreId) (b : BerthId) : RoundTrip.Statement (.barrierWaitTimeout c b) :=
    fun hk => nomatch (hk : false = true)

theorem RoundTrip.tokinWake (c : CoreId) (b : BerthId) : RoundTrip.Statement (.tokinWake c b) := fun hk => nomatch
    (hk : false = true)

theorem RoundTrip.tokoutWake (c : CoreId) (b : BerthId) : RoundTrip.Statement (.tokoutWake c b) := fun hk => nomatch
    (hk : false = true)

theorem RoundTrip.tokenInboxRoom (c : CoreId) : RoundTrip.Statement (.tokenInboxRoom c) := fun hk => nomatch (hk :
    false = true)

theorem RoundTrip.idleWake (c : CoreId) : RoundTrip.Statement (.idleWake c) := fun hk => nomatch (hk : false = true)

theorem RoundTrip.droopAlarm (q : QuadId) : RoundTrip.Statement (.droopAlarm q) := fun hk => nomatch (hk : false =
    true)

theorem RoundTrip.stretchEnd (q : QuadId) : RoundTrip.Statement (.stretchEnd q) := fun hk => nomatch (hk : false =
    true)

theorem RoundTrip.halfRateWindowEnd (q : QuadId) : RoundTrip.Statement (.halfRateWindowEnd q) := fun hk => nomatch
    (hk : false = true)

theorem RoundTrip.resultWriteback (c : CoreId) : RoundTrip.Statement (.resultWriteback c) := fun hk => nomatch (hk :
    false = true)

theorem RoundTrip.enginePushResume (c : CoreId) : RoundTrip.Statement (.enginePushResume c) := fun hk => nomatch (hk
    : false = true)

theorem RoundTrip.vxeEntryStart (c : CoreId) : RoundTrip.Statement (.vxeEntryStart c) := fun hk => nomatch (hk :
    false = true)

theorem RoundTrip.ldeEntryStart (c : CoreId) : RoundTrip.Statement (.ldeEntryStart c) := fun hk => nomatch (hk :
    false = true)

theorem RoundTrip.steEntryStart (c : CoreId) : RoundTrip.Statement (.steEntryStart c) := fun hk => nomatch (hk :
    false = true)

theorem RoundTrip.memoryTransferPerformed (c : CoreId) (u : MemUnit) (r : Reply) : RoundTrip.Statement
    (.memoryTransferPerformed c u r) := fun hk => nomatch (hk : false = true)

theorem RoundTrip.engineEntryComplete (c : CoreId) : RoundTrip.Statement (.engineEntryComplete c) := fun hk =>
    nomatch (hk : false = true)

theorem RoundTrip.deferredTrapTaken (c : CoreId) (b : BerthId) : RoundTrip.Statement (.deferredTrapTaken c b) := fun
    hk => nomatch (hk : false = true)

theorem RoundTrip.copyAccept (c : CoreId) (absent : W64) : RoundTrip.Statement (.copyAccept c absent) := fun hk =>
    nomatch (hk : false = true)

theorem RoundTrip.copyUnitPerformed (c : CoreId) (k : Fin 8) (r : Reply) : RoundTrip.Statement (.copyUnitPerformed c
    k r) := fun hk => nomatch (hk : false = true)

theorem RoundTrip.objectCount (c : CoreId) : RoundTrip.Statement (.objectCount c) := fun hk => nomatch (hk : false =
    true)

theorem RoundTrip.bargeSend (c : CoreId) (sf : Bool) : RoundTrip.Statement (.bargeSend c sf) := fun hk => nomatch (hk
    : false = true)

theorem RoundTrip.operandLatched (t : PairId) : RoundTrip.Statement (.operandLatched t) := fun hk => nomatch (hk :
    false = true)

theorem RoundTrip.gateFlipSeen (t : PairId) : RoundTrip.Statement (.gateFlipSeen t) := fun hk => nomatch (hk : false
    = true)

theorem RoundTrip.bargeIssue (t : PairId) : RoundTrip.Statement (.bargeIssue t) := fun hk => nomatch (hk : false =
    true)

theorem RoundTrip.stampWindowExpiry (t : PairId) : RoundTrip.Statement (.stampWindowExpiry t) := fun hk => nomatch
    (hk : false = true)

theorem RoundTrip.arrCeilingAdmit (t : PairId) : RoundTrip.Statement (.arrCeilingAdmit t) := fun hk => nomatch (hk :
    false = true)

theorem RoundTrip.arrayCommandComplete (t : PairId) (fail : Bool) : RoundTrip.Statement (.arrayCommandComplete t
    fail) := fun hk => nomatch (hk : false = true)

theorem RoundTrip.sfBargeStart : RoundTrip.Statement (.sfBargeStart) := fun hk => nomatch (hk : false = true)

theorem RoundTrip.sfTransferComplete (k : Nat) (fail : Bool) : RoundTrip.Statement (.sfTransferComplete k fail) :=
    fun hk => nomatch (hk : false = true)

theorem RoundTrip.dieJointFailure (j : Fin 24) : RoundTrip.Statement (.dieJointFailure j) := fun hk => nomatch (hk :
    false = true)

theorem RoundTrip.lockArrivalCount (c : CoreId) : RoundTrip.Statement (.lockArrivalCount c) := fun hk => nomatch (hk
    : false = true)

theorem RoundTrip.lockReportReceived (l : Nat) (m : BitVec 6 × Bool) (d : DieId) : RoundTrip.Statement (.lockReportReceived
    l m d) := fun hk => nomatch (hk : false = true)

theorem RoundTrip.trelReceived (l : Nat) (d : DieId) (trel : Option W64) : RoundTrip.Statement (.trelReceived l d trel) :=
    fun hk => nomatch (hk : false = true)

theorem RoundTrip.lockRelease (l : Nat) : RoundTrip.Statement (.lockRelease l) := fun hk => nomatch (hk : false =
    true)

theorem RoundTrip.barrierReleaseMessage (l : Nat) (d : DieId) (n : Fin 96) : RoundTrip.Statement
    (.barrierReleaseMessage l d n) := fun hk => nomatch (hk : false = true)

theorem RoundTrip.estimatorWindow (q : QuadId) : RoundTrip.Statement (.estimatorWindow q) := fun hk => nomatch (hk :
    false = true)

theorem RoundTrip.intervalBoundary : RoundTrip.Statement (.intervalBoundary) := fun hk => nomatch (hk : false = true)

theorem RoundTrip.thermalCeiling (d : Fin 13) : RoundTrip.Statement (.thermalCeiling d) := fun hk => nomatch (hk :
    false = true)

theorem RoundTrip.vecStepChange (up : Bool) : RoundTrip.Statement (.vecStepChange up) := fun hk => nomatch (hk :
    false = true)

theorem RoundTrip.clockStopEnd : RoundTrip.Statement (.clockStopEnd) := fun hk => nomatch (hk : false = true)

theorem RoundTrip.thermalTrip (d : Fin 13) : RoundTrip.Statement (.thermalTrip d) := fun hk => nomatch (hk : false =
    true)

theorem RoundTrip.quadPowerGate (q : QuadId) : RoundTrip.Statement (.quadPowerGate q) := fun hk => nomatch (hk :
    false = true)

theorem RoundTrip.wakeRequest (q : QuadId) : RoundTrip.Statement (.wakeRequest q) := fun hk => nomatch (hk : false =
    true)

theorem RoundTrip.wakeHoldExpiry (q : QuadId) : RoundTrip.Statement (.wakeHoldExpiry q) := fun hk => nomatch (hk :
    false = true)

theorem RoundTrip.inrushAdmit (d : DieId) : RoundTrip.Statement (.inrushAdmit d) := fun hk => nomatch (hk : false =
    true)

theorem RoundTrip.railsStable (q : QuadId) : RoundTrip.Statement (.railsStable q) := fun hk => nomatch (hk : false =
    true)

theorem RoundTrip.transientRequest (d : DieId) (line : Nat) (wr : Bool) : RoundTrip.Statement (.transientRequest d
    line wr) := fun hk => nomatch (hk : false = true)

theorem RoundTrip.tokenMessageReceived (k : Nat) : RoundTrip.Statement (.tokenMessageReceived k) := fun hk => nomatch
    (hk : false = true)

theorem RoundTrip.requestResendTimeout (d : DieId) (line : Nat) : RoundTrip.Statement (.requestResendTimeout d line)
    := fun hk => nomatch (hk : false = true)

theorem RoundTrip.persistentActivation (at_ : DieId) (d : DieId) (line : Nat) (wr : Bool) : RoundTrip.Statement
    (.persistentActivation at_ d line wr) := fun hk => nomatch (hk : false = true)

theorem RoundTrip.persistentDeactivation (at_ : DieId) (d : DieId) (line : Nat) : RoundTrip.Statement
    (.persistentDeactivation at_ d line) := fun hk => nomatch (hk : false = true)

theorem RoundTrip.lineEviction (h : Holder) (line : Nat) : RoundTrip.Statement (.lineEviction h line) := fun hk =>
    nomatch (hk : false = true)

theorem RoundTrip.rlsMessageReceived (p : PartId) (g : Fin 64) (rank : Fin 64) (scnt : W32) (sseq : W32) (flag :
    BitVec 12) (val : W64) : RoundTrip.Statement (.rlsMessageReceived p g rank scnt sseq flag val) := fun hk =>
    nomatch (hk : false = true)

theorem RoundTrip.rlsAckReceived (p : PartId) (g : Fin 64) (rank : Fin 64) (sseq : W32) : RoundTrip.Statement
    (.rlsAckReceived p g rank sseq) := fun hk => nomatch (hk : false = true)

theorem RoundTrip.fabricWriteReceived (p : PartId) (g : Fin 64) (rank : Fin 64) (num : W32) (ppa : Bool) (va : W64)
    (bs : List Byte) (comb : Option (Comb3 × Fmt)) (obj : Option (Byte × Option (Fin 4096)) × Option (Byte × W64)) :
    RoundTrip.Statement (.fabricWriteReceived p g rank num ppa va bs comb obj) := fun hk => nomatch (hk : false = true)

theorem RoundTrip.fabricResend (p : PartId) (g : Fin 64) (rank : Fin 64) : RoundTrip.Statement (.fabricResend p g
    rank) := fun hk => nomatch (hk : false = true)

theorem RoundTrip.agsetInstall (c : CoreId) : RoundTrip.Statement (.agsetInstall c) := fun hk => nomatch (hk : false
    = true)

theorem RoundTrip.qtailWrite (b : Block) (q : Fin 64) (v : W16) : RoundTrip.Statement (.qtailWrite b q v) := fun hk
    => nomatch (hk : false = true)

theorem RoundTrip.slotRead (b : Block) (q : Fin 64) : RoundTrip.Statement (.slotRead b q) := fun hk => nomatch (hk :
    false = true)

theorem RoundTrip.dependenceTest (l : Nat) : RoundTrip.Statement (.dependenceTest l) := fun hk => nomatch (hk : false
    = true)

theorem RoundTrip.turnGrant (p : PartId) : RoundTrip.Statement (.turnGrant p) := fun hk => nomatch (hk : false = true)

theorem RoundTrip.placement (p : PartId) : RoundTrip.Statement (.placement p) := fun hk => nomatch (hk : false = true)

theorem RoundTrip.copyLaunch (l : Nat) : RoundTrip.Statement (.copyLaunch l) := fun hk => nomatch (hk : false = true)

theorem RoundTrip.loadingComplete (l : Nat) : RoundTrip.Statement (.loadingComplete l) := fun hk => nomatch (hk :
    false = true)

theorem RoundTrip.startingLockRelease (l : Nat) : RoundTrip.Statement (.startingLockRelease l) := fun hk => nomatch
    (hk : false = true)

theorem RoundTrip.completionWrite (l : Nat) : RoundTrip.Statement (.completionWrite l) := fun hk => nomatch (hk :
    false = true)

theorem RoundTrip.watchdogTest : RoundTrip.Statement (.watchdogTest) := fun hk => nomatch (hk : false = true)

theorem RoundTrip.preemptionRequest (l : Nat) : RoundTrip.Statement (.preemptionRequest l) := fun hk => nomatch (hk :
    false = true)

theorem RoundTrip.imageWritten (l : Nat) : RoundTrip.Statement (.imageWritten l) := fun hk => nomatch (hk : false =
    true)

theorem RoundTrip.gangResume (l : Nat) : RoundTrip.Statement (.gangResume l) := fun hk => nomatch (hk : false = true)

theorem RoundTrip.gctlResume (b : Block) (q : Fin 64) (seq : W16) : RoundTrip.Statement (.gctlResume b q seq) := fun
    hk => nomatch (hk : false = true)

theorem RoundTrip.gctlDiscard (b : Block) (q : Fin 64) (seq : W16) : RoundTrip.Statement (.gctlDiscard b q seq) :=
    fun hk => nomatch (hk : false = true)

theorem RoundTrip.prepare (l : Nat) (gid : W32) (tlim : W64) (gang : Nat) (heat : Nat) : RoundTrip.Statement
    (.prepare l gid tlim gang heat) := fun hk => nomatch (hk : false = true)

theorem RoundTrip.prepareReply (l : Nat) (rank : Fin 64) (ack : Option (BitVec 4)) : RoundTrip.Statement
    (.prepareReply l rank ack) := fun hk => nomatch (hk : false = true)

theorem RoundTrip.commit (gid : W32) (tc : W64) : RoundTrip.Statement (.commit gid tc) := fun hk => nomatch (hk :
    false = true)

theorem RoundTrip.abort (gid : W32) : RoundTrip.Statement (.abort gid) := fun hk => nomatch (hk : false = true)

theorem RoundTrip.tlimExpiry (l : Nat) : RoundTrip.Statement (.tlimExpiry l) := fun hk => nomatch (hk : false = true)

theorem RoundTrip.gangBarrierTimeout (l : Nat) : RoundTrip.Statement (.gangBarrierTimeout l) := fun hk => nomatch (hk
    : false = true)

theorem RoundTrip.partitionTableWrite (p : PartId) (r : PtReg) (v : W64) : RoundTrip.Statement (.partitionTableWrite
    p r v) := fun hk => nomatch (hk : false = true)

theorem RoundTrip.addTwinWrite (p : PartId) (r : PtReg) (v : W64) : RoundTrip.Statement (.addTwinWrite p r v) := fun
    hk => nomatch (hk : false = true)

theorem RoundTrip.relTwinWrite (p : PartId) (r : PtReg) (v : W64) (deadline : W64) : RoundTrip.Statement
    (.relTwinWrite p r v deadline) := fun hk => nomatch (hk : false = true)

theorem RoundTrip.rszackWrite (p : PartId) (rid : W16) : RoundTrip.Statement (.rszackWrite p rid) := fun hk =>
    nomatch (hk : false = true)

theorem RoundTrip.resizeDeadline (p : PartId) : RoundTrip.Statement (.resizeDeadline p) := fun hk => nomatch (hk :
    false = true)

theorem RoundTrip.scrubGateDone (x : Resource) (fails : W32) : RoundTrip.Statement (.scrubGateDone x fails) := fun hk
    => nomatch (hk : false = true)

theorem RoundTrip.tinvWrite (p : PartId) (v : W64) : RoundTrip.Statement (.tinvWrite p v) := fun hk => nomatch (hk :
    false = true)

theorem RoundTrip.tinvComplete (p : PartId) : RoundTrip.Statement (.tinvComplete p) := fun hk => nomatch (hk : false
    = true)

theorem RoundTrip.pageWalkComplete (d : DieId) (p : PartId) (ctx : Byte) (va : W64) : RoundTrip.Statement
    (.pageWalkComplete d p ctx va) := fun hk => nomatch (hk : false = true)

theorem RoundTrip.bindUnbind (p : PartId) (idx : Fin 1024) : RoundTrip.Statement (.bindUnbind p idx) := fun hk =>
    nomatch (hk : false = true)

theorem RoundTrip.flr (p : PartId) : RoundTrip.Statement (.flr p) := fun hk => nomatch (hk : false = true)

theorem RoundTrip.flrReady (p : PartId) : RoundTrip.Statement (.flrReady p) := fun hk => nomatch (hk : false = true)

theorem RoundTrip.hostWindowRead (p : PartId) (off : BitVec 36) (n : Fin 4097) : RoundTrip.Statement (.hostWindowRead
    p off n) := fun hk => nomatch (hk : false = true)

theorem RoundTrip.hostWindowWrite (p : PartId) (off : BitVec 36) (bs : List Byte) : RoundTrip.Statement
    (.hostWindowWrite p off bs) := fun hk => nomatch (hk : false = true)

theorem RoundTrip.hostCompletion (c : CoreId) (u : MemUnit) (r : Reply) : RoundTrip.Statement (.hostCompletion c u r)
    := fun hk => nomatch (hk : false = true)

theorem RoundTrip.domainJoin : RoundTrip.Statement (.domainJoin) := fun hk => nomatch (hk : false = true)

theorem RoundTrip.domainLeave : RoundTrip.Statement (.domainLeave) := fun hk => nomatch (hk : false = true)

theorem RoundTrip.offsetMeasure (off : Byte) : RoundTrip.Statement (.offsetMeasure off) := fun hk => nomatch (hk :
    false = true)

theorem RoundTrip.pllLockLoss : RoundTrip.Statement (.pllLockLoss) := fun hk => nomatch (hk : false = true)

theorem RoundTrip.bportEnableWrite (n : Fin 48) (en : Bool) : RoundTrip.Statement (.bportEnableWrite n en) := fun hk
    => nomatch (hk : false = true)

theorem RoundTrip.linkTrained (n : Fin 48) (peer : BitVec 6) : RoundTrip.Statement (.linkTrained n peer) := fun hk =>
    nomatch (hk : false = true)

theorem RoundTrip.trainingTimeout (n : Fin 48) : RoundTrip.Statement (.trainingTimeout n) := fun hk => nomatch (hk :
    false = true)

theorem RoundTrip.linkError (n : Fin 48) : RoundTrip.Statement (.linkError n) := fun hk => nomatch (hk : false = true)

theorem RoundTrip.retrainResult (n : Fin 48) (ok : Bool) : RoundTrip.Statement (.retrainResult n ok) := fun hk =>
    nomatch (hk : false = true)

theorem RoundTrip.downRetry (n : Fin 48) : RoundTrip.Statement (.downRetry n) := fun hk => nomatch (hk : false = true)

theorem RoundTrip.flitReplay (n : Fin 48) : RoundTrip.Statement (.flitReplay n) := fun hk => nomatch (hk : false =
    true)

theorem RoundTrip.portStateFlit (m : BitVec 6) (ups : BitVec 49) : RoundTrip.Statement (.portStateFlit m ups) := fun
    hk => nomatch (hk : false = true)

theorem RoundTrip.maintenanceDue (t : PairId) (sym : Bool) : RoundTrip.Statement (.maintenanceDue t sym) := fun hk =>
    nomatch (hk : false = true)

theorem RoundTrip.wornSet (t : PairId) : RoundTrip.Statement (.wornSet t) := fun hk => nomatch (hk : false = true)

theorem RoundTrip.healthRecordAppend : RoundTrip.Statement (.healthRecordAppend) := fun hk => nomatch (hk : false =
    true)

theorem RoundTrip.patrolScrub (a : ErrAt) (bad : Bool) : RoundTrip.Statement (.patrolScrub a bad) := fun hk => nomatch
    (hk : false = true)

theorem RoundTrip.readhealth : RoundTrip.Statement (.readhealth) := fun hk => nomatch (hk : false = true)

theorem RoundTrip.readtotals : RoundTrip.Statement (.readtotals) := fun hk => nomatch (hk : false = true)

theorem RoundTrip.readcert : RoundTrip.Statement (.readcert) := fun hk => nomatch (hk : false = true)

theorem RoundTrip.quote : RoundTrip.Statement (.quote) := fun hk => nomatch (hk : false = true)

theorem RoundTrip.signman : RoundTrip.Statement (.signman) := fun hk => nomatch (hk : false = true)

theorem RoundTrip.install : RoundTrip.Statement (.install) := fun hk => nomatch (hk : false = true)

theorem RoundTrip.remap : RoundTrip.Statement (.remap) := fun hk => nomatch (hk : false = true)

theorem RoundTrip.loadfw : RoundTrip.Statement (.loadfw) := fun hk => nomatch (hk : false = true)

theorem RoundTrip.mailboxBadOp (op : Byte) : RoundTrip.Statement (.mailboxBadOp op) := fun hk => nomatch (hk : false
    = true)

theorem RoundTrip.mailboxDone : RoundTrip.Statement (.mailboxDone) := fun hk => nomatch (hk : false = true)

theorem RoundTrip.moduleReset : RoundTrip.Statement (.moduleReset) := fun hk => nomatch (hk : false = true)

theorem RoundTrip.bootVerify : RoundTrip.Statement (.bootVerify) := fun hk => nomatch (hk : false = true)

theorem RoundTrip.perstRelease : RoundTrip.Statement (.perstRelease) := fun hk => nomatch (hk : false = true)

theorem RoundTrip.powerLoss : RoundTrip.Statement (.powerLoss) := fun hk => nomatch (hk : false = true)

theorem RoundTrip.registerWrite (r : HostReg) (v : W64) : RoundTrip.Statement (.registerWrite r v) := fun hk =>
    nomatch (hk : false = true)

theorem RoundTrip.rcRegisterRead (r : HostReg) : RoundTrip.Statement (.rcRegisterRead r) := fun hk => nomatch (hk :
    false = true)

theorem RoundTrip.fabricRequestReceived (p : PartId) (ppa : Option (Fin 64)) (va : W64) (n : Fin 129) (op : Option (AmoOp × Bool
    × W64 × W64)) (from_ : BitVec 6) : RoundTrip.Statement (.fabricRequestReceived p ppa va n op from_) := fun hk =>
    nomatch (hk : false = true)

theorem RoundTrip.dieJointRetrained (j : Fin 24) : RoundTrip.Statement (.dieJointRetrained j) := fun hk => nomatch
    (hk : false = true)

theorem RoundTrip.fabricPllLock : RoundTrip.Statement (.fabricPllLock) := fun hk => nomatch (hk : false = true)

theorem RoundTrip.timeExchange (off : W64) : RoundTrip.Statement (.timeExchange off) := fun hk => nomatch (hk : false
    = true)

theorem RoundTrip.junctionTemperatureSample (t : List Byte) : RoundTrip.Statement (.junctionTemperatureSample t) :=
    fun hk => nomatch (hk : false = true)

theorem RoundTrip.doeRequest (req : List Byte) : RoundTrip.Statement (.doeRequest req) := fun hk => nomatch (hk :
    false = true)

end Sys2Proof.Laws
end

