-- ==== Sys2Proof/Laws/Words.lean ====
section
/-! SUPPORT. What each kind of dispatch does once its operands are read and its checks pass. -/

namespace Sys2Proof.Machine

open Sys2Proof

/-! ## Vector words -/

@[simp] theorem argAt_head (x : VArg) (r : List VArg) : argAt (x :: r) 0 = x := rfl

theorem fits_of {ok : Fmt → Bool} {x : VArg} (h : Fits ok x) : x.fits ok = true := by
  cases x with
  | src y => simpa [VArg.fits] using h y rfl
  | imm v => rfl

theorem firstBad_of : ∀ (slot : Nat) (oks : List (Fmt → Bool)) (xs : List VArg),
    (∀ p ∈ oks.zip xs, p.2.fits p.1 = true) → firstBad slot oks xs = none
  | _, [], _, _ => by cases ‹List VArg› <;> rfl
  | _, _ :: _, [], _ => rfl
  | slot, ok :: oks, x :: r, h => by
    have h1 : x.fits ok = true := h (ok, x) (by simp)
    simp only [firstBad, h1, if_true]
    exact firstBad_of (slot + 1) oks r (fun p hp => h p (by simp [hp]))

theorem tagCheck_of {slot : Nat} {oks : List (Fmt → Bool)} {xs : List VArg}
    (h : ∀ p ∈ oks.zip xs, p.2.fits p.1 = true) : tagCheck slot oks xs = pure () := by
  simp [tagCheck, firstBad_of slot oks xs h, tagTrap]

theorem sameTags_of {slot : Nat} {ok : Fmt → Bool} {xs : List VArg} (h : SameTags ok xs) :
    tagCheck slot (sameTag ok xs) xs = pure () := by
  refine tagCheck_of (fun p hp => ?_)
  obtain ⟨f, x⟩ := p
  have hf := (List.of_mem_zip hp).1
  have hx := (List.of_mem_zip hp).2
  simp only [sameTag, List.mem_map] at hf
  obtain ⟨_, _, rfl⟩ := hf
  cases x with
  | imm v => rfl
  | src y =>
    obtain ⟨h1, h2, h3⟩ := h y hx
    simp [VArg.fits, ← h1, h2, h3]

theorem vword_next {i : Instr} {h : Head} {slot : Nat} {vs : List VOp} {ss : List (Nat × SOp)}
    {check : List VArg → List W64 → M Unit} {s t u : State} {xs : List VArg} {ys : List W64}
    (hr : ready i h s = true) (hx : Reads (readVIs slot vs) (scheduled h s) xs t) (hy : Reads (readSIs ss) t ys u)
    (hc : check xs ys = pure ()) : vword i h slot vs ss check s = .next (u.toVxe i xs ys) := by
  refine issue_next hr ?_
  rw [bind_of hx, bind_of hy, hc]
  rfl

theorem vword_next0 {i : Instr} {h : Head} {slot : Nat} {vs : List VOp} {check : List VArg → List W64 → M Unit}
    {s t : State} {xs : List VArg} (hr : ready i h s = true) (hx : Reads (readVIs slot vs) (scheduled h s) xs t)
    (hc : check xs [] = pure ()) : vword i h slot vs [] check s = .next (t.toVxe i xs []) :=
  vword_next hr hx rfl hc

theorem vraw_next {i : Instr} {h : Head} {slot : Nat} {vs : List VOp} {s t : State} {xs : List VArg}
    (hr : ready i h s = true) (hx : Reads (readVIs slot vs) (scheduled h s) xs t) :
    vraw i h slot vs s = .next (t.toVxe i xs []) :=
  vword_next0 hr hx rfl

theorem vtagged_next {i : Instr} {h : Head} {slot : Nat} {vs : List VOp} {ok : Fmt → Bool} {s t : State} {xs : List VArg}
    (hr : ready i h s = true) (hx : Reads (readVIs slot vs) (scheduled h s) xs t) (hs : SameTags ok xs) :
    vtagged i h slot vs ok s = .next (t.toVxe i xs []) :=
  vword_next0 hr hx (sameTags_of hs)

/-! ## Memory, copy and array words -/

@[simp] theorem scheduled_vbuf (h : Head) (s : State) : (scheduled h s).self.vbuf = s.self.vbuf := by
  simp [scheduled, State.self, Core.updBerth, Core.setBerth]

theorem room_of {n : Nat} {h : Head} {s : State} (hn : roomFor n s = true) :
    ¬ operandBuffer < (scheduled h s).self.vbuf + n := by
  simp [roomFor] at hn
  simp [operandBuffer]; omega

theorem memWord_next {i : Instr} {h : Head} {n : Nat} {body : M QEntry} {s t : State} {q : QEntry}
    (hr : ready i h s = true) (hn : roomFor n s = true) (hb : Reads body (scheduled h s) q t) :
    memWord i h n body s = .next (t.toMem q) := by
  refine issue_next hr ?_
  rw [get_bind, if_neg (room_of hn)]
  show (body >>= _) _ = _
  rw [bind_of hb]
  rfl

theorem copyWord_next {i : Instr} {h : Head} {body : M QEntry} {s t : State} {q : QEntry}
    (hr : ready i h s = true) (hb : Reads body (scheduled h s) q t) : copyWord i h body s = .next (t.toCopy i q) := by
  refine issue_next hr ?_
  rw [bind_of hb]
  rfl

theorem arrayWord_next {i : Instr} {h : Head} {n : Nat} {body : M QEntry} {s t : State} {q : QEntry}
    (hr : ready i h s = true) (hn : roomFor n s = true) (hb : Reads body (scheduled h s) q t) :
    arrayWord i h n body s = .next (t.toArray i q) := by
  refine issue_next hr ?_
  rw [get_bind, if_neg (room_of hn)]
  show (body >>= _) _ = _
  rw [bind_of hb]
  rfl

/-- A reader followed by what uses its value. -/
theorem reads_bind {m : M α} {f : α → M β} {s t u : State} {x : α} {y : β} (h : Reads m s x t) (hf : Reads (f x) t y u) :
    Reads (m >>= f) s y u := by
  rw [Reads, bind_of h]; exact hf

theorem reads_need {b : Bool} {code : Code} {slot : Nat} {tval : W64} {s : State} (hb : b = true) :
    Reads (need b code slot tval) s () s := by
  subst hb; rfl

theorem reads_block {a : W64} {u : BlockUse} {array : Bool} {p1 p2 : W64 → Bool} {s : State}
    (h : blockGood a u array p1 p2 s = true) : Reads (readBlock a u array p1 p2) s (blockWords a s) s := by
  simp only [blockGood, Bool.and_eq_true, decide_eq_true_eq, Option.isNone_iff_eq_none] at h
  obtain ⟨⟨⟨h1, h2⟩, h3⟩, h4⟩ := h
  refine reads_bind (reads_need (by simpa using h1)) (reads_bind (reads_need (by simpa using h2)) ?_)
  simp only [Reads, get_bind, h3, h4, failing]
  rfl

theorem reads_tileOk {v : W64} {s : State} (h : tileGood v s = true) : Reads (tileOk v) s () s := by
  simp only [tileGood, Bool.and_eq_true] at h
  simp only [Reads, tileOk, get_bind]
  rw [need_of (by rw [Bool.and_eq_true]; exact h.1), pure_bind_run, need_of h.2]
  rfl

theorem reads_input {ok : Fmt → Bool} {slot : Nat} {tags : List (Nat × Fmt)} {x : Option Src} {s : State}
    (h : inputGood ok x = true) : Reads (vlOk ok slot tags x) s () s := by
  cases x with
  | none => rfl
  | some y => exact reads_need h

theorem arrayForm_next {i : Instr} {h : Head} {t : TileRef} {cb : SSrc} {x y : VLm} {rep : Rep} {u : BlockUse}
    {ok : Fmt → Bool} {p1 p2 : W64 → Bool} {s z : State} {v a : W64} {b c : Option Src} {r : Nat × Int}
    (hr : ready i h s = true) (ha : ArrayOk h t cb x y rep u ok p1 p2 s v a b c r z) :
    arrayForm i h t cb x y rep u ok p1 p2 s = .next (z.toArray i (arrayEntry i v a b c r z)) := by
  obtain ⟨h1, h2, h3, h4, h5, h6, h7⟩ := ha
  refine arrayWord_next hr h2 ?_
  have h8 := h7
  simp only [blockGood, Bool.and_eq_true, decide_eq_true_eq] at h8
  have key : Reads (do
      let p ← arrayArgs t cb x y rep
      let tags := srcTags 3 p.2.2.1 ++ srcTags 4 p.2.2.2.1
      vlOk ok 3 tags p.2.2.1
      vlOk ok 4 tags p.2.2.2.1
      aligned 2 p.2.1 64
      tileOk p.1
      need (p.2.2.1.isNone || decide (p.2.2.2.2.1 = 0)) .illop 4
        (BitVec.ofNat 64 (p.2.2.2.2.1 + (BitVec.ofInt 16 p.2.2.2.2.2).toNat * 4096))
      let w ← readBlock p.2.1 u true p1 p2
      let q ← captured i 0 p.2.2.2.2 [] (srcEntries p.2.2.1 ++ srcEntries p.2.2.2.1)
      return { q with vals := arrayVals p.1 w (← get) }) (scheduled h s) (arrayEntry i v a b c r z) z := by
    refine reads_bind h1 (reads_bind (reads_input h3) (reads_bind (reads_input h4) (reads_bind
      (reads_need (by simpa using h8.1.1.1)) (reads_bind (reads_tileOk h5) (reads_bind (reads_need ?_)
        (reads_bind (reads_block h7) ?_))))))
    · rcases h6 with h6 | h6 <;> simp [h6]
    · rfl
  simpa [arrayArgs] using key

/-- A special-function word queues its entry; an immediate repeat steps by the rows of the block. -/
theorem sfWord_next {i : Instr} {h : Head} {bo : Ref} {cb : SSrc} {rep : Rep} {s t u w : State} {o a : W64} {r : Nat × Int}
    (hr : ready i h s = true) (h1 : Reads (readRef 1 bo) (scheduled h s) o t) (h2 : Reads (readS 2 cb) t a u)
    (h3 : Reads (readRep 4 0 rep) u r w) (ho : o.toNat < 4096) (hb : blockGood a sfUse false sfP1 anyP w = true) :
    sfWord i h bo cb rep s = .next (w.toSf i (entry i o.toNat r.1
      (sfStep rep r.2 ((blockWords a w).getD 5 0)) (arrayVals 0 (blockWords a w) w) [] w)) := by
  refine issue_next hr ?_
  have h4 := hb
  simp only [blockGood, Bool.and_eq_true, decide_eq_true_eq] at h4
  rw [bind_of h1, bind_of h2, bind_of h3, bind_of (show Reads (aligned 2 a 64) w () w from reads_need (by simpa using h4.1.1.1)),
    bind_of (show Reads (refOk 1 o) w () w from reads_need (by simpa using ho)),
    bind_of (reads_block hb)]
  cases rep <;> rfl

end Sys2Proof.Machine
end

