-- ==== Sys2Proof/Tests/Slice0.lean ====
section
/-! SUPPORT. Tests: ill-formed terms that the form check refuses, words written out from the spec's encodings, and for every
statement with hypotheses a state and operands that meet them. -/

open Sys2Proof Sys2Proof.Machine

namespace Sys2Proof.Tests

/- `decide +kernel` waits until all earlier declarations are checked: one theorem at a time waits so. -/
set_option Elab.async false

/-! ## Small states -/

/-- A header with empty guards and no scheduling. -/
def h0 : Head := ⟨0, false, 0, false, .normal, 0, false, 0, 0⟩

/-- The machine after reset and boot, with a NOP where core 0 fetches next: the joints in service and the host's link up. -/
def start : State := { State.reset.withFetchWord 128 0 with joints := .replicate 24 true, boot := .running, pcieUp := true }

/-- A scalar FIFO of the running berth. -/
def give (n : Fin 64) (l : List W64) (s : State) : State := s.onMe (fun x => x.setS n l)

/-- A main-file FIFO of the issuing core. -/
def giveV (n : Fin 1024) (l : List VEntry) (s : State) : State := s.setVFifo s.cur n l

/-- An entry of zeros with a tag. -/
def tagged (f : Fmt) : VEntry := { VEntry.zero with tag := f }

/-- A whole register that holds it. -/
def whole (f : Fmt) : VArg := .src ⟨tagged f, false, .whole⟩

/-- A main-file source, popped. -/
def v_ (n : Fin 1024) : VSrc := ⟨.main n false, .whole, false⟩

/-- Every word of a list is ready. -/
def allReady (s : State) (l : List Instr) : Bool := l.all (fun i => ready i h0 s)

/-- S1 holds 16, S2 holds 7, S3 the parameter word of a draw. -/
def scalars : State := give 3 [128] (give 2 [7] (give 1 [16, 5] start))

/-- V1, V2 and V3 hold one entry of a tag each. -/
def vectors (a b c : Fmt) : State := giveV 3 [tagged c] (giveV 2 [tagged b] (giveV 1 [tagged a] scalars))

/-- LM of core 0 with words at their addresses. -/
def withLm (l : List (Nat × W64)) (s : State) : State :=
  s.onSelf (fun k => { k with lm := l.foldl (fun m w => m.setWord w.1 w.2) k.lm })

/-- The running berth in a wait. -/
def waiting (w : Wait) : State := start.updBerth 0 0 (fun x => { x with wait := w })

/-- An operand reader gives a value and leaves a state that meet p. -/
def readsTo (m : M α) (s : State) (p : α → State → Bool) : Bool :=
  match m s with
  | .ok (x, t) => p x t
  | .error _ => false

theorem reads_of_readsTo {m : M α} {s : State} {p : α → State → Bool} (h : readsTo m s p = true) :
    ∃ x t, Reads m s x t ∧ p x t = true := by
  unfold readsTo at h
  split at h
  · rename_i x t e
    exact ⟨x, t, e, h⟩
  · cases h

theorem sameTags_one {ok : Fmt → Bool} {f : Fmt} (h : ok f = true) : SameTags ok [whole f] := by
  intro y hy
  simp only [whole, List.mem_singleton, VArg.src.injEq] at hy
  subst hy
  exact ⟨rfl, h, rfl⟩

theorem sameTags_two {ok : Fmt → Bool} {f : Fmt} (h : ok f = true) : SameTags ok [whole f, whole f] := by
  intro y hy
  simp only [whole, List.mem_cons, List.mem_nil_iff, or_false, or_self, VArg.src.injEq] at hy
  subst hy
  exact ⟨rfl, h, rfl⟩

theorem sameTags_three {ok : Fmt → Bool} {f : Fmt} (h : ok f = true) : SameTags ok [whole f, whole f, whole f] := by
  intro y hy
  simp only [whole, List.mem_cons, List.mem_nil_iff, or_false, or_self, VArg.src.injEq] at hy
  subst hy
  exact ⟨rfl, h, rfl⟩

theorem fits_whole {ok : Fmt → Bool} {f : Fmt} (h : ok f = true) : Fits ok (whole f) := by
  intro y hy
  simp only [whole, VArg.src.injEq] at hy
  subst hy
  exact ⟨h, rfl⟩

/-! ## Form checks (06 R79 to R90): an ill-formed term for each, which WellFormed refuses -/

def s1 : SSrc := .s 1 false

def s1' : SOp := .src s1

theorem test_wf_plain : (Instr.add h0 (some 1) s1 (.imm 7)).wf = true := by decide
theorem test_wf_tokens_of_control : (Instr.nop { h0 with pb := 1 }).wf = false := by decide
theorem test_wf_tokens_of_loads :
    (Instr.ldv { h0 with pb := 1 } .latch (.imm 1) (.imm 0) (.imm 0)).wf = false ∧
    (Instr.ldv { h0 with pb := 2 } .latch (.imm 1) (.imm 0) (.imm 0)).wf = true := by decide
theorem test_wf_tokens_of_stores : (Instr.boclr { h0 with pa := 2 } (.imm 1)).wf = false := by decide
theorem test_wf_tsr_names : (Instr.tsr h0 4 4).wf = false := by decide
theorem test_wf_object_index : (Instr.waitp h0 (.imm 4096) (.imm 0)).wf = false := by decide
theorem test_wf_fence_kinds : (Instr.fence h0 .gang 0 1).wf = false ∧ (Instr.fence h0 .gang 1 0).wf = false := by decide
theorem test_wf_rcfence_tid : (Instr.rcfence h0 (some (.imm 4096))).wf = false := by decide
theorem test_wf_extend_width : (Instr.sext h0 (some 1) s1 0).wf = false ∧ (Instr.zext h0 (some 1) s1 65).wf = false := by decide
theorem test_wf_aidx_scale : (Instr.aidx h0 (some 1) s1 (.imm 1) 8).wf = false := by decide
theorem test_wf_field : (Instr.bfx h0 (some 1) s1 60 5).wf = false ∧ (Instr.bfi h0 (some 1) s1 (.imm 1) 64 1).wf = false := by decide
theorem test_wf_rounding : (Instr.vadd h0 .latch (v_ 1) (.imm 1) 0 .sr false).wf = false := by decide
theorem test_wf_cvt : (Instr.vcvt h0 .latch (v_ 1) 0 .rne .e2m1s none).wf = false ∧
    (Instr.vcvt h0 .latch (v_ 1) 0 .sr .bf16 none).wf = false := by decide
theorem test_wf_pack : (Instr.vpack h0 .latch (v_ 1) (v_ 2) 0 .rne .fp32).wf = false := by decide
theorem test_wf_blocks : (Instr.vblks h0 .latch (v_ 1) none .rne .bf16 0).wf = false ∧
    (Instr.vblkg h0 .latch (v_ 1) 0 .rne .e4m3 0).wf = false := by decide
theorem test_wf_broadcast : (Instr.vbcr h0 .latch (v_ 1) (.imm 64) 0).wf = false ∧
    (Instr.vbcc h0 .latch (v_ 1) (.imm 16) 0).wf = false := by decide
theorem test_wf_reduction : (Instr.vredr h0 .latch (v_ 1) 0 .ru .and).wf = false ∧
    (Instr.vscanr h0 .latch (v_ 1) 0 .rne .or).wf = false := by decide
theorem test_wf_iota : (Instr.viota h0 .latch (.imm 0) (.imm 1) 0 .fp32).wf = false := by decide
theorem test_wf_splat : (Instr.vsplat h0 .latch (.imm 0) 0 .none).wf = false := by decide
theorem test_wf_stored_part : (Instr.stv h0 ⟨.main 1 false, .h0, false⟩ (.imm 1) (.imm 0) (.imm 0)).wf = false := by decide
theorem test_wf_boarm_count : (Instr.boarm h0 (.imm 1) (.imm 0)).wf = false := by decide
theorem test_wf_atomic : (Instr.amo h0 1 s1 (.imm 1) none .cas true .rlx .gang).wf = false ∧
    (Instr.amo h0 1 s1 (.imm 1) none .fadd true .rlx .gang).wf = false := by decide
theorem test_wf_fabric_scope : (Instr.famo h0 1 s1 (.imm 1) s1 .add true .rlx .gang).wf = false := by decide
theorem test_wf_location_kind : (Instr.cpy h0 (.imm 1) (.imm 0x3000) (.imm 0) (.imm 0)).wf = false := by decide
theorem test_wf_group_number : (Instr.agset h0 (.imm 1) (.imm 64) (.imm 0)).wf = false := by decide
theorem test_wf_array_repeat : (Instr.xfwd h0 (.imm 0) s1 (.src (v_ 1)) (.imm 1)).wf = false ∧
    (Instr.xfwd h0 (.imm 0) s1 .lm (.imm 1)).wf = true := by decide
theorem test_wf_window_source : (Instr.xwset h0 1 (.imm 0)).wf = true := by decide
theorem test_wf_tile_fence : (Instr.xfenceDrain h0 (.imm 3) (.imm 0) true).wf = false ∧
    (Instr.xfenceDrain h0 (.imm 3) (.imm 4096) false).wf = false := by decide
theorem test_wf_event : (Instr.moduleReset).wf = false := by decide

/-! ## Words written out from the encoding tables (06 R79 to R92) -/

/-- The word of an opcode, WB and slots A to E, with the empty header (06 R79). -/
def word (opc wb a b c d e : Nat) : W128 :=
  BitVec.ofNat 128 (opc <<< 118 ||| wb <<< 94 ||| a <<< 72 ||| b <<< 54 ||| c <<< 36 ||| d <<< 18 ||| e)

/-- An immediate slot (06 R86). -/
def im (v : Nat) : Nat := 0x30000 + v

/-- Control: `BARA S2, B3, #4`, 0x00D d x si z z (07 R111). -/
theorem test_decode_bara : decode (word 0x00D 1 0x80 0xC0 (im 4) 0 0) = .ok (.bara h0 (some 2) 3 (.imm 4)) := by decide

/-- Scalar: `LI S1, #0x0123_4567_89AB_CDEF`, 0x030 d i i i i (06 R88, 07 R123). -/
theorem test_decode_li : decode (word 0x030 1 0x40 (im 0x0123) (im 0x4567) (im 0x89AB) (im 0xCDEF)) =
    .ok (.li h0 (some 1) 0x0123456789ABCDEF) := by decide

/-- Scalar: `SUB -, LS, S2.pk`, latch only (06 R85, R86). -/
theorem test_decode_sub : decode (word 0x033 0 0 0x20080 0xA0 0 0) = .ok (.sub h0 none .ls (.src (.s 2 true))) := by decide

/-- Predicate and FIFO: `PXOR P1, P2, P15`, `FCNT S1, V5` (07 R124, R125). -/
theorem test_decode_predicates : decode (word 0x05A 1 0x40 0x80 0x3C0 0 0) = .ok (.pxor h0 1 2 15) ∧
    decode (word 0x060 1 0x40 0x140 (im 0) 0 0) = .ok (.fcnt h0 (some 1) (.v 5)) := by decide

/-- Mask and exchange: `MAND M1, M2, M3` (08 R147), `VMOV V2, LL` (08 R134). -/
theorem test_decode_masks : decode (word 0x0F0 1 0x40 0x80 0xC0 0 0) = .ok (.mand h0 1 2 3) ∧
    decode (word 0x0CB 1 0x80 0x20040 0 0 0) = .ok (.vmov h0 (.main 2) ⟨.ll, .whole, false⟩) := by decide

/-- Barrier objects: `BOARM #5, #144`, 0x1A0 z ri si z z (09 R172). -/
theorem test_decode_boarm : decode (word 0x1A0 0 0 (im 5) (im 144) 0 0) = .ok (.boarm h0 (.imm 5) (.imm 144)) := by decide

/-- Special function: `FEXP #5, S3`, 0x300 (10 R213, R214). -/
theorem test_decode_fexp : decode (word 0x300 0 0 (im 5) 0xC0 (im 0) (im 0)) = .ok (.fexp h0 (.imm 5) (.s 3 false) false (.imm 0)) := by
  decide

/-- Privileged: HALT and IDLE, every slot zero (20 R321). -/
theorem test_decode_privileged : decode (word 0x340 0 0 0 0 0 0) = .ok (.halt h0) ∧ decode (word 0x345 0 0 0 0 0 0) = .ok (.idle h0) := by
  decide

/-- Refused encodings: an opcode that is not listed, a reserved hint, a nonzero slot that must be zero, PART 15, S64. -/
theorem test_decode_refused : decode (word 0x01C 0 0 0 0 0 0) = .error .opcode ∧ decode (0x4 <<< 105) = .error .hint ∧
    decode (word 0x000 0 0 1 0 0 0) = .error (.slot 1) ∧ decode (word 0x0CB 1 0x80 0x1E 0 0 0) = .error (.slot 1) ∧
    decode (word 0x031 1 0x40 0x1000 0 0 0) = .error (.slot 1) := by decide

/-! ## Single steps -/

/-- A word runs in the step that fetches it: NOP moves the pc past itself, and the engines' part of the cycle is next. -/
theorem test_step_nop : (match step start with
    | .next t => decide (t.me.pc = 16 ∧ t.stage = .engines ∧ t.self.issued = 1)
    | _ => false) = true := by decide

/-- ADD S1, S1, #-1 pops 16 and has 15 in flight (07 R123). -/
theorem test_step_add : (match exec (.add h0 (some 1) s1 (.imm 0xFFFF)) scalars with
    | .next t => decide (t.self.inflight.map (fun r => r.val) = [.s 15] ∧ t.me.s.get 1 = [5])
    | _ => false) = true := by decide

/-- A pop of an empty FIFO is escalated on a core without a handler: TCAUSE, and the gang's pre-emption asked for. -/
theorem test_step_underflow : (match exec (.mov h0 (some 1) (.src (.s 9 false))) scalars with
    | .next t => decide (t.me.tcode = 0x03 ∧ t.me.tslot = 1 ∧ t.me.pc = 0 ∧ t.todo = [.preemptionRequest 0])
    | _ => false) = true := by decide

/-- The six lines of 03 R36 for a lane that holds 0x1234_ABCD. -/
theorem test_parts :
    let y := fun (p : Part) (sw : Bool) => (⟨⟨.replicate 1024 0x1234ABCD, .none, .replicate 256 0⟩, sw, p⟩ : Src).raw 0
    y .whole false = 0x1234ABCD ∧ y .whole true = 0xABCD1234 ∧ y .h0 false = 0xABCD ∧ y .h1 false = 0x1234 ∧
    y .h0 true = 0x1234 ∧ y .b1 false = 0xAB ∧ y .b0 true = 0x34 ∧ y .n0 false = 0xD ∧ y .n7 false = 0x1 := by decide

/-- BF16 256 + 1 ties to the even 256, and 256 + 2 is 258, 0x4381 (08, the reduction example). -/
theorem test_rounding : (roundTo (.fin false 257 0 false) .bf16 .rne 0).1 = 0x4380 ∧
    roundTo (.fin false 258 0 false) .bf16 .rne 0 = (0x4381, 0) := by decide

/-! ## Hypotheses of the statements that can be met: control and scalars -/

/-- Die 0 has the first terabyte of context 0 of partition 0 mapped one to one, and the partition holds all of HBM. -/
def mapped (s : State) : State :=
  let s := s.setDie 0 { s.die 0 with tlb := [⟨false, 0, 0, 0, 2 ^ 40, 0, true, true⟩] }
  s.setPart 0 { s.part 0 with en := true, held := Masks.all }

/-- The same with the running core privileged. -/
def privileged_ (s : State) : State := s.onSelf (fun k => { k with priv := true })

theorem test_witness_branches :
    allReady scalars [.nop h0, .br h0 3, .call h0 (some 1) 3, .brc h0 .lt s1 (.imm 20) 3, .bri h0 s1, .ret h0 s1,
      .loop h0 (some 1) s1 0xFFFF, .phase h0 (some 4)] = true ∧
    (∃ t u, Reads (readS 1 s1) (scheduled h0 scalars) 16 t ∧ Reads (readSI 2 (.imm 20)) t 20 u) ∧
    (∃ t, Reads (readS 1 (.s 4 true)) (scheduled h0 (give 4 [1] scalars)) 1 t) ∧
    (∃ t, Reads (readS 1 (.s 2 false)) (scheduled h0 scalars) 7 t ∧ (7 : W64).toNat % 16 ≠ 0) ∧
    allReady scalars [.bri h0 (.s 2 false), .ret h0 (.s 2 false)] = true :=
  ⟨by decide, ⟨_, _, rfl, rfl⟩, ⟨_, rfl⟩, ⟨_, rfl, by decide⟩, by decide⟩

theorem test_witness_block_ends :
    allReady scalars [.wait h0, .yield h0, .exit h0, .beat h0, .lock h0] = true ∧
    allReady (privileged_ scalars) [.idle h0] = true ∧
    (let s := scalars.onMe (fun x => { x with lockPassed := true }); let u := scheduled h0 s;
      allReady s [.lock h0] = true ∧ u.me.lockPassed = true ∧ u.me.lockAt = u.wordAddr) := by decide

theorem test_witness_named_barriers :
    allReady start [.bara h0 (some 1) 95 (.imm 1), .baraw h0 95 (.imm 1), .barw h0 0 (.imm 1)] = true ∧
    (∃ t, Reads (readSI 2 (.imm 1)) (scheduled h0 start) 1 t ∧ t.me.marked 95 = false ∧ (t.gangOf t.cur).isSome = true ∧
      ∀ (i : Nat) (l : Launch), t.gangOf t.cur = some (i, l) → 1 ≤ l.size ∧ (l.bars.get 95).2.1 = 0) ∧
    (let s := start.onMe (fun x => { x with barMarks := [95] });
      allReady s [.baraw h0 95 (.imm 1)] = true ∧
      ∃ t, Reads (readSI 2 (.imm 1)) (scheduled h0 s) 1 t ∧ t.me.marked 95 = true) ∧
    (let l := { oneWordLaunch with size := 2, bars := oneWordLaunch.bars.set 95 (2, 1, false) };
      let s := start.setLaunch 0 l;
      allReady s [.bara h0 (some 1) 95 (.imm 1), .baraw h0 95 (.imm 0), .baraw h0 95 (.imm 3)] = true ∧
      (∃ t, Reads (readSI 2 (.imm 0)) (scheduled h0 s) 0 t ∧ t.gangOf t.cur = some (0, l)) ∧
      (∃ t, Reads (readSI 2 (.imm 3)) (scheduled h0 s) 3 t ∧ t.gangOf t.cur = some (0, l) ∧ l.size < (3 : W64).toNat) ∧
      ∃ t, Reads (readSI 2 (.imm 1)) (scheduled h0 s) 1 t ∧ t.gangOf t.cur = some (0, l) ∧ t.me.marked 95 = false ∧
        1 ≤ l.size ∧ (l.bars.get 95).2.1 ≠ 0 ∧ (l.bars.get 95).1.toNat ≠ (1 : W64).toNat) := by
  refine ⟨by decide, ⟨_, rfl, rfl, rfl, ?_⟩, ⟨by decide, _, rfl, by decide⟩, by decide, ⟨_, rfl, rfl⟩, ⟨_, rfl, rfl, by decide⟩,
    ⟨_, rfl, rfl, rfl, by decide, by decide, by decide⟩⟩
  intro i l h
  have : (i, l) = (0, oneWordLaunch) := (Option.some.inj h).symm
  cases this
  exact ⟨by decide, rfl⟩

theorem test_witness_tokens : allReady scalars [.tokin h0 .fwd s1', .tokout h0 .bwd s1' (.imm 3)] = true ∧
    (∃ t u, Reads (readSI 1 s1') (scheduled h0 scalars) 16 t ∧ Reads (readSI 2 (.imm 3)) t 3 u) :=
  ⟨by decide, ⟨_, _, rfl, rfl⟩⟩

/-- Own LM with object 4095: phase, error and promise. -/
def objectState (ph err : Bool) (prom : W64) : State :=
  withLm [(4095 * 32, BitVec.ofNat 64 (b2n ph * 2 ^ 48 + b2n err * 2 ^ 49)), (4095 * 32 + 16, prom)] start

theorem test_witness_waits :
    allReady scalars [.sleepc h0 s1] = true ∧ (∃ t, Reads (readS 1 s1) (scheduled h0 scalars) 16 t) ∧
    [(true, false, (0 : W64)), (true, true, 0), (false, false, 0), (false, false, 0x100), (false, false, 7)].all (fun x =>
      let s := { objectState x.1 x.2.1 x.2.2 with cyc := 9 }
      allReady s [.waitp h0 (.imm 4095) (.imm 0), .sleepp h0 (.imm 4095) (.imm 0)] &&
      readsTo (readSI 1 (.imm 4095)) (scheduled h0 s) (fun a t => decide (a = 4095) && readsTo (readSI 2 (.imm 0)) t (fun b u =>
        decide (b = 0 ∧ u.objErrs u.cur 4095 = none ∧ u.self.objPh 4095 = x.1 ∧ u.self.objErr 4095 = x.2.1 ∧
          u.self.objProm 4095 = x.2.2 ∧ u.cyc = 9)))) = true :=
  ⟨by decide, ⟨_, rfl⟩, by decide +kernel⟩

/-- The header and the queue section of the image that the device names 0. -/
def areas : Mem := openSection headerArea 0 ++ openSection queueArea 0

theorem openSection_in (a : Nat × Nat) (n : Nat) : ∀ c ∈ openSection a n, a.1 ≤ c.1 ∧ c.1 < a.1 + a.2 := by
  intro c h
  have := cellsAt_in _ _ c h
  have h2 := List.length_take_le a.2 (Config.imageBytes a.1 n)
  unfold openBytes at this
  omega

theorem areas_sorted : areas.Pairwise (fun a b => a.1 < b.1) := by
  refine List.pairwise_append.2 ⟨cellsAt_sorted _ _, cellsAt_sorted _ _, fun x hx y hy => ?_⟩
  have h := openSection_in _ _ x hx
  have h' := openSection_in _ _ y hy
  simp only [headerArea, queueArea] at h h'
  omega

theorem areas_in : ∀ c ∈ areas, 0 ≤ c.1 ∧ c.1 < 0 + 52 * pageBytes := by
  intro c hc
  have e : 52 * pageBytes = 0x340000 := rfl
  rcases List.mem_append.1 hc with h | h <;> have := openSection_in _ _ c h <;> simp only [headerArea, queueArea] at this <;> omega

theorem areas_header : areas.region headerArea.1 headerArea.2 = cellsAt 0 (openBytes headerArea 0) := by
  unfold Mem.region areas
  rw [List.filter_append, Mem.filter_all _ _ _ (openSection_in headerArea 0), Mem.filter_none (openSection queueArea 0), List.append_nil]
  · exact cellsAt_shift _ _
  · intro c hc
    have := openSection_in _ _ c hc
    simp only [headerArea, queueArea] at this ⊢
    omega

theorem areas_queue : areas.region queueArea.1 queueArea.2 = cellsAt 0 (openBytes queueArea 0) := by
  unfold Mem.region areas
  rw [List.filter_append, Mem.filter_all _ _ _ (openSection_in queueArea 0), Mem.filter_none (openSection headerArea 0), List.nil_append]
  · exact cellsAt_shift _ _
  · intro c hc
    have := openSection_in _ _ c hc
    simp only [headerArea, queueArea] at this ⊢
    omega

/-- The pages of a slot, mapped one to one. -/
def samePages : List (Nat × Nat) := (partPages (imageParts [])).map (fun o => (o, o))

theorem areas_pages (s : State) (h : s.mem = areas) : getPages samePages s = areas := by
  unfold getPages samePages
  rw [List.flatMap_map, h]
  have e : (fun (a : Nat) => shiftCells a (areas.region a pageBytes)) =
      fun a => areas.filter (fun c => decide (a ≤ c.1 ∧ c.1 < a + pageBytes)) := by
    funext a
    exact shiftCells_region _ _ _
  simp only [e]
  have e2 : partPages (imageParts []) = (List.range 52).map (fun i => 0 + i * pageBytes) ++ (List.range 64).map (fun i => 0xA00000 + i * pageBytes) := by
    decide +kernel
  rw [e2, List.flatMap_append, List.flatMap_map, List.flatMap_map, Mem.pages_cover _ areas_sorted, Mem.pages_cover _ areas_sorted,
    Mem.filter_all _ _ _ areas_in, Mem.filter_none, List.append_nil]
  intro c hc
  have := areas_in c hc
  have e3 : 52 * pageBytes = 0x340000 := rfl
  omega


/-- What the device saved of the strand that runs on core 0. -/
def savedStrand : Saved :=
  let s := privileged_ (mapped (give 1 [0] start))
  { place := 0, name := 0, ctx := 0, gid := 0, core := s.core 0, lenders := [] }

/-- A machine whose memory holds, at VA 0, the image of the strand that runs on core 0. -/
def imaged : State := { privileged_ (mapped (give 1 [0] start)) with saved := [savedStrand], mem := areas }

theorem imageFor_imaged (s : State) (hm : s.mem = areas) (hp : vaSlot s s.cur 0 false = .ok samePages) (hs : s.saved = [savedStrand])
    (hb : badPage samePages s = none) (l : Launch) (i : Nat) (hg : s.gangOf s.cur = some (i, l))
    (hl : l.ctx = 0 ∧ l.gid = 0 ∧ (s.core s.cur).rank = savedStrand.core.rank) :
    imageFor s s.cur 0 = some (some savedStrand, areas) := by
  have hq : savedStrand.same areas queueArea = true := decide_eq_true areas_queue.symm
  have hh : savedStrand.same areas headerArea = true := decide_eq_true areas_header.symm
  have hz : s.writtenAs (samePages.headD (0, 0)).2 areas = some savedStrand := by
    unfold State.writtenAs
    rw [hs]
    simp only [List.filter_cons, hq, List.filter_nil, if_true]
    rw [List.find?_cons_of_pos]
    · rfl
    · rfl
  unfold imageFor
  rw [hp, hg]
  simp only [areas_pages s hm, hz, hb]
  unfold imageFits asWritten
  simp only [Option.map_some, hh, Option.getD_some]
  rw [if_pos]
  simp only [Option.isNone_none, Bool.true_and, decide_eq_true_eq]
  exact ⟨hl.1.symm, hl.2.1.symm, hl.2.2.symm⟩

theorem test_witness_registers :
    allReady scalars [.tsr h0 4 5, .mfs h0 (some 1) (.sys .cyc), .stamp h0 (some 1) s1', .loc h0 true (some 1) s1',
      .mts h0 .psize s1'] = true ∧
    allReady (privileged_ scalars) [.mfsp h0 (some 1) (.sys .core), .mtsp h0 (.sys .core) s1', .halt h0] = true ∧
    sysReadOnly .psize = false ∧
    (∃ t, Reads (readSI 1 s1') (scheduled h0 scalars) 16 t) ∧ (∃ t, Reads (readSI 2 s1') (scheduled h0 scalars) 16 t) ∧
    (let s := give 1 [0x0001000003FF03FF] start;
      allReady s [.xwset h0 7 s1'] = true ∧ windowOk 0x0001000003FF0001 = true ∧ (∃ t, Reads (readSI 1 s1') (scheduled h0 s) 0x0001000003FF03FF t) ∧
      1024 < fld (0x0001000003FF03FF : W64) 9 0 + fld (0x0001000003FF03FF : W64) 26 16) ∧
    (∃ t, Reads (readS 1 s1) (scheduled h0 (privileged_ scalars)) 16 t) ∧ allReady (privileged_ scalars) [.snap h0 s1, .rstr h0 s1] = true ∧
    (let s := privileged_ (give 1 [0] start);
      allReady s [.rstr h0 s1] = true ∧ ∃ t, Reads (readS 1 s1) (scheduled h0 s) 0 t ∧ imageFor t t.cur 0 = none) ∧
    allReady imaged [.snap h0 s1, .rstr h0 s1] = true ∧
    (∃ t, Reads (readS 1 s1) (scheduled h0 imaged) 0 t ∧ imageFor t t.cur 0 = some (some savedStrand, areas)) :=
  ⟨by decide, by decide, by decide, ⟨_, rfl⟩, ⟨_, rfl⟩, ⟨by decide, by decide, ⟨_, rfl⟩, by decide⟩, ⟨_, rfl⟩, by decide,
    ⟨by decide, _, rfl, by decide +kernel⟩, by decide, ⟨_, rfl, imageFor_imaged _ rfl (by decide +kernel) rfl (by decide +kernel) _ _ rfl ⟨rfl, by decide +kernel, by decide +kernel⟩⟩⟩

theorem test_witness_traps : allReady start [.trap h0 7, .rtt h0] = true ∧
    (start.onMe (fun x => { x with trapv := 0x100 })).me.trapv ≠ 0 ∧
    [Handler.ovf 0, .other, .unit .ste].all (fun y => decide ((start.onMe (fun x => { x with handlers := [y] })).me.handlers = [y])) = true := by
  decide

theorem test_witness_fences :
    allReady scalars [.fence h0 .sys 7 7, .fsc h0 .gang, .mark h0, .tfence h0 none, .tfence h0 (some s1), .rcfence h0 none,
      .rcfence h0 (some (.imm 4095)), .icfence h0] = true ∧
    (∃ t, Reads (readS 2 s1) (scheduled h0 scalars) 16 t) ∧ (∃ t, Reads (readSI 2 (.imm 4095)) (scheduled h0 scalars) 4095 t) :=
  ⟨by decide, ⟨_, rfl⟩, ⟨_, rfl⟩⟩

theorem test_witness_scalars :
    (let b : SOp := .src (.s 2 true);
      allReady scalars [.add h0 none s1 b, .sub h0 none s1 b, .mul h0 none s1 b, .mulh h0 none s1 b, .mulhu h0 none s1 b,
        .div h0 none s1 b, .divu h0 none s1 b, .rem h0 none s1 b, .remu h0 none s1 b, .and h0 none s1 b, .or h0 none s1 b,
        .xor h0 none s1 b, .andn h0 none s1 b, .shl h0 none s1 b, .shr h0 none s1 b, .sar h0 none s1 b, .rol h0 none s1 b,
        .min h0 none s1 b, .max h0 none s1 b, .minu h0 none s1 b, .maxu h0 none s1 b, .aidx h0 none s1 b 7,
        .bfi h0 none s1 b 63 1, .li h0 none 1, .mov h0 none b, .clz h0 none s1, .ctz h0 none s1, .popc h0 none s1,
        .abs h0 none s1, .sext h0 none s1 64, .zext h0 none s1 1, .bfx h0 none s1 0 64, .cmp h0 .eq 0 s1 b,
        .sel h0 none 0 s1 b] = true) ∧
    (∃ t u, Reads (readS 1 s1) (scheduled h0 scalars) 16 t ∧ Reads (readSI 2 (.src (.s 2 true))) t 7 u) ∧
    (∃ t u, Reads (readS 2 s1) (scheduled h0 scalars) 16 t ∧ Reads (readSI 3 (.src (.s 2 true))) t 7 u) ∧
    decode (word 0x04C 1 0x40 0x40 (im 64) 0 0) = .ok (.sext h0 (some 1) s1 64) ∧
    decode (word 0x04C 1 0x40 0x40 (im 65) 0 0) = .error (.slot 2) ∧
    decode (word 0x04D 1 0x40 0x40 (im 1) 0 0) = .ok (.zext h0 (some 1) s1 1) ∧
    decode (word 0x04E 1 0x40 0x40 0x40 (im 7) 0) = .ok (.aidx h0 (some 1) s1 s1' 7) ∧
    decode (word 0x04F 1 0x40 0x40 (im 63) (im 1) 0) = .ok (.bfx h0 (some 1) s1 63 1) ∧
    decode (word 0x050 1 0x40 0x40 0x40 (im 0) (im 64)) = .ok (.bfi h0 (some 1) s1 s1' 0 64) ∧
    decode (word 0x04B 1 0x40 0x40 0x40 (im 5) 0) = .ok (.cmp h0 .geu 1 s1 s1') ∧
    (State.reset.withFetchWord 128 (0x1C <<< 118)).codeWord 0 0 = some (0x1C <<< 118) ∧ decode (0x1C <<< 118) = .error .opcode := by
  refine ⟨by decide, ⟨_, _, rfl, rfl⟩, ⟨_, _, rfl, rfl⟩, ?_⟩
  decide

theorem test_witness_predicates :
    allReady scalars [.pand h0 0 15 1, .por h0 1 2 3, .pxor h0 1 2 3, .pnot h0 1 0, .pmov h0 1 (.p 15), .pmov h0 15 (.imm true),
      .fcnt h0 (some 1) (.v 255), .fcnt h0 (some 1) (.s 63), .fdrop h0 (.v 255), .fdrop h0 (.s 63), .fclr h0 (.v 0),
      .fclr h0 (.s 0)] = true := by decide

/-! ## Hypotheses that can be met: vector words -/

theorem reads_one (f : Fmt) : ∃ t, Reads (readVIs 1 [.src (v_ 1)]) (scheduled h0 (vectors f f f)) [whole f] t := ⟨_, rfl⟩

theorem test_witness_lane_words :
    (let s := vectors .int32 .int32 .int32; let b := v_ 1; let c : VOp := .src (v_ 2); let e : VOp := .src (v_ 3);
      allReady s [.vfma h0 .latch b c e, .vfms h0 .latch b c e, .vnfma h0 .latch b c e, .vclamp h0 .latch b c e,
        .vadd h0 .latch b c 0 .rne true, .vsub h0 .latch b c 0 .rne true, .vmul h0 .latch b c 0 .rne true, .vmin h0 .latch b c 0,
        .vmax h0 .latch b c 0, .vcmp h0 .lt 7 b c 0, .vshl h0 .latch b c 0, .vshr h0 .latch b c 0, .vsar h0 .latch b c 0,
        .vmulh h0 .latch b c 0, .vand h0 .latch b c 0, .vor h0 .latch b c 0, .vxor h0 .latch b c 0, .vabs h0 .latch b 0,
        .vneg h0 .latch b 0, .vclz h0 .latch b 0, .vpopc h0 .latch b 0, .vnot h0 .latch b 0, .vsel h0 .latch 7 b c] = true ∧
      (∃ t, Reads (readVIs 1 [.src b, c, e]) (scheduled h0 s) [whole .int32, whole .int32, whole .int32] t) ∧
      (∃ t, Reads (readVIs 1 [.src b, c]) (scheduled h0 s) [whole .int32, whole .int32] t) ∧
      (∃ t, Reads (readVIs 2 [.src b, c]) (scheduled h0 s) [whole .int32, whole .int32] t) ∧
      (∃ t, Reads (readVIs 1 [.src b]) (scheduled h0 s) [whole .int32] t)) ∧
    SameTags isArith [whole .int32, whole .int32, whole .int32] ∧ SameTags isArith [whole .int32, whole .int32] ∧
    SameTags isInt [whole .int32, whole .int32] ∧ SameTags isArith [whole .int32] ∧ SameTags isInt [whole .int32] ∧
    isInt (argAt [whole .int32, whole .int32] 0).tag = true :=
  ⟨⟨by decide, ⟨_, rfl⟩, ⟨_, rfl⟩, ⟨_, rfl⟩, ⟨_, rfl⟩⟩, sameTags_three rfl, sameTags_two rfl, sameTags_two rfl, sameTags_one rfl,
    sameTags_one rfl, rfl⟩

theorem test_witness_conversions :
    (let s := vectors .fp32 .fp32 .fp32;
      allReady s [.vcvt h0 .latch (v_ 1) 0 .rne .bf16 none, .vcvt h0 .latch (v_ 1) 0 .sr .bf16 (some (.s 2 false, .s 3 false)),
        .vtag h0 .latch (v_ 1) 0 .int32, .vround h0 .latch (v_ 1) 0 .rd, .vpack h0 .latch (v_ 1) (v_ 2) 0 .rne .bf16] = true ∧
      (∃ t u, Reads (readVIs 1 [.src (v_ 1)]) (scheduled h0 s) [whole .fp32] t ∧
        Reads (readSIs [(3, .src (.s 2 false)), (4, .src (.s 3 false))]) t [7, 128] u) ∧
      (∃ t, Reads (readVIs 1 [.src (v_ 1), .src (v_ 2)]) (scheduled h0 s) [whole .fp32, whole .fp32] t)) ∧
    (1 ≤ fld (128 : W64) 15 0 ∧ fld (128 : W64) 15 0 ≤ 8192 ∧ fld (128 : W64) 63 56 = 0) ∧
    Fits (fun f => notNone f && (decide ((v_ 1).part ≠ .whole) || decide (count f ≤ count .bf16))) (whole .fp32) ∧
    Fits isFloat (whole .fp32) ∧ SameTags (fun f => decide (f = widePartner .bf16)) [whole .fp32, whole .fp32] ∧
    (∃ t, Reads (readVIs 1 [.src (v_ 1)]) (scheduled h0 (vectors .bf16 .e4m3 .fp32)) [whole .bf16] t) ∧
    allReady (vectors .bf16 .e4m3 .fp32) [.vunpkl h0 .latch (v_ 1) 0 .rne, .vunpkh h0 .latch (v_ 1) 0 .rne,
      .vblks h0 .latch (v_ 1) none .rne .e4m3 0, .vblks h0 .latch (v_ 1) (some (v_ 2)) .rne .e4m3 1] = true ∧
    Fits (fun f => decide (widePartner f ≠ .none)) (whole .bf16) ∧ Fits (blockSrc .e4m3 0) (whole .bf16) ∧
    Fits (blockSrc .e4m3 1) (whole .bf16) ∧ Fits (fun f => decide (f = .e4m3)) (whole .e4m3) ∧
    (∃ t, Reads (readVIs 1 [.src (v_ 1), .src (v_ 2)]) (scheduled h0 (vectors .bf16 .e4m3 .fp32)) [whole .bf16, whole .e4m3] t) ∧
    allReady (vectors .e4m3 .fp32 .fp32) [.vblkg h0 .latch (v_ 1) 0 .rne .bf16 1] = true ∧
    Fits (fun f => isBlock f && decide (1 < count f / count .bf16)) (whole .e4m3) :=
  ⟨⟨by decide, ⟨_, _, rfl, rfl⟩, ⟨_, rfl⟩⟩, by decide, fits_whole rfl, fits_whole rfl, sameTags_two rfl, ⟨_, rfl⟩, by decide,
    fits_whole rfl, fits_whole rfl, fits_whole rfl, fits_whole rfl, ⟨_, rfl⟩, by decide, fits_whole rfl⟩

theorem test_witness_accumulate_and_dot :
    (∃ t u, Reads (readVIs 1 [.src (v_ 1), .src (v_ 2)]) (scheduled h0 (vectors .acc12 .fp32 .fp32)) [whole .acc12, whole .fp32] t ∧
      Reads (readSIs [(3, .src (.s 2 false)), (4, .src (.s 3 false))]) t [7, 128] u) ∧
    allReady (vectors .acc12 .fp32 .fp32) [.vacc12 h0 .latch (v_ 1) (.src (v_ 2)) (.s 2 false) (.s 3 false)] = true ∧
    Fits (fun f => decide (f = .acc12)) (whole .acc12) ∧ Fits (fun f => decide (f = .fp32)) (whole .fp32) ∧
    (∀ f ∈ [Fmt.bf16, .e4m3, .e2m1s], ∃ t, Reads (readVIs 1 [.src (v_ 1), .src (v_ 2), .src (v_ 3)])
      (scheduled h0 (vectors f f .fp32)) [whole f, whole f, whole .fp32] t) ∧
    allReady (vectors .bf16 .bf16 .fp32) [.vdot2 h0 .latch (v_ 1) (v_ 2) (.src (v_ 3)),
      .vdot4 h0 .latch (v_ 1) (v_ 2) (.src (v_ 3)), .vdot8 h0 .latch (v_ 1) (v_ 2) (.src (v_ 3))] = true ∧
    Fits (fun f => f == .bf16 || f == .fp16 || f == .int16) (whole .bf16) ∧ Fits (fun f => decide (f = .bf16)) (whole .bf16) ∧
    Fits (dotPair 4 .e4m3) (whole .e4m3) ∧ Fits (fun f => f == .e4m3 || f == .e5m2 || f == .int8 || f == .uint8) (whole .e4m3) ∧
    Fits (fun f => f == .e2m1s || f == .int4) (whole .e2m1s) ∧ Fits (fun f => decide (f = .e2m1s)) (whole .e2m1s) := by
  refine ⟨⟨_, _, rfl, rfl⟩, by decide, fits_whole rfl, fits_whole rfl, ?_, by decide, fits_whole rfl, fits_whole rfl, fits_whole rfl,
    fits_whole rfl, fits_whole rfl, fits_whole rfl⟩
  intro f _
  exact ⟨_, rfl⟩

theorem test_witness_moves :
    (let s := vectors .int32 .int32 .int32; let b := v_ 1; let g : SSrc := .s 2 false; let p : SSrc := .s 3 false;
      allReady s [.vredr h0 .latch b 0 .rne .add, .vredc h0 .latch b 0 .rne .xor, .vscanr h0 .latch b 0 .rne .add,
        .vscanc h0 .latch b 0 .rne .max, .vtrb h0 .latch b 0, .vmov h0 .latch b, .vshfr h0 .latch b (v_ 2) 0,
        .vrotr h0 .latch b (.imm 15) 0, .vrotc h0 .latch b (.imm 15) 0, .vbcr h0 .latch b (.imm 15) 0, .vbcc h0 .latch b (.imm 15) 0,
        .vext h0 1 b (.imm 15) true, .vins h0 .latch b g (.imm 15), .vdrop h0 .latch b g p 1, .viota h0 .latch (.imm 1) (.imm 2) 0 .int8,
        .vsplat h0 .latch (.imm 1) 0 .fp32, .vrng h0 .latch g p 0 .u32, .mand h0 1 2 3, .mor h0 1 2 3, .mxor h0 1 2 3, .mnot h0 1 2,
        .mcnt h0 1 2, .mfirst h0 1 2] = true ∧
      (∃ t u, Reads (readVI 1 (.src b)) (scheduled h0 s) (whole .int32) t ∧ Reads (readVI 2 (.src (v_ 2))) t (whole .int32) u) ∧
      (∃ t u, Reads (readVI 1 (.src b)) (scheduled h0 s) (whole .int32) t ∧ Reads (readSI 2 (.imm 15)) t 15 u) ∧
      (∃ t u, Reads (readVI 1 (.src b)) (scheduled h0 s) (whole .int32) t ∧ Reads (readSIs [(2, .src g), (3, .imm 15)]) t [7, 15] u) ∧
      (∃ t u, Reads (readVI 1 (.src b)) (scheduled h0 s) (whole .int32) t ∧ Reads (readSIs [(2, .src g), (3, .src p)]) t [7, 128] u) ∧
      (∃ u, Reads (readSIs [(1, .imm 1), (2, .imm 2)]) (scheduled h0 s) [1, 2] u) ∧
      (∃ u, Reads (readSI 1 (.imm 1)) (scheduled h0 s) 1 u) ∧
      (∃ u, Reads (readSIs [(1, .src g), (2, .src p)]) (scheduled h0 s) [7, 128] u)) ∧
    Fits isArith (whole .int32) ∧ Fits notNone (whole .int32) ∧ (15 : W64).toNat < 1024 * count (whole .int32).tag :=
  ⟨⟨by decide, ⟨_, _, rfl, rfl⟩, ⟨_, _, rfl, rfl⟩, ⟨_, _, rfl, rfl⟩, ⟨_, _, rfl, rfl⟩, ⟨_, rfl⟩, ⟨_, rfl⟩, ⟨_, rfl⟩⟩,
    fits_whole rfl, fits_whole rfl, by decide⟩

/-! ## Hypotheses that can be met: memory, copy, array and special-function words -/

theorem test_witness_loads :
    (let s := vectors .int32 .int32 .int32;
      allReady s [.ldv h0 .latch (.imm 4095) (.imm 128) (.imm 1), .ldm h0 7 (.imm 4095) (.imm 128) (.imm 1),
        .ldsc h0 1 (.imm 4095) (.imm 128) .d false (.imm 1), .lda h0 1 (.imm 4095) (.imm 128) true .sys,
        .ldvt h0 .latch (.imm 4095) s1 true, .ldvg h0 .latch (.imm 4095) (v_ 1) (.imm 128)] = true ∧
      (∃ t u, Reads (readRef 1 (.imm 4095)) (scheduled h0 s) 4095 t ∧ Reads (readSI 2 (.imm 128)) t 128 u ∧
        (∃ w, Reads (readRep 4 32 (.imm 1)) u (1, 32) w) ∧ ∃ w, Reads (readRep 4 1 (.imm 1)) u (1, 1) w) ∧
      (∃ t u, Reads (readRef 1 (.imm 4095)) (scheduled h0 s) 4095 t ∧ Reads (readS 2 s1) t 16 u) ∧
      (∃ t u w, Reads (readRef 1 (.imm 4095)) (scheduled h0 s) 4095 t ∧ Reads (readSrc 2 (v_ 1)) t ⟨tagged .int32, false, .whole⟩ u ∧
        Reads (readSI 3 (.imm 128)) u 128 w) ∧ roomFor 0 s = true ∧ roomFor 1 s = true) ∧
    (⟨tagged .int32, false, .whole⟩ : Src).partOk = true :=
  ⟨⟨by decide, ⟨_, _, rfl, rfl, ⟨_, rfl⟩, ⟨_, rfl⟩⟩, ⟨_, _, rfl, rfl⟩, ⟨_, _, _, rfl, rfl, rfl⟩, by decide, by decide⟩, rfl⟩

theorem test_witness_stores :
    (let s := vectors .bf16 .int32 .int32;
      allReady s [.stv h0 (v_ 1) (.imm 4095) (.imm 128) (.imm 1), .stvs h0 (v_ 1) (.imm 4095) (v_ 2) (.imm 128),
        .stsc h0 s1 (.imm 4095) (.imm 128) .d, .stl h0 s1 (.imm 4095) (.imm 128) true .dev, .stm h0 7 (.imm 4095) (.imm 128) (.imm 1)] = true ∧
      (∃ t u w z, Reads (readV 1 (v_ 1)) (scheduled h0 s) (tagged .bf16) t ∧ Reads (readRef 2 (.imm 4095)) t 4095 u ∧
        Reads (readSI 3 (.imm 128)) u 128 w ∧ Reads (readRep 4 32 (.imm 1)) w (1, 32) z) ∧
      (∃ t u w z, Reads (readV 1 (v_ 1)) (scheduled h0 s) (tagged .bf16) t ∧ Reads (readRef 2 (.imm 4095)) t 4095 u ∧
        Reads (readSrc 3 (v_ 2)) u ⟨tagged .int32, false, .whole⟩ w ∧ Reads (readSI 4 (.imm 128)) w 128 z) ∧
      (∃ t u w, Reads (readS 1 s1) (scheduled h0 s) 16 t ∧ Reads (readRef 2 (.imm 4095)) t 4095 u ∧ Reads (readSI 3 (.imm 128)) u 128 w) ∧
      (∃ t u w, Reads (readRef 2 (.imm 4095)) (scheduled h0 s) 4095 t ∧ Reads (readSI 3 (.imm 128)) t 128 u ∧
        Reads (readRep 4 1 (.imm 1)) u (1, 1) w) ∧ roomFor 2 s = true) :=
  ⟨by decide, ⟨_, _, _, _, rfl, rfl, rfl, rfl⟩, ⟨_, _, _, _, rfl, rfl, rfl, rfl⟩, ⟨_, _, _, rfl, rfl, rfl⟩, ⟨_, _, _, rfl, rfl, rfl⟩, by decide⟩

theorem test_witness_atomics :
    (let s := vectors .fp32 .fp32 .fp32; let b : SOp := .imm 3;
      allReady s [.amo h0 1 s1 b (some b) .cas true .acq .gang, .amor h0 1 s1 b none .add true .gang, .famo h0 1 s1 b (.s 2 false) .add true .rlx .sys,
        .red h0 (v_ 1) (.imm 4095) (.imm 128) .add, .updr h0 (v_ 1) (.imm 4095) (.s 2 false) .adamw, .boarm h0 (.imm 4095) (.imm 1),
        .boclr h0 (.imm 4095), .bord h0 1 (.imm 4095) 3] = true ∧
      (∃ t u, Reads (readS 1 s1) (scheduled h0 s) 16 t ∧ Reads (readSI 2 b) t 3 u ∧ (∃ w, Reads (readCas (some b)) u 3 w) ∧
        (∃ w, Reads (readCas none) u 0 w) ∧ ∃ w, Reads (readS 3 (.s 2 false)) u 7 w) ∧
      (∃ t u, Reads (readV 1 (v_ 1)) (scheduled h0 s) (tagged .fp32) t ∧ Reads (readRef 2 (.imm 4095)) t 4095 u ∧
        (∃ w, Reads (readSI 3 (.imm 128)) u 128 w) ∧ ∃ w, Reads (readS 3 (.s 2 false)) u 7 w) ∧
      (∃ t u, Reads (readRef 1 (.imm 4095)) (scheduled h0 s) 4095 t ∧ Reads (readSI 2 (.imm 1)) t 1 u) ∧ roomFor 1 s = true) ∧
    fld (7 : W64) 63 12 = 0 ∧ fld (7 : W64) 47 24 % 32 = 0 ∧ fld (7 : W64) 63 48 = 0 :=
  ⟨⟨by decide, ⟨_, _, rfl, rfl, ⟨_, rfl⟩, ⟨_, rfl⟩, ⟨_, rfl⟩⟩, ⟨_, _, rfl, rfl, ⟨_, rfl⟩, ⟨_, rfl⟩⟩, ⟨_, _, rfl, rfl⟩, by decide⟩, by decide⟩

theorem test_witness_copies :
    (let s := give 4 [0x2000, 0] (give 5 [64] scalars); let o : Ref := .imm 4095; let l : Lw := .imm 5; let m : Lw := .imm 0x1005; let g : Lw := .imm 0x2000;
      allReady s [.cpy h0 o l g (.imm 1), .cpyd h0 o l l (.imm 32), .cpyr h0 o l l .add, .mlr h0 o l g .add, .cpym h0 o m l s1,
        .mst h0 o g l s1, .rls h0 o s1 (.imm 1), .acqw h0 o (.imm 1) (.imm 1), .agset h0 o (.imm 63) (.imm 64)] = true ∧
      (∃ t u w, Reads (readRef 1 o) (scheduled h0 s) 4095 t ∧ Reads (readLw 2 l) t 5 u ∧ Reads (readLw 3 g) u 0x2000 w ∧
        ∃ z, Reads (readRep 4 0 (.imm 1)) w (1, 0) z) ∧
      (∃ t u w, Reads (readRef 1 o) (scheduled h0 s) 4095 t ∧ Reads (readLw 2 l) t 5 u ∧ Reads (readLw 3 l) u 5 w ∧
        (∃ z, Reads (readSI 4 (.imm 32)) w 32 z) ∧ ∃ z, Reads (readS 4 s1) w 16 z) ∧
      (∃ t u, Reads (readRef 1 o) (scheduled h0 s) 4095 t ∧ Reads (readLw 2 m) t 0x1005 u) ∧
      (∃ t u w, Reads (readRef 1 o) (scheduled h0 s) 4095 t ∧ Reads (readS 2 s1) t 16 u ∧ Reads (readSI 3 (.imm 1)) u 1 w) ∧
      (∃ t u w, Reads (readRef 1 o) (scheduled h0 s) 4095 t ∧ Reads (readFlag 2 (.imm 1)) t 1 u ∧ Reads (readSI 3 (.imm 1)) u 1 w) ∧
      (∃ t u w, Reads (readRef 1 o) (scheduled h0 s) 4095 t ∧ Reads (readSI 2 (.imm 63)) t 63 u ∧ Reads (readSI 3 (.imm 64)) u 64 w)) ∧
    lwGood [0, 1, 2] 5 = true ∧ lwGood [0, 1, 2] 0x2000 = true ∧ lwGood [0, 1] 5 = true ∧ lwGood [2] 0x2000 = true ∧ lwGood [1] 0x1005 = true ∧
    fld (16 : W64) 63 24 = 0 ∧ fld (1 : W64) 63 19 = 0 :=
  ⟨⟨by decide, ⟨_, _, _, rfl, rfl, rfl, ⟨_, rfl⟩⟩, ⟨_, _, _, rfl, rfl, rfl, ⟨_, rfl⟩, ⟨_, rfl⟩⟩, ⟨_, _, rfl, rfl⟩, ⟨_, _, _, rfl, rfl, rfl⟩,
    ⟨_, _, _, rfl, rfl, rfl⟩, ⟨_, _, _, rfl, rfl, rfl⟩⟩, by decide⟩

/-- A state whose own LM holds a command block of words 0, 5 and 6 at 0, named by S4. -/
def blockState (w0 w5 w6 : W64) : State := give 4 [0] (withLm [(0, w0), (40, w5), (48, w6)] (vectors .bf16 .bf16 .int16))

/-- Array operands that meet `ArrayOk` in all but the record of the form. -/
def arrayMet (s : State) (x y : VLm) (rep : Rep) (u : BlockUse) (ok : Fmt → Bool) (p1 p2 : W64 → Bool) : Bool :=
  readsTo (arrayArgs (.imm 7) (.s 4 false) x y rep) (scheduled h0 s) (fun a z =>
    roomFor ((if isLm x then 0 else 1) + (if isLm y then 0 else 1)) s && inputGood ok a.2.2.1 && inputGood ok a.2.2.2.1 && tileGood a.1 z &&
    (a.2.2.1.isNone || decide (a.2.2.2.2.1 = 0)) && blockGood a.2.1 u true p1 p2 z)

theorem test_witness_array_words :
    (let x : VLm := .src (v_ 1); let c : SSrc := .s 4 false; let t : TileRef := .imm 7; let a : W64 := 0x3F80000000000000;
      let s := blockState a 0 0;
      allReady s [.xfwd h0 t c x (.imm 0), .xfwd h0 t c .lm (.imm 4095), .xbwd h0 t c x (.imm 0), .xdist h0 t c x, .xtopk h0 t c x, .xfwdb h0 t c x,
        .xupd h0 t c x .lm, .xxfr h0 t c, .xsym h0 t c, .xckr h0 t c, .xprg h0 t c, .xscrb h0 t c, .xcal h0 t c, .xnorm h0 t c, .xgset h0 t c,
        .xstat h0 t c] = true ∧
      arrayMet s x .lm (.imm 0) (prodUse false false) inputTag anyP anyP = true ∧
      arrayMet s .lm .lm (.imm 4095) (prodUse true false) inputTag anyP anyP = true ∧
      arrayMet (blockState a 64 0) x .lm (.imm 0) (prodUse false true) inputTag countP1 anyP = true ∧
      arrayMet (blockState a 1 0) (.src (v_ 3)) .lm (.imm 0) { prodUse true true with in2 := false } (fun f => decide (f = .int16)) countP1 anyP = true ∧
      arrayMet (blockState 0 1 0) x .lm (.imm 0) { noUse with in2 := true, p1 := true, p2 := true } inputTag updP1 updP2 = true ∧
      arrayMet (blockState 0 1 0) .lm .lm (.imm 0) { noUse with p1 := true, p2 := true } inputTag xfrP1 updP2 = true ∧
      arrayMet (blockState 0 4095 0) .lm .lm (.imm 0) { noUse with p1 := true } inputTag (fun w => decide (1 ≤ w.toNat ∧ w.toNat ≤ 4095)) anyP = true ∧
      arrayMet (blockState 0 16 0) .lm .lm (.imm 0) { noUse with out := true, p1 := true } inputTag ckrP1 anyP = true ∧
      arrayMet (blockState 0 0x3D800000 0) .lm .lm (.imm 0) { noUse with in1 := true, in2 := true, p1 := true } inputTag prgP1 anyP = true ∧
      arrayMet (blockState 0 0 0) .lm .lm (.imm 0) noUse inputTag anyP anyP = true ∧
      arrayMet (blockState 0 0 0) .lm .lm (.imm 0) { noUse with win := false, p1 := true, p2 := true } inputTag gsetP1 anyP = true ∧
      arrayMet (blockState 0 0 0) .lm .lm (.imm 0) { noUse with win := false, out := true } inputTag anyP anyP = true) := by
  refine ⟨?_, ?_, ?_, ?_, ?_, ?_, ?_, ?_, ?_, ?_, ?_, ?_, ?_⟩ <;> decide +kernel

theorem test_witness_tile_fences :
    (let s := scalars; let t : TileRef := .imm 7;
      allReady s [.xfenceDrain h0 t (.imm 4095) false, .xfenceHold h0 t (.imm 4095) false, .xfenceRel h0 (.imm 0) (.imm 4095) true] = true ∧
      (∃ u w, Reads (readTile t) (scheduled h0 s) 7 u ∧ Reads (readSI 2 (.imm 4095)) u 4095 w ∧ tileGood 7 w = true) ∧ roomFor 0 s = true) :=
  ⟨by decide, ⟨_, _, rfl, rfl, by decide⟩, by decide⟩

theorem test_witness_special_functions :
    (let s := blockState 0 65536 0; let c : SSrc := .s 4 false; let o : Ref := .imm 4095;
      allReady s [.fexp h0 o c true (.imm 0), .fexp2 h0 o c true (.imm 0), .flog h0 o c true (.imm 0), .flog2 h0 o c true (.imm 0),
        .frcp h0 o c true (.imm 0), .frsq h0 o c true (.imm 0), .fsqrt h0 o c true (.imm 0), .ftanh h0 o c true (.imm 0),
        .fsig h0 o c true (.imm 0), .fgelu h0 o c true (.imm 0), .fsilu h0 o c true (.imm 0), .fsin h0 o c true (.imm 0),
        .fcos h0 o c true (.imm 0), .ferf h0 o c true (.imm 0), .fsmax h0 o c true (.imm 0)] = true ∧
      ∃ t u w, Reads (readRef 1 o) (scheduled h0 s) 4095 t ∧ Reads (readS 2 c) t 0 u ∧ Reads (readRep 4 0 (.imm 0)) u (0, 0) w ∧
        blockGood 0 sfUse false sfP1 anyP w = true) :=
  ⟨by decide, ⟨_, _, _, rfl, rfl, rfl, by decide +kernel⟩⟩

/-! ## Hypotheses that can be met: events -/

/-- The launch that runs, changed. -/
def launched (f : Launch → Launch) : State := (mapped start).setLaunch 0 (f oneWordLaunch)

/-- A record of 16 rows of 16 elements in the LM map, based at 0. -/
def rowsRec (fmt : Nat) : Rec := (((Vector.replicate 8 (0 : W64)).set 2 0x1000000010).set 4 0x1000000001).set 6 (BitVec.ofNat 64 (0x110 + fmt))

/-- Die 0 holds records whole, by TID. -/
def shaped (l : List (Nat × Rec)) (s : State) : State :=
  s.setDie 0 { s.die 0 with recs := l.map (fun x => ⟨0, 0, Fin.ofNat 4096 x.1, x.2, 8⟩) }

/-- The first gigabyte of partition 0's PPAs lies at DPA 0x40000000. -/
def slotted (s : State) : State := (s.putWord 0 0x1001).putWord 0x1000 0x4000000F

/-- A check or an access that succeeds. -/
def fine {α ε : Type} : Except ε α → Bool
  | .ok _ => true
  | .error _ => false

/-- An entry of core 0, berth 0, for a word. -/
def queued (i : Instr) : QEntry := entry i 0 0 0 [5, 0, 0, 0, 0, 0, 0, 0, 0, 0] [] start

theorem test_witness_sequencer_events :
    ((start.updBerth 0 3 (fun x => { x with stall := 1 })).berth 0 3).stall = 1 ∧ (start.berth 0 0).stall ≠ 1 := by decide

theorem test_witness_switch_and_waits :
    (let k := (start.onSelf (fun k => { k with running := false })).core 0;
      k.running = false ∧ k.nextBerth = some 0 ∧ start.self.running = true ∧ (start.core 127).nextBerth = none) ∧
    (let s := waiting .wait;
      (s.berth 0 0).wait = .wait ∧ (s.core 0).noResults 0 = true ∧ nextReads s 0 0 = true) ∧
    [Wait.sleepc 0, .waitp 4095 true, .sleepp 0 false 9, .bar 95 true 9, .bar 0 false 9, .tokin .bwd 255, .tokout .fwd 63 255].all
      (fun w => decide (((waiting w).berth 0 0).wait = w ∧ (waiting w).objErrs 0 4095 = none ∧ (waiting w).objErrs 0 0 = none)) = true ∧
    start.self.barPh 95 = false ∧ start.gangOf 0 = some (0, oneWordLaunch) ∧ (start.part 0).tokens = [] := by decide +kernel

theorem test_witness_held_token :
    (let k : Tok := { kind := .bwd, mb := 255, stage := 0, launch := 0, passed := true, owed := [0] };
      let l := { oneWordLaunch with record := oneWordLaunch.record.set 1 (1 + 1 <<< 32 + 1 <<< 54) };
      let s := (start.setPart 0 { start.part 0 with tokens := [k] }).setLaunch 0 l;
      s.gangOf 0 = some (0, l) ∧
      (s.part 0).tokens.find? (fun t => t.owed.contains 0 && bit (l.record.get 1) 54
        && decide (fld (l.record.get 1) 61 56 = t.stage.toNat)) = some k ∧
      ∃ t, giveToken k 0 s = (t, true)) := ⟨by decide, by decide, _, rfl⟩

theorem test_witness_clock_events (s : State) :
    s.vecHigh ≤ 22 ∧ ¬ (s.vecHigh ≤ 7) ∧ ¬ (23 ≤ s.vecLow) ∧ 7 < s.vecLow := by
  unfold State.vecHigh State.vecLow
  omega

theorem test_witness_power_events :
    (let at_ := fun (p : QPower) => (start.setQuad 31 { start.quad 31 with power := p });
      start.quadEmpty 31 = true ∧ (start.quad 31).power = .on ∧ start.quadEmpty 0 = false ∧
      ((at_ (.gated 0 true)).quad 31).power = .gated 0 true ∧ ((at_ (.gated 0 false)).quad 31).power = .gated 0 false ∧
      ((at_ .ramping).quad 31).power = .ramping ∧
      ((start.setDie 3 { start.die 3 with rush := [31], admitted := [24] }).die 3).rush = [31] ∧
      ((start.setDie 3 { start.die 3 with rush := [31], admitted := [24, 25] }).die 3).admitted.length = 2) := by decide +kernel

theorem test_witness_pipe_events :
    (let q := queued (.vmov h0 .latch (v_ 1));
      let s := start.onSelf (fun k => { k with vxeQ := [q], counts := [{ bo := 4095, n := some 8, err := none, prom := none }] });
      (s.core 0).vxeQ = [q] ∧ vxeReady (s.core 0) = true ∧ vxeReady start.self = false ∧ (s.core 0).counts.length = 1 ∧
      start.self.counts = [] ∧ start.self.retire = []) ∧
    [true, false].all (fun e =>
      let s := start.updBerth 0 0 (fun x => { x with pend := [⟨.ste, .align, 7⟩], exited := e });
      decide ((s.berth 0 0).pend = [⟨.ste, .align, 7⟩] ∧ (s.berth 0 0).unitHandler = false ∧ (s.berth 0 0).exited = e)) = true ∧
    (start.berth 0 0).pend = [] ∧
    ((start.updBerth 0 0 (fun x => { x with handlers := [.unit .ste] })).berth 0 0).unitHandler = true ∧
    start.lmErr 0 (objAddr 4095) 32 = none ∧
    ((start.onSelf (fun k => { k with lmBad := [objAddr 4095 / 8] })).lmErr 0 (objAddr 4095) 32).isSome = true ∧
    (start.core 0).active_ .lde = none ∧ hostBase < 2 ^ 48 := by decide +kernel

theorem test_witness_writebacks :
    (let r : Pend := { unit := .seq, dst := .s 63, val := .s 9, rem := 0, berth := 3, addr := 0, id := 0, flags := 0, tok := 0 };
      let e := VEntry.zero; let w : Pend := { r with unit := .lde, dst := .v 255, val := .v e };
      let s := start.onSelf (fun k => { k with inflight := [r] }); let t := start.onSelf (fun k => { k with ldPush := [w] });
      (s.core 0).inflight = [r] ∧ (s.core 0).ldPush = [] ∧ ((s.berth 0 3).s.get 63).length < 2 ∧
      (t.core 0).ldPush = [w] ∧ (t.vFifo 0 255).length < 2 ∧
      (let u := start.onSelf (fun k => { k with retire := [(.vxe, 3)] });
        (u.core 0).retire = [(.vxe, 3)] ∧ (Tokens.push (u.core 0).tokens .vxe 3).isSome = true)) :=
  ⟨by rfl, by rfl, by decide +kernel, by rfl, by decide +kernel, by rfl, by decide +kernel⟩

/-- A fence marker in both memory queues, and a load of the LM map with its record at hand. -/
theorem test_witness_entry_starts :
    (let q := queued (.mark h0); let s := start.onSelf (fun k => { k with ldeQ := [q], steQ := [q] }); let k := s.core 0;
      [MemUnit.lde, .ste].all (fun u => decide (nextEntry k u = some q) && (Tokens.pop k.tokens (unitCls u) (pbOf q)).isSome &&
        engineFree k u) = true ∧ k.stopped = false ∧ usesRecord q.ins = false ∧ startTrap q none = none) ∧
    (let q := { queued (.ldsc h0 1 (.imm 1) (.imm 0) .d false (.imm 0)) with ref := 1 };
      let s := (shaped [(1, rowsRec 0)] start).onSelf (fun k => { k with ldeQ := [q] });
      let s' := s.setCore 0 { s.core 0 with ldeQ := [] };
      nextEntry (s.core 0) .lde = some q ∧ usesRecord q.ins = true ∧ recMore 0 q.ref s' = none ∧
      fine (readRec 0 q.ref s') = true ∧ startTrap q (some (rowsRec 0)) = none ∧ startValues s' 0 q = some q ∧ coefErr s' 0 q = none) :=
  ⟨by decide +kernel, by decide +kernel⟩

/-- The gang of core 0 in a communication phase, with a copy-engine word at the head of its queue. -/
def copying (i : Instr) : State :=
  (start.setLaunch 0 { oneWordLaunch with comm := true }).onSelf (fun k => { k with cpyQ := [queued i] })

/-- A group of two members, this module the first, installed as group 5. -/
def grouped (s : State) : State :=
  let x : Group := { record := (Vector.replicate 64 (0 : W64)).set 0 2, chans := .replicate 64 Channel.zero }
  s.setPart 0 { s.part 0 with groups := (s.part 0).groups.set 5 (some x), maxg := 64 }

/-- An AGSET that has read its record, in unit 7. -/
def setting (s : State) : State :=
  s.onSelf (fun k => { k with copies := k.copies.set 7 (some { plainCopy (queued (.agset h0 (.imm 1) (.imm 5) (.imm 0))) with sent := true }) })

theorem test_witness_copy_events :
    acceptable start 0 = none ∧
    [Instr.rls h0 (.imm 1) s1 (.imm 1), .acqw h0 (.imm 1) (.imm 1) (.imm 1), .agset h0 (.imm 1) (.imm 5) (.imm 0),
      .cpy h0 (.imm 1) (.imm 5) (.imm 5) (.imm 0)].all (fun i => decide (acceptable (copying i) 0 = some (queued i))) = true ∧
    (start.core 0).copies.get 7 = none ∧
    [Instr.acqw h0 (.imm 1) (.imm 1) (.imm 1), .cpy h0 (.imm 1) (.imm 5) (.imm 5) (.imm 0)].all (fun i =>
      decide (((start.onSelf (fun k => { k with copies := k.copies.set 7 (some (plainCopy (queued i))) })).core 0).copies.get 7 =
        some (plainCopy (queued i)))) = true ∧
    agsetReady (start.core 0) = none ∧ ((agsetReady ((setting start).core 0)).map (fun r => r.1)) = some 7 ∧
    (let q := queued (.agset h0 (.imm 1) (.imm 5) (.imm 0)); (setting start).lmErr 0 (val0 q 1).toNat 512 = none) ∧
    ((copying (.agset h0 (.imm 1) (.imm 5) (.imm 0))).core 0).freeCopy = some 0 ∧
    (let y := { plainCopy (queued (.acqw h0 (.imm 1) (.imm 1) (.imm 1))) with srcPlace := .member 5 0 };
      fine (flagWord (countLook 0 7 y 5 (mapped (grouped start))) 0 5 (val0 y.q 0)) = true ∧ (val0 y.q 1).toNat ≤ (0 : W64).toNat) := by
  refine ⟨?_, ?_, ?_, ?_, ?_, ?_, ?_, ?_, ?_, ?_⟩ <;> decide +kernel

/-- The records of a queued entry, read whole. -/
def hasRead (q : QEntry) (l : List (Nat × Rec)) (s : State) : State :=
  s.onSelf (fun k => { k with recsRead := l.map (fun x => (q.id, x.1, x.2)) })

theorem test_witness_copy_records :
    (let i := Instr.cpy h0 (.imm 1) (.imm 5) (.imm 5) (.imm 0); let s := copying i; let q := queued i;
      let t := hasRead q [(5, rowsRec 0), (0, rowsRec 0)] s;
      copyTids (queued (.rls h0 (.imm 1) s1 (.imm 1))) = [] ∧ recsMore 0 (copyTids q) t = none ∧
      (recsMore 0 (copyTids q) (mapped s)).isSome = true ∧ (s.core 0).freeCopy = some 0) := by decide +kernel

/-- A copy within LM whose records are good: it is accepted, and its first unit can be performed at once. -/
theorem test_witness_copy_moves :
    (let i := Instr.cpy h0 (.imm 1) (.imm 5) (.imm 5) (.imm 0); let q := queued i;
      let s := hasRead q [(5, rowsRec 0), (0, rowsRec 0)] (copying i);
      movesBytes i = true ∧ needsMembers q = false ∧
      (match exec (.copyAccept 0 0) s with
        | .next z => match (z.core 0).copies.get 0 with
          | some y =>
            let z := { z with cyc := 1 <<< 20 }
            match y.current with
            | some (_, t) =>
              y.paced z 0 (unitCount y.q y.dst y.unit) && (unitWalks 0 y t z).isNone && decide (y.left = 1024) &&
              (match letIn 0 (unitClass z 0 y.q y.src y.dst (sourceEnds z 0 y.q y.srcPlace) (z.endOf 0 t.place) y.unit) (copyDies z 0 y t) z with
                | some w => match runUnit 0 y t .ok w with
                  | .done .. => true
                  | _ => false
                | none => false)
            | none => false
          | none => false
        | _ => false) = true ∧
      (let other := (rowsRec 0).set 2 0x1000000008; let u := hasRead q [(5, rowsRec 0), (0, other)] (copying i);
        shapesOk i other (rowsRec 0) = false ∧ recState other = .good ∧
        recState (rowsRec 0) = .good ∧ recsMore 0 (copyTids q) u = none)) := by decide +kernel

theorem test_witness_groups :
    (let s := grouped start; let x : Group := { record := (Vector.replicate 64 (0 : W64)).set 0 2, chans := .replicate 64 Channel.zero };
      let bad : Group := { x with record := .replicate 64 0 };
      (groupDefects start 0 5 bad).find? (fun d => d.2) = some (0, true) ∧
      (s.part 0).groups.get 4 = none ∧ (s.part 0).groups.get 5 = some x ∧ serialGe (x.chans.get 63).rcnt 0 = true ∧
      serialGe (x.chans.get 63).rcnt 1 = false ∧ s.isSelf x 0 = true ∧ (start.part 0).groupOf 1 = none ∧
      s.isSelf { x with record := x.record.set 9 1 } 1 = false ∧ (start.part 0).en = false ∧ ((mapped start).part 0).en = true) := by
  refine ⟨?_, ?_, ?_, ?_, ?_, ?_, ?_, ?_, ?_, ?_⟩ <;> decide +kernel

theorem test_witness_group_messages :
    (let s := mapped (grouped start); let x : Group := { record := (Vector.replicate 64 (0 : W64)).set 0 2, chans := .replicate 64 Channel.zero };
      let f : FlagMsg := ⟨0, 0, 0, 0, none⟩; let way := fun (s : State) => enterDies 0 (portDies s 0 (arriving s 0 x 0 false false true 0 8)) s;
      serialGe (x.chans.get 0).rseq 1 = false ∧
      fine ((updChan 0 5 0 (fun ch => { ch with rseq := 1 }) s).writeVa ⟨0, x.fctx, 0, none⟩ (x.flagva + 32760) (toBytes 8 9)) = true ∧
      (way s).isSome = true ∧ way (s.setDie 0 { s.die 0 with ingress := .replicate 32 0 }) = none ∧
      (((updChan 0 5 0 (fun ch => { ch with unackedFlags := [f] }) s).part 0).groups.get 5).map (fun x => (x.chans.get 0).unackedFlags) =
        some [f] ∧
      (match flagWord s 0 5 0 with
        | .ok w => decide (w = 0)
        | .error _ => false) = true) := by
  refine ⟨?_, ?_, ?_, ?_, ?_, ?_⟩ <;> decide +kernel

theorem test_witness_module_atomic :
    (let x : Group := { record := ((Vector.replicate 64 (0 : W64)).set 0 2).set 9 1, chans := .replicate 64 Channel.zero };
      let s := ({ start with lines := [] }).setDie 0 { start.die 0 with tlb := [⟨false, 0, 0, 0, 65536, syncBase, true, true⟩] };
      let t := s.setPart 0 { s.part 0 with en := true, held := Masks.all, groups := (s.part 0).groups.set 5 (some x) };
      (t.part 0).groupOf 1 = some (5, 1) ∧ (t.part 0).groups.get 5 = some x ∧ (t.part 0).en = true ∧ x.rankOf 1 = some 1 ∧
      (∃ e : Seg, arriving t 0 x 1 false true true 8 8 = .ok [e] ∧ e.site = .sync ∧
        (enterDies 0 (portDies t 1 (.ok [e])) t).isSome = true ∧ t.badIn e.dpa 8 = none)) :=
  ⟨by decide +kernel, by decide +kernel, by decide +kernel, by decide +kernel, ⟨8, 8, syncBase + 8, .sync⟩, by rfl, by rfl, by decide +kernel, by decide +kernel⟩

/-- A barge of core 0 for tile 7, of eight counted bytes. -/
def barge (i : Instr) (st : BargeState) (w0 w1 : W64) : Barge :=
  { q := { queued i with vals := [7, w0, w1, 0, 0, 0, 0, 0, 0, 0, 0] }, core := 0, state := st, sent := 0, at_ := 0, gate := none,
    inR := .replicate 8 0, in2R := .replicate 8 0, outR := .replicate 8 0, out := [], status := 0, count := 8, n := 0, regs := none, launch := some 0 }

/-- Pair 1087 with one barge. -/
def barged (b : Barge) : State := start.setPair 1087 { start.pair 1087 with slots := [b] }

theorem test_witness_array_events :
    (let i := Instr.xfwd h0 (.imm 7) s1 .lm (.imm 0); let prg := Instr.xprg h0 (.imm 7) s1;
      let sent := barge i .sent 0 0; let latched := barge i .latched 0 0; let pulses := barge prg .latched 0 0;
      let gated := barge i .latched 0x20000 0; let stamped := barge i .latched 0x10000 9; let flipped := barge i .latched 0x20000 0x1000;
      let full := barge prg .ceiling 0 0; let driving := barge i (.driving 0 0) 0 0;
      let one := fun (f : State → Barge → Bool) (b : Barge) => ((barged b).pair 1087).slots.find? (f (barged b));
      one (fun _ b => decide (b.state = .sent)) sent = some sent ∧
      gated.started = false ∧ entryMode gated.q = 2 ∧ gateFlipped (barged gated) gated = none ∧
      gateFlipped (barged flipped) flipped = some false ∧ entryMode flipped.q = 2 ∧ start.cyc.toNat + 39 < 2 ^ 64 ∧
      ((barged latched).pair 1087).next = some latched ∧ mayIssue (barged latched) ((barged latched).pair 1087) latched = true ∧
      programs latched = false ∧ ((barged pulses).pair 1087).next = some pulses ∧
      mayIssue (barged pulses) ((barged pulses).pair 1087) pulses = true ∧ programs pulses = true ∧
      ((barged stamped).pair 1087).slots.find? (expired { barged stamped with cyc := 2000 }) = some stamped ∧ one (fun _ b => decide (b.state = .ceiling)) full = some full ∧
      ({ barged full with writeWait := [1087] } : State).writeWait = [1087] ∧ (barged full).writing = [] ∧ 0 < writeCeiling ∧
      dueBarge start (start.pair 1087) = none ∧ dueBarge (barged driving) ((barged driving).pair 1087) = some driving ∧
      driving.count ≠ 0 ∧ (barged driving).joints.get (pairJoint 1087) = true ∧ fld driving.status 7 0 ≠ 0x42 ∧
      lmIndices latched.q = false ∧ outErr ((barged driving).dropBarge 1087 driving) driving = none) := by
  refine ⟨?_, ?_, ?_, ?_, ?_, ?_, ?_, ?_, ?_, ?_, ?_, ?_, ?_, ?_, ?_, ?_, ?_, ?_, ?_, ?_, ?_, ?_, ?_, ?_⟩ <;> decide +kernel

/-- Tile 7 bound to context 0, with a command at the head of the array queue. -/
theorem test_witness_sends :
    (let q := { queued (.xsym h0 (.imm 7) s1) with vals := [7, 0, 0, 0, 0, 0, 0, 0, 0, 0, 0] };
      let s := (start.setPart 0 { start.part 0 with bind := (start.part 0).bind.set 7 (some 0) }).onSelf (fun k => { k with arrQ := [q] });
      let s' := s.updCore 0 (fun k => ({ k with arrQ := k.arrQ.erase q, vbuf := k.vbuf - q.vops.length } : Core).perform q.id 4);
      recsMore 0 (arrayTids s 0) s = none ∧ (∀ y ∈ (s.core 0).arrQ, isRel y = false) ∧ arrayHead (s.core 0) = some q ∧
      headWaits (s.core 0) q = false ∧ fenceAll q = false ∧ s.pairOf 0 (entryTile q) = some 7 ∧ s.slotFree 7 = true ∧
      fine (checkArray 0 q (some 7) s') = true ∧ s.joints.get (pairJoint 7) = true) ∧
    (let q := queued (.xfenceRel h0 (.imm 7) (.imm 1) false); isRel q = true ∧ boPending (start.onSelf (fun k => { k with arrQ := [q] })).self q = false ∧
      foreignTile (start.setPart 0 { start.part 0 with bind := .replicate 1024 (some 0) }) 0 { q with vals := [128] } = none ∧
      (foreignTile start 0 { q with vals := [128] }).isSome = true) ∧
    (let q := { queued (.fexp h0 (.imm 1) s1 true (.imm 0)) with vals := [0, 0, 0, 5, 0, 5, 1, 0, 0, 0, 0] };
      let s := hasRead q [(5, rowsRec 1)] (start.onSelf (fun k => { k with sfQ := [q] }));
      let s' := s.updCore 0 (fun k => ({ k with sfQ := k.sfQ.erase q } : Core).perform q.id 4);
      recsMore 0 (sfTids s 0) s = none ∧ (recsMore 0 [(q.id, 5)] (mapped start)).isSome = true ∧
      sfHead (s.core 0) = some q ∧ boPending (s.core 0) q = false ∧ fine (sfRecords 0 q s') = true) := by
  refine ⟨⟨?_, ?_, ?_, ?_, ?_, ?_, ?_, ?_, ?_⟩, ⟨?_, ?_, ?_, ?_⟩, ?_, ?_, ?_, ?_, ?_⟩ <;> decide +kernel

theorem test_witness_gates_and_fences :
    (let i := Instr.xfwd h0 (.imm 7) s1 .lm (.imm 0); let r := { barge i .latched 0x20000 0x1000 with gate := some (0, true) };
      let x := Instr.xfenceDrain h0 (.imm 7) (.imm 1) false;
      let f := { barge x .latched 0 0 with q := { queued x with vals := [128] } };
      r.started = false ∧ (0 : W64).toNat ≤ (barged r).cyc.toNat ∧ ((barged f).pair 1087).next = some f ∧
      mayIssue (barged f) ((barged f).pair 1087) f = true ∧ isFence f.q = true ∧
      writeCeiling ≤ ((List.replicate 256 (9 : W64)).filter (fun e => decide (start.cyc.toNat < e.toNat))).length) := by decide +kernel

theorem test_witness_special_function_events :
    (let i := Instr.fexp h0 (.imm 1) s1 true (.imm 0); let w := barge i .latched 0 0; let d := barge i (.driving 0 0) 0 0;
      let s := { start with sfRun := [w] }; let t := { start with sfRun := [d] };
      let act := fun (s : State) => let s' := { s with sfRun := s.sfRun.map (watchGate s) };
        s'.sfRun.findSome? (fun b => (sfAct s' b).map (fun a => (b, a)));
      act s = some (w, .start) ∧ act start = none ∧ act t = none ∧ t.sfRun[0]? = some d ∧ d.state = .driving 0 0 ∧
      t.joints.get (sfJoint d.core) = true ∧ sfErr t d = none ∧ ({ d with q := { d.q with rep := 1 } } : Barge).n < 1 ∧
      (∀ h : Fin 24, h.val < 4 → start.joints.get h = true) ∧
      ({ start with joints := start.joints.set 2 false } : State).joints.get 2 = false) := by
  refine ⟨?_, ?_, ?_, ?_, ?_, ?_, ?_, ?_, ?_, ?_⟩ <;> decide +kernel

theorem test_witness_lock_events :
    (let l := oneWordLaunch; let r : Launch := { l with gang := .releasing, trelAt := [0] }; let s := launched (fun _ => r);
      start.launch 0 = some l ∧ l.state = .started ∧ l.gang = .running ∧ start.hasMaster l = true ∧ ((63, 3) ∉ l.reports) ∧ start.allGone l = false ∧
      0 ∈ l.dies ∧ 0 ∉ l.trelAt ∧ s.launch 0 = some r ∧ r.gang = .releasing ∧ r.trel.toNat ≤ s.cyc.toNat ∧
      r.trelAt.any (fun d => !r.released.contains d) = true ∧ (∀ d ∈ r.dies, d ∈ r.trelAt) ∧
      (∀ c ∈ r.cores, (s.core c).stopped = false ∧ (s.core c).stopping = false) ∧ r.pre = none ∧ l.alive = true ∧ l.mmod = false ∧
      ({ r with cores := [0, 127] } : Launch).dies.any (fun d => !r.trelAt.contains d) = true ∧
      s.cyc.toNat < ({ r with trel := 9 } : Launch).trel.toNat) := by decide +kernel

theorem test_witness_lock_ends :
    (let g := { oneWordLaunch with record := oneWordLaunch.record.set 7 0x10, gone := [(0, 0)] };
      let x : Group := { record := .replicate 64 0, chans := .replicate 64 Channel.zero };
      let v := start.setPart 0 { start.part 0 with groups := (start.part 0).groups.set 0 (some x) };
      v.allGone g = true ∧ g.mmod = true ∧ g.alive = true ∧ 0 ∈ g.dies ∧ v.hasMaster g = true) ∧
    [LState.held, .saved, .resuming].all (fun x => decide (start.allGone { oneWordLaunch with state := x } = false)) = true ∧
    ({ oneWordLaunch with pre := some .priority } : Launch).pre.isSome = true := by decide +kernel

theorem test_witness_lock_counts :
    (let s := start.onSelf (fun k => { k with berths := k.berths.map (fun x => { x with lockArrived := true, wait := .lock }) });
      s.gangOf 0 = some (0, oneWordLaunch) ∧ 0 ∉ oneWordLaunch.counted ∧ 0 ∈ oneWordLaunch.cores ∧ s.strandArrived 0 = true ∧
      (s.core 0).stopped = false ∧ (s.core 0).stopping = false ∧ ({ oneWordLaunch with firstReport := some 0 } : Launch).firstReport = some 0 ∧
      ({ oneWordLaunch with gang := .starting } : Launch).gang = .starting) := by decide +kernel

theorem test_witness_coherence_events :
    (let r : TokReq := { die := 3, line := 7, wr := true, sent := 0, resent := false };
      let m : TokMsg := { line := 7, dest := .home, t := 1, owner := false, valid := false, data := [] };
      let s := { start with tokReqs := [r], tokMsgs := [m] };
      s.request 3 7 = some r ∧ start.request 3 7 = none ∧ s.tokMsgs[0]? = some m ∧ start.tokMsgs[0]? = none ∧
      ((takeTokens m { s with tokMsgs := [] }).die (holderDie 7 .home)).winner 7 = none ∧
      ((start.setDie 3 ((start.die 3).setTurn { (start.die 3).turn 7 with cur := some 2 })).die 3).winner 7 = some 2 ∧
      (let x := (start.tokLine 7).get .home; x.t ≠ 0 ∧ x.owner = true ∧ ((start.tokLine 7).get (holderOf 7 1)).t = 0 ∧
        ((start.tokLine 7).get (holderOf 7 1)).owner = false ∧ Holder.home ≠ holderOf 7 3 ∧ holderOf 7 1 ≠ holderOf 7 3 ∧
        (start.die (holderDie 7 .home)).winner 7 ≠ some (holderDie 7 .home)) ∧
      512 ≤ ((600 : W64) - r.sent).toNat ∧ start.mayAccess 7 (holderOf 7 0) true = true ∧ start.mayAccess 7 (holderOf 7 3) true = false ∧
      ((start.setDie 3 { start.die 3 with persist := [⟨3, 7, true⟩] }).die 3).own 3 7 = some ⟨3, 7, true⟩ ∧ (start.die 3).own 3 7 = none) := by
  decide +kernel

/-- Queue 63 of partition 0, enabled, with its slot at VA 0. -/
def queueing (en : Bool) : State :=
  let s := (mapped start).setQueue (.part 0) 63 { Queue.reset with en := en, logn := 2, tail := 1 }
  { s with launches := [] }

/-- A launch as its record makes it, in a state. -/
def asked (st : LState) (w1 : W64) : Launch :=
  { oneWordLaunch with state := st, gang := .placed, record := oneWordLaunch.record.set 1 w1, turn := true }

theorem test_witness_launch_events :
    (let s := queueing true; let x := s.queue (.part 0) 63; let l := asked .ready (1 <<< 32); let t := { s with launches := [l] };
      let c := asked .ready 0x80000000; let u := { s with launches := [c] };
      hasQueue .pf0 16 = false ∧ hasQueue .pf0 15 = true ∧ s.blockOpen (.part 0) = true ∧ x.en = true ∧ x.head ≠ x.tail ∧
      ((queueing false).queue (.part 0) 63).en = false ∧ (s.part (s.queuePart (.part 0) 63)).en = true ∧
      (match s.readVa ⟨s.queuePart (.part 0) 63, x.ctx, 0, none⟩ x.base 128 with
        | .ok r => decide (r.1.length = 128)
        | .error _ => false) = true ∧
      (t.holder 0).isSome = true ∧ s.holder 0 = none ∧ s.candidates 0 = [] ∧ t.holder 0 = some (0, l) ∧ l.isCopy = false ∧
      chooseQuads l.need (t.freeQuads 0) = some [0] ∧ u.holder 0 = some (0, c) ∧ c.isCopy = true ∧ s.launches = [] ∧
      ({ s with launches := [asked .loading 0] } : State).maintained (asked .loading 0) = false) := by decide +kernel

theorem test_witness_turns_and_loads :
    (let l := { asked .ready (1 <<< 32) with turn := false }; let h := { l with state := .held };
      let level := fun (s : State) (x : Launch) => ({ s with launches := [x] } : State).candidates 0;
      let s := (queueing true).setQueue .pf0 0 { Queue.reset with credit := 1 };
      ({ s with launches := [l] } : State).holder 0 = none ∧ (level s h).map (fun x => (x.1, decide (x.2.state = .held), x.2.prio)) = [(0, true, 0)] ∧
      (level s l).map (fun x => (x.1, decide (x.2.state = .held), x.2.prio)) = [(0, false, 0)] ∧
      (afterLast ((s.part 0).last.get 0).val (byRound (level s l))).map (fun x => decide (0 < (s.queue x.2.blk x.2.queue).credit)) = [true]) ∧
    (let l := { asked .loading (1 + 1 <<< 32) with turn := false }; let s := { mapped start with launches := [l] };
      s.behind 0 l = false ∧ l.isCopy = false ∧ s.maintained l = false ∧ l.mmod = false ∧
      (match s.loads l with
        | .ok r => (loadImages 0 l r.1 s l.dies).isSome
        | .error _ => false) = true ∧ (asked .loading 0x80000000).isCopy = true) ∧
    (let l := { oneWordLaunch with record := oneWordLaunch.record.set 5 1 };
      l.pre = none ∧ watchdogDet ({ start.setLaunch 0 l with cyc := 1 <<< 60 } : State) l = some 1) := by
  refine ⟨⟨?_, ?_, ?_, ?_⟩, ⟨?_, ?_, ?_, ?_, ?_, ?_⟩, ?_, ?_⟩ <;> decide +kernel

theorem test_witness_copy_launch :
    (let l := { asked .started 0x80000000 with record := (asked .started 0x80000000).record.set 2 128 };
      let s := (launched (fun _ => l)).putBytes (144 + 0) [0x80];
      s.launch 0 = some l ∧ l.isCopy = true ∧
      (match s.readVa l.ctxOf (l.record.get 2) 64 with
        | .ok r => decide (copyBlock r.1 = some (0, 0, 128)) && (match r.2.readVa l.ctxOf 0 128 with
          | .ok y => (match y.2.writeVa l.ctxOf 0 y.1 with
            | .ok _ => true
            | .error _ => false)
          | .error _ => false)
        | .error _ => false) = true ∧ l.copied < 128) := by
  refine ⟨?_, ?_, ?_, ?_⟩ <;> decide +kernel

theorem test_witness_gang_events :
    (let m := oneWordLaunch.record.set 7 (0x10 + 9 <<< 32); let l := oneWordLaunch;
      let s := start.onSelf (fun k => { k with frozen := true }); let p := { l with pre := some PreWhy.drain };
      let asked := { l with state := .waiting, record := m }; let prepared := { l with state := .prepared, gang := .placed, record := m, acks := [1] };
      l.pre = none ∧ start.launch 0 = some l ∧ p.pre = some .drain ∧ ({ l with state := .held } : Launch).state ≠ .started ∧
      (s.onSelf (fun k => { k with snap := some 4096 })).snapCore l = some (0, 4096) ∧ start.snapCore l = none ∧
      l.cores.all s.quiet = true ∧ s.barPending 0 = false ∧
      ({ l with state := .resuming } : Launch).turn = false ∧ l.resumed.toNat ≤ start.cyc.toNat ∧
      (start.setLaunch 0 { l with state := .saved }).gctl .pf0 0 0 = some (0, { l with state := .saved }) ∧
      start.gctl .pf0 0 0 = none ∧ asked.pending = true ∧ ({ l with state := .prepared, gang := .placed, acks := [0] } : Launch).gang = .placed ∧
      start.allAcks l = true ∧ start.cyc.toNat + commitTicks ≤ (0x100000 : W64).toNat ∧ asked.gid = 9 ∧ start.hasMaster prepared = true ∧
      l.gid ≠ 9 ∧
      (let v := { start with launches := [{ l with record := m }, asked] };
        v.ofGid 9 Launch.pending = [1] ∧ (prepFail 1 v).ofGid 9
          (fun l => l.occupies && decide (l.state ≠ .completing) && decide (l.gang ≠ .placed)) = [0] ∧ ((prepFail 1 v).launch 0).isSome = true) ∧
      (start.setLaunch 0 prepared).ofGid 9 (fun l => decide (l.state = .prepared ∧ l.gang = .placed ∧ l.acks ≠ []) && cycGe l.tlim start.cyc) = [0]) := by
  decide +kernel

theorem test_witness_saves :
    (let l := { oneWordLaunch with pre := some PreWhy.drain };
      let s := slotted (((mapped start).onSelf (fun k => { k with frozen := true })).setLaunch 0 l);
      s.snapCore l = none ∧ l.cores.all s.quiet = true ∧ s.barPending 0 = false ∧ fine (saveAll l s) = true) := by
  refine ⟨?_, ?_, ?_, ?_⟩ <;> decide +kernel

theorem test_witness_partition_table :
    (let s := mapped start; let x := s.part 0;
      let r := s.setPart 0 { x with requested := true };
      badPtWrite x .s2 0 = true ∧ badPtWrite x .ingb 0 = false ∧ isMask .ctl = false ∧ isMask .quad = true ∧
      ¬(PtReg.quad = .quad ∧ fld (0x80000000 : W64) 63 32 ≠ 0) ∧ (r.part 0).resizing = true ∧ x.resizing = false ∧
      start.boot = .running ∧ State.reset.boot ≠ .running ∧ r.cyc = (r.part 0).reqAt ∧ (r.part 0).joins .quad r.cyc = true ∧
      x.tinvDone = true ∧ ({ x with tinvDone := false } : Partition).tinvDone = false ∧
      start.blockOpen (.part 0) = false ∧ s.blockOpen (.part 0) = true) := by decide +kernel

/-- A walk that has begun, and one that nobody asked for. -/
theorem test_witness_walks :
    (let w : Walk := { part := 0, ctx := 0, va := 65536, begun := true, failed := false };
      let asks := fun (va : W64) (w : Walk) => w.begun && decide (w.part = 0 ∧ w.ctx = 0 ∧ w.va = va ∧ w.failed = false);
      let s := start.setDie 0 { start.die 0 with walks := [w] };
      (s.die 0).walks.find? (asks 65536) = some w ∧ (s.die 0).walks.find? (asks 0) = none) := by decide +kernel

theorem test_witness_host_events :
    start.pcieUp = true ∧ State.reset.pcieUp = false ∧ start.blockOpen (.part 0) = false ∧ (mapped start).blockOpen (.part 0) = true ∧
    regOf (.ptRel 31 .hbm) = .ptRel 31 .hbm ∧ regBlock (.fqovf (.part 0)) = some (.part 0) ∧ regBlock .modid = none ∧
    regOf (.bar0 (.part 0) 0x2110) = .tinv 0 ∧ regBlock (.bport 47) = none := by decide +kernel

theorem test_witness_partition_masks :
    (let one := Masks.ofReg .quad 0x80000000;
      (one.and (Masks.all.or Masks.none)).empty = false ∧ (one.and ((start.part 0).held.or (start.part 0).add)).empty = true ∧
      (one.minus start.freeRes).empty = false ∧ (one.minus Masks.none).empty = false ∧ (one.minus Masks.all).empty = true ∧
      one.empty = false) := by decide +kernel

theorem test_witness_scrub_gate :
    (let s := mapped start; let r : Resource := .sync 3 63; let z := { s with scrubbing := [r] };
      s.scrubbing.contains r = false ∧ z.scrubbing.contains r = true ∧ (scrub r 0 { z with scrubbing := [] }).releaser r = none) := by
  decide +kernel

theorem test_witness_gate_pending (s : State) (h : s.storageDue 0 = true) : gatePending (.sync 3 63) s = none ∧
    (gatePending (.quad 0) s).isSome = true := ⟨rfl, by simp [gatePending, h]⟩

theorem test_witness_storage_due : (mapped start).storageDue 0 = true := by decide +kernel

theorem test_witness_unbind : ({ mapped start with launches := [] } : State).bindTile 0 1023 = some 1023 ∧
    (mapped start).bindTile 0 7 = some 7 ∧ (mapped start).bindTile 0 8 = none := by decide +kernel

theorem test_witness_domain_events :
    (let s := { start with domLock := true }; let at_ := fun (p : PortState) => start.setPort 47 { start.port 47 with state := p };
      start.dom = .alone ∧ start.domLock = false ∧ s.domLock = true ∧ (∀ q ∈ s.parts.toList, q.en = false) ∧
      (∀ y ∈ s.ports.toList, y.state ≠ .up) ∧ ({ start with dom := .joining, joinRounds := 14 } : State).joinRounds + 1 < 16 ∧
      ((at_ .retraining).port 47).state = .retraining ∧ ((at_ .retraining).port 47).fails + 1 < 3 ∧ (48 : BitVec 6).toNat < 49) := by
  decide +kernel

theorem test_witness_module_events :
    (let worn := start.setPair 1087 { start.pair 1087 with worn := true }; let a : W64 := 0x8000005FFFFF;
      let due := start.setPair 0 { start.pair 0 with slots := [] };
      (start.pair 1087).insv = false ∧ (start.pair 0).insv = true ∧ (start.pair 0).worn = false ∧ (worn.pair 1087).worn = true ∧
      ({ start with mntEn := true, calPer := 1, cyc := 1 <<< 40 } : State).servable 0 false = true ∧
      patrolled 0 = true ∧ patrolled a.toNat = true ∧ patrolled syncBase = false ∧ start.mbox.busy = false ∧
      ({ start with mbox := { start.mbox with busy := true } } : State).mbox.busy = true ∧ State.reset.boot = .rom ∧
      start.boot = .running ∧ ({ start with boot := .joints } : State).boot = .joints ∧ ({ start with boot := .stacks } : State).boot = .stacks ∧
      due.servable 1087 false = false ∧ (errClass (.mem 0)).isSome = true ∧ errClass (.mem 0xFFFFFFFFFFFF) = none ∧
      [ErrAt.mem 0, .mem a].all (fun e => (errClass e).any (fun k => !neverMends k && !alwaysMends k)) = true ∧
      (errClass (.record 0 0)).any alwaysMends = true) := by decide +kernel

/-! ## Hypotheses that can be met: decoding, steps, operands and memory -/

theorem test_witness_decoding : (Instr.add h0 (some 1) s1 (.imm 7)).wf = true ∧
    decode (word 0x032 1 0x40 0x40 (im 7) 0 0) = .ok (.add h0 (some 1) s1 (.imm 7)) ∧ listed 0x01C = false ∧ listed 0x345 = true := by
  decide

theorem test_witness_step : issuing start = true ∧ (start.imageOf start.cur).isSome = true ∧ start.me.pc.toNat + 16 ≤ 16 * 1 ∧
    start.codeWord start.cur start.me.pc = some 0 ∧ (start.onMe (fun x => { x with pc := 16 })).codeWord 0 16 = none ∧
    start.codeErr start.cur start.me.pc = none ∧
    issuing (start.onMe (fun x => { x with pc := 16, entering := some 32 })) = true ∧
    (let d := start.die 0; let s := start.setDie 0 { d with images := d.images.map (fun x => { x with bad := [1] }) };
      issuing s = true ∧ (s.codeErr 0 0).isSome = true) := by decide +kernel

theorem test_witness_bad_fetches :
    (let w : W128 := word 0x034 1 0x40 0x1000 0 0 0; let s := State.reset.withFetchWord 128 w.toNat;
      issuing s = true ∧ s.codeWord 0 0 = some w ∧ s.codeErr 0 0 = none ∧ decode w = .error (.slot 1) ∧ s.holdsOff 0x034 = false ∧
      (s.onMe (fun x => { x with fences := [⟨1, 7, 0, some 0, .none⟩] })).holdsOff 0x200 = true) := by decide +kernel

theorem test_witness_due_events :
    ({ start with todo := [Ev.powerLoss] } : State).todo = [.powerLoss] ∧ start.powered = true ∧ start.todo = [] ∧
    start.stage = .issue ∧ State.reset.stage = .wake ∧
    (let s := start.onSelf (fun k => { k with running := false });
      s.clocked s.cur = true ∧ s.self.mute = false ∧ s.self.running = false) ∧
    (let s := { start with powered := false };
      (∀ e ∈ s.todo, e ≠ .moduleReset) ∧ (∀ e ∈ s.inputs, e.2 ≠ .moduleReset)) ∧
    Ev.moduleReset ∈ ({ start with powered := false, todo := [Ev.moduleReset] } : State).todo ∧
    (let s := { start with powered := false, flash := { start.flash with trip := true }, mbox := { start.mbox with busy := true }, todo := [Ev.mailboxDone] };
      s.flash.trip = true ∧ s.mbox.busy = true ∧ Ev.mailboxDone ∈ s.todo) := by decide +kernel

theorem test_witness_order :
    (let r := fun (i : Instr) => (encodeRaw i).getD ⟨0, 0, 0, 0, 0, 0, 0, 0, 0, 0, 0, 0, 0, 0, 0, 0, 0⟩;
      let nop := Instr.nop h0; let far := Instr.xstat h0 (.imm 31) s1; let off := Instr.nop { h0 with ga := 1 };
      let away : Instr := .vmov h0 .latch (v_ 1023);
      tileIllop far start.self = true ∧ tileIllop off start.self = false ∧ start.me.guard (rawHead (r off)) = false ∧
      start.me.guard (rawHead (r nop)) = true ∧
      (let s := start.onSelf (fun k => { k with cpyQ := List.replicate 16 (queued nop) });
        s.holdsOff 0x200 = true) ∧ start.holdsOff 0x200 = false ∧
      (start.onSelf (fun k => { k with inflight := List.replicate 128 ⟨.seq, .none, .s 0, 0, 0, 0, 0, 0, 0⟩ })).self.resultRoom 0x031 = false ∧
      start.self.resultRoom 0x200 = true ∧ privileged 0x340 = true ∧ start.self.priv = false ∧
      lendMissing away start.self = some (1, 1023)) := by decide +kernel

theorem test_witness_step_next : start.canonical ∧ ∃ t, step start = .next t := ⟨by rfl, _, rfl⟩

theorem test_witness_operands :
    (give 1 [16, 5] start).me.s.get 1 = [16, 5] ∧ start.me.s.get 63 = [] ∧
    ((giveV 255 [tagged .bf16] start).vFifo 0 255).map (fun e => e.tag) = [.bf16] ∧ start.vFifo 0 255 = [] ∧
    ready (.mov h0 none s1') h0 start = true ∧ (∀ l : VLoc, start.fileErr start.cur l = none) :=
  ⟨by decide, by decide, by decide, by decide, by decide, fun l => by
    cases l with
    | main n => exact (by decide +kernel : ∀ n pk, start.fileErr start.cur (.main n pk) = none) _ _
    | _ => rfl⟩

theorem test_witness_frame : (let s := scalars.onMe (fun x => { x with trapv := 0x100 }); let v := (vectors .int32 .int32 .int32).onMe (fun x => { x with trapv := 0x100 });
    let i := Instr.add h0 (some 1) s1 (.imm 1); let j := Instr.vmov h0 .latch (v_ 1);
    s.me.trapv ≠ 0 ∧ scalarWord i = true ∧ (encodeRaw i).isSome = true ∧ v.me.trapv ≠ 0 ∧ engineWord j = true ∧ (encodeRaw j).isSome = true ∧
    ready i h0 s = true ∧ ready j h0 v = true) := by decide

theorem test_witness_parts : (⟨tagged .fp32, true, .h0⟩ : Src).partOk = false ∧ (2 * 15 / 2 % 16 = 15 ∧ 2 * 15 < 3 * 65536) := by decide

theorem test_witness_results :
    (let r : Pend := { unit := .seq, dst := .s 63, val := .s 9, rem := 0, berth := 0, addr := 0, id := 0, flags := 0, tok := 0 };
      r.tok = 0 ∧ r.flags = 0 ∧ ((start.berth 0 0).s.get 63).length < 2 ∧ 2 ≤ (((give 63 [1, 2] start).berth 0 0).s.get 63).length ∧
      (start.berth 0 0).exited = false) ∧
    (let r : Pend := { unit := .vxe, dst := .v 255, val := .v VEntry.zero, rem := 0, berth := 0, addr := 0, id := 0, flags := 5, tok := 0 };
      r.tok = 0 ∧ (writeDst 0 0 r.dst r.val start).isSome = true) ∧
    (start.vFifo 0 255).length < 2 ∧ 2 ≤ ((giveV 255 [tagged .bf16, tagged .bf16] start).vFifo 0 255).length := by decide +kernel

/-- Captured operands: whole registers, an immediate, parts of other widths, and the entries of conversions and dot products. -/
theorem test_witness_lanes :
    (let q := { queued (.vadd h0 .latch (v_ 1) (.src (v_ 2)) 7 .rne false) with vops := [tagged .int32, tagged .int32] };
      let xs := rebuild [.src (v_ 1), .src (v_ 2), .imm 0] q.vops;
      q.ins = .vadd h0 .latch (v_ 1) (.src (v_ 2)) 7 .rne false ∧ (argAt xs 0).tag = .int32 ∧ (argAt xs 1).tag = .int32 ∧
      xs.head?.isSome = true) ∧
    (let q := { queued (.vmin h0 .latch (v_ 1) (.imm 0x3F80) 7) with vops := [tagged .bf16] };
      (argAt (rebuild [.src (v_ 1), .imm 0x3F80, .imm 0] q.vops) 0).tag = .bf16) ∧
    (argAt (rebuild [.src (v_ 1), .imm 1, .imm 0] [tagged .e4m3]) 0).tag ≠ .e2m1s ∧
    isInt (argAt (rebuild [.src (v_ 1), .imm 1, .imm 0] [tagged .uint8]) 0).tag = true ∧
    (∀ f ∈ [Fmt.int8, .e4m3], rebuild [.src (v_ 1), .src (v_ 2), .imm 1] [tagged f, tagged f] =
      [.src ⟨tagged f, false, .whole⟩, .src ⟨tagged f, false, .whole⟩, .imm 1]) :=
  ⟨⟨rfl, rfl, rfl, rfl⟩, rfl, by decide, rfl, fun _ _ => rfl⟩

theorem test_witness_codes : (0x3F80 : W32).toNat % 2 ^ lowPad .bf16 = 0 ∧ (decFloat .bf16 0x3F80).isNaN = false ∧
    (decFloat .bf16 0x3F80).isInf = false := by decide

theorem test_witness_escalation : (start.berth 0 0).trapv = 0 ∧ (start.core 0).launch = some 0 ∧ start.launch 0 = some oneWordLaunch := by
  decide

/-- A record of the LM map, based at 0. -/
def lmRec : Rec := (Vector.replicate 8 (0 : W64)).set 6 0x100

/-- The STE performs an 8-byte store at the end of the LM map. -/
def storing : State :=
  let q := { queued (.stsc h0 s1 (.imm 1) (.imm 0) .d) with vals := [0x3FFFF8, 9] }
  start.onSelf (fun k => { k with ste := some ⟨q, some lmRec, 0, none, false, .start, 0, 0, false, none, 0⟩ })

theorem test_witness_lm_store :
    (match (storing.core 0).ste with
      | some a => decide (a.fault = false ∧ a.shape = some lmRec ∧ a.busy ≤ 1)
          && decide ((recBase lmRec + stepOff (val0 a.q 0) a.q.step a.n).toNat + 8 ≤ 0x400000)
      | none => false) = true ∧ recLm lmRec = true ∧ (storing.core 0).lm.wf = true ∧
    256 ≤ (storing.quad (quadOf 0)).sluice.get 0 ∧ storing.lmBads 0 = [] ∧
    (storing.core 0).ste.map (fun a => storeBehind storing 0 .ste a) = some false := by decide +kernel

/-- The same entry with its place in the engine: its units are let in, and its transfer is planned and done. -/
theorem test_witness_transfers :
    (match (storing.core 0).ste with
      | some a =>
        let p := planOf a.q lmRec a.n a.src storing.cyc
        let l := letAllIn 0 ((unitPaths storing 0 a.q true p).drop a.paid) storing
        let done := fun (r : Option Reply) => match movePlan 0 .ste { a with paid := a.paid + l.1 } p true r (lmFound 0 true r l.2) with
          | .done .. => true
          | _ => false
        (planWalks 0 a true p storing).isNone && !(storing.core 0).loadStands && decide (l.1 = ((unitPaths storing 0 a.q true p).drop a.paid).length ∧ a.q.rep ≤ a.n) && done none && done (some .ok)
      | none => false) = true := by decide +kernel

theorem test_witness_memory : start.canonical ∧ (∀ (n : Nat) (d : List Byte), start.ownerData n = some d → d.length = 128) ∧
    (∀ o : CoreId, (start.core o).lm.wf = true) := by
  refine ⟨by rfl, ?_, by decide +kernel⟩
  intro n d h
  simp [State.ownerData, State.tline, show start.lines = [] from rfl] at h

end Sys2Proof.Tests
end

/-! The part selectors and the exchange of halves (03 R36). -/

namespace Sys2Proof.Proofs

open Sys2Proof Sys2Proof.Machine

/-! ## Lanes and parts -/

theorem swapHalves_eq_swapped (x : W32) : swapHalves x = swapped true x := by
  refine BitVec.eq_of_getLsbD_eq fun j hj => ?_
  rw [swapHalves, swapped, if_pos rfl, BitVec.getLsbD_or, BitVec.getLsbD_shiftLeft, BitVec.getLsbD_ushiftRight,
    BitVec.getLsbD_append, BitVec.getLsbD_extractLsb', BitVec.getLsbD_extractLsb']
  by_cases h : j < 16
  · simp [h]
  · have hx : x.getLsbD (16 + j) = false := BitVec.getLsbD_of_ge x _ (by omega)
    have hlow : j - 16 < 16 := by omega
    simp [h, hx, hj, hlow]

theorem lane_eq_swapped (x : Src) (l : Nat) : x.lane l = swapped x.swp (x.e.lanes.at l) := by
  cases hs : x.swp with
  | false => simp [Src.lane, swapped, hs]
  | true => simp [Src.lane, hs, swapHalves_eq_swapped]

theorem sub_getLsbD (x : W32) (lo j : Nat) {w : Nat} (hw : w ≤ 32) :
    (sub x lo w).getLsbD j = (decide (j < w) && x.getLsbD (lo + j)) := by
  rw [sub, BitVec.getLsbD_ofNat, Nat.testBit_mod_two_pow, Nat.testBit_div_two_pow, BitVec.testBit_toNat, Nat.add_comm j lo]
  by_cases h : j < w
  · simp [h, Nat.lt_of_lt_of_le h hw]
  · simp [h]

theorem partPlace_width_le (p : Part) : (partPlace p).1 ≤ 32 := by cases p <;> decide

theorem raw_getLsbD (x : Src) (l j : Nat) :
    (x.raw l).getLsbD j =
      (decide (j < (partPlace x.part).1) && (swapped x.swp (x.e.lanes.at l)).getLsbD ((partPlace x.part).2 + j)) := by
  rw [← lane_eq_swapped]
  exact sub_getLsbD _ _ j (partPlace_width_le x.part)

theorem raw_of_whole {x : Src} (hp : x.part = .whole) (l : Nat) : x.raw l = swapped x.swp (x.e.lanes.at l) := by
  refine BitVec.eq_of_getLsbD_eq fun j hj => ?_
  rw [raw_getLsbD, hp]
  simp [partPlace, hj]

theorem code_of_part {x : Src} (hp : x.part ≠ .whole) (l i : Nat) : x.code l i = x.raw l := by
  rw [Src.code]
  split
  next h => exact absurd h hp
  next => rfl

theorem partOk_of_whole {x : Src} (hp : x.part = .whole) : x.partOk = true := by simp [Src.partOk, hp]

theorem partOk_iff_of_part {x : Src} (hp : x.part ≠ .whole) :
    x.partOk = true ↔ (partPlace x.part).1 = width x.e.tag := by
  simp [Src.partOk, hp]

theorem partPlace_of_mem_partTable : ∀ x ∈ partTable, x.1 ≠ .whole ∧ partPlace x.1 = x.2 := by decide

/-! ## Words -/

/-- A part that does not fit is refused whatever tags the form accepts (03 R36). -/
theorem fits_of_bad_part {x : Src} (hp : x.partOk = false) (ok : Fmt → Bool) : (VArg.src x).fits ok = false := by
  simp [VArg.fits, hp]

theorem tagCheck_of_bad_head {x : VArg} {ok : Fmt → Bool} (hx : x.fits ok = false) (slot : Nat) (oks : List (Fmt → Bool))
    (r : List VArg) (s : State) :
    tagCheck slot (ok :: oks) (x :: r) s = .error (.trap .tagx slot (tagTval (tagsTval slot (x :: r)))) := by
  simp [tagCheck, firstBad, hx, tagTrap, raise]

theorem readVIs_of_readV {slot : Nat} {loc : VLoc} {p : Part} {sw : Bool} {e : VEntry} {s t : State}
    (hv : Reads (readV slot ⟨loc, p, sw⟩) s e t) : Reads (readVIs slot [.src ⟨loc, p, sw⟩]) s [.src ⟨e, sw, p⟩] t :=
  have hsrc : Reads (readVI slot (.src ⟨loc, p, sw⟩)) s (.src ⟨e, sw, p⟩) t := reads_bind (reads_bind hv rfl) rfl
  reads_bind hsrc rfl

/-! ## The decoder's slots -/

theorem pV_of_part_unassigned {k : Fin 5} {x : Nat} (hx : x / 2 % 16 = 15) : pV k x = .error (.slot k) := by
  have hp : Part.ofCode (x / 2 % 16) = none := by rw [hx]; rfl
  rw [pV, hp]
  cases vloc x <;> rfl

theorem pS_of_part_or_swap {k : Fin 5} {x : Nat} (hx : x % 32 ≠ 0) : pS k x = .error (.slot k) := by
  have hls : x ≠ 2 * 65536 + 2 * 64 := by omega
  rw [pS, if_neg fun h => hx h.1, if_neg hls]
  rfl

/-- Settles O51: a raw read is the selected bits of the lane after the exchange, the part's width decides whether it fits, the
first refused operand raises TAGX, and the decoder refuses PART 15 and a scalar slot whose low five bits are not zero. -/
theorem partsAndSwap : Obligations.PartsAndSwap := by
  intro e sw l i
  refine ⟨⟨raw_of_whole rfl l, partOk_of_whole rfl⟩, fun x hx => ?_, fun ok slot p r s hp => ?_,
    fun i h loc p s t hr hv => vraw_next hr (readVIs_of_readV hv),
    fun k x _ => ⟨pV_of_part_unassigned, pS_of_part_or_swap⟩⟩
  · obtain ⟨hpart, hplace⟩ := partPlace_of_mem_partTable x hx
    rw [← hplace]
    exact ⟨raw_getLsbD ⟨e, sw, x.1⟩ l, code_of_part hpart l i, partOk_iff_of_part hpart⟩
  · exact tagCheck_of_bad_head (fits_of_bad_part hp _) slot _ r s

end Sys2Proof.Proofs

/-! TRAP, the entry to a trap, and RTT (07 R116). -/

namespace Sys2Proof.Proofs

open Sys2Proof Sys2Proof.Machine

/-! ## Reading back a berth -/

/-- A core with the berths that `setBerth` leaves, whatever else of it changes, reads back what was set. -/
theorem berth_of_berths_setBerth {k j : Core} {b : BerthId} {x : Berth} (hj : j.berths = (k.setBerth b x).berths) :
    j.berth b = x := by
  rw [Core.berth, hj]
  exact Core.berth_setBerth k b x

/-! ## Code addresses: bits [63:4], times 16 -/

theorem codeAddr_toNat (v : W64) : (codeAddr v).toNat = v.toNat / 16 * 16 := by
  have hmask : codeAddr v = v >>> 4 <<< 4 := by
    refine BitVec.eq_of_getLsbD_eq fun j hj => ?_
    have hbits : ∀ i < 64, (~~~(0xF : W64)).getLsbD i = decide (4 ≤ i) := by decide
    rw [codeAddr, BitVec.getLsbD_and, BitVec.getLsbD_shiftLeft, BitVec.getLsbD_ushiftRight, hbits j hj]
    by_cases h4 : 4 ≤ j
    · simp [h4, hj]
    · simp [h4]
  have hv := v.isLt
  rw [hmask, BitVec.toNat_shiftLeft, BitVec.toNat_ushiftRight, Nat.shiftLeft_eq, Nat.shiftRight_eq_div_pow]
  omega

theorem fld_63_4_eq_div (v : W64) : fld v 63 4 = v.toNat / 16 := by
  have hv := v.isLt
  rw [fld, Nat.shiftRight_eq_div_pow]
  omega

theorem fld_codeAddr (v : W64) : fld (codeAddr v) 63 4 = fld v 63 4 := by
  rw [fld_63_4_eq_div, fld_63_4_eq_div, codeAddr_toNat]
  omega

theorem codeAddr_eq_fld (v : W64) : codeAddr v = BitVec.ofNat 64 (fld v 63 4 * 16) := by
  have hv := v.isLt
  refine BitVec.eq_of_toNat_eq ?_
  rw [codeAddr_toNat, fld_63_4_eq_div, BitVec.toNat_ofNat]
  omega

theorem me_writeSys_trapv (v : W64) (s : State) :
    (s.onSelf (writeSys .trapv v)).me = { s.me with trapv := codeAddr v } := by
  simp [State.me, onSelf_self, writeSys]

/-! ## The entry to a trap -/

/-- What taking a trap makes of its berth when TRAPV is not 0, whatever TCAUSE, TVAL and EPC held. -/
theorem berth_takeTrap {c : CoreId} {b : BerthId} {s : State} (hv : (s.berth c b).trapv ≠ 0) (kind : Code) (slot : Nat)
    (tval epc word : W64) :
    (takeTrap c b kind slot tval epc word s).berth c b =
      { s.berth c b with
        tcode := kind.num, tslot := BitVec.ofNat 3 slot, tval := tval, epc := epc &&& ~~~0xF, wait := .none, stall := 0,
        handlers := (s.berth c b).nest, pc := (s.berth c b).trapv, setter := word, entering := some word } := by
  have hcount : (if kind = .pmiss then bump (hPmiss (quadOf c)) 1 s else s).berth c b = s.berth c b := by
    split <;> rfl
  simp only [takeTrap, State.berth_updBerth, hcount, if_neg hv]
  rw [State.berth, State.core_updCore]
  refine (berth_of_berths_setBerth (k := State.core (State.updBerth _ c b _) c) rfl).trans ?_
  rw [← State.berth, State.berth_updBerth, hcount]

theorem trap_next {h : Head} {code : W16} {s : State} (hr : ready (.trap h code) h s = true) :
    exec (.trap h code) s = .next (s.trapHere .trap 7 (code.zeroExtend 64) (s.me.pc + 16)) := by
  rw [exec_trap, execTrap, issue_ready hr]
  rfl

/-! ## RTT -/

theorem scheduled_me (h : Head) (s : State) :
    (scheduled h s).me = { s.me with pc := s.me.pc + 16, setter := s.me.pc, stall := h.stall.val, entering := none } := by
  rw [State.me, scheduled_self_cur, scheduled, State.self_updCore]
  exact berth_of_berths_setBerth (k := s.self) rfl

@[simp] theorem scheduled_epc (h : Head) (s : State) : (scheduled h s).me.epc = s.me.epc := by rw [scheduled_me]
@[simp] theorem scheduled_held (h : Head) (s : State) : (scheduled h s).me.held = s.me.held := by rw [scheduled_me]
@[simp] theorem scheduled_handlers (h : Head) (s : State) : (scheduled h s).me.handlers = s.me.handlers := by
  rw [scheduled_me]
@[simp] theorem scheduled_inflight (h : Head) (s : State) : (scheduled h s).self.inflight = s.self.inflight := by
  simp [scheduled]

theorem rtt_next {h : Head} {s : State} (hr : ready (.rtt h) h s = true) :
    exec (.rtt h) s = .next (returnTrap s.cur s.self.cur s.me.pc (scheduled h s)) := by
  rw [exec_rtt, execRtt]
  refine issue_next hr ?_
  rw [modify_run, State.wordAddr, scheduled_me, scheduled_cur, scheduled_self_cur]

theorem me_returnTrap (w : W64) (u : State) :
    (returnTrap u.cur u.self.cur w u).me = { u.me.returned with pc := u.me.epc, setter := w } := by
  rw [State.me, returnTrap, State.self_updCore]
  exact berth_of_berths_setBerth (k := u.self) rfl

theorem inflight_returnTrap (w : W64) (u : State) :
    (returnTrap u.cur u.self.cur w u).self.inflight =
      startOrder (u.me.freed.map (fun r => { r with rem := r.rem + 1 }) ++ u.self.inflight) := by
  rw [returnTrap, State.self_updCore]
  rfl

theorem returned_of_ovf {x : Berth} {n : Nat} {r : List Handler} (hx : x.handlers = .ovf n :: r) :
    x.returned.handlers = r ∧ x.returned.held = x.held.take n ∧ x.freed = x.held.drop n := by
  simp [Berth.returned, Berth.freed, hx]

theorem returned_of_not_ovf {x : Berth} {y : Handler} {r : List Handler} (hx : x.handlers = y :: r)
    (hy : ∀ n, y ≠ .ovf n) : x.returned.handlers = r ∧ x.returned.held = x.held := by
  cases y with
  | other => simp [Berth.returned, hx]
  | unit u => simp [Berth.returned, Berth.release, hx]
  | ovf n => exact absurd rfl (hy n)

theorem me_rtt (h : Head) (w : W64) (s : State) :
    (returnTrap s.cur s.self.cur w (scheduled h s)).me =
      { (scheduled h s).me.returned with pc := s.me.epc, setter := w } := by
  simpa using me_returnTrap w (scheduled h s)

theorem rtt_of_ovf {h : Head} {w : W64} {s : State} {n : Nat} {r : List Handler} (hx : s.me.handlers = .ovf n :: r) :
    let t := returnTrap s.cur s.self.cur w (scheduled h s)
    t.me.handlers = r ∧ t.me.held = s.me.held.take n ∧
    t.self.inflight = startOrder ((s.me.held.drop n).map (fun r => { r with rem := r.rem + 1 }) ++ s.self.inflight) := by
  rw [← scheduled_handlers h] at hx
  obtain ⟨hrest, hkept, hfreed⟩ := returned_of_ovf hx
  have hflight := inflight_returnTrap w (scheduled h s)
  rw [scheduled_held] at hkept hfreed
  rw [scheduled_cur, scheduled_self_cur, scheduled_inflight, hfreed] at hflight
  dsimp only
  rw [me_rtt, hflight]
  exact ⟨hrest, hkept, rfl⟩

theorem rtt_of_not_ovf {h : Head} {w : W64} {s : State} {y : Handler} {r : List Handler} (hx : s.me.handlers = y :: r)
    (hy : ∀ n, y ≠ .ovf n) :
    let t := returnTrap s.cur s.self.cur w (scheduled h s)
    t.me.handlers = r ∧ t.me.held = s.me.held := by
  rw [← scheduled_handlers h] at hx
  obtain ⟨hrest, hkept⟩ := returned_of_not_ovf hx hy
  dsimp only
  rw [me_rtt]
  exact ⟨hrest, hkept.trans (scheduled_held h s)⟩

/-- Settles O7: a ready TRAP takes its trap, the entry to any trap overwrites TCAUSE, TVAL and EPC and goes to TRAPV, and what
an RTT lets go is decided by the innermost handler. -/
theorem trapWordsCompleteAsStated : Obligations.TrapWordsCompleteAsStated := by
  intro h code s
  refine ⟨trap_next, fun kind slot tval epc word hv hslot => ?_, fun v => ⟨?_, ?_⟩, fun hr => ?_⟩
  · have hentry := berth_takeTrap hv kind slot tval epc word
    dsimp only
    rw [hentry]
    exact ⟨rfl, Nat.mod_eq_of_lt hslot, rfl, rfl, rfl, rfl⟩
  · change fld (s.onSelf (writeSys .trapv v)).me.trapv 63 4 = fld v 63 4
    rw [me_writeSys_trapv]
    exact fld_codeAddr v
  · rw [me_writeSys_trapv]
    exact codeAddr_eq_fld v
  · exact ⟨_, rtt_next hr, by rw [me_rtt], rfl, fun n r => rtt_of_ovf, fun r hx => rtt_of_not_ovf hx nofun,
      fun u r hx => rtt_of_not_ovf hx nofun⟩

end Sys2Proof.Proofs

/-! Encoding and decoding (06 R79 to R88): the round trip of every constructor gives the round trip of a word. -/

namespace Sys2Proof.Proofs
open Sys2Proof Sys2Proof.Machine Sys2Proof.Laws

/-- The round trip on the fields of a word holds for every constructor. -/
theorem roundTrip (i : Instr) : RoundTrip.Statement i := by
  cases i with
  | nop => exact RoundTrip.nop _
  | br => exact RoundTrip.br _ _
  | brc => exact RoundTrip.brc _ _ _ _ _
  | bri => exact RoundTrip.bri _ _
  | call => exact RoundTrip.call _ _ _
  | ret => exact RoundTrip.ret _ _
  | loop => exact RoundTrip.loop _ _ _ _
  | wait => exact RoundTrip.wait _
  | yield => exact RoundTrip.yield _
  | exit => exact RoundTrip.exit _
  | beat => exact RoundTrip.beat _
  | phase => exact RoundTrip.phase _ _
  | lock => exact RoundTrip.lock _
  | bara => exact RoundTrip.bara _ _ _ _
  | barw => exact RoundTrip.barw _ _ _
  | baraw => exact RoundTrip.baraw _ _ _
  | tokin => exact RoundTrip.tokin _ _ _
  | tokout => exact RoundTrip.tokout _ _ _ _
  | stamp => exact RoundTrip.stamp _ _ _
  | tsr => exact RoundTrip.tsr _ _ _
  | sleepc => exact RoundTrip.sleepc _ _
  | sleepp => exact RoundTrip.sleepp _ _ _
  | waitp => exact RoundTrip.waitp _ _ _
  | trap => exact RoundTrip.trap _ _
  | rtt => exact RoundTrip.rtt _
  | mfs => exact RoundTrip.mfs _ _ _
  | mts => exact RoundTrip.mts _ _ _
  | loc => exact RoundTrip.loc _ _ _ _
  | fence => exact RoundTrip.fence _ _ _ _
  | fsc => exact RoundTrip.fsc _ _
  | mark => exact RoundTrip.mark _
  | tfence => exact RoundTrip.tfence _ _
  | rcfence => exact RoundTrip.rcfence _ _
  | icfence => exact RoundTrip.icfence _
  | li => exact RoundTrip.li _ _ _
  | mov => exact RoundTrip.mov _ _ _
  | add => exact RoundTrip.add _ _ _ _
  | sub => exact RoundTrip.sub _ _ _ _
  | mul => exact RoundTrip.mul _ _ _ _
  | mulh => exact RoundTrip.mulh _ _ _ _
  | mulhu => exact RoundTrip.mulhu _ _ _ _
  | div => exact RoundTrip.div _ _ _ _
  | divu => exact RoundTrip.divu _ _ _ _
  | rem => exact RoundTrip.rem _ _ _ _
  | remu => exact RoundTrip.remu _ _ _ _
  | and => exact RoundTrip.and _ _ _ _
  | or => exact RoundTrip.or _ _ _ _
  | xor => exact RoundTrip.xor _ _ _ _
  | andn => exact RoundTrip.andn _ _ _ _
  | shl => exact RoundTrip.shl _ _ _ _
  | shr => exact RoundTrip.shr _ _ _ _
  | sar => exact RoundTrip.sar _ _ _ _
  | rol => exact RoundTrip.rol _ _ _ _
  | clz => exact RoundTrip.clz _ _ _
  | ctz => exact RoundTrip.ctz _ _ _
  | popc => exact RoundTrip.popc _ _ _
  | abs => exact RoundTrip.abs _ _ _
  | min => exact RoundTrip.min _ _ _ _
  | max => exact RoundTrip.max _ _ _ _
  | minu => exact RoundTrip.minu _ _ _ _
  | maxu => exact RoundTrip.maxu _ _ _ _
  | sel => exact RoundTrip.sel _ _ _ _ _
  | cmp => exact RoundTrip.cmp _ _ _ _ _
  | sext => exact RoundTrip.sext _ _ _ _
  | zext => exact RoundTrip.zext _ _ _ _
  | aidx => exact RoundTrip.aidx _ _ _ _ _
  | bfx => exact RoundTrip.bfx _ _ _ _ _
  | bfi => exact RoundTrip.bfi _ _ _ _ _ _
  | pand => exact RoundTrip.pand _ _ _ _
  | por => exact RoundTrip.por _ _ _ _
  | pxor => exact RoundTrip.pxor _ _ _ _
  | pnot => exact RoundTrip.pnot _ _ _
  | pmov => exact RoundTrip.pmov _ _ _
  | fcnt => exact RoundTrip.fcnt _ _ _
  | fdrop => exact RoundTrip.fdrop _ _
  | fclr => exact RoundTrip.fclr _ _
  | vadd => exact RoundTrip.vadd _ _ _ _ _ _ _
  | vsub => exact RoundTrip.vsub _ _ _ _ _ _ _
  | vmul => exact RoundTrip.vmul _ _ _ _ _ _ _
  | vfma => exact RoundTrip.vfma _ _ _ _ _
  | vfms => exact RoundTrip.vfms _ _ _ _ _
  | vnfma => exact RoundTrip.vnfma _ _ _ _ _
  | vmin => exact RoundTrip.vmin _ _ _ _ _
  | vmax => exact RoundTrip.vmax _ _ _ _ _
  | vabs => exact RoundTrip.vabs _ _ _ _
  | vneg => exact RoundTrip.vneg _ _ _ _
  | vclamp => exact RoundTrip.vclamp _ _ _ _ _
  | vcmp => exact RoundTrip.vcmp _ _ _ _ _ _
  | vsel => exact RoundTrip.vsel _ _ _ _ _
  | vand => exact RoundTrip.vand _ _ _ _ _
  | vor => exact RoundTrip.vor _ _ _ _ _
  | vxor => exact RoundTrip.vxor _ _ _ _ _
  | vnot => exact RoundTrip.vnot _ _ _ _
  | vshl => exact RoundTrip.vshl _ _ _ _ _
  | vshr => exact RoundTrip.vshr _ _ _ _ _
  | vsar => exact RoundTrip.vsar _ _ _ _ _
  | vmulh => exact RoundTrip.vmulh _ _ _ _ _
  | vclz => exact RoundTrip.vclz _ _ _ _
  | vpopc => exact RoundTrip.vpopc _ _ _ _
  | vcvt => exact RoundTrip.vcvt _ _ _ _ _ _ _
  | vtag => exact RoundTrip.vtag _ _ _ _ _
  | vround => exact RoundTrip.vround _ _ _ _ _
  | vpack => exact RoundTrip.vpack _ _ _ _ _ _ _
  | vunpkl => exact RoundTrip.vunpkl _ _ _ _ _
  | vunpkh => exact RoundTrip.vunpkh _ _ _ _ _
  | vblks => exact RoundTrip.vblks _ _ _ _ _ _ _
  | vblkg => exact RoundTrip.vblkg _ _ _ _ _ _ _
  | vacc12 => exact RoundTrip.vacc12 _ _ _ _ _ _
  | vdot2 => exact RoundTrip.vdot2 _ _ _ _ _
  | vdot4 => exact RoundTrip.vdot4 _ _ _ _ _
  | vdot8 => exact RoundTrip.vdot8 _ _ _ _ _
  | vrotr => exact RoundTrip.vrotr _ _ _ _ _
  | vrotc => exact RoundTrip.vrotc _ _ _ _ _
  | vbcr => exact RoundTrip.vbcr _ _ _ _ _
  | vbcc => exact RoundTrip.vbcc _ _ _ _ _
  | vredr => exact RoundTrip.vredr _ _ _ _ _ _
  | vredc => exact RoundTrip.vredc _ _ _ _ _ _
  | vscanr => exact RoundTrip.vscanr _ _ _ _ _ _
  | vscanc => exact RoundTrip.vscanc _ _ _ _ _ _
  | vshfr => exact RoundTrip.vshfr _ _ _ _ _
  | vtrb => exact RoundTrip.vtrb _ _ _ _
  | viota => exact RoundTrip.viota _ _ _ _ _ _
  | vmov => exact RoundTrip.vmov _ _ _
  | vsplat => exact RoundTrip.vsplat _ _ _ _ _
  | vext => exact RoundTrip.vext _ _ _ _ _
  | vins => exact RoundTrip.vins _ _ _ _ _
  | vrng => exact RoundTrip.vrng _ _ _ _ _ _
  | vdrop => exact RoundTrip.vdrop _ _ _ _ _ _
  | mand => exact RoundTrip.mand _ _ _ _
  | mor => exact RoundTrip.mor _ _ _ _
  | mxor => exact RoundTrip.mxor _ _ _ _
  | mnot => exact RoundTrip.mnot _ _ _
  | mcnt => exact RoundTrip.mcnt _ _ _
  | mfirst => exact RoundTrip.mfirst _ _ _
  | ldv => exact RoundTrip.ldv _ _ _ _ _
  | stv => exact RoundTrip.stv _ _ _ _ _
  | ldvt => exact RoundTrip.ldvt _ _ _ _ _
  | ldvg => exact RoundTrip.ldvg _ _ _ _ _
  | stvs => exact RoundTrip.stvs _ _ _ _ _
  | ldsc => exact RoundTrip.ldsc _ _ _ _ _ _ _
  | stsc => exact RoundTrip.stsc _ _ _ _ _
  | lda => exact RoundTrip.lda _ _ _ _ _ _
  | stl => exact RoundTrip.stl _ _ _ _ _ _
  | ldm => exact RoundTrip.ldm _ _ _ _ _
  | stm => exact RoundTrip.stm _ _ _ _ _
  | amo => exact RoundTrip.amo _ _ _ _ _ _ _ _ _
  | famo => exact RoundTrip.famo _ _ _ _ _ _ _ _ _
  | amor => exact RoundTrip.amor _ _ _ _ _ _ _ _
  | red => exact RoundTrip.red _ _ _ _ _
  | updr => exact RoundTrip.updr _ _ _ _ _
  | boarm => exact RoundTrip.boarm _ _ _
  | boclr => exact RoundTrip.boclr _ _
  | bord => exact RoundTrip.bord _ _ _ _
  | cpy => exact RoundTrip.cpy _ _ _ _ _
  | cpym => exact RoundTrip.cpym _ _ _ _ _
  | cpyr => exact RoundTrip.cpyr _ _ _ _ _
  | cpyd => exact RoundTrip.cpyd _ _ _ _ _
  | mlr => exact RoundTrip.mlr _ _ _ _ _
  | mst => exact RoundTrip.mst _ _ _ _ _
  | rls => exact RoundTrip.rls _ _ _ _
  | acqw => exact RoundTrip.acqw _ _ _ _
  | agset => exact RoundTrip.agset _ _ _ _
  | xfwd => exact RoundTrip.xfwd _ _ _ _ _
  | xfwdb => exact RoundTrip.xfwdb _ _ _ _
  | xbwd => exact RoundTrip.xbwd _ _ _ _ _
  | xupd => exact RoundTrip.xupd _ _ _ _ _
  | xxfr => exact RoundTrip.xxfr _ _ _
  | xtopk => exact RoundTrip.xtopk _ _ _ _
  | xdist => exact RoundTrip.xdist _ _ _ _
  | xsym => exact RoundTrip.xsym _ _ _
  | xckr => exact RoundTrip.xckr _ _ _
  | xprg => exact RoundTrip.xprg _ _ _
  | xscrb => exact RoundTrip.xscrb _ _ _
  | xcal => exact RoundTrip.xcal _ _ _
  | xnorm => exact RoundTrip.xnorm _ _ _
  | xwset => exact RoundTrip.xwset _ _ _
  | xgset => exact RoundTrip.xgset _ _ _
  | xfenceDrain => exact RoundTrip.xfenceDrain _ _ _ _
  | xfenceHold => exact RoundTrip.xfenceHold _ _ _ _
  | xfenceRel => exact RoundTrip.xfenceRel _ _ _ _
  | xstat => exact RoundTrip.xstat _ _ _
  | fexp => exact RoundTrip.fexp _ _ _ _ _
  | fexp2 => exact RoundTrip.fexp2 _ _ _ _ _
  | flog => exact RoundTrip.flog _ _ _ _ _
  | flog2 => exact RoundTrip.flog2 _ _ _ _ _
  | frcp => exact RoundTrip.frcp _ _ _ _ _
  | frsq => exact RoundTrip.frsq _ _ _ _ _
  | fsqrt => exact RoundTrip.fsqrt _ _ _ _ _
  | ftanh => exact RoundTrip.ftanh _ _ _ _ _
  | fsig => exact RoundTrip.fsig _ _ _ _ _
  | fgelu => exact RoundTrip.fgelu _ _ _ _ _
  | fsilu => exact RoundTrip.fsilu _ _ _ _ _
  | fsin => exact RoundTrip.fsin _ _ _ _ _
  | fcos => exact RoundTrip.fcos _ _ _ _ _
  | ferf => exact RoundTrip.ferf _ _ _ _ _
  | fsmax => exact RoundTrip.fsmax _ _ _ _ _
  | halt => exact RoundTrip.halt _
  | snap => exact RoundTrip.snap _ _
  | rstr => exact RoundTrip.rstr _ _
  | mtsp => exact RoundTrip.mtsp _ _ _
  | mfsp => exact RoundTrip.mfsp _ _ _
  | idle => exact RoundTrip.idle _
  | stallExpiry => exact RoundTrip.stallExpiry _ _
  | berthSwitch => exact RoundTrip.berthSwitch _
  | waitWake => exact RoundTrip.waitWake _ _
  | sleepcWake => exact RoundTrip.sleepcWake _ _
  | sleeppWake => exact RoundTrip.sleeppWake _ _
  | waitpWake => exact RoundTrip.waitpWake _ _
  | barrierWake => exact RoundTrip.barrierWake _ _
  | barrierWaitTimeout => exact RoundTrip.barrierWaitTimeout _ _
  | tokinWake => exact RoundTrip.tokinWake _ _
  | tokoutWake => exact RoundTrip.tokoutWake _ _
  | tokenInboxRoom => exact RoundTrip.tokenInboxRoom _
  | idleWake => exact RoundTrip.idleWake _
  | droopAlarm => exact RoundTrip.droopAlarm _
  | stretchEnd => exact RoundTrip.stretchEnd _
  | halfRateWindowEnd => exact RoundTrip.halfRateWindowEnd _
  | resultWriteback => exact RoundTrip.resultWriteback _
  | enginePushResume => exact RoundTrip.enginePushResume _
  | vxeEntryStart => exact RoundTrip.vxeEntryStart _
  | ldeEntryStart => exact RoundTrip.ldeEntryStart _
  | steEntryStart => exact RoundTrip.steEntryStart _
  | memoryTransferPerformed => exact RoundTrip.memoryTransferPerformed _ _ _
  | engineEntryComplete => exact RoundTrip.engineEntryComplete _
  | deferredTrapTaken => exact RoundTrip.deferredTrapTaken _ _
  | copyAccept => exact RoundTrip.copyAccept _ _
  | copyUnitPerformed => exact RoundTrip.copyUnitPerformed _ _ _
  | objectCount => exact RoundTrip.objectCount _
  | bargeSend => exact RoundTrip.bargeSend _ _
  | operandLatched => exact RoundTrip.operandLatched _
  | gateFlipSeen => exact RoundTrip.gateFlipSeen _
  | bargeIssue => exact RoundTrip.bargeIssue _
  | stampWindowExpiry => exact RoundTrip.stampWindowExpiry _
  | arrCeilingAdmit => exact RoundTrip.arrCeilingAdmit _
  | arrayCommandComplete => exact RoundTrip.arrayCommandComplete _ _
  | sfBargeStart => exact RoundTrip.sfBargeStart
  | sfTransferComplete => exact RoundTrip.sfTransferComplete _ _
  | dieJointFailure => exact RoundTrip.dieJointFailure _
  | lockArrivalCount => exact RoundTrip.lockArrivalCount _
  | lockReportReceived => exact RoundTrip.lockReportReceived _ _ _
  | trelReceived => exact RoundTrip.trelReceived _ _ _
  | lockRelease => exact RoundTrip.lockRelease _
  | barrierReleaseMessage => exact RoundTrip.barrierReleaseMessage _ _ _
  | estimatorWindow => exact RoundTrip.estimatorWindow _
  | intervalBoundary => exact RoundTrip.intervalBoundary
  | thermalCeiling => exact RoundTrip.thermalCeiling _
  | vecStepChange => exact RoundTrip.vecStepChange _
  | clockStopEnd => exact RoundTrip.clockStopEnd
  | thermalTrip => exact RoundTrip.thermalTrip _
  | quadPowerGate => exact RoundTrip.quadPowerGate _
  | wakeRequest => exact RoundTrip.wakeRequest _
  | wakeHoldExpiry => exact RoundTrip.wakeHoldExpiry _
  | inrushAdmit => exact RoundTrip.inrushAdmit _
  | railsStable => exact RoundTrip.railsStable _
  | transientRequest => exact RoundTrip.transientRequest _ _ _
  | tokenMessageReceived => exact RoundTrip.tokenMessageReceived _
  | requestResendTimeout => exact RoundTrip.requestResendTimeout _ _
  | persistentActivation => exact RoundTrip.persistentActivation _ _ _ _
  | persistentDeactivation => exact RoundTrip.persistentDeactivation _ _ _
  | lineEviction => exact RoundTrip.lineEviction _ _
  | rlsMessageReceived => exact RoundTrip.rlsMessageReceived _ _ _ _ _ _ _
  | rlsAckReceived => exact RoundTrip.rlsAckReceived _ _ _ _
  | fabricWriteReceived => exact RoundTrip.fabricWriteReceived _ _ _ _ _ _ _ _ _
  | fabricResend => exact RoundTrip.fabricResend _ _ _
  | agsetInstall => exact RoundTrip.agsetInstall _
  | qtailWrite => exact RoundTrip.qtailWrite _ _ _
  | slotRead => exact RoundTrip.slotRead _ _
  | dependenceTest => exact RoundTrip.dependenceTest _
  | turnGrant => exact RoundTrip.turnGrant _
  | placement => exact RoundTrip.placement _
  | copyLaunch => exact RoundTrip.copyLaunch _
  | loadingComplete => exact RoundTrip.loadingComplete _
  | startingLockRelease => exact RoundTrip.startingLockRelease _
  | completionWrite => exact RoundTrip.completionWrite _
  | watchdogTest => exact RoundTrip.watchdogTest
  | preemptionRequest => exact RoundTrip.preemptionRequest _
  | imageWritten => exact RoundTrip.imageWritten _
  | gangResume => exact RoundTrip.gangResume _
  | gctlResume => exact RoundTrip.gctlResume _ _ _
  | gctlDiscard => exact RoundTrip.gctlDiscard _ _ _
  | prepare => exact RoundTrip.prepare _ _ _ _ _
  | prepareReply => exact RoundTrip.prepareReply _ _ _
  | commit => exact RoundTrip.commit _ _
  | abort => exact RoundTrip.abort _
  | tlimExpiry => exact RoundTrip.tlimExpiry _
  | gangBarrierTimeout => exact RoundTrip.gangBarrierTimeout _
  | partitionTableWrite => exact RoundTrip.partitionTableWrite _ _ _
  | addTwinWrite => exact RoundTrip.addTwinWrite _ _ _
  | relTwinWrite => exact RoundTrip.relTwinWrite _ _ _ _
  | rszackWrite => exact RoundTrip.rszackWrite _ _
  | resizeDeadline => exact RoundTrip.resizeDeadline _
  | scrubGateDone => exact RoundTrip.scrubGateDone _ _
  | tinvWrite => exact RoundTrip.tinvWrite _ _
  | tinvComplete => exact RoundTrip.tinvComplete _
  | pageWalkComplete => exact RoundTrip.pageWalkComplete _ _ _ _
  | bindUnbind => exact RoundTrip.bindUnbind _ _
  | flr => exact RoundTrip.flr _
  | flrReady => exact RoundTrip.flrReady _
  | hostWindowRead => exact RoundTrip.hostWindowRead _ _ _
  | hostWindowWrite => exact RoundTrip.hostWindowWrite _ _ _
  | hostCompletion => exact RoundTrip.hostCompletion _ _ _
  | domainJoin => exact RoundTrip.domainJoin
  | domainLeave => exact RoundTrip.domainLeave
  | offsetMeasure => exact RoundTrip.offsetMeasure _
  | pllLockLoss => exact RoundTrip.pllLockLoss
  | bportEnableWrite => exact RoundTrip.bportEnableWrite _ _
  | linkTrained => exact RoundTrip.linkTrained _ _
  | trainingTimeout => exact RoundTrip.trainingTimeout _
  | linkError => exact RoundTrip.linkError _
  | retrainResult => exact RoundTrip.retrainResult _ _
  | downRetry => exact RoundTrip.downRetry _
  | flitReplay => exact RoundTrip.flitReplay _
  | portStateFlit => exact RoundTrip.portStateFlit _ _
  | maintenanceDue => exact RoundTrip.maintenanceDue _ _
  | wornSet => exact RoundTrip.wornSet _
  | healthRecordAppend => exact RoundTrip.healthRecordAppend
  | patrolScrub => exact RoundTrip.patrolScrub _ _
  | readhealth => exact RoundTrip.readhealth
  | readtotals => exact RoundTrip.readtotals
  | readcert => exact RoundTrip.readcert
  | quote => exact RoundTrip.quote
  | signman => exact RoundTrip.signman
  | install => exact RoundTrip.install
  | remap => exact RoundTrip.remap
  | loadfw => exact RoundTrip.loadfw
  | mailboxBadOp => exact RoundTrip.mailboxBadOp _
  | mailboxDone => exact RoundTrip.mailboxDone
  | moduleReset => exact RoundTrip.moduleReset
  | bootVerify => exact RoundTrip.bootVerify
  | perstRelease => exact RoundTrip.perstRelease
  | powerLoss => exact RoundTrip.powerLoss
  | registerWrite => exact RoundTrip.registerWrite _ _
  | rcRegisterRead => exact RoundTrip.rcRegisterRead _
  | fabricRequestReceived => exact RoundTrip.fabricRequestReceived _ _ _ _ _ _
  | dieJointRetrained => exact RoundTrip.dieJointRetrained _
  | fabricPllLock => exact RoundTrip.fabricPllLock
  | timeExchange => exact RoundTrip.timeExchange _
  | junctionTemperatureSample => exact RoundTrip.junctionTemperatureSample _
  | doeRequest => exact RoundTrip.doeRequest _

/-- Settles O39, by the round trip on fields and that of `Raw.toWord` on fields within their bits. -/
theorem decodeGivesBackEveryWord : Obligations.DecodeGivesBackEveryWord := by
  intro i hi
  obtain ⟨r, hr, hfit, hdec⟩ := roundTrip i hi
  exact ⟨r.toWord, by simp [encode, hr], by rw [decode, Raw.ofWord_toWord r hfit, hdec]⟩

end Sys2Proof.Proofs

/-! The parts that bodies of words are made of (02 R22, 03 R29, 06 R93): whatever relation between states the parts keep, the body
keeps. Frames of the issue and what words leave of memory are cases of it. -/

namespace Sys2Proof.Proofs
open Sys2Proof Sys2Proof.Machine Sys2Proof.Laws

/-! ## Outcomes of an issue -/

/-- What can become of a word: it stays, is dropped, runs its body, or stops at a trap or an error (06 R93). -/
inductive Outcome (h : Head) (body : M Unit) (s t : State) : Prop
  | stays (e : t = s)
  | dropped (e : t = scheduled h s)
  | refused (code : Code) (slot : Nat) (tval : W64) (hc : code ∈ [Code.illop, .priv, .lendx])
      (e : t = s.trapHere code slot tval s.me.pc)
  | ran (e : body (scheduled h s) = .ok ((), t))
  | met (n : Fin 16) (line : W64) (hb : body (scheduled h s) = .error (.uce n line)) (e : t = s.meetsUce s.cur s.self.cur n line)
  | trapped (code : Code) (slot : Nat) (v tval epc : W64) (hb : body (scheduled h s) = .error (.trap code slot v))
      (e : t = s.trapHere code slot tval epc)

/-- Every word answers a next state, and it is one of the outcomes. -/
theorem issue_outcome (i : Instr) (h : Head) (body : M Unit) (s : State) :
    ∃ t, issue i h body s = .next t ∧ Outcome h body s t := by
  unfold issue
  dsimp only
  split
  · exact ⟨_, rfl, .stays rfl⟩
  split
  · exact ⟨_, rfl, .refused .illop 1 (wordHi i) (by simp) rfl⟩
  split
  · exact ⟨_, rfl, .dropped rfl⟩
  split
  · exact ⟨_, rfl, .stays rfl⟩
  split
  · exact ⟨_, rfl, .refused .priv 7 (wordHi i) (by simp) rfl⟩
  split
  case _ slot name _ => exact ⟨_, rfl, .refused .lendx slot (BitVec.ofNat 64 name) (by simp) rfl⟩
  split
  case _ hb => exact ⟨_, rfl, .ran hb⟩
  case _ => exact ⟨_, rfl, .stays rfl⟩
  case _ n line hb => exact ⟨_, rfl, .met n line hb rfl⟩
  case _ code slot v hb => exact ⟨_, rfl, .trapped code slot v _ _ hb rfl⟩

theorem outcome_of_issue {i : Instr} {h : Head} {body : M Unit} {s t : State} (e : issue i h body s = .next t) :
    Outcome h body s t := by
  obtain ⟨t', e', ho⟩ := issue_outcome i h body s
  rw [e] at e'
  injection e' with e'
  rwa [e']

/-! ## What reading an operand does (03 R29, R30) -/

theorem readS_ls (slot : Nat) (s : State) : readS slot .ls s = .ok (s.me.ls, s) := rfl

theorem readS_nil {slot : Nat} {n : Fin 64} {pk : Bool} {s : State} (h : s.me.s.get n = []) :
    readS slot (.s n pk) s = .error (.trap .fifoUnf slot 0) := by
  simp only [readS, get_bind, h]
  rfl

theorem readS_peek {slot : Nat} {n : Fin 64} {s : State} {v : W64} {r : List W64} (h : s.me.s.get n = v :: r) :
    readS slot (.s n true) s = .ok (v, s) := by
  simp only [readS, get_bind, h]
  rfl

theorem readS_pop {slot : Nat} {n : Fin 64} {s : State} {v : W64} {r : List W64} (h : s.me.s.get n = v :: r) :
    readS slot (.s n false) s = .ok (v, s.onMe (fun x => x.setS n r)) := by
  simp only [readS, get_bind, h]
  rfl

theorem readV_bad {slot : Nat} {x : VSrc} {s : State} {l : Nat} (h : s.fileErr s.cur x.loc = some l) :
    readV slot x s = .error (.uce 1 (BitVec.ofNat 64 l)) := by
  simp only [readV, get_bind, h]
  rfl

theorem readV_opf {slot : Nat} {n : Fin 8} {p : Part} {sw : Bool} {s : State} (h : s.fileErr s.cur (.opf n) = none) :
    readV slot ⟨.opf n, p, sw⟩ s = .ok (s.self.opf.get n, s) := by
  simp only [readV, get_bind, h]
  rfl

theorem readV_lv {slot : Nat} {p : Part} {sw : Bool} {s : State} (h : s.fileErr s.cur .lv = none) :
    readV slot ⟨.lv, p, sw⟩ s = .ok (s.self.lv, s) := by
  simp only [readV, get_bind, h]
  rfl

theorem readV_ll {slot : Nat} {p : Part} {sw : Bool} {s : State} (h : s.fileErr s.cur .ll = none) :
    readV slot ⟨.ll, p, sw⟩ s = .ok (s.self.ll, s) := by
  simp only [readV, get_bind, h]
  rfl

theorem readV_nil {slot : Nat} {n : Fin 1024} {pk : Bool} {p : Part} {sw : Bool} {s : State}
    (h : s.fileErr s.cur (.main n pk) = none) (hq : s.vFifo s.cur n = []) :
    readV slot ⟨.main n pk, p, sw⟩ s = .error (.trap .fifoUnf slot 0) := by
  simp only [readV, get_bind, h, hq]
  rfl

theorem readV_peek {slot : Nat} {n : Fin 1024} {p : Part} {sw : Bool} {s : State} {v : VEntry} {r : List VEntry}
    (h : s.fileErr s.cur (.main n true) = none) (hq : s.vFifo s.cur n = v :: r) :
    readV slot ⟨.main n true, p, sw⟩ s = .ok (v, s) := by
  simp only [readV, get_bind, h, hq]
  rfl

theorem readV_pop {slot : Nat} {n : Fin 1024} {p : Part} {sw : Bool} {s : State} {v : VEntry} {r : List VEntry}
    (h : s.fileErr s.cur (.main n false) = none) (hq : s.vFifo s.cur n = v :: r) :
    readV slot ⟨.main n false, p, sw⟩ s = .ok (v, s.setVFifo s.cur n r) := by
  simp only [readV, get_bind, h, hq]
  rfl

/-! ## Relations that the parts of bodies keep -/

/-- A body relates the state before it to the one that it leaves by `R`, or stops with one of `E`. -/
def Body (R : State → State → Prop) (E : Stop → Prop) (x : M α) : Prop :=
  ∀ s, match x s with
    | .ok (_, t) => R s t
    | .error e => E e

/-- What reading scalars and checking values keeps: entries of scalar FIFOs leave, and a check stops with any trap but PMISS. -/
structure ReadRel (R : State → State → Prop) (E : Stop → Prop) : Prop where
  refl : ∀ s, R s s
  trans : ∀ {s t u}, R s t → R t u → R s u
  fifo : ∀ s n q, q <:+ s.me.s.get n → R s (s.onMe (fun x => x.setS n q))
  trap : ∀ code slot v, code ≠ .pmiss → E (.trap code slot v)

/-- The parts of branches, scalar and predicate words. -/
structure SeqRel (R : State → State → Prop) (E : Stop → Prop) : Prop extends ReadRel R E where
  jump : ∀ s a, R s (s.jump a)
  emit : ∀ s unit dst v lat, R s (s.emit unit dst v lat)

/-- A change of a core's queues, its accounts of what is in flight and its holds. -/
def QueueChange (x y : Core) : Prop :=
  y = { x with ldeQ := y.ldeQ, vxeQ := y.vxeQ, steQ := y.steQ, cpyQ := y.cpyQ, arrQ := y.arrQ, sfQ := y.sfQ, acc := y.acc,
               vbuf := y.vbuf, holds := y.holds }

/-- The parts of the words of the engines. -/
structure EngRel (R : State → State → Prop) (E : Stop → Prop) : Prop extends ReadRel R E where
  file : ∀ s n q, q <:+ s.vFifo s.cur n → R s (s.setVFifo s.cur n q)
  queue : ∀ s f, (∀ k, QueueChange k (f k)) → R s (s.onSelf f)
  acquired : ∀ s, R s s.acquired
  hold : E .hold
  uce : ∀ n line, E (.uce n line)

section ReadRel
variable {R : State → State → Prop} {E : Stop → Prop}

theorem Body.ok {x : M α} (hx : Body R E x) {s t : State} {a : α} (e : x s = .ok (a, t)) : R s t := by
  have := hx s
  rwa [e] at this

theorem Body.stop {x : M α} (hx : Body R E x) {s : State} {r : Stop} (e : x s = .error r) : E r := by
  have := hx s
  rwa [e] at this

theorem body_of_stops {x : M α} {r : Stop} (hx : ∀ s, x s = .error r) (hr : E r) : Body R E x := by
  intro s
  rw [hx s]
  exact hr

variable (hR : ReadRel R E)
include hR

theorem body_of_reads {x : M α} {f : State → α} (hx : ∀ s, x s = .ok (f s, s)) : Body R E x := by
  intro s
  rw [hx s]
  exact hR.refl s

theorem body_pure (a : α) : Body R E (pure a : M α) := body_of_reads hR fun _ => rfl

theorem body_get : Body R E (get : M State) := body_of_reads hR fun _ => rfl

theorem body_bind {x : M α} {f : α → M β} (hx : Body R E x) (hf : ∀ a, Body R E (f a)) : Body R E (x >>= f) := by
  intro s
  cases hxs : x s with
  | error r =>
    have : (x >>= f) s = .error r := by simp [Bind.bind, StateT.bind, hxs, Except.bind]
    rw [this]
    exact hx.stop hxs
  | ok p =>
    have : (x >>= f) s = f p.1 p.2 := by simp [Bind.bind, StateT.bind, hxs, Except.bind]
    rw [this]
    have h1 := hx.ok (t := p.2) hxs
    cases hfs : f p.1 p.2 with
    | error r => exact (hf p.1).stop hfs
    | ok q => exact hR.trans h1 ((hf p.1).ok (t := q.2) hfs)

theorem body_get_bind {f : State → M β} (hf : ∀ s, Body R E (f s)) : Body R E ((get : M State) >>= f) :=
  body_bind hR (body_get hR) hf

theorem body_raise {code : Code} {slot : Nat} {v : W64} (hc : code ≠ .pmiss) : Body R E (raise code slot v : M α) :=
  body_of_stops (fun _ => rfl) (hR.trap code slot v hc)

theorem body_need {b : Bool} {code : Code} {slot : Nat} {v : W64} (hc : code ≠ .pmiss) : Body R E (need b code slot v) := by
  cases b
  · exact body_raise hR hc
  · exact body_pure hR ()

omit hR in
theorem body_ite {c : Prop} [Decidable c] {x y : M α} (hx : Body R E x) (hy : Body R E y) : Body R E (if c then x else y) := by
  split
  · exact hx
  · exact hy

theorem body_readS {slot : Nat} {x : SSrc} : Body R E (readS slot x) := by
  cases x with
  | ls => exact body_get_bind hR fun _ => body_pure hR _
  | s n pk =>
    intro s
    cases hq : s.me.s.get n with
    | nil =>
      rw [readS_nil hq]
      exact hR.trap _ _ _ (by decide)
    | cons v r =>
      cases pk with
      | true =>
        rw [readS_peek hq]
        exact hR.refl s
      | false =>
        rw [readS_pop hq]
        exact hR.fifo s n r (hq ▸ List.suffix_cons v r)

theorem body_readSI {slot : Nat} {x : SOp} : Body R E (readSI slot x) := by
  cases x with
  | src x => exact body_readS hR
  | imm v => exact body_pure hR _

theorem body_readSIs : ∀ {l : List (Nat × SOp)}, Body R E (readSIs l)
  | [] => body_pure hR _
  | _ :: _ => body_bind hR (body_readSI hR) fun _ => body_bind hR body_readSIs fun _ => body_pure hR _

theorem body_readRef {slot : Nat} {x : Ref} : Body R E (readRef slot x) := by
  cases x with
  | imm n => exact body_pure hR _
  | src x => exact body_readS hR

theorem body_readRep {slot : Nat} {n : Int} {x : Rep} : Body R E (readRep slot n x) := by
  cases x with
  | imm n => exact body_pure hR _
  | src x => exact body_bind hR (body_readS hR) fun _ => body_pure hR _

theorem body_readLw {slot : Nat} {x : Lw} : Body R E (readLw slot x) := by
  cases x with
  | imm v => exact body_pure hR _
  | src x => exact body_readS hR

theorem body_readFlag {slot : Nat} {x : SOp} : Body R E (readFlag slot x) := by
  cases x with
  | src x => exact body_readS hR
  | imm v => exact body_pure hR _

theorem body_readCas {x : Option SOp} : Body R E (readCas x) := by
  cases x with
  | none => exact body_pure hR _
  | some x => exact body_readSI hR

theorem body_readTile {x : TileRef} : Body R E (readTile x) := by
  cases x with
  | imm n => exact body_pure hR _
  | src x => exact body_readS hR

theorem body_aligned {slot : Nat} {v : W64} {n : Nat} : Body R E (aligned slot v n) := body_need hR (by decide)
theorem body_refOk {slot : Nat} {v : W64} : Body R E (refOk slot v) := body_need hR (by decide)
theorem body_lwOk {slot : Nat} {v : W64} : Body R E (lwOk slot v) := body_need hR (by decide)
theorem body_lwIs {slot : Nat} {v : W64} {l : List Nat} : Body R E (lwIs slot v l) := body_need hR (by decide)
theorem body_spOk {slot : Nat} {v : W64} : Body R E (spOk slot v) := body_need hR (by decide)
theorem body_storeTag {l : List (Nat × Fmt)} {e : VEntry} : Body R E (storeTag l e) := body_need hR (by decide)

theorem body_tileOk {v : W64} : Body R E (tileOk v) :=
  body_get_bind hR fun _ => body_bind hR (body_need hR (by decide)) fun _ => body_need hR (by decide)

theorem body_vlOk {ok : Fmt → Bool} {slot : Nat} {l : List (Nat × Fmt)} {y : Option Src} : Body R E (vlOk ok slot l y) := by
  cases y with
  | none => exact body_pure hR _
  | some y => exact body_need hR (by decide)

theorem body_tagTrap {slot : Nat} {xs : List VArg} {o : Option Nat} : Body R E (tagTrap slot xs o) := by
  cases o with
  | none => exact body_pure hR _
  | some n => exact body_raise hR (by decide)

theorem body_tagCheck {slot : Nat} {oks : List (Fmt → Bool)} {xs : List VArg} : Body R E (tagCheck slot oks xs) :=
  body_tagTrap hR

theorem body_satCheck {sat : Bool} {xs : List VArg} : Body R E (satCheck sat xs) :=
  body_bind hR (body_tagCheck hR) fun _ => body_ite (body_tagTrap hR) (body_pure hR _)

theorem body_drawCheck {slot n : Nat} {ys : List W64} : Body R E (drawCheck slot n ys) := body_spOk hR
theorem body_dotCheck {k : Nat} {xs : List VArg} : Body R E (dotCheck k xs) := body_tagCheck hR
theorem body_belowCheck {n slot : Nat} {ys : List W64} : Body R E (belowCheck n slot ys) := body_need hR (by decide)
theorem body_indexCheck {slot : Nat} {xs : List VArg} {e : W64} : Body R E (indexCheck slot xs e) := body_need hR (by decide)

theorem body_redCheck {k : RedKind} {xs : List VArg} : Body R E (redCheck k xs) := by
  cases k with
  | and | or | xor => exact body_pure hR _
  | add | max | min => exact body_tagCheck hR

theorem body_captured {i : Instr} {ref : W64} {rep : Nat × Int} {vals : List W64} {vops : List VEntry} :
    Body R E (captured i ref rep vals vops) := body_get_bind hR fun _ => body_pure hR _

end ReadRel

/-! ## The parts of branches, scalar and predicate words -/

section SeqRel
variable {R : State → State → Prop} {E : Stop → Prop} (hR : SeqRel R E)
include hR

theorem body_branch {a : W64} : Body R E (branch a) := fun s => by
  rw [branch_run]
  exact hR.jump s a

theorem body_branchReg {slot : Nat} {a : W64} : Body R E (branchReg slot a) :=
  body_bind hR.toReadRel (body_need hR.toReadRel (by decide)) fun _ => body_branch hR

theorem body_result {unit : ResUnit} {dst : Dst} {v : RVal} {lat : Nat} : Body R E (result unit dst v lat 0) := fun s =>
  hR.emit s unit dst v lat

theorem body_scalar {d : SDst} {lat : Nat} {v : W64} : Body R E (scalar d lat v) := body_result hR

theorem body_seqResult {d : SDst} {v : W64} : Body R E (seqResult d v) := body_result hR

end SeqRel

/-! ## The parts of the words of the engines -/

section EngRel
variable {R : State → State → Prop} {E : Stop → Prop} (hR : EngRel R E)
include hR

theorem body_holdWord : Body R E (holdWord : M α) := body_of_stops (fun _ => rfl) hR.hold

theorem body_failing {n : Fin 16} {o : Option Nat} : Body R E (failing n o) := by
  cases o with
  | none => exact body_pure hR.toReadRel ()
  | some l => exact body_of_stops (fun _ => rfl) (hR.uce n _)

theorem body_updSelf {f : Core → Core} (hf : ∀ k, QueueChange k (f k)) : Body R E (updSelf f) := fun s => by
  rw [updSelf_run]
  exact hR.queue s f hf

theorem body_acquire : Body R E acquire := fun s => hR.acquired s

/-- Reading a vector source takes at most the oldest entry of a main-file name, or stops. -/
theorem body_readV {slot : Nat} {x : VSrc} : Body R E (readV slot x) := by
  obtain ⟨loc, part, swp⟩ := x
  intro s
  cases hf : s.fileErr s.cur loc with
  | some l =>
    rw [readV_bad hf]
    exact hR.uce _ _
  | none =>
    cases loc with
    | opf n => rw [readV_opf hf]; exact hR.refl s
    | lv => rw [readV_lv hf]; exact hR.refl s
    | ll => rw [readV_ll hf]; exact hR.refl s
    | main n pk =>
      cases hq : s.vFifo s.cur n with
      | nil =>
        rw [readV_nil hf hq]
        exact hR.trap _ _ _ (by decide)
      | cons v r =>
        cases pk with
        | true => rw [readV_peek hf hq]; exact hR.refl s
        | false =>
          rw [readV_pop hf hq]
          exact hR.file s n r (hq ▸ List.suffix_cons v r)

theorem body_readSrc {slot : Nat} {x : VSrc} : Body R E (readSrc slot x) :=
  body_bind hR.toReadRel (body_readV hR) fun _ => body_pure hR.toReadRel _

theorem body_readVI {slot : Nat} {x : VOp} : Body R E (readVI slot x) := by
  cases x with
  | src x => exact body_bind hR.toReadRel (body_readSrc hR) fun _ => body_pure hR.toReadRel _
  | imm v => exact body_pure hR.toReadRel _

theorem body_readVIs : ∀ {slot : Nat} {l : List VOp}, Body R E (readVIs slot l)
  | _, [] => body_pure hR.toReadRel _
  | _, _ :: _ => body_bind hR.toReadRel (body_readVI hR) fun _ => body_bind hR.toReadRel body_readVIs fun _ =>
      body_pure hR.toReadRel _

theorem body_readVL {slot : Nat} {x : VLm} : Body R E (readVL slot x) := by
  cases x with
  | lm => exact body_pure hR.toReadRel _
  | src x => exact body_bind hR.toReadRel (body_readSrc hR) fun _ => body_pure hR.toReadRel _

theorem body_readBlock {cb : W64} {u : BlockUse} {array : Bool} {p1 p2 : W64 → Bool} :
    Body R E (readBlock cb u array p1 p2) := by
  refine body_bind hR.toReadRel (body_aligned hR.toReadRel) fun _ =>
    body_bind hR.toReadRel (body_need hR.toReadRel (by decide)) fun _ => body_get_bind hR.toReadRel fun s =>
    body_bind hR.toReadRel (body_failing hR) fun _ => ?_
  dsimp only
  split
  · exact body_raise hR.toReadRel (by decide)
  · exact body_pure hR.toReadRel _

theorem body_fenceArgs {t : TileRef} {bo : SOp} {all : Bool} : Body R E (fenceArgs t bo all) :=
  body_bind hR.toReadRel (body_readTile hR.toReadRel) fun _ => body_bind hR.toReadRel (body_readSI hR.toReadRel) fun _ => by
    dsimp only
    split
    · exact body_bind hR.toReadRel (body_refOk hR.toReadRel) fun _ => body_pure hR.toReadRel _
    · exact body_bind hR.toReadRel (body_tileOk hR.toReadRel) fun _ => body_bind hR.toReadRel (body_refOk hR.toReadRel) fun _ =>
        body_pure hR.toReadRel _

theorem body_fifoMap {n : FifoName} {f : List VEntry → List VEntry} {g : List W64 → List W64} (hf : ∀ l, f l <:+ l)
    (hg : ∀ l, g l <:+ l) : Body R E (fifoMap n f g) := by
  cases n with
  | v n => exact fun s => hR.file s n _ (hf _)
  | s n => exact fun s => hR.fifo s n _ (hg _)

theorem body_vxePush {i : Instr} {xs : List VArg} {vals : List W64} : Body R E (vxePush i xs vals) := fun s =>
  hR.queue s (fun k => { k with vxeQ := k.vxeQ ++ [entry i 0 0 0 vals (entriesOf xs) s] }) fun _ => rfl

end EngRel

end Sys2Proof.Proofs

/-! Every word is an issue of a body that is made of the parts of its class (06 R92, R93): words of the sequencer, words of the
engines, and the control words that set registers. -/

namespace Sys2Proof.Proofs
open Sys2Proof Sys2Proof.Machine Sys2Proof.Laws

/-! ## Headers of written words -/

theorem hint_ofCode_code (c : Hint) : Hint.ofCode c.code = some c := by cases c <;> rfl

theorem decide_b2n (b : Bool) : decide (b2n b = 1) = b := by cases b <;> rfl

/-- The header of a word is the one that it was written with. -/
theorem rawHead_enc (o : Nat) (h : Head) (w a b c d e : Nat) : rawHead (enc o h w a b c d e) = h := by
  obtain ⟨ga, gan, gb, gbn, ch, stall, yld, pb, pa⟩ := h
  simp only [rawHead, enc, hint_ofCode_code, Option.getD_some, Fin.ofNat_val_eq_self, BitVec.ofNat_toNat, BitVec.setWidth_eq,
    Head.mk.injEq, true_and, and_true]
  exact ⟨decide_b2n gan, decide_b2n gbn, decide_b2n yld⟩

/-! ## Classes of words -/

/-- A body made of the parts of branches, scalar and predicate words. -/
def SeqBody (body : M Unit) : Prop := ∀ (R : State → State → Prop) (E : Stop → Prop), SeqRel R E → Body R E body

/-- A body made of the parts of engine words. -/
def EngBody (body : M α) : Prop := ∀ (R : State → State → Prop) (E : Stop → Prop), EngRel R E → Body R E body

/-- A body that leaves memory, the tile pairs, flash and CYC as they are. -/
def KeepsMemory (body : M Unit) : Prop := ∀ s t, body s = .ok ((), t) → s.sameMemory t

/-- What the body of a word is made of, by the word's class (06 R92); RSTR alone replaces the LM of cores. -/
inductive WordClass (i : Instr) (body : M Unit) : Prop
  | seq (hc : scalarWord i = true) (hb : SeqBody body)
  | eng (hc : engineWord i = true) (hb : EngBody body)
  | ctl (hs : scalarWord i = false) (he : engineWord i = false) (hb : Keeps body)
  | rstr (hs : scalarWord i = false) (he : engineWord i = false) (h : Head) (a : SSrc) (hi : i = .rstr h a) (hb : KeepsMemory body)

/-- The instruction is a word: it issues under the header of its encoding with a body of its class. -/
def IsWord (i : Instr) : Prop :=
  ∃ h body, (∀ r, encodeRaw i = some r → rawHead r = h) ∧ (∀ s, exec i s = issue i h body s) ∧ WordClass i body

section IsWord
variable {i : Instr} {o w x1 x2 x3 x4 x5 : Nat} {h : Head}

theorem IsWord.of_class (he : encodeRaw i = some (enc o h w x1 x2 x3 x4 x5)) {body : M Unit}
    (hx : ∀ s, exec i s = issue i h body s) (hc : WordClass i body) : IsWord i := by
  refine ⟨h, body, fun r hr => ?_, hx, hc⟩
  rw [he] at hr
  cases hr
  exact rawHead_enc ..

variable (he : encodeRaw i = some (enc o h w x1 x2 x3 x4 x5))
include he

theorem IsWord.seq {body : M Unit} (hx : ∀ s, exec i s = issue i h body s) (hc : scalarWord i = true) (hb : SeqBody body) :
    IsWord i := .of_class he hx (.seq hc hb)

theorem IsWord.eng {body : M Unit} (hx : ∀ s, exec i s = issue i h body s) (hc : engineWord i = true) (hb : EngBody body) :
    IsWord i := .of_class he hx (.eng hc hb)

theorem IsWord.ctl {body : M Unit} (hx : ∀ s, exec i s = issue i h body s) (hs : scalarWord i = false)
    (hn : engineWord i = false) (hb : Keeps body) : IsWord i := .of_class he hx (.ctl hs hn hb)

/-! ### Words of the sequencer -/

theorem IsWord.scalar1 {d : SDst} {a : SSrc} {f : W64 → W64} (hx : ∀ s, exec i s = scalar1 i h d a f s)
    (hc : scalarWord i = true) : IsWord i :=
  .seq he hx hc fun _ _ hR => body_bind hR.toReadRel (body_readS hR.toReadRel) fun _ => body_scalar hR

theorem IsWord.scalar2 {d : SDst} {a : SSrc} {b : SOp} {n : Nat} {f : W64 → W64 → W64}
    (hx : ∀ s, exec i s = scalar2 i h d a b n f s) (hc : scalarWord i = true) : IsWord i :=
  .seq he hx hc fun _ _ hR => body_bind hR.toReadRel (body_readS hR.toReadRel) fun _ =>
    body_bind hR.toReadRel (body_readSI hR.toReadRel) fun _ => body_scalar hR

theorem IsWord.pred2 {d a b : Fin 16} {f : Bool → Bool → Bool} (hx : ∀ s, exec i s = pred2 i h d a b f s)
    (hc : scalarWord i = true) : IsWord i :=
  .seq he hx hc fun _ _ hR => body_get_bind hR.toReadRel fun _ => body_result hR

/-! ### Words of the engines -/

theorem IsWord.vword {slot : Nat} {vs : List VOp} {ss : List (Nat × SOp)} {check : List VArg → List W64 → M Unit}
    (hx : ∀ s, exec i s = vword i h slot vs ss check s) (hc : engineWord i = true)
    (hk : ∀ (R : State → State → Prop) (E : Stop → Prop), EngRel R E → ∀ xs ys, Body R E (check xs ys)) : IsWord i :=
  .eng he hx hc fun _ _ hR => body_bind hR.toReadRel (body_readVIs hR) fun _ =>
    body_bind hR.toReadRel (body_readSIs hR.toReadRel) fun _ => body_bind hR.toReadRel (hk _ _ hR _ _) fun _ => body_vxePush hR

theorem IsWord.vtagged {slot : Nat} {vs : List VOp} {ok : Fmt → Bool} (hx : ∀ s, exec i s = vtagged i h slot vs ok s)
    (hc : engineWord i = true) : IsWord i := .vword he hx hc fun _ _ hR _ _ => body_tagCheck hR.toReadRel

theorem IsWord.vraw {slot : Nat} {vs : List VOp} (hx : ∀ s, exec i s = vraw i h slot vs s) (hc : engineWord i = true) :
    IsWord i := .vword he hx hc fun _ _ hR _ _ => body_pure hR.toReadRel ()

omit he in
theorem memQueue_queueChange (k : Core) (q : QEntry) : QueueChange k (k.memQueue q) := by
  unfold Core.memQueue
  dsimp only
  split <;> rfl

omit he in
/-- A word that joins a queue with room for its vector operands, or stays. -/
theorem engBody_enqueue {n : Nat} {body : M QEntry} {f : QEntry → Core → Core} (hb : EngBody body)
    (hf : ∀ q k, QueueChange k (f q k)) :
    EngBody (do
      if operandBuffer < (← get).self.vbuf + n then holdWord else pure ()
      let q ← body
      updSelf (f q)) := by
  intro R E hR
  refine body_get_bind hR.toReadRel fun s => ?_
  dsimp only
  split
  · exact body_bind hR.toReadRel (body_holdWord hR) fun _ => body_bind hR.toReadRel (hb R E hR) fun q => body_updSelf hR (hf q)
  · exact body_bind hR.toReadRel (hb R E hR) fun q => body_updSelf hR (hf q)

theorem IsWord.memWord {n : Nat} {body : M QEntry} (hx : ∀ s, exec i s = memWord i h n body s) (hc : engineWord i = true)
    (hb : EngBody body) : IsWord i :=
  .eng he hx hc (engBody_enqueue hb fun q k => memQueue_queueChange k q)

theorem IsWord.arrayWord {n : Nat} {body : M QEntry} (hx : ∀ s, exec i s = arrayWord i h n body s)
    (hc : engineWord i = true) (hb : EngBody body) : IsWord i :=
  .eng he hx hc (engBody_enqueue hb fun _ _ => rfl)

theorem IsWord.arrayForm {t : TileRef} {cb : SSrc} {x y : VLm} {rep : Rep} {u : BlockUse} {ok : Fmt → Bool}
    {p1 p2 : W64 → Bool} (hx : ∀ s, exec i s = arrayForm i h t cb x y rep u ok p1 p2 s) (hc : engineWord i = true) : IsWord i :=
  .arrayWord he hx hc fun _ _ hR => body_bind hR.toReadRel (body_readTile hR.toReadRel) fun _ =>
    body_bind hR.toReadRel (body_readS hR.toReadRel) fun _ => body_bind hR.toReadRel (body_readVL hR) fun _ =>
    body_bind hR.toReadRel (body_readVL hR) fun _ => body_bind hR.toReadRel (body_readRep hR.toReadRel) fun _ =>
    body_bind hR.toReadRel (body_vlOk hR.toReadRel) fun _ => body_bind hR.toReadRel (body_vlOk hR.toReadRel) fun _ =>
    body_bind hR.toReadRel (body_aligned hR.toReadRel) fun _ => body_bind hR.toReadRel (body_tileOk hR.toReadRel) fun _ =>
    body_bind hR.toReadRel (body_need hR.toReadRel (by decide)) fun _ => body_bind hR.toReadRel (body_readBlock hR) fun _ =>
    body_bind hR.toReadRel (body_captured hR.toReadRel) fun _ => body_get_bind hR.toReadRel fun _ => body_pure hR.toReadRel _

theorem IsWord.copyWord {body : M QEntry} (hx : ∀ s, exec i s = copyWord i h body s) (hc : engineWord i = true)
    (hb : EngBody body) : IsWord i :=
  .eng he hx hc fun _ _ hR => body_bind hR.toReadRel (hb _ _ hR) fun _ => body_updSelf hR fun _ => rfl

theorem IsWord.pairWord {bo : Ref} {dst src : Lw} {dk sk : List Nat} (hx : ∀ s, exec i s = pairWord i h bo dst src dk sk s)
    (hc : engineWord i = true) : IsWord i :=
  .copyWord he hx hc fun _ _ hR => body_bind hR.toReadRel (body_readRef hR.toReadRel) fun _ =>
    body_bind hR.toReadRel (body_readLw hR.toReadRel) fun _ => body_bind hR.toReadRel (body_readLw hR.toReadRel) fun _ =>
    body_bind hR.toReadRel (body_refOk hR.toReadRel) fun _ => body_bind hR.toReadRel (body_lwOk hR.toReadRel) fun _ =>
    body_bind hR.toReadRel (body_lwIs hR.toReadRel) fun _ => body_bind hR.toReadRel (body_lwOk hR.toReadRel) fun _ =>
    body_bind hR.toReadRel (body_lwIs hR.toReadRel) fun _ => body_captured hR.toReadRel

theorem IsWord.maskWord {bo : Ref} {dst src : Lw} {m : SSrc} {dk : List Nat}
    (hx : ∀ s, exec i s = maskWord i h bo dst src m dk s) (hc : engineWord i = true) : IsWord i :=
  .copyWord he hx hc fun _ _ hR => body_bind hR.toReadRel (body_readRef hR.toReadRel) fun _ =>
    body_bind hR.toReadRel (body_readLw hR.toReadRel) fun _ => body_bind hR.toReadRel (body_readLw hR.toReadRel) fun _ =>
    body_bind hR.toReadRel (body_readS hR.toReadRel) fun _ => body_bind hR.toReadRel (body_refOk hR.toReadRel) fun _ =>
    body_bind hR.toReadRel (body_lwOk hR.toReadRel) fun _ => body_bind hR.toReadRel (body_lwIs hR.toReadRel) fun _ =>
    body_bind hR.toReadRel (body_lwOk hR.toReadRel) fun _ => body_captured hR.toReadRel

theorem IsWord.sfWord {bo : Ref} {cb : SSrc} {rep : Rep} (hx : ∀ s, exec i s = sfWord i h bo cb rep s)
    (hc : engineWord i = true) : IsWord i :=
  .eng he hx hc fun _ _ hR => body_bind hR.toReadRel (body_readRef hR.toReadRel) fun _ =>
    body_bind hR.toReadRel (body_readS hR.toReadRel) fun _ => body_bind hR.toReadRel (body_readRep hR.toReadRel) fun _ =>
    body_bind hR.toReadRel (body_aligned hR.toReadRel) fun _ => body_bind hR.toReadRel (body_refOk hR.toReadRel) fun _ =>
    body_bind hR.toReadRel (body_readBlock hR) fun _ => body_bind hR.toReadRel (body_captured hR.toReadRel) fun _ =>
    body_get_bind hR.toReadRel fun _ => body_updSelf hR fun _ => rfl

end IsWord

/-! ## Bodies of their own -/

theorem body_selCheck {R : State → State → Prop} {E : Stop → Prop} (hR : ReadRel R E) {xs : List VArg} :
    Body R E (match argAt xs 1 with
      | .src y => tagTrap 2 xs (if y.e.tag = (argAt xs 0).tag then none else some 3)
      | .imm _ => pure ()) := by
  split
  · exact body_tagTrap hR
  · exact body_pure hR ()

/-- Memory is in the cores' surroundings: a change of cores leaves it. -/
theorem sameMemory_updCore (s : State) (c : CoreId) (f : Core → Core) : s.sameMemory (s.updCore c f) :=
  ⟨rfl, rfl, rfl, rfl, rfl, rfl, rfl, rfl, rfl⟩

theorem sameMemory_trans {s t u : State} (h : s.sameMemory t) (k : t.sameMemory u) : s.sameMemory u := by
  obtain ⟨h1, h2, h3, h4, h5, h6, h7, h8, h9⟩ := h
  obtain ⟨k1, k2, k3, k4, k5, k6, k7, k8, k9⟩ := k
  exact ⟨k1.trans h1, k2.trans h2, k3.trans h3, k4.trans h4, k5.trans h5, k6.trans h6, k7.trans h7, k8.trans h8, k9.trans h9⟩

theorem sameMemory_foldl {f : State → α → State} (hf : ∀ (s : State) (x : α), s.sameMemory (f s x)) (l : List α) (s : State) :
    s.sameMemory (l.foldl f s) := by
  induction l generalizing s with
  | nil => exact (SameStore.refl s).1
  | cons a r ih => exact sameMemory_trans (hf s a) (ih _)

theorem sameMemory_restoreAt (c : CoreId) (x : Option Saved) (m : Mem) (s : State) : s.sameMemory (restoreAt c x m s) :=
  sameMemory_trans (sameMemory_foldl (fun s _ => sameMemory_updCore s _ _) _ s) (sameMemory_updCore _ c fun _ => _)

/-! ### Control words with a body of their own -/

/-- The last EXIT of a strand ends holds alone. -/
theorem exit_lm (k : Core) :
    (if k.berths.toList.all (fun b => !b.started || b.exited) then { k with holds := [] } else k).lm = k.lm := by
  split <;> rfl

theorem isWord_beat (h : Head) : IsWord (.beat h) := by
  refine .ctl rfl (fun s => exec_beat s) rfl rfl (keeps_bind keeps_get fun s => ?_)
  split
  · exact keeps_ite keeps_updSelf (keeps_pure _)
  · exact keeps_pure _

theorem isWord_phase (h : Head) (d : SDst) : IsWord (.phase h d) := by
  refine .ctl rfl (fun s => exec_phase s) rfl rfl (keeps_bind keeps_get fun s => ?_)
  split
  · exact keeps_bind keeps_seqResult fun _ => keeps_branch
  · exact keeps_seqResult

theorem isWord_tokin (h : Head) (k : MbKind) (mb : SOp) : IsWord (.tokin h k mb) := by
  refine .ctl rfl (fun s => exec_tokin s) rfl rfl (keeps_bind keeps_readSI fun v => keeps_bind keeps_get fun s => ?_)
  split
  · exact keeps_updSelf
  · exact keeps_waitHere

theorem isWord_tfence (h : Head) (va : Option SSrc) : IsWord (.tfence h va) := by
  cases va with
  | none => exact .ctl rfl (fun s => exec_tfence s) rfl rfl (keeps_bind (keeps_pure _) fun _ => keeps_fence)
  | some a =>
    exact .ctl rfl (fun s => exec_tfence s) rfl rfl
      (keeps_bind (keeps_bind keeps_readS fun _ => keeps_pure _) fun _ => keeps_fence)

theorem isWord_rcfence (h : Head) (tid : Option SOp) : IsWord (.rcfence h tid) := by
  cases tid with
  | none => exact .ctl rfl (fun s => exec_rcfence s) rfl rfl (keeps_bind (keeps_pure _) fun _ => keeps_fence)
  | some a =>
    exact .ctl rfl (fun s => exec_rcfence s) rfl rfl
      (keeps_bind (keeps_bind keeps_readSI fun _ => keeps_bind keeps_refOk fun _ => keeps_pure _) fun _ => keeps_fence)

/-- A check that passes lets the rest of the body run. -/
theorem need_bind_ok {b : Bool} {code : Code} {slot : Nat} {v : W64} {f : Unit → M α} {s t : State} {a : α}
    (e : (need b code slot v >>= f) s = .ok (a, t)) : b = true ∧ f () s = .ok (a, t) := by
  cases b with
  | true => exact ⟨rfl, e⟩
  | false => cases e

/-- What runs through reads its operand first. -/
theorem bind_ok {x : M α} {f : α → M β} {s t : State} {b : β} (e : (x >>= f) s = .ok (b, t)) :
    ∃ a u, x s = .ok (a, u) ∧ f a u = .ok (b, t) := by
  cases hx : x s with
  | error r => simp [Bind.bind, StateT.bind, hx, Except.bind] at e
  | ok p => exact ⟨p.1, p.2, rfl, by simpa [Bind.bind, StateT.bind, hx, Except.bind] using e⟩

theorem isWord_rstr (h : Head) (a : SSrc) : IsWord (.rstr h a) := by
  refine .of_class rfl (fun s => exec_rstr s) (.rstr rfl rfl h a rfl fun s t e => ?_)
  obtain ⟨v, u, hr, e⟩ := bind_ok e
  obtain ⟨_, e⟩ := need_bind_ok e
  rw [get_bind] at e
  refine sameMemory_trans (keeps_readS s v u hr).1 ?_
  cases hi : imageFor u u.cur v with
  | none =>
    rw [hi] at e
    cases e
  | some p =>
    rw [hi] at e
    cases e
    exact sameMemory_trans (sameMemory_restoreAt ..) (sameMemory_updCore ..)

/-! ### Engine words with a body of their own -/

theorem isWord_vcvt (h : Head) (d : VDst) (b : VSrc) (m : Fin 8) (rm : RM) (ft : Fmt) (draw : Option (SSrc × SSrc)) :
    IsWord (.vcvt h d b m rm ft draw) := by
  rcases draw with _ | ⟨sg, sp⟩
  · exact .vword rfl (fun s => exec_vcvt s) rfl fun _ _ hR _ _ =>
      body_bind hR.toReadRel (body_tagCheck hR.toReadRel) fun _ => body_pure hR.toReadRel ()
  · exact .vword rfl (fun s => exec_vcvt s) rfl fun _ _ hR _ _ =>
      body_bind hR.toReadRel (body_tagCheck hR.toReadRel) fun _ => body_drawCheck hR.toReadRel

/-- Every instruction with an encoding is a word of one of the classes. -/
theorem isWord (i : Instr) (hi : (encodeRaw i).isSome = true) : IsWord i := by
  cases i with

  | nop => exact .seq rfl (fun s => exec_nop s) rfl fun _ _ hR => body_pure hR.toReadRel ()
  | br => exact .seq rfl (fun s => exec_br s) rfl fun _ _ hR => body_get_bind hR.toReadRel fun _ => body_branch hR
  | brc =>
    exact .seq rfl (fun s => exec_brc s) rfl fun _ _ hR => body_bind hR.toReadRel (body_readS hR.toReadRel) fun _ =>
      body_bind hR.toReadRel (body_readSI hR.toReadRel) fun _ => body_ite (body_get_bind hR.toReadRel fun _ =>
      body_branch hR) (body_pure hR.toReadRel ())
  | bri =>
    exact .seq rfl (fun s => exec_bri s) rfl fun _ _ hR => body_bind hR.toReadRel (body_readS hR.toReadRel) fun _ =>
      body_branchReg hR
  | call =>
    exact .seq rfl (fun s => exec_call s) rfl fun _ _ hR => body_get_bind hR.toReadRel fun _ => body_bind
      hR.toReadRel (body_seqResult hR) fun _ => body_branch hR
  | ret =>
    exact .seq rfl (fun s => exec_ret s) rfl fun _ _ hR => body_bind hR.toReadRel (body_readS hR.toReadRel) fun _ =>
      body_branchReg hR
  | loop =>
    exact .seq rfl (fun s => exec_loop s) rfl fun _ _ hR => body_bind hR.toReadRel (body_readS hR.toReadRel) fun _
      => body_bind hR.toReadRel (body_seqResult hR) fun _ => body_ite (body_get_bind hR.toReadRel fun _ => body_branch
      hR) (body_pure hR.toReadRel ())
  | wait => exact .ctl rfl (fun s => exec_wait s) rfl rfl (keeps_bind keeps_updMe fun _ => keeps_endBlock)
  | yield => exact .ctl rfl (fun s => exec_yield s) rfl rfl (keeps_endBlock)
  | exit =>
    exact .ctl rfl (fun s => exec_exit s) rfl rfl (keeps_bind keeps_updMe fun _ => keeps_bind (keeps_updSelf
      exit_lm) fun _ => keeps_endBlock)
  | beat => exact isWord_beat _
  | phase => exact isWord_phase _ _
  | lock =>
    exact .ctl rfl (fun s => exec_lock s) rfl rfl (keeps_bind keeps_get fun _ => keeps_ite (keeps_bind keeps_updMe
      fun _ => keeps_endBlock) (keeps_bind keeps_updMe fun _ => keeps_waitHere))
  | bara =>
    exact .ctl rfl (fun s => exec_bara s) rfl rfl (keeps_bind keeps_readSI fun _ => keeps_bind keeps_countOk fun _
      => keeps_bind keeps_get fun _ => keeps_bind keeps_seqResult fun _ => keeps_modify fun _ => same_arrive)
  | barw =>
    exact .ctl rfl (fun s => exec_barw s) rfl rfl (keeps_bind keeps_readSI fun _ => keeps_bind keeps_get fun _ =>
      keeps_ite (keeps_pure _) keeps_waitHere)
  | baraw =>
    exact .ctl rfl (fun s => exec_baraw s) rfl rfl (keeps_bind keeps_readSI fun _ => keeps_bind keeps_get fun _ =>
      keeps_ite keeps_waitHere (keeps_bind keeps_countOk fun _ => keeps_bind (keeps_modify fun _ => same_arrive) fun _
      => keeps_bind keeps_updMe fun _ => keeps_waitHere))
  | tokin => exact isWord_tokin _ _ _
  | tokout =>
    exact .ctl rfl (fun s => exec_tokout s) rfl rfl (keeps_bind keeps_readSI fun _ => keeps_bind keeps_readSI fun _
      => keeps_bind keeps_get fun _ => keeps_ite (keeps_modify fun _ => same_enterToken) keeps_waitHere)
  | stamp =>
    exact .ctl rfl (fun s => exec_stamp s) rfl rfl (keeps_bind keeps_readSI fun _ => keeps_bind keeps_get fun _ =>
      keeps_seqResult)
  | tsr => exact .ctl rfl (fun s => exec_tsr s) rfl rfl (keeps_bind keeps_get fun _ => keeps_result)
  | sleepc =>
    exact .ctl rfl (fun s => exec_sleepc s) rfl rfl (keeps_bind keeps_readS fun _ => keeps_bind keeps_get fun _ =>
      keeps_ite (keeps_pure _) keeps_waitHere)
  | sleepp =>
    exact .ctl rfl (fun s => exec_sleepp s) rfl rfl (keeps_bind keeps_readSI fun _ => keeps_bind keeps_readSI fun _
      => keeps_bind keeps_objIndex fun _ => keeps_bind keeps_get fun _ => keeps_bind keeps_failing fun _ => keeps_ite
      keeps_flipped (keeps_ite keeps_raise keeps_waitHere))
  | waitp =>
    exact .ctl rfl (fun s => exec_waitp s) rfl rfl (keeps_bind keeps_readSI fun _ => keeps_bind keeps_readSI fun _
      => keeps_bind keeps_objIndex fun _ => keeps_bind keeps_get fun _ => keeps_bind keeps_failing fun _ => keeps_ite
      keeps_flipped keeps_waitHere)
  | trap => exact .ctl rfl (fun s => exec_trap s) rfl rfl (keeps_raise)
  | rtt => exact .ctl rfl (fun s => exec_rtt s) rfl rfl (keeps_modify fun _ => same_returnTrap)
  | mfs => exact .ctl rfl (fun s => exec_mfs s) rfl rfl (keeps_bind keeps_get fun _ => keeps_seqResult)
  | mts =>
    exact .ctl rfl (fun s => exec_mts s) rfl rfl (keeps_bind keeps_need fun _ => keeps_bind keeps_readSI fun _ =>
      keeps_updSelf (writeSys_lm _ _))
  | loc =>
    exact .ctl rfl (fun s => exec_loc s) rfl rfl (keeps_bind keeps_readSI fun _ => keeps_bind keeps_get fun _ =>
      keeps_result)
  | fence => exact .ctl rfl (fun s => exec_fence s) rfl rfl (keeps_fence)
  | fsc => exact .ctl rfl (fun s => exec_fsc s) rfl rfl (keeps_fence)
  | mark => exact .ctl rfl (fun s => exec_mark s) rfl rfl (keeps_modify fun _ => same_updCore)
  | tfence => exact isWord_tfence _ _
  | rcfence => exact isWord_rcfence _ _
  | icfence => exact .ctl rfl (fun s => exec_icfence s) rfl rfl (keeps_pure _)
  | li => exact .seq rfl (fun s => exec_li s) rfl fun _ _ hR => body_scalar hR
  | mov =>
    exact .seq rfl (fun s => exec_mov s) rfl fun _ _ hR => body_bind hR.toReadRel (body_readSI hR.toReadRel) fun _
      => body_scalar hR
  | add => exact .scalar2 rfl (fun s => exec_add s) rfl
  | sub => exact .scalar2 rfl (fun s => exec_sub s) rfl
  | mul => exact .scalar2 rfl (fun s => exec_mul s) rfl
  | mulh => exact .scalar2 rfl (fun s => exec_mulh s) rfl
  | mulhu => exact .scalar2 rfl (fun s => exec_mulhu s) rfl
  | div => exact .scalar2 rfl (fun s => exec_div s) rfl
  | divu => exact .scalar2 rfl (fun s => exec_divu s) rfl
  | rem => exact .scalar2 rfl (fun s => exec_rem s) rfl
  | remu => exact .scalar2 rfl (fun s => exec_remu s) rfl
  | and => exact .scalar2 rfl (fun s => exec_and s) rfl
  | or => exact .scalar2 rfl (fun s => exec_or s) rfl
  | xor => exact .scalar2 rfl (fun s => exec_xor s) rfl
  | andn => exact .scalar2 rfl (fun s => exec_andn s) rfl
  | shl => exact .scalar2 rfl (fun s => exec_shl s) rfl
  | shr => exact .scalar2 rfl (fun s => exec_shr s) rfl
  | sar => exact .scalar2 rfl (fun s => exec_sar s) rfl
  | rol => exact .scalar2 rfl (fun s => exec_rol s) rfl
  | clz => exact .scalar1 rfl (fun s => exec_clz s) rfl
  | ctz => exact .scalar1 rfl (fun s => exec_ctz s) rfl
  | popc => exact .scalar1 rfl (fun s => exec_popc s) rfl
  | abs => exact .scalar1 rfl (fun s => exec_abs s) rfl
  | min => exact .scalar2 rfl (fun s => exec_min s) rfl
  | max => exact .scalar2 rfl (fun s => exec_max s) rfl
  | minu => exact .scalar2 rfl (fun s => exec_minu s) rfl
  | maxu => exact .scalar2 rfl (fun s => exec_maxu s) rfl
  | sel =>
    exact .seq rfl (fun s => exec_sel s) rfl fun _ _ hR => body_get_bind hR.toReadRel fun _ => body_bind
      hR.toReadRel (body_readS hR.toReadRel) fun _ => body_bind hR.toReadRel (body_readSI hR.toReadRel) fun _ =>
      body_scalar hR
  | cmp =>
    exact .seq rfl (fun s => exec_cmp s) rfl fun _ _ hR => body_bind hR.toReadRel (body_readS hR.toReadRel) fun _ =>
      body_bind hR.toReadRel (body_readSI hR.toReadRel) fun _ => body_result hR
  | sext => exact .scalar1 rfl (fun s => exec_sext s) rfl
  | zext => exact .scalar1 rfl (fun s => exec_zext s) rfl
  | aidx => exact .scalar2 rfl (fun s => exec_aidx s) rfl
  | bfx => exact .scalar1 rfl (fun s => exec_bfx s) rfl
  | bfi => exact .scalar2 rfl (fun s => exec_bfi s) rfl
  | pand => exact .pred2 rfl (fun s => exec_pand s) rfl
  | por => exact .pred2 rfl (fun s => exec_por s) rfl
  | pxor => exact .pred2 rfl (fun s => exec_pxor s) rfl
  | pnot => exact .pred2 rfl (fun s => exec_pnot s) rfl
  | pmov => exact .seq rfl (fun s => exec_pmov s) rfl fun _ _ hR => body_get_bind hR.toReadRel fun _ => body_result hR
  | fcnt => exact .seq rfl (fun s => exec_fcnt s) rfl fun _ _ hR => body_get_bind hR.toReadRel fun _ => body_scalar hR
  | fdrop =>
    exact .eng rfl (fun s => exec_fdrop s) rfl fun _ _ hR => body_fifoMap hR (fun l => List.tail_suffix l) fun l =>
      List.tail_suffix l
  | fclr =>
    exact .eng rfl (fun s => exec_fclr s) rfl fun _ _ hR => body_fifoMap hR (fun l => List.nil_suffix) fun l =>
      List.nil_suffix
  | vadd => exact .vword rfl (fun s => exec_vadd s) rfl fun _ _ hR _ _ => body_satCheck hR.toReadRel
  | vsub => exact .vword rfl (fun s => exec_vsub s) rfl fun _ _ hR _ _ => body_satCheck hR.toReadRel
  | vmul => exact .vword rfl (fun s => exec_vmul s) rfl fun _ _ hR _ _ => body_satCheck hR.toReadRel
  | vfma => exact .vtagged rfl (fun s => exec_vfma s) rfl
  | vfms => exact .vtagged rfl (fun s => exec_vfms s) rfl
  | vnfma => exact .vtagged rfl (fun s => exec_vnfma s) rfl
  | vmin => exact .vtagged rfl (fun s => exec_vmin s) rfl
  | vmax => exact .vtagged rfl (fun s => exec_vmax s) rfl
  | vabs => exact .vtagged rfl (fun s => exec_vabs s) rfl
  | vneg => exact .vtagged rfl (fun s => exec_vneg s) rfl
  | vclamp => exact .vtagged rfl (fun s => exec_vclamp s) rfl
  | vcmp => exact .vtagged rfl (fun s => exec_vcmp s) rfl
  | vsel => exact .vword rfl (fun s => exec_vsel s) rfl fun _ _ hR _ _ => body_selCheck hR.toReadRel
  | vand => exact .vraw rfl (fun s => exec_vand s) rfl
  | vor => exact .vraw rfl (fun s => exec_vor s) rfl
  | vxor => exact .vraw rfl (fun s => exec_vxor s) rfl
  | vnot => exact .vraw rfl (fun s => exec_vnot s) rfl
  | vshl => exact .vtagged rfl (fun s => exec_vshl s) rfl
  | vshr => exact .vtagged rfl (fun s => exec_vshr s) rfl
  | vsar => exact .vtagged rfl (fun s => exec_vsar s) rfl
  | vmulh => exact .vtagged rfl (fun s => exec_vmulh s) rfl
  | vclz => exact .vtagged rfl (fun s => exec_vclz s) rfl
  | vpopc => exact .vtagged rfl (fun s => exec_vpopc s) rfl
  | vcvt => exact isWord_vcvt _ _ _ _ _ _ _
  | vtag => exact .vraw rfl (fun s => exec_vtag s) rfl
  | vround => exact .vtagged rfl (fun s => exec_vround s) rfl
  | vpack => exact .vtagged rfl (fun s => exec_vpack s) rfl
  | vunpkl => exact .vtagged rfl (fun s => exec_vunpkl s) rfl
  | vunpkh => exact .vtagged rfl (fun s => exec_vunpkh s) rfl
  | vblks => exact .vword rfl (fun s => exec_vblks s) rfl fun _ _ hR _ _ => body_tagCheck hR.toReadRel
  | vblkg => exact .vword rfl (fun s => exec_vblkg s) rfl fun _ _ hR _ _ => body_tagCheck hR.toReadRel
  | vacc12 =>
    exact .vword rfl (fun s => exec_vacc12 s) rfl fun _ _ hR _ _ => body_bind hR.toReadRel (body_tagCheck
      hR.toReadRel) fun _ => body_drawCheck hR.toReadRel
  | vdot2 => exact .vword rfl (fun s => exec_vdot2 s) rfl fun _ _ hR _ _ => body_dotCheck hR.toReadRel
  | vdot4 => exact .vword rfl (fun s => exec_vdot4 s) rfl fun _ _ hR _ _ => body_dotCheck hR.toReadRel
  | vdot8 => exact .vword rfl (fun s => exec_vdot8 s) rfl fun _ _ hR _ _ => body_dotCheck hR.toReadRel
  | vrotr => exact .vword rfl (fun s => exec_vrotr s) rfl fun _ _ hR _ _ => body_pure hR.toReadRel ()
  | vrotc => exact .vword rfl (fun s => exec_vrotc s) rfl fun _ _ hR _ _ => body_pure hR.toReadRel ()
  | vbcr => exact .vword rfl (fun s => exec_vbcr s) rfl fun _ _ hR _ _ => body_belowCheck hR.toReadRel
  | vbcc => exact .vword rfl (fun s => exec_vbcc s) rfl fun _ _ hR _ _ => body_belowCheck hR.toReadRel
  | vredr => exact .vword rfl (fun s => exec_vredr s) rfl fun _ _ hR _ _ => body_redCheck hR.toReadRel
  | vredc => exact .vword rfl (fun s => exec_vredc s) rfl fun _ _ hR _ _ => body_redCheck hR.toReadRel
  | vscanr => exact .vword rfl (fun s => exec_vscanr s) rfl fun _ _ hR _ _ => body_redCheck hR.toReadRel
  | vscanc => exact .vword rfl (fun s => exec_vscanc s) rfl fun _ _ hR _ _ => body_redCheck hR.toReadRel
  | vshfr => exact .vraw rfl (fun s => exec_vshfr s) rfl
  | vtrb => exact .vraw rfl (fun s => exec_vtrb s) rfl
  | viota => exact .vword rfl (fun s => exec_viota s) rfl fun _ _ hR _ _ => body_pure hR.toReadRel ()
  | vmov => exact .vraw rfl (fun s => exec_vmov s) rfl
  | vsplat => exact .vword rfl (fun s => exec_vsplat s) rfl fun _ _ hR _ _ => body_pure hR.toReadRel ()
  | vext => exact .vword rfl (fun s => exec_vext s) rfl fun _ _ hR _ _ => body_indexCheck hR.toReadRel
  | vins => exact .vword rfl (fun s => exec_vins s) rfl fun _ _ hR _ _ => body_indexCheck hR.toReadRel
  | vrng => exact .vword rfl (fun s => exec_vrng s) rfl fun _ _ hR _ _ => body_drawCheck hR.toReadRel
  | vdrop =>
    exact .vword rfl (fun s => exec_vdrop s) rfl fun _ _ hR _ _ => body_bind hR.toReadRel (body_tagCheck
      hR.toReadRel) fun _ => body_drawCheck hR.toReadRel
  | mand => exact .vraw rfl (fun s => exec_mand s) rfl
  | mor => exact .vraw rfl (fun s => exec_mor s) rfl
  | mxor => exact .vraw rfl (fun s => exec_mxor s) rfl
  | mnot => exact .vraw rfl (fun s => exec_mnot s) rfl
  | mcnt => exact .vraw rfl (fun s => exec_mcnt s) rfl
  | mfirst => exact .vraw rfl (fun s => exec_mfirst s) rfl
  | ldv =>
    exact .memWord rfl (fun s => exec_ldv s) rfl fun _ _ hR => body_bind hR.toReadRel (body_readRef hR.toReadRel)
      fun _ => body_bind hR.toReadRel (body_readSI hR.toReadRel) fun _ => body_bind hR.toReadRel (body_readRep
      hR.toReadRel) fun _ => body_bind hR.toReadRel (body_aligned hR.toReadRel) fun _ => body_bind hR.toReadRel
      (body_refOk hR.toReadRel) fun _ => body_captured hR.toReadRel
  | stv =>
    exact .memWord rfl (fun s => exec_stv s) rfl fun _ _ hR => body_bind hR.toReadRel (body_readV hR) fun _ =>
      body_bind hR.toReadRel (body_readRef hR.toReadRel) fun _ => body_bind hR.toReadRel (body_readSI hR.toReadRel)
      fun _ => body_bind hR.toReadRel (body_readRep hR.toReadRel) fun _ => body_bind hR.toReadRel (body_storeTag
      hR.toReadRel) fun _ => body_bind hR.toReadRel (body_aligned hR.toReadRel) fun _ => body_bind hR.toReadRel
      (body_refOk hR.toReadRel) fun _ => body_captured hR.toReadRel
  | ldvt =>
    exact .memWord rfl (fun s => exec_ldvt s) rfl fun _ _ hR => body_bind hR.toReadRel (body_readRef hR.toReadRel)
      fun _ => body_bind hR.toReadRel (body_readS hR.toReadRel) fun _ => body_bind hR.toReadRel (body_refOk
      hR.toReadRel) fun _ => body_captured hR.toReadRel
  | ldvg =>
    exact .memWord rfl (fun s => exec_ldvg s) rfl fun _ _ hR => body_bind hR.toReadRel (body_readRef hR.toReadRel)
      fun _ => body_bind hR.toReadRel (body_readSrc hR) fun _ => body_bind hR.toReadRel (body_readSI hR.toReadRel) fun
      _ => body_bind hR.toReadRel (body_need hR.toReadRel (by decide)) fun _ => body_bind hR.toReadRel (body_refOk
      hR.toReadRel) fun _ => body_captured hR.toReadRel
  | stvs =>
    exact .memWord rfl (fun s => exec_stvs s) rfl fun _ _ hR => body_bind hR.toReadRel (body_readV hR) fun _ =>
      body_bind hR.toReadRel (body_readRef hR.toReadRel) fun _ => body_bind hR.toReadRel (body_readSrc hR) fun _ =>
      body_bind hR.toReadRel (body_readSI hR.toReadRel) fun _ => body_bind hR.toReadRel (body_storeTag hR.toReadRel)
      fun _ => body_bind hR.toReadRel (body_need hR.toReadRel (by decide)) fun _ => body_bind hR.toReadRel (body_refOk
      hR.toReadRel) fun _ => body_captured hR.toReadRel
  | ldsc =>
    exact .memWord rfl (fun s => exec_ldsc s) rfl fun _ _ hR => body_bind hR.toReadRel (body_readRef hR.toReadRel)
      fun _ => body_bind hR.toReadRel (body_readSI hR.toReadRel) fun _ => body_bind hR.toReadRel (body_readRep
      hR.toReadRel) fun _ => body_bind hR.toReadRel (body_aligned hR.toReadRel) fun _ => body_bind hR.toReadRel
      (body_refOk hR.toReadRel) fun _ => body_captured hR.toReadRel
  | stsc =>
    exact .memWord rfl (fun s => exec_stsc s) rfl fun _ _ hR => body_bind hR.toReadRel (body_readS hR.toReadRel) fun
      _ => body_bind hR.toReadRel (body_readRef hR.toReadRel) fun _ => body_bind hR.toReadRel (body_readSI
      hR.toReadRel) fun _ => body_bind hR.toReadRel (body_aligned hR.toReadRel) fun _ => body_bind hR.toReadRel
      (body_refOk hR.toReadRel) fun _ => body_captured hR.toReadRel
  | lda =>
    exact .memWord rfl (fun s => exec_lda s) rfl fun _ _ hR => body_bind hR.toReadRel (body_readRef hR.toReadRel)
      fun _ => body_bind hR.toReadRel (body_readSI hR.toReadRel) fun _ => body_bind hR.toReadRel (body_aligned
      hR.toReadRel) fun _ => body_bind hR.toReadRel (body_refOk hR.toReadRel) fun _ => body_bind hR.toReadRel
      (body_acquire hR) fun _ => body_captured hR.toReadRel
  | stl =>
    exact .memWord rfl (fun s => exec_stl s) rfl fun _ _ hR => body_bind hR.toReadRel (body_readS hR.toReadRel) fun
      _ => body_bind hR.toReadRel (body_readRef hR.toReadRel) fun _ => body_bind hR.toReadRel (body_readSI
      hR.toReadRel) fun _ => body_bind hR.toReadRel (body_aligned hR.toReadRel) fun _ => body_bind hR.toReadRel
      (body_refOk hR.toReadRel) fun _ => body_captured hR.toReadRel
  | ldm =>
    exact .memWord rfl (fun s => exec_ldm s) rfl fun _ _ hR => body_bind hR.toReadRel (body_readRef hR.toReadRel)
      fun _ => body_bind hR.toReadRel (body_readSI hR.toReadRel) fun _ => body_bind hR.toReadRel (body_readRep
      hR.toReadRel) fun _ => body_bind hR.toReadRel (body_aligned hR.toReadRel) fun _ => body_bind hR.toReadRel
      (body_refOk hR.toReadRel) fun _ => body_captured hR.toReadRel
  | stm =>
    exact .memWord rfl (fun s => exec_stm s) rfl fun _ _ hR => body_bind hR.toReadRel (body_readRef hR.toReadRel)
      fun _ => body_bind hR.toReadRel (body_readSI hR.toReadRel) fun _ => body_bind hR.toReadRel (body_readRep
      hR.toReadRel) fun _ => body_bind hR.toReadRel (body_aligned hR.toReadRel) fun _ => body_bind hR.toReadRel
      (body_refOk hR.toReadRel) fun _ => body_captured hR.toReadRel
  | amo =>
    exact .memWord rfl (fun s => exec_amo s) rfl fun _ _ hR => body_bind hR.toReadRel (body_readS hR.toReadRel) fun
      _ => body_bind hR.toReadRel (body_readSI hR.toReadRel) fun _ => body_bind hR.toReadRel (body_readCas
      hR.toReadRel) fun _ => body_bind hR.toReadRel (body_aligned hR.toReadRel) fun _ => body_ite (body_bind
      hR.toReadRel (body_acquire hR) fun _ => body_captured hR.toReadRel) (body_captured hR.toReadRel)
  | famo =>
    exact .memWord rfl (fun s => exec_famo s) rfl fun _ _ hR => body_bind hR.toReadRel (body_readS hR.toReadRel) fun
      _ => body_bind hR.toReadRel (body_readSI hR.toReadRel) fun _ => body_bind hR.toReadRel (body_readS hR.toReadRel)
      fun _ => body_bind hR.toReadRel (body_aligned hR.toReadRel) fun _ => body_bind hR.toReadRel (body_need
      hR.toReadRel (by decide)) fun _ => body_ite (body_bind hR.toReadRel (body_acquire hR) fun _ => body_captured
      hR.toReadRel) (body_captured hR.toReadRel)
  | amor =>
    exact .memWord rfl (fun s => exec_amor s) rfl fun _ _ hR => body_bind hR.toReadRel (body_readS hR.toReadRel) fun
      _ => body_bind hR.toReadRel (body_readSI hR.toReadRel) fun _ => body_bind hR.toReadRel (body_readCas
      hR.toReadRel) fun _ => body_bind hR.toReadRel (body_aligned hR.toReadRel) fun _ => body_captured hR.toReadRel
  | red =>
    exact .memWord rfl (fun s => exec_red s) rfl fun _ _ hR => body_bind hR.toReadRel (body_readV hR) fun _ =>
      body_bind hR.toReadRel (body_readRef hR.toReadRel) fun _ => body_bind hR.toReadRel (body_readSI hR.toReadRel)
      fun _ => body_bind hR.toReadRel (body_need hR.toReadRel (by decide)) fun _ => body_bind hR.toReadRel
      (body_aligned hR.toReadRel) fun _ => body_bind hR.toReadRel (body_refOk hR.toReadRel) fun _ => body_captured
      hR.toReadRel
  | updr =>
    exact .memWord rfl (fun s => exec_updr s) rfl fun _ _ hR => body_bind hR.toReadRel (body_readV hR) fun _ =>
      body_bind hR.toReadRel (body_readRef hR.toReadRel) fun _ => body_bind hR.toReadRel (body_readS hR.toReadRel) fun
      _ => body_bind hR.toReadRel (body_need hR.toReadRel (by decide)) fun _ => body_bind hR.toReadRel (body_need
      hR.toReadRel (by decide)) fun _ => body_bind hR.toReadRel (body_refOk hR.toReadRel) fun _ => body_bind
      hR.toReadRel (body_need hR.toReadRel (by decide)) fun _ => body_captured hR.toReadRel
  | boarm =>
    exact .memWord rfl (fun s => exec_boarm s) rfl fun _ _ hR => body_bind hR.toReadRel (body_readRef hR.toReadRel)
      fun _ => body_bind hR.toReadRel (body_readSI hR.toReadRel) fun _ => body_bind hR.toReadRel (body_refOk
      hR.toReadRel) fun _ => body_bind hR.toReadRel (body_need hR.toReadRel (by decide)) fun _ => body_captured
      hR.toReadRel
  | boclr =>
    exact .memWord rfl (fun s => exec_boclr s) rfl fun _ _ hR => body_bind hR.toReadRel (body_readRef hR.toReadRel)
      fun _ => body_bind hR.toReadRel (body_refOk hR.toReadRel) fun _ => body_captured hR.toReadRel
  | bord =>
    exact .memWord rfl (fun s => exec_bord s) rfl fun _ _ hR => body_bind hR.toReadRel (body_readRef hR.toReadRel)
      fun _ => body_bind hR.toReadRel (body_refOk hR.toReadRel) fun _ => body_ite (body_bind hR.toReadRel
      (body_acquire hR) fun _ => body_captured hR.toReadRel) (body_captured hR.toReadRel)
  | cpy =>
    exact .copyWord rfl (fun s => exec_cpy s) rfl fun _ _ hR => body_bind hR.toReadRel (body_readRef hR.toReadRel)
      fun _ => body_bind hR.toReadRel (body_readLw hR.toReadRel) fun _ => body_bind hR.toReadRel (body_readLw
      hR.toReadRel) fun _ => body_bind hR.toReadRel (body_readRep hR.toReadRel) fun _ => body_bind hR.toReadRel
      (body_refOk hR.toReadRel) fun _ => body_bind hR.toReadRel (body_lwOk hR.toReadRel) fun _ => body_bind
      hR.toReadRel (body_lwOk hR.toReadRel) fun _ => body_captured hR.toReadRel
  | cpym => exact .maskWord rfl (fun s => exec_cpym s) rfl
  | cpyr => exact .pairWord rfl (fun s => exec_cpyr s) rfl
  | cpyd =>
    exact .copyWord rfl (fun s => exec_cpyd s) rfl fun _ _ hR => body_bind hR.toReadRel (body_readRef hR.toReadRel)
      fun _ => body_bind hR.toReadRel (body_readLw hR.toReadRel) fun _ => body_bind hR.toReadRel (body_readLw
      hR.toReadRel) fun _ => body_bind hR.toReadRel (body_readSI hR.toReadRel) fun _ => body_bind hR.toReadRel
      (body_aligned hR.toReadRel) fun _ => body_bind hR.toReadRel (body_refOk hR.toReadRel) fun _ => body_bind
      hR.toReadRel (body_lwOk hR.toReadRel) fun _ => body_bind hR.toReadRel (body_lwOk hR.toReadRel) fun _ =>
      body_captured hR.toReadRel
  | mlr => exact .pairWord rfl (fun s => exec_mlr s) rfl
  | mst => exact .maskWord rfl (fun s => exec_mst s) rfl
  | rls =>
    exact .copyWord rfl (fun s => exec_rls s) rfl fun _ _ hR => body_bind hR.toReadRel (body_readRef hR.toReadRel)
      fun _ => body_bind hR.toReadRel (body_readS hR.toReadRel) fun _ => body_bind hR.toReadRel (body_readSI
      hR.toReadRel) fun _ => body_bind hR.toReadRel (body_refOk hR.toReadRel) fun _ => body_bind hR.toReadRel
      (body_need hR.toReadRel (by decide)) fun _ => body_captured hR.toReadRel
  | acqw =>
    exact .copyWord rfl (fun s => exec_acqw s) rfl fun _ _ hR => body_bind hR.toReadRel (body_readRef hR.toReadRel)
      fun _ => body_bind hR.toReadRel (body_readFlag hR.toReadRel) fun _ => body_bind hR.toReadRel (body_readSI
      hR.toReadRel) fun _ => body_bind hR.toReadRel (body_refOk hR.toReadRel) fun _ => body_bind hR.toReadRel
      (body_need hR.toReadRel (by decide)) fun _ => body_captured hR.toReadRel
  | agset =>
    exact .copyWord rfl (fun s => exec_agset s) rfl fun _ _ hR => body_bind hR.toReadRel (body_readRef hR.toReadRel)
      fun _ => body_bind hR.toReadRel (body_readSI hR.toReadRel) fun _ => body_bind hR.toReadRel (body_readSI
      hR.toReadRel) fun _ => body_bind hR.toReadRel (body_aligned hR.toReadRel) fun _ => body_bind hR.toReadRel
      (body_refOk hR.toReadRel) fun _ => body_bind hR.toReadRel (body_need hR.toReadRel (by decide)) fun _ =>
      body_captured hR.toReadRel
  | xfwd => exact .arrayForm rfl (fun s => exec_xfwd s) rfl
  | xfwdb => exact .arrayForm rfl (fun s => exec_xfwdb s) rfl
  | xbwd => exact .arrayForm rfl (fun s => exec_xbwd s) rfl
  | xupd => exact .arrayForm rfl (fun s => exec_xupd s) rfl
  | xxfr => exact .arrayForm rfl (fun s => exec_xxfr s) rfl
  | xtopk => exact .arrayForm rfl (fun s => exec_xtopk s) rfl
  | xdist => exact .arrayForm rfl (fun s => exec_xdist s) rfl
  | xsym => exact .arrayForm rfl (fun s => exec_xsym s) rfl
  | xckr => exact .arrayForm rfl (fun s => exec_xckr s) rfl
  | xprg => exact .arrayForm rfl (fun s => exec_xprg s) rfl
  | xscrb => exact .arrayForm rfl (fun s => exec_xscrb s) rfl
  | xcal => exact .arrayForm rfl (fun s => exec_xcal s) rfl
  | xnorm => exact .arrayForm rfl (fun s => exec_xnorm s) rfl
  | xwset =>
    exact .ctl rfl (fun s => exec_xwset s) rfl rfl (keeps_bind keeps_readSI fun _ => keeps_bind keeps_need fun _ =>
      keeps_updSelf)
  | xgset => exact .arrayForm rfl (fun s => exec_xgset s) rfl
  | xfenceDrain =>
    exact .arrayWord rfl (fun s => exec_xfenceDrain s) rfl fun _ _ hR => body_bind hR.toReadRel (body_fenceArgs hR)
      fun _ => body_captured hR.toReadRel
  | xfenceHold =>
    exact .arrayWord rfl (fun s => exec_xfenceHold s) rfl fun _ _ hR => body_bind hR.toReadRel (body_fenceArgs hR)
      fun _ => body_bind hR.toReadRel (body_updSelf hR fun _ => rfl) fun _ => body_captured hR.toReadRel
  | xfenceRel =>
    exact .arrayWord rfl (fun s => exec_xfenceRel s) rfl fun _ _ hR => body_bind hR.toReadRel (body_fenceArgs hR)
      fun _ => body_bind hR.toReadRel (body_updSelf hR fun _ => rfl) fun _ => body_captured hR.toReadRel
  | xstat => exact .arrayForm rfl (fun s => exec_xstat s) rfl
  | fexp => exact .sfWord rfl (fun s => exec_fexp s) rfl
  | fexp2 => exact .sfWord rfl (fun s => exec_fexp2 s) rfl
  | flog => exact .sfWord rfl (fun s => exec_flog s) rfl
  | flog2 => exact .sfWord rfl (fun s => exec_flog2 s) rfl
  | frcp => exact .sfWord rfl (fun s => exec_frcp s) rfl
  | frsq => exact .sfWord rfl (fun s => exec_frsq s) rfl
  | fsqrt => exact .sfWord rfl (fun s => exec_fsqrt s) rfl
  | ftanh => exact .sfWord rfl (fun s => exec_ftanh s) rfl
  | fsig => exact .sfWord rfl (fun s => exec_fsig s) rfl
  | fgelu => exact .sfWord rfl (fun s => exec_fgelu s) rfl
  | fsilu => exact .sfWord rfl (fun s => exec_fsilu s) rfl
  | fsin => exact .sfWord rfl (fun s => exec_fsin s) rfl
  | fcos => exact .sfWord rfl (fun s => exec_fcos s) rfl
  | ferf => exact .sfWord rfl (fun s => exec_ferf s) rfl
  | fsmax => exact .sfWord rfl (fun s => exec_fsmax s) rfl
  | halt => exact .ctl rfl (fun s => exec_halt s) rfl rfl (keeps_updSelf)
  | snap =>
    exact .ctl rfl (fun s => exec_snap s) rfl rfl (keeps_bind keeps_readS fun _ => keeps_bind keeps_aligned fun _ =>
      keeps_updSelf)
  | rstr => exact isWord_rstr _ _
  | mtsp =>
    exact .ctl rfl (fun s => exec_mtsp s) rfl rfl (keeps_bind keeps_readSI fun _ => keeps_modify fun _ =>
      same_writePriv)
  | mfsp => exact .ctl rfl (fun s => exec_mfsp s) rfl rfl (keeps_bind keeps_get fun _ => keeps_seqResult)
  | idle => exact .ctl rfl (fun s => exec_idle s) rfl rfl (keeps_waitHere)
  | _ => cases hi


end Sys2Proof.Proofs

/-! What a word can do at all: the order in which it is refused (06 R93), and what it leaves of memory (02 R22). -/

namespace Sys2Proof.Proofs
open Sys2Proof Sys2Proof.Machine Sys2Proof.Laws

/-! ## The order of refusals -/

section Refusals
variable {i : Instr} {h : Head} {body : M Unit} {s : State}

theorem issue_held (hh : s.holdsOff (opcOf i) = true) : issue i h body s = .next s := by
  simp [issue, hh]

variable (hh : s.holdsOff (opcOf i) = false)
include hh

theorem issue_tileIllop (ht : tileIllop i s.self = true) :
    issue i h body s = .next (s.trapHere .illop 1 (wordHi i) s.me.pc) := by
  simp [issue, hh, ht, State.trapHere, State.onMe]

variable (ht : tileIllop i s.self = false)
include ht

theorem issue_unguarded (hg : s.me.guard h = false) : issue i h body s = .next (scheduled h s) := by
  simp [issue, hh, ht, hg]

variable (hg : s.me.guard h = true)
include hg

theorem issue_noResultRoom (hr : s.self.resultRoom (opcOf i) = false) : issue i h body s = .next s := by
  simp [issue, hh, ht, hg, hr]

variable (hr : s.self.resultRoom (opcOf i) = true)
include hr

theorem issue_priv (hp : privileged (opcOf i) = true) (hk : s.self.priv = false) :
    issue i h body s = .next (s.trapHere .priv 7 (wordHi i) s.me.pc) := by
  simp [issue, hh, ht, hg, hr, hp, hk, State.trapHere, State.onMe]

theorem issue_lendMissing (hp : privileged (opcOf i) = true → s.self.priv = true) {slot name : Nat}
    (hl : lendMissing i s.self = some (slot, name)) :
    issue i h body s = .next (s.trapHere .lendx slot (BitVec.ofNat 64 name) s.me.pc) := by
  have hn : (privileged (opcOf i) && !s.self.priv) = false := by
    cases hq : privileged (opcOf i) with
    | false => rfl
    | true => simp [hp hq]
  simp [issue, hh, ht, hg, hr, hn, hl, State.trapHere, State.onMe]

end Refusals

theorem opcOf_eq {i : Instr} {r : Raw} (hr : encodeRaw i = some r) : opcOf i = r.opc := by
  simp [opcOf, hr]

theorem isWord_of_encodeRaw {i : Instr} {r : Raw} (hr : encodeRaw i = some r) : IsWord i :=
  isWord i (by rw [hr]; rfl)

/-- A word issues under its header. -/
theorem exec_word {i : Instr} {r : Raw} (hr : encodeRaw i = some r) :
    ∃ body, (∀ s, exec i s = issue i (rawHead r) body s) ∧ WordClass i body := by
  obtain ⟨h, body, hh, hx, hc⟩ := isWord_of_encodeRaw hr
  rw [hh r hr]
  exact ⟨body, hx, hc⟩

/-- Settles O45, by the branches of the issue in their order. -/
theorem wordsAreRefusedInOrder : Obligations.WordsAreRefusedInOrder := by
  intro i r s hr
  obtain ⟨body, hx, _⟩ := exec_word hr
  obtain ⟨t, ht, _⟩ := issue_outcome i (rawHead r) body s
  rw [hx s, ← opcOf_eq hr]
  exact ⟨issue_held, fun hh => ⟨issue_tileIllop hh, fun ht hg => issue_unguarded hh ht hg, fun ht hg =>
    ⟨issue_noResultRoom hh ht hg, fun hr hp hk => issue_priv hh ht hg hr hp hk,
      fun hr hp slot name hl => issue_lendMissing hh ht hg hr hp hl⟩⟩, t, ht⟩

/-! ## Memory -/

theorem seqRel_sameStore : SeqRel SameStore (fun _ => True) where
  refl := .refl
  trans := .trans
  fifo _ _ _ _ := same_updCore
  trap _ _ _ _ := trivial
  jump _ _ := same_updCore
  emit _ _ _ _ _ := same_updCore

theorem queueChange_lm {x y : Core} (h : QueueChange x y) : y.lm = x.lm := by rw [h]

theorem engRel_sameStore : EngRel SameStore (fun _ => True) where
  toReadRel := seqRel_sameStore.toReadRel
  file _ _ _ _ := same_setVFifo
  queue _ _ hf := same_updCore fun k => queueChange_lm (hf k)
  acquired _ := same_updCore
  hold := trivial
  uce _ _ := trivial

theorem keeps_of_body {body : M Unit} (hb : Body SameStore (fun _ => True) body) : Keeps body := fun _ _ _ e => hb.ok e

/-- A word that is no RSTR leaves memory and every byte of LM. -/
theorem word_sameStore {i : Instr} {r : Raw} (hr : encodeRaw i = some r) (hi : ∀ (h : Head) (a : SSrc), i ≠ .rstr h a)
    {s t : State} (e : exec i s = .next t) : SameStore s t := by
  obtain ⟨body, hx, hc⟩ := exec_word hr
  rw [hx] at e
  cases hc with
  | seq _ hb => exact issue_same (keeps_of_body (hb _ _ seqRel_sameStore)) e
  | eng _ hb => exact issue_same (keeps_of_body (hb _ _ engRel_sameStore)) e
  | ctl _ _ hb => exact issue_same hb e
  | rstr _ _ h a hrstr _ => exact absurd hrstr (hi h a)

/-- A word whose body leaves memory as it is does so whatever becomes of it. -/
theorem issue_sameMemory {i : Instr} {h : Head} {body : M Unit} (hb : KeepsMemory body) {s t : State}
    (e : issue i h body s = .next t) : s.sameMemory t := by
  have htrap : ∀ (code : Code) (slot : Nat) (tval epc : W64), s.sameMemory (s.trapHere code slot tval epc) := fun _ _ _ _ =>
    (same_updBerth.trans same_takeTrap).1
  cases outcome_of_issue e with
  | stays e => rw [e]; exact (SameStore.refl s).1
  | dropped e => rw [e]; exact same_scheduled.1
  | refused _ _ _ _ e => rw [e]; exact htrap ..
  | ran e => exact sameMemory_trans same_scheduled.1 (hb _ _ e)
  | met _ _ _ e => rw [e]; exact sameMemory_updCore ..
  | trapped _ _ _ _ _ _ e => rw [e]; exact htrap ..

/-- Every word leaves memory, the tile pairs, flash and CYC as they are. -/
theorem word_sameMemory {i : Instr} {r : Raw} (hr : encodeRaw i = some r) {s t : State} (e : exec i s = .next t) :
    s.sameMemory t := by
  by_cases hi : ∀ (h : Head) (a : SSrc), i ≠ .rstr h a
  · exact (word_sameStore hr hi e).1
  · obtain ⟨body, hx, hc⟩ := exec_word hr
    rw [hx] at e
    cases hc with
    | rstr _ _ _ _ _ hb => exact issue_sameMemory hb e
    | seq _ hb => exact (issue_same (keeps_of_body (hb _ _ seqRel_sameStore)) e).1
    | eng _ hb => exact (issue_same (keeps_of_body (hb _ _ engRel_sameStore)) e).1
    | ctl _ _ hb => exact (issue_same hb e).1

/-- Settles O49: the parts of bodies leave memory, RSTR's body by `sameMemory_restoreAt`. -/
theorem wordsLeaveMemory : Obligations.WordsLeaveMemory := fun _ _ _ _ hr e =>
  ⟨word_sameMemory hr e, fun hi => (word_sameStore hr hi e).2⟩

end Sys2Proof.Proofs

/-! Frames of the issue and of reading operands (02 R22, 03 R29, 06 R93). -/

namespace Sys2Proof.Proofs
open Sys2Proof Sys2Proof.Machine Sys2Proof.Laws

/-! ## Changes of the issuing core alone -/

/-- The change of a berth of a core shows at that berth alone. -/
theorem Core.berth_updBerth_if (k : Core) (b b' : BerthId) (f : Berth → Berth) :
    (k.updBerth b f).berth b' = if b = b' then f (k.berth b) else k.berth b' := Core.berth_setBerth_if ..

theorem onlyCore_updCore (s : State) (f : Core → Core) : OnlyCore s.cur s (s.updCore s.cur f) := by
  unfold OnlyCore
  rw [State.core_updCore]
  rfl

/-- A change of the issuing core is quiet where its sequencer and queues alone change, and of its berths the place. -/
theorem quiet_onSelf {s : State} {f : Core → Core} (hk : SameRegs s.self (f s.self))
    (hb : ∀ b, SameBerth (s.self.berth b) ((f s.self).berth b)) : Quiet s (s.onSelf f) :=
  ⟨onlyCore_updCore s f, by rwa [onSelf_self], by rwa [onSelf_self]⟩

/-- The same where the place of the running berth changes besides the core's sequencer. -/
theorem quiet_place {s : State} (F : Core → Core) (g : Berth → Berth) (hF : ∀ k, SameRegs k (F k))
    (hb : ∀ k, (F k).berths = k.berths) (hg : ∀ x, SameBerth x (g x)) :
    Quiet s (s.onSelf (fun k => F (k.updBerth k.cur g))) := by
  refine quiet_onSelf ((hF _).trans rfl) fun b' => ?_
  have e : (F (s.self.updBerth s.self.cur g)).berth b' = (s.self.updBerth s.self.cur g).berth b' := by
    unfold Core.berth
    rw [hb]
  rw [e, Core.berth_updBerth_if]
  split
  case isTrue h => exact h ▸ hg _
  case isFalse => exact Eq.refl _

theorem quiet_scheduled (h : Head) (s : State) : Quiet s (scheduled h s) :=
  quiet_place (fun k => { k with running := !h.yld, issued := 1, serial := k.serial + 1 })
    (fun x => { x with pc := x.pc + 16, setter := x.pc, stall := h.stall.val, entering := none })
    (fun _ => Eq.refl _) (fun _ => rfl) fun _ => Eq.refl _

theorem quiet_jump (s : State) (a : W64) : Quiet s (s.jump a) := by
  have h : s.jump a = s.onSelf (fun k => k.updBerth k.cur (fun x => { x with pc := a, stall := max x.stall 1 })) := rfl
  rw [h]
  exact quiet_place id _ (fun _ => Eq.refl _) (fun _ => rfl) fun _ => Eq.refl _

theorem quiet_park (s : State) (w : Wait) : Quiet s (s.park w) :=
  quiet_place (fun k => { k with running := false }) (fun x => { x with pc := x.setter, wait := w })
    (fun _ => Eq.refl _) (fun _ => rfl) fun _ => Eq.refl _

theorem quiet_emit (s : State) (unit : ResUnit) (dst : Dst) (v : RVal) (lat : Nat) : Quiet s (s.emit unit dst v lat) := by
  refine quiet_onSelf ?_ fun _ => ?_ <;> exact Eq.refl _

theorem quiet_rest (s : State) : Quiet s s.rest := by
  refine quiet_onSelf ?_ fun _ => ?_ <;> exact Eq.refl _

theorem quiet_toVxe (s : State) (i : Instr) (xs : List VArg) (vals : List W64) : Quiet s (s.toVxe i xs vals) := by
  refine quiet_onSelf ?_ fun _ => ?_ <;> exact Eq.refl _

/-- A queue entry changes no register of its core, and no berth. -/
theorem queueChange_berth {x y : Core} (h : QueueChange x y) (b : BerthId) : y.berth b = x.berth b := by rw [h]; rfl

theorem quiet_toMem (s : State) (q : QEntry) : Quiet s (s.toMem q) := by
  refine quiet_onSelf ?_ fun b => ?_
  · unfold Core.memQueue
    dsimp only
    split
    · exact Eq.refl _
    · exact Eq.refl _
  · rw [queueChange_berth (memQueue_queueChange s.self q)]
    exact Eq.refl _

theorem quiet_toCopy (s : State) (i : Instr) (q : QEntry) : Quiet s (s.toCopy i q) := by
  refine quiet_onSelf ?_ fun _ => ?_ <;> exact Eq.refl _

theorem quiet_toArray (s : State) (i : Instr) (q : QEntry) : Quiet s (s.toArray i q) := by
  refine quiet_onSelf ?_ fun _ => ?_ <;> exact Eq.refl _

theorem quiet_toSf (s : State) (i : Instr) (q : QEntry) : Quiet s (s.toSf i q) := by
  refine quiet_onSelf ?_ fun _ => ?_ <;> exact Eq.refl _

/-! ## Frames of the outcomes -/

/-- What a branch, a scalar word or a predicate word leaves: its own core's sequencer, results in flight and scalar FIFOs change. -/
def SeqFrame (s t : State) : Prop :=
  OnlyCore s.cur s t ∧ Issued s.self t.self ∧
  t.self = { s.self with
    berths := t.self.berths, running := t.self.running, issued := t.self.issued, serial := t.self.serial, skip := t.self.skip,
    inflight := t.self.inflight } ∧
  s.self.inflight <+: t.self.inflight

/-- What a word of an engine leaves: besides these the queues, accounts and holds of its core and main-file names change. -/
def EngFrame (s t : State) : Prop :=
  t = { s with cores := t.cores } ∧ Issued s.self t.self ∧ t.self.inflight = s.self.inflight ∧
  (∀ c : CoreId, c ≠ s.cur → t.core c = { s.core c with file := (t.core c).file }) ∧
  ∀ (c : CoreId) (n : Fin 256), (t.core c).file.get n <:+ (s.core c).file.get n

theorem issued_refl (x : Core) : Issued x x := ⟨Eq.refl _, fun _ _ => rfl, Eq.refl _, fun _ => List.suffix_refl _⟩

theorem issued_cur {x y : Core} (h : Issued x y) : y.cur = x.cur := by rw [h.1]

theorem issued_trans {x y z : Core} (h : Issued x y) (k : Issued y z) : Issued x z := by
  have hcur := issued_cur h
  obtain ⟨h1, h2, h3, h4⟩ := h
  obtain ⟨k1, k2, k3, k4⟩ := k
  rw [hcur] at k2 k3 k4
  exact ⟨k1.trans (by rw [h1]), fun b hb => (k2 b hb).trans (h2 b hb), k3.trans (by rw [h3]), fun n => (k4 n).trans (h4 n)⟩

theorem setCore_setCore (s : State) (c : CoreId) (x y : Core) : (s.setCore c x).setCore c y = s.setCore c y := by
  simp [State.setCore]

theorem setCore_core (s : State) (c : CoreId) : s.setCore c (s.core c) = s := by
  simp [State.setCore, State.core, get_eq]

theorem onlyCore_trans {s t u : State} (h : OnlyCore s.cur s t) (k : OnlyCore t.cur t u) : OnlyCore s.cur s u := by
  have hcur : t.cur = s.cur := by rw [h]; rfl
  unfold OnlyCore at h k ⊢
  rw [hcur] at k
  rw [k, State.core_setCore, h, setCore_setCore]

theorem SeqFrame.trans {s t u : State} (h : SeqFrame s t) (k : SeqFrame t u) : SeqFrame s u := by
  obtain ⟨h1, h2, h3, h4⟩ := h
  obtain ⟨k1, k2, k3, k4⟩ := k
  exact ⟨onlyCore_trans h1 k1, issued_trans h2 k2, k3.trans (by rw [h3]), h4.trans k4⟩

theorem EngFrame.trans {s t u : State} (h : EngFrame s t) (k : EngFrame t u) : EngFrame s u := by
  obtain ⟨h1, h2, h3, h4, h5⟩ := h
  obtain ⟨k1, k2, k3, k4, k5⟩ := k
  have hcur : t.cur = s.cur := by rw [h1]
  rw [hcur] at k4
  exact ⟨k1.trans (by rw [h1]), issued_trans h2 k2, k3.trans h3, fun c hc => (k4 c hc).trans (by rw [h4 c hc]),
    fun c n => (k5 c n).trans (h5 c n)⟩

section Frames
variable {s : State} {f : Core → Core}

theorem seqFrame_onSelf (hi : Issued s.self (f s.self))
    (hk : f s.self = { s.self with
      berths := (f s.self).berths, running := (f s.self).running, issued := (f s.self).issued, serial := (f s.self).serial,
      skip := (f s.self).skip, inflight := (f s.self).inflight })
    (hp : s.self.inflight <+: (f s.self).inflight) : SeqFrame s (s.onSelf f) := by
  refine ⟨onlyCore_updCore s f, ?_⟩
  rw [onSelf_self]
  exact ⟨hi, hk, hp⟩

theorem engFrame_onSelf (hi : Issued s.self (f s.self)) (hq : (f s.self).inflight = s.self.inflight)
    (hf : (f s.self).file = s.self.file) : EngFrame s (s.onSelf f) := by
  refine ⟨rfl, by rwa [onSelf_self], by rwa [onSelf_self], fun c hc => ?_, fun c n => ?_⟩
  · rw [State.onSelf, State.core_updCore_ne _ _ _ _ (Ne.symm hc)]
  · rw [State.onSelf, State.core_updCore_if]
    split
    case isTrue h => rw [← h]; exact (congrArg (fun v => v.get n) hf).symm ▸ List.suffix_refl _
    case isFalse => exact List.suffix_refl _

/-- A change of the running berth's place, wait, fences and trap registers, in which entries of FIFOs only leave. -/
theorem issued_berth {F : Core → Core} {g : Berth → Berth}
    (hF : ∀ k, F k = { k with running := (F k).running, issued := (F k).issued, serial := (F k).serial, skip := (F k).skip })
    (hg : g s.me = { s.me with
      pc := (g s.me).pc, setter := (g s.me).setter, stall := (g s.me).stall, wait := (g s.me).wait,
      entering := (g s.me).entering, s := (g s.me).s, fences := (g s.me).fences, tcode := (g s.me).tcode,
      tslot := (g s.me).tslot, tval := (g s.me).tval, epc := (g s.me).epc, handlers := (g s.me).handlers })
    (hs : ∀ n, (g s.me).s.get n <:+ s.me.s.get n) : Issued s.self (F (s.self.updBerth s.self.cur g)) := by
  have hb : ∀ b, (F (s.self.updBerth s.self.cur g)).berth b = (s.self.updBerth s.self.cur g).berth b := fun b => by
    rw [hF]
    rfl
  refine ⟨by rw [hF]; rfl, fun b hne => ?_, ?_, fun n => ?_⟩
  · rw [hb, Core.berth_updBerth_if, if_neg (Ne.symm hne)]
  · rw [hb, Core.berth_updBerth]
    exact hg
  · rw [hb, Core.berth_updBerth]
    exact hs n

/-- A change of the place of the running berth and of its core's sequencer lies in both frames. -/
theorem frames_berth (F : Core → Core) (g : Berth → Berth)
    (hF : ∀ k, F k = { k with running := (F k).running, issued := (F k).issued, serial := (F k).serial, skip := (F k).skip })
    (hg : g s.me = { s.me with
      pc := (g s.me).pc, setter := (g s.me).setter, stall := (g s.me).stall, wait := (g s.me).wait,
      entering := (g s.me).entering, s := (g s.me).s, fences := (g s.me).fences, tcode := (g s.me).tcode,
      tslot := (g s.me).tslot, tval := (g s.me).tval, epc := (g s.me).epc, handlers := (g s.me).handlers })
    (hs : ∀ n, (g s.me).s.get n <:+ s.me.s.get n) :
    SeqFrame s (s.onSelf (fun k => F (k.updBerth k.cur g))) ∧ EngFrame s (s.onSelf (fun k => F (k.updBerth k.cur g))) := by
  have hi := issued_berth hF hg hs
  have hq : (F (s.self.updBerth s.self.cur g)).inflight = s.self.inflight := by rw [hF]; rfl
  refine ⟨seqFrame_onSelf hi (by rw [hF]; rfl) (by rw [hq]), engFrame_onSelf hi hq (by rw [hF]; rfl)⟩

end Frames

/-! ## The parts of bodies -/

theorem frames_scheduled (h : Head) (s : State) : SeqFrame s (scheduled h s) ∧ EngFrame s (scheduled h s) :=
  frames_berth (fun k => { k with running := !h.yld, issued := 1, serial := k.serial + 1 })
    (fun x => { x with pc := x.pc + 16, setter := x.pc, stall := h.stall.val, entering := none })
    (fun _ => rfl) (by exact rfl) fun _ => List.suffix_refl _

theorem setS_get_suffix {x : Berth} {n : Fin 64} {q : List W64} (h : q <:+ x.s.get n) (m : Fin 64) :
    (x.setS n q).s.get m <:+ x.s.get m := by
  unfold Berth.setS
  rw [get_set_if]
  split
  case isTrue e => exact e ▸ h
  case isFalse => exact List.suffix_refl _

theorem frames_setS {s : State} {n : Fin 64} {q : List W64} (h : q <:+ s.me.s.get n) :
    SeqFrame s (s.onMe (fun x => x.setS n q)) ∧ EngFrame s (s.onMe (fun x => x.setS n q)) :=
  frames_berth id (fun x => x.setS n q) (fun _ => rfl) (by exact rfl) (setS_get_suffix h)

theorem frames_jump (s : State) (a : W64) : SeqFrame s (s.jump a) ∧ EngFrame s (s.jump a) :=
  frames_berth id (fun x => { x with pc := a, stall := max x.stall 1 }) (fun _ => rfl) (by exact rfl)
    fun _ => List.suffix_refl _

theorem frames_acquired (s : State) : SeqFrame s s.acquired ∧ EngFrame s s.acquired :=
  frames_berth id (fun x => { x with fences := x.fences ++ [⟨1, 7, 0, some s.wordId, .none⟩] }) (fun _ => rfl) (by exact rfl)
    fun _ => List.suffix_refl _

theorem seqFrame_emit (s : State) (unit : ResUnit) (dst : Dst) (v : RVal) (lat : Nat) : SeqFrame s (s.emit unit dst v lat) :=
  seqFrame_onSelf ⟨by exact rfl, fun _ _ => rfl, by exact rfl, fun _ => List.suffix_refl _⟩ (by exact rfl)
    (List.prefix_append _ _)

theorem Core.updBerth_updBerth (k : Core) (b : BerthId) (f g : Berth → Berth) :
    (k.updBerth b f).updBerth b g = k.updBerth b (fun x => g (f x)) := by
  simp [Core.updBerth, Core.setBerth, Core.berth]

/-- A trap that is not escalated, as a change of the issuing core. -/
theorem trapHere_eq {s : State} {code : Code} (hv : s.me.trapv ≠ 0) (hc : code ≠ .pmiss) (slot : Nat) (tval epc : W64) :
    s.trapHere code slot tval epc = s.onSelf (fun k =>
      { k.updBerth k.cur (fun x =>
          { x with entering := some s.me.pc, tcode := code.num, tslot := BitVec.ofNat 3 slot, tval := tval,
                   epc := epc &&& ~~~0xF, wait := .none, stall := 0, handlers := x.nest, pc := x.trapv, setter := s.me.pc }) with
        skip := 2, running := true }) := by
  have ht : (((s.onMe (fun x => { x with entering := none })).updBerth s.cur s.self.cur (fun x =>
      { x with tcode := code.num, tslot := BitVec.ofNat 3 slot, tval := tval, epc := epc &&& ~~~0xF, wait := .none,
               stall := 0, handlers := x.nest })).berth s.cur s.self.cur).trapv = s.me.trapv := by
    simp only [State.onMe, State.berth_updBerth]
    rfl
  unfold State.trapHere takeTrap
  rw [if_neg hc]
  dsimp only
  rw [if_neg (ht ▸ hv)]
  simp only [State.onMe, State.updBerth, State.updCore_updCore, Core.updBerth_updBerth]
  rfl

theorem frames_trapHere {s : State} {code : Code} (hv : s.me.trapv ≠ 0) (hc : code ≠ .pmiss) (slot : Nat) (tval epc : W64) :
    SeqFrame s (s.trapHere code slot tval epc) ∧ EngFrame s (s.trapHere code slot tval epc) := by
  rw [trapHere_eq hv hc]
  exact frames_berth (fun k => { k with skip := 2, running := true })
    (fun x =>
      { x with entering := some s.me.pc, tcode := code.num, tslot := BitVec.ofNat 3 slot, tval := tval,
               epc := epc &&& ~~~0xF, wait := .none, stall := 0, handlers := x.nest, pc := x.trapv, setter := s.me.pc })
    (fun _ => rfl) (by exact rfl) fun _ => List.suffix_refl _

/-- No entry joins a main-file name where entries of one leave. -/
theorem file_setVFifo_suffix {s : State} {n : Fin 1024} {q : List VEntry} (h : q <:+ s.vFifo s.cur n) (c : CoreId)
    (m : Fin 256) : ((s.setVFifo s.cur n q).core c).file.get m <:+ (s.core c).file.get m := by
  unfold State.setVFifo
  unfold State.vFifo at h
  cases ho : s.vOwner s.cur n with
  | none => exact List.suffix_refl _
  | some p =>
    obtain ⟨o, i⟩ := p
    rw [ho] at h
    dsimp only at h ⊢
    rw [State.core_updCore_if]
    split
    case isFalse => exact List.suffix_refl _
    case isTrue hc =>
      subst hc
      dsimp only
      rw [get_set_if]
      split
      case isTrue e => exact e ▸ h
      case isFalse => exact List.suffix_refl _

/-- Of every core, the entries of a main-file name alone change where they are replaced. -/
theorem core_setVFifo (s : State) (c c' : CoreId) (n : Fin 1024) (q : List VEntry) :
    (s.setVFifo c n q).core c' = { s.core c' with file := ((s.setVFifo c n q).core c').file } := by
  unfold State.setVFifo
  split
  · rw [State.core_updCore_if]
    split
    case isTrue h => rw [← h]
    case isFalse => rfl
  · rfl

theorem setVFifo_surroundings (s : State) (c : CoreId) (n : Fin 1024) (q : List VEntry) :
    s.setVFifo c n q = { s with cores := (s.setVFifo c n q).cores } := by
  unfold State.setVFifo
  split
  · rfl
  · rfl

theorem engFrame_setVFifo {s : State} {n : Fin 1024} {q : List VEntry} (h : q <:+ s.vFifo s.cur n) :
    EngFrame s (s.setVFifo s.cur n q) := by
  have hcur : (s.setVFifo s.cur n q).cur = s.cur := by rw [setVFifo_surroundings]
  have hself : (s.setVFifo s.cur n q).self = { s.self with file := (s.setVFifo s.cur n q).self.file } := by
    unfold State.self
    rw [hcur]
    exact core_setVFifo s s.cur s.cur n q
  refine ⟨setVFifo_surroundings .., ?_, by rw [hself], fun c _ => core_setVFifo .., file_setVFifo_suffix h⟩
  rw [hself]
  exact ⟨by exact rfl, fun _ _ => rfl, by exact rfl, fun _ => List.suffix_refl _⟩

theorem engFrame_queue {s : State} {f : Core → Core} (hf : ∀ k, QueueChange k (f k)) : EngFrame s (s.onSelf f) := by
  have hb := queueChange_berth (hf s.self)
  have e := hf s.self
  refine engFrame_onSelf ⟨by rw [e], fun b _ => hb b, ?_, fun n => ?_⟩ (by rw [e]) (by rw [e])
  · rw [hb]
  · rw [hb]

theorem engFrame_meetsUce (s : State) (n : Fin 16) (line : W64) : EngFrame s (s.meetsUce s.cur s.self.cur n line) :=
  engFrame_onSelf ⟨by exact rfl, fun _ _ => rfl, by exact rfl, fun _ => List.suffix_refl _⟩ rfl rfl

/-! ## Bodies, and whole words -/

/-- How a body of the sequencer's words stops: at any trap but PMISS. -/
def SeqStop : Stop → Prop
  | .trap code _ _ => code ≠ .pmiss
  | .hold => True
  | .uce _ _ => False

/-- How a body of an engine's word stops: at any trap but PMISS, at a full operand buffer or at an error. -/
def EngStop : Stop → Prop
  | .trap code _ _ => code ≠ .pmiss
  | .hold | .uce _ _ => True

theorem seqRel_seqFrame : SeqRel SeqFrame SeqStop where
  refl s := ⟨(setCore_core s s.cur).symm, issued_refl _, rfl, List.prefix_refl _⟩
  trans := .trans
  fifo _ _ _ h := (frames_setS h).1
  trap _ _ _ h := h
  jump s a := (frames_jump s a).1
  emit := seqFrame_emit

theorem engRel_engFrame : EngRel EngFrame EngStop where
  refl _ := ⟨rfl, issued_refl _, rfl, fun _ _ => rfl, fun _ _ => List.suffix_refl _⟩
  trans := .trans
  fifo _ _ _ h := (frames_setS h).2
  trap _ _ _ h := h
  file _ _ _ h := engFrame_setVFifo h
  queue _ _ hf := engFrame_queue hf
  acquired s := (frames_acquired s).2
  hold := trivial
  uce _ _ := trivial

/-- Whatever becomes of a word lies in a frame that the scheduling, its body and traps lie in. -/
theorem frame_of_issue {R : State → State → Prop} {E : Stop → Prop} (hR : ReadRel R E)
    (hsched : ∀ h s, R s (scheduled h s))
    (htrap : ∀ (s : State) code slot tval epc, s.me.trapv ≠ 0 → code ≠ .pmiss → R s (s.trapHere code slot tval epc))
    (huce : ∀ (s : State) n line, E (.uce n line) → R s (s.meetsUce s.cur s.self.cur n line))
    (hpmiss : ∀ slot v, ¬ E (.trap .pmiss slot v))
    {i : Instr} {h : Head} {body : M Unit} (hb : Body R E body) {s t : State} (hv : s.me.trapv ≠ 0)
    (e : issue i h body s = .next t) : R s t := by
  cases outcome_of_issue e with
  | stays e => rw [e]; exact hR.refl s
  | dropped e => rw [e]; exact hsched h s
  | refused code _ _ hc e =>
    rw [e]
    exact htrap _ _ _ _ _ hv fun hp => by simp [hp] at hc
  | ran e => exact hR.trans (hsched h s) (hb.ok e)
  | met n line hs e => rw [e]; exact huce s n line (hb.stop hs)
  | trapped code slot v _ _ hs e =>
    rw [e]
    exact htrap _ _ _ _ _ hv fun hp => hpmiss slot v (hp ▸ hb.stop hs)

theorem not_engineWord_of_scalarWord {i : Instr} (h : scalarWord i = true) : engineWord i = false := by
  simp only [scalarWord, engineWord, decide_eq_true_eq, decide_eq_false_iff_not] at h ⊢
  omega

theorem scalarWord_frame {i : Instr} {r : Raw} (hr : encodeRaw i = some r) (hs : scalarWord i = true) {s t : State}
    (hv : s.me.trapv ≠ 0) (e : exec i s = .next t) : SeqFrame s t := by
  obtain ⟨body, hx, hc⟩ := exec_word hr
  rw [hx] at e
  cases hc with
  | seq _ hb =>
    exact frame_of_issue seqRel_seqFrame.toReadRel (fun h s => (frames_scheduled h s).1)
      (fun s code slot tval epc hv hc => (frames_trapHere hv hc slot tval epc).1) (fun _ _ _ h => h.elim)
      (fun _ _ h => h rfl) (hb _ _ seqRel_seqFrame) hv e
  | eng he _ => rw [not_engineWord_of_scalarWord hs] at he; cases he
  | ctl hn _ _ => rw [hs] at hn; cases hn
  | rstr hn _ _ _ _ _ => rw [hs] at hn; cases hn

theorem engineWord_frame {i : Instr} {r : Raw} (hr : encodeRaw i = some r) (hs : engineWord i = true) {s t : State}
    (hv : s.me.trapv ≠ 0) (e : exec i s = .next t) : EngFrame s t := by
  obtain ⟨body, hx, hc⟩ := exec_word hr
  rw [hx] at e
  cases hc with
  | eng _ hb =>
    exact frame_of_issue engRel_engFrame.toReadRel (fun h s => (frames_scheduled h s).2)
      (fun s code slot tval epc hv hc => (frames_trapHere hv hc slot tval epc).2) (fun s n line _ => engFrame_meetsUce s n line)
      (fun _ _ h => h rfl) (hb _ _ engRel_engFrame) hv e
  | seq hn _ => rw [not_engineWord_of_scalarWord hn] at hs; cases hs
  | ctl _ hn _ => rw [hs] at hn; cases hn
  | rstr _ hn _ _ _ _ => rw [hs] at hn; cases hn

/-- Settles O56: the frames of the parts of bodies, put together along each word's body. -/
theorem issueFrame : Obligations.IssueFrame := by
  intro h s unit dst v lat a w i xs vals q
  exact ⟨⟨quiet_scheduled h s, quiet_emit s unit dst v lat, quiet_jump s a, quiet_park s w, quiet_rest s,
    quiet_toVxe s i xs vals, quiet_toMem s q, quiet_toCopy s i q, quiet_toArray s i q, quiet_toSf s i q⟩,
    fun r t hr hv e => ⟨fun hs => scalarWord_frame hr hs hv e, fun hs => engineWord_frame hr hs hv e⟩⟩

end Sys2Proof.Proofs

/-! The frame of reading operands (03 R29). -/

namespace Sys2Proof.Proofs
open Sys2Proof Sys2Proof.Machine Sys2Proof.Laws

/-- What reading a scalar leaves: entries of one name of the running berth may be gone. -/
theorem readS_state {slot : Nat} {x : SSrc} {s t : State} {v : W64} (h : Reads (readS slot x) s v t) :
    t = s ∨ ∃ n r, x = .s n false ∧ t = s.onMe (fun y => y.setS n r) := by
  cases x with
  | ls =>
    rw [Reads, readS_ls] at h
    cases h
    exact .inl rfl
  | s n pk =>
    cases hq : s.me.s.get n with
    | nil => rw [Reads, readS_nil hq] at h; cases h
    | cons w r =>
      cases pk with
      | true =>
        rw [Reads, readS_peek hq] at h
        cases h
        exact .inl rfl
      | false =>
        rw [Reads, readS_pop hq] at h
        cases h
        exact .inr ⟨n, r, rfl, rfl⟩

/-- What reading a vector source leaves: entries of one main-file name may be gone. -/
theorem readV_state {slot : Nat} {y : VSrc} {s t : State} {e : VEntry} (h : Reads (readV slot y) s e t) :
    t = s ∨ ∃ n r, y.loc = .main n false ∧ t = s.setVFifo s.cur n r := by
  obtain ⟨loc, part, swp⟩ := y
  cases hf : s.fileErr s.cur loc with
  | some l => rw [Reads, readV_bad hf] at h; cases h
  | none =>
    cases loc with
    | opf n => rw [Reads, readV_opf hf] at h; cases h; exact .inl rfl
    | lv => rw [Reads, readV_lv hf] at h; cases h; exact .inl rfl
    | ll => rw [Reads, readV_ll hf] at h; cases h; exact .inl rfl
    | main n pk =>
      cases hq : s.vFifo s.cur n with
      | nil => rw [Reads, readV_nil hf hq] at h; cases h
      | cons v r =>
        cases pk with
        | true => rw [Reads, readV_peek hf hq] at h; cases h; exact .inl rfl
        | false => rw [Reads, readV_pop hf hq] at h; cases h; exact .inr ⟨n, r, rfl, rfl⟩

theorem onMe_me (s : State) (f : Berth → Berth) : (s.onMe f).me = f s.me := by
  simp [State.onMe, State.updBerth, State.me, Core.updBerth, Core.setBerth, Core.berth]

theorem onlyCore_onMe (s : State) (f : Berth → Berth) : OnlyCore s.cur s (s.onMe f) := by
  unfold State.onMe State.updBerth
  exact onlyCore_updCore s _

theorem onMe_berth_ne (s : State) (f : Berth → Berth) {b : BerthId} (h : b ≠ s.self.cur) :
    (s.onMe f).self.berth b = s.self.berth b := by
  rw [State.onMe, State.updBerth, State.self_updCore, Core.updBerth, Core.berth_setBerth_ne _ _ _ _ (Ne.symm h)]

/-- A name of the main file that no replaced name stands for is as before. -/
theorem file_setVFifo_ne {s : State} {n : Fin 1024} {r : List VEntry} {c : CoreId} {i : Fin 256}
    (h : s.vOwner s.cur n ≠ some (c, i)) : ((s.setVFifo s.cur n r).core c).file.get i = (s.core c).file.get i := by
  unfold State.setVFifo
  cases ho : s.vOwner s.cur n with
  | none => rfl
  | some p =>
    obtain ⟨o, j⟩ := p
    dsimp only
    rw [State.core_updCore_if]
    split
    case isFalse => rfl
    case isTrue hc =>
      subst hc
      exact get_set_ne _ _ _ _ fun hj => h (by rw [ho, hj])

/-- Settles O57, by what each read leaves. -/
theorem operandFrame : Obligations.OperandFrame := by
  intro k x y s t v e
  refine ⟨fun h => ?_, fun h => ?_⟩
  · rcases readS_state h with rfl | ⟨n, r, rfl, rfl⟩
    · exact ⟨(setCore_core t t.cur).symm, rfl, fun _ _ => rfl, rfl, fun _ _ => rfl⟩
    · refine ⟨onlyCore_onMe s _, ?_, fun b => onMe_berth_ne s _, by rw [onMe_me]; rfl, fun m hm => ?_⟩
      · rw [State.onMe, State.updBerth, State.self_updCore]
        rfl
      · rw [onMe_me]
        exact get_set_ne _ _ _ _ fun hn => hm false (hn ▸ rfl)
  · rcases readV_state h with rfl | ⟨n, r, hl, rfl⟩
    · exact ⟨rfl, fun _ => ⟨rfl, fun _ _ => rfl⟩⟩
    · exact ⟨setVFifo_surroundings .., fun c => ⟨core_setVFifo .., fun i hi => file_setVFifo_ne (hi n false hl)⟩⟩

end Sys2Proof.Proofs

/-! Decoding is injective on words (06 R79, R82, R85 to R88): each parser of a slot accepts the encoding of what it gives alone, so
that an accepted word is the encoding of its instruction. First the slots. -/

namespace Sys2Proof.Proofs
open Sys2Proof Sys2Proof.Machine Sys2Proof.Laws

/-! ## Assigned codes -/

/-- Where the codes of a list's members are their places, a member is found at its code. -/
theorem code_of_getElem? {l : List α} {code : α → Nat} (hl : l.map code = List.range l.length) {n : Nat} {x : α}
    (h : l[n]? = some x) : code x = n := by
  obtain ⟨hn, hx⟩ := List.getElem?_eq_some_iff.mp h
  have e : (l.map code)[n]? = (List.range l.length)[n]? := by rw [hl]
  simpa [hn, hx] using e

theorem Hint.code_of_ofCode {n : Nat} {x : Hint} (h : Hint.ofCode n = some x) : x.code = n := code_of_getElem? rfl h
theorem Part.code_of_ofCode {n : Nat} {x : Part} (h : Part.ofCode n = some x) : x.code = n := code_of_getElem? rfl h
theorem RM.code_of_ofCode {n : Nat} {x : RM} (h : RM.ofCode n = some x) : x.code = n := code_of_getElem? rfl h
theorem Cond.code_of_ofCode {n : Nat} {x : Cond} (h : Cond.ofCode n = some x) : x.code = n := code_of_getElem? rfl h
theorem Scope.code_of_ofCode {n : Nat} {x : Scope} (h : Scope.ofCode n = some x) : x.code = n := code_of_getElem? rfl h
theorem MbKind.code_of_ofCode {n : Nat} {x : MbKind} (h : MbKind.ofCode n = some x) : x.code = n := code_of_getElem? rfl h
theorem VCond.code_of_ofCode {n : Nat} {x : VCond} (h : VCond.ofCode n = some x) : x.code = n := code_of_getElem? rfl h
theorem RedKind.code_of_ofCode {n : Nat} {x : RedKind} (h : RedKind.ofCode n = some x) : x.code = n := code_of_getElem? rfl h
theorem DrawKind.code_of_ofCode {n : Nat} {x : DrawKind} (h : DrawKind.ofCode n = some x) : x.code = n :=
  code_of_getElem? rfl h
theorem Size.code_of_ofCode {n : Nat} {x : Size} (h : Size.ofCode n = some x) : x.code = n := code_of_getElem? rfl h
theorem AmoOp.code_of_ofCode {n : Nat} {x : AmoOp} (h : AmoOp.ofCode n = some x) : x.code = n := code_of_getElem? rfl h
theorem AmoOrd.code_of_ofCode {n : Nat} {x : AmoOrd} (h : AmoOrd.ofCode n = some x) : x.code = n := code_of_getElem? rfl h
theorem Comb3.code_of_ofCode {n : Nat} {x : Comb3} (h : Comb3.ofCode n = some x) : x.code = n := code_of_getElem? rfl h
theorem UpdKind.code_of_ofCode {n : Nat} {x : UpdKind} (h : UpdKind.ofCode n = some x) : x.code = n := code_of_getElem? rfl h

/-- The tags but NONE stand in the order of their codes. -/
theorem Fmt.code_of_ofCode {n : Nat} {x : Fmt} (h : Fmt.ofCode n = some x) : x.code = n := by
  unfold Fmt.ofCode at h
  split at h
  case isTrue h15 => cases h; exact h15.symm
  case isFalse =>
    split at h
    case isFalse => cases h
    case isTrue hn =>
      have h' : (Fmt.all.take 12)[n]? = some x := by rw [List.getElem?_take, if_pos hn]; exact h
      exact code_of_getElem? rfl h'

theorem SysReg.code_of_ofCode {n : Nat} {x : SysReg} (h : SysReg.ofCode n = some x) : x.code = n := by
  unfold SysReg.ofCode at h
  split at h
  case isTrue hn => cases h; simp only [SysReg.code, Fin.ofNat_eq_cast, Fin.val_natCast]; omega
  case isFalse =>
    split at h
    case isTrue hn => cases h; simp only [SysReg.code, Fin.ofNat_eq_cast, Fin.val_natCast]; omega
    case isFalse => exact beq_iff_eq.mp (List.find?_some (p := fun r : SysReg => r.code == n) h)

theorem PrivName.code_of_ofCode {n : Nat} {x : PrivName} (h : PrivName.ofCode n = some x) : x.code = n := by
  unfold PrivName.ofCode at h
  split at h
  case isTrue hn => cases h; simp only [PrivName.code, Fin.ofNat_eq_cast, Fin.val_natCast]; omega
  case isFalse =>
    split at h
    case isTrue hn => cases h; exact hn.symm
    case isFalse =>
      split at h
      case isTrue hn => cases h; exact hn.symm
      case isFalse =>
        split at h
        case isTrue hn => cases h; exact hn.symm
        case isFalse =>
          obtain ⟨r, hr, rfl⟩ := Option.map_eq_some_iff.mp h
          exact SysReg.code_of_ofCode hr

/-! ## Checks -/

theorem of_opt {k : Fin 5} {o : Option α} {x : α} (h : opt k o = .ok x) : o = some x := by
  cases o with
  | none => cases h
  | some y => cases h; rfl

theorem not_bad {k : Fin 5} {x : α} {p : Prop} (h : (bad k : P α) = .ok x) : p := by cases h

/-- A check that passes lets what follows it run. -/
theorem of_check {c : Prop} [Decidable c] {k : Fin 5} {y : P α} {f : Unit → P α} {x : α}
    (h : (if c then y else bad k >>= f) = .ok x) : c ∧ y = .ok x := by
  split at h
  case isTrue hc => exact ⟨hc, h⟩
  case isFalse => cases h

theorem of_refusal {c : Prop} [Decidable c] {k : Fin 5} {y : P α} {f : Unit → P α} {x : α}
    (h : (if c then bad k >>= f else y) = .ok x) : ¬c ∧ y = .ok x := by
  split at h
  case isTrue => cases h
  case isFalse hc => exact ⟨hc, h⟩

theorem of_pBelow {k : Fin 5} {n : Nat} {x : SOp} {u : Unit} (h : pBelow k n x = .ok u) : x.below n = true := by
  cases x with
  | src _ => rfl
  | imm v =>
    change (if v.toNat < n then Except.ok () else _) = _ at h
    by_cases hv : v.toNat < n
    · exact decide_eq_true hv
    · rw [if_neg hv] at h; cases h

/-! ## Slots -/

theorem of_pZ {k : Fin 5} {x : Nat} {u : Unit} (h : pZ k x = .ok u) : x = 0 := by
  unfold pZ at h
  split at h
  case isTrue hx => exact hx
  case isFalse => cases h

theorem immMark_eq : immMark = 196608 := by norm_num [immMark]

/-- Above its mark a slot holds 16 bits. -/
theorem sub_immMark_lt {x : Nat} (hx : x < 262144) : x - immMark < 65536 := by
  rw [immMark_eq]
  omega

theorem eI_ofNat {x : Nat} (hx : x < 262144) (hm : immMark ≤ x) : eI (BitVec.ofNat 16 (x - immMark)) = x := by
  rw [eI, BitVec.toNat_ofNat, Nat.mod_eq_of_lt (sub_immMark_lt hx)]
  exact Nat.add_sub_cancel' hm

theorem of_pI {k : Fin 5} {x : Nat} {v : W16} (hx : x < 262144) (h : pI k x = .ok v) : x = eI v := by
  unfold pI at h
  split at h
  case isTrue hm => rw [← Except.ok.inj h, eI_ofNat hx hm]
  case isFalse => cases h

theorem of_pM {k : Fin 5} {x m : Nat} (hx : x < 262144) (h : pM k x = .ok m) : x = eM m ∧ m < 65536 := by
  unfold pM at h
  split at h
  case isTrue hm =>
    rw [← Except.ok.inj h]
    exact ⟨(Nat.add_sub_cancel' hm).symm, sub_immMark_lt hx⟩
  case isFalse => cases h

theorem of_pKind {k : Fin 5} {lim x m : Nat} (hx : x < 262144) (h : pKind k lim x = .ok m) : x = eM m ∧ m < lim := by
  unfold pKind at h
  obtain ⟨n, hn, h⟩ := ok_of_bind h
  split at h
  case isTrue hm => cases h; exact ⟨(of_pM hx hn).1, hm⟩
  case isFalse => cases h

theorem of_pN {k : Fin 5} {n : Nat} [NeZero n] {x : Nat} {a : Fin n} (h : pN k n x = .ok a) : x = eN a.val := by
  unfold pN at h
  split at h
  case isTrue hx =>
    cases h
    simp only [eN, Fin.ofNat_eq_cast, Fin.val_natCast, Nat.mod_eq_of_lt hx.2.1]
    omega
  case isFalse => cases h

theorem of_pX {k : Fin 5} {x n : Nat} (h : pX k x = .ok n) : x = eN n := by
  unfold pX at h
  split at h
  case isTrue hx =>
    cases h
    simp only [eN]
    omega
  case isFalse => cases h

theorem of_pS {k : Fin 5} {x : Nat} {s : SSrc} (h : pS k x = .ok s) : x = eS s := by
  unfold pS at h
  split at h
  case isTrue hx =>
    cases h
    simp only [eS, Fin.ofNat_eq_cast, Fin.val_natCast, b2n, decide_eq_true_eq]
    split <;> omega
  case isFalse =>
    split at h
    case isTrue hx => cases h; exact hx
    case isFalse => cases h

/-- A parser applied under a constructor accepts what the parser accepts. -/
theorem of_map {f : α → β} {p : P α} {y : β} (h : f <$> p = .ok y) : ∃ a, p = .ok a ∧ f a = y := by
  cases p with
  | error e => cases h
  | ok a => cases h; exact ⟨a, rfl, rfl⟩

theorem of_pSI {k : Fin 5} {x : Nat} {s : SOp} (hx : x < 262144) (h : pSI k x = .ok s) : x = eSI s := by
  unfold pSI at h
  split at h
  case isTrue hm => cases h; exact (eI_ofNat hx hm).symm
  case isFalse =>
    obtain ⟨a, ha, rfl⟩ := of_map h
    exact of_pS ha

theorem of_vloc {x : Nat} {l : VLoc} (h : vloc x = some l) : x / 32 * 32 = eLoc l := by
  unfold vloc at h
  split at h
  case isTrue hx =>
    cases h
    simp only [eLoc, Fin.ofNat_eq_cast, Fin.val_natCast, b2n, decide_eq_true_eq]
    split <;> omega
  case isFalse =>
    split at h
    case isTrue => cases h
    case isFalse =>
      split at h
      case isTrue =>
        split at h
        case isTrue => cases h; simp only [eLoc, Fin.ofNat_eq_cast, Fin.val_natCast]; omega
        case isFalse => cases h
      case isFalse =>
        split at h
        case isTrue => cases h; simp only [eLoc]; omega
        case isFalse =>
          split at h
          case isTrue => cases h; simp only [eLoc]; omega
          case isFalse => cases h

theorem of_pV {k : Fin 5} {x : Nat} {v : VSrc} (h : pV k x = .ok v) : x = eV v := by
  unfold pV at h
  split at h
  case h_1 l p hl hp =>
    cases h
    have h1 := of_vloc hl
    have h2 := Part.code_of_ofCode hp
    simp only [eV, b2n, decide_eq_true_eq]
    split <;> omega
  case h_2 => cases h

theorem of_pVI {k : Fin 5} {x : Nat} {v : VOp} (hx : x < 262144) (h : pVI k x = .ok v) : x = eVI v := by
  unfold pVI at h
  split at h
  case isTrue hm => cases h; exact (eI_ofNat hx hm).symm
  case isFalse =>
    obtain ⟨a, ha, rfl⟩ := of_map h
    exact of_pV ha

theorem of_pVL {k : Fin 5} {x : Nat} {v : VLm} (h : pVL k x = .ok v) : x = eVL v := by
  unfold pVL at h
  split at h
  case isTrue hm => cases h; exact hm
  case isFalse =>
    split at h
    case isTrue => cases h
    case isFalse =>
      obtain ⟨a, ha, rfl⟩ := of_map h
      exact of_pV ha

theorem of_pVZ {k : Fin 5} {x : Nat} {v : Option VSrc} (h : pVZ k x = .ok v) : x = eVZ v := by
  unfold pVZ at h
  split at h
  case isTrue hm => cases h; exact hm
  case isFalse =>
    split at h
    case isTrue => cases h
    case isFalse =>
      obtain ⟨a, ha, rfl⟩ := of_map h
      exact of_pV ha

/-- The number of a 12-bit immediate is the slot above its mark. -/
theorem immMark_add_ofNat12 {x : Nat} (hm : immMark ≤ x) (hx : x - immMark < 4096) :
    immMark + (BitVec.ofNat 12 (x - immMark)).toNat = x := by
  simp only [immMark, BitVec.toNat_ofNat] at *
  omega

theorem of_pR {k : Fin 5} {x : Nat} {v : Ref} (h : pR k x = .ok v) : x = eR v := by
  unfold pR at h
  split at h
  case isTrue hm =>
    split at h
    case isTrue hx => cases h; exact (immMark_add_ofNat12 hm hx).symm
    case isFalse => cases h
  case isFalse =>
    obtain ⟨a, ha, rfl⟩ := of_map h
    exact of_pS ha

theorem of_pRep {k : Fin 5} {x : Nat} {v : Rep} (h : pRep k x = .ok v) : x = eRep v := by
  unfold pRep at h
  split at h
  case isTrue hm =>
    split at h
    case isTrue hx => cases h; exact (immMark_add_ofNat12 hm hx).symm
    case isFalse => cases h
  case isFalse =>
    obtain ⟨a, ha, rfl⟩ := of_map h
    exact of_pS ha

theorem of_pT {k : Fin 5} {x : Nat} {v : TileRef} (h : pT k x = .ok v) : x = eT v := by
  unfold pT at h
  split at h
  case isTrue hm =>
    split at h
    case isTrue hx =>
      cases h
      simp only [eT, Fin.ofNat_eq_cast, Fin.val_natCast, Nat.mod_eq_of_lt hx]
      omega
    case isFalse => cases h
  case isFalse =>
    obtain ⟨a, ha, rfl⟩ := of_map h
    exact of_pS ha

theorem of_pLw {k : Fin 5} {x : Nat} {v : Lw} (hx : x < 262144) (h : pLw k x = .ok v) : x = eLw v ∧ v.ok = true := by
  unfold pLw at h
  split at h
  case isTrue hm =>
    split at h
    case isTrue => cases h
    case isFalse hk =>
      cases h
      refine ⟨(eI_ofNat hx hm).symm, ?_⟩
      simp only [Lw.ok, fld, Nat.shiftRight_eq_div_pow, BitVec.toNat_ofNat, decide_eq_true_eq, immMark] at *
      omega
  case isFalse =>
    obtain ⟨a, ha, rfl⟩ := of_map h
    exact ⟨of_pS ha, rfl⟩

theorem of_pSD {wb x : Nat} {d : SDst} (hw : wb = 0 ∨ wb = 1) (h : pSD wb x = .ok d) : wb = d.wb ∧ x = eSD d := by
  unfold pSD at h
  split at h
  case isTrue h0 =>
    split at h
    case isTrue hx => cases h; exact ⟨h0, hx⟩
    case isFalse => cases h
  case isFalse h0 =>
    obtain ⟨a, ha, rfl⟩ := of_map h
    exact ⟨hw.resolve_left h0, of_pN ha⟩

theorem of_pVD {wb x : Nat} {d : VDst} (hw : wb = 0 ∨ wb = 1) (h : pVD wb x = .ok d) : wb = d.wb ∧ x = eVD d := by
  unfold pVD at h
  split at h
  case isTrue h0 =>
    split at h
    case isTrue hx => cases h; exact ⟨h0, hx⟩
    case isFalse => cases h
  case isFalse h0 =>
    have h1 := hw.resolve_left h0
    split at h
    case isTrue => cases h
    case isFalse =>
      split at h
      case isTrue =>
        cases h
        refine ⟨h1, ?_⟩
        simp only [eVD, eN, Fin.ofNat_eq_cast, Fin.val_natCast]
        omega
      case isFalse =>
        split at h
        case isTrue =>
          cases h
          refine ⟨h1, ?_⟩
          simp only [eVD, Fin.ofNat_eq_cast, Fin.val_natCast]
          omega
        case isFalse => cases h

theorem of_pReq {n : Nat} [NeZero n] {wb x : Nat} {a : Fin n} (hw : wb = 1) (h : pReq n wb x = .ok a) : x = eN a.val := by
  subst hw
  exact of_pN h

theorem of_rmDet {k : Fin 5} {n : Nat} {rm : RM} (h : rmDet k n = .ok rm) : rm.code = n ∧ rm.det = true := by
  unfold rmDet at h
  split at h
  case isTrue hn =>
    have hc := RM.code_of_ofCode (of_opt h)
    refine ⟨hc, ?_⟩
    cases rm with
    | sr => simp only [RM.code] at hc; omega
    | rne | rz | rd | ru => rfl
  case isFalse => cases h

theorem of_pVP {k : Fin 5} {x : Nat} {v : VSrc} (h : pVP k x = .ok v) : x = eV v ∧ v.plain = true := by
  unfold pVP at h
  obtain ⟨u, hu, h⟩ := ok_of_bind h
  split at h
  case isTrue hp => cases h; exact ⟨of_pV hu, hp⟩
  case isFalse => cases h

theorem of_pPOp {k : Fin 5} {x : Nat} {a : PredOp} (h : pPOp k x = .ok a) : x = ePOp a := by
  unfold pPOp at h
  split at h
  case isTrue hm =>
    split at h
    case isTrue =>
      cases h
      simp only [ePOp, b2n, decide_eq_true_eq]
      split <;> omega
    case isFalse => cases h
  case isFalse =>
    obtain ⟨n, hn, rfl⟩ := of_map h
    exact of_pN hn

theorem of_pPos {k : Fin 5} {x : Nat} {p : W16} (hx : x < 262144) (h : pPos k x = .ok p) : x = eI p := by
  unfold pPos at h
  obtain ⟨q, hq, h⟩ := ok_of_bind h
  split at h
  case isTrue => cases h; exact of_pI hx hq
  case isFalse => cases h

theorem of_pComb {x : Nat} {c : Comb3} (hx : x < 262144) (h : pComb x = .ok c) : x = eM c.code := by
  unfold pComb at h
  obtain ⟨m, hm, h⟩ := ok_of_bind h
  rw [Comb3.code_of_ofCode (of_opt h)]
  exact (of_pM hx hm).1

theorem of_mfsName {n m : Nat} {x : MfsName} (h : mfsName n m = some x) : x.num = n ∧ x.kind = m := by
  unfold mfsName at h
  split at h
  case isTrue hm =>
    obtain ⟨r, hr, rfl⟩ := Option.map_eq_some_iff.mp h
    exact ⟨SysReg.code_of_ofCode hr, hm.symm⟩
  case isFalse =>
    split at h
    case isTrue hm =>
      split at h
      case isTrue hn => cases h; exact ⟨Nat.mod_eq_of_lt hn, hm.symm⟩
      case isFalse => cases h
    case isFalse =>
      split at h
      case isTrue hm =>
        split at h
        case isTrue hn => cases h; exact ⟨Nat.mod_eq_of_lt hn, hm.symm⟩
        case isFalse => cases h
      case isFalse => cases h

theorem of_fifoName {n m : Nat} {x : FifoName} (hm : m < 2) (h : fifoName n m = some x) : x.num = n ∧ x.kind = m := by
  unfold fifoName at h
  split at h
  case isTrue h0 =>
    split at h
    case isTrue hn => cases h; exact ⟨Nat.mod_eq_of_lt hn, h0.symm⟩
    case isFalse => cases h
  case isFalse h0 =>
    split at h
    case isTrue hn => cases h; exact ⟨Nat.mod_eq_of_lt hn, by simp only [FifoName.kind]; omega⟩
    case isFalse => cases h

theorem of_ldaMod {k : Fin 5} {x : Nat} {m : Bool × Scope} (hx : x < 262144) (h : ldaMod k x = .ok m) :
    x = eLdaMod m.1 m.2 := by
  unfold ldaMod at h
  obtain ⟨n, hn, h⟩ := ok_of_bind h
  obtain ⟨sc, hs, h⟩ := ok_of_bind h
  have hc := Scope.code_of_ofCode (of_opt hs)
  rw [(of_pM hx hn).1]
  replace h : (if n / 8 = 2 then pure (false, sc) else if n / 8 = 3 then pure (true, sc) else bad k) = Except.ok m := h
  split at h
  case isTrue =>
    cases h
    rw [eLdaMod, hc]
    exact congrArg eM (show _ = n % 8 + 16 by omega)
  case isFalse =>
    split at h
    case isTrue =>
      cases h
      rw [eLdaMod, hc]
      exact congrArg eM (show _ = n % 8 + 24 by omega)
    case isFalse => cases h

/-! ## The header and the whole word -/

theorem decide_eq_one {n : Nat} (h : n < 2) : b2n (decide (n = 1)) = n := by
  simp only [b2n, decide_eq_true_eq]
  split <;> omega

/-- An accepted header is written back as the fields that it was read from. -/
theorem of_pHead {cls : Cls} {wr : WbRule} {r : Raw} {h : Head} (hf : r.fits) (hh : pHead cls wr r = .ok h) :
    h.ok cls = true ∧ wr.ok r.wb = true ∧ r = enc r.opc h r.wb r.a r.b r.c r.d r.e := by
  obtain ⟨_, hga, hgan, hgb, hgbn, _, hst, hy, hpb, hpa, _, _, _⟩ := hf
  unfold pHead at hh
  split at hh
  case h_1 => cases hh
  case h_2 ch hc =>
    split at hh
    case isTrue => cases hh
    case isFalse hr =>
      split at hh
      case isTrue => cases hh
      case isFalse hw =>
        split at hh
        case isTrue => cases hh
        case isFalse ht =>
          cases hh
          refine ⟨by simpa [Head.ok, Fin.ofNat_eq_cast] using ht, by simpa using hw, ?_⟩
          obtain ⟨opc, ga, gan, gb, gbn, c, stall, yld, pb, pa, wb, rsv, a, b, c', d, e⟩ := r
          simp only [enc, Hint.code_of_ofCode hc, decide_eq_one hgan, decide_eq_one hgbn, decide_eq_one hy,
            Fin.ofNat_eq_cast, Fin.val_natCast, BitVec.toNat_ofNat, Nat.mod_eq_of_lt hga, Nat.mod_eq_of_lt hgb,
            Nat.mod_eq_of_lt hst, Raw.mk.injEq, true_and]
          exact ⟨(Nat.mod_eq_of_lt hpb).symm, (Nat.mod_eq_of_lt hpa).symm, not_not.mp hr, trivial⟩

end Sys2Proof.Proofs

/-! Decoding is injective on words (06 R79, R82, R85 to R88): the forms. What each form accepts is well-formed, and its fields
are those of the word. -/

namespace Sys2Proof.Proofs
open Sys2Proof Sys2Proof.Machine Sys2Proof.Laws

/-- An instruction accepted for the fields of a word: it is well-formed, and its own fields are those. -/
def Accepts (r : Raw) (i : Instr) : Prop := i.wf = true ∧ encodeRaw i = some r

theorem and_true {a b : Bool} (ha : a = true) (hb : b = true) : (a && b) = true := (Bool.and_eq_true ..).mpr ⟨ha, hb⟩

theorem wb_any {w : Nat} (h : WbRule.any.ok w = true) : w = 0 ∨ w = 1 := by simpa [WbRule.ok] using h
theorem wb_one {w : Nat} (h : WbRule.one.ok w = true) : w = 1 := by simpa [WbRule.ok] using h
theorem wb_zero {w : Nat} (h : WbRule.zero.ok w = true) : w = 0 := by simpa [WbRule.ok] using h

section
variable {r : Raw} (hf : r.fits)
include hf

theorem fits_b : r.b < 262144 := by
  obtain ⟨_, _, _, _, _, _, _, _, _, _, _, _, _, h, _⟩ := hf
  exact h
theorem fits_c : r.c < 262144 := by
  obtain ⟨_, _, _, _, _, _, _, _, _, _, _, _, _, _, h, _⟩ := hf
  exact h
theorem fits_d : r.d < 262144 := by
  obtain ⟨_, _, _, _, _, _, _, _, _, _, _, _, _, _, _, h, _⟩ := hf
  exact h
theorem fits_e : r.e < 262144 := by
  obtain ⟨_, _, _, _, _, _, _, _, _, _, _, _, _, _, _, _, h⟩ := hf
  exact h
end

/-- A word is the encoding of its header and slots, once each slot is the encoding of what it holds. -/
theorem encoded {r : Raw} {o : Nat} {g : Head} {wb a b c d e : Nat} (ho : r.opc = o)
    (hr : r = enc r.opc g r.wb r.a r.b r.c r.d r.e) (hwb : r.wb = wb) (ha : r.a = a) (hb : r.b = b) (hc : r.c = c)
    (hd : r.d = d) (he : r.e = e) : r = enc o g wb a b c d e := by
  rw [← ho, ← hwb, ← ha, ← hb, ← hc, ← hd, ← he]
  exact hr

/-! ## Modifiers -/

section
variable {m : Nat} {rm : RM} {ft : Fmt}

theorem msk (h : m < 8) : m = (Fin.ofNat 8 m).val := (Nat.mod_eq_of_lt h).symm

theorem msk_rm (hr : rm.code = m / 8) : m = (Fin.ofNat 8 (m % 8)).val + rm.code * 8 := by
  rw [hr, Fin.ofNat_eq_cast, Fin.val_natCast]
  omega

theorem msk_rm_sat (hr : rm.code = m / 8 % 8) (h : m < 128) :
    m = (Fin.ofNat 8 (m % 8)).val + rm.code * 8 + b2n (decide (m / 64 = 1)) * 64 := by
  rw [decide_eq_one (by omega), hr, Fin.ofNat_eq_cast, Fin.val_natCast]
  omega

theorem msk_rm_kind {k : Nat} (hr : rm.code = m / 8 % 8) (hk : k = m / 128) (h : m / 64 % 2 = 0) :
    m = (Fin.ofNat 8 (m % 8)).val + rm.code * 8 + k * 128 := by
  rw [hk, hr, Fin.ofNat_eq_cast, Fin.val_natCast]
  omega

theorem msk_kind {k : Nat} (hk : k = m / 128) (h : m % 128 < 8) : m = (Fin.ofNat 8 (m % 8)).val + k * 128 := by
  rw [hk, Fin.ofNat_eq_cast, Fin.val_natCast]
  omega

theorem msk_ft (ht : ft.code = m / 128 % 16) (h : m < 2048) (hl : m % 128 < 8) :
    m = (Fin.ofNat 8 (m % 8)).val + ft.code * 128 := by
  rw [ht, Fin.ofNat_eq_cast, Fin.val_natCast]
  omega

theorem msk_rm_ft (hr : rm.code = m / 8 % 8) (ht : ft.code = m / 128 % 16) (h : m < 2048) (hz : m / 64 % 2 = 0) :
    m = mFt (Fin.ofNat 8 (m % 8)).val rm ft := by
  rw [mFt, ht, hr, Fin.ofNat_eq_cast, Fin.val_natCast]
  omega

theorem msk_rm_ft_quarter (hr : rm.code = m / 8 % 8) (ht : ft.code = m / 128 % 16) (h : m < 16384) (hz : m / 64 % 2 = 0) :
    m = mFt (Fin.ofNat 8 (m % 8)).val rm ft + (Fin.ofNat 8 (m / 2048)).val * 2048 := by
  rw [mFt, ht, hr, Fin.ofNat_eq_cast, Fin.val_natCast, Fin.ofNat_eq_cast, Fin.val_natCast]
  omega

theorem rm_ft_quarter (hr : rm.code = m / 8 % 8) (ht : ft.code = m / 128 % 16) (h : m < 16384) (h8 : m % 8 = 0)
    (hz : m / 64 % 2 = 0) : m = mFt 0 rm ft + (Fin.ofNat 8 (m / 2048)).val * 2048 := by
  rw [mFt, ht, hr, Fin.ofNat_eq_cast, Fin.val_natCast]
  omega

theorem sx_bit (h : m = 0 ∨ m = 128) : m = b2n (decide (m = 128)) * 128 := by
  rcases h with rfl | rfl <;> rfl

theorem size_sx {z : Nat} (hz : z = m % 4) (h : m < 8) : m = z + b2n (decide (m / 4 = 1)) * 4 := by
  rw [decide_eq_one (by omega), hz]
  omega

theorem fence_kinds (h : m < 128) (hz : m / 8 % 2 = 0) :
    m = (BitVec.ofNat 3 (m % 8)).toNat + (BitVec.ofNat 3 (m / 16)).toNat * 16 := by
  rw [BitVec.toNat_ofNat, BitVec.toNat_ofNat]
  omega

theorem ofNat3_ne_zero {n : Nat} (h : n < 8) (h0 : n ≠ 0) : BitVec.ofNat 3 n ≠ 0 := by
  intro e
  have := congrArg BitVec.toNat e
  rw [BitVec.toNat_ofNat, Nat.mod_eq_of_lt h] at this
  exact h0 this
end

/-! ## Names of another file -/

theorem fifo_slots {r : Raw} {n m : Nat} {x : FifoName} (hf : r.fits) (hn : pX 1 r.b = .ok n) (hm : pKind 2 2 r.c = .ok m)
    (hx : opt 1 (fifoName n m) = .ok x) : r.b = eN x.num ∧ r.c = eM x.kind := by
  obtain ⟨hk, hlt⟩ := of_pKind (fits_c hf) hm
  obtain ⟨h1, h2⟩ := of_fifoName hlt (of_opt hx)
  exact ⟨h1 ▸ of_pX hn, h2 ▸ hk⟩

theorem mfs_slots {r : Raw} {n m : Nat} {x : MfsName} (hf : r.fits) (hn : pX 1 r.b = .ok n) (hm : pKind 2 3 r.c = .ok m)
    (hx : opt 1 (mfsName n m) = .ok x) : r.b = eN x.num ∧ r.c = eM x.kind := by
  obtain ⟨h1, h2⟩ := of_mfsName (of_opt hx)
  exact ⟨h1 ▸ of_pX hn, h2 ▸ (of_pKind (fits_c hf) hm).1⟩

/-! ## Immediates over several slots -/

/-- The low bits of a concatenation are its second part. -/
theorem extract_low_append {n m : Nat} (x : BitVec n) (y : BitVec m) : (x ++ y).extractLsb' 0 m = y := by
  ext i hi
  simp [BitVec.getLsbD_append, hi, BitVec.getLsbD_eq_getElem]

/-- Above its second part a concatenation is its first one. -/
theorem extract_high_append {n m k s : Nat} (x : BitVec n) (y : BitVec m) :
    (x ++ y).extractLsb' (m + s) k = x.extractLsb' s k := by
  ext i hi
  simp [BitVec.getLsbD_append, show ¬ m + s + i < m by omega, show m + s + i - m = s + i by omega]

theorem hi_dist {k : Fin 5} {x : Nat} {b c : W16} (hx : x < 262144) (h : pI k x = .ok b) :
    x = eI ((dist32 b c).extractLsb' 16 16) := by
  rw [dist32, extract_high_append (s := 0), BitVec.extractLsb'_eq_self]
  exact of_pI hx h

theorem lo_dist {k : Fin 5} {x : Nat} {b c : W16} (hx : x < 262144) (h : pI k x = .ok c) :
    x = eI ((dist32 b c).extractLsb' 0 16) := by
  rw [dist32, extract_low_append]
  exact of_pI hx h

/-! ## Atomics -/

theorem of_amoMod {m : Nat} {x : AmoMod} (h : amoMod m = some x) :
    m = x.op.code + b2n (!x.dbl) * 16 + x.ord.code * 32 + x.sc.code * 128 ∧ (x.op = .fadd → x.dbl = false) ∧
    AmoOp.ofCode (m % 16) = some x.op := by
  unfold amoMod at h
  split at h
  case h_1 op ord sc hop hord hsc =>
    split at h
    case isTrue => cases h
    case isFalse hd =>
      cases h
      refine ⟨?_, fun e => ?_, hop⟩
      · rw [AmoOp.code_of_ofCode hop, AmoOrd.code_of_ofCode hord, Scope.code_of_ofCode hsc]
        by_cases hz : m / 16 % 2 = 0
        · simp only [hz, decide_true, Bool.not_true, b2n, Bool.false_eq_true, if_false]
          omega
        · simp only [hz, decide_false, Bool.not_false, b2n, if_true]
          omega
      · exact decide_eq_false fun hz => hd ⟨e, hz⟩
  case h_2 => cases h

/-- The modifier that slot E of an atomic holds. -/
theorem of_amoSlot {x : Nat} {m : AmoMod} (h : amoSlot x = some m) :
    x = eAmo m.op m.dbl m.ord m.sc ∧ (m.op = .fadd → m.dbl = false) ∧ AmoOp.ofCode ((x - immMark) % 16) = some m.op := by
  unfold amoSlot at h
  split at h
  case isTrue hm =>
    obtain ⟨h1, h2, h3⟩ := of_amoMod h
    refine ⟨?_, h2, h3⟩
    rw [eAmo, ← h1, eM]
    omega
  case isFalse => cases h

/-- Slot D of an atomic, as the operation of slot E asks. -/
theorem of_pCas {op : AmoOp} {x : Nat} {c : Option SOp} (hx : x < 262144) (h : pCas op x = .ok c) :
    x = eCas c ∧ c.isSome = decide (op = .cas) := by
  unfold pCas at h
  split at h
  case isTrue ho =>
    obtain ⟨a, ha, rfl⟩ := of_map h
    exact ⟨of_pSI hx ha, (decide_eq_true ho).symm⟩
  case isFalse ho =>
    obtain ⟨_, hz, h⟩ := ok_of_bind h
    cases h
    exact ⟨of_pZ hz, (decide_eq_false ho).symm⟩

theorem amo_ok {c : Bool} {op : AmoOp} {dbl : Bool} (hc : c = decide (op = .cas)) (hd : op = .fadd → dbl = false) :
    amoOk c op dbl = true := by
  rw [amoOk, decide_eq_true hc, Bool.true_and]
  by_cases ho : op = .fadd
  · rw [hd ho, Bool.and_false]; rfl
  · rw [decide_eq_false ho]; rfl

/-- Slots D and E of an atomic. -/
theorem amo_slots {r : Raw} {c : Option SOp} {m : AmoMod} (hf : r.fits) (hc : pAmoD r.d r.e = .ok c)
    (hm : opt 4 (amoSlot r.e) = .ok m) :
    r.d = eCas c ∧ r.e = eAmo m.op m.dbl m.ord m.sc ∧ amoOk c.isSome m.op m.dbl = true := by
  obtain ⟨he, hd, hop⟩ := of_amoSlot (of_opt hm)
  rw [pAmoD, hop] at hc
  obtain ⟨h1, h2⟩ := of_pCas (fits_d hf) hc
  exact ⟨h1, he, amo_ok h2 hd⟩

/-! ## Shapes of forms, and forms of one opcode -/

theorem of_fZ {mk : Head → Instr} {r : Raw} {i : Instr} {o : Nat} (fit : r.fits) (hopc : r.opc = o)
    (h : fZ mk r = .ok i)
    (make : ∀ g, g.ok .other = true → some (enc o g 0 0 0 0 0 0) = some r → Accepts r (mk g)) :
    Accepts r i := by
  obtain ⟨_, za, h⟩ := ok_of_bind h
  obtain ⟨_, zb, h⟩ := ok_of_bind h
  obtain ⟨_, zc, h⟩ := ok_of_bind h
  obtain ⟨_, zd, h⟩ := ok_of_bind h
  obtain ⟨_, ze, h⟩ := ok_of_bind h
  obtain ⟨g, hg, h⟩ := of_map h
  obtain ⟨hok, hwb, hr⟩ := of_pHead fit hg
  cases h
  exact make _ hok (congrArg some (encoded hopc hr (wb_zero hwb) (of_pZ za) (of_pZ zb) (of_pZ zc) (of_pZ zd) (of_pZ
      ze)).symm)

theorem of_fDSS {mk : Head → SDst → SSrc → SOp → Instr} {r : Raw} {i : Instr} {o : Nat} (fit : r.fits) (hopc : r.opc = o)
    (h : fDSS mk r = .ok i)
    (make : ∀ g d a b, g.ok .other = true → some (eDSS o g d a b) = some r → Accepts r (mk g d a b)) :
    Accepts r i := by
  obtain ⟨d, hd, h⟩ := ok_of_bind h
  obtain ⟨a, ha, h⟩ := ok_of_bind h
  obtain ⟨b, hb, h⟩ := ok_of_bind h
  obtain ⟨_, zd, h⟩ := ok_of_bind h
  obtain ⟨_, ze, h⟩ := ok_of_bind h
  obtain ⟨g, hg, h⟩ := ok_of_bind h
  obtain ⟨hok, hwb, hr⟩ := of_pHead fit hg
  cases h
  exact make _ _ _ _ hok (congrArg some (encoded hopc hr ((of_pSD (wb_any hwb) hd).1) ((of_pSD (wb_any hwb) hd).2) (of_pS
      ha) (of_pSI (fits_c fit) hb) (of_pZ zd) (of_pZ ze)).symm)

theorem of_fDS {mk : Head → SDst → SSrc → Instr} {r : Raw} {i : Instr} {o : Nat} (fit : r.fits) (hopc : r.opc = o)
    (h : fDS mk r = .ok i)
    (make : ∀ g d a, g.ok .other = true → some (eDS o g d a) = some r → Accepts r (mk g d a)) :
    Accepts r i := by
  obtain ⟨d, hd, h⟩ := ok_of_bind h
  obtain ⟨a, ha, h⟩ := ok_of_bind h
  obtain ⟨_, zc, h⟩ := ok_of_bind h
  obtain ⟨_, zd, h⟩ := ok_of_bind h
  obtain ⟨_, ze, h⟩ := ok_of_bind h
  obtain ⟨g, hg, h⟩ := ok_of_bind h
  obtain ⟨hok, hwb, hr⟩ := of_pHead fit hg
  cases h
  exact make _ _ _ hok (congrArg some (encoded hopc hr ((of_pSD (wb_any hwb) hd).1) ((of_pSD (wb_any hwb) hd).2) (of_pS ha)
      (of_pZ zc) (of_pZ zd) (of_pZ ze)).symm)

theorem of_fS {mk : Head → SSrc → Instr} {r : Raw} {i : Instr} {o : Nat} (fit : r.fits) (hopc : r.opc = o)
    (h : fS mk r = .ok i)
    (make : ∀ g a, g.ok .other = true → some (enc o g 0 0 (eS a) 0 0 0) = some r → Accepts r (mk g a)) :
    Accepts r i := by
  obtain ⟨_, za, h⟩ := ok_of_bind h
  obtain ⟨a, ha, h⟩ := ok_of_bind h
  obtain ⟨_, zc, h⟩ := ok_of_bind h
  obtain ⟨_, zd, h⟩ := ok_of_bind h
  obtain ⟨_, ze, h⟩ := ok_of_bind h
  obtain ⟨g, hg, h⟩ := ok_of_bind h
  obtain ⟨hok, hwb, hr⟩ := of_pHead fit hg
  cases h
  exact make _ _ hok (congrArg some (encoded hopc hr (wb_zero hwb) (of_pZ za) (of_pS ha) (of_pZ zc) (of_pZ zd) (of_pZ
      ze)).symm)

theorem of_fPPP {mk : Head → Fin 16 → Fin 16 → Fin 16 → Instr} {r : Raw} {i : Instr} {o : Nat} (fit : r.fits)
    (hopc : r.opc = o)
    (h : fPPP mk r = .ok i)
    (make : ∀ g d a b, g.ok .other = true → some (enc o g 1 (eN d.val) (eN a.val) (eN b.val) 0 0) = some r → Accepts r
        (mk g d a b)) :
    Accepts r i := by
  obtain ⟨d, hd, h⟩ := ok_of_bind h
  obtain ⟨a, ha, h⟩ := ok_of_bind h
  obtain ⟨b, hb, h⟩ := ok_of_bind h
  obtain ⟨_, zd, h⟩ := ok_of_bind h
  obtain ⟨_, ze, h⟩ := ok_of_bind h
  obtain ⟨g, hg, h⟩ := ok_of_bind h
  obtain ⟨hok, hwb, hr⟩ := of_pHead fit hg
  cases h
  exact make _ _ _ _ hok (congrArg some (encoded hopc hr (wb_one hwb) (of_pReq (wb_one hwb) hd) (of_pN ha) (of_pN hb)
      (of_pZ zd) (of_pZ ze)).symm)

theorem of_fV3r {mk : Head → VDst → VSrc → VOp → Fin 8 → RM → Bool → Instr} {r : Raw} {i : Instr} {o : Nat} (fit : r.fits)
    (hopc : r.opc = o)
    (h : fV3r mk r = .ok i)
    (make : ∀ g d b c k rm sat, g.ok .vxe = true → rm.det = true → some (eV3 o g d b c
        (k.val + rm.code * 8 + b2n sat * 64)) = some r → Accepts r (mk g d b c k rm sat)) :
    Accepts r i := by
  obtain ⟨d, hd, h⟩ := ok_of_bind h
  obtain ⟨b, hb, h⟩ := ok_of_bind h
  obtain ⟨c, hc, h⟩ := ok_of_bind h
  obtain ⟨m, hm, h⟩ := ok_of_bind h
  obtain ⟨rm, hrm, h⟩ := ok_of_bind h
  obtain ⟨k1, h⟩ := of_check h
  obtain ⟨_, ze, h⟩ := ok_of_bind h
  obtain ⟨g, hg, h⟩ := ok_of_bind h
  obtain ⟨hok, hwb, hr⟩ := of_pHead fit hg
  cases h
  exact make _ _ _ _ _ _ _ hok ((of_rmDet hrm).2) (congrArg some (encoded hopc hr ((of_pVD (wb_any hwb) hd).1) ((of_pVD
      (wb_any hwb) hd).2) (of_pV hb) (of_pVI (fits_c fit) hc) ((of_pM (fits_d fit) hm).1.trans (congrArg eM (msk_rm_sat
      (of_rmDet hrm).1 k1))) (of_pZ ze)).symm)

theorem of_fV3 {mk : Head → VDst → VSrc → VOp → Fin 8 → Instr} {r : Raw} {i : Instr} {o : Nat} (fit : r.fits)
    (hopc : r.opc = o)
    (h : fV3 mk r = .ok i)
    (make : ∀ g d b c k, g.ok .vxe = true → some (eV3 o g d b c k.val) = some r → Accepts r (mk g d b c k)) :
    Accepts r i := by
  obtain ⟨d, hd, h⟩ := ok_of_bind h
  obtain ⟨b, hb, h⟩ := ok_of_bind h
  obtain ⟨c, hc, h⟩ := ok_of_bind h
  obtain ⟨m, hm, h⟩ := ok_of_bind h
  obtain ⟨k1, h⟩ := of_check h
  obtain ⟨_, ze, h⟩ := ok_of_bind h
  obtain ⟨g, hg, h⟩ := ok_of_bind h
  obtain ⟨hok, hwb, hr⟩ := of_pHead fit hg
  cases h
  exact make _ _ _ _ _ hok (congrArg some (encoded hopc hr ((of_pVD (wb_any hwb) hd).1) ((of_pVD (wb_any hwb) hd).2) (of_pV
      hb) (of_pVI (fits_c fit) hc) ((of_pM (fits_d fit) hm).1.trans (congrArg eM (msk k1))) (of_pZ ze)).symm)

theorem of_fV4 {mk : Head → VDst → VSrc → VOp → VOp → Instr} {r : Raw} {i : Instr} {o : Nat} (fit : r.fits)
    (hopc : r.opc = o)
    (h : fV4 mk r = .ok i)
    (make : ∀ g d b c e, g.ok .vxe = true → some (eV4 o g d b c e) = some r → Accepts r (mk g d b c e)) :
    Accepts r i := by
  obtain ⟨d, hd, h⟩ := ok_of_bind h
  obtain ⟨b, hb, h⟩ := ok_of_bind h
  obtain ⟨c, hc, h⟩ := ok_of_bind h
  obtain ⟨e, he, h⟩ := ok_of_bind h
  obtain ⟨_, ze, h⟩ := ok_of_bind h
  obtain ⟨g, hg, h⟩ := ok_of_bind h
  obtain ⟨hok, hwb, hr⟩ := of_pHead fit hg
  cases h
  exact make _ _ _ _ _ hok (congrArg some (encoded hopc hr ((of_pVD (wb_any hwb) hd).1) ((of_pVD (wb_any hwb) hd).2) (of_pV
      hb) (of_pVI (fits_c fit) hc) (of_pVI (fits_d fit) he) (of_pZ ze)).symm)

theorem of_fV2 {mk : Head → VDst → VSrc → Fin 8 → Instr} {r : Raw} {i : Instr} {o : Nat} (fit : r.fits) (hopc : r.opc = o)
    (h : fV2 mk r = .ok i)
    (make : ∀ g d b k, g.ok .vxe = true → some (eV2 o g d b k.val) = some r → Accepts r (mk g d b k)) :
    Accepts r i := by
  obtain ⟨d, hd, h⟩ := ok_of_bind h
  obtain ⟨b, hb, h⟩ := ok_of_bind h
  obtain ⟨m, hm, h⟩ := ok_of_bind h
  obtain ⟨k1, h⟩ := of_check h
  obtain ⟨_, zd, h⟩ := ok_of_bind h
  obtain ⟨_, ze, h⟩ := ok_of_bind h
  obtain ⟨g, hg, h⟩ := ok_of_bind h
  obtain ⟨hok, hwb, hr⟩ := of_pHead fit hg
  cases h
  exact make _ _ _ _ hok (congrArg some (encoded hopc hr ((of_pVD (wb_any hwb) hd).1) ((of_pVD (wb_any hwb) hd).2) (of_pV
      hb) ((of_pM (fits_c fit) hm).1.trans (congrArg eM (msk k1))) (of_pZ zd) (of_pZ ze)).symm)

theorem of_fV2r {mk : Head → VDst → VSrc → Fin 8 → RM → Instr} {r : Raw} {i : Instr} {o : Nat} (fit : r.fits)
    (hopc : r.opc = o)
    (h : fV2r mk r = .ok i)
    (make : ∀ g d b k rm, g.ok .vxe = true → rm.det = true → some (eV2 o g d b (k.val + rm.code * 8)) = some r → Accepts r
        (mk g d b k rm)) :
    Accepts r i := by
  obtain ⟨d, hd, h⟩ := ok_of_bind h
  obtain ⟨b, hb, h⟩ := ok_of_bind h
  obtain ⟨m, hm, h⟩ := ok_of_bind h
  obtain ⟨rm, hrm, h⟩ := ok_of_bind h
  obtain ⟨_, zd, h⟩ := ok_of_bind h
  obtain ⟨_, ze, h⟩ := ok_of_bind h
  obtain ⟨g, hg, h⟩ := ok_of_bind h
  obtain ⟨hok, hwb, hr⟩ := of_pHead fit hg
  cases h
  exact make _ _ _ _ _ hok ((of_rmDet hrm).2) (congrArg some (encoded hopc hr ((of_pVD (wb_any hwb) hd).1) ((of_pVD (wb_any
      hwb) hd).2) (of_pV hb) ((of_pM (fits_c fit) hm).1.trans (congrArg eM (msk_rm (of_rmDet hrm).1))) (of_pZ zd) (of_pZ
      ze)).symm)

theorem of_fDot {mk : Head → VDst → VSrc → VSrc → VOp → Instr} {r : Raw} {i : Instr} {o : Nat} (fit : r.fits)
    (hopc : r.opc = o)
    (h : fDot mk r = .ok i)
    (make : ∀ g d b c e, g.ok .vxe = true → some (enc o g d.wb (eVD d) (eV b) (eV c) (eVI e) 0) = some r → Accepts r
        (mk g d b c e)) :
    Accepts r i := by
  obtain ⟨d, hd, h⟩ := ok_of_bind h
  obtain ⟨b, hb, h⟩ := ok_of_bind h
  obtain ⟨c, hc, h⟩ := ok_of_bind h
  obtain ⟨e, he, h⟩ := ok_of_bind h
  obtain ⟨_, ze, h⟩ := ok_of_bind h
  obtain ⟨g, hg, h⟩ := ok_of_bind h
  obtain ⟨hok, hwb, hr⟩ := of_pHead fit hg
  cases h
  exact make _ _ _ _ _ hok (congrArg some (encoded hopc hr ((of_pVD (wb_any hwb) hd).1) ((of_pVD (wb_any hwb) hd).2) (of_pV
      hb) (of_pV hc) (of_pVI (fits_d fit) he) (of_pZ ze)).symm)

theorem of_fVK {lim : Nat} {mk : Head → VDst → VSrc → SOp → Fin 8 → Instr} {r : Raw} {i : Instr} {o : Nat} (fit : r.fits)
    (hopc : r.opc = o)
    (h : fVK lim mk r = .ok i)
    (make : ∀ g d b n k, g.ok .vxe = true → n.below lim = true → some (enc o g d.wb (eVD d) (eV b) (eSI n)
        (eM k.val) 0) = some r → Accepts r (mk g d b n k)) :
    Accepts r i := by
  obtain ⟨d, hd, h⟩ := ok_of_bind h
  obtain ⟨b, hb, h⟩ := ok_of_bind h
  obtain ⟨k, hk, h⟩ := ok_of_bind h
  obtain ⟨_, l1, h⟩ := ok_of_bind h
  obtain ⟨m, hm, h⟩ := ok_of_bind h
  obtain ⟨k1, h⟩ := of_check h
  obtain ⟨_, ze, h⟩ := ok_of_bind h
  obtain ⟨g, hg, h⟩ := ok_of_bind h
  obtain ⟨hok, hwb, hr⟩ := of_pHead fit hg
  cases h
  exact make _ _ _ _ _ hok (of_pBelow l1) (congrArg some (encoded hopc hr ((of_pVD (wb_any hwb) hd).1) ((of_pVD (wb_any
      hwb) hd).2) (of_pV hb) (of_pSI (fits_c fit) hk) ((of_pM (fits_d fit) hm).1.trans (congrArg eM (msk k1))) (of_pZ
      ze)).symm)

theorem of_fRed {scan : Bool} {mk : Head → VDst → VSrc → Fin 8 → RM → RedKind → Instr} {r : Raw} {i : Instr} {o : Nat}
    (fit : r.fits) (hopc : r.opc = o)
    (h : fRed scan mk r = .ok i)
    (make : ∀ g d b k rm red, g.ok .vxe = true → rm.det = true → (red.bitwise = false ∨ scan = false ∧ rm = .rne) → some
        (eV2 o g d b (k.val + rm.code * 8 + red.code * 128)) = some r → Accepts r (mk g d b k rm red)) :
    Accepts r i := by
  obtain ⟨d, hd, h⟩ := ok_of_bind h
  obtain ⟨b, hb, h⟩ := ok_of_bind h
  obtain ⟨m, hm, h⟩ := ok_of_bind h
  obtain ⟨rm, hrm, h⟩ := ok_of_bind h
  obtain ⟨k, hk, h⟩ := ok_of_bind h
  obtain ⟨k1, h⟩ := of_check h
  obtain ⟨_, zd, h⟩ := ok_of_bind h
  obtain ⟨_, ze, h⟩ := ok_of_bind h
  obtain ⟨g, hg, h⟩ := ok_of_bind h
  obtain ⟨hok, hwb, hr⟩ := of_pHead fit hg
  cases h
  exact make _ _ _ _ _ _ hok ((of_rmDet hrm).2) k1.2 (congrArg some (encoded hopc hr ((of_pVD (wb_any hwb) hd).1) ((of_pVD
      (wb_any hwb) hd).2) (of_pV hb) ((of_pM (fits_c fit) hm).1.trans (congrArg eM (msk_rm_kind (of_rmDet hrm).1
      (RedKind.code_of_ofCode (of_opt hk)) k1.1))) (of_pZ zd) (of_pZ ze)).symm)

theorem of_fMMM {mk : Head → Fin 8 → Fin 8 → Fin 8 → Instr} {r : Raw} {i : Instr} {o : Nat} (fit : r.fits)
    (hopc : r.opc = o)
    (h : fMMM mk r = .ok i)
    (make : ∀ g d a b, g.ok .vxe = true → some (enc o g 1 (eN d.val) (eN a.val) (eN b.val) 0 0) = some r → Accepts r
        (mk g d a b)) :
    Accepts r i := by
  obtain ⟨d, hd, h⟩ := ok_of_bind h
  obtain ⟨a, ha, h⟩ := ok_of_bind h
  obtain ⟨b, hb, h⟩ := ok_of_bind h
  obtain ⟨_, zd, h⟩ := ok_of_bind h
  obtain ⟨_, ze, h⟩ := ok_of_bind h
  obtain ⟨g, hg, h⟩ := ok_of_bind h
  obtain ⟨hok, hwb, hr⟩ := of_pHead fit hg
  cases h
  exact make _ _ _ _ hok (congrArg some (encoded hopc hr (wb_one hwb) (of_pReq (wb_one hwb) hd) (of_pN ha) (of_pN hb)
      (of_pZ zd) (of_pZ ze)).symm)

theorem of_fMS {mk : Head → Fin 64 → Fin 8 → Instr} {r : Raw} {i : Instr} {o : Nat} (fit : r.fits) (hopc : r.opc = o)
    (h : fMS mk r = .ok i)
    (make : ∀ g d a, g.ok .vxe = true → some (enc o g 1 (eN d.val) (eN a.val) 0 0 0) = some r → Accepts r (mk g d a)) :
    Accepts r i := by
  obtain ⟨d, hd, h⟩ := ok_of_bind h
  obtain ⟨a, ha, h⟩ := ok_of_bind h
  obtain ⟨_, zc, h⟩ := ok_of_bind h
  obtain ⟨_, zd, h⟩ := ok_of_bind h
  obtain ⟨_, ze, h⟩ := ok_of_bind h
  obtain ⟨g, hg, h⟩ := ok_of_bind h
  obtain ⟨hok, hwb, hr⟩ := of_pHead fit hg
  cases h
  exact make _ _ _ hok (congrArg some (encoded hopc hr (wb_one hwb) (of_pReq (wb_one hwb) hd) (of_pN ha) (of_pZ zc) (of_pZ
      zd) (of_pZ ze)).symm)

theorem of_fCpy {α : Type} {mk : Head → Ref → Lw → Lw → α → Instr} {last : Nat → P α} {ex : α → Nat} {r : Raw} {i : Instr}
    {o : Nat} (fit : r.fits) (hopc : r.opc = o) (hlast : ∀ {x : α}, last r.e = .ok x → r.e = ex x)
    (h : fCpy mk last r = .ok i)
    (make : ∀ g bo dst src x, g.ok .other = true → dst.ok = true → src.ok = true → some (enc o g 0 0 (eR bo) (eLw dst)
        (eLw src) (ex x)) = some r → Accepts r (mk g bo dst src x)) :
    Accepts r i := by
  obtain ⟨_, za, h⟩ := ok_of_bind h
  obtain ⟨bo, hbo, h⟩ := ok_of_bind h
  obtain ⟨dst, hdst, h⟩ := ok_of_bind h
  obtain ⟨src, hsrc, h⟩ := ok_of_bind h
  obtain ⟨x, hx, h⟩ := ok_of_bind h
  obtain ⟨g, hg, h⟩ := ok_of_bind h
  obtain ⟨hok, hwb, hr⟩ := of_pHead fit hg
  cases h
  exact make _ _ _ _ _ hok ((of_pLw (fits_c fit) hdst).2) ((of_pLw (fits_d fit) hsrc).2) (congrArg some (encoded hopc hr
      (wb_zero hwb) (of_pZ za) (of_pR hbo) ((of_pLw (fits_c fit) hdst).1) ((of_pLw (fits_d fit) hsrc).1) (hlast hx)).symm)

theorem of_fTS {mk : Head → TileRef → SSrc → Instr} {r : Raw} {i : Instr} {o : Nat} (fit : r.fits) (hopc : r.opc = o)
    (h : fTS mk r = .ok i)
    (make : ∀ g t cb, g.ok .other = true → some (eTS o g t cb 0 0) = some r → Accepts r (mk g t cb)) :
    Accepts r i := by
  obtain ⟨_, za, h⟩ := ok_of_bind h
  obtain ⟨t, ht, h⟩ := ok_of_bind h
  obtain ⟨cb, hcb, h⟩ := ok_of_bind h
  obtain ⟨_, zd, h⟩ := ok_of_bind h
  obtain ⟨_, ze, h⟩ := ok_of_bind h
  obtain ⟨g, hg, h⟩ := ok_of_bind h
  obtain ⟨hok, hwb, hr⟩ := of_pHead fit hg
  cases h
  exact make _ _ _ hok (congrArg some (encoded hopc hr (wb_zero hwb) (of_pZ za) (of_pT ht) (of_pS hcb) (of_pZ zd) (of_pZ
      ze)).symm)

theorem of_fTSV {mk : Head → TileRef → SSrc → VLm → Instr} {r : Raw} {i : Instr} {o : Nat} (fit : r.fits) (hopc : r.opc = o)
    (h : fTSV mk r = .ok i)
    (make : ∀ g t cb x, g.ok .other = true → some (eTS o g t cb (eVL x) 0) = some r → Accepts r (mk g t cb x)) :
    Accepts r i := by
  obtain ⟨_, za, h⟩ := ok_of_bind h
  obtain ⟨t, ht, h⟩ := ok_of_bind h
  obtain ⟨cb, hcb, h⟩ := ok_of_bind h
  obtain ⟨x, hx, h⟩ := ok_of_bind h
  obtain ⟨_, ze, h⟩ := ok_of_bind h
  obtain ⟨g, hg, h⟩ := ok_of_bind h
  obtain ⟨hok, hwb, hr⟩ := of_pHead fit hg
  cases h
  exact make _ _ _ _ hok (congrArg some (encoded hopc hr (wb_zero hwb) (of_pZ za) (of_pT ht) (of_pS hcb) (of_pVL hx) (of_pZ
      ze)).symm)

theorem of_fTSVR {mk : Head → TileRef → SSrc → VLm → Rep → Instr} {r : Raw} {i : Instr} {o : Nat} (fit : r.fits)
    (hopc : r.opc = o)
    (h : fTSVR mk r = .ok i)
    (make : ∀ g t cb x rep, g.ok .other = true → repLm x rep = true → some (eTS o g t cb (eVL x) (eRep rep)) = some r →
        Accepts r (mk g t cb x rep)) :
    Accepts r i := by
  obtain ⟨_, za, h⟩ := ok_of_bind h
  obtain ⟨t, ht, h⟩ := ok_of_bind h
  obtain ⟨cb, hcb, h⟩ := ok_of_bind h
  obtain ⟨x, hx, h⟩ := ok_of_bind h
  obtain ⟨rep, hrep, h⟩ := ok_of_bind h
  obtain ⟨k1, h⟩ := of_check h
  obtain ⟨g, hg, h⟩ := ok_of_bind h
  obtain ⟨hok, hwb, hr⟩ := of_pHead fit hg
  cases h
  exact make _ _ _ _ _ hok k1 (congrArg some (encoded hopc hr (wb_zero hwb) (of_pZ za) (of_pT ht) (of_pS hcb) (of_pVL hx)
      (of_pRep hrep)).symm)

theorem of_fSf {mk : Head → Ref → SSrc → Bool → Rep → Instr} {r : Raw} {i : Instr} {o : Nat} (fit : r.fits)
    (hopc : r.opc = o)
    (h : fSf mk r = .ok i)
    (make : ∀ g bo cb acc rep, g.ok .other = true → some (eSf o g bo cb acc rep) = some r → Accepts r
        (mk g bo cb acc rep)) :
    Accepts r i := by
  obtain ⟨_, za, h⟩ := ok_of_bind h
  obtain ⟨bo, hbo, h⟩ := ok_of_bind h
  obtain ⟨cb, hcb, h⟩ := ok_of_bind h
  obtain ⟨m, hm, h⟩ := ok_of_bind h
  obtain ⟨k1, h⟩ := of_check h
  obtain ⟨rep, hrep, h⟩ := ok_of_bind h
  obtain ⟨g, hg, h⟩ := ok_of_bind h
  obtain ⟨hok, hwb, hr⟩ := of_pHead fit hg
  cases h
  exact make _ _ _ _ _ hok (congrArg some (encoded hopc hr (wb_zero hwb) (of_pZ za) (of_pR hbo) (of_pS hcb) ((of_pM (fits_d
      fit) hm).1.trans (congrArg eM ((decide_eq_one k1).symm))) (of_pRep hrep)).symm)

theorem of_fBrc {r : Raw} {i : Instr} (fit : r.fits) (hopc : r.opc = 0x002) (h : fBrc r = .ok i) : Accepts r i := by
  obtain ⟨_, za, h⟩ := ok_of_bind h
  obtain ⟨a, ha, h⟩ := ok_of_bind h
  obtain ⟨b, hb, h⟩ := ok_of_bind h
  obtain ⟨m, hm, h⟩ := ok_of_bind h
  obtain ⟨c, hc, h⟩ := ok_of_bind h
  obtain ⟨dist, hdist, h⟩ := ok_of_bind h
  obtain ⟨g, hg, h⟩ := ok_of_bind h
  obtain ⟨hok, hwb, hr⟩ := of_pHead fit hg
  cases h
  exact ⟨hok, (congrArg some (encoded hopc hr (wb_zero hwb) (of_pZ za) (of_pS ha) (of_pSI (fits_c fit) hb) ((of_pM (fits_d
      fit) hm).1.trans (congrArg eM ((Cond.code_of_ofCode (of_opt hc)).symm))) (of_pI (fits_e fit) hdist)).symm)⟩

theorem of_fBr {r : Raw} {i : Instr} (fit : r.fits) (hopc : r.opc = 0x001) (h : fBr r = .ok i) : Accepts r i := by
  obtain ⟨_, za, h⟩ := ok_of_bind h
  obtain ⟨b, hb, h⟩ := ok_of_bind h
  obtain ⟨c, hc, h⟩ := ok_of_bind h
  obtain ⟨_, zd, h⟩ := ok_of_bind h
  obtain ⟨_, ze, h⟩ := ok_of_bind h
  obtain ⟨g, hg, h⟩ := ok_of_bind h
  obtain ⟨hok, hwb, hr⟩ := of_pHead fit hg
  cases h
  exact ⟨hok, (congrArg some (encoded hopc hr (wb_zero hwb) (of_pZ za) (hi_dist (fits_b fit) hb) (lo_dist (fits_c fit) hc)
      (of_pZ zd) (of_pZ ze)).symm)⟩

theorem of_fCall {r : Raw} {i : Instr} (fit : r.fits) (hopc : r.opc = 0x004) (h : fCall r = .ok i) : Accepts r i := by
  obtain ⟨d, hd, h⟩ := ok_of_bind h
  obtain ⟨b, hb, h⟩ := ok_of_bind h
  obtain ⟨c, hc, h⟩ := ok_of_bind h
  obtain ⟨_, zd, h⟩ := ok_of_bind h
  obtain ⟨_, ze, h⟩ := ok_of_bind h
  obtain ⟨g, hg, h⟩ := ok_of_bind h
  obtain ⟨hok, hwb, hr⟩ := of_pHead fit hg
  cases h
  exact ⟨hok, (congrArg some (encoded hopc hr ((of_pSD (wb_any hwb) hd).1) ((of_pSD (wb_any hwb) hd).2) (hi_dist (fits_b
      fit) hb) (lo_dist (fits_c fit) hc) (of_pZ zd) (of_pZ ze)).symm)⟩

theorem of_fLoop {r : Raw} {i : Instr} (fit : r.fits) (hopc : r.opc = 0x006) (h : fLoop r = .ok i) : Accepts r i := by
  obtain ⟨d, hd, h⟩ := ok_of_bind h
  obtain ⟨a, ha, h⟩ := ok_of_bind h
  obtain ⟨c, hc, h⟩ := ok_of_bind h
  obtain ⟨_, zd, h⟩ := ok_of_bind h
  obtain ⟨_, ze, h⟩ := ok_of_bind h
  obtain ⟨g, hg, h⟩ := ok_of_bind h
  obtain ⟨hok, hwb, hr⟩ := of_pHead fit hg
  cases h
  exact ⟨hok, (congrArg some (encoded hopc hr ((of_pSD (wb_any hwb) hd).1) ((of_pSD (wb_any hwb) hd).2) (of_pS ha) (of_pI
      (fits_c fit) hc) (of_pZ zd) (of_pZ ze)).symm)⟩

theorem of_fPhase {r : Raw} {i : Instr} (fit : r.fits) (hopc : r.opc = 0x00B) (h : fPhase r = .ok i) : Accepts r i := by
  obtain ⟨d, hd, h⟩ := ok_of_bind h
  obtain ⟨_, zb, h⟩ := ok_of_bind h
  obtain ⟨_, zc, h⟩ := ok_of_bind h
  obtain ⟨_, zd, h⟩ := ok_of_bind h
  obtain ⟨_, ze, h⟩ := ok_of_bind h
  obtain ⟨g, hg, h⟩ := ok_of_bind h
  obtain ⟨hok, hwb, hr⟩ := of_pHead fit hg
  cases h
  exact ⟨hok, (congrArg some (encoded hopc hr ((of_pSD (wb_any hwb) hd).1) ((of_pSD (wb_any hwb) hd).2) (of_pZ zb) (of_pZ
      zc) (of_pZ zd) (of_pZ ze)).symm)⟩

theorem of_fBara {r : Raw} {i : Instr} (fit : r.fits) (hopc : r.opc = 0x00D) (h : fBara r = .ok i) : Accepts r i := by
  obtain ⟨d, hd, h⟩ := ok_of_bind h
  obtain ⟨n, hn, h⟩ := ok_of_bind h
  obtain ⟨c, hc, h⟩ := ok_of_bind h
  obtain ⟨_, zd, h⟩ := ok_of_bind h
  obtain ⟨_, ze, h⟩ := ok_of_bind h
  obtain ⟨g, hg, h⟩ := ok_of_bind h
  obtain ⟨hok, hwb, hr⟩ := of_pHead fit hg
  cases h
  exact ⟨hok, (congrArg some (encoded hopc hr ((of_pSD (wb_any hwb) hd).1) ((of_pSD (wb_any hwb) hd).2) (of_pN hn) (of_pSI
      (fits_c fit) hc) (of_pZ zd) (of_pZ ze)).symm)⟩

theorem of_fBar {mk : Head → Fin 96 → SOp → Instr} {r : Raw} {i : Instr} {o : Nat} (fit : r.fits) (hopc : r.opc = o)
    (h : fBar mk r = .ok i)
    (make : ∀ g n c, g.ok .other = true → some (enc o g 0 0 (eN n.val) (eSI c) 0 0) = some r → Accepts r (mk g n c)) :
    Accepts r i := by
  obtain ⟨_, za, h⟩ := ok_of_bind h
  obtain ⟨n, hn, h⟩ := ok_of_bind h
  obtain ⟨c, hc, h⟩ := ok_of_bind h
  obtain ⟨_, zd, h⟩ := ok_of_bind h
  obtain ⟨_, ze, h⟩ := ok_of_bind h
  obtain ⟨g, hg, h⟩ := ok_of_bind h
  obtain ⟨hok, hwb, hr⟩ := of_pHead fit hg
  cases h
  exact make _ _ _ hok (congrArg some (encoded hopc hr (wb_zero hwb) (of_pZ za) (of_pN hn) (of_pSI (fits_c fit) hc) (of_pZ
      zd) (of_pZ ze)).symm)

theorem of_fTokin {r : Raw} {i : Instr} (fit : r.fits) (hopc : r.opc = 0x010) (h : fTokin r = .ok i) : Accepts r i := by
  obtain ⟨_, za, h⟩ := ok_of_bind h
  obtain ⟨mb, hmb, h⟩ := ok_of_bind h
  obtain ⟨m, hm, h⟩ := ok_of_bind h
  obtain ⟨k, hk, h⟩ := ok_of_bind h
  obtain ⟨_, zd, h⟩ := ok_of_bind h
  obtain ⟨_, ze, h⟩ := ok_of_bind h
  obtain ⟨g, hg, h⟩ := ok_of_bind h
  obtain ⟨hok, hwb, hr⟩ := of_pHead fit hg
  cases h
  exact ⟨hok, (congrArg some (encoded hopc hr (wb_zero hwb) (of_pZ za) (of_pSI (fits_b fit) hmb) ((of_pM (fits_c fit)
      hm).1.trans (congrArg eM ((MbKind.code_of_ofCode (of_opt hk)).symm))) (of_pZ zd) (of_pZ ze)).symm)⟩

theorem of_fTokout {r : Raw} {i : Instr} (fit : r.fits) (hopc : r.opc = 0x011) (h : fTokout r = .ok i) : Accepts r i := by
  obtain ⟨_, za, h⟩ := ok_of_bind h
  obtain ⟨st, hst, h⟩ := ok_of_bind h
  obtain ⟨mb, hmb, h⟩ := ok_of_bind h
  obtain ⟨m, hm, h⟩ := ok_of_bind h
  obtain ⟨k, hk, h⟩ := ok_of_bind h
  obtain ⟨_, ze, h⟩ := ok_of_bind h
  obtain ⟨g, hg, h⟩ := ok_of_bind h
  obtain ⟨hok, hwb, hr⟩ := of_pHead fit hg
  cases h
  exact ⟨hok, (congrArg some (encoded hopc hr (wb_zero hwb) (of_pZ za) (of_pSI (fits_b fit) hst) (of_pSI (fits_c fit) hmb)
      ((of_pM (fits_d fit) hm).1.trans (congrArg eM ((MbKind.code_of_ofCode (of_opt hk)).symm))) (of_pZ ze)).symm)⟩

theorem of_fDSI {mk : Head → SDst → SOp → Instr} {r : Raw} {i : Instr} {o : Nat} (fit : r.fits) (hopc : r.opc = o)
    (h : fDSI mk r = .ok i)
    (make : ∀ g d a, g.ok .other = true → some (enc o g d.wb (eSD d) (eSI a) 0 0 0) = some r → Accepts r (mk g d a)) :
    Accepts r i := by
  obtain ⟨d, hd, h⟩ := ok_of_bind h
  obtain ⟨a, ha, h⟩ := ok_of_bind h
  obtain ⟨_, zc, h⟩ := ok_of_bind h
  obtain ⟨_, zd, h⟩ := ok_of_bind h
  obtain ⟨_, ze, h⟩ := ok_of_bind h
  obtain ⟨g, hg, h⟩ := ok_of_bind h
  obtain ⟨hok, hwb, hr⟩ := of_pHead fit hg
  cases h
  exact make _ _ _ hok (congrArg some (encoded hopc hr ((of_pSD (wb_any hwb) hd).1) ((of_pSD (wb_any hwb) hd).2) (of_pSI
      (fits_b fit) ha) (of_pZ zc) (of_pZ zd) (of_pZ ze)).symm)

theorem of_fTsr {r : Raw} {i : Instr} (fit : r.fits) (hopc : r.opc = 0x013) (h : fTsr r = .ok i) : Accepts r i := by
  obtain ⟨d, hd, h⟩ := ok_of_bind h
  obtain ⟨e, he, h⟩ := ok_of_bind h
  obtain ⟨k1, h⟩ := of_refusal h
  obtain ⟨_, zc, h⟩ := ok_of_bind h
  obtain ⟨_, zd, h⟩ := ok_of_bind h
  obtain ⟨_, ze, h⟩ := ok_of_bind h
  obtain ⟨g, hg, h⟩ := ok_of_bind h
  obtain ⟨hok, hwb, hr⟩ := of_pHead fit hg
  cases h
  exact ⟨(and_true hok (decide_eq_true fun e => k1 ⟨wb_one hwb, e⟩)), (congrArg some (encoded hopc hr (wb_one hwb) (of_pReq
      (wb_one hwb) hd) (of_pN he) (of_pZ zc) (of_pZ zd) (of_pZ ze)).symm)⟩

theorem of_fBoPh {mk : Head → SOp → SOp → Instr} {r : Raw} {i : Instr} {o : Nat} (fit : r.fits) (hopc : r.opc = o)
    (h : fBoPh mk r = .ok i)
    (make : ∀ g bo ph, g.ok .other = true → bo.below 4096 = true → some (enc o g 0 0 (eSI bo) (eSI ph) 0 0) = some r →
        Accepts r (mk g bo ph)) :
    Accepts r i := by
  obtain ⟨_, za, h⟩ := ok_of_bind h
  obtain ⟨bo, hbo, h⟩ := ok_of_bind h
  obtain ⟨_, l1, h⟩ := ok_of_bind h
  obtain ⟨ph, hph, h⟩ := ok_of_bind h
  obtain ⟨_, zd, h⟩ := ok_of_bind h
  obtain ⟨_, ze, h⟩ := ok_of_bind h
  obtain ⟨g, hg, h⟩ := ok_of_bind h
  obtain ⟨hok, hwb, hr⟩ := of_pHead fit hg
  cases h
  exact make _ _ _ hok (of_pBelow l1) (congrArg some (encoded hopc hr (wb_zero hwb) (of_pZ za) (of_pSI (fits_b fit) hbo)
      (of_pSI (fits_c fit) hph) (of_pZ zd) (of_pZ ze)).symm)

theorem of_fTrap {r : Raw} {i : Instr} (fit : r.fits) (hopc : r.opc = 0x017) (h : fTrap r = .ok i) : Accepts r i := by
  obtain ⟨_, za, h⟩ := ok_of_bind h
  obtain ⟨c, hc, h⟩ := ok_of_bind h
  obtain ⟨_, zc, h⟩ := ok_of_bind h
  obtain ⟨_, zd, h⟩ := ok_of_bind h
  obtain ⟨_, ze, h⟩ := ok_of_bind h
  obtain ⟨g, hg, h⟩ := ok_of_bind h
  obtain ⟨hok, hwb, hr⟩ := of_pHead fit hg
  cases h
  exact ⟨hok, (congrArg some (encoded hopc hr (wb_zero hwb) (of_pZ za) (of_pI (fits_b fit) hc) (of_pZ zc) (of_pZ zd) (of_pZ
      ze)).symm)⟩

theorem of_fMfs {r : Raw} {i : Instr} (fit : r.fits) (hopc : r.opc = 0x019) (h : fMfs r = .ok i) : Accepts r i := by
  obtain ⟨d, hd, h⟩ := ok_of_bind h
  obtain ⟨n, hn, h⟩ := ok_of_bind h
  obtain ⟨m, hm, h⟩ := ok_of_bind h
  obtain ⟨nm, hnm, h⟩ := ok_of_bind h
  obtain ⟨_, zd, h⟩ := ok_of_bind h
  obtain ⟨_, ze, h⟩ := ok_of_bind h
  obtain ⟨g, hg, h⟩ := ok_of_bind h
  obtain ⟨hok, hwb, hr⟩ := of_pHead fit hg
  cases h
  exact ⟨hok, (congrArg some (encoded hopc hr ((of_pSD (wb_any hwb) hd).1) ((of_pSD (wb_any hwb) hd).2) (mfs_slots fit hn hm
      hnm).1 (mfs_slots fit hn hm hnm).2 (of_pZ zd) (of_pZ ze)).symm)⟩

theorem of_fMts {r : Raw} {i : Instr} (fit : r.fits) (hopc : r.opc = 0x01A) (h : fMts r = .ok i) : Accepts r i := by
  obtain ⟨_, za, h⟩ := ok_of_bind h
  obtain ⟨n, hn, h⟩ := ok_of_bind h
  obtain ⟨x, hx, h⟩ := ok_of_bind h
  obtain ⟨a, ha, h⟩ := ok_of_bind h
  obtain ⟨_, zd, h⟩ := ok_of_bind h
  obtain ⟨_, ze, h⟩ := ok_of_bind h
  obtain ⟨g, hg, h⟩ := ok_of_bind h
  obtain ⟨hok, hwb, hr⟩ := of_pHead fit hg
  cases h
  exact ⟨hok, (congrArg some (encoded hopc hr (wb_zero hwb) (of_pZ za) ((of_pX hn).trans (congrArg eN
      (SysReg.code_of_ofCode (of_opt hx)).symm)) (of_pSI (fits_c fit) ha) (of_pZ zd) (of_pZ ze)).symm)⟩

theorem of_fLoc {r : Raw} {i : Instr} (fit : r.fits) (hopc : r.opc = 0x01B) (h : fLoc r = .ok i) : Accepts r i := by
  obtain ⟨d, hd, h⟩ := ok_of_bind h
  obtain ⟨a, ha, h⟩ := ok_of_bind h
  obtain ⟨m, hm, h⟩ := ok_of_bind h
  obtain ⟨_, zd, h⟩ := ok_of_bind h
  obtain ⟨_, ze, h⟩ := ok_of_bind h
  obtain ⟨g, hg, h⟩ := ok_of_bind h
  obtain ⟨hok, hwb, hr⟩ := of_pHead fit hg
  cases h
  exact ⟨hok, (congrArg some (encoded hopc hr ((of_pSD (wb_any hwb) hd).1) ((of_pSD (wb_any hwb) hd).2) (of_pSI (fits_b fit)
      ha) ((of_pKind (fits_c fit) hm).1.trans (congrArg eM ((decide_eq_one (of_pKind (fits_c fit) hm).2).symm))) (of_pZ zd)
      (of_pZ ze)).symm)⟩

theorem of_fFence {r : Raw} {i : Instr} (fit : r.fits) (hopc : r.opc = 0x020) (h : fFence r = .ok i) : Accepts r i := by
  obtain ⟨_, za, h⟩ := ok_of_bind h
  obtain ⟨m, hm, h⟩ := ok_of_bind h
  obtain ⟨sc, hsc, h⟩ := ok_of_bind h
  obtain ⟨s, hs, h⟩ := ok_of_bind h
  obtain ⟨k1, h⟩ := of_check h
  obtain ⟨_, zd, h⟩ := ok_of_bind h
  obtain ⟨_, ze, h⟩ := ok_of_bind h
  obtain ⟨g, hg, h⟩ := ok_of_bind h
  obtain ⟨hok, hwb, hr⟩ := of_pHead fit hg
  cases h
  exact ⟨(and_true (and_true hok (decide_eq_true (ofNat3_ne_zero (Nat.mod_lt _ (by omega)) k1.2.2.1))) (decide_eq_true
      (ofNat3_ne_zero (by omega) k1.2.2.2))), (congrArg some (encoded hopc hr (wb_zero hwb) (of_pZ za) ((of_pM (fits_b fit)
      hm).1.trans (congrArg eM ((Scope.code_of_ofCode (of_opt hsc)).symm))) ((of_pM (fits_c fit) hs).1.trans (congrArg eM
      (fence_kinds k1.1 k1.2.1))) (of_pZ zd) (of_pZ ze)).symm)⟩

theorem of_fFsc {r : Raw} {i : Instr} (fit : r.fits) (hopc : r.opc = 0x021) (h : fFsc r = .ok i) : Accepts r i := by
  obtain ⟨_, za, h⟩ := ok_of_bind h
  obtain ⟨m, hm, h⟩ := ok_of_bind h
  obtain ⟨sc, hsc, h⟩ := ok_of_bind h
  obtain ⟨_, zc, h⟩ := ok_of_bind h
  obtain ⟨_, zd, h⟩ := ok_of_bind h
  obtain ⟨_, ze, h⟩ := ok_of_bind h
  obtain ⟨g, hg, h⟩ := ok_of_bind h
  obtain ⟨hok, hwb, hr⟩ := of_pHead fit hg
  cases h
  exact ⟨hok, (congrArg some (encoded hopc hr (wb_zero hwb) (of_pZ za) ((of_pM (fits_b fit) hm).1.trans (congrArg eM
      ((Scope.code_of_ofCode (of_opt hsc)).symm))) (of_pZ zc) (of_pZ zd) (of_pZ ze)).symm)⟩

theorem of_fSel {r : Raw} {i : Instr} (fit : r.fits) (hopc : r.opc = 0x04A) (h : fSel r = .ok i) : Accepts r i := by
  obtain ⟨d, hd, h⟩ := ok_of_bind h
  obtain ⟨p, hp, h⟩ := ok_of_bind h
  obtain ⟨a, ha, h⟩ := ok_of_bind h
  obtain ⟨b, hb, h⟩ := ok_of_bind h
  obtain ⟨_, ze, h⟩ := ok_of_bind h
  obtain ⟨g, hg, h⟩ := ok_of_bind h
  obtain ⟨hok, hwb, hr⟩ := of_pHead fit hg
  cases h
  exact ⟨hok, (congrArg some (encoded hopc hr ((of_pSD (wb_any hwb) hd).1) ((of_pSD (wb_any hwb) hd).2) (of_pN hp) (of_pS
      ha) (of_pSI (fits_d fit) hb) (of_pZ ze)).symm)⟩

theorem of_fCmp {r : Raw} {i : Instr} (fit : r.fits) (hopc : r.opc = 0x04B) (h : fCmp r = .ok i) : Accepts r i := by
  obtain ⟨d, hd, h⟩ := ok_of_bind h
  obtain ⟨a, ha, h⟩ := ok_of_bind h
  obtain ⟨b, hb, h⟩ := ok_of_bind h
  obtain ⟨m, hm, h⟩ := ok_of_bind h
  obtain ⟨c, hc, h⟩ := ok_of_bind h
  obtain ⟨_, ze, h⟩ := ok_of_bind h
  obtain ⟨g, hg, h⟩ := ok_of_bind h
  obtain ⟨hok, hwb, hr⟩ := of_pHead fit hg
  cases h
  exact ⟨hok, (congrArg some (encoded hopc hr (wb_one hwb) (of_pReq (wb_one hwb) hd) (of_pS ha) (of_pSI (fits_c fit) hb)
      ((of_pM (fits_d fit) hm).1.trans (congrArg eM ((Cond.code_of_ofCode (of_opt hc)).symm))) (of_pZ ze)).symm)⟩

theorem of_fExt {mk : Head → SDst → SSrc → W16 → Instr} {r : Raw} {i : Instr} {o : Nat} (fit : r.fits) (hopc : r.opc = o)
    (h : fExt mk r = .ok i)
    (make : ∀ g d a w, g.ok .other = true → decide (1 ≤ w.toNat ∧ w.toNat ≤ 64) = true → some (enc o g d.wb (eSD d) (eS a)
        (eI w) 0 0) = some r → Accepts r (mk g d a w)) :
    Accepts r i := by
  obtain ⟨d, hd, h⟩ := ok_of_bind h
  obtain ⟨a, ha, h⟩ := ok_of_bind h
  obtain ⟨w, hw, h⟩ := ok_of_bind h
  obtain ⟨k1, h⟩ := of_check h
  obtain ⟨_, zd, h⟩ := ok_of_bind h
  obtain ⟨_, ze, h⟩ := ok_of_bind h
  obtain ⟨g, hg, h⟩ := ok_of_bind h
  obtain ⟨hok, hwb, hr⟩ := of_pHead fit hg
  cases h
  exact make _ _ _ _ hok (decide_eq_true k1) (congrArg some (encoded hopc hr ((of_pSD (wb_any hwb) hd).1) ((of_pSD (wb_any
      hwb) hd).2) (of_pS ha) (of_pI (fits_c fit) hw) (of_pZ zd) (of_pZ ze)).symm)

theorem of_fAidx {r : Raw} {i : Instr} (fit : r.fits) (hopc : r.opc = 0x04E) (h : fAidx r = .ok i) : Accepts r i := by
  obtain ⟨d, hd, h⟩ := ok_of_bind h
  obtain ⟨a, ha, h⟩ := ok_of_bind h
  obtain ⟨b, hb, h⟩ := ok_of_bind h
  obtain ⟨k, hk, h⟩ := ok_of_bind h
  obtain ⟨k1, h⟩ := of_check h
  obtain ⟨_, ze, h⟩ := ok_of_bind h
  obtain ⟨g, hg, h⟩ := ok_of_bind h
  obtain ⟨hok, hwb, hr⟩ := of_pHead fit hg
  cases h
  exact ⟨(and_true hok (decide_eq_true k1)), (congrArg some (encoded hopc hr ((of_pSD (wb_any hwb) hd).1) ((of_pSD (wb_any
      hwb) hd).2) (of_pS ha) (of_pSI (fits_c fit) hb) (of_pI (fits_d fit) hk) (of_pZ ze)).symm)⟩

theorem of_fBfx {r : Raw} {i : Instr} (fit : r.fits) (hopc : r.opc = 0x04F) (h : fBfx r = .ok i) : Accepts r i := by
  obtain ⟨d, hd, h⟩ := ok_of_bind h
  obtain ⟨a, ha, h⟩ := ok_of_bind h
  obtain ⟨p, hp, h⟩ := ok_of_bind h
  obtain ⟨l, hl, h⟩ := ok_of_bind h
  obtain ⟨k1, h⟩ := of_check h
  obtain ⟨_, ze, h⟩ := ok_of_bind h
  obtain ⟨g, hg, h⟩ := ok_of_bind h
  obtain ⟨hok, hwb, hr⟩ := of_pHead fit hg
  cases h
  exact ⟨(and_true hok (k1)), (congrArg some (encoded hopc hr ((of_pSD (wb_any hwb) hd).1) ((of_pSD (wb_any hwb) hd).2)
      (of_pS ha) (of_pPos (fits_c fit) hp) (of_pI (fits_d fit) hl) (of_pZ ze)).symm)⟩

theorem of_fBfi {r : Raw} {i : Instr} (fit : r.fits) (hopc : r.opc = 0x050) (h : fBfi r = .ok i) : Accepts r i := by
  obtain ⟨d, hd, h⟩ := ok_of_bind h
  obtain ⟨a, ha, h⟩ := ok_of_bind h
  obtain ⟨b, hb, h⟩ := ok_of_bind h
  obtain ⟨p, hp, h⟩ := ok_of_bind h
  obtain ⟨l, hl, h⟩ := ok_of_bind h
  obtain ⟨k1, h⟩ := of_check h
  obtain ⟨g, hg, h⟩ := ok_of_bind h
  obtain ⟨hok, hwb, hr⟩ := of_pHead fit hg
  cases h
  exact ⟨(and_true hok (k1)), (congrArg some (encoded hopc hr ((of_pSD (wb_any hwb) hd).1) ((of_pSD (wb_any hwb) hd).2)
      (of_pS ha) (of_pSI (fits_c fit) hb) (of_pPos (fits_d fit) hp) (of_pI (fits_e fit) hl)).symm)⟩

theorem of_fPnot {r : Raw} {i : Instr} (fit : r.fits) (hopc : r.opc = 0x05B) (h : fPnot r = .ok i) : Accepts r i := by
  obtain ⟨d, hd, h⟩ := ok_of_bind h
  obtain ⟨a, ha, h⟩ := ok_of_bind h
  obtain ⟨_, zc, h⟩ := ok_of_bind h
  obtain ⟨_, zd, h⟩ := ok_of_bind h
  obtain ⟨_, ze, h⟩ := ok_of_bind h
  obtain ⟨g, hg, h⟩ := ok_of_bind h
  obtain ⟨hok, hwb, hr⟩ := of_pHead fit hg
  cases h
  exact ⟨hok, (congrArg some (encoded hopc hr (wb_one hwb) (of_pReq (wb_one hwb) hd) (of_pN ha) (of_pZ zc) (of_pZ zd)
      (of_pZ ze)).symm)⟩

theorem of_fPmov {r : Raw} {i : Instr} (fit : r.fits) (hopc : r.opc = 0x05C) (h : fPmov r = .ok i) : Accepts r i := by
  obtain ⟨d, hd, h⟩ := ok_of_bind h
  obtain ⟨a, ha, h⟩ := ok_of_bind h
  obtain ⟨_, zc, h⟩ := ok_of_bind h
  obtain ⟨_, zd, h⟩ := ok_of_bind h
  obtain ⟨_, ze, h⟩ := ok_of_bind h
  obtain ⟨g, hg, h⟩ := ok_of_bind h
  obtain ⟨hok, hwb, hr⟩ := of_pHead fit hg
  cases h
  exact ⟨hok, (congrArg some (encoded hopc hr (wb_one hwb) (of_pReq (wb_one hwb) hd) (of_pPOp ha) (of_pZ zc) (of_pZ zd)
      (of_pZ ze)).symm)⟩

theorem of_fFcnt {r : Raw} {i : Instr} (fit : r.fits) (hopc : r.opc = 0x060) (h : fFcnt r = .ok i) : Accepts r i := by
  obtain ⟨d, hd, h⟩ := ok_of_bind h
  obtain ⟨n, hn, h⟩ := ok_of_bind h
  obtain ⟨m, hm, h⟩ := ok_of_bind h
  obtain ⟨nm, hnm, h⟩ := ok_of_bind h
  obtain ⟨_, zd, h⟩ := ok_of_bind h
  obtain ⟨_, ze, h⟩ := ok_of_bind h
  obtain ⟨g, hg, h⟩ := ok_of_bind h
  obtain ⟨hok, hwb, hr⟩ := of_pHead fit hg
  cases h
  exact ⟨hok, (congrArg some (encoded hopc hr ((of_pSD (wb_any hwb) hd).1) ((of_pSD (wb_any hwb) hd).2) (fifo_slots fit hn
      hm hnm).1 (fifo_slots fit hn hm hnm).2 (of_pZ zd) (of_pZ ze)).symm)⟩

theorem of_fFifo {mk : Head → FifoName → Instr} {r : Raw} {i : Instr} {o : Nat} (fit : r.fits) (hopc : r.opc = o)
    (h : fFifo mk r = .ok i)
    (make : ∀ g n, g.ok .other = true → some (enc o g 0 0 (eN n.num) (eM n.kind) 0 0) = some r → Accepts r (mk g n)) :
    Accepts r i := by
  obtain ⟨_, za, h⟩ := ok_of_bind h
  obtain ⟨n, hn, h⟩ := ok_of_bind h
  obtain ⟨m, hm, h⟩ := ok_of_bind h
  obtain ⟨nm, hnm, h⟩ := ok_of_bind h
  obtain ⟨_, zd, h⟩ := ok_of_bind h
  obtain ⟨_, ze, h⟩ := ok_of_bind h
  obtain ⟨g, hg, h⟩ := ok_of_bind h
  obtain ⟨hok, hwb, hr⟩ := of_pHead fit hg
  cases h
  exact make _ _ hok (congrArg some (encoded hopc hr (wb_zero hwb) (of_pZ za) (fifo_slots fit hn hm hnm).1 (fifo_slots fit hn
      hm hnm).2 (of_pZ zd) (of_pZ ze)).symm)

theorem of_fVcmp {r : Raw} {i : Instr} (fit : r.fits) (hopc : r.opc = 0x08B) (h : fVcmp r = .ok i) : Accepts r i := by
  obtain ⟨d, hd, h⟩ := ok_of_bind h
  obtain ⟨b, hb, h⟩ := ok_of_bind h
  obtain ⟨c, hc, h⟩ := ok_of_bind h
  obtain ⟨m, hm, h⟩ := ok_of_bind h
  obtain ⟨k, hk, h⟩ := ok_of_bind h
  obtain ⟨k1, h⟩ := of_check h
  obtain ⟨_, ze, h⟩ := ok_of_bind h
  obtain ⟨g, hg, h⟩ := ok_of_bind h
  obtain ⟨hok, hwb, hr⟩ := of_pHead fit hg
  cases h
  exact ⟨hok, (congrArg some (encoded hopc hr (wb_one hwb) (of_pReq (wb_one hwb) hd) (of_pV hb) (of_pVI (fits_c fit) hc)
      ((of_pM (fits_d fit) hm).1.trans (congrArg eM (msk_kind (VCond.code_of_ofCode (of_opt hk)) k1))) (of_pZ ze)).symm)⟩

theorem of_fVsel {r : Raw} {i : Instr} (fit : r.fits) (hopc : r.opc = 0x08C) (h : fVsel r = .ok i) : Accepts r i := by
  obtain ⟨d, hd, h⟩ := ok_of_bind h
  obtain ⟨k, hk, h⟩ := ok_of_bind h
  obtain ⟨b, hb, h⟩ := ok_of_bind h
  obtain ⟨c, hc, h⟩ := ok_of_bind h
  obtain ⟨_, ze, h⟩ := ok_of_bind h
  obtain ⟨g, hg, h⟩ := ok_of_bind h
  obtain ⟨hok, hwb, hr⟩ := of_pHead fit hg
  cases h
  exact ⟨hok, (congrArg some (encoded hopc hr ((of_pVD (wb_any hwb) hd).1) ((of_pVD (wb_any hwb) hd).2) (of_pN hk) (of_pV
      hb) (of_pVI (fits_d fit) hc) (of_pZ ze)).symm)⟩

theorem of_fVtag {r : Raw} {i : Instr} (fit : r.fits) (hopc : r.opc = 0x098) (h : fVtag r = .ok i) : Accepts r i := by
  obtain ⟨d, hd, h⟩ := ok_of_bind h
  obtain ⟨b, hb, h⟩ := ok_of_bind h
  obtain ⟨m, hm, h⟩ := ok_of_bind h
  obtain ⟨ft, hft, h⟩ := ok_of_bind h
  obtain ⟨k1, h⟩ := of_check h
  obtain ⟨_, zd, h⟩ := ok_of_bind h
  obtain ⟨_, ze, h⟩ := ok_of_bind h
  obtain ⟨g, hg, h⟩ := ok_of_bind h
  obtain ⟨hok, hwb, hr⟩ := of_pHead fit hg
  cases h
  exact ⟨hok, (congrArg some (encoded hopc hr ((of_pVD (wb_any hwb) hd).1) ((of_pVD (wb_any hwb) hd).2) (of_pV hb) ((of_pM
      (fits_c fit) hm).1.trans (congrArg eM (msk_ft (Fmt.code_of_ofCode (of_opt hft)) k1.1 k1.2))) (of_pZ zd) (of_pZ
      ze)).symm)⟩

theorem of_fVpack {r : Raw} {i : Instr} (fit : r.fits) (hopc : r.opc = 0x0A0) (h : fVpack r = .ok i) : Accepts r i := by
  obtain ⟨d, hd, h⟩ := ok_of_bind h
  obtain ⟨b, hb, h⟩ := ok_of_bind h
  obtain ⟨c, hc, h⟩ := ok_of_bind h
  obtain ⟨m, hm, h⟩ := ok_of_bind h
  obtain ⟨rm, hrm, h⟩ := ok_of_bind h
  obtain ⟨ft, hft, h⟩ := ok_of_bind h
  obtain ⟨k1, h⟩ := of_check h
  obtain ⟨_, ze, h⟩ := ok_of_bind h
  obtain ⟨g, hg, h⟩ := ok_of_bind h
  obtain ⟨hok, hwb, hr⟩ := of_pHead fit hg
  cases h
  exact ⟨(and_true (and_true hok ((of_rmDet hrm).2)) (k1.2.2)), (congrArg some (encoded hopc hr ((of_pVD (wb_any hwb)
      hd).1) ((of_pVD (wb_any hwb) hd).2) (of_pV hb) (of_pV hc) ((of_pM (fits_d fit) hm).1.trans (congrArg eM (msk_rm_ft
      (of_rmDet hrm).1 (Fmt.code_of_ofCode (of_opt hft)) k1.1 k1.2.1))) (of_pZ ze)).symm)⟩

theorem of_fVblks {r : Raw} {i : Instr} (fit : r.fits) (hopc : r.opc = 0x0A3) (h : fVblks r = .ok i) : Accepts r i := by
  obtain ⟨d, hd, h⟩ := ok_of_bind h
  obtain ⟨b, hb, h⟩ := ok_of_bind h
  obtain ⟨c, hc, h⟩ := ok_of_bind h
  obtain ⟨m, hm, h⟩ := ok_of_bind h
  obtain ⟨rm, hrm, h⟩ := ok_of_bind h
  obtain ⟨ft, hft, h⟩ := ok_of_bind h
  obtain ⟨k1, h⟩ := of_check h
  obtain ⟨_, ze, h⟩ := ok_of_bind h
  obtain ⟨g, hg, h⟩ := ok_of_bind h
  obtain ⟨hok, hwb, hr⟩ := of_pHead fit hg
  cases h
  exact ⟨(and_true (and_true hok ((of_rmDet hrm).2)) (k1.2.2.2)), (congrArg some (encoded hopc hr ((of_pVD (wb_any hwb)
      hd).1) ((of_pVD (wb_any hwb) hd).2) (of_pV hb) (of_pVZ hc) ((of_pM (fits_d fit) hm).1.trans (congrArg eM
      (rm_ft_quarter (of_rmDet hrm).1 (Fmt.code_of_ofCode (of_opt hft)) k1.1 k1.2.1 k1.2.2.1))) (of_pZ ze)).symm)⟩

theorem of_fVblkg {r : Raw} {i : Instr} (fit : r.fits) (hopc : r.opc = 0x0A4) (h : fVblkg r = .ok i) : Accepts r i := by
  obtain ⟨d, hd, h⟩ := ok_of_bind h
  obtain ⟨b, hb, h⟩ := ok_of_bind h
  obtain ⟨m, hm, h⟩ := ok_of_bind h
  obtain ⟨rm, hrm, h⟩ := ok_of_bind h
  obtain ⟨ft, hft, h⟩ := ok_of_bind h
  obtain ⟨k1, h⟩ := of_check h
  obtain ⟨_, zd, h⟩ := ok_of_bind h
  obtain ⟨_, ze, h⟩ := ok_of_bind h
  obtain ⟨g, hg, h⟩ := ok_of_bind h
  obtain ⟨hok, hwb, hr⟩ := of_pHead fit hg
  cases h
  exact ⟨(and_true (and_true hok ((of_rmDet hrm).2)) (k1.2.2)), (congrArg some (encoded hopc hr ((of_pVD (wb_any hwb)
      hd).1) ((of_pVD (wb_any hwb) hd).2) (of_pV hb) ((of_pM (fits_c fit) hm).1.trans (congrArg eM (msk_rm_ft_quarter
      (of_rmDet hrm).1 (Fmt.code_of_ofCode (of_opt hft)) k1.1 k1.2.1))) (of_pZ zd) (of_pZ ze)).symm)⟩

theorem of_fVacc12 {r : Raw} {i : Instr} (fit : r.fits) (hopc : r.opc = 0x0A5) (h : fVacc12 r = .ok i) : Accepts r i := by
  obtain ⟨d, hd, h⟩ := ok_of_bind h
  obtain ⟨a, ha, h⟩ := ok_of_bind h
  obtain ⟨x, hx, h⟩ := ok_of_bind h
  obtain ⟨sg, hsg, h⟩ := ok_of_bind h
  obtain ⟨sp, hsp, h⟩ := ok_of_bind h
  obtain ⟨g, hg, h⟩ := ok_of_bind h
  obtain ⟨hok, hwb, hr⟩ := of_pHead fit hg
  cases h
  exact ⟨hok, (congrArg some (encoded hopc hr ((of_pVD (wb_any hwb) hd).1) ((of_pVD (wb_any hwb) hd).2) (of_pV ha) (of_pVI
      (fits_c fit) hx) (of_pS hsg) (of_pS hsp)).symm)⟩

theorem of_fVshfr {r : Raw} {i : Instr} (fit : r.fits) (hopc : r.opc = 0x0C8) (h : fVshfr r = .ok i) : Accepts r i := by
  obtain ⟨d, hd, h⟩ := ok_of_bind h
  obtain ⟨b, hb, h⟩ := ok_of_bind h
  obtain ⟨x, hx, h⟩ := ok_of_bind h
  obtain ⟨m, hm, h⟩ := ok_of_bind h
  obtain ⟨k1, h⟩ := of_check h
  obtain ⟨_, ze, h⟩ := ok_of_bind h
  obtain ⟨g, hg, h⟩ := ok_of_bind h
  obtain ⟨hok, hwb, hr⟩ := of_pHead fit hg
  cases h
  exact ⟨hok, (congrArg some (encoded hopc hr ((of_pVD (wb_any hwb) hd).1) ((of_pVD (wb_any hwb) hd).2) (of_pV hb) (of_pV
      hx) ((of_pM (fits_d fit) hm).1.trans (congrArg eM (msk k1))) (of_pZ ze)).symm)⟩

theorem of_fViota {r : Raw} {i : Instr} (fit : r.fits) (hopc : r.opc = 0x0CA) (h : fViota r = .ok i) : Accepts r i := by
  obtain ⟨d, hd, h⟩ := ok_of_bind h
  obtain ⟨st, hst, h⟩ := ok_of_bind h
  obtain ⟨sd, hsd, h⟩ := ok_of_bind h
  obtain ⟨m, hm, h⟩ := ok_of_bind h
  obtain ⟨ft, hft, h⟩ := ok_of_bind h
  obtain ⟨k1, h⟩ := of_check h
  obtain ⟨_, ze, h⟩ := ok_of_bind h
  obtain ⟨g, hg, h⟩ := ok_of_bind h
  obtain ⟨hok, hwb, hr⟩ := of_pHead fit hg
  cases h
  exact ⟨(and_true hok (k1.2.2)), (congrArg some (encoded hopc hr ((of_pVD (wb_any hwb) hd).1) ((of_pVD (wb_any hwb) hd).2)
      (of_pSI (fits_b fit) hst) (of_pSI (fits_c fit) hsd) ((of_pM (fits_d fit) hm).1.trans (congrArg eM (msk_ft
      (Fmt.code_of_ofCode (of_opt hft)) k1.1 k1.2.1))) (of_pZ ze)).symm)⟩

theorem of_fVmov {r : Raw} {i : Instr} (fit : r.fits) (hopc : r.opc = 0x0CB) (h : fVmov r = .ok i) : Accepts r i := by
  obtain ⟨d, hd, h⟩ := ok_of_bind h
  obtain ⟨b, hb, h⟩ := ok_of_bind h
  obtain ⟨_, zc, h⟩ := ok_of_bind h
  obtain ⟨_, zd, h⟩ := ok_of_bind h
  obtain ⟨_, ze, h⟩ := ok_of_bind h
  obtain ⟨g, hg, h⟩ := ok_of_bind h
  obtain ⟨hok, hwb, hr⟩ := of_pHead fit hg
  cases h
  exact ⟨hok, (congrArg some (encoded hopc hr ((of_pVD (wb_any hwb) hd).1) ((of_pVD (wb_any hwb) hd).2) (of_pV hb) (of_pZ
      zc) (of_pZ zd) (of_pZ ze)).symm)⟩

theorem of_fVsplat {r : Raw} {i : Instr} (fit : r.fits) (hopc : r.opc = 0x0D0) (h : fVsplat r = .ok i) : Accepts r i := by
  obtain ⟨d, hd, h⟩ := ok_of_bind h
  obtain ⟨a, ha, h⟩ := ok_of_bind h
  obtain ⟨m, hm, h⟩ := ok_of_bind h
  obtain ⟨ft, hft, h⟩ := ok_of_bind h
  obtain ⟨k1, h⟩ := of_check h
  obtain ⟨_, zd, h⟩ := ok_of_bind h
  obtain ⟨_, ze, h⟩ := ok_of_bind h
  obtain ⟨g, hg, h⟩ := ok_of_bind h
  obtain ⟨hok, hwb, hr⟩ := of_pHead fit hg
  cases h
  exact ⟨(and_true hok (decide_eq_true k1.2.2)), (congrArg some (encoded hopc hr ((of_pVD (wb_any hwb) hd).1) ((of_pVD
      (wb_any hwb) hd).2) (of_pSI (fits_b fit) ha) ((of_pM (fits_c fit) hm).1.trans (congrArg eM (msk_ft
      (Fmt.code_of_ofCode (of_opt hft)) k1.1 k1.2.1))) (of_pZ zd) (of_pZ ze)).symm)⟩

theorem of_fVext {r : Raw} {i : Instr} (fit : r.fits) (hopc : r.opc = 0x0D1) (h : fVext r = .ok i) : Accepts r i := by
  obtain ⟨d, hd, h⟩ := ok_of_bind h
  obtain ⟨b, hb, h⟩ := ok_of_bind h
  obtain ⟨e, he, h⟩ := ok_of_bind h
  obtain ⟨m, hm, h⟩ := ok_of_bind h
  obtain ⟨k1, h⟩ := of_check h
  obtain ⟨_, ze, h⟩ := ok_of_bind h
  obtain ⟨g, hg, h⟩ := ok_of_bind h
  obtain ⟨hok, hwb, hr⟩ := of_pHead fit hg
  cases h
  exact ⟨hok, (congrArg some (encoded hopc hr (wb_one hwb) (of_pReq (wb_one hwb) hd) (of_pV hb) (of_pSI (fits_c fit) he)
      ((of_pM (fits_d fit) hm).1.trans (congrArg eM (sx_bit k1))) (of_pZ ze)).symm)⟩

theorem of_fVins {r : Raw} {i : Instr} (fit : r.fits) (hopc : r.opc = 0x0D2) (h : fVins r = .ok i) : Accepts r i := by
  obtain ⟨d, hd, h⟩ := ok_of_bind h
  obtain ⟨b, hb, h⟩ := ok_of_bind h
  obtain ⟨a, ha, h⟩ := ok_of_bind h
  obtain ⟨e, he, h⟩ := ok_of_bind h
  obtain ⟨_, ze, h⟩ := ok_of_bind h
  obtain ⟨g, hg, h⟩ := ok_of_bind h
  obtain ⟨hok, hwb, hr⟩ := of_pHead fit hg
  cases h
  exact ⟨hok, (congrArg some (encoded hopc hr ((of_pVD (wb_any hwb) hd).1) ((of_pVD (wb_any hwb) hd).2) (of_pV hb) (of_pS
      ha) (of_pSI (fits_d fit) he) (of_pZ ze)).symm)⟩

theorem of_fVrng {r : Raw} {i : Instr} (fit : r.fits) (hopc : r.opc = 0x0E0) (h : fVrng r = .ok i) : Accepts r i := by
  obtain ⟨d, hd, h⟩ := ok_of_bind h
  obtain ⟨sg, hsg, h⟩ := ok_of_bind h
  obtain ⟨sp, hsp, h⟩ := ok_of_bind h
  obtain ⟨m, hm, h⟩ := ok_of_bind h
  obtain ⟨k, hk, h⟩ := ok_of_bind h
  obtain ⟨k1, h⟩ := of_check h
  obtain ⟨_, ze, h⟩ := ok_of_bind h
  obtain ⟨g, hg, h⟩ := ok_of_bind h
  obtain ⟨hok, hwb, hr⟩ := of_pHead fit hg
  cases h
  exact ⟨hok, (congrArg some (encoded hopc hr ((of_pVD (wb_any hwb) hd).1) ((of_pVD (wb_any hwb) hd).2) (of_pS hsg) (of_pS
      hsp) ((of_pM (fits_d fit) hm).1.trans (congrArg eM (msk_kind (DrawKind.code_of_ofCode (of_opt hk)) k1))) (of_pZ
      ze)).symm)⟩

theorem of_fVdrop {r : Raw} {i : Instr} (fit : r.fits) (hopc : r.opc = 0x0E1) (h : fVdrop r = .ok i) : Accepts r i := by
  obtain ⟨d, hd, h⟩ := ok_of_bind h
  obtain ⟨b, hb, h⟩ := ok_of_bind h
  obtain ⟨sg, hsg, h⟩ := ok_of_bind h
  obtain ⟨sp, hsp, h⟩ := ok_of_bind h
  obtain ⟨kt, hkt, h⟩ := ok_of_bind h
  obtain ⟨g, hg, h⟩ := ok_of_bind h
  obtain ⟨hok, hwb, hr⟩ := of_pHead fit hg
  cases h
  exact ⟨hok, (congrArg some (encoded hopc hr ((of_pVD (wb_any hwb) hd).1) ((of_pVD (wb_any hwb) hd).2) (of_pV hb) (of_pS
      hsg) (of_pS hsp) (of_pI (fits_e fit) hkt)).symm)⟩

theorem of_fMnot {r : Raw} {i : Instr} (fit : r.fits) (hopc : r.opc = 0x0F3) (h : fMnot r = .ok i) : Accepts r i := by
  obtain ⟨d, hd, h⟩ := ok_of_bind h
  obtain ⟨a, ha, h⟩ := ok_of_bind h
  obtain ⟨_, zc, h⟩ := ok_of_bind h
  obtain ⟨_, zd, h⟩ := ok_of_bind h
  obtain ⟨_, ze, h⟩ := ok_of_bind h
  obtain ⟨g, hg, h⟩ := ok_of_bind h
  obtain ⟨hok, hwb, hr⟩ := of_pHead fit hg
  cases h
  exact ⟨hok, (congrArg some (encoded hopc hr (wb_one hwb) (of_pReq (wb_one hwb) hd) (of_pN ha) (of_pZ zc) (of_pZ zd)
      (of_pZ ze)).symm)⟩

theorem of_fLdv {r : Raw} {i : Instr} (fit : r.fits) (hopc : r.opc = 0x180) (h : fLdv r = .ok i) : Accepts r i := by
  obtain ⟨d, hd, h⟩ := ok_of_bind h
  obtain ⟨t, ht, h⟩ := ok_of_bind h
  obtain ⟨o, ho, h⟩ := ok_of_bind h
  obtain ⟨_, zd, h⟩ := ok_of_bind h
  obtain ⟨rep, hrep, h⟩ := ok_of_bind h
  obtain ⟨g, hg, h⟩ := ok_of_bind h
  obtain ⟨hok, hwb, hr⟩ := of_pHead fit hg
  cases h
  exact ⟨hok, (congrArg some (encoded hopc hr ((of_pVD (wb_any hwb) hd).1) ((of_pVD (wb_any hwb) hd).2) (of_pR ht) (of_pSI
      (fits_c fit) ho) (of_pZ zd) (of_pRep hrep)).symm)⟩

theorem of_fStv {r : Raw} {i : Instr} (fit : r.fits) (hopc : r.opc = 0x181) (h : fStv r = .ok i) : Accepts r i := by
  obtain ⟨_, za, h⟩ := ok_of_bind h
  obtain ⟨v, hv, h⟩ := ok_of_bind h
  obtain ⟨t, ht, h⟩ := ok_of_bind h
  obtain ⟨o, ho, h⟩ := ok_of_bind h
  obtain ⟨rep, hrep, h⟩ := ok_of_bind h
  obtain ⟨g, hg, h⟩ := ok_of_bind h
  obtain ⟨hok, hwb, hr⟩ := of_pHead fit hg
  cases h
  exact ⟨(and_true hok ((of_pVP hv).2)), (congrArg some (encoded hopc hr (wb_zero hwb) (of_pZ za) ((of_pVP hv).1) (of_pR
      ht) (of_pSI (fits_d fit) ho) (of_pRep hrep)).symm)⟩

theorem of_fLdvt {r : Raw} {i : Instr} (fit : r.fits) (hopc : r.opc = 0x182) (h : fLdvt r = .ok i) : Accepts r i := by
  obtain ⟨d, hd, h⟩ := ok_of_bind h
  obtain ⟨t, ht, h⟩ := ok_of_bind h
  obtain ⟨s, hs, h⟩ := ok_of_bind h
  obtain ⟨m, hm, h⟩ := ok_of_bind h
  obtain ⟨_, ze, h⟩ := ok_of_bind h
  obtain ⟨g, hg, h⟩ := ok_of_bind h
  obtain ⟨hok, hwb, hr⟩ := of_pHead fit hg
  cases h
  exact ⟨hok, (congrArg some (encoded hopc hr ((of_pVD (wb_any hwb) hd).1) ((of_pVD (wb_any hwb) hd).2) (of_pR ht) (of_pS
      hs) ((of_pKind (fits_d fit) hm).1.trans (congrArg eM ((decide_eq_one (of_pKind (fits_d fit) hm).2).symm))) (of_pZ
      ze)).symm)⟩

theorem of_fLdvg {r : Raw} {i : Instr} (fit : r.fits) (hopc : r.opc = 0x183) (h : fLdvg r = .ok i) : Accepts r i := by
  obtain ⟨d, hd, h⟩ := ok_of_bind h
  obtain ⟨t, ht, h⟩ := ok_of_bind h
  obtain ⟨v, hv, h⟩ := ok_of_bind h
  obtain ⟨c, hc, h⟩ := ok_of_bind h
  obtain ⟨_, ze, h⟩ := ok_of_bind h
  obtain ⟨g, hg, h⟩ := ok_of_bind h
  obtain ⟨hok, hwb, hr⟩ := of_pHead fit hg
  cases h
  exact ⟨hok, (congrArg some (encoded hopc hr ((of_pVD (wb_any hwb) hd).1) ((of_pVD (wb_any hwb) hd).2) (of_pR ht) (of_pV
      hv) (of_pSI (fits_d fit) hc) (of_pZ ze)).symm)⟩

theorem of_fStvs {r : Raw} {i : Instr} (fit : r.fits) (hopc : r.opc = 0x184) (h : fStvs r = .ok i) : Accepts r i := by
  obtain ⟨_, za, h⟩ := ok_of_bind h
  obtain ⟨v, hv, h⟩ := ok_of_bind h
  obtain ⟨t, ht, h⟩ := ok_of_bind h
  obtain ⟨x, hx, h⟩ := ok_of_bind h
  obtain ⟨c, hc, h⟩ := ok_of_bind h
  obtain ⟨g, hg, h⟩ := ok_of_bind h
  obtain ⟨hok, hwb, hr⟩ := of_pHead fit hg
  cases h
  exact ⟨(and_true hok ((of_pVP hv).2)), (congrArg some (encoded hopc hr (wb_zero hwb) (of_pZ za) ((of_pVP hv).1) (of_pR
      ht) (of_pV hx) (of_pSI (fits_e fit) hc)).symm)⟩

theorem of_fLdsc {r : Raw} {i : Instr} (fit : r.fits) (hopc : r.opc = 0x185) (h : fLdsc r = .ok i) : Accepts r i := by
  obtain ⟨d, hd, h⟩ := ok_of_bind h
  obtain ⟨t, ht, h⟩ := ok_of_bind h
  obtain ⟨o, ho, h⟩ := ok_of_bind h
  obtain ⟨m, hm, h⟩ := ok_of_bind h
  obtain ⟨rep, hrep, h⟩ := ok_of_bind h
  obtain ⟨sz, hsz, h⟩ := ok_of_bind h
  obtain ⟨g, hg, h⟩ := ok_of_bind h
  obtain ⟨hok, hwb, hr⟩ := of_pHead fit hg
  cases h
  exact ⟨hok, (congrArg some (encoded hopc hr (wb_one hwb) (of_pReq (wb_one hwb) hd) (of_pR ht) (of_pSI (fits_c fit) ho)
      ((of_pKind (fits_d fit) hm).1.trans (congrArg eM (size_sx (Size.code_of_ofCode (of_opt hsz)) (of_pKind (fits_d fit)
      hm).2))) (of_pRep hrep)).symm)⟩

theorem of_fStsc {r : Raw} {i : Instr} (fit : r.fits) (hopc : r.opc = 0x186) (h : fStsc r = .ok i) : Accepts r i := by
  obtain ⟨_, za, h⟩ := ok_of_bind h
  obtain ⟨a, ha, h⟩ := ok_of_bind h
  obtain ⟨t, ht, h⟩ := ok_of_bind h
  obtain ⟨o, ho, h⟩ := ok_of_bind h
  obtain ⟨m, hm, h⟩ := ok_of_bind h
  obtain ⟨sz, hsz, h⟩ := ok_of_bind h
  obtain ⟨g, hg, h⟩ := ok_of_bind h
  obtain ⟨hok, hwb, hr⟩ := of_pHead fit hg
  cases h
  exact ⟨hok, (congrArg some (encoded hopc hr (wb_zero hwb) (of_pZ za) (of_pS ha) (of_pR ht) (of_pSI (fits_d fit) ho)
      ((of_pKind (fits_e fit) hm).1.trans (congrArg eM ((Size.code_of_ofCode (of_opt hsz)).symm)))).symm)⟩

theorem of_fLda {r : Raw} {i : Instr} (fit : r.fits) (hopc : r.opc = 0x187) (h : fLda r = .ok i) : Accepts r i := by
  obtain ⟨d, hd, h⟩ := ok_of_bind h
  obtain ⟨t, ht, h⟩ := ok_of_bind h
  obtain ⟨o, ho, h⟩ := ok_of_bind h
  obtain ⟨m, hm, h⟩ := ok_of_bind h
  obtain ⟨_, ze, h⟩ := ok_of_bind h
  obtain ⟨g, hg, h⟩ := ok_of_bind h
  obtain ⟨hok, hwb, hr⟩ := of_pHead fit hg
  cases h
  exact ⟨hok, (congrArg some (encoded hopc hr (wb_one hwb) (of_pReq (wb_one hwb) hd) (of_pR ht) (of_pSI (fits_c fit) ho)
      (of_ldaMod (fits_d fit) hm) (of_pZ ze)).symm)⟩

theorem of_fStl {r : Raw} {i : Instr} (fit : r.fits) (hopc : r.opc = 0x188) (h : fStl r = .ok i) : Accepts r i := by
  obtain ⟨_, za, h⟩ := ok_of_bind h
  obtain ⟨a, ha, h⟩ := ok_of_bind h
  obtain ⟨t, ht, h⟩ := ok_of_bind h
  obtain ⟨o, ho, h⟩ := ok_of_bind h
  obtain ⟨m, hm, h⟩ := ok_of_bind h
  obtain ⟨g, hg, h⟩ := ok_of_bind h
  obtain ⟨hok, hwb, hr⟩ := of_pHead fit hg
  cases h
  exact ⟨hok, (congrArg some (encoded hopc hr (wb_zero hwb) (of_pZ za) (of_pS ha) (of_pR ht) (of_pSI (fits_d fit) ho)
      (of_ldaMod (fits_e fit) hm)).symm)⟩

theorem of_fLdm {r : Raw} {i : Instr} (fit : r.fits) (hopc : r.opc = 0x189) (h : fLdm r = .ok i) : Accepts r i := by
  obtain ⟨d, hd, h⟩ := ok_of_bind h
  obtain ⟨t, ht, h⟩ := ok_of_bind h
  obtain ⟨o, ho, h⟩ := ok_of_bind h
  obtain ⟨_, zd, h⟩ := ok_of_bind h
  obtain ⟨rep, hrep, h⟩ := ok_of_bind h
  obtain ⟨g, hg, h⟩ := ok_of_bind h
  obtain ⟨hok, hwb, hr⟩ := of_pHead fit hg
  cases h
  exact ⟨hok, (congrArg some (encoded hopc hr (wb_one hwb) (of_pReq (wb_one hwb) hd) (of_pR ht) (of_pSI (fits_c fit) ho)
      (of_pZ zd) (of_pRep hrep)).symm)⟩

theorem of_fStm {r : Raw} {i : Instr} (fit : r.fits) (hopc : r.opc = 0x18A) (h : fStm r = .ok i) : Accepts r i := by
  obtain ⟨_, za, h⟩ := ok_of_bind h
  obtain ⟨k, hk, h⟩ := ok_of_bind h
  obtain ⟨t, ht, h⟩ := ok_of_bind h
  obtain ⟨o, ho, h⟩ := ok_of_bind h
  obtain ⟨rep, hrep, h⟩ := ok_of_bind h
  obtain ⟨g, hg, h⟩ := ok_of_bind h
  obtain ⟨hok, hwb, hr⟩ := of_pHead fit hg
  cases h
  exact ⟨hok, (congrArg some (encoded hopc hr (wb_zero hwb) (of_pZ za) (of_pN hk) (of_pR ht) (of_pSI (fits_d fit) ho)
      (of_pRep hrep)).symm)⟩

theorem of_fAmo {r : Raw} {i : Instr} (fit : r.fits) (hopc : r.opc = 0x190) (h : fAmo r = .ok i) : Accepts r i := by
  obtain ⟨d, hd, h⟩ := ok_of_bind h
  obtain ⟨a, ha, h⟩ := ok_of_bind h
  obtain ⟨b, hb, h⟩ := ok_of_bind h
  obtain ⟨c, hc, h⟩ := ok_of_bind h
  obtain ⟨m, hm, h⟩ := ok_of_bind h
  obtain ⟨g, hg, h⟩ := ok_of_bind h
  obtain ⟨hok, hwb, hr⟩ := of_pHead fit hg
  cases h
  obtain ⟨sd, se, ok⟩ := amo_slots fit hc hm
  exact ⟨(and_true hok (ok)), (congrArg some (encoded hopc hr (wb_one hwb) (of_pReq (wb_one hwb) hd) (of_pS ha) (of_pSI
      (fits_c fit) hb) sd se).symm)⟩

theorem of_fAmor {r : Raw} {i : Instr} (fit : r.fits) (hopc : r.opc = 0x194) (h : fAmor r = .ok i) : Accepts r i := by
  obtain ⟨d, hd, h⟩ := ok_of_bind h
  obtain ⟨a, ha, h⟩ := ok_of_bind h
  obtain ⟨b, hb, h⟩ := ok_of_bind h
  obtain ⟨c, hc, h⟩ := ok_of_bind h
  obtain ⟨m, hm, h⟩ := ok_of_bind h
  obtain ⟨k1, h⟩ := of_check h
  obtain ⟨g, hg, h⟩ := ok_of_bind h
  obtain ⟨hok, hwb, hr⟩ := of_pHead fit hg
  cases h
  obtain ⟨sd, se, ok⟩ := amo_slots fit hc hm
  exact ⟨(and_true hok (ok)), (congrArg some (encoded hopc hr (wb_one hwb) (of_pReq (wb_one hwb) hd) (of_pS ha) (of_pSI
      (fits_c fit) hb) sd (k1 ▸ se)).symm)⟩

theorem of_fFamo {r : Raw} {i : Instr} (fit : r.fits) (hopc : r.opc = 0x193) (h : fFamo r = .ok i) : Accepts r i := by
  obtain ⟨d, hd, h⟩ := ok_of_bind h
  obtain ⟨a, ha, h⟩ := ok_of_bind h
  obtain ⟨b, hb, h⟩ := ok_of_bind h
  obtain ⟨st, hst, h⟩ := ok_of_bind h
  obtain ⟨m, hm, h⟩ := ok_of_bind h
  obtain ⟨k1, h⟩ := of_check h
  obtain ⟨g, hg, h⟩ := ok_of_bind h
  obtain ⟨hok, hwb, hr⟩ := of_pHead fit hg
  cases h
  obtain ⟨se, hfadd, _⟩ := of_amoSlot (of_opt hm)
  exact ⟨(and_true (and_true hok (amo_ok (decide_eq_false k1.1).symm hfadd)) (k1.2)), (congrArg some (encoded hopc hr
      (wb_one hwb) (of_pReq (wb_one hwb) hd) (of_pS ha) (of_pSI (fits_c fit) hb) (of_pS hst) se).symm)⟩

theorem of_fRed_atomic {r : Raw} {i : Instr} (fit : r.fits) (hopc : r.opc = 0x191) (h : fRed' r = .ok i) : Accepts r i := by
  obtain ⟨_, za, h⟩ := ok_of_bind h
  obtain ⟨v, hv, h⟩ := ok_of_bind h
  obtain ⟨t, ht, h⟩ := ok_of_bind h
  obtain ⟨o, ho, h⟩ := ok_of_bind h
  obtain ⟨m, hm, h⟩ := ok_of_bind h
  obtain ⟨k, hk, h⟩ := ok_of_bind h
  obtain ⟨g, hg, h⟩ := ok_of_bind h
  obtain ⟨hok, hwb, hr⟩ := of_pHead fit hg
  cases h
  exact ⟨(and_true hok ((of_pVP hv).2)), (congrArg some (encoded hopc hr (wb_zero hwb) (of_pZ za) ((of_pVP hv).1) (of_pR
      ht) (of_pSI (fits_d fit) ho) ((of_pM (fits_e fit) hm).1.trans (congrArg eM ((Comb3.code_of_ofCode (of_opt
      hk)).symm)))).symm)⟩

theorem of_fUpdr {r : Raw} {i : Instr} (fit : r.fits) (hopc : r.opc = 0x192) (h : fUpdr r = .ok i) : Accepts r i := by
  obtain ⟨_, za, h⟩ := ok_of_bind h
  obtain ⟨v, hv, h⟩ := ok_of_bind h
  obtain ⟨t, ht, h⟩ := ok_of_bind h
  obtain ⟨s, hs, h⟩ := ok_of_bind h
  obtain ⟨m, hm, h⟩ := ok_of_bind h
  obtain ⟨k, hk, h⟩ := ok_of_bind h
  obtain ⟨g, hg, h⟩ := ok_of_bind h
  obtain ⟨hok, hwb, hr⟩ := of_pHead fit hg
  cases h
  exact ⟨(and_true hok ((of_pVP hv).2)), (congrArg some (encoded hopc hr (wb_zero hwb) (of_pZ za) ((of_pVP hv).1) (of_pR
      ht) (of_pS hs) ((of_pM (fits_e fit) hm).1.trans (congrArg eM ((UpdKind.code_of_ofCode (of_opt hk)).symm)))).symm)⟩

theorem of_fBoclr {r : Raw} {i : Instr} (fit : r.fits) (hopc : r.opc = 0x1A1) (h : fBoclr r = .ok i) : Accepts r i := by
  obtain ⟨_, za, h⟩ := ok_of_bind h
  obtain ⟨bo, hbo, h⟩ := ok_of_bind h
  obtain ⟨_, zc, h⟩ := ok_of_bind h
  obtain ⟨_, zd, h⟩ := ok_of_bind h
  obtain ⟨_, ze, h⟩ := ok_of_bind h
  obtain ⟨g, hg, h⟩ := ok_of_bind h
  obtain ⟨hok, hwb, hr⟩ := of_pHead fit hg
  cases h
  exact ⟨hok, (congrArg some (encoded hopc hr (wb_zero hwb) (of_pZ za) (of_pR hbo) (of_pZ zc) (of_pZ zd) (of_pZ ze)).symm)⟩

theorem of_fBord {r : Raw} {i : Instr} (fit : r.fits) (hopc : r.opc = 0x1A2) (h : fBord r = .ok i) : Accepts r i := by
  obtain ⟨d, hd, h⟩ := ok_of_bind h
  obtain ⟨bo, hbo, h⟩ := ok_of_bind h
  obtain ⟨m, hm, h⟩ := ok_of_bind h
  obtain ⟨_, zd, h⟩ := ok_of_bind h
  obtain ⟨_, ze, h⟩ := ok_of_bind h
  obtain ⟨g, hg, h⟩ := ok_of_bind h
  obtain ⟨hok, hwb, hr⟩ := of_pHead fit hg
  cases h
  exact ⟨hok, (congrArg some (encoded hopc hr (wb_one hwb) (of_pReq (wb_one hwb) hd) (of_pR hbo) ((of_pKind (fits_c fit)
      hm).1.trans (congrArg eM ((Nat.mod_eq_of_lt (of_pKind (fits_c fit) hm).2).symm))) (of_pZ zd) (of_pZ ze)).symm)⟩

theorem of_fRls {r : Raw} {i : Instr} (fit : r.fits) (hopc : r.opc = 0x206) (h : fRls r = .ok i) : Accepts r i := by
  obtain ⟨_, za, h⟩ := ok_of_bind h
  obtain ⟨bo, hbo, h⟩ := ok_of_bind h
  obtain ⟨ch, hch, h⟩ := ok_of_bind h
  obtain ⟨v, hv, h⟩ := ok_of_bind h
  obtain ⟨_, ze, h⟩ := ok_of_bind h
  obtain ⟨g, hg, h⟩ := ok_of_bind h
  obtain ⟨hok, hwb, hr⟩ := of_pHead fit hg
  cases h
  exact ⟨hok, (congrArg some (encoded hopc hr (wb_zero hwb) (of_pZ za) (of_pR hbo) (of_pS hch) (of_pSI (fits_d fit) hv)
      (of_pZ ze)).symm)⟩

theorem of_fAcq {lim : Nat} {mk : Head → Ref → SOp → SOp → Instr} {r : Raw} {i : Instr} {o : Nat} (fit : r.fits)
    (hopc : r.opc = o)
    (h : fAcq lim mk r = .ok i)
    (make : ∀ g bo f v, g.ok .other = true → f.below lim = true → some (enc o g 0 0 (eR bo) (eSI f) (eSI v) 0) = some r →
        Accepts r (mk g bo f v)) :
    Accepts r i := by
  obtain ⟨_, za, h⟩ := ok_of_bind h
  obtain ⟨bo, hbo, h⟩ := ok_of_bind h
  obtain ⟨f, hf, h⟩ := ok_of_bind h
  obtain ⟨_, l1, h⟩ := ok_of_bind h
  obtain ⟨v, hv, h⟩ := ok_of_bind h
  obtain ⟨_, ze, h⟩ := ok_of_bind h
  obtain ⟨g, hg, h⟩ := ok_of_bind h
  obtain ⟨hok, hwb, hr⟩ := of_pHead fit hg
  cases h
  exact make _ _ _ _ hok (of_pBelow l1) (congrArg some (encoded hopc hr (wb_zero hwb) (of_pZ za) (of_pR hbo) (of_pSI
      (fits_c fit) hf) (of_pSI (fits_d fit) hv) (of_pZ ze)).symm)

theorem of_fXupd {r : Raw} {i : Instr} (fit : r.fits) (hopc : r.opc = 0x283) (h : fXupd r = .ok i) : Accepts r i := by
  obtain ⟨_, za, h⟩ := ok_of_bind h
  obtain ⟨t, ht, h⟩ := ok_of_bind h
  obtain ⟨cb, hcb, h⟩ := ok_of_bind h
  obtain ⟨x, hx, h⟩ := ok_of_bind h
  obtain ⟨y, hy, h⟩ := ok_of_bind h
  obtain ⟨g, hg, h⟩ := ok_of_bind h
  obtain ⟨hok, hwb, hr⟩ := of_pHead fit hg
  cases h
  exact ⟨hok, (congrArg some (encoded hopc hr (wb_zero hwb) (of_pZ za) (of_pT ht) (of_pS hcb) (of_pVL hx) (of_pVL
      hy)).symm)⟩

theorem of_fXwset {r : Raw} {i : Instr} (fit : r.fits) (hopc : r.opc = 0x28D) (h : fXwset r = .ok i) : Accepts r i := by
  obtain ⟨w, hw, h⟩ := ok_of_bind h
  obtain ⟨a, ha, h⟩ := ok_of_bind h
  obtain ⟨_, zc, h⟩ := ok_of_bind h
  obtain ⟨_, zd, h⟩ := ok_of_bind h
  obtain ⟨_, ze, h⟩ := ok_of_bind h
  obtain ⟨g, hg, h⟩ := ok_of_bind h
  obtain ⟨hok, hwb, hr⟩ := of_pHead fit hg
  cases h
  exact ⟨hok, (congrArg some (encoded hopc hr (wb_one hwb) (of_pReq (wb_one hwb) hw) (of_pSI (fits_b fit) ha) (of_pZ zc)
      (of_pZ zd) (of_pZ ze)).symm)⟩

theorem of_fMtsp {r : Raw} {i : Instr} (fit : r.fits) (hopc : r.opc = 0x343) (h : fMtsp r = .ok i) : Accepts r i := by
  obtain ⟨_, za, h⟩ := ok_of_bind h
  obtain ⟨n, hn, h⟩ := ok_of_bind h
  obtain ⟨x, hx, h⟩ := ok_of_bind h
  obtain ⟨a, ha, h⟩ := ok_of_bind h
  obtain ⟨_, zd, h⟩ := ok_of_bind h
  obtain ⟨_, ze, h⟩ := ok_of_bind h
  obtain ⟨g, hg, h⟩ := ok_of_bind h
  obtain ⟨hok, hwb, hr⟩ := of_pHead fit hg
  cases h
  exact ⟨hok, (congrArg some (encoded hopc hr (wb_zero hwb) (of_pZ za) ((of_pX hn).trans (congrArg eN
      (PrivName.code_of_ofCode (of_opt hx)).symm)) (of_pSI (fits_c fit) ha) (of_pZ zd) (of_pZ ze)).symm)⟩

theorem of_fMfsp {r : Raw} {i : Instr} (fit : r.fits) (hopc : r.opc = 0x344) (h : fMfsp r = .ok i) : Accepts r i := by
  obtain ⟨d, hd, h⟩ := ok_of_bind h
  obtain ⟨n, hn, h⟩ := ok_of_bind h
  obtain ⟨x, hx, h⟩ := ok_of_bind h
  obtain ⟨_, zc, h⟩ := ok_of_bind h
  obtain ⟨_, zd, h⟩ := ok_of_bind h
  obtain ⟨_, ze, h⟩ := ok_of_bind h
  obtain ⟨g, hg, h⟩ := ok_of_bind h
  obtain ⟨hok, hwb, hr⟩ := of_pHead fit hg
  cases h
  exact ⟨hok, (congrArg some (encoded hopc hr ((of_pSD (wb_any hwb) hd).1) ((of_pSD (wb_any hwb) hd).2) ((of_pX hn).trans
      (congrArg eN (PrivName.code_of_ofCode (of_opt hx)).symm)) (of_pZ zc) (of_pZ zd) (of_pZ ze)).symm)⟩

/-- LI's value is the four slots, the highest first. -/
theorem of_fLi {r : Raw} {i : Instr} (fit : r.fits) (hopc : r.opc = 0x030) (h : fLi r = .ok i) : Accepts r i := by
  obtain ⟨d, hd, h⟩ := ok_of_bind h
  obtain ⟨b, hb, h⟩ := ok_of_bind h
  obtain ⟨c, hc, h⟩ := ok_of_bind h
  obtain ⟨x, hx, h⟩ := ok_of_bind h
  obtain ⟨e, he, h⟩ := ok_of_bind h
  obtain ⟨g, hg, h⟩ := ok_of_bind h
  obtain ⟨hok, hwb, hr⟩ := of_pHead fit hg
  cases h
  have eb : r.b = eI ((b ++ c ++ x ++ e).extractLsb' 48 16) := by
    rw [extract_high_append (s := 32), extract_high_append (s := 16), extract_high_append (s := 0),
      BitVec.extractLsb'_eq_self]
    exact of_pI (fits_b fit) hb
  have ec : r.c = eI ((b ++ c ++ x ++ e).extractLsb' 32 16) := by
    rw [extract_high_append (s := 16), extract_high_append (s := 0), extract_low_append]
    exact of_pI (fits_c fit) hc
  have ed : r.d = eI ((b ++ c ++ x ++ e).extractLsb' 16 16) := by
    rw [extract_high_append (s := 0), extract_low_append]
    exact of_pI (fits_d fit) hx
  have ee : r.e = eI ((b ++ c ++ x ++ e).extractLsb' 0 16) := by
    rw [extract_low_append]
    exact of_pI (fits_e fit) he
  exact ⟨hok, congrArg some (encoded hopc hr (of_pSD (wb_any hwb) hd).1 (of_pSD (wb_any hwb) hd).2 eb ec ed ee).symm⟩

theorem of_fTfence {r : Raw} {i : Instr} (fit : r.fits) (hopc : r.opc = 0x023) (h : fTfence r = .ok i) : Accepts r i := by
  obtain ⟨_, za, h⟩ := ok_of_bind h
  obtain ⟨m, hm, h⟩ := ok_of_bind h
  obtain ⟨va, hva, h⟩ := ok_of_bind h
  obtain ⟨_, zd, h⟩ := ok_of_bind h
  obtain ⟨_, ze, h⟩ := ok_of_bind h
  obtain ⟨g, hg, h⟩ := ok_of_bind h
  obtain ⟨hok, hwb, hr⟩ := of_pHead fit hg
  obtain ⟨eb, hlt⟩ := of_pKind (fits_b fit) hm
  cases h
  split at hva
  case isTrue h0 =>
    obtain ⟨_, zc, hva⟩ := ok_of_bind hva
    cases hva
    subst h0
    exact ⟨hok, congrArg some (encoded hopc hr (wb_zero hwb) (of_pZ za) eb (of_pZ zc) (of_pZ zd) (of_pZ ze)).symm⟩
  case isFalse h0 =>
    obtain ⟨a, ha, rfl⟩ := of_map hva
    have h1 : m = 1 := by omega
    subst h1
    exact ⟨hok, congrArg some (encoded hopc hr (wb_zero hwb) (of_pZ za) eb (of_pS ha) (of_pZ zd) (of_pZ ze)).symm⟩

theorem of_fRcfence {r : Raw} {i : Instr} (fit : r.fits) (hopc : r.opc = 0x024) (h : fRcfence r = .ok i) :
    Accepts r i := by
  obtain ⟨_, za, h⟩ := ok_of_bind h
  obtain ⟨m, hm, h⟩ := ok_of_bind h
  obtain ⟨tid, ht, h⟩ := ok_of_bind h
  obtain ⟨_, zd, h⟩ := ok_of_bind h
  obtain ⟨_, ze, h⟩ := ok_of_bind h
  obtain ⟨g, hg, h⟩ := ok_of_bind h
  obtain ⟨hok, hwb, hr⟩ := of_pHead fit hg
  obtain ⟨eb, hlt⟩ := of_pKind (fits_b fit) hm
  cases h
  split at ht
  case isTrue h1 =>
    obtain ⟨_, zc, ht⟩ := ok_of_bind ht
    cases ht
    subst h1
    exact ⟨and_true hok rfl,
      congrArg some (encoded hopc hr (wb_zero hwb) (of_pZ za) eb (of_pZ zc) (of_pZ zd) (of_pZ ze)).symm⟩
  case isFalse h1 =>
    obtain ⟨t, hs, ht⟩ := ok_of_bind ht
    obtain ⟨_, l1, ht⟩ := ok_of_bind ht
    cases ht
    have h0 : m = 0 := by omega
    subst h0
    exact ⟨and_true hok (of_pBelow l1), congrArg some
      (encoded hopc hr (wb_zero hwb) (of_pZ za) eb (of_pSI (fits_c fit) hs) (of_pZ zd) (of_pZ ze)).symm⟩

/-- VCVT draws only under SR; otherwise slots D and E are zero. -/
theorem of_fVcvt {r : Raw} {i : Instr} (fit : r.fits) (hopc : r.opc = 0x097) (h : fVcvt r = .ok i) : Accepts r i := by
  obtain ⟨d, hd, h⟩ := ok_of_bind h
  obtain ⟨b, hb, h⟩ := ok_of_bind h
  obtain ⟨m, hm, h⟩ := ok_of_bind h
  obtain ⟨rm, hrm, h⟩ := ok_of_bind h
  obtain ⟨ft, hft, h⟩ := ok_of_bind h
  obtain ⟨⟨hlt, h64, hcvt⟩, h⟩ := of_check h
  obtain ⟨draw, hdr, h⟩ := ok_of_bind h
  obtain ⟨g, hg, h⟩ := ok_of_bind h
  obtain ⟨hok, hwb, hr⟩ := of_pHead fit hg
  obtain ⟨hwd, ea⟩ := of_pVD (wb_any hwb) hd
  have ec : r.c = eM (mFt (Fin.ofNat 8 (m % 8)).val rm ft) := (of_pM (fits_c fit) hm).1.trans (congrArg eM
    (msk_rm_ft (RM.code_of_ofCode (of_opt hrm)) (Fmt.code_of_ofCode (of_opt hft)) hlt h64))
  cases h
  split at hdr
  case isTrue hsr =>
    obtain ⟨sg, hsg, hdr⟩ := ok_of_bind hdr
    obtain ⟨sp, hsp, hdr⟩ := ok_of_bind hdr
    cases hdr
    exact ⟨and_true (and_true hok hcvt) (decide_eq_true (decide_eq_true hsr).symm),
      congrArg some (encoded hopc hr hwd ea (of_pV hb) ec (of_pS hsg) (of_pS hsp)).symm⟩
  case isFalse hsr =>
    obtain ⟨_, zd, hdr⟩ := ok_of_bind hdr
    obtain ⟨_, ze, hdr⟩ := ok_of_bind hdr
    cases hdr
    exact ⟨and_true (and_true hok hcvt) (decide_eq_true (decide_eq_false hsr).symm),
      congrArg some (encoded hopc hr hwd ea (of_pV hb) ec (of_pZ zd) (of_pZ ze)).symm⟩

theorem of_fBoarm {r : Raw} {i : Instr} (fit : r.fits) (hopc : r.opc = 0x1A0) (h : fBoarm r = .ok i) : Accepts r i := by
  obtain ⟨_, za, h⟩ := ok_of_bind h
  obtain ⟨bo, hbo, h⟩ := ok_of_bind h
  obtain ⟨n, hn, h⟩ := ok_of_bind h
  cases n with
  | src a =>
    obtain ⟨_, zd, h⟩ := ok_of_bind h
    obtain ⟨_, ze, h⟩ := ok_of_bind h
    obtain ⟨g, hg, h⟩ := ok_of_bind h
    obtain ⟨hok, hwb, hr⟩ := of_pHead fit hg
    cases h
    exact ⟨and_true hok rfl, congrArg some
      (encoded hopc hr (wb_zero hwb) (of_pZ za) (of_pR hbo) (of_pSI (fits_c fit) hn) (of_pZ zd) (of_pZ ze)).symm⟩
  | imm v =>
    dsimp only at h
    split at h
    case isFalse => cases h
    case isTrue hv =>
      obtain ⟨_, zd, h⟩ := ok_of_bind h
      obtain ⟨_, ze, h⟩ := ok_of_bind h
      obtain ⟨g, hg, h⟩ := ok_of_bind h
      obtain ⟨hok, hwb, hr⟩ := of_pHead fit hg
      cases h
      exact ⟨and_true hok (decide_eq_true hv), congrArg some
        (encoded hopc hr (wb_zero hwb) (of_pZ za) (of_pR hbo) (of_pSI (fits_c fit) hn) (of_pZ zd) (of_pZ ze)).symm⟩

/-- XFENCE's mode and ALL in slot D. -/
theorem xfence_slot {x m : Nat} (hx : x < 262144) (h : pKind 3 8 x = .ok m) :
    x = eM (m % 4 + b2n (decide (immMark + 4 ≤ x ∧ x < immMark + 8)) * 4) := by
  obtain ⟨hm, hlt⟩ := of_pKind hx h
  have hall : decide (immMark + 4 ≤ x ∧ x < immMark + 8) = decide (m / 4 = 1) :=
    decide_eq_decide.mpr (by rw [hm, eM]; omega)
  rw [hall, decide_eq_one (by omega)]
  exact hm.trans (congrArg eM (by omega))

theorem of_fXfence {r : Raw} {i : Instr} (fit : r.fits) (hopc : r.opc = 0x28F) (h : fXfence r = .ok i) : Accepts r i := by
  obtain ⟨_, za, h⟩ := ok_of_bind h
  obtain ⟨t, ht, h⟩ := ok_of_bind h
  obtain ⟨hall, h⟩ := of_refusal h
  obtain ⟨bo, hbo, h⟩ := ok_of_bind h
  obtain ⟨_, l1, h⟩ := ok_of_bind h
  obtain ⟨m, hm, h⟩ := ok_of_bind h
  obtain ⟨h3, h⟩ := of_refusal h
  obtain ⟨_, ze, h⟩ := ok_of_bind h
  obtain ⟨g, hg, h⟩ := ok_of_bind h
  obtain ⟨hok, hwb, hr⟩ := of_pHead fit hg
  have hwf : (g.ok .other && xfenceOk t bo (decide (immMark + 4 ≤ r.d ∧ r.d < immMark + 8))) = true := by
    refine and_true hok (and_true ?_ (of_pBelow l1))
    by_cases ha : decide (immMark + 4 ≤ r.d ∧ r.d < immMark + 8) = true
    · rw [ha, decide_eq_true (not_not.mp fun e => hall ⟨ha, e⟩)]
      rfl
    · rw [eq_false_of_ne_true ha]
      rfl
  have henc : ∀ n, m % 4 = n → eXfence g t bo n (decide (immMark + 4 ≤ r.d ∧ r.d < immMark + 8)) = r := fun n hn =>
    (encoded hopc hr (wb_zero hwb) (of_pZ za) (of_pT ht) (of_pSI (fits_c fit) hbo)
      ((xfence_slot (fits_d fit) hm).trans (congrArg (fun k => eM (k + _)) hn)) (of_pZ ze)).symm
  cases h
  split
  case isTrue h0 => exact ⟨hwf, congrArg some (henc 0 h0)⟩
  case isFalse h0 =>
    split
    case isTrue h1 => exact ⟨hwf, congrArg some (henc 1 h1)⟩
    case isFalse h1 => exact ⟨hwf, congrArg some (henc 2 (by omega))⟩

end Sys2Proof.Proofs

/-! Decoding is injective on words (06 R79, R82, R85 to R92): the opcode map, and what reserved encodings come to. -/

namespace Sys2Proof.Proofs
open Sys2Proof Sys2Proof.Machine Sys2Proof.Laws

/-! ## The opcode map -/

theorem red_ok {k : RedKind} {rm : RM} (h : k.bitwise = false ∨ false = false ∧ rm = .rne) :
    (!k.bitwise || decide (rm = .rne)) = true := by
  rcases h with h | ⟨_, h⟩
  · rw [h]; rfl
  · rw [h]; exact Bool.or_true _

theorem scan_ok {k : RedKind} {rm : RM} (h : k.bitwise = false ∨ true = false ∧ rm = .rne) : (!k.bitwise) = true := by
  rcases h with h | ⟨h, _⟩
  · rw [h]; rfl
  · cases h

theorem of_decControl {r : Raw} {i : Instr} (fit : r.fits) (h : decControl r = .ok i) : Accepts r i := by
  unfold decControl at h
  split at h
  case h_1 hopc | h_8 hopc | h_9 hopc | h_10 hopc | h_11 hopc | h_13 hopc | h_25 hopc | h_31 hopc | h_34 hopc =>
    exact of_fZ fit hopc h fun _ hok he => ⟨hok, he⟩
  case h_2 hopc => exact of_fBr fit hopc h
  case h_3 hopc => exact of_fBrc fit hopc h
  case h_4 hopc | h_6 hopc | h_21 hopc => exact of_fS fit hopc h fun _ _ hok he => ⟨hok, he⟩
  case h_5 hopc => exact of_fCall fit hopc h
  case h_7 hopc => exact of_fLoop fit hopc h
  case h_12 hopc => exact of_fPhase fit hopc h
  case h_14 hopc => exact of_fBara fit hopc h
  case h_15 hopc | h_16 hopc => exact of_fBar fit hopc h fun _ _ _ hok he => ⟨hok, he⟩
  case h_17 hopc => exact of_fTokin fit hopc h
  case h_18 hopc => exact of_fTokout fit hopc h
  case h_19 hopc => exact of_fDSI fit hopc h fun _ _ _ hok he => ⟨hok, he⟩
  case h_20 hopc => exact of_fTsr fit hopc h
  case h_22 hopc | h_23 hopc => exact of_fBoPh fit hopc h fun _ _ _ hok c1 he => ⟨and_true hok c1, he⟩
  case h_24 hopc => exact of_fTrap fit hopc h
  case h_26 hopc => exact of_fMfs fit hopc h
  case h_27 hopc => exact of_fMts fit hopc h
  case h_28 hopc => exact of_fLoc fit hopc h
  case h_29 hopc => exact of_fFence fit hopc h
  case h_30 hopc => exact of_fFsc fit hopc h
  case h_32 hopc => exact of_fTfence fit hopc h
  case h_33 hopc => exact of_fRcfence fit hopc h
  case h_35 => cases h

theorem of_decScalar {r : Raw} {i : Instr} (fit : r.fits) (h : decScalar r = .ok i) : Accepts r i := by
  unfold decScalar at h
  split at h
  case h_1 hopc => exact of_fLi fit hopc h
  case h_2 hopc => exact of_fDSI fit hopc h fun _ _ _ hok he => ⟨hok, he⟩
  case h_3 hopc | h_4 hopc | h_5 hopc | h_6 hopc | h_7 hopc | h_8 hopc | h_9 hopc | h_10 hopc | h_11 hopc | h_12 hopc
    | h_13 hopc | h_14 hopc | h_15 hopc | h_16 hopc | h_17 hopc | h_18 hopc | h_19 hopc | h_23 hopc | h_24 hopc
    | h_25 hopc | h_26 hopc =>
    exact of_fDSS fit hopc h fun _ _ _ _ hok he => ⟨hok, he⟩
  case h_20 hopc | h_21 hopc | h_22 hopc | h_34 hopc => exact of_fDS fit hopc h fun _ _ _ hok he => ⟨hok, he⟩
  case h_27 hopc => exact of_fSel fit hopc h
  case h_28 hopc => exact of_fCmp fit hopc h
  case h_29 hopc | h_30 hopc => exact of_fExt fit hopc h fun _ _ _ _ hok c1 he => ⟨and_true hok c1, he⟩
  case h_31 hopc => exact of_fAidx fit hopc h
  case h_32 hopc => exact of_fBfx fit hopc h
  case h_33 hopc => exact of_fBfi fit hopc h
  case h_35 hopc | h_36 hopc | h_37 hopc => exact of_fPPP fit hopc h fun _ _ _ _ hok he => ⟨hok, he⟩
  case h_38 hopc => exact of_fPnot fit hopc h
  case h_39 hopc => exact of_fPmov fit hopc h
  case h_40 hopc => exact of_fFcnt fit hopc h
  case h_41 hopc | h_42 hopc => exact of_fFifo fit hopc h fun _ _ hok he => ⟨hok, he⟩
  case h_43 => cases h

theorem of_decVec1 {r : Raw} {i : Instr} (fit : r.fits) (h : decVec1 r = .ok i) : Accepts r i := by
  unfold decVec1 at h
  split at h
  case h_1 hopc | h_2 hopc | h_3 hopc => exact of_fV3r fit hopc h fun _ _ _ _ _ _ _ hok c1 he => ⟨and_true hok c1, he⟩
  case h_4 hopc | h_5 hopc | h_6 hopc | h_11 hopc => exact of_fV4 fit hopc h fun _ _ _ _ _ hok he => ⟨hok, he⟩
  case h_7 hopc | h_8 hopc | h_14 hopc | h_15 hopc | h_16 hopc | h_18 hopc | h_19 hopc | h_20 hopc | h_21 hopc =>
    exact of_fV3 fit hopc h fun _ _ _ _ _ hok he => ⟨hok, he⟩
  case h_9 hopc | h_10 hopc | h_17 hopc | h_22 hopc | h_23 hopc =>
    exact of_fV2 fit hopc h fun _ _ _ _ hok he => ⟨hok, he⟩
  case h_12 hopc => exact of_fVcmp fit hopc h
  case h_13 hopc => exact of_fVsel fit hopc h
  case h_24 hopc => exact of_fVcvt fit hopc h
  case h_25 hopc => exact of_fVtag fit hopc h
  case h_26 hopc | h_28 hopc | h_29 hopc => exact of_fV2r fit hopc h fun _ _ _ _ _ hok c1 he => ⟨and_true hok c1, he⟩
  case h_27 hopc => exact of_fVpack fit hopc h
  case h_30 hopc => exact of_fVblks fit hopc h
  case h_31 hopc => exact of_fVblkg fit hopc h
  case h_32 hopc => exact of_fVacc12 fit hopc h
  case h_33 => cases h

theorem of_decVec2 {r : Raw} {i : Instr} (fit : r.fits) (h : decVec2 r = .ok i) : Accepts r i := by
  unfold decVec2 at h
  split at h
  case h_1 hopc | h_2 hopc | h_3 hopc => exact of_fDot fit hopc h fun _ _ _ _ _ hok he => ⟨hok, he⟩
  case h_4 hopc | h_5 hopc => exact of_fVK fit hopc h fun _ _ _ _ _ hok _ he => ⟨hok, he⟩
  case h_6 hopc | h_7 hopc => exact of_fVK fit hopc h fun _ _ _ _ _ hok c1 he => ⟨and_true hok c1, he⟩
  case h_8 hopc | h_9 hopc =>
    exact of_fRed fit hopc h fun _ _ _ _ _ _ hok c1 c2 he => ⟨and_true (and_true hok c1) (red_ok c2), he⟩
  case h_10 hopc | h_11 hopc =>
    exact of_fRed fit hopc h fun _ _ _ _ _ _ hok c1 c2 he => ⟨and_true (and_true hok c1) (scan_ok c2), he⟩
  case h_12 hopc => exact of_fVshfr fit hopc h
  case h_13 hopc => exact of_fV2 fit hopc h fun _ _ _ _ hok he => ⟨hok, he⟩
  case h_14 hopc => exact of_fViota fit hopc h
  case h_15 hopc => exact of_fVmov fit hopc h
  case h_16 hopc => exact of_fVsplat fit hopc h
  case h_17 hopc => exact of_fVext fit hopc h
  case h_18 hopc => exact of_fVins fit hopc h
  case h_19 hopc => exact of_fVrng fit hopc h
  case h_20 hopc => exact of_fVdrop fit hopc h
  case h_21 hopc | h_22 hopc | h_23 hopc => exact of_fMMM fit hopc h fun _ _ _ _ hok he => ⟨hok, he⟩
  case h_24 hopc => exact of_fMnot fit hopc h
  case h_25 hopc | h_26 hopc => exact of_fMS fit hopc h fun _ _ _ hok he => ⟨hok, he⟩
  case h_27 => cases h

theorem of_decMem {r : Raw} {i : Instr} (fit : r.fits) (h : decMem r = .ok i) : Accepts r i := by
  unfold decMem at h
  split at h
  case h_1 hopc => exact of_fLdv fit hopc h
  case h_2 hopc => exact of_fStv fit hopc h
  case h_3 hopc => exact of_fLdvt fit hopc h
  case h_4 hopc => exact of_fLdvg fit hopc h
  case h_5 hopc => exact of_fStvs fit hopc h
  case h_6 hopc => exact of_fLdsc fit hopc h
  case h_7 hopc => exact of_fStsc fit hopc h
  case h_8 hopc => exact of_fLda fit hopc h
  case h_9 hopc => exact of_fStl fit hopc h
  case h_10 hopc => exact of_fLdm fit hopc h
  case h_11 hopc => exact of_fStm fit hopc h
  case h_12 hopc => exact of_fAmo fit hopc h
  case h_13 hopc => exact of_fRed_atomic fit hopc h
  case h_14 hopc => exact of_fUpdr fit hopc h
  case h_15 hopc => exact of_fFamo fit hopc h
  case h_16 hopc => exact of_fAmor fit hopc h
  case h_17 hopc => exact of_fBoarm fit hopc h
  case h_18 hopc => exact of_fBoclr fit hopc h
  case h_19 hopc => exact of_fBord fit hopc h
  case h_20 => cases h

theorem of_decCopy {r : Raw} {i : Instr} (fit : r.fits) (h : decCopy r = .ok i) : Accepts r i := by
  unfold decCopy at h
  split at h
  case h_1 hopc => exact of_fCpy fit hopc of_pRep h fun _ _ _ _ _ hok c1 c2 he => ⟨and_true (and_true hok c1) c2, he⟩
  case h_2 hopc | h_6 hopc =>
    exact of_fCpy fit hopc of_pS h fun _ _ _ _ _ hok c1 c2 he => ⟨and_true (and_true hok c1) c2, he⟩
  case h_3 hopc | h_5 hopc =>
    exact of_fCpy fit hopc (of_pComb (fits_e fit)) h fun _ _ _ _ _ hok c1 c2 he => ⟨and_true (and_true hok c1) c2, he⟩
  case h_4 hopc =>
    exact of_fCpy fit hopc (of_pSI (fits_e fit)) h fun _ _ _ _ _ hok c1 c2 he => ⟨and_true (and_true hok c1) c2, he⟩
  case h_7 hopc => exact of_fRls fit hopc h
  case h_8 hopc => exact of_fAcq fit hopc h fun _ _ _ _ hok _ he => ⟨hok, he⟩
  case h_9 hopc => exact of_fAcq fit hopc h fun _ _ _ _ hok c1 he => ⟨and_true hok c1, he⟩
  case h_10 => cases h

theorem of_decArray {r : Raw} {i : Instr} (fit : r.fits) (h : decArray r = .ok i) : Accepts r i := by
  unfold decArray at h
  split at h
  case h_1 hopc | h_3 hopc => exact of_fTSVR fit hopc h fun _ _ _ _ _ hok c1 he => ⟨and_true hok c1, he⟩
  case h_2 hopc | h_6 hopc | h_7 hopc => exact of_fTSV fit hopc h fun _ _ _ _ hok he => ⟨hok, he⟩
  case h_4 hopc => exact of_fXupd fit hopc h
  case h_5 hopc | h_8 hopc | h_9 hopc | h_10 hopc | h_11 hopc | h_12 hopc | h_13 hopc | h_15 hopc | h_17 hopc =>
    exact of_fTS fit hopc h fun _ _ _ hok he => ⟨hok, he⟩
  case h_14 hopc => exact of_fXwset fit hopc h
  case h_16 hopc => exact of_fXfence fit hopc h
  case h_18 => cases h

theorem of_decSf {r : Raw} {i : Instr} (fit : r.fits) (h : decSf r = .ok i) : Accepts r i := by
  unfold decSf at h
  split at h
  case h_1 hopc | h_2 hopc | h_3 hopc | h_4 hopc | h_5 hopc | h_6 hopc | h_7 hopc | h_8 hopc | h_9 hopc | h_10 hopc
    | h_11 hopc | h_12 hopc | h_13 hopc | h_14 hopc | h_15 hopc =>
    exact of_fSf fit hopc h fun _ _ _ _ _ hok he => ⟨hok, he⟩
  case h_16 => cases h

theorem of_decPriv {r : Raw} {i : Instr} (fit : r.fits) (h : decPriv r = .ok i) : Accepts r i := by
  unfold decPriv at h
  split at h
  case h_1 hopc | h_6 hopc => exact of_fZ fit hopc h fun _ hok he => ⟨hok, he⟩
  case h_2 hopc | h_3 hopc => exact of_fS fit hopc h fun _ _ hok he => ⟨hok, he⟩
  case h_4 hopc => exact of_fMtsp fit hopc h
  case h_5 hopc => exact of_fMfsp fit hopc h
  case h_7 => cases h

/-- What the decoder accepts is well-formed, and its fields are those of the word. -/
theorem of_decodeRaw {r : Raw} {i : Instr} (fit : r.fits) (h : decodeRaw r = .ok i) : Accepts r i := by
  unfold decodeRaw at h
  split at h
  · exact of_decControl fit h
  split at h
  · exact of_decScalar fit h
  split at h
  · exact of_decVec1 fit h
  split at h
  · exact of_decVec2 fit h
  split at h
  · exact of_decMem fit h
  split at h
  · exact of_decCopy fit h
  split at h
  · exact of_decArray fit h
  split at h
  · exact of_decSf fit h
  · exact of_decPriv fit h

/-! ## Words -/

/-- The fields of a word fit their bits. -/
theorem ofWord_fits (w : W128) : (Raw.ofWord w).fits := by
  have hw := w.isLt
  simp only [Raw.fits, Raw.ofWord, fld, Nat.shiftRight_eq_div_pow]
  omega

/-- A field of a word, and the word below it. -/
theorem mod_fld (w : W128) {hi lo : Nat} (h : lo ≤ hi) :
    w.toNat % 2 ^ (hi + 1) = fld w hi lo * 2 ^ lo + w.toNat % 2 ^ lo := by
  rw [fld, Nat.shiftRight_eq_div_pow, show hi + 1 = lo + (hi + 1 - lo) by omega, Nat.pow_add, Nat.mod_mul,
    Nat.add_sub_cancel_left, Nat.mul_comm, Nat.add_comm]

/-- A word is put together from its fields again. -/
theorem toWord_ofWord (w : W128) : (Raw.ofWord w).toWord = w := by
  have f127 : w.toNat % 2 ^ 128 = fld w 127 118 * 2 ^ 118 + w.toNat % 2 ^ 118 := mod_fld w (by decide)
  have f117 : w.toNat % 2 ^ 118 = fld w 117 114 * 2 ^ 114 + w.toNat % 2 ^ 114 := mod_fld w (by decide)
  have f113 : w.toNat % 2 ^ 114 = fld w 113 113 * 2 ^ 113 + w.toNat % 2 ^ 113 := mod_fld w (by decide)
  have f112 : w.toNat % 2 ^ 113 = fld w 112 109 * 2 ^ 109 + w.toNat % 2 ^ 109 := mod_fld w (by decide)
  have f108 : w.toNat % 2 ^ 109 = fld w 108 108 * 2 ^ 108 + w.toNat % 2 ^ 108 := mod_fld w (by decide)
  have f107 : w.toNat % 2 ^ 108 = fld w 107 105 * 2 ^ 105 + w.toNat % 2 ^ 105 := mod_fld w (by decide)
  have f104 : w.toNat % 2 ^ 105 = fld w 104 101 * 2 ^ 101 + w.toNat % 2 ^ 101 := mod_fld w (by decide)
  have f100 : w.toNat % 2 ^ 101 = fld w 100 100 * 2 ^ 100 + w.toNat % 2 ^ 100 := mod_fld w (by decide)
  have f99 : w.toNat % 2 ^ 100 = fld w 99 98 * 2 ^ 98 + w.toNat % 2 ^ 98 := mod_fld w (by decide)
  have f97 : w.toNat % 2 ^ 98 = fld w 97 96 * 2 ^ 96 + w.toNat % 2 ^ 96 := mod_fld w (by decide)
  have f95 : w.toNat % 2 ^ 96 = fld w 95 94 * 2 ^ 94 + w.toNat % 2 ^ 94 := mod_fld w (by decide)
  have f93 : w.toNat % 2 ^ 94 = fld w 93 90 * 2 ^ 90 + w.toNat % 2 ^ 90 := mod_fld w (by decide)
  have f89 : w.toNat % 2 ^ 90 = fld w 89 72 * 2 ^ 72 + w.toNat % 2 ^ 72 := mod_fld w (by decide)
  have f71 : w.toNat % 2 ^ 72 = fld w 71 54 * 2 ^ 54 + w.toNat % 2 ^ 54 := mod_fld w (by decide)
  have f53 : w.toNat % 2 ^ 54 = fld w 53 36 * 2 ^ 36 + w.toNat % 2 ^ 36 := mod_fld w (by decide)
  have f35 : w.toNat % 2 ^ 36 = fld w 35 18 * 2 ^ 18 + w.toNat % 2 ^ 18 := mod_fld w (by decide)
  have f17 : w.toNat % 2 ^ 18 = fld w 17 0 * 2 ^ 0 + w.toNat % 2 ^ 0 := mod_fld w (by decide)
  rw [pow_zero, Nat.mod_one] at f17
  have hw := Nat.mod_eq_of_lt w.isLt
  apply BitVec.eq_of_toNat_eq
  rw [Raw.toWord, BitVec.toNat_ofNat]
  refine Eq.trans (congrArg (· % 2 ^ 128) ?_) hw
  simp only [Raw.ofWord]
  linarith

/-- The fields of an accepted word are those of its instruction. -/
theorem encodeRaw_of_decode {w : W128} {i : Instr} (h : decode w = .ok i) : encodeRaw i = some (Raw.ofWord w) :=
  (of_decodeRaw (ofWord_fits w) h).2

/-- Settles O40: each parser of a slot accepts only the encoding of what it gives. -/
theorem everyBitOfAWordCounts : Obligations.EveryBitOfAWordCounts := by
  intro w i h
  obtain ⟨hwf, he⟩ := of_decodeRaw (ofWord_fits w) h
  refine ⟨hwf, ?_⟩
  rw [encode, he, Option.map_some, toWord_ofWord]

/-! ## Reserved encodings -/

/-- The reserved bits are zero, and hint and writeback level are assigned (06 R79, R81, R85). -/
def Unreserved (r : Raw) : Prop := r.rsv = 0 ∧ r.ch < 4 ∧ r.wb < 2

theorem unreserved_enc {o : Nat} {g : Head} {wb a b c d e : Nat} (h : wb < 2) : Unreserved (enc o g wb a b c d e) :=
  ⟨rfl, by cases hc : g.ch <;> simp [enc, hc, Hint.code], h⟩

theorem sdst_wb_lt (d : SDst) : d.wb < 2 := b2n_lt _
theorem vdst_wb_lt (d : VDst) : d.wb < 2 := by cases d <;> simp [VDst.wb]

theorem unreserved_of_encodeRaw {i : Instr} {r : Raw} (h : encodeRaw i = some r) : Unreserved r := by
  unfold encodeRaw at h
  split at h
  all_goals cases h
  all_goals exact unreserved_enc (by simp only [sdst_wb_lt, vdst_wb_lt, zero_lt_two, one_lt_two])

theorem decControl_unlisted {r : Raw} (h : listed r.opc = false) : decControl r = .error .opcode := by
  unfold decControl
  split
  case h_35 => rfl
  all_goals next hopc => exact absurd (hopc ▸ h) (by decide)

theorem decScalar_unlisted {r : Raw} (h : listed r.opc = false) : decScalar r = .error .opcode := by
  unfold decScalar
  split
  case h_43 => rfl
  all_goals next hopc => exact absurd (hopc ▸ h) (by decide)

theorem decVec1_unlisted {r : Raw} (h : listed r.opc = false) : decVec1 r = .error .opcode := by
  unfold decVec1
  split
  case h_33 => rfl
  all_goals next hopc => exact absurd (hopc ▸ h) (by decide)

theorem decVec2_unlisted {r : Raw} (h : listed r.opc = false) : decVec2 r = .error .opcode := by
  unfold decVec2
  split
  case h_27 => rfl
  all_goals next hopc => exact absurd (hopc ▸ h) (by decide)

theorem decMem_unlisted {r : Raw} (h : listed r.opc = false) : decMem r = .error .opcode := by
  unfold decMem
  split
  case h_20 => rfl
  all_goals next hopc => exact absurd (hopc ▸ h) (by decide)

theorem decCopy_unlisted {r : Raw} (h : listed r.opc = false) : decCopy r = .error .opcode := by
  unfold decCopy
  split
  case h_10 => rfl
  all_goals next hopc => exact absurd (hopc ▸ h) (by decide)

theorem decArray_unlisted {r : Raw} (h : listed r.opc = false) : decArray r = .error .opcode := by
  unfold decArray
  split
  case h_18 => rfl
  all_goals next hopc => exact absurd (hopc ▸ h) (by decide)

theorem decSf_unlisted {r : Raw} (h : listed r.opc = false) : decSf r = .error .opcode := by
  unfold decSf
  split
  case h_16 => rfl
  all_goals next hopc => exact absurd (hopc ▸ h) (by decide)

theorem decPriv_unlisted {r : Raw} (h : listed r.opc = false) : decPriv r = .error .opcode := by
  unfold decPriv
  split
  case h_7 => rfl
  all_goals next hopc => exact absurd (hopc ▸ h) (by decide)

theorem decodeRaw_unlisted {r : Raw} (h : listed r.opc = false) : decodeRaw r = .error .opcode := by
  unfold decodeRaw
  split
  · exact decControl_unlisted h
  split
  · exact decScalar_unlisted h
  split
  · exact decVec1_unlisted h
  split
  · exact decVec2_unlisted h
  split
  · exact decMem_unlisted h
  split
  · exact decCopy_unlisted h
  split
  · exact decArray_unlisted h
  split
  · exact decSf_unlisted h
  · exact decPriv_unlisted h

/-- The opcode of a word is its top bits. -/
theorem opc_ofWord (w : W128) : (Raw.ofWord w).opc = w.toNat / 2 ^ 118 := by
  rw [Raw.ofWord, fld, Nat.shiftRight_eq_div_pow]
  exact Nat.mod_eq_of_lt (by have := w.isLt; omega)

/-- Settles O41: no part of the opcode map lists another opcode, and no instruction's fields hold a reserved code. -/
theorem reservedEncodingsRefused : Obligations.ReservedEncodingsRefused := by
  intro w
  rw [← opc_ofWord]
  refine ⟨decodeRaw_unlisted, fun i hi => ?_⟩
  obtain ⟨hrsv, hch, hwb⟩ := unreserved_of_encodeRaw (encodeRaw_of_decode hi)
  simp only [Raw.ofWord, fld, Nat.shiftRight_eq_div_pow] at hrsv hch hwb
  refine ⟨?_, hrsv, hch, hwb⟩
  by_contra hl
  rw [decode, decodeRaw_unlisted (eq_false_of_ne_true hl)] at hi
  cases hi

end Sys2Proof.Proofs

/-! Memory stays canonical at every step (13 R238): events by the lemma of each, words by what they leave of memory. -/

namespace Sys2Proof.Proofs
open Sys2Proof Sys2Proof.Machine Sys2Proof.Laws

/-- The end of a WAIT changes no memory. -/
theorem wf_execWaitWake (c : CoreId) (b : BerthId) (s : State) (h : s.mem.wf = true) :
    (execWaitWake c b s).memAll (fun m => m.wf = true) := by
  unfold execWaitWake
  split
  · simpa using h
  · exact h

/-- A Trel, or the word that every strand has ended, changes no memory. -/
theorem wf_execTrelReceived (i : Nat) (d : DieId) (trel : Option W64) (s : State) (h : s.mem.wf = true) :
    (execTrelReceived i d trel s).memAll (fun m => m.wf = true) := by
  cases trel with
  | some trel => exact mem_execTrelReceived (P := fun m => m.wf = true) i d trel s h
  | none =>
    cases hl : s.launch i with
    | none => simpa only [execTrelReceived, hl, Out.memAll_next] using h
    | some l =>
      simp only [execTrelReceived, hl, Out.memAll_next]
      split
      · simpa using h
      · exact h

/-- Every event keeps the canonical form. -/
theorem wf_runEv (e : Ev) (s : State) (h : s.mem.wf = true) : (runEv e s).memAll (fun m => m.wf = true) := by
  cases e with
  | stallExpiry => exact mem_execStallExpiry _ _ s h
  | berthSwitch => exact mem_execBerthSwitch _ s h
  | waitWake => exact wf_execWaitWake _ _ s h
  | sleepcWake => exact mem_execSleepcWake _ _ s h
  | sleeppWake => exact mem_execSleeppWake _ _ s h
  | waitpWake => exact mem_execWaitpWake _ _ s h
  | barrierWake => exact mem_execBarrierWake _ _ s h
  | barrierWaitTimeout => exact mem_execBarrierWaitTimeout _ _ s h
  | tokinWake => exact mem_execTokinWake _ _ s h
  | tokoutWake => exact mem_execTokoutWake _ _ s h
  | tokenInboxRoom => exact mem_execTokenInboxRoom _ s h
  | idleWake => exact mem_execIdleWake _ s h
  | droopAlarm => exact mem_execDroopAlarm _ s h
  | stretchEnd => exact mem_execStretchEnd _ s h
  | halfRateWindowEnd => exact mem_execHalfRateWindowEnd _ s h
  | resultWriteback => exact mem_execResultWriteback _ s h
  | enginePushResume => exact mem_execEnginePushResume _ s h
  | vxeEntryStart => exact mem_execVxeEntryStart _ s h
  | ldeEntryStart => exact wf_execLdeEntryStart _ s h
  | steEntryStart => exact wf_execSteEntryStart _ s h
  | memoryTransferPerformed => exact wf_execMemoryTransferPerformed _ _ _ s h
  | engineEntryComplete => exact mem_execEngineEntryComplete _ s h
  | deferredTrapTaken => exact wf_execDeferredTrapTaken _ _ s h
  | copyAccept => exact wf_execCopyAccept _ _ s h
  | copyUnitPerformed => exact wf_execCopyUnitPerformed _ _ _ s h
  | objectCount => exact wf_execObjectCount _ s h
  | bargeSend => exact wf_execBargeSend _ _ s h
  | operandLatched => exact mem_execOperandLatched _ s h
  | gateFlipSeen => exact wf_execGateFlipSeen _ s h
  | bargeIssue => exact wf_execBargeIssue _ s h
  | stampWindowExpiry => exact wf_execStampWindowExpiry _ s h
  | arrCeilingAdmit => exact wf_execArrCeilingAdmit _ s h
  | arrayCommandComplete => exact wf_execArrayCommandComplete _ _ s h
  | sfBargeStart => exact wf_execSfBargeStart s h
  | sfTransferComplete => exact wf_execSfTransferComplete _ _ s h
  | dieJointFailure => exact wf_execDieJointFailure _ s h
  | lockArrivalCount => exact mem_execLockArrivalCount _ s h
  | lockReportReceived => exact mem_execLockReportReceived _ _ _ s h
  | trelReceived => exact wf_execTrelReceived _ _ _ s h
  | lockRelease => exact wf_execLockRelease _ s h
  | barrierReleaseMessage => exact mem_execBarrierReleaseMessage _ _ _ s h
  | estimatorWindow => exact mem_execEstimatorWindow _ s h
  | intervalBoundary => exact mem_execIntervalBoundary s h
  | thermalCeiling z => exact mem_execThermalCeiling z s h
  | vecStepChange => exact mem_execVecStepChange _ s h
  | clockStopEnd => exact mem_execClockStopEnd s h
  | thermalTrip z => exact mem_execThermalTrip z s h
  | quadPowerGate => exact mem_execQuadPowerGate _ s h
  | wakeRequest => exact mem_execWakeRequest _ s h
  | wakeHoldExpiry => exact mem_execWakeHoldExpiry _ s h
  | inrushAdmit => exact mem_execInrushAdmit _ s h
  | railsStable => exact mem_execRailsStable _ s h
  | transientRequest => exact mem_execTransientRequest _ _ _ s h
  | tokenMessageReceived => exact wf_execTokenMessageReceived _ s h
  | requestResendTimeout => exact mem_execRequestResendTimeout _ _ s h
  | persistentActivation => exact mem_execPersistentActivation _ _ _ _ s h
  | persistentDeactivation => exact mem_execPersistentDeactivation _ _ _ s h
  | lineEviction => exact mem_execLineEviction _ _ s h
  | rlsMessageReceived => exact wf_execRlsMessageReceived _ _ _ _ _ _ _ s h
  | rlsAckReceived => exact wf_execRlsAckReceived _ _ _ _ s h
  | fabricWriteReceived => exact wf_execFabricWriteReceived _ _ _ _ _ _ _ _ _ s h
  | fabricResend => exact mem_execFabricResend _ _ _ s h
  | agsetInstall => exact wf_execAgsetInstall _ s h
  | qtailWrite => exact wf_execQtailWrite _ _ _ s h
  | slotRead => exact wf_execSlotRead _ _ s h
  | dependenceTest => exact wf_execDependenceTest _ s h
  | turnGrant => exact mem_execTurnGrant _ s h
  | placement => exact mem_execPlacement _ s h
  | copyLaunch => exact wf_execCopyLaunch _ s h
  | loadingComplete => exact wf_execLoadingComplete _ s h
  | startingLockRelease => exact mem_execStartingLockRelease _ s h
  | completionWrite => exact wf_execCompletionWrite _ s h
  | watchdogTest => exact wf_execWatchdogTest s h
  | preemptionRequest => exact mem_execPreemptionRequest _ s h
  | imageWritten => exact wf_execImageWritten _ s h
  | gangResume => exact wf_execGangResume _ s h
  | gctlResume => exact mem_execGctlResume _ _ _ s h
  | gctlDiscard => exact wf_execGctlDiscard _ _ _ s h
  | prepare => exact mem_execPrepare _ _ _ _ _ s h
  | prepareReply => exact wf_execPrepareReply _ _ _ s h
  | commit => exact mem_execCommit _ _ s h
  | abort => exact wf_execAbort _ s h
  | tlimExpiry => exact wf_execTlimExpiry _ s h
  | gangBarrierTimeout => exact wf_execGangBarrierTimeout _ s h
  | partitionTableWrite => exact mem_execPartitionTableWrite _ _ _ s h
  | addTwinWrite => exact wf_execAddTwinWrite _ _ _ s h
  | relTwinWrite => exact wf_execRelTwinWrite _ _ _ _ s h
  | rszackWrite => exact wf_execRszackWrite _ _ s h
  | resizeDeadline => exact wf_execResizeDeadline _ s h
  | scrubGateDone => exact wf_execScrubGateDone _ _ s h
  | tinvWrite => exact mem_execTinvWrite _ _ s h
  | tinvComplete => exact mem_execTinvComplete _ s h
  | pageWalkComplete => exact mem_execPageWalkComplete _ _ _ _ s h
  | bindUnbind => exact mem_execBindUnbind _ _ s h
  | flr => exact wf_execFlr _ s h
  | flrReady => exact mem_execFlrReady _ s h
  | hostWindowRead => exact wf_execHostWindowRead _ _ _ s h
  | hostWindowWrite => exact wf_execHostWindowWrite _ _ _ s h
  | hostCompletion => exact wf_execHostCompletion _ _ _ s h
  | domainJoin => exact mem_execDomainJoin s h
  | domainLeave => exact mem_execDomainLeave s h
  | offsetMeasure => exact wf_execOffsetMeasure _ s h
  | pllLockLoss => exact wf_execPllLockLoss s h
  | bportEnableWrite => exact mem_execBportEnableWrite _ _ s h
  | linkTrained => exact mem_execLinkTrained _ _ s h
  | trainingTimeout => exact mem_execTrainingTimeout _ s h
  | linkError => exact mem_execLinkError _ s h
  | retrainResult => exact wf_execRetrainResult _ _ s h
  | downRetry => exact mem_execDownRetry _ s h
  | flitReplay => exact mem_execFlitReplay _ s h
  | portStateFlit => exact mem_execPortStateFlit _ _ s h
  | maintenanceDue => exact mem_execMaintenanceDue _ _ s h
  | wornSet => exact wf_execWornSet _ s h
  | healthRecordAppend => exact mem_execHealthRecordAppend s h
  | patrolScrub => exact wf_execPatrolScrub _ _ s h
  | readhealth => exact mem_execReadhealth s h
  | readtotals => exact mem_execReadtotals s h
  | readcert => exact mem_execReadcert s h
  | quote => exact mem_execQuote s h
  | signman => exact mem_execSignman s h
  | install => exact mem_execInstall s h
  | remap => exact mem_execRemap s h
  | loadfw => exact mem_execLoadfw s h
  | mailboxBadOp => exact mem_execMailboxBadOp _ s h
  | mailboxDone => exact mem_execMailboxDone s h
  | moduleReset => exact wf_execModuleReset s h
  | bootVerify => exact mem_execBootVerify s h
  | perstRelease => exact mem_execPerstRelease s h
  | powerLoss => exact mem_execPowerLoss s h
  | registerWrite => exact wf_execRegisterWrite _ _ s h
  | rcRegisterRead => exact mem_execRcRegisterRead _ s h
  | fabricRequestReceived => exact wf_execFabricRequestReceived _ _ _ _ _ _ s h
  | dieJointRetrained => exact mem_execDieJointRetrained _ s h
  | fabricPllLock => exact mem_execFabricPllLock s h
  | timeExchange => exact mem_execTimeExchange _ s h
  | junctionTemperatureSample => exact mem_execJunctionTemperatureSample _ s h
  | doeRequest => exact mem_execDoeRequest _ s h

/-- A fetch keeps the canonical form: it traps, stays, or executes a word. -/
theorem wf_fetch (s : State) (h : s.mem.wf = true) : (fetch s).memAll (fun m => m.wf = true) := by
  unfold fetch
  split
  · simpa using h
  · split
    · simpa [State.meetsUce] using h
    · split
      case _ i hi =>
        have hr := encodeRaw_of_decode hi
        obtain ⟨body, hx, _⟩ := exec_word hr
        obtain ⟨t, ht, _⟩ := issue_outcome i (rawHead _) body s
        rw [← hx] at ht
        rw [ht, Out.memAll_next, (word_sameMemory hr ht).1]
        exact h
      case _ r _ =>
        split
        · simpa using h
        · simpa using h

theorem wf_issueCycle (s : State) (h : s.mem.wf = true) : (issueCycle s).memAll (fun m => m.wf = true) := by
  have ht : (prepare_ s).mem.wf = true := by simpa using h
  unfold issueCycle
  dsimp only
  split
  · simpa using h
  split
  · simpa using h
  split
  · exact wf_runEv (.berthSwitch s.cur) _ ht
  split
  · exact ht
  split
  · exact wf_runEv (.deferredTrapTaken s.cur s.self.cur) _ ht
  · exact wf_fetch _ ht

/-- Every step keeps the canonical form. -/
theorem wf_step (s : State) (h : s.mem.wf = true) : Out.memAll (fun m => m.wf = true) (step s) := by
  unfold step
  split
  · split
    · exact wf_runEv _ s h
    · trivial
  · split
    · exact wf_runEv _ _ h
    · split
      · simpa using h
      · exact wf_issueCycle s h
      · exact wf_engineCycle s h
      · simpa using h
      · simpa using h
      · simpa using h

/-- Settles O48, by the parts of a step. -/
theorem stepKeepsMemoryCanonical : Obligations.StepKeepsMemoryCanonical := by
  intro s t h e
  have := wf_step s h
  rw [e] at this
  exact this

/-- Settles O47: no cell is listed. -/
theorem resetMemoryCanonical : Obligations.ResetMemoryCanonical := rfl

end Sys2Proof.Proofs

/-! Control words (07 R104 to R115): what each does once it is ready, and where it traps. -/

namespace Sys2Proof.Proofs
open Sys2Proof Sys2Proof.Machine Sys2Proof.Laws

/-- A word whose body raises a trap of its own is trapped, in the state before it. -/
theorem issue_traps {i : Instr} {h : Head} {s : State} {body : M Unit} {code : Code} {slot : Nat} {tval : W64}
    (hr : ready i h s = true) (hb : body (scheduled h s) = .error (.trap code slot tval)) (hc : code ≠ .trap)
    (hx : code ≠ .tagx) : issue i h body s = .next (s.trapHere code slot tval s.me.pc) := by
  rw [issue_ready hr, hb]
  simp only [if_neg hc, trapTval, hx, false_and, if_false]
  rfl

/-- A check that fails raises its trap. -/
theorem need_false_bind {b : Bool} {code : Code} {slot : Nat} {tval : W64} {f : Unit → M α} {s : State} (hb : b = false) :
    (need b code slot tval >>= f) s = .error (.trap code slot tval) := by
  subst hb; rfl

theorem need_true_bind {b : Bool} {code : Code} {slot : Nat} {tval : W64} {f : Unit → M α} {s : State} (hb : b = true) :
    (need b code slot tval >>= f) s = f () s := by
  subst hb; rfl

/-! ## Branches -/

theorem branchReg_aligned {slot : Nat} {x : W64} (hx : x.toNat % 16 = 0) (t : State) :
    branchReg slot x t = .ok ((), t.jump x) := need_true_bind (decide_eq_true hx)

theorem branchReg_unaligned {slot : Nat} {x : W64} (hx : x.toNat % 16 ≠ 0) (t : State) :
    branchReg slot x t = .error (.trap .align slot x) := need_false_bind (decide_eq_false hx)

/-- LOOP goes round unless the counter it writes is 0. -/
theorem loop_body {d : SDst} {a : SSrc} {dist : W16} {s t : State} {x : W64} (hx : Reads (readS 1 a) s x t) :
    (do
      let x ← readS 1 a
      let t := x - 1
      seqResult d t
      if t ≠ 0 then branch (target (← get).wordAddr (dist.signExtend 64)) else pure () : M Unit) s =
    .ok ((), if x = 1 then t.emitS d 0 1 else (t.emitS d (x - 1) 1).jump (t.wordAddr + dist.signExtend 64 * 16)) := by
  rw [bind_of hx]
  by_cases h1 : x = 1
  · subst h1
    rfl
  · have h0 : x - 1 ≠ 0 := fun e => h1 (sub_eq_zero.mp e)
    simp only [seqResult_bind, if_pos h0, if_neg h1, get_bind, emitS_wordAddr, branch_run]
    rfl

/-- BRC jumps where its condition holds. -/
theorem brc_body {c : Cond} {a : SSrc} {b : SOp} {dist : W16} {s t u : State} {x y : W64} (hx : Reads (readS 1 a) s x t)
    (hy : Reads (readSI 2 b) t y u) :
    (do
      let x ← readS 1 a
      let y ← readSI 2 b
      if condHolds c x y then branch (target (← get).wordAddr (dist.signExtend 64)) else pure () : M Unit) s =
    .ok ((), if condHolds c x y then u.jump (u.wordAddr + dist.signExtend 64 * 16) else u) := by
  rw [bind_of hx, bind_of hy]
  by_cases hc : condHolds c x y = true
  · rw [if_pos hc, if_pos hc]
    rfl
  · rw [if_neg hc, if_neg hc]
    rfl

theorem scheduled_psize (h : Head) (s : State) : (scheduled h s).self.psize = s.self.psize := by
  simp [scheduled, State.self, Core.updBerth, Core.setBerth]

/-- PHASE looks its entry up where it stands. -/
theorem phase_body (d : SDst) (s : State) :
    (do
      let s ← get
      match (s.gangOf s.cur).bind (fun g => schedule g.2 s.self.psize) with
      | some (k, off) => do
        seqResult d (BitVec.ofNat 64 k)
        branch off
      | none => seqResult d 8 : M Unit) s =
    .ok ((), match (s.gangOf s.cur).bind (fun g => schedule g.2 s.self.psize) with
      | some (k, off) => (s.emitS d (BitVec.ofNat 64 k) 1).jump off
      | none => s.emitS d 8 1) := by
  rw [get_bind]
  split
  next k off e => rw [e]; rfl
  next e => rw [e]; rfl

/-- Settles O1. -/
theorem branchesCompleteAsStated : Obligations.BranchesCompleteAsStated := by
  intro h d c a b dist far s t u x y
  refine ⟨fun hr => (exec_nop s).trans (issue_next hr rfl), fun hr => (exec_br s).trans (issue_next hr rfl),
    fun hr => (exec_call s).trans (issue_next hr rfl), fun hx => ⟨fun hy hr => ?_, fun ha hr => ?_, fun ha hr => ?_,
      fun ha => ⟨fun hr => ?_, fun hr => ?_⟩, fun hr => ?_⟩, fun hr => ?_⟩
  · exact (exec_brc s).trans (issue_next hr (brc_body hx hy))
  · exact (exec_bri s).trans (issue_next hr ((bind_of hx).trans (branchReg_aligned ha t)))
  · exact (exec_ret s).trans (issue_next hr ((bind_of hx).trans (branchReg_aligned ha t)))
  · exact (exec_bri s).trans (issue_traps hr ((bind_of hx).trans (branchReg_unaligned ha t)) nofun nofun)
  · exact (exec_ret s).trans (issue_traps hr ((bind_of hx).trans (branchReg_unaligned ha t)) nofun nofun)
  · exact (exec_loop s).trans (issue_next hr (loop_body hx))
  · rw [← scheduled_psize h s]
    exact (exec_phase s).trans (issue_next hr (phase_body d (scheduled h s)))

/-! ## Ends of blocks -/

theorem updSelf_rest (f : Core → Core) (s : State) :
    (updSelf f >>= fun _ => endBlock) s = .ok ((), (s.onSelf f).rest) := rfl

theorem lock_body (s : State) :
    (do
      let s ← get
      if s.me.lockPassed && s.me.lockAt == s.wordAddr then
        updMe (fun x => { x with lockPassed := false })
        endBlock
      else
        updMe (fun x => { x with lockArrived := true, lockPassed := false, lockAt := s.wordAddr })
        waitHere .lock : M Unit) s =
    .ok ((), if s.me.lockPassed = true ∧ s.me.lockAt = s.wordAddr
      then (s.onMe (fun x => { x with lockPassed := false })).rest
      else (s.onMe (fun x => { x with lockArrived := true, lockPassed := false, lockAt := s.wordAddr })).park .lock) := by
  rw [get_bind]
  by_cases hp : s.me.lockPassed = true ∧ s.me.lockAt = s.wordAddr
  · rw [if_pos hp, if_pos (by simpa using hp)]
    rfl
  · rw [if_neg hp, if_neg (by simpa using hp)]
    rfl

theorem beat_body (s : State) :
    (do
      let s ← get
      match s.gangOf s.cur with
      | some (_, l) => if l.pers then updSelf (fun k => { k with beat := s.cyc }) else pure ()
      | none => pure () : M Unit) s =
    .ok ((), if ((s.gangOf s.cur).map (fun g => g.2.pers)) = some true then s.onSelf (fun k => { k with beat := s.cyc })
      else s) := by
  rw [get_bind]
  cases hg : s.gangOf s.cur with
  | none => rfl
  | some g =>
    cases hp : g.2.pers with
    | false => simp [hp]
    | true => simp [hp]

/-- Settles O2. -/
theorem blockEndsCompleteAsStated : Obligations.BlockEndsCompleteAsStated := by
  intro h s
  exact ⟨fun hr => (exec_wait s).trans (issue_next hr rfl), fun hr => (exec_yield s).trans (issue_next hr rfl),
    fun hr => (exec_exit s).trans (issue_next hr rfl), fun hr => (exec_beat s).trans (issue_next hr (beat_body _)),
    fun hr => (exec_lock s).trans (issue_next hr (lock_body _)), fun hr => (exec_idle s).trans (issue_next hr rfl)⟩

/-! ## Named barriers -/

/-- Size of the core's gang, and EXP and ARR of a barrier. -/
theorem countOk_of_gang {n : Fin 96} {v : W64} {t : State} {i : Nat} {l : Launch} (hg : t.gangOf t.cur = some (i, l)) :
    countOk n v t = (do
      need (decide (1 ≤ v.toNat ∧ v.toNat ≤ l.size)) .barto 2 (BitVec.ofNat 64 (2 ^ 63 + v.toNat % 65536))
      need (decide ((l.bars.get n).2.1 = 0 ∨ (l.bars.get n).1.toNat = v.toNat)) .barto 2
        (BitVec.ofNat 64 (2 ^ 63 + (l.bars.get n).1.toNat)) : M Unit) t := by
  rw [countOk, get_bind, hg]

/-- A count that R112 allows passes. -/
theorem countOk_passes {n : Fin 96} {v : W64} {t : State} {i : Nat} {l : Launch} (hg : t.gangOf t.cur = some (i, l))
    (h1 : 1 ≤ v.toNat) (hl : v.toNat ≤ l.size) (hc : (l.bars.get n).2.1 = 0 ∨ (l.bars.get n).1.toNat = v.toNat) :
    Reads (countOk n v) t () t := by
  rw [Reads, countOk_of_gang hg, need_true_bind (decide_eq_true ⟨h1, hl⟩), need_of (decide_eq_true hc)]
  rfl

/-- A count outside the gang is refused. -/
theorem countOk_outside {n : Fin 96} {v : W64} {t : State} {i : Nat} {l : Launch} (hg : t.gangOf t.cur = some (i, l))
    (hv : v.toNat = 0 ∨ l.size < v.toNat) :
    countOk n v t = .error (.trap .barto 2 (BitVec.ofNat 64 (2 ^ 63 + v.toNat % 65536))) := by
  rw [countOk_of_gang hg, need_false_bind (decide_eq_false (by omega))]

/-- A count that is not the phase's is refused. -/
theorem countOk_differs {n : Fin 96} {v : W64} {t : State} {i : Nat} {l : Launch} (hg : t.gangOf t.cur = some (i, l))
    (h1 : 1 ≤ v.toNat) (hl : v.toNat ≤ l.size) (ha : (l.bars.get n).2.1 ≠ 0) (he : (l.bars.get n).1.toNat ≠ v.toNat) :
    countOk n v t = .error (.trap .barto 2 (BitVec.ofNat 64 (2 ^ 63 + (l.bars.get n).1.toNat))) := by
  rw [countOk_of_gang hg, need_true_bind (decide_eq_true ⟨h1, hl⟩), decide_eq_false (not_or_intro ha he)]
  rfl

/-- A reader that stops stops what follows it. -/
theorem bind_error {m : M α} {f : α → M β} {s : State} {e : Stop} (h : m s = .error e) : (m >>= f) s = .error e := by
  simp [Bind.bind, StateT.bind, h, Except.bind]

/-- What BARAW waits for. -/
def barWait (n : Fin 96) (t : State) : Wait := .bar n (t.self.barPh n) (t.cyc + barLimit)

section
variable {h : Head} {d : SDst} {n : Fin 96} {count : SOp} {s t : State} {v : W64}
  (hv : Reads (readSI 2 count) (scheduled h s) v t)
include hv

theorem bara_passes (hr : ready (.bara h d n count) h s = true) (hc : Reads (countOk n v) t () t) :
    exec (.bara h d n count) s =
      .next (arrive n (v.truncate 16) (t.emitS d (BitVec.ofNat 64 (b2n (t.self.barPh n))) 1)) :=
  (exec_bara s).trans (issue_next hr (by rw [bind_of hv, bind_of hc]; rfl))

theorem bara_refused {tval : W64} (hr : ready (.bara h d n count) h s = true)
    (hc : countOk n v t = .error (.trap .barto 2 tval)) :
    exec (.bara h d n count) s = .next (s.trapHere .barto 2 tval s.me.pc) :=
  (exec_bara s).trans (issue_traps hr (by rw [bind_of hv, bind_error hc]) nofun nofun)

theorem baraw_marked (hr : ready (.baraw h n count) h s = true) (hm : t.me.marked n = true) :
    exec (.baraw h n count) s = .next (t.park (barWait n t)) :=
  (exec_baraw s).trans (issue_next hr (by
    rw [bind_of hv, get_bind]
    rw [if_pos hm]
    rfl))

theorem baraw_passes (hr : ready (.baraw h n count) h s = true) (hm : t.me.marked n = false)
    (hc : Reads (countOk n v) t () t) :
    exec (.baraw h n count) s = .next (((arrive n (v.truncate 16) t).onMe (fun x =>
      { x with barMarks := x.barMarks ++ [n] })).park (barWait n t)) :=
  (exec_baraw s).trans (issue_next hr (by
    rw [bind_of hv, get_bind]
    rw [if_neg (ne_true_of_eq_false hm), bind_of hc]
    rfl))

theorem baraw_refused {tval : W64} (hr : ready (.baraw h n count) h s = true) (hm : t.me.marked n = false)
    (hc : countOk n v t = .error (.trap .barto 2 tval)) :
    exec (.baraw h n count) s = .next (s.trapHere .barto 2 tval s.me.pc) :=
  (exec_baraw s).trans (issue_traps hr (by
    rw [bind_of hv, get_bind]
    rw [if_neg (ne_true_of_eq_false hm), bind_error hc]) nofun nofun)

theorem barw_next (hr : ready (.barw h n count) h s = true) :
    exec (.barw h n count) s =
      .next (if t.self.barPh n ≠ bit v 0 then t else t.park (.bar n (bit v 0) (t.cyc + barLimit))) :=
  (exec_barw s).trans (issue_next hr (by
    rw [bind_of hv, get_bind]
    by_cases hp : t.self.barPh n ≠ bit v 0
    · rw [if_pos hp, if_pos hp]; rfl
    · rw [if_neg hp, if_neg hp]; rfl))
end

/-- Settles O3. -/
theorem namedBarriersCompleteAsStated : Obligations.NamedBarriersCompleteAsStated := by
  intro h d n count s t v hv
  refine ⟨fun i l hg h1 hl hc => ?_, fun i l hg => ⟨fun ho => ?_, fun h1 hl ha he => ?_⟩, barw_next hv, baraw_marked hv⟩
  · have hok := countOk_passes hg h1 hl hc
    exact ⟨fun hr => bara_passes hv hr hok, fun hr hm => baraw_passes hv hr hm hok⟩
  · have hno := countOk_outside (n := n) hg ho
    exact ⟨fun hr => bara_refused hv hr hno, fun hr hm => baraw_refused hv hr hm hno⟩
  · have hno := countOk_differs hg h1 hl ha he
    exact ⟨fun hr => bara_refused hv hr hno, fun hr hm => baraw_refused hv hr hm hno⟩

/-! ## Tokens -/

/-- Settles O4. -/
theorem tokensCompleteAsStated : Obligations.TokensCompleteAsStated := by
  intro h k stage mb s t x hx
  refine ⟨fun hr => (exec_tokin s).trans (issue_next hr ?_), fun u y hy hr => (exec_tokout s).trans (issue_next hr ?_)⟩
  · rw [bind_of hx, get_bind]
    cases takeToken k (x.truncate 8) t.self.inbox <;> rfl
  · rw [bind_of hx, bind_of hy, get_bind]
    by_cases hroom : tokenRoom u u.cur = true
    · rw [if_pos hroom, if_pos hroom]; rfl
    · rw [if_neg hroom, if_neg hroom]; rfl

/-! ## Waits -/

section
variable {bo : SOp} {s t u : State} {x y : W64}

/-- The operands of a word that waits on an object: both, and the object, whose line has no error. -/
theorem waitWord_reads {ph : SOp} {g : W64 → Fin 4096 → State → M Unit} (hx : Reads (readSI 1 bo) s x t)
    (hy : Reads (readSI 2 ph) t y u) (hlt : x.toNat < 4096) (he : u.objErrs u.cur (Fin.ofNat 4096 x.toNat) = none) :
    (do
      let b ← readSI 1 bo
      let p ← readSI 2 ph
      let o ← objIndex 1 b
      let s ← get
      failing 0 (s.objErrs s.cur o)
      g p o s : M Unit) s = g y (Fin.ofNat 4096 x.toNat) u u := by
  have ho : Reads (objIndex 1 x) u (Fin.ofNat 4096 x.toNat) u :=
    reads_bind (reads_need (by simpa using hlt)) rfl
  rw [bind_of hx, bind_of hy, bind_of ho, get_bind, he]
  rfl

theorem flipped_completes {o : Fin 4096} (he : u.self.objErr o = false) : flipped o u = .ok ((), u) := by
  rw [flipped, get_bind, he]
  rfl

theorem flipped_errs {o : Fin 4096} (he : u.self.objErr o = true) :
    flipped o u = .error (.trap .bobjerr 7 (bobjTval u.self o)) := by
  rw [flipped, get_bind, he]
  rfl
end

theorem sleepc_body {a : SSrc} {s t : State} {x : W64} (hx : Reads (readS 1 a) s x t) :
    (do
      let v ← readS 1 a
      if cycGe (← get).cyc v then pure () else waitHere (.sleepc v) : M Unit) s =
    .ok ((), if t.cyc.toNat < x.toNat then t.park (.sleepc x) else t) := by
  rw [bind_of hx, get_bind]
  by_cases hc : t.cyc.toNat < x.toNat
  · rw [if_pos hc, if_neg (by simpa [cycGe] using hc)]; rfl
  · rw [if_neg hc, if_pos (by simpa [cycGe] using hc)]; rfl

/-- Settles O5. -/
theorem waitsCompleteAsStated : Obligations.WaitsCompleteAsStated := by
  intro h a bo ph s t u x y
  refine ⟨fun hx hr => (exec_sleepc s).trans (issue_next hr (sleepc_body hx)), fun hx hy hlt => ?_⟩
  intro o he
  refine ⟨fun hp hn => ⟨fun hr => ?_, fun hr => ?_⟩, fun hp hn => ⟨fun hr => ?_, fun hr => ?_⟩, fun hp h0 hle hr => ?_,
    fun hp => ⟨fun hr => ?_, fun hr hprom => ?_⟩⟩
  · refine (exec_waitp s).trans (issue_next hr ((waitWord_reads hx hy hlt he).trans ?_))
    rw [if_pos hp, flipped_completes hn]
  · refine (exec_sleepp s).trans (issue_next hr ((waitWord_reads hx hy hlt he).trans ?_))
    rw [if_pos hp, flipped_completes hn]
  · refine (exec_waitp s).trans (issue_traps hr ((waitWord_reads hx hy hlt he).trans ?_) nofun nofun)
    rw [if_pos hp, flipped_errs hn]
  · refine (exec_sleepp s).trans (issue_traps hr ((waitWord_reads hx hy hlt he).trans ?_) nofun nofun)
    rw [if_pos hp, flipped_errs hn]
  · refine (exec_sleepp s).trans (issue_traps hr ((waitWord_reads hx hy hlt he).trans ?_) nofun nofun)
    rw [if_neg (not_not.mpr hp), if_pos ⟨h0, decide_eq_true hle⟩]
    rfl
  · refine (exec_waitp s).trans (issue_next hr ((waitWord_reads hx hy hlt he).trans ?_))
    rw [if_neg (not_not.mpr hp)]
    rfl
  · refine (exec_sleepp s).trans (issue_next hr ((waitWord_reads hx hy hlt he).trans ?_))
    rw [if_neg (not_not.mpr hp), if_neg]
    · rfl
    · rintro ⟨h0, hge⟩
      have := of_decide_eq_true hge
      rcases hprom with hz | hlt'
      · exact h0 hz
      · exact absurd hlt' (not_lt.mpr this)

/-! ## Fences -/

/-- Settles O8. -/
theorem fencesCompleteAsStated : Obligations.FencesCompleteAsStated := by
  intro h sc pre post a b s t x u behind
  refine ⟨fun hr => (exec_fence s).trans (issue_next hr rfl), fun hr => (exec_fsc s).trans (issue_next hr rfl),
    fun hr => (exec_mark s).trans (issue_next hr rfl), fun hr => (exec_tfence s).trans (issue_next hr rfl),
    fun hr => (exec_rcfence s).trans (issue_next hr rfl), fun hx hr => (exec_tfence s).trans (issue_next hr ?_),
    fun hx hlt hr => (exec_rcfence s).trans (issue_next hr ?_), fun hr => (exec_icfence s).trans (issue_next hr rfl)⟩
  · have hva : Reads (do return some (← readS 2 a) : M (Option W64)) u (some x) t := reads_bind hx rfl
    exact bind_of hva
  · have htid : Reads (do
        let v ← readSI 2 b
        refOk 2 v
        return some (Fin.ofNat 4096 v.toNat) : M (Option (Fin 4096))) u (some (Fin.ofNat 4096 x.toNat)) t :=
      reads_bind hx (reads_bind (reads_need (by simpa using hlt)) rfl)
    exact bind_of htid

end Sys2Proof.Proofs

/-! System registers, time, locality and the privileged words (03 R37, R39, 07 R114, R117, R118, 10 R211, 15 R276, 20 R321). -/

namespace Sys2Proof.Proofs
open Sys2Proof Sys2Proof.Machine Sys2Proof.Laws

/-! ## Fields of a register -/

/-- The low n bits of a value. -/
theorem zeroExtend_truncate (x : W64) {n : Nat} (hn : n ≤ 64) :
    (x.truncate n).zeroExtend 64 = x &&& BitVec.ofNat 64 (2 ^ n - 1) := by
  apply BitVec.eq_of_toNat_eq
  have hp : 2 ^ n ≤ 2 ^ 64 := Nat.pow_le_pow_right (by decide) hn
  have h1 : (2 ^ n - 1) % 2 ^ 64 = 2 ^ n - 1 := Nat.mod_eq_of_lt (by have := Nat.two_pow_pos n; omega)
  have h2 : x.toNat % 2 ^ n < 2 ^ 64 := (Nat.mod_le _ _).trans_lt x.isLt
  simp only [BitVec.truncate_eq_setWidth, BitVec.toNat_setWidth, BitVec.toNat_and, BitVec.toNat_ofNat, h1,
    Nat.and_two_pow_sub_one_eq_mod, Nat.mod_eq_of_lt h2]

/-- A field of zeros has no bit set. -/
theorem getLsbD_of_fld_eq_zero {v : W64} {hi lo i : Nat} (h : fld v hi lo = 0) (hl : lo ≤ i) (hh : i ≤ hi) :
    v.getLsbD i = false := by
  have hb : (v.toNat >>> lo % 2 ^ (hi + 1 - lo)).testBit (i - lo) = v.getLsbD i := by
    rw [Nat.testBit_mod_two_pow, Nat.testBit_shiftRight, Nat.add_sub_cancel' hl, decide_eq_true (by omega), Bool.true_and]
    rfl
  rw [← hb, show v.toNat >>> lo % 2 ^ (hi + 1 - lo) = 0 from h, Nat.zero_testBit]

/-- The reserved bits of a window register (03 R37). -/
theorem reserved_window_bits : ∀ i < 64, (0xF800FC00F800FC00 : W64).getLsbD i = true →
    (10 ≤ i ∧ i ≤ 15) ∨ (27 ≤ i ∧ i ≤ 31) ∨ (42 ≤ i ∧ i ≤ 47) ∨ (59 ≤ i ∧ i ≤ 63) := by decide

/-- Each defect of a window refuses it. -/
theorem windowOk_false {x : W64} (h : fld x 26 16 = 0 ∨ fld x 58 48 = 0 ∨ 1024 < fld x 9 0 + fld x 26 16 ∨
    1024 < fld x 41 32 + fld x 58 48 ∨ x &&& 0xF800FC00F800FC00 ≠ 0) : windowOk x = false := by
  refine decide_eq_false fun ⟨h1, h2, h3, h4, h5, h6, h7, h8⟩ => ?_
  rcases h with h | h | h | h | h
  · omega
  · omega
  · omega
  · omega
  · refine h (BitVec.eq_of_getLsbD_eq fun i hi => ?_)
    rw [BitVec.getLsbD_and, show (0 : W64).getLsbD i = false from BitVec.getLsbD_zero, Bool.and_eq_false_iff]
    by_cases hm : (0xF800FC00F800FC00 : W64).getLsbD i = true
    · rcases reserved_window_bits i hi hm with h | h | h | h
      · exact .inl (getLsbD_of_fld_eq_zero h1 h.1 h.2)
      · exact .inl (getLsbD_of_fld_eq_zero h2 h.1 h.2)
      · exact .inl (getLsbD_of_fld_eq_zero h3 h.1 h.2)
      · exact .inl (getLsbD_of_fld_eq_zero h4 h.1 h.2)
    · exact .inr (eq_false_of_ne_true hm)

/-! ## Reads after writes -/

/-- A system register's value, from the clock, the quad and the core. -/
def sysValue (cyc : W64) (q : Quad) (k : Core) : SysReg → W64
  | .cyc => cyc
  | .lcy => k.lcy
  | .phs => k.phs
  | .xwin => k.xwin.zeroExtend 64
  | .core => k.vcore.zeroExtend 64
  | .gang => BitVec.ofNat 64 (k.rank % 65536)
  | .berth => BitVec.ofNat 64 k.cur.val
  | .heat => k.heat.zeroExtend 64
  | .lend => k.lend.zeroExtend 64
  | .seed0 => k.seed0
  | .seed1 => k.seed1
  | .layer => k.layer.zeroExtend 64
  | .srmode => k.srmode.zeroExtend 64
  | .fpf => k.fpf.zeroExtend 64
  | .psize => k.psize.zeroExtend 64
  | .wdp => k.wdp.zeroExtend 64
  | .trapv => (k.berth k.cur).trapv
  | .tcause => (k.berth k.cur).tcause
  | .tval => (k.berth k.cur).tval
  | .epc => (k.berth k.cur).epc
  | .drpth => q.thr.zeroExtend 64
  | .drpst => drpst q k
  | .pmc n => k.pmc.get n
  | .pmsel n => (k.pmsel.get n).zeroExtend 64

theorem readSys_eq (s : State) (c : CoreId) (r : SysReg) :
    readSys s c r = sysValue s.cyc (s.quad (quadOf c)) (s.core c) r := by cases r <;> rfl

theorem readSys_onSelf (s : State) (f : Core → Core) (r : SysReg) :
    readSys (s.onSelf f) s.cur r = sysValue s.cyc (s.quad (quadOf s.cur)) (f s.self) r := by
  rw [readSys_eq, show (s.onSelf f).core s.cur = f s.self from onSelf_self s f]
  rfl

/-- The running berth after a change of it. -/
theorem berth_updBerth_cur (k : Core) (f : Berth → Berth) :
    (k.updBerth k.cur f).berth (k.updBerth k.cur f).cur = f (k.berth k.cur) := by
  simp [Core.updBerth, Core.setBerth, Core.berth]

/-- A write changes no register but the one written. -/
theorem sysValue_writeSys_ne {r r' : SysReg} (hne : r ≠ r') (cyc : W64) (q : Quad) (k : Core) (x : W64) :
    sysValue cyc q (writeSys r x k) r' = sysValue cyc q k r' := by
  cases r with
  | pmc n | pmsel n => cases r' <;> simp_all [writeSys, sysValue, get_set_if] <;> rfl
  | _ => cases r' <;> simp_all [writeSys, sysValue] <;> rfl

section
variable (s : State) (x : W64)

/-- What a register reads after a write of x to it. -/
theorem readSys_write_xwin : readSys (s.onSelf (writeSys .xwin x)) s.cur .xwin = x &&& 0xFF := by
  rw [readSys_onSelf]
  exact zeroExtend_truncate x (by decide)

theorem readSys_write_layer : readSys (s.onSelf (writeSys .layer x)) s.cur .layer = x &&& 0xFFFFFFFF := by
  rw [readSys_onSelf]
  exact zeroExtend_truncate x (by decide)

theorem readSys_write_srmode : readSys (s.onSelf (writeSys .srmode x)) s.cur .srmode = x &&& 3 := by
  rw [readSys_onSelf]
  exact zeroExtend_truncate x (by decide)

theorem readSys_write_psize : readSys (s.onSelf (writeSys .psize x)) s.cur .psize = x &&& 0xFFFF := by
  rw [readSys_onSelf]
  exact zeroExtend_truncate x (by decide)

/-- FPF's bits go where a one is written. -/
theorem readSys_write_fpf :
    readSys (s.onSelf (writeSys .fpf x)) s.cur .fpf = readSys s s.cur .fpf &&& ~~~x := by
  rw [readSys_onSelf]
  change (clearFlags s.self.fpf x).zeroExtend 64 = s.self.fpf.zeroExtend 64 &&& ~~~x
  apply BitVec.eq_of_getLsbD_eq
  intro i hi
  by_cases h6 : i < 6
  · simp [clearFlags, hi, h6]
  · simp [clearFlags, hi, BitVec.getLsbD_of_ge _ _ (not_lt.mp h6)]

theorem readSys_write_trapv : readSys (s.onSelf (writeSys .trapv x)) s.cur .trapv = x &&& ~~~0xF := by
  rw [readSys_onSelf, sysValue, writeSys, berth_updBerth_cur]
  rfl

theorem readSys_write_epc : readSys (s.onSelf (writeSys .epc x)) s.cur .epc = x &&& ~~~0xF := by
  rw [readSys_onSelf, sysValue, writeSys, berth_updBerth_cur]
  rfl

theorem readSys_write_pmc (n : Fin 16) : readSys (s.onSelf (writeSys (.pmc n) x)) s.cur (.pmc n) = x := by
  rw [readSys_onSelf]
  exact get_set_same _ n x

theorem readSys_write_pmsel (n : Fin 16) :
    readSys (s.onSelf (writeSys (.pmsel n) x)) s.cur (.pmsel n) = x &&& 0xFF := by
  rw [readSys_onSelf]
  exact (congrArg (BitVec.zeroExtend 64) (get_set_same _ n (x.truncate 8))).trans (zeroExtend_truncate x (by decide))

/-- A write reaches no other register. -/
theorem readSys_write_ne {r r' : SysReg} (hne : r ≠ r') :
    readSys (s.onSelf (writeSys r x)) s.cur r' = readSys s s.cur r' := by
  rw [readSys_onSelf, sysValue_writeSys_ne hne, readSys_eq]
  rfl
end

theorem writeSys_readOnly {r : SysReg} (hr : sysReadOnly r = true) (x : W64) (k : Core) : writeSys r x k = k := by
  cases r <;> simp_all [sysReadOnly, writeSys]

/-! ## Quad registers -/

/-- A write of a quad register reaches no other. -/
theorem readQuad_writeQuad_ne {g g' : QuadReg} (hne : g ≠ g') (q : Quad) (x : W64) :
    readQuad (writeQuad g x q) g' = readQuad q g' := by
  cases g <;> cases g' <;> simp_all [writeQuad, readQuad, get_set_if]

theorem readQuad_writeQuad_qpew (n : Fin 48) (q : Quad) (x : W64) :
    readQuad (writeQuad (.qpew n) x q) (.qpew n) = x &&& 0xFFFF :=
  (congrArg (BitVec.zeroExtend 64) (get_set_same _ n (x.truncate 16))).trans (zeroExtend_truncate x (by decide))

/-- The low byte of a value is its field [7:0]. -/
theorem truncate8_eq (x : W64) : x.truncate 8 = BitVec.ofNat 8 (fld x 7 0) := by
  apply BitVec.eq_of_toNat_eq
  simp [fld]

/-- DRPTH takes the value within the signed record's bounds. -/
theorem thr_writePriv (x : W64) (s : State) :
    ((writePriv (.sys .drpth) x s).quad (quadOf s.cur)).thr =
      if fld x 7 0 < (Config.thrFloor s.rails).toNat then Config.thrFloor s.rails
      else if (Config.thrCeil s.rails).toNat < fld x 7 0 then Config.thrCeil s.rails else BitVec.ofNat 8 (fld x 7 0) := by
  have hf : (x.truncate 8).toNat = fld x 7 0 := by simp [fld]
  have hw : ((writePriv (.sys .drpth) x s).quad (quadOf s.cur)).thr = thrWithin s.rails (x.truncate 8) := by
    simp [writePriv]
  rw [hw, thrWithin, hf, truncate8_eq]

/-! ## The words -/

section
variable {h : Head} {a : SOp} {b : SSrc} {s t : State} {x : W64}

theorem xwset_next {w : Fin 8} (hx : Reads (readSI 1 a) (scheduled h s) x t) (hr : ready (.xwset h w a) h s = true)
    (hw : windowOk x = true) :
    exec (.xwset h w a) s = .next (t.onSelf (fun k => { k with wins := k.wins.set w.val x w.isLt })) :=
  (exec_xwset s).trans (issue_next hr (by rw [bind_of hx, need_true_bind hw]; rfl))

theorem xwset_refused {w : Fin 8} (hx : Reads (readSI 1 a) (scheduled h s) x t) (hr : ready (.xwset h w a) h s = true)
    (hw : windowOk x = false) : exec (.xwset h w a) s = .next (s.trapHere .illop 1 x s.me.pc) :=
  (exec_xwset s).trans (issue_traps hr (by rw [bind_of hx, need_false_bind hw]) nofun nofun)

theorem mts_next {r : SysReg} (hx : Reads (readSI 2 a) (scheduled h s) x t) (hr : ready (.mts h r a) h s = true)
    (hro : sysReadOnly r = false) : exec (.mts h r a) s = .next (t.onSelf (writeSys r x)) :=
  (exec_mts s).trans (issue_next hr (by
    rw [need_true_bind (congrArg not hro), bind_of hx]
    rfl))

theorem mtsp_next {r : PrivName} (hx : Reads (readSI 2 a) (scheduled h s) x t) (hr : ready (.mtsp h r a) h s = true) :
    exec (.mtsp h r a) s = .next (writePriv r x t) :=
  (exec_mtsp s).trans (issue_next hr (by rw [bind_of hx]; rfl))

section
variable (hx : Reads (readS 1 b) (scheduled h s) x t)
include hx

theorem snap_next (hr : ready (.snap h b) h s = true) (ha : x.toNat % 4096 = 0) :
    exec (.snap h b) s = .next (t.onSelf (fun k => { k.preempted with snap := some x })) :=
  (exec_snap s).trans (issue_next hr (by rw [bind_of hx, aligned, need_true_bind (decide_eq_true ha)]; rfl))

theorem snap_unaligned (hr : ready (.snap h b) h s = true) (ha : x.toNat % 4096 ≠ 0) :
    exec (.snap h b) s = .next (s.trapHere .align 1 x s.me.pc) :=
  (exec_snap s).trans (issue_traps hr (by rw [bind_of hx, aligned, need_false_bind (decide_eq_false ha)]) nofun nofun)

theorem rstr_next (hr : ready (.rstr h b) h s = true) (ha : x.toNat % 4096 = 0) {y : Option Saved} {m : Mem}
    (hi : imageFor t t.cur x = some (y, m)) :
    exec (.rstr h b) s = .next ((restoreAt t.cur y m t).onSelf (fun k =>
      { k with stopped := true, frozen := true, restart := true })) :=
  (exec_rstr s).trans (issue_next hr (by
    rw [bind_of hx, aligned, need_true_bind (decide_eq_true ha), get_bind, hi]
    rfl))

theorem rstr_no_image (hr : ready (.rstr h b) h s = true) (ha : x.toNat % 4096 = 0) (hi : imageFor t t.cur x = none) :
    exec (.rstr h b) s = .next (s.trapHere .illop 1 x s.me.pc) :=
  (exec_rstr s).trans (issue_traps hr (by
    rw [bind_of hx, aligned, need_true_bind (decide_eq_true ha), get_bind, hi]
    rfl) nofun nofun)

theorem rstr_unaligned (hr : ready (.rstr h b) h s = true) (ha : x.toNat % 4096 ≠ 0) :
    exec (.rstr h b) s = .next (s.trapHere .align 1 x s.me.pc) :=
  (exec_rstr s).trans (issue_traps hr (by rw [bind_of hx, aligned, need_false_bind (decide_eq_false ha)]) nofun nofun)
end
end

/-- Settles O6, by a lemma for each word and each register. -/
theorem registerWordsCompleteAsStated : Obligations.RegisterWordsCompleteAsStated := by
  intro h d e f n r pr w sl a b s t x u
  refine ⟨fun hr => (exec_tsr s).trans (issue_next hr rfl), fun hr => (exec_mfs s).trans (issue_next hr rfl),
    fun hr => (exec_mfsp s).trans (issue_next hr rfl), fun hr => (exec_halt s).trans (issue_next hr rfl),
    fun hx => ⟨fun hr => ?_, fun hr => ?_, fun hr hw => xwset_next hx hr hw,
      fun hr hw => xwset_refused hx hr (windowOk_false hw)⟩,
    fun hx => ⟨fun hr => mts_next hx hr, fun hr => mtsp_next hx hr⟩,
    fun hx ha => ⟨fun hr => snap_next hx hr ha, fun hr y m hi => rstr_next hx hr ha hi,
      fun hr hi => rstr_no_image hx hr ha hi⟩,
    fun hx ha => ⟨fun hr => snap_unaligned hx hr ha, fun hr => rstr_unaligned hx hr ha⟩, ?_, ?_, thr_writePriv x s⟩
  · exact (exec_stamp s).trans (issue_next hr (by rw [bind_of hx]; rfl))
  · exact (exec_loc s).trans (issue_next hr (by rw [bind_of hx]; rfl))
  · refine ⟨fun r' hne => readSys_write_ne s x hne.symm, readSys_write_xwin s x, readSys_onSelf .., readSys_onSelf ..,
      readSys_write_layer s x, readSys_write_srmode s x, readSys_write_fpf s x, readSys_write_psize s x,
      readSys_write_trapv s x, readSys_write_epc s x, readSys_write_pmc s x, readSys_write_pmsel s x,
      fun hro => writeSys_readOnly hro x _⟩
  · intro g g' q
    refine ⟨fun hne => readQuad_writeQuad_ne (Ne.symm hne) q x, fun n hg => ?_, fun hg => ?_, fun hg => ?_, fun hg => ?_⟩
    · subst hg; exact readQuad_writeQuad_qpew n q x
    · subst hg; rfl
    · subst hg; rfl
    · subst hg; rfl

end Sys2Proof.Proofs

/-! Scalar, predicate and FIFO words (07 R123 to R125). -/

namespace Sys2Proof.Proofs
open Sys2Proof Sys2Proof.Machine Sys2Proof.Laws

/-! ## Scalars: a refusal that an uncorrectable error hides -/

/-- A core about to fetch a word of an unlisted opcode whose 16 bytes have an uncorrectable error. -/
def faultyFetch : State :=
  let s := State.reset.withFetchWord 128 (0x1C <<< 118)
  let d := s.die 0
  s.setDie 0 { d with images := d.images.map (fun x => { x with bad := [0] }) }

theorem faultyFetch_word : faultyFetch.codeWord faultyFetch.cur faultyFetch.me.pc = some ((0x1C : W128) <<< 118) := by
  decide +kernel

theorem faultyFetch_error : faultyFetch.codeErr faultyFetch.cur faultyFetch.me.pc = some 0 := by decide +kernel

theorem faultyFetch_opcode : decode ((0x1C : W128) <<< 118) = .error .opcode := by decide

/-- Its fetch stops the core with the error, and takes no trap. -/
theorem fetch_faultyFetch : fetch faultyFetch = .next (faultyFetch.meetsUce faultyFetch.cur faultyFetch.self.cur 2 0) := by
  unfold fetch
  rw [faultyFetch_word, faultyFetch_error]

/-- Refutes O9: a word with an uncorrectable error that decodes to nothing stops its core with that error (27 R372), and the clause of the
refused words, which does not shut such an error out, has it raise ILLOP. -/
theorem not_scalarsCompleteAsStated : ¬ Obligations.ScalarsCompleteAsStated := by
  intro H
  obtain ⟨_, _, _, hw⟩ := H ⟨0, false, 0, false, .normal, 0, false, 0, 0⟩ none .ls (.imm 0) .eq 0 0 0 0 0 faultyFetch
  obtain ⟨_, _, _, _, _, _, hrefused⟩ := hw (0x1C <<< 118)
  have htrap := hrefused .opcode faultyFetch_word faultyFetch_opcode (.inl rfl)
  rw [fetch_faultyFetch] at htrap
  have huce := congrArg (fun o : Out => match o with | .next t => (t.core 0).uce.isSome | _ => false) htrap
  revert huce
  decide +kernel

/-! ## Predicates and FIFOs -/

theorem pred2_next {i : Instr} {h : Head} {d a b : Fin 16} {f : Bool → Bool → Bool} {s : State} (hr : ready i h s = true) :
    pred2 i h d a b f s = .next ((scheduled h s).emit .seq (.p d)
      (.pred (f ((scheduled h s).me.readP a) ((scheduled h s).me.readP b)) false) 1) :=
  issue_next hr rfl

/-- Settles O10: each body is one read of the state and one change. -/
theorem predicatesAndFifosCompleteAsStated : Obligations.PredicatesAndFifosCompleteAsStated := by
  intro h d p a b v n s
  dsimp only
  refine ⟨fun hr => (exec_pand s).trans (pred2_next hr), fun hr => (exec_por s).trans (pred2_next hr),
    fun hr => (exec_pxor s).trans (pred2_next hr), fun hr => (exec_pnot s).trans (pred2_next hr),
    fun hr => (exec_pmov s).trans (issue_next hr rfl), fun hr => (exec_pmov s).trans (issue_next hr rfl),
    fun hr => (exec_fcnt s).trans (issue_next hr rfl), fun hr => (exec_fdrop s).trans (issue_next hr ?_),
    fun hr => (exec_fclr s).trans (issue_next hr ?_)⟩
  · cases n <;> rfl
  · cases n <;> rfl

end Sys2Proof.Proofs

/-! Vector words at issue (08 R128 to R147): each queues its entry once its tags and scalars pass. -/

namespace Sys2Proof.Proofs
open Sys2Proof Sys2Proof.Machine Sys2Proof.Laws

/-! ## Checks that pass -/

theorem tagCheck_one {ok : Fmt → Bool} {oks : List (Fmt → Bool)} {x : VArg} {slot : Nat} (h : Fits ok x) :
    tagCheck slot (ok :: oks) [x] = pure () :=
  tagCheck_of fun p hp => by
    rw [List.zip_cons_cons, List.zip_nil_right, List.mem_singleton] at hp
    rw [hp]
    exact fits_of h

theorem tagCheck_two {ok1 ok2 : Fmt → Bool} {x y : VArg} {slot : Nat} (h1 : Fits ok1 x) (h2 : Fits ok2 y) :
    tagCheck slot [ok1, ok2] [x, y] = pure () :=
  tagCheck_of fun p hp => by
    simp only [List.zip_cons_cons, List.zip_nil_right, List.mem_cons, List.not_mem_nil, or_false] at hp
    rcases hp with rfl | rfl
    · exact fits_of h1
    · exact fits_of h2

theorem tagCheck_three {ok1 ok2 ok3 : Fmt → Bool} {x y z : VArg} {slot : Nat} (h1 : Fits ok1 x) (h2 : Fits ok2 y)
    (h3 : Fits ok3 z) : tagCheck slot [ok1, ok2, ok3] [x, y, z] = pure () :=
  tagCheck_of fun p hp => by
    simp only [List.zip_cons_cons, List.zip_nil_right, List.mem_cons, List.not_mem_nil, or_false] at hp
    rcases hp with rfl | rfl | rfl
    · exact fits_of h1
    · exact fits_of h2
    · exact fits_of h3

/-- One register with an accepted tag carries the tag of the first. -/
theorem sameTags_of_fits {ok : Fmt → Bool} {x : VArg} (h : Fits ok x) : SameTags ok [x] := by
  intro y hy
  rw [List.mem_singleton] at hy
  subst hy
  exact ⟨rfl, h y rfl⟩

/-- SAT with an integer tag passes. -/
theorem satCheck_of {sat : Bool} {xs : List VArg} (h : SameTags isArith xs)
    (hs : sat = true → isInt (argAt xs 0).tag = true) : satCheck sat xs = pure () := by
  rw [satCheck, sameTags_of h]
  cases sat with
  | false => rfl
  | true => rw [hs rfl]; rfl

/-- A draw's parameter word within its limits passes (08 R145). -/
theorem drawCheck_of {slot n : Nat} {ys : List W64}
    (h : 1 ≤ fld (ys.getD n 0) 15 0 ∧ fld (ys.getD n 0) 15 0 ≤ 8192 ∧ fld (ys.getD n 0) 63 56 = 0) :
    drawCheck slot n ys = pure () := by
  rw [drawCheck, spOk, decide_eq_true h]
  rfl

/-- What a register slot reads is a register. -/
theorem src_of_readVIs {slot : Nat} {b : VSrc} {vs : List VOp} {x : VArg} {xs : List VArg} {s t : State}
    (h : Reads (readVIs slot (.src b :: vs)) s (x :: xs) t) : ∃ y, x = .src y := by
  obtain ⟨a, u, ha, h⟩ := bind_ok h
  obtain ⟨l, w, hl, h⟩ := bind_ok h
  cases h
  obtain ⟨y, v, _, ha⟩ := bind_ok ha
  cases ha
  exact ⟨y, rfl⟩

/-! ## Lane words -/

/-- Settles O11. -/
theorem laneWordsCompleteAsStated : Obligations.LaneWordsCompleteAsStated := by
  intro h d dm m k b c e rm vc s t xs at1 queued
  refine ⟨fun hx ht => ⟨fun hr => (exec_vfma s).trans (vtagged_next hr hx ht), fun hr => (exec_vfms s).trans (vtagged_next hr hx ht),
      fun hr => (exec_vnfma s).trans (vtagged_next hr hx ht), fun hr => (exec_vclamp s).trans (vtagged_next hr hx ht)⟩,
    fun hx ht => ⟨fun sat hs => ⟨fun hr => (exec_vadd s).trans (vword_next0 hr hx (satCheck_of ht hs)),
        fun hr => (exec_vsub s).trans (vword_next0 hr hx (satCheck_of ht hs)),
        fun hr => (exec_vmul s).trans (vword_next0 hr hx (satCheck_of ht hs))⟩,
      fun hr => (exec_vmin s).trans (vtagged_next hr hx ht), fun hr => (exec_vmax s).trans (vtagged_next hr hx ht),
      fun hr => (exec_vcmp s).trans (vtagged_next hr hx ht)⟩,
    fun hx ht => ⟨fun hr => (exec_vshl s).trans (vtagged_next hr hx ht), fun hr => (exec_vshr s).trans (vtagged_next hr hx ht),
      fun hr => (exec_vsar s).trans (vtagged_next hr hx ht), fun hr => (exec_vmulh s).trans (vtagged_next hr hx ht)⟩,
    fun hx => ⟨fun hr => (exec_vand s).trans (vraw_next hr hx), fun hr => (exec_vor s).trans (vraw_next hr hx),
      fun hr => (exec_vxor s).trans (vraw_next hr hx)⟩,
    fun hx ht => ⟨fun hr => (exec_vabs s).trans (vtagged_next hr hx ht), fun hr => (exec_vneg s).trans (vtagged_next hr hx ht)⟩,
    fun hx ht => ⟨fun hr => (exec_vclz s).trans (vtagged_next hr hx ht), fun hr => (exec_vpopc s).trans (vtagged_next hr hx ht)⟩,
    fun hx hr => (exec_vnot s).trans (vraw_next hr hx), fun hx ht hr => (exec_vsel s).trans (vword_next0 hr hx ?_)⟩
  cases h1 : argAt xs 1 with
  | imm v => rfl
  | src y => simp only [ht y h1]; rfl

/-! ## Conversions and dot products -/

/-- A's tag has a partner once it makes a pair. -/
theorem any_dotPair {k : Nat} {u v : Fmt} (h : dotPair k u v = true) : Fmt.all.any (fun w => dotPair k u w) = true :=
  List.any_eq_true.mpr ⟨v, by cases v <;> decide, h⟩

/-- The pairs of VDOT4 whose first tag is given. -/
theorem dotPair_four_self {f : Fmt} (h : (f == .e4m3 || f == .e5m2 || f == .int8 || f == .uint8) = true) :
    dotPair 4 f f = true := by
  revert h
  cases f <;> decide

theorem dotPair_two_self {f : Fmt} (h : (f == .bf16 || f == .fp16 || f == .int16) = true) : dotPair 2 f f = true := by
  revert h
  cases f <;> decide

theorem dotPair_eight_self {f : Fmt} (h : (f == .e2m1s || f == .int4) = true) : dotPair 8 f f = true := by
  revert h
  cases f <;> decide

/-- A weaker test accepts what a stronger one does. -/
theorem fits_imp {p q : Fmt → Bool} {x : VArg} (h : Fits p x) (hpq : ∀ f, p f = true → q f = true) : Fits q x :=
  fun y hy => ⟨hpq _ (h y hy).1, (h y hy).2⟩

/-- A dot form's checks pass where A's tag pairs with itself and with B's. -/
theorem dotCheck_of {k : Nat} {x y z : VArg} (hself : dotPair k x.tag x.tag = true) (hx : Fits (fun f => decide (f = x.tag)) x)
    (hy : Fits (dotPair k x.tag) y) (hz : Fits (fun f => decide (f = if isInt x.tag then .int32 else .fp32)) z) :
    dotCheck k [x, y, z] = pure () :=
  tagCheck_three (fits_imp hx fun _ hf => of_decide_eq_true hf ▸ any_dotPair hself) hy hz

/-- A register carries its own tag. -/
theorem fits_own_tag {p : Fmt → Bool} {x : VArg} (h : Fits p x) : Fits (fun f => decide (f = x.tag)) x := by
  rintro y rfl
  exact ⟨decide_eq_true rfl, (h y rfl).2⟩

/-- A register of a dot form that fits has an accepted tag. -/
theorem tag_of_fits {p : Fmt → Bool} {x : VArg} {y : Src} (hx : x = .src y) (h : Fits p x) : p x.tag = true := by
  subst hx
  exact (h y rfl).1

/-- Settles O12. -/
theorem conversionsCompleteAsStated : Obligations.ConversionsCompleteAsStated := by
  intro h d m a b c rm ft q sg sp s t u x0 x1 x2 ys at1 drawOk
  refine ⟨fun hx => ⟨fun hf => ⟨fun hr => (exec_vcvt s).trans (vword_next0 hr hx ?_),
        fun hy hd hr => (exec_vcvt s).trans (vword_next hr hx hy ?_)⟩,
      fun hr => (exec_vtag s).trans (vraw_next hr hx), fun hf hr => (exec_vround s).trans (vtagged_next hr hx (sameTags_of_fits hf)),
      fun hf => ⟨fun hr => (exec_vunpkl s).trans (vtagged_next hr hx (sameTags_of_fits hf)),
        fun hr => (exec_vunpkh s).trans (vtagged_next hr hx (sameTags_of_fits hf))⟩,
      fun hf hr => (exec_vblks s).trans (vword_next0 hr hx (tagCheck_one hf)),
      fun hf hr => (exec_vblkg s).trans (vword_next0 hr hx (tagCheck_one hf))⟩,
    fun hx => ⟨fun ht hr => (exec_vpack s).trans (vtagged_next hr hx ht),
      fun h0 h1 hr => (exec_vblks s).trans (vword_next0 hr hx (tagCheck_two h0 h1))⟩,
    fun hx h0 h1 hy hd hr => (exec_vacc12 s).trans (vword_next hr hx hy ?_), fun hx hz => ⟨?_, ?_, ?_⟩⟩
  · rw [tagCheck_one hf]; rfl
  · rw [tagCheck_one hf]; exact drawCheck_of hd
  · have htags := tagCheck_two (slot := 1) h0 (fits_imp h1 fun f hf => (congrArg (_ || ·) (Bool.and_comm _ _)).trans hf)
    exact (congrArg (fun m : M Unit => m >>= fun _ => drawCheck 4 1 ys) htags).trans (drawCheck_of hd)
  · intro h0 h1 hr
    obtain ⟨y, hy⟩ := src_of_readVIs hx
    have hself := dotPair_two_self (tag_of_fits hy h0)
    exact (exec_vdot2 s).trans (vword_next0 hr hx
      (dotCheck_of hself (fits_own_tag h0) (fits_imp h1 fun _ hf => of_decide_eq_true hf ▸ hself) hz))
  · intro h1 h0 hr
    obtain ⟨y, hy⟩ := src_of_readVIs hx
    exact (exec_vdot4 s).trans (vword_next0 hr hx
      (dotCheck_of (dotPair_four_self (tag_of_fits hy h0)) (fits_own_tag h0) h1 hz))
  · intro h0 h1 hr
    obtain ⟨y, hy⟩ := src_of_readVIs hx
    have hself := dotPair_eight_self (tag_of_fits hy h0)
    exact (exec_vdot8 s).trans (vword_next0 hr hx
      (dotCheck_of hself (fits_own_tag h0) (fits_imp h1 fun _ hf => of_decide_eq_true hf ▸ hself) hz))

/-! ## Moves, reductions, element access, draws and masks -/

/-- One vector operand of a word. -/
theorem readVIs_one {slot : Nat} {b : VOp} {x : VArg} {s t : State} (h : Reads (readVI slot b) s x t) :
    Reads (readVIs slot [b]) s [x] t := reads_bind h rfl

theorem readVIs_two {slot : Nat} {b a : VOp} {x y : VArg} {s t u : State} (h : Reads (readVI slot b) s x t)
    (h' : Reads (readVI (slot + 1) a) t y u) : Reads (readVIs slot [b, a]) s [x, y] u :=
  reads_bind h (reads_bind (readVIs_one h') rfl)

theorem readSIs_one {slot : Nat} {a : SOp} {v : W64} {s t : State} (h : Reads (readSI slot a) s v t) :
    Reads (readSIs [(slot, a)]) s [v] t := reads_bind h rfl

theorem redCheck_of {k : RedKind} {x : VArg} (h : k = .and ∨ k = .or ∨ k = .xor ∨ Fits isArith x) :
    redCheck k [x] = pure () := by
  cases k with
  | and | or | xor => rfl
  | add | max | min =>
    rcases h with h | h | h | h
    · cases h
    · cases h
    · cases h
    · exact tagCheck_one h

/-- Settles O13. -/
theorem movesCompleteAsStated : Obligations.MovesCompleteAsStated := by
  intro h d sd dm m1 m2 m b a k k2 g p rm rk ft dk sx kt s t u x y v w put drawOk
  refine ⟨fun hx => ?_, fun hy hr => (exec_viota s).trans (vword_next hr rfl hy rfl),
    fun hy hr => (exec_vsplat s).trans (vword_next hr rfl (readSIs_one hy) rfl),
    fun hy hd hr => (exec_vrng s).trans (vword_next hr rfl hy (drawCheck_of hd)),
    fun hr => (exec_mand s).trans (vraw_next hr rfl), fun hr => (exec_mor s).trans (vraw_next hr rfl),
    fun hr => (exec_mxor s).trans (vraw_next hr rfl), fun hr => (exec_mnot s).trans (vraw_next hr rfl),
    fun hr => (exec_mcnt s).trans (vraw_next hr rfl), fun hr => (exec_mfirst s).trans (vraw_next hr rfl)⟩
  have hx1 := readVIs_one hx
  refine ⟨fun hk => ⟨fun hr => (exec_vredr s).trans (vword_next0 hr hx1 (redCheck_of hk)),
      fun hr => (exec_vredc s).trans (vword_next0 hr hx1 (redCheck_of hk)),
      fun hr => (exec_vscanr s).trans (vword_next0 hr hx1 (redCheck_of hk)),
      fun hr => (exec_vscanc s).trans (vword_next0 hr hx1 (redCheck_of hk))⟩,
    fun hr => (exec_vtrb s).trans (vraw_next hr hx1), fun hr => (exec_vmov s).trans (vraw_next hr hx1),
    fun hy hr => (exec_vshfr s).trans (vraw_next hr (readVIs_two hx hy)),
    fun hv => ?_, fun hv hlt hr => (exec_vins s).trans (vword_next hr hx1 hv ?_),
    fun hv hf hd hr => (exec_vdrop s).trans (vword_next hr hx1 hv ?_)⟩
  · have hv1 := readSIs_one hv
    exact ⟨fun hr => (exec_vrotr s).trans (vword_next hr hx1 hv1 rfl), fun hr => (exec_vrotc s).trans (vword_next hr hx1 hv1 rfl),
      fun hlt hr => (exec_vbcr s).trans (vword_next hr hx1 hv1 (need_of (decide_eq_true hlt) ..)),
      fun hlt hr => (exec_vbcc s).trans (vword_next hr hx1 hv1 (need_of (decide_eq_true hlt) ..)),
      fun hlt hr => (exec_vext s).trans (vword_next hr hx1 hv1 (need_of (decide_eq_true hlt) ..))⟩
  · exact need_of (decide_eq_true hlt) ..
  · rw [tagCheck_one hf]
    exact drawCheck_of hd

end Sys2Proof.Proofs

/-! Words of the memory, copy, array and special-function engines at issue (09 R152 to R187, 10 R189 to R214): each queues its
entry once its operands are read and its checks pass. -/

namespace Sys2Proof.Proofs
open Sys2Proof Sys2Proof.Machine Sys2Proof.Laws

/-! ## Checks that pass -/

section
variable {slot : Nat} {s : State}

theorem reads_aligned {v : W64} {n : Nat} (h : v.toNat % n = 0) : Reads (aligned slot v n) s () s :=
  reads_need (decide_eq_true h)

theorem reads_refOk {v : W64} (h : v.toNat < 4096) : Reads (refOk slot v) s () s := reads_need (decide_eq_true h)

theorem reads_decide {p : Prop} [Decidable p] {code : Code} {tval : W64} (h : p) :
    Reads (need (decide p) code slot tval) s () s := reads_need (decide_eq_true h)

theorem reads_storeTag {t : List (Nat × Fmt)} {e : VEntry} (h : e.tag ≠ .none) : Reads (storeTag t e) s () s :=
  reads_need (decide_eq_true h)

theorem reads_indexOk {y : Src} {tval : W64} (h : y.e.tag = .int32) (hp : y.partOk = true) :
    Reads (need (indexOk y) .tagx slot tval) s () s :=
  reads_need (by rw [indexOk, decide_eq_true h, hp]; rfl)

theorem reads_captured {i : Instr} {ref : W64} {rep : Nat × Int} {vals : List W64} {vops : List VEntry} :
    Reads (captured i ref rep vals vops) s (entry i ref.toNat rep.1 rep.2 vals vops s) s := rfl
end

/-- Settles O14. -/
theorem loadsCompleteAsStated : Obligations.LoadsCompleteAsStated := by
  intro h d sd md tid off sc vi rep sz sx tr dbl scope s t u w x y z r hx hlt hroom
  have hok : ∀ {s : State}, Reads (refOk 1 x) s () s := reads_refOk hlt
  refine ⟨fun hy => ⟨fun ha hrep hr => (exec_ldv s).trans (memWord_next hr hroom ?_),
      fun ha hrep hr => (exec_ldm s).trans (memWord_next hr hroom ?_),
      fun ha hrep hr => (exec_ldsc s).trans (memWord_next hr hroom ?_),
      fun ha hr => (exec_lda s).trans (memWord_next hr hroom ?_)⟩,
    fun hy hr => (exec_ldvt s).trans (memWord_next hr hroom ?_),
    fun hroom1 hz hy ht hp hr => (exec_ldvg s).trans (memWord_next hr hroom1 ?_)⟩
  · exact reads_bind hx (reads_bind hy (reads_bind hrep (reads_bind (reads_aligned ha) (reads_bind hok reads_captured))))
  · exact reads_bind hx (reads_bind hy (reads_bind hrep (reads_bind (reads_aligned ha) (reads_bind hok reads_captured))))
  · exact reads_bind hx (reads_bind hy (reads_bind hrep (reads_bind (reads_aligned ha) (reads_bind hok reads_captured))))
  · exact reads_bind hx (reads_bind hy (reads_bind (reads_aligned ha) (reads_bind hok (reads_bind rfl reads_captured))))
  · exact reads_bind hx (reads_bind hy (reads_bind hok reads_captured))
  · exact reads_bind hx (reads_bind hz (reads_bind hy (reads_bind (reads_indexOk ht hp) (reads_bind hok reads_captured))))

/-- Settles O15. -/
theorem storesCompleteAsStated : Obligations.StoresCompleteAsStated := by
  intro h v vi a md tid off rep sz dbl scope s t u w z e y x o g r hlt
  have hok : ∀ {s : State}, Reads (refOk 2 x) s () s := reads_refOk hlt
  refine ⟨fun hv hn hx => ⟨fun hroom ho ha hrep hr => (exec_stv s).trans (memWord_next hr hroom ?_),
      fun hroom hy ho ht hp hr => (exec_stvs s).trans (memWord_next hr hroom ?_)⟩,
    fun hroom hg hx ho => ⟨fun ha hr => (exec_stsc s).trans (memWord_next hr hroom ?_),
      fun ha hr => (exec_stl s).trans (memWord_next hr hroom ?_)⟩,
    fun hroom hx ho ha hrep hr => (exec_stm s).trans (memWord_next hr hroom ?_)⟩
  · exact reads_bind hv (reads_bind hx (reads_bind ho (reads_bind hrep (reads_bind (reads_storeTag hn)
      (reads_bind (reads_aligned ha) (reads_bind hok reads_captured))))))
  · exact reads_bind hv (reads_bind hx (reads_bind hy (reads_bind ho (reads_bind (reads_storeTag hn)
      (reads_bind (reads_indexOk ht hp) (reads_bind hok reads_captured))))))
  · exact reads_bind hg (reads_bind hx (reads_bind ho (reads_bind (reads_aligned ha) (reads_bind hok reads_captured))))
  · exact reads_bind hg (reads_bind hx (reads_bind ho (reads_bind (reads_aligned ha) (reads_bind hok reads_captured))))
  · exact reads_bind hx (reads_bind ho (reads_bind hrep (reads_bind (reads_aligned ha) (reads_bind hok reads_captured))))

/-- What an atomic's order leaves before its entry joins the queue. -/
def orderHeld (ord : AmoOrd) (w : State) : State :=
  match ord with
  | .acq | .ar => w.acquired
  | .rlx | .rel => w

theorem reads_order {ord : AmoOrd} {f : Unit → M α} {s t : State} {y : α} (hf : Reads (f ()) (orderHeld ord s) y t) :
    Reads (if ordAcquires ord then acquire >>= f else pure () >>= f) s y t := by
  cases ord <;> exact hf

/-- Settles O16. -/
theorem atomicsCompleteAsStated : Obligations.AtomicsCompleteAsStated := by
  intro h d a g b n c op dbl ord sc v tid bo k uk wd s t u w x y z o e held
  refine ⟨fun hroom hx hy ha => ⟨fun hz => ⟨fun hr => (exec_amo s).trans (memWord_next hr hroom ?_),
        fun hr => (exec_amor s).trans (memWord_next hr hroom ?_)⟩,
      fun hz h0 hr => (exec_famo s).trans (memWord_next hr hroom ?_)⟩,
    fun hroom hv hx hlt => ⟨fun ho ht ha hr => (exec_red s).trans (memWord_next hr hroom ?_),
      fun ho ht h1 h2 hr => (exec_updr s).trans (memWord_next hr hroom ?_)⟩,
    fun hroom ho hlt => ⟨fun hx h1 h2 hr => (exec_boarm s).trans (memWord_next hr hroom ?_),
      fun hr => (exec_boclr s).trans (memWord_next hr hroom ?_), fun hr => (exec_bord s).trans (memWord_next hr hroom ?_)⟩⟩
  · exact reads_bind hx (reads_bind hy (reads_bind hz (reads_bind (reads_aligned ha) (reads_order reads_captured))))
  · exact reads_bind hx (reads_bind hy (reads_bind hz (reads_bind (reads_aligned ha) reads_captured)))
  · exact reads_bind hx (reads_bind hy (reads_bind hz (reads_bind (reads_aligned ha) (reads_bind (reads_decide h0)
      (reads_order reads_captured)))))
  · exact reads_bind hv (reads_bind hx (reads_bind ho (reads_bind (reads_decide ht) (reads_bind (reads_aligned ha)
      (reads_bind (reads_refOk hlt) reads_captured)))))
  · exact reads_bind hv (reads_bind hx (reads_bind ho (reads_bind (reads_decide ht) (reads_bind (reads_decide h1)
      (reads_bind (reads_refOk hlt) (reads_bind (reads_decide h2) reads_captured))))))
  · exact reads_bind ho (reads_bind hx (reads_bind (reads_refOk hlt) (reads_bind (reads_decide ⟨h1, h2⟩) reads_captured)))
  · exact reads_bind ho (reads_bind (reads_refOk hlt) reads_captured)
  · refine reads_bind ho (reads_bind (reads_refOk hlt) ?_)
    by_cases hw : wd = 0
    · rw [if_pos hw, if_pos hw]
      exact reads_captured
    · rw [if_neg hw, if_neg hw]
      exact reads_captured

/-! ## Copies and fabric words -/

/-- A location word that the form allows passes its own check and the form's. -/
theorem reads_lwOk {kinds : List Nat} {slot : Nat} {w : W64} {s : State} (h : lwGood kinds w = true) :
    Reads (lwOk slot w) s () s := reads_need (Bool.and_eq_true .. ▸ h).1

theorem reads_lwIs {kinds : List Nat} {slot : Nat} {w : W64} {s : State} (h : lwGood kinds w = true) :
    Reads (lwIs slot w kinds) s () s := reads_need (Bool.and_eq_true .. ▸ h).2

section
variable {i : Instr} {h : Head} {bo : Ref} {dst src : Lw} {m : SSrc} {dk sk : List Nat} {s t u w z : State} {o x y g : W64}
  (hr : ready i h s = true) (ho : Reads (readRef 1 bo) (scheduled h s) o t) (hlt : o.toNat < 4096)
  (hx : Reads (readLw 2 dst) t x u) (hy : Reads (readLw 3 src) u y w)
include hr ho hlt hx hy

theorem pairWord_next (hdx : lwGood dk x = true) (hsy : lwGood sk y = true) :
    pairWord i h bo dst src dk sk s = .next (w.toCopy i (entry i o.toNat 0 0 [x, y] [] w)) :=
  copyWord_next hr (reads_bind ho (reads_bind hx (reads_bind hy (reads_bind (reads_refOk hlt) (reads_bind (reads_lwOk hdx)
    (reads_bind (reads_lwIs hdx) (reads_bind (reads_lwOk hsy) (reads_bind (reads_lwIs hsy) reads_captured))))))))

theorem maskWord_next (hg : Reads (readS 4 m) w g z) (hdx : lwGood dk x = true) (hsy : lwGood sk y = true) :
    maskWord i h bo dst src m dk s = .next (z.toCopy i (entry i o.toNat 0 0 [x, y, g] [] z)) :=
  copyWord_next hr (reads_bind ho (reads_bind hx (reads_bind hy (reads_bind hg (reads_bind (reads_refOk hlt)
    (reads_bind (reads_lwOk hdx) (reads_bind (reads_lwIs hdx) (reads_bind (reads_lwOk hsy) reads_captured))))))))
end

/-- Settles O17. -/
theorem copiesCompleteAsStated : Obligations.CopiesCompleteAsStated := by
  intro h bo dst src rep m ch a b k s t u w z o x y g r ho hlt all
  have hok : ∀ {s : State}, Reads (refOk 1 o) s () s := reads_refOk hlt
  refine ⟨fun hx hy => ⟨fun hdx hsy => ⟨fun hrep hr => (exec_cpy s).trans (copyWord_next hr ?_),
        fun hg ha hr => (exec_cpyd s).trans (copyWord_next hr ?_),
        fun hr => (exec_cpyr s).trans (pairWord_next hr ho hlt hx hy hdx hsy)⟩,
      fun hdx hsy hr => (exec_mlr s).trans (pairWord_next hr ho hlt hx hy hdx hsy),
      fun hg hsy => ⟨fun hdx hr => (exec_cpym s).trans (maskWord_next hr ho hlt hx hy hg hdx hsy),
        fun hdx hr => (exec_mst s).trans (maskWord_next hr ho hlt hx hy hg hdx hsy)⟩⟩,
    fun hx hy h0 hr => (exec_rls s).trans (copyWord_next hr ?_), fun hx hy h0 hr => (exec_acqw s).trans (copyWord_next hr ?_),
    fun hx hy h0 ha hr => (exec_agset s).trans (copyWord_next hr ?_)⟩
  · exact reads_bind ho (reads_bind hx (reads_bind hy (reads_bind hrep (reads_bind hok (reads_bind (reads_lwOk hdx)
      (reads_bind (reads_lwOk hsy) reads_captured))))))
  · exact reads_bind ho (reads_bind hx (reads_bind hy (reads_bind hg (reads_bind (reads_aligned ha) (reads_bind hok
      (reads_bind (reads_lwOk hdx) (reads_bind (reads_lwOk hsy) reads_captured)))))))
  · exact reads_bind ho (reads_bind hx (reads_bind hy (reads_bind hok (reads_bind (reads_decide h0) reads_captured))))
  · exact reads_bind ho (reads_bind hx (reads_bind hy (reads_bind hok (reads_bind (reads_decide h0) reads_captured))))
  · exact reads_bind ho (reads_bind hx (reads_bind hy (reads_bind (reads_aligned ha) (reads_bind hok
      (reads_bind (reads_decide h0) reads_captured)))))

/-! ## Array words -/

/-- Settles O18. -/
theorem arrayWordsCompleteAsStated : Obligations.ArrayWordsCompleteAsStated := by
  intro h t cb x y rep s z v a b c r bare runs ok
  exact ⟨fun ha => ⟨fun hr => (exec_xfwd s).trans (arrayForm_next hr ha), fun hr => (exec_xbwd s).trans (arrayForm_next hr ha)⟩,
    fun ha hr => (exec_xdist s).trans (arrayForm_next hr ha), fun ha hr => (exec_xtopk s).trans (arrayForm_next hr ha),
    fun ha hr => (exec_xfwdb s).trans (arrayForm_next hr ha), fun ha hr => (exec_xupd s).trans (arrayForm_next hr ha),
    fun ha hr => (exec_xxfr s).trans (arrayForm_next hr ha), fun ha hr => (exec_xsym s).trans (arrayForm_next hr ha),
    fun ha hr => (exec_xckr s).trans (arrayForm_next hr ha), fun ha hr => (exec_xprg s).trans (arrayForm_next hr ha),
    fun ha => ⟨fun hr => (exec_xscrb s).trans (arrayForm_next hr ha), fun hr => (exec_xcal s).trans (arrayForm_next hr ha),
      fun hr => (exec_xnorm s).trans (arrayForm_next hr ha)⟩,
    fun ha hr => (exec_xgset s).trans (arrayForm_next hr ha), fun ha hr => (exec_xstat s).trans (arrayForm_next hr ha)⟩

/-- The tile mask and the object of a fence. -/
theorem reads_fenceArgs {t : TileRef} {bo : SOp} {all : Bool} {s u w : State} {v o : W64} (hv : Reads (readTile t) s v u)
    (ho : Reads (readSI 2 bo) u o w) (hlt : o.toNat < 4096) (hg : all = false → tileGood v w = true) :
    Reads (fenceArgs t bo all) s (fenceMask v all, o) w := by
  refine reads_bind hv (reads_bind ho ?_)
  cases all with
  | true => exact reads_bind (reads_refOk hlt) rfl
  | false => exact reads_bind (reads_tileOk (hg rfl)) (reads_bind (reads_refOk hlt) rfl)

/-- Settles O19. -/
theorem tileFencesCompleteAsStated : Obligations.TileFencesCompleteAsStated := by
  intro h t bo all s u w v o hv ho hlt hg m cleared
  have hargs := reads_fenceArgs hv ho hlt hg
  exact ⟨fun hroom hr => (exec_xfenceDrain s).trans (arrayWord_next hr hroom (reads_bind hargs reads_captured)),
    fun hroom hr => (exec_xfenceHold s).trans (arrayWord_next hr hroom (reads_bind hargs (reads_bind rfl reads_captured))),
    fun hroom hr => (exec_xfenceRel s).trans (arrayWord_next hr hroom (reads_bind hargs (reads_bind rfl reads_captured)))⟩

/-! ## Special functions -/

/-- Settles O20. -/
theorem specialFunctionsCompleteAsStated : Obligations.SpecialFunctionsCompleteAsStated := by
  intro h bo cb acc rep s t u w o a r h1 h2 h3 ho hb step queued
  have hq : ∀ {i : Instr}, ready i h s = true → sfWord i h bo cb rep s = queued i := fun hr => sfWord_next hr h1 h2 h3 ho hb
  exact ⟨fun hr => (exec_fexp s).trans (hq hr), fun hr => (exec_fexp2 s).trans (hq hr), fun hr => (exec_flog s).trans (hq hr),
    fun hr => (exec_flog2 s).trans (hq hr), fun hr => (exec_frcp s).trans (hq hr), fun hr => (exec_frsq s).trans (hq hr),
    fun hr => (exec_fsqrt s).trans (hq hr), fun hr => (exec_ftanh s).trans (hq hr), fun hr => (exec_fsig s).trans (hq hr),
    fun hr => (exec_fgelu s).trans (hq hr), fun hr => (exec_fsilu s).trans (hq hr), fun hr => (exec_fsin s).trans (hq hr),
    fun hr => (exec_fcos s).trans (hq hr), fun hr => (exec_ferf s).trans (hq hr), fun hr => (exec_fsmax s).trans (hq hr)⟩

end Sys2Proof.Proofs

/-! Steps: the word at the pc, due events, refused fetches, reset and escalation (02 R20 to R22, 06 R79, 07 R106, 20 R308). -/

namespace Sys2Proof.Proofs
open Sys2Proof Sys2Proof.Machine Sys2Proof.Laws

/-! ## Worked words -/

/-- Settles O38: each word is decoded. -/
theorem workedWordsDecode : Obligations.WorkedWordsDecode := by
  unfold Obligations.WorkedWordsDecode
  decide

/-! ## A cycle that fetches -/

theorem prepare_self (s : State) : (prepare_ s).self = { s.self with issued := 0, switched := 0 } :=
  State.core_updCore s s.cur (fun k => { k with issued := 0, switched := 0 })

theorem prepare_me (s : State) : (prepare_ s).me = s.me := by
  unfold State.me
  rw [prepare_self]
  rfl

theorem prepare_launch (s : State) : ((prepare_ s).core s.cur).launch = (s.core s.cur).launch :=
  (congrArg Core.launch (prepare_self s) :)

theorem imageOf_prepare (s : State) : (prepare_ s).imageOf s.cur = s.imageOf s.cur := by
  unfold State.imageOf State.gangOf
  rw [prepare_launch]
  rfl

theorem codeWord_prepare (s : State) (pc : W64) : (prepare_ s).codeWord s.cur pc = s.codeWord s.cur pc := by
  unfold State.codeWord
  rw [imageOf_prepare]

theorem codeErr_prepare (s : State) (pc : W64) : (prepare_ s).codeErr s.cur pc = s.codeErr s.cur pc := by
  unfold State.codeErr
  rw [imageOf_prepare]

theorem holdsOff_prepare (s : State) (o : Nat) : (prepare_ s).holdsOff o = s.holdsOff o := by
  unfold State.holdsOff
  rw [prepare_me, prepare_self]
  rfl

/-- A core that fetches runs the word at its running berth's pc. -/
theorem step_of_issuing {s : State} (h : issuing s = true) : step s = fetch (prepare_ s) := by
  simp only [issuing, Bool.and_eq_true, Bool.not_eq_true', List.isEmpty_iff, decide_eq_true_eq] at h
  obtain ⟨⟨⟨⟨⟨⟨⟨hpow, htodo⟩, hstage⟩, hclk⟩, hmute⟩, hrun⟩, hhalf⟩, htrap⟩ := h
  simp [step, hpow, htodo, hstage, issueCycle, hclk, hmute, hrun, hhalf, htrap]

theorem fetch_outside {s : State} (h : s.codeWord s.cur s.me.pc = none) : fetch s = .next (badFetch s) := by
  unfold fetch
  rw [h]

theorem fetch_faulty {s : State} {w : W128} {a : W64} (h : s.codeWord s.cur s.me.pc = some w)
    (he : s.codeErr s.cur s.me.pc = some a) : fetch s = .next (s.meetsUce s.cur s.self.cur 2 a) := by
  unfold fetch
  rw [h, he]

theorem fetch_decoded {s : State} {w : W128} {i : Instr} (h : s.codeWord s.cur s.me.pc = some w)
    (he : s.codeErr s.cur s.me.pc = none) (hd : decode w = .ok i) : fetch s = exec i s := by
  unfold fetch
  simp only [h, he, hd]

theorem fetch_refused {s : State} {w : W128} {r : Reject} (h : s.codeWord s.cur s.me.pc = some w)
    (he : s.codeErr s.cur s.me.pc = none) (hd : decode w = .error r) :
    fetch s = .next (if r ≠ .opcode ∧ s.holdsOff (fld w 127 118) then s else badCode r w s) := by
  unfold fetch
  simp only [h, he, hd]

/-- Settles O42. -/
theorem stepRunsTheDecodedWord : Obligations.StepRunsTheDecodedWord := by
  intro s w i x hi hx hin herr hw hd
  have hcode : s.codeWord s.cur s.me.pc = some w := by
    unfold State.codeWord
    rw [hx, hw]
    exact if_pos hin
  rw [step_of_issuing hi]
  refine fetch_decoded (s := prepare_ s) (w := w) ?_ ?_ hd
  · rw [prepare_me]
    exact (codeWord_prepare s _).trans hcode
  · rw [prepare_me]
    exact (codeErr_prepare s _).trans herr

/-! ## Refused fetches -/

theorem badFetch_free {s : State} (h : s.me.entering = none) : badFetch s = s.trapHere .illop 7 s.me.setter s.me.pc := by
  unfold badFetch
  change (match s.me.entering with | none => _ | some word => _) = _
  rw [h]
  rfl

theorem badFetch_entering {s : State} {word : W64} (h : s.me.entering = some word) :
    badFetch s = escalate s.cur s.self.cur word (s.onMe (fun y => { y with entering := none })) := by
  unfold badFetch
  change (match s.me.entering with | none => _ | some word => _) = _
  rw [h]
  rfl

theorem badCode_eq (r : Reject) (w : W128) (s : State) :
    badCode r w s = s.trapHere .illop (rejectOn s.self w r).slotNo ((rejectOn s.self w r).tval w) s.me.pc := rfl

theorem rejectOn_prepare (s : State) (w : W128) (r : Reject) : rejectOn (prepare_ s).self w r = rejectOn s.self w r := by
  rw [prepare_self]
  rfl

theorem rejectOn_opcode (k : Core) (w : W128) : rejectOn k w .opcode = .opcode := by
  unfold rejectOn
  split
  · exact if_neg (fun h => h.1 rfl)
  · rfl

theorem rejectOn_lent {k : Core} (h : k.lend ≠ 0) (w : W128) (r : Reject) : rejectOn k w r = r := by
  unfold rejectOn
  split
  · exact if_neg (fun hc => h hc.2.2.2.1)
  · rfl

/-- Settles O44: the three ways in which a fetch fails. -/
theorem badFetchesTrap : Obligations.BadFetchesTrap := by
  intro s hi u b
  have hme : u.me = s.me := prepare_me s
  have hself : u.self = { s.self with issued := 0, switched := 0 } := prepare_self s
  have hstep : step s = fetch u := step_of_issuing hi
  have hcode : u.codeWord u.cur u.me.pc = s.codeWord s.cur s.me.pc := by rw [hme]; exact codeWord_prepare s _
  have herr : u.codeErr u.cur u.me.pc = s.codeErr s.cur s.me.pc := by rw [hme]; exact codeErr_prepare s _
  have hcur : u.self.cur = b := by rw [hself]
  refine ⟨fun hnone => ⟨fun he => ?_, fun word he => ?_⟩, fun w a hw ha => ?_, fun w r hw ha hd => ?_⟩
  · rw [hstep, fetch_outside (hcode.trans hnone), badFetch_free ((congrArg Berth.entering hme).trans he), hme]
  · rw [hstep, fetch_outside (hcode.trans hnone), badFetch_entering ((congrArg Berth.entering hme).trans he), hcur]
    rfl
  · rw [hstep, fetch_faulty (hcode.trans hw) (herr.trans ha), hcur]
    rfl
  · have href := hstep.trans (fetch_refused (hcode.trans hw) (herr.trans ha) hd)
    have hheld : u.holdsOff (fld w 127 118) = s.holdsOff (fld w 127 118) := holdsOff_prepare s _
    rw [hheld, badCode_eq, rejectOn_prepare, hme] at href
    refine ⟨fun hor => ?_, fun hne hh => ?_, fun ho => ?_, fun k v => ⟨fun hr hl => ?_, fun hr hl => ?_⟩⟩
    · rwa [if_neg (fun hc => hor.elim hc.1 (fun hf => by simp [hf] at hc))] at href
    · rwa [if_pos ⟨hne, hh⟩] at href
    · subst ho
      rwa [if_neg (fun hc => hc.1 rfl), rejectOn_opcode] at href
    · rw [rejectOn_lent hl, hr]
      exact ⟨rfl, rfl⟩
    · rw [rejectOn_lent hl, hr]
      exact ⟨rfl, rfl⟩

/-! ## Due events -/

theorem takeUce_none {c : CoreId} {s : State} (h : (s.core c).uce = none) : takeUce c s = s := by
  unfold takeUce
  rw [h]

/-- An event stands among what a machine without power looks at. -/
theorem mem_waiting {s : State} {e : Ev} :
    e ∈ s.todo ++ s.inputs.map (fun x => x.2) ↔ e ∈ s.todo ∨ ∃ t : W64, (t, e) ∈ s.inputs := by
  simp

theorem step_unpowered_done {s : State} (hp : s.powered = false) (ht : s.flash.trip = true) (hb : s.mbox.busy = true)
    (hw : Ev.mailboxDone ∈ s.todo ++ s.inputs.map (fun x => x.2)) : step s = exec .mailboxDone s := by
  have he : resetEvent s = some .mailboxDone := by
    unfold resetEvent
    exact if_pos ⟨ht, hb, List.contains_iff_mem.mpr hw⟩
  unfold step
  rw [hp, he]
  rfl

/-- Without the end of a mailbox command, the event taken is the module reset. -/
theorem resetEvent_of_not_done {s : State}
    (h : ¬(s.flash.trip = true ∧ s.mbox.busy = true ∧ Ev.mailboxDone ∈ s.todo ++ s.inputs.map (fun x => x.2))) :
    resetEvent s = (s.todo ++ s.inputs.map (fun x => x.2)).find? (fun e => decide (e = .moduleReset)) := by
  unfold resetEvent
  exact if_neg (fun hc => h ⟨hc.1, hc.2.1, List.contains_iff_mem.mp hc.2.2⟩)

theorem step_unpowered_reset {s : State} (hp : s.powered = false)
    (h : ¬(s.flash.trip = true ∧ s.mbox.busy = true ∧ Ev.mailboxDone ∈ s.todo ++ s.inputs.map (fun x => x.2)))
    (hw : Ev.moduleReset ∈ s.todo ++ s.inputs.map (fun x => x.2)) : step s = exec .moduleReset s := by
  have he : resetEvent s = some .moduleReset := by
    rw [resetEvent_of_not_done h]
    obtain ⟨e, hf⟩ := Option.isSome_iff_exists.mp
      (List.find?_isSome.mpr ⟨_, hw, decide_eq_true rfl⟩ : ((s.todo ++ s.inputs.map (fun x => x.2)).find?
        (fun e => decide (e = .moduleReset))).isSome = true)
    have hreset : e = .moduleReset := by simpa using List.find?_some hf
    rw [hf, hreset]
  unfold step
  rw [hp, he]
  rfl

theorem step_unpowered_still {s : State} (hp : s.powered = false)
    (h : ¬(s.flash.trip = true ∧ s.mbox.busy = true ∧ Ev.mailboxDone ∈ s.todo ++ s.inputs.map (fun x => x.2)))
    (hw : Ev.moduleReset ∉ s.todo ++ s.inputs.map (fun x => x.2)) : step s = .fault .noPower := by
  have he : resetEvent s = none := by
    rw [resetEvent_of_not_done h]
    refine List.find?_eq_none.mpr (fun e hm hd => hw ?_)
    rwa [← of_decide_eq_true hd]
  unfold step
  rw [hp, he]
  rfl

/-- With power and no event due, a step is the part of the cycle that comes next. -/
theorem step_of_stage {s : State} (hp : s.powered = true) (ht : s.todo = []) :
    (s.stage = .wake → step s = .next (wakeCycle s)) ∧ (s.stage = .issue → step s = issueCycle s) ∧
    (s.stage = .engines → step s = .next (engineCycle s)) ∧ (s.stage = .writeback → step s = .next (writebackCycle s)) ∧
    (s.stage = .advance → step s = .next (advanceCycle s)) ∧ (s.stage = .tick → step s = .next (tickStage s)) := by
  refine ⟨fun h => ?_, fun h => ?_, fun h => ?_, fun h => ?_, fun h => ?_, fun h => ?_⟩ <;> simp [step, hp, ht, h]

theorem issueCycle_switch {s : State} (hc : s.clocked s.cur = true) (hm : s.self.mute = false) (hr : s.self.running = false) :
    issueCycle s = execBerthSwitch s.cur (prepare_ s) := by
  simp [issueCycle, hc, hm, hr]

/-- Settles O43: the step's three cases, and the queued events one by one. -/
theorem stepTakesDueEventsFirst : Obligations.StepTakesDueEventsFirst := by
  intro s
  refine ⟨fun e r hp ht => by simp [step, hp, ht], fun hp ht => ?_, ?_, ?_⟩
  · obtain ⟨hwake, hissue, heng, hwb, hadv, htick⟩ := step_of_stage hp ht
    exact ⟨hwake, hissue, ⟨heng, fun h hu => (heng h).trans (congrArg _ (takeUce_none hu))⟩, hwb, hadv, htick,
      fun h hc hm hr => (hissue h).trans (issueCycle_switch hc hm hr)⟩
  · intro waits ends hp
    have hends : ends ↔ s.flash.trip = true ∧ s.mbox.busy = true ∧ Ev.mailboxDone ∈ s.todo ++ s.inputs.map (fun x => x.2) := by
      rw [mem_waiting]
    refine ⟨fun he => ?_, fun he hw => ?_, fun he hw => ?_⟩
    · obtain ⟨ht, hb, hm⟩ := hends.mp he
      exact step_unpowered_done hp ht hb hm
    · exact step_unpowered_reset hp (fun h => he (hends.mpr h)) (mem_waiting.mpr hw)
    · exact step_unpowered_still hp (fun h => he (hends.mpr h)) (fun h => hw (mem_waiting.mp h))
  · and_intros <;> intros <;> rfl

/-! ## Reset -/

theorem get_replicate {α : Type} {n : Nat} (x : α) (i : Fin n) : (Vector.replicate n x).get i = x := by
  simp [get_eq]

theorem core_reset (c : CoreId) : State.reset.core c = Core.reset := get_replicate _ c

theorem quad_reset (q : QuadId) : State.reset.quad q = Quad.reset := get_replicate _ q

theorem part_reset (p : PartId) : State.reset.part p = Partition.reset := get_replicate _ p

theorem berth_reset (b : BerthId) : Core.reset.berth b = Berth.reset := get_replicate _ b

/-- Every predicate but P0 is false after reset. -/
theorem p_reset (n : Fin 16) : Berth.reset.p.get n = decide (n = 0) := by
  revert n
  decide

/-- A window over the whole tile, field by field. -/
theorem wholeWin_fields :
    fld wholeWin 26 16 = 1024 ∧ fld wholeWin 58 48 = 1024 ∧ fld wholeWin 9 0 = 0 ∧ fld wholeWin 41 32 = 0 := by
  decide

/-- Settles O46: every part of the machine is a copy of its reset value. -/
theorem resetLeaves : Obligations.ResetLeaves := by
  refine ⟨rfl, rfl, rfl, rfl, rfl, rfl, rfl, rfl, rfl, rfl, fun c => ?_, fun q => ?_, fun p => ?_, fun n => ?_⟩
  · rw [core_reset]
    refine ⟨rfl, rfl, rfl, rfl, rfl, get_replicate _, fun n => ⟨get_replicate _ n, get_replicate _ n, ?_⟩, rfl, rfl, rfl,
      get_replicate _, fun b => ?_⟩
    · rw [show Core.reset.wins.get n = wholeWin from get_replicate _ n]
      exact wholeWin_fields
    · rw [berth_reset]
      exact ⟨rfl, rfl, rfl, get_replicate _, p_reset⟩
  · rw [quad_reset]
    exact ⟨rfl, rfl, rfl, rfl⟩
  · rw [part_reset]
    exact ⟨rfl, fun n => congrArg Queue.en (get_replicate Queue.reset n)⟩
  · rw [show State.reset.ports.get n = Port.reset from get_replicate _ n]
    exact ⟨rfl, rfl⟩

/-! ## Escalation -/

/-- What a trap sets in its berth before anything else. -/
def trapped (kind : Code) (slot : Nat) (tval epc : W64) (x : Berth) : Berth :=
  { x with tcode := kind.num, tslot := BitVec.ofNat 3 slot, tval := tval, epc := epc &&& ~~~0xF, wait := .none,
           stall := 0, handlers := x.nest }

/-- An escalated berth goes back to the word that trapped. -/
def escalated (word : W64) (x : Berth) : Berth := { x with pc := word, again := true, wait := .none }

theorem takeTrap_escalates {c : CoreId} {b : BerthId} {kind : Code} {slot : Nat} {tval epc word : W64} {s : State}
    (hv : (s.berth c b).trapv = 0) (hk : kind ≠ .pmiss) :
    takeTrap c b kind slot tval epc word s = escalate c b word (s.updBerth c b (trapped kind slot tval epc)) := by
  have h0 : ((s.updBerth c b (trapped kind slot tval epc)).berth c b).trapv = 0 := by
    rw [State.berth_updBerth]
    exact hv
  unfold takeTrap
  rw [if_neg hk]
  exact if_pos h0

theorem updBerth_updBerth (s : State) (c : CoreId) (b : BerthId) (f g : Berth → Berth) :
    (s.updBerth c b f).updBerth c b g = s.updBerth c b (fun x => g (f x)) := by
  simp [State.updBerth, Core.updBerth, Core.setBerth, Core.berth]

theorem core_updBerth_launch (s : State) (c : CoreId) (b : BerthId) (f : Berth → Berth) :
    ((s.updBerth c b f).core c).launch = (s.core c).launch := by
  simp [State.updBerth, Core.updBerth, Core.setBerth]

theorem core_updBerth_rank (s : State) (c : CoreId) (b : BerthId) (f : Berth → Berth) :
    ((s.updBerth c b f).core c).rank = (s.core c).rank := by
  simp [State.updBerth, Core.updBerth, Core.setBerth]

theorem launch_updBerth (s : State) (c : CoreId) (b : BerthId) (f : Berth → Berth) (l : Nat) :
    (s.updBerth c b f).launch l = s.launch l := rfl

theorem berth_updBerth_ne {s : State} {c : CoreId} {b b' : BerthId} (f : Berth → Berth) (h : b' ≠ b) :
    (s.updBerth c b f).berth c b' = s.berth c b' := by
  simp [State.updBerth, State.berth, Core.updBerth, Core.berth_setBerth_ne _ _ _ _ h.symm]

/-- Escalation of a gang's trap: its berth, and the gang with its code. -/
theorem escalate_launch {c : CoreId} {b : BerthId} {word : W64} {s : State} {l : Nat} {g : Launch}
    (hl : (s.core c).launch = some l) (hg : s.launch l = some g) :
    escalate c b word s =
      ((s.updBerth c b (escalated word)).setLaunch l { g with
        pre := some .escalated, fcode := 0x85,
        det := BitVec.ofNat 64 ((s.berth c b).tcause.toNat % 2048 + (s.core c).rank * 65536) }).push
        [.preemptionRequest l] := by
  unfold escalate
  simp only [core_updBerth_launch, hl, State.updLaunch, launch_updBerth, hg, core_updBerth_rank, State.berth_updBerth]
  rfl

theorem launch_setLaunch {s : State} {l : Nat} {g : Launch} (x : Launch) (h : s.launch l = some g) :
    (s.setLaunch l x).launch l = some x := by
  obtain ⟨hlt, -⟩ := List.getElem?_eq_some_iff.mp h
  exact List.getElem?_set_self hlt

/-- TCAUSE of a trap at a slot of a word. -/
theorem tcause_trapped {kind : Code} {slot : Nat} {tval epc : W64} {x : Berth} (h : slot < 8) :
    (trapped kind slot tval epc x).tcause.toNat % 2048 = kind.num.toNat + 256 * slot := by
  have hk : kind.num.toNat < 256 := kind.num.isLt
  simp only [Berth.tcause, trapped, BitVec.toNat_ofNat]
  omega

/-- Settles O55. -/
theorem trapsEscalate : Obligations.TrapsEscalate := by
  intro c b kind slot tval epc word s l g hv hslot hk hl hg t x
  have ht : t = ((s.updBerth c b (fun y => escalated word (trapped kind slot tval epc y))).setLaunch l { g with
        pre := some .escalated, fcode := 0x85,
        det := BitVec.ofNat 64 (kind.num.toNat + 256 * slot + 65536 * (s.core c).rank) }).push [.preemptionRequest l] := by
    rw [← updBerth_updBerth]
    refine (takeTrap_escalates hv hk).trans ((escalate_launch ((core_updBerth_launch ..).trans hl) hg).trans ?_)
    rw [State.berth_updBerth, tcause_trapped hslot, core_updBerth_rank, Nat.mul_comm (s.core c).rank]
  have hx : x = escalated word (trapped kind slot tval epc (s.berth c b)) :=
    (congrArg (fun u : State => u.berth c b) ht).trans (State.berth_updBerth s c b _)
  refine ⟨by rw [hx]; rfl, ?_, by rw [hx]; rfl, by rw [hx]; rfl, by rw [hx]; rfl, by rw [hx]; rfl, by rw [ht]; rfl,
    ⟨_, (congrArg (fun u : State => u.launch l) ht).trans (launch_setLaunch _ hg), rfl, rfl, rfl⟩, fun b' hb => ?_⟩
  · rw [hx]
    exact Nat.mod_eq_of_lt hslot
  · exact (congrArg (fun u : State => u.berth c b') ht).trans (berth_updBerth_ne _ hb)

end Sys2Proof.Proofs

/-! Operands in slot order, and finite codes (03 R29 to R32, 04 R42, R50). -/

namespace Sys2Proof.Proofs
open Sys2Proof Sys2Proof.Machine Sys2Proof.Laws

/-! ## Operands -/

theorem setS_get (x : Berth) (n : Fin 64) (q : List W64) : (x.setS n q).s.get n = q :=
  get_set_same x.s n q

theorem setS_onMe_get (s : State) (n : Fin 64) (q : List W64) : (s.onMe (fun b => b.setS n q)).me.s.get n = q := by
  rw [onMe_me, setS_get]

theorem owner_setVFifo (s : State) (c c' : CoreId) (n m : Fin 1024) (q : List VEntry) :
    (s.setVFifo c n q).vOwner c' m = s.vOwner c' m := by
  unfold State.vOwner
  rw [core_setVFifo]
  rfl

/-- A replaced main-file name reads as what replaced it, where it stands for a register at all. -/
theorem vFifo_setVFifo {s : State} {c : CoreId} {n : Fin 1024} {q : List VEntry} (h : s.vFifo c n ≠ []) :
    (s.setVFifo c n q).vFifo c n = q := by
  unfold State.vFifo at h ⊢
  rw [owner_setVFifo]
  cases ho : s.vOwner c n with
  | none => simp [ho] at h
  | some p =>
    unfold State.setVFifo
    simp [ho]

/-- Settles O50: what each kind of read gives and leaves. -/
theorem operandsReadInSlotOrder : Obligations.OperandsReadInSlotOrder := by
  intro s k j n m pk sw p x y r e q
  refine ⟨fun h => ⟨readS_peek h, _, readS_pop h, rfl, setS_onMe_get s n r, fun hr => readS_nil ((setS_onMe_get s n r).trans hr),
      fun l hl => ⟨readS_peek ((setS_onMe_get s n r).trans hl), _, readS_pop ((setS_onMe_get s n r).trans hl),
        setS_onMe_get _ n l⟩⟩,
    readS_nil, readS_ls k s, fun v => rfl,
    fun hf hq => ⟨readV_peek (hf _) hq, _, readV_pop (hf _) hq, vFifo_setVFifo (by simp [hq]),
      fun c i hc => file_setVFifo_ne hc⟩,
    fun hf => ⟨readV_nil (hf _), fun o => readV_opf (hf _), readV_lv (hf _), readV_ll (hf _)⟩,
    fun i h body c slot v hr hb => ?_⟩
  rw [issue_ready hr, hb]
  rfl

/-! ## Finite codes -/

/-- The floating formats. -/
def floats : List Fmt := [.fp32, .bf16, .fp16, .acc12, .e4m3, .e5m2, .e2m1s]

/-- The layout of a floating code and the greatest finite mantissa and exponent, as the fields' widths give them. -/
theorem float_layout {f : Fmt} (h : f ∈ floats) :
    isInt f = false ∧ 0 < mBits f ∧ signBit f = lowPad f + (mBits f + eBits f) ∧ width f = signBit f + 1 ∧ signBit f < 32 ∧
    (maxFin f).2 = (2 ^ eBits f : Nat) - (if hasInf f then 2 else 1 : Nat) - (bias f : Int) - (mBits f : Int) ∧
    (maxFin f).1 = 2 ^ (mBits f + 1) - (if f = .e4m3 then 2 else 1) ∧ 3 ≤ 2 ^ eBits f ∧ 2 ^ mBits f ≤ (maxFin f).1 := by
  revert h
  cases f <;> decide

/-- The code with a sign, an exponent field and a mantissa field. -/
def codeOf (f : Fmt) (neg : Bool) (x : Nat) : Nat := x * 2 ^ lowPad f + b2n neg * 2 ^ signBit f

theorem shifted_or {x p q : Nat} (neg : Bool) (h : x * 2 ^ p < 2 ^ q) :
    (x <<< p) ||| (b2n neg <<< q) = x * 2 ^ p + b2n neg * 2 ^ q := by
  rw [Nat.shiftLeft_eq, Nat.shiftLeft_eq, Nat.or_comm, Nat.mul_comm (b2n neg), ← Nat.two_pow_add_eq_or_of_lt h]
  omega

/-- The mantissa field of a code. -/
def manField (f : Fmt) (c : W32) : Nat := (c.toNat >>> lowPad f) % 2 ^ (width f - lowPad f) % 2 ^ mBits f

/-- The exponent field of a code. -/
def expField (f : Fmt) (c : W32) : Nat := ((c.toNat >>> lowPad f) % 2 ^ (width f - lowPad f)) >>> mBits f % 2 ^ eBits f

theorem b2n_testBit (n i : Nat) : b2n (n.testBit i) = n / 2 ^ i % 2 := by
  rw [Nat.testBit_eq_decide_div_mod_eq]
  unfold b2n
  split
  case isTrue h => exact (of_decide_eq_true h).symm
  case isFalse h => have := of_decide_eq_false (Bool.eq_false_iff.mpr h); omega

/-- A code is made of its fields. -/
theorem code_of_fields {f : Fmt} (hf : f ∈ floats) {c : W32} (hc : c.toNat < 2 ^ width f) (h0 : c.toNat % 2 ^ lowPad f = 0) :
    c.toNat = codeOf f (bit c (signBit f)) (manField f c + 2 ^ mBits f * expField f c) := by
  obtain ⟨-, -, hsign, hwidth, -⟩ := float_layout hf
  have hsize : width f - lowPad f = mBits f + eBits f + 1 := by omega
  obtain ⟨v, hv⟩ := Nat.dvd_of_mod_eq_zero h0
  have hshift : c.toNat >>> lowPad f = v := by
    rw [Nat.shiftRight_eq_div_pow, hv, Nat.mul_div_cancel_left _ (Nat.two_pow_pos _)]
  have hlt : v < 2 ^ (mBits f + eBits f + 1) := by
    have hp := Nat.two_pow_pos (lowPad f)
    rw [show width f = lowPad f + (mBits f + eBits f + 1) by omega, Nat.pow_add, hv] at hc
    exact Nat.lt_of_mul_lt_mul_left hc
  have hman : manField f c = v % 2 ^ mBits f := by
    unfold manField
    rw [hshift, hsize, Nat.mod_eq_of_lt hlt]
  have hexp : expField f c = v / 2 ^ mBits f % 2 ^ eBits f := by
    unfold expField
    rw [hshift, hsize, Nat.mod_eq_of_lt hlt, Nat.shiftRight_eq_div_pow]
  have htop : v / 2 ^ mBits f / 2 ^ eBits f < 2 := by
    rw [Nat.div_div_eq_div_mul, ← Nat.pow_add]
    exact Nat.div_lt_of_lt_mul (by rwa [← Nat.pow_succ])
  have hneg : b2n (bit c (signBit f)) = v / 2 ^ mBits f / 2 ^ eBits f := by
    change b2n (c.toNat.testBit _) = _
    rw [b2n_testBit, hsign, hv, Nat.pow_add, Nat.mul_div_mul_left _ _ (Nat.two_pow_pos _), Nat.pow_add, ← Nat.div_div_eq_div_mul,
      Nat.mod_eq_of_lt htop]
  have hfields : v = v % 2 ^ mBits f + 2 ^ mBits f * (v / 2 ^ mBits f % 2 ^ eBits f
      + 2 ^ eBits f * (v / 2 ^ mBits f / 2 ^ eBits f)) := by
    rw [Nat.mod_add_div, Nat.mod_add_div]
  unfold codeOf
  rw [hman, hexp, hneg, hsign, hv]
  conv_lhs => rw [hfields]
  rw [Nat.pow_add, Nat.pow_add]
  ring

/-- The significand of a finite code. -/
def signif (f : Fmt) (c : W32) : Nat := if expField f c = 0 then manField f c else manField f c + 2 ^ mBits f

/-- The exponent of the last place of a finite code. -/
def lastPlace (f : Fmt) (c : W32) : Int := (max (expField f c) 1 : Nat) - (bias f : Int) - (mBits f : Int)

theorem decFloat_finite {f : Fmt} {c : W32} (hn : (decFloat f c).isNaN = false) (hi : (decFloat f c).isInf = false) :
    decFloat f c = .fin (bit c (signBit f)) (signif f c) (lastPlace f c) false ∧
    ¬(hasInf f = true ∧ expField f c = 2 ^ eBits f - 1) ∧ ¬(f = .e4m3 ∧ expField f c = 15 ∧ manField f c = 7) := by
  have hdec : decFloat f c =
      if hasInf f ∧ expField f c = 2 ^ eBits f - 1 then (if manField f c = 0 then .inf (bit c (signBit f)) else .nan)
      else if f = .e4m3 ∧ expField f c = 15 ∧ manField f c = 7 then .nan
      else if expField f c = 0 then .fin (bit c (signBit f)) (manField f c) (eMin f - (mBits f : Int)) false
      else .fin (bit c (signBit f)) (manField f c + 2 ^ mBits f) ((expField f c : Int) - (bias f : Int) - (mBits f : Int)) false := rfl
  rw [hdec] at hn hi ⊢
  split at hn
  case isTrue h =>
    rw [if_pos h] at hi
    split at hn
    · simp_all [XR.isInf]
    · simp [XR.isNaN] at hn
  case isFalse h =>
    split at hn
    case isTrue h' => simp [XR.isNaN] at hn
    case isFalse h' =>
      rw [if_neg h, if_neg h']
      refine ⟨?_, h, h'⟩
      unfold signif lastPlace
      split
      case isTrue h0 => rw [h0]; rfl
      case isFalse h0 => rw [Nat.max_eq_left (Nat.pos_of_ne_zero h0)]

theorem signif_bounds {f : Fmt} {c : W32} (hf : f ∈ floats) (hi : ¬(hasInf f = true ∧ expField f c = 2 ^ eBits f - 1))
    (hn : ¬(f = .e4m3 ∧ expField f c = 15 ∧ manField f c = 7)) :
    signif f c < 2 ^ (mBits f + 1) ∧ lastPlace f c ≤ (maxFin f).2 ∧ (lastPlace f c = (maxFin f).2 → signif f c ≤ (maxFin f).1) ∧
    eMin f - (mBits f : Int) ≤ lastPlace f c ∧ (signif f c < 2 ^ mBits f → lastPlace f c = eMin f - (mBits f : Int)) := by
  have hman : manField f c < 2 ^ mBits f := Nat.mod_lt _ (Nat.two_pow_pos _)
  have hexp : expField f c < 2 ^ eBits f := Nat.mod_lt _ (Nat.two_pow_pos _)
  obtain ⟨-, -, -, -, -, hmax, hbig, hexps, -⟩ := float_layout hf
  have hpow : 2 ^ (mBits f + 1) = 2 * 2 ^ mBits f := Nat.pow_succ'
  have hinf : expField f c + (if hasInf f then 2 else 1) ≤ 2 ^ eBits f := by
    split
    case isTrue h => have hne : expField f c ≠ 2 ^ eBits f - 1 := fun he => hi ⟨h, he⟩; omega
    case isFalse h => omega
  have htwo : (if hasInf f then 2 else 1 : Nat) ≤ 2 := by split <;> decide
  have htop : f = .e4m3 → expField f c = 15 → manField f c ≤ 6 := by
    rintro rfl h
    have h7 : manField .e4m3 c ≠ 7 := fun hm => hn ⟨rfl, h, hm⟩
    have h8 : manField .e4m3 c < 8 := hman
    omega
  have hsig : signif f c < 2 ^ (mBits f + 1) := by
    unfold signif
    split <;> omega
  refine ⟨hsig, ?_, fun heq => ?_, ?_, fun hlow => ?_⟩
  · rw [hmax]
    unfold lastPlace
    omega
  · rw [hbig]
    split
    case isFalse h => omega
    case isTrue h =>
      have h15 : expField f c = 15 := by
        subst h
        have hl : lastPlace .e4m3 c = 5 := heq
        have hm : (max (expField .e4m3 c) 1 : Nat) - (7 : Int) - (3 : Int) = 5 := hl
        omega
      have h6 := htop h h15
      unfold signif
      rw [if_neg (by omega)]
      subst h
      change _ ≤ 14
      change manField .e4m3 c + 8 ≤ 14
      omega
  · unfold lastPlace eMin
    omega
  · unfold signif at hlow
    split at hlow
    case isTrue h0 =>
      unfold lastPlace eMin
      rw [h0]
      rfl
    case isFalse h0 => omega

theorem quantum_exact {f : Fmt} {n : Nat} {e : Int} (hf : f ∈ floats) (hn : n < 2 ^ (mBits f + 1))
    (he : eMin f - (mBits f : Int) ≤ e) (hsub : n < 2 ^ mBits f → e = eMin f - (mBits f : Int)) : quantum f n e = e := by
  obtain ⟨hint, hm, -⟩ := float_layout hf
  unfold quantum
  rw [hint, if_neg (by decide)]
  rcases Nat.lt_or_ge n (2 ^ mBits f) with hlow | hhigh
  · have hlog : Nat.log2 n < mBits f := by
      rcases Nat.eq_zero_or_pos n with h0 | h0
      · rw [h0]
        exact hm
      · exact (Nat.log2_lt h0.ne').mpr hlow
    have he' := hsub hlow
    split <;> omega
  · have hlog : Nat.log2 n = mBits f := (Nat.log2_eq_iff (by have := Nat.two_pow_pos (mBits f); omega)).mpr ⟨hhigh, hn⟩
    rw [hlog]
    split <;> omega

/-- A significand that fits is not above the greatest finite value. -/
theorem maxFin_not_lt {xm n : Nat} {xe e : Int} {k : Nat} (hn : n < 2 ^ (k + 1)) (hxm : 2 ^ k ≤ xm) (he : e ≤ xe)
    (heq : e = xe → n ≤ xm) : (XR.fin false xm xe false).lt (.fin false n e false) = false := by
  have hlo : loExp (.fin false xm xe false) (.fin false n e false) = e := by
    exact ite_eq_right_iff.mpr (fun h => le_antisymm h he)
  have hle : n ≤ xm * 2 ^ (xe - e).toNat := by
    rcases Int.lt_or_eq_of_le he with h | h
    · obtain ⟨j, hj⟩ : ∃ j, (xe - e).toNat = j + 1 := ⟨(xe - e).toNat - 1, by omega⟩
      rw [hj]
      calc n ≤ 2 ^ (k + 1) := hn.le
        _ ≤ xm * 2 ^ 1 := by rw [Nat.pow_succ]; omega
        _ ≤ xm * 2 ^ (j + 1) := Nat.mul_le_mul_left _ (Nat.pow_le_pow_right (by decide) (by omega))
    · rw [h, Int.sub_self]
      simpa using heq h
  simp only [XR.lt, hlo, XR.mant, Int.sub_self, Nat.shiftLeft_eq]
  simpa using (by exact_mod_cast hle : (n : Int) ≤ xm * 2 ^ (xe - e).toNat)

/-- A value that fits a format rounds to the code of its fields, with no flag. -/
theorem roundTo_exact {f : Fmt} {neg : Bool} {n : Nat} {e : Int} (rm : RM) (hf : f ∈ floats) (hq : quantum f n e = e)
    (hbig : (XR.fin false (maxFin f).1 (maxFin f).2 false).lt (.fin false n e false) = false) :
    roundTo (.fin neg n e false) f rm 0 =
      if n = 0 then (if f = .e2m1s then 0 else BitVec.ofNat 32 (b2n neg <<< signBit f), 0)
      else (BitVec.ofNat 32 (((((e - (eMin f - (mBits f : Int))).toNat <<< mBits f) + n) <<< lowPad f)
        ||| (b2n neg <<< signBit f)), 0) := by
  obtain ⟨hint, -⟩ := float_layout hf
  simp [roundTo, hq, hint, roundUp, hbig]

/-- The exponent field and the significand of a finite code, without its leading one. -/
theorem fields_of_signif {f : Fmt} {c : W32} :
    (lastPlace f c - (eMin f - (mBits f : Int))).toNat <<< mBits f + signif f c = manField f c + 2 ^ mBits f * expField f c := by
  have hplace : (lastPlace f c - (eMin f - (mBits f : Int))).toNat = max (expField f c) 1 - 1 := by
    unfold lastPlace eMin
    omega
  rw [hplace, Nat.shiftLeft_eq]
  unfold signif
  split
  case isTrue h0 => simp [h0]
  case isFalse h0 =>
    obtain ⟨x, hx⟩ := Nat.exists_eq_succ_of_ne_zero h0
    rw [hx, Nat.max_eq_left (by omega), Nat.succ_sub_one, Nat.mul_succ]
    ring

/-- A code without its sign lies below the sign bit. -/
theorem unsigned_lt {f : Fmt} (hf : f ∈ floats) {c : W32} :
    (manField f c + 2 ^ mBits f * expField f c) * 2 ^ lowPad f < 2 ^ signBit f := by
  obtain ⟨-, -, hsign, -⟩ := float_layout hf
  have hman : manField f c < 2 ^ mBits f := Nat.mod_lt _ (Nat.two_pow_pos _)
  have hexp : expField f c < 2 ^ eBits f := Nat.mod_lt _ (Nat.two_pow_pos _)
  rw [hsign, Nat.pow_add, Nat.mul_comm]
  refine Nat.mul_lt_mul_of_pos_left ?_ (Nat.two_pow_pos _)
  calc manField f c + 2 ^ mBits f * expField f c < 2 ^ mBits f + 2 ^ mBits f * expField f c := by omega
    _ = 2 ^ mBits f * (expField f c + 1) := by ring
    _ ≤ 2 ^ mBits f * 2 ^ eBits f := Nat.mul_le_mul_left _ hexp
    _ = 2 ^ (mBits f + eBits f) := (Nat.pow_add ..).symm

/-- Settles O54: the value of a finite code is exact at its own last place, and its fields give the code back. -/
theorem finiteCodesAreExact : Obligations.FiniteCodesAreExact := by
  intro f c rm hf hc h0 hclove hn hi
  have hf' : f ∈ floats := hf
  obtain ⟨hdec, hinf, hnan⟩ := decFloat_finite hn hi
  obtain ⟨hsig, hle, heq, hmin, hsub⟩ := signif_bounds hf' hinf hnan
  obtain ⟨-, -, -, -, -, -, -, -, hmax⟩ := float_layout hf'
  have hcode := code_of_fields hf' hc h0
  rw [hdec, roundTo_exact rm hf' (quantum_exact hf' hsig hmin hsub) (maxFin_not_lt hsig hmax hle heq), fields_of_signif,
    shifted_or _ (unsigned_lt hf')]
  split
  case isTrue hz =>
    have hx : manField f c + 2 ^ mBits f * expField f c = 0 := by
      unfold signif at hz
      split at hz
      case isTrue he => rw [hz, he]; rfl
      case isFalse he => have := Nat.two_pow_pos (mBits f); omega
    have hzero : c.toNat = b2n (bit c (signBit f)) * 2 ^ signBit f := by rw [hcode, hx, codeOf, Nat.zero_mul, Nat.zero_add]
    have hc0 : BitVec.ofNat 32 (b2n (bit c (signBit f)) <<< signBit f) = c := by
      rw [Nat.shiftLeft_eq, ← hzero, BitVec.ofNat_toNat, BitVec.setWidth_eq]
    split
    case isTrue he =>
      subst he
      cases hs : bit c (signBit .e2m1s) with
      | false => rw [hs] at hc0; rw [← hc0]; rfl
      | true => rw [hs] at hc0; exact absurd ⟨rfl, hc0.symm⟩ hclove
    case isFalse he => rw [hc0]
  case isFalse hz => rw [← codeOf, ← hcode, BitVec.ofNat_toNat, BitVec.setWidth_eq]

end Sys2Proof.Proofs

/-! Writeback of results (02 R22 step 6, 03 R29, R30, 07 R101). -/

namespace Sys2Proof.Proofs
open Sys2Proof Sys2Proof.Machine Sys2Proof.Laws

/-! ## Destinations and latches -/

theorem updCore_self (s : State) (c : CoreId) {f : Core → Core} (h : f (s.core c) = s.core c) : s.updCore c f = s := by
  unfold State.updCore
  rw [h, setCore_core]

theorem core_updBerth_fpf (s : State) (c : CoreId) (b : BerthId) (f : Berth → Berth) :
    ((s.updBerth c b f).core c).fpf = (s.core c).fpf := by
  simp [State.updBerth, Core.updBerth, Core.setBerth]

theorem core_setVFifo_fpf (s : State) (c : CoreId) (n : Fin 1024) (q : List VEntry) :
    ((s.setVFifo c n q).core c).fpf = (s.core c).fpf := by
  rw [core_setVFifo]

theorem pushS_room {c : CoreId} {b : BerthId} {n : Fin 64} {v : W64} {s : State} (h : ((s.berth c b).s.get n).length < 2) :
    pushS c b n v s = some (s.updBerth c b (fun x => x.setS n (x.s.get n ++ [v]))) := if_pos h

theorem pushS_full {c : CoreId} {b : BerthId} {n : Fin 64} {v : W64} {s : State} (h : 2 ≤ ((s.berth c b).s.get n).length) :
    pushS c b n v s = none := if_neg (Nat.not_lt.mpr h)

theorem pushV_room {c : CoreId} {n : Fin 1024} {e : VEntry} {s : State} (h : (s.vFifo c n).length < 2) :
    pushV c n e s = some (s.setVFifo c n (s.vFifo c n ++ [e])) := if_pos h

theorem pushV_full {c : CoreId} {n : Fin 1024} {e : VEntry} {s : State} (h : 2 ≤ (s.vFifo c n).length) :
    pushV c n e s = none := if_neg (Nat.not_lt.mpr h)

/-- Writing a destination raises no flag. -/
theorem writeDst_fpf {c : CoreId} {b : BerthId} {d : Dst} {v : RVal} {s t : State} (h : writeDst c b d v s = some t) :
    (t.core c).fpf = (s.core c).fpf := by
  unfold writeDst at h
  split at h
  case h_2 n x =>
    unfold pushS at h
    split at h
    · cases h; exact core_updBerth_fpf ..
    · cases h
  case h_3 n e =>
    unfold pushV at h
    split at h
    · cases h; exact core_setVFifo_fpf ..
    · cases h
  case h_5 n x w => cases h; exact core_updBerth_fpf ..
  case h_4 => cases h; simp
  case h_6 => cases h; simp
  all_goals cases h; rfl

theorem writeLatch_lv (c : CoreId) (b : BerthId) (e : VEntry) (s : State) :
    writeLatch c b .vxe (.v e) s = s.updCore c (fun k => { k with lv := e, fileBad := k.fileBad.filter (· ≠ 264) }) := rfl

theorem writeLatch_ll (c : CoreId) (b : BerthId) (e : VEntry) (s : State) :
    writeLatch c b .lde (.v e) s = s.updCore c (fun k => { k with ll := e, fileBad := k.fileBad.filter (· ≠ 265) }) := rfl

/-- Writing a latch raises no flag. -/
theorem writeLatch_fpf (c : CoreId) (b : BerthId) (u : ResUnit) (v : RVal) (s : State) :
    ((writeLatch c b u v s).core c).fpf = (s.core c).fpf := by
  unfold writeLatch
  split
  case h_1 => exact core_updBerth_fpf ..
  case h_2 => exact core_updBerth_fpf ..
  case h_3 => exact core_updBerth_fpf ..
  case h_4 => simp
  case h_5 => simp
  case h_6 => rfl

theorem raise_done_fpf (k : Core) (r : Pend) : ((k.raise r.flags).done r).fpf = k.fpf ||| r.flags := by
  unfold Core.done
  split <;> rfl

theorem raise_done_none {k : Core} {r : Pend} (ht : r.tok = 0) (hf : r.flags = 0) : (k.raise r.flags).done r = k := by
  unfold Core.done
  rw [if_pos ht, hf, Core.raise]
  simp

/-! ## Writeback -/

/-- A result that is not a pair is written where its destination takes it. -/
theorem writeback_some {c : CoreId} {r : Pend} {s t : State} (hp : ∀ n m, r.dst ≠ .s2 n m)
    (h : writeDst c r.berth r.dst r.val s = some t) :
    writeback c r s = (writeLatch c r.berth r.unit r.val t).updCore c (fun k => (k.raise r.flags).done r) := by
  unfold writeback
  split
  case h_1 n m x y hd hv => exact absurd hd (hp n m)
  case h_2 => rw [h]

theorem writeback_none {c : CoreId} {r : Pend} {s : State} (hp : ∀ n m, r.dst ≠ .s2 n m)
    (h : writeDst c r.berth r.dst r.val s = none) : writeback c r s = overflow c r s := by
  unfold writeback
  split
  case h_1 n m x y hd hv => exact absurd hd (hp n m)
  case h_2 => rw [h]

theorem loadback_some {c : CoreId} {r : Pend} {s t : State} (h : writeDst c r.berth r.dst r.val s = some t) :
    loadback c r s = some ((writeLatch c r.berth r.unit r.val t).updCore c (fun k => (k.raise r.flags).done r)) := by
  unfold loadback
  rw [h]
  rfl

theorem loadback_none {c : CoreId} {r : Pend} {s : State} (h : writeDst c r.berth r.dst r.val s = none) :
    loadback c r s = none := by
  unfold loadback
  rw [h]
  rfl

/-- A result without tokens or flags leaves what its destination and its latch do. -/
theorem writeback_plain {c : CoreId} {r : Pend} {s t : State} (hp : ∀ n m, r.dst ≠ .s2 n m) (ht : r.tok = 0) (hf : r.flags = 0)
    (h : writeDst c r.berth r.dst r.val s = some t) : writeback c r s = writeLatch c r.berth r.unit r.val t :=
  (writeback_some hp h).trans (updCore_self _ _ (raise_done_none ht hf))

theorem loadback_plain {c : CoreId} {r : Pend} {s t : State} (ht : r.tok = 0) (hf : r.flags = 0)
    (h : writeDst c r.berth r.dst r.val s = some t) : loadback c r s = some (writeLatch c r.berth r.unit r.val t) :=
  (loadback_some h).trans (congrArg some (updCore_self _ _ (raise_done_none ht hf)))

/-! ## The main file of the own core -/

theorem vOwner_own {s : State} {c : CoreId} {m : Fin 1024} (h : m.val < 256) :
    s.vOwner c m = some (c, Fin.ofNat 256 m.val) := by
  unfold State.vOwner Core.owner
  rw [if_pos (Nat.div_eq_of_lt h), Nat.mod_eq_of_lt h]
  rfl

theorem vFifo_own {s : State} {c : CoreId} {m : Fin 1024} (h : m.val < 256) :
    s.vFifo c m = (s.core c).file.get (Fin.ofNat 256 m.val) := by
  unfold State.vFifo
  rw [vOwner_own h]

theorem setVFifo_own {s : State} {c : CoreId} {m : Fin 1024} (q : List VEntry) (h : m.val < 256) :
    s.setVFifo c m q = s.updCore c (fun k =>
      { k with file := k.file.set (m.val % 256) q (Nat.mod_lt _ (by decide)) }) := by
  unfold State.setVFifo
  rw [vOwner_own h]
  rfl

/-- A push into a main-file name of the own core, and then its latch. -/
theorem setVFifo_append {s : State} {c : CoreId} {m : Fin 1024} (e : VEntry) (h : m.val < 256) :
    s.setVFifo c m (s.vFifo c m ++ [e]) = s.updCore c (fun k =>
      { k with file := k.file.set (m.val % 256) (k.file.get (Fin.ofNat 256 m.val) ++ [e]) (Nat.mod_lt _ (by decide)) }) := by
  rw [setVFifo_own _ h, vFifo_own h]
  rfl

/-! ## Overflow -/

theorem overflow_trap {c : CoreId} {r : Pend} {s : State} (ht : r.tok = 0) (hx : (s.berth c r.berth).exited = false) :
    overflow c r s = (takeTrap c r.berth .fifoOvf 0 r.addr (s.berth c r.berth).pc (s.berth c r.berth).pc
      (s.updCore c (Core.holdResults r.berth))).updBerth c r.berth (fun y =>
        { y with handlers := .ovf (s.berth c r.berth).held.length :: (s.berth c r.berth).handlers }) := by
  unfold overflow
  rw [updCore_self s c (f := fun k => k.done r) (if_pos ht)]
  exact if_neg (by simp [hx])

/-- Results that stay in flight past an overflow are those due in its cycle. -/
theorem mem_holdResults {b : BerthId} {k : Core} {y : Pend} (h : y ∈ (k.holdResults b).inflight) : y ∈ k.inflight ∧ y.rem = 0 := by
  obtain ⟨hm, hl⟩ := List.mem_filter.mp h
  refine ⟨hm, ?_⟩
  by_contra hr
  simp [hr] at hl

theorem berth_holdResults (s : State) (c : CoreId) (b : BerthId) :
    ((s.updCore c (Core.holdResults b)).berth c b).s = (s.berth c b).s ∧
    ((s.updCore c (Core.holdResults b)).berth c b).ls = (s.berth c b).ls := by
  have hb : ∀ k : Core, ((k.holdResults b).berth b).s = (k.berth b).s ∧ ((k.holdResults b).berth b).ls = (k.berth b).ls := by
    intro k
    simp [Core.holdResults, Core.updBerth, Core.setBerth, Core.berth]
  unfold State.berth
  rw [State.core_updCore]
  exact hb _

/-- Settles O52: what each destination, each latch and a full FIFO leave. -/
theorem resultsWriteBack : Obligations.ResultsWriteBack := by
  intro c r s n m o p x e v b
  refine ⟨fun t ht hp => ⟨?_, _, loadback_some ht, ?_⟩, fun ht hx hfull => ?_, fun ht hf => ⟨fun hu hv => ⟨fun hd => ?_, fun hd hl => ?_⟩,
    fun hu hd hv hp => ?_, fun hu hv => ⟨fun hd => ?_, fun hd => ?_, fun hm hd hl => ?_⟩, fun hu hv hm hd => ⟨fun hl => ?_, fun hl => ?_⟩⟩⟩
  · rw [writeback_some hp ht, State.core_updCore, raise_done_fpf, writeLatch_fpf, writeDst_fpf ht]
  · rw [State.core_updCore, raise_done_fpf, writeLatch_fpf, writeDst_fpf ht]
  · have hnone : writeDst c r.berth r.dst r.val s = none ∧ ∀ n m, r.dst ≠ .s2 n m := by
      rcases hfull with ⟨_, hv, hd, hl⟩ | ⟨_, hv, hd, hl⟩
      · rw [hv, hd]
        exact ⟨pushS_full hl, nofun⟩
      · rw [hv, hd]
        exact ⟨pushV_full hl, nofun⟩
    obtain ⟨hs, hls⟩ := berth_holdResults s c b
    refine ⟨(writeback_none hnone.2 hnone.1).trans (overflow_trap ht hx), hs, hls, ?_, ?_, ?_, fun y hy => ?_⟩
    · rw [State.core_updCore]; rfl
    · rw [State.core_updCore]; rfl
    · rw [State.core_updCore]; rfl
    · rw [State.core_updCore] at hy
      exact mem_holdResults hy
  · rw [writeback_plain (t := s) (by simp [hd]) ht hf (by rw [hd]; rfl), hu, hv]
    rfl
  · rw [writeback_plain (by simp [hd]) ht hf (by rw [hd, hv]; exact pushS_room hl), hu, hv]
    exact updBerth_updBerth ..
  · rw [writeback_plain (by simp [hd]) ht hf (by rw [hd, hv]; rfl), hu, hv]
    change s.updBerth c r.berth (fun y => y.setP p v) = _
    simp only [Berth.setP, if_neg hp]
    rfl
  · rw [writeback_plain (t := s) (by simp [hd]) ht hf (by rw [hd]; rfl), hu, hv]
    rfl
  · rw [writeback_plain (by simp [hd]) ht hf (by rw [hd, hv]; rfl), hu, hv, writeLatch_lv, State.updCore_updCore]
  · rw [writeback_plain (by simp [hd]) ht hf (by rw [hd, hv]; exact pushV_room hl), hu, hv, setVFifo_append e hm,
      writeLatch_lv, State.updCore_updCore]
  · rw [loadback_plain ht hf (by rw [hd, hv]; exact pushV_room hl), hu, hv, setVFifo_append e hm,
      writeLatch_ll, State.updCore_updCore]
  · have hnone : loadback c r s = none := loadback_none (by rw [hd, hv]; exact pushV_full hl)
    refine ⟨hnone, ?_⟩
    unfold loadPushes
    rw [hnone]

end Sys2Proof.Proofs

/-! Memory reads back what was written (13 R239, R241, 14 R264). -/

namespace Sys2Proof.Proofs
open Sys2Proof Sys2Proof.Machine Sys2Proof.Laws

/-! ## Lines -/

/-- The message that carries a line's owner token. -/
def ownerMsg (k : Nat) (l : List TokMsg) : Option TokMsg := l.find? (fun m => decide (m.line = k) && m.owner)

/-- The data of a line, in a table and in messages, of the holder of its owner token. -/
def dataOf (k : Nat) (line : Option TokLine) (msgs : List TokMsg) : Option (List Byte) :=
  match line with
  | none => none
  | some l =>
    match l.rdc.toList.find? (fun h => h.owner) with
    | some h => some h.data
    | none => (ownerMsg k msgs).map (fun m => m.data)

theorem ownerData_eq (s : State) (k : Nat) : s.ownerData k = dataOf k (s.tline k) s.tokMsgs := rfl

theorem byte_eq (s : State) (b : Nat) :
    s.byte b = (match s.ownerData (b / 128) with | some d => d.getD (b % 128) 0 | none => s.mem.read b) := rfl

theorem byte_home {s : State} {b : Nat} (h : s.tline (b / 128) = none) : s.byte b = s.mem.read b := by
  rw [byte_eq, ownerData_eq, h]
  rfl

/-- A byte depends on its line and on memory at its address alone. -/
theorem byte_congr {s t : State} {b : Nat} (hd : t.ownerData (b / 128) = s.ownerData (b / 128))
    (hm : t.mem.read b = s.mem.read b) : t.byte b = s.byte b := by
  rw [byte_eq, byte_eq, hd, hm]

theorem find_line_filter {l : List TokLine} {n k : Nat} (h : k ≠ n) :
    (l.filter (fun x => !decide (x.line = n))).find? (fun x => decide (x.line = k)) = l.find? (fun x => decide (x.line = k)) := by
  rw [List.find?_filter]
  congr 1
  funext x
  by_cases hx : x.line = k <;> simp [hx, h]

theorem find_line_filter_same (l : List TokLine) (n : Nat) :
    (l.filter (fun x => !decide (x.line = n))).find? (fun x => decide (x.line = n)) = none := by
  simp

theorem ownerMsg_filter {l : List TokMsg} {n k : Nat} (h : k ≠ n) :
    ownerMsg k (l.filter (fun x => !decide (x.line = n))) = ownerMsg k l := by
  unfold ownerMsg
  rw [List.find?_filter]
  congr 1
  funext x
  by_cases hx : x.line = k <;> simp [hx, h]

/-- The tokens of a line are all at home, and no message of it is under way. -/
def LineHome (s : State) (n : Nat) : Prop := s.tline n = none ∧ ∀ m ∈ s.tokMsgs, m.line ≠ n

/-! ## Gathering a line -/

theorem tline_gather_ne {s : State} {n k : Nat} (h : k ≠ n) : (gather n s).tline k = s.tline k := by
  unfold gather
  split
  · rfl
  · exact find_line_filter h

theorem tokMsgs_gather (s : State) (n : Nat) : (gather n s).tokMsgs = s.tokMsgs.filter (fun m => !decide (m.line = n)) := by
  unfold gather
  split <;> rfl

theorem lineHome_gather (s : State) (n : Nat) : LineHome (gather n s) n := by
  refine ⟨?_, fun m hm => ?_⟩
  · unfold gather
    split
    case h_1 h => exact h
    case h_2 => exact find_line_filter_same s.lines n
  · rw [tokMsgs_gather] at hm
    simpa using (List.mem_filter.mp hm).2

theorem lineHome_gather_of {s : State} {n k : Nat} (h : LineHome s k) : LineHome (gather n s) k := by
  by_cases hk : k = n
  · exact hk ▸ lineHome_gather s n
  · refine ⟨(tline_gather_ne hk).trans h.1, fun m hm => ?_⟩
    rw [tokMsgs_gather] at hm
    exact h.2 m (List.mem_filter.mp hm).1

theorem ownerData_gather_ne {s : State} {n k : Nat} (h : k ≠ n) : (gather n s).ownerData k = s.ownerData k := by
  rw [ownerData_eq, ownerData_eq, tline_gather_ne h, tokMsgs_gather]
  unfold dataOf
  rw [ownerMsg_filter h]

/-- The bytes of a line as they stand. -/
def lineBytes (s : State) (n : Nat) : List Byte := (List.range 128).map (fun i => s.byte (n * 128 + i))

theorem lineBytes_length (s : State) (n : Nat) : (lineBytes s n).length = 128 := by
  unfold lineBytes
  rw [List.length_map, List.length_range]

theorem lineBytes_get (s : State) (n i : Nat) (hi : i < (lineBytes s n).length) : (lineBytes s n)[i] = s.byte (n * 128 + i) := by
  simp [lineBytes]

theorem mem_gather {s : State} {n : Nat} {l : TokLine} (h : s.tline n = some l) :
    (gather n s).mem = s.mem.writes (n * 128) (lineBytes s n) := by
  unfold gather lineBytes
  split
  case h_1 h' => rw [h] at h'; cases h'
  case h_2 => with_reducible rfl

theorem mem_gather_home {s : State} {n : Nat} (h : s.tline n = none) : (gather n s).mem = s.mem := by
  unfold gather
  split
  case h_1 => rfl
  case h_2 h' => rw [h] at h'; cases h'

/-- Where a line's tokens come home, every byte stays. -/
theorem byte_gather {s : State} (hs : s.mem.wf = true) (n b : Nat) : (gather n s).byte b = s.byte b := by
  cases h : s.tline n with
  | none =>
    have hmem := mem_gather_home h
    by_cases hb : b / 128 = n
    · rw [byte_home (hb ▸ (lineHome_gather s n).1 : (gather n s).tline (b / 128) = none), byte_home (hb ▸ h), hmem]
    · exact byte_congr (ownerData_gather_ne hb) (by rw [hmem])
  | some l =>
    by_cases hb : b / 128 = n
    · have hi : b % 128 < (lineBytes s n).length := by rw [lineBytes_length]; exact Nat.mod_lt _ (by decide)
      have hplace : n * 128 + b % 128 = b := by omega
      rw [byte_home (hb ▸ (lineHome_gather s n).1 : (gather n s).tline (b / 128) = none), mem_gather h]
      have hread := Mem.read_writes_in _ s.mem (n * 128) _ hs hi
      rwa [lineBytes_get, hplace] at hread
    · refine byte_congr (ownerData_gather_ne hb) ?_
      rw [mem_gather h]
      exact Mem.read_writes_out _ _ _ _ hs (by rw [lineBytes_length]; omega)

/-! ## Writing at home -/

theorem byte_putHome {s : State} (hs : s.mem.wf = true) (a b : Nat) (v : Byte) :
    (s.putHome a v).byte b = if b = a then v else s.byte b := by
  have hwf := wf_gather (a / 128) s hs
  rw [← byte_gather hs (a / 128) b]
  split
  case isTrue h =>
    subst h
    refine (byte_home (s := s.putHome b v) (lineHome_gather s (b / 128)).1).trans ?_
    exact Mem.read_write_same _ _ _ hwf
  case isFalse h => exact byte_congr rfl (Mem.read_write_ne _ _ _ _ hwf h)

theorem lineHome_putHome (s : State) (a : Nat) (v : Byte) : LineHome (s.putHome a v) (a / 128) :=
  lineHome_gather s (a / 128)

theorem lineHome_putHome_of {s : State} {k : Nat} (a : Nat) (v : Byte) (h : LineHome s k) : LineHome (s.putHome a v) k :=
  lineHome_gather_of h

theorem lineHome_putRun_of {bs : List Byte} {s : State} {k : Nat} (a : Nat) (h : LineHome s k) :
    LineHome (s.putRun a bs) k := by
  induction bs generalizing s a with
  | nil => exact h
  | cons x r ih => exact ih (a + 1) (lineHome_putHome_of a x h)

/-- Every line that a run meets is at home when it is written. -/
theorem lineHome_putRun {bs : List Byte} {s : State} {k : Nat} (a : Nat) {i : Nat} (hi : i < bs.length) (hk : k = (a + i) / 128) :
    LineHome (s.putRun a bs) k := by
  induction bs generalizing s a i with
  | nil => simp at hi
  | cons x r ih =>
    cases i with
    | zero => exact hk ▸ lineHome_putRun_of (a + 1) (lineHome_putHome s a x)
    | succ j => exact ih (a + 1) (i := j) (by simpa using hi) (by omega)

theorem byte_putRun {bs : List Byte} {s : State} (hs : s.mem.wf = true) (a b : Nat) :
    (s.putRun a bs).byte b = if a ≤ b ∧ b < a + bs.length then bs.getD (b - a) 0 else s.byte b := by
  induction bs generalizing s a with
  | nil => exact (if_neg (by simp)).symm
  | cons x r ih =>
    rw [State.putRun, ih (wf_State_putHome s a x hs), byte_putHome hs]
    simp only [List.length_cons]
    rcases Nat.lt_trichotomy b a with h | h | h
    · rw [if_neg (by omega), if_neg (by omega), if_neg (by omega)]
    · subst h
      rw [if_neg (by omega), if_pos rfl, if_pos (by omega), Nat.sub_self]
      rfl
    · by_cases hin : b < a + (r.length + 1)
      · rw [if_pos (by omega), if_pos (by omega), show b - a = (b - (a + 1)) + 1 by omega, List.getD_cons_succ]
      · rw [if_neg (by omega), if_neg (by omega), if_neg (by omega)]

/-! ## Sending a line's tokens on -/

/-- A line whose tokens have all left home. -/
def sentLine (n : Nat) : TokLine := (TokLine.home_ n).set .home TokHold.none

theorem sentLine_away (n : Nat) : sentLine n ≠ TokLine.home_ (sentLine n).line := by
  intro h
  have ht : (0 : Nat) = lineTokens := congrArg (fun l => l.home.t) h
  exact absurd ht (by decide)

/-- The message with all tokens of a line. -/
def wholeLine (s : State) (n : Nat) (dest : Holder) : TokMsg :=
  { line := n, dest := dest, t := lineTokens, owner := true, valid := true, data := s.lineData n }

/-- What the home holder does with a line that is at home: nothing, or all its tokens leave for one holder. -/
theorem homeObeys_home {s : State} {n : Nat} (h : LineHome s n) :
    homeObeys n s = s ∨ ∃ dest, (homeObeys n s).mem = s.mem ∧ (homeObeys n s).tokMsgs = s.tokMsgs ++ [wholeLine s n dest] ∧
      (homeObeys n s).lines = s.lines.filter (fun x => !decide (x.line = n)) ++ [sentLine n] := by
  have hline : s.tokLine n = TokLine.home_ n := by
    unfold State.tokLine
    rw [h.1]
    rfl
  unfold homeObeys
  rw [hline]
  dsimp only
  split
  case h_2 => exact .inl rfl
  case h_1 w hw =>
    split
    case isTrue => exact .inl rfl
    case isFalse hne =>
      refine .inr ⟨holderOf n w, rfl, ?_, ?_⟩
      · unfold sendTokens
        rw [hline]
        rfl
      · unfold sendTokens
        rw [hline]
        exact if_neg (sentLine_away n)

theorem tline_sent (l : List TokLine) (n k : Nat) :
    (l.filter (fun x => !decide (x.line = n)) ++ [sentLine n]).find? (fun x => decide (x.line = k)) =
      if k = n then some (sentLine n) else l.find? (fun x => decide (x.line = k)) := by
  rw [List.find?_append]
  by_cases h : k = n
  · subst h
    rw [find_line_filter_same, if_pos rfl]
    simp [sentLine, TokLine.home_, TokLine.set]
  · rw [find_line_filter h, if_neg h]
    have hne : decide ((sentLine n).line = k) = false := decide_eq_false (fun e => h e.symm)
    simp [hne]

theorem ownerMsg_append {l : List TokMsg} {m : TokMsg} {k : Nat} (h : m.line ≠ k) : ownerMsg k (l ++ [m]) = ownerMsg k l := by
  unfold ownerMsg
  rw [List.find?_append]
  simp [h]

theorem ownerMsg_sent {s : State} {n : Nat} {dest : Holder} (h : ∀ m ∈ s.tokMsgs, m.line ≠ n) :
    ownerMsg n (s.tokMsgs ++ [wholeLine s n dest]) = some (wholeLine s n dest) := by
  unfold ownerMsg
  rw [List.find?_append, List.find?_eq_none.mpr (fun m hm => by simp [h m hm])]
  simp [wholeLine]

theorem bytes_getD (s : State) (a n i : Nat) (h : i < n) : (s.bytes a n).getD i 0 = s.byte (a + i) := by
  induction n generalizing a i with
  | zero => omega
  | succ n ih =>
    cases i with
    | zero => rfl
    | succ j =>
      rw [State.bytes, List.getD_cons_succ, ih (a + 1) j (by omega), show a + 1 + j = a + (j + 1) by omega]

/-- A line that leaves home carries its bytes with it. -/
theorem byte_homeObeys {s : State} {n : Nat} (h : LineHome s n) (b : Nat) : (homeObeys n s).byte b = s.byte b := by
  rcases homeObeys_home h with he | ⟨dest, hmem, hmsgs, hlines⟩
  · rw [he]
  · have htl : ∀ k, (homeObeys n s).tline k = if k = n then some (sentLine n) else s.tline k := by
      intro k
      unfold State.tline
      rw [hlines]
      exact tline_sent s.lines n k
    by_cases hb : b / 128 = n
    · have hdata : (homeObeys n s).ownerData (b / 128) = some (s.lineData n) := by
        rw [ownerData_eq, htl, if_pos hb, hmsgs, hb]
        unfold dataOf
        rw [ownerMsg_sent h.2]
        rfl
      rw [byte_eq, hdata]
      dsimp only [State.lineData]
      rw [bytes_getD s _ _ _ (Nat.mod_lt _ (by decide)), show n * 128 + b % 128 = b by omega]
    · refine byte_congr ?_ (by rw [hmem])
      rw [ownerData_eq, ownerData_eq, htl, if_neg hb, hmsgs]
      unfold dataOf
      rw [ownerMsg_append (fun e => hb e.symm)]

theorem lineHome_homeObeys {s : State} {n k : Nat} (h : LineHome s n) (hk : LineHome s k) (hne : k ≠ n) :
    LineHome (homeObeys n s) k := by
  rcases homeObeys_home h with he | ⟨dest, _, hmsgs, hlines⟩
  · rwa [he]
  · refine ⟨?_, fun m hm => ?_⟩
    · unfold State.tline
      rw [hlines, tline_sent, if_neg hne]
      exact hk.1
    · rw [hmsgs, List.mem_append] at hm
      rcases hm with hm | hm
      · exact hk.2 m hm
      · rw [List.mem_singleton.mp hm]
        exact hne.symm

/-- Lines at home go to those that wait for them, with their bytes. -/
theorem byte_homeObeys_lines {l : List Nat} {s : State} (hl : l.Nodup) (h : ∀ n ∈ l, LineHome s n) (b : Nat) :
    (l.foldl (fun s n => homeObeys n s) s).byte b = s.byte b := by
  induction l generalizing s with
  | nil => rfl
  | cons n r ih =>
    obtain ⟨hn, hr⟩ := List.nodup_cons.mp hl
    have hhome := h n (List.mem_cons_self ..)
    refine (ih hr fun k hk => lineHome_homeObeys hhome (h k (List.mem_cons_of_mem _ hk)) ?_).trans (byte_homeObeys hhome b)
    rintro rfl
    exact hn hk

theorem rangeLines_nodup (a n : Nat) : (rangeLines a n).Nodup := by
  unfold rangeLines
  split
  · exact List.nodup_nil
  · exact List.Nodup.map (fun i j h => by simpa using h) List.nodup_range

/-- A line of a range has a byte of it. -/
theorem mem_rangeLines {a n k : Nat} (h : k ∈ rangeLines a n) : ∃ i, i < n ∧ k = (a + i) / 128 := by
  unfold rangeLines at h
  split at h
  case isTrue => simp at h
  case isFalse hn =>
    simp only [List.mem_map, List.mem_range] at h
    obtain ⟨j, hj, rfl⟩ := h
    by_cases h0 : j = 0
    · exact ⟨0, by omega, by omega⟩
    · exact ⟨128 * j - a % 128, by omega, by omega⟩

theorem byte_putBytes {s : State} (hs : s.mem.wf = true) (a b : Nat) (bs : List Byte) :
    (s.putBytes a bs).byte b = if a ≤ b ∧ b < a + bs.length then bs.getD (b - a) 0 else s.byte b := by
  unfold State.putBytes
  rw [byte_homeObeys_lines (rangeLines_nodup _ _), byte_putRun hs]
  intro k hk
  obtain ⟨i, hi, rfl⟩ := mem_rangeLines hk
  exact lineHome_putRun a hi rfl

/-! ## Numbers -/

theorem toBytes_length (n v : Nat) : (toBytes n v).length = n := by
  induction n generalizing v with
  | zero => rfl
  | succ n ih => simp [toBytes, ih]

theorem ofBytes_toBytes (n v : Nat) : ofBytes (toBytes n v) = v % 256 ^ n := by
  induction n generalizing v with
  | zero => simp [toBytes, ofBytes, Nat.mod_one]
  | succ n ih =>
    rw [toBytes, ofBytes, ih, Nat.pow_succ', Nat.mod_mul]
    rfl

theorem toBytes_getD (n v i : Nat) (h : i < n) : (toBytes n v).getD i 0 = BitVec.ofNat 8 (v / 256 ^ i) := by
  induction n generalizing v i with
  | zero => omega
  | succ n ih =>
    cases i with
    | zero => simp [toBytes]
    | succ j =>
      rw [toBytes, List.getD_cons_succ, ih _ j (by omega), Nat.pow_succ', Nat.div_div_eq_div_mul]

/-- Reading the bytes that were just written gives them. -/
theorem bytes_putBytes {s : State} (hs : s.mem.wf = true) (a : Nat) (bs : List Byte) :
    (s.putBytes a bs).bytes a bs.length = bs := by
  have hread : ∀ (n j : Nat), j + n = bs.length → (s.putBytes a bs).bytes (a + j) n = bs.drop j := by
    intro n
    induction n with
    | zero => intro j hj; exact (List.drop_eq_nil_of_le (by omega)).symm
    | succ n ih =>
      intro j hj
      rw [State.bytes, byte_putBytes hs, if_pos (by omega), Nat.add_assoc, ih (j + 1) (by omega),
        List.drop_eq_getElem_cons (by omega : j < bs.length), Nat.add_sub_cancel_left, List.getD_eq_getElem _ _ (by omega)]
  exact hread bs.length 0 (by omega)

theorem word_putWord {s : State} (hs : s.mem.wf = true) (a : Nat) (x : W64) : (s.putWord a x).word a = x := by
  have hb := bytes_putBytes hs a (toBytes 8 x.toNat)
  rw [toBytes_length] at hb
  unfold State.word State.putWord
  rw [hb, ofBytes_toBytes, Nat.mod_eq_of_lt (by exact x.isLt), BitVec.ofNat_toNat, BitVec.setWidth_eq]

theorem byte_of_number (x : W64) (i : Nat) : BitVec.ofNat 8 (x.toNat / 256 ^ i) = x.extractLsb' (8 * i) 8 := by
  apply BitVec.eq_of_toNat_eq
  rw [BitVec.toNat_ofNat, BitVec.extractLsb'_toNat, Nat.shiftRight_eq_div_pow, Nat.pow_mul]

theorem byte_putWord {s : State} (hs : s.mem.wf = true) (a n : Nat) (x : W64) (hn : n < 8) :
    (s.putWord a x).byte (a + n) = x.extractLsb' (8 * n) 8 := by
  unfold State.putWord
  rw [byte_putBytes hs, toBytes_length, if_pos (by omega), Nat.add_sub_cancel_left, toBytes_getD 8 _ n hn,
    byte_of_number]

/-! ## A byte in every copy of its line -/

/-- A byte of line `n` written in the holders of a line. -/
def putInLine (n i : Nat) (v : Byte) (l : TokLine) : TokLine :=
  if l.line = n then { l with rdc := l.rdc.map (fun h => h.put i v) } else l

/-- A byte of line `n` written in a message. -/
def putInMsg (n i : Nat) (v : Byte) (m : TokMsg) : TokMsg := if m.line = n then { m with data := m.data.set i v } else m

theorem putInLine_line (n i : Nat) (v : Byte) (l : TokLine) : (putInLine n i v l).line = l.line := by
  unfold putInLine
  split <;> rfl

theorem find_putInLine (l : List TokLine) (n i k : Nat) (v : Byte) :
    (l.map (putInLine n i v)).find? (fun x => decide (x.line = k)) =
      (l.find? (fun x => decide (x.line = k))).map (putInLine n i v) := by
  rw [List.find?_map]
  congr 2
  funext x
  simp [putInLine_line]

theorem ownerMsg_putInMsg (l : List TokMsg) (n i k : Nat) (v : Byte) :
    ownerMsg k (l.map (putInMsg n i v)) = (ownerMsg k l).map (putInMsg n i v) := by
  unfold ownerMsg
  rw [List.find?_map]
  congr 2
  funext x
  simp only [Function.comp, putInMsg]
  split <;> rfl

theorem ownerMsg_line {l : List TokMsg} {k : Nat} {m : TokMsg} (h : ownerMsg k l = some m) : m.line = k := by
  have hp := List.find?_some h
  rw [Bool.and_eq_true] at hp
  exact of_decide_eq_true hp.1

theorem tline_line {s : State} {k : Nat} {l : TokLine} (h : s.tline k = some l) : l.line = k := by
  simpa using List.find?_some h

/-- A byte written in every holder and message of its line changes no other line. -/
theorem dataOf_put_ne {line : Option TokLine} {msgs : List TokMsg} {n k i : Nat} {v : Byte} (h : k ≠ n)
    (hline : ∀ l, line = some l → l.line = k) :
    dataOf k (line.map (putInLine n i v)) (msgs.map (putInMsg n i v)) = dataOf k line msgs := by
  cases line with
  | none => rfl
  | some l =>
    have hl : putInLine n i v l = l := if_neg (hline l rfl ▸ h)
    have hm : ∀ m, ownerMsg k msgs = some m → putInMsg n i v m = m := fun m hm => if_neg (ownerMsg_line hm ▸ h)
    rw [Option.map_some, hl]
    unfold dataOf
    rw [ownerMsg_putInMsg]
    cases hown : ownerMsg k msgs with
    | none => rfl
    | some m => rw [Option.map_some, hm m hown]

/-- The line's own data has the byte in its place. -/
theorem dataOf_put {line : Option TokLine} {msgs : List TokMsg} {n i : Nat} {v : Byte} (hline : ∀ l, line = some l → l.line = n) :
    dataOf n (line.map (putInLine n i v)) (msgs.map (putInMsg n i v)) = (dataOf n line msgs).map (fun d => d.set i v) := by
  cases line with
  | none => rfl
  | some l =>
    have hl : putInLine n i v l = { l with rdc := l.rdc.map (fun h => h.put i v) } := if_pos (hline l rfl)
    have hfind : (l.rdc.map (fun h => h.put i v)).toList.find? (fun h => h.owner) =
        (l.rdc.toList.find? (fun h => h.owner)).map (fun h => h.put i v) := by
      rw [Vector.toList_map, List.find?_map]
      rfl
    rw [Option.map_some, hl]
    unfold dataOf
    dsimp only
    rw [hfind, ownerMsg_putInMsg]
    cases l.rdc.toList.find? (fun h => h.owner) with
    | some h => rfl
    | none =>
      cases hown : ownerMsg n msgs with
      | none => rfl
      | some m =>
        have hm : putInMsg n i v m = { m with data := m.data.set i v } := if_pos (ownerMsg_line hown)
        simp [hm]

theorem putByte_home {s : State} {a : Nat} {v : Byte} (h : s.tline (a / 128) = none) :
    s.putByte a v = { s with mem := s.mem.write a v } := by
  unfold State.putByte
  change (match s.tline (a / 128) with | none => _ | some _ => _) = _
  rw [h]

theorem putByte_away {s : State} {a : Nat} {v : Byte} {l : TokLine} (h : s.tline (a / 128) = some l) :
    s.putByte a v = { s with
      mem := s.mem.write a v
      lines := s.lines.map (putInLine (a / 128) (a % 128) v)
      tokMsgs := s.tokMsgs.map (putInMsg (a / 128) (a % 128) v) } := by
  unfold State.putByte
  change (match s.tline (a / 128) with | none => _ | some _ => _) = _
  rw [h]
  rfl

theorem ownerData_away {s : State} {a : Nat} {v : Byte} {l : TokLine} (h : s.tline (a / 128) = some l) (k : Nat) :
    (s.putByte a v).ownerData k =
      if k = a / 128 then (s.ownerData k).map (fun d => d.set (a % 128) v) else s.ownerData k := by
  rw [ownerData_eq, ownerData_eq, putByte_away h]
  have htl : ∀ t : State, t.lines = s.lines.map (putInLine (a / 128) (a % 128) v) →
      t.tline k = (s.tline k).map (putInLine (a / 128) (a % 128) v) := by
    intro t ht
    unfold State.tline
    rw [ht, find_putInLine]
  rw [htl _ rfl]
  split
  case isTrue hk => exact hk ▸ dataOf_put (fun l' hl' => tline_line hl')
  case isFalse hk => exact dataOf_put_ne hk (fun l' hl' => tline_line hl')

theorem mem_putByte (s : State) (a : Nat) (v : Byte) : (s.putByte a v).mem = s.mem.write a v := by
  cases h : s.tline (a / 128) with
  | none => rw [putByte_home h]
  | some l => rw [putByte_away h]

theorem getD_set (d : List Byte) (i j : Nat) (v : Byte) (hi : i < d.length) :
    (d.set i v).getD j 0 = if j = i then v else d.getD j 0 := by
  split
  case isTrue h => subst h; simp [List.getD, hi]
  case isFalse h => simp [List.getD, List.getElem?_set_ne (Ne.symm h)]

theorem byte_putByte {s : State} (hs : s.mem.wf = true)
    (hlen : ∀ (n : Nat) (d : List Byte), s.ownerData n = some d → d.length = 128) (a b : Nat) (v : Byte) :
    (s.putByte a v).byte b = if b = a then v else s.byte b := by
  have hread := Mem.read_write a b v s.mem hs
  cases h : s.tline (a / 128) with
  | none =>
    rw [putByte_home h]
    split
    case isTrue hb =>
      subst hb
      refine (byte_home (s := { s with mem := s.mem.write b v }) h).trans ?_
      exact hread.trans (if_pos rfl)
    case isFalse hb => exact byte_congr rfl (hread.trans (if_neg hb))
  | some l =>
    rw [byte_eq, byte_eq s, ownerData_away h, mem_putByte, hread]
    by_cases hk : b / 128 = a / 128
    · rw [if_pos hk]
      cases hd : s.ownerData (b / 128) with
      | none => rfl
      | some d =>
        have hsplit : b % 128 = a % 128 ↔ b = a := by omega
        dsimp only [Option.map_some]
        rw [getD_set _ _ _ _ (by rw [hlen _ _ hd]; exact Nat.mod_lt _ (by decide))]
        simp only [hsplit]
    · rw [if_neg hk, if_neg (fun e : b = a => hk (e ▸ rfl)), if_neg (fun e : b = a => hk (e ▸ rfl))]

/-- Settles O58: a byte is written in every copy of its line, and a run at home, from where it travels on with its line. -/
theorem memoryReadsBack : Obligations.MemoryReadsBack := by
  intro s hs hlen a b n v bs x
  exact ⟨byte_putByte hs hlen a b v, byte_putBytes hs a b bs, word_putWord hs a x, byte_putWord hs a n x⟩

end Sys2Proof.Proofs

/-! Stores: what a transfer puts into the LM map and into memory (09 R152, R155, R161, 13 R239). -/

namespace Sys2Proof.Proofs
open Sys2Proof Sys2Proof.Machine Sys2Proof.Laws

/-! ## Bytes outside the places of a transfer -/

theorem getD_set_ne (d : List Byte) {i j : Nat} (v : Byte) (h : j ≠ i) : (d.set i v).getD j 0 = d.getD j 0 := by
  simp [List.getD, List.getElem?_set_ne (Ne.symm h)]

/-- A byte written leaves every other byte as before, however long the copies of its line are. -/
theorem byte_putByte_ne {s : State} (hs : s.mem.wf = true) {a b : Nat} (v : Byte) (h : b ≠ a) :
    (s.putByte a v).byte b = s.byte b := by
  have hread := Mem.read_write_ne s.mem a b v hs h
  cases hl : s.tline (a / 128) with
  | none =>
    rw [putByte_home hl]
    exact byte_congr rfl hread
  | some l =>
    rw [byte_eq, byte_eq s, ownerData_away hl, mem_putByte, hread]
    by_cases hk : b / 128 = a / 128
    · rw [if_pos hk]
      cases s.ownerData (b / 128) with
      | none => rfl
      | some d => exact getD_set_ne d v (by omega)
    · rw [if_neg hk]

/-- A change of the LM of one core. -/
def updLm (s : State) (o : CoreId) (f : Mem → Mem) : State := s.updCore o (fun k => { k with lm := f k.lm })

theorem lmPut_some {s : State} {c o : CoreId} {a x : Nat} (v : Byte) (h : s.lmOwner c (a % 2 ^ 24) = some (o, x)) :
    s.lmPut c a v = updLm s o (fun m => m.write x v) := by
  unfold State.lmPut updLm
  rw [h]

theorem lmPut_none {s : State} {c : CoreId} {a : Nat} (v : Byte) (h : s.lmOwner c (a % 2 ^ 24) = none) : s.lmPut c a v = s := by
  unfold State.lmPut
  rw [h]

/-- Either the LM of the core behind an address changes, or nothing does. -/
theorem lmPut_cases (s : State) (c : CoreId) (a : Nat) (v : Byte) :
    s.lmPut c a v = s ∨ ∃ o x, s.lmOwner c (a % 2 ^ 24) = some (o, x) ∧ s.lmPut c a v = updLm s o (fun m => m.write x v) := by
  cases h : s.lmOwner c (a % 2 ^ 24) with
  | none => exact .inl (lmPut_none v h)
  | some p => exact .inr ⟨p.1, p.2, rfl, lmPut_some v h⟩

theorem core_updLm (s : State) (o o' : CoreId) (f : Mem → Mem) :
    (updLm s o f).core o' = { s.core o' with lm := if o = o' then f (s.core o').lm else (s.core o').lm } := by
  unfold updLm
  rw [State.core_updCore_if]
  by_cases h : o = o'
  · subst h; simp
  · simp [h]

theorem owner_lmPut (s : State) (c c' : CoreId) (a i : Nat) (v : Byte) :
    ((s.lmPut c a v).core c').owner c' i = (s.core c').owner c' i := by
  rcases lmPut_cases s c a v with h | ⟨o, x, -, h⟩
  · rw [h]
  · rw [h, core_updLm]
    rfl

theorem lmOwner_lmPut (s : State) (c c' : CoreId) (a b : Nat) (v : Byte) : (s.lmPut c a v).lmOwner c' b = s.lmOwner c' b := by
  unfold State.lmOwner
  rw [owner_lmPut]

theorem mem_lmPut (s : State) (c : CoreId) (a : Nat) (v : Byte) : (s.lmPut c a v).mem = s.mem := by
  rcases lmPut_cases s c a v with h | ⟨o, x, -, h⟩
  · rw [h]
  · rw [h]
    rfl

theorem lmWf_lmPut {s : State} {o : CoreId} (hs : (s.core o).lm.wf = true) (c : CoreId) (a : Nat) (v : Byte) :
    ((s.lmPut c a v).core o).lm.wf = true := by
  rcases lmPut_cases s c a v with h | ⟨p, x, -, h⟩
  · rwa [h]
  · rw [h, core_updLm]
    dsimp only
    split
    · exact Mem.write_wf _ _ _ hs
    · exact hs

theorem lm_lmPut_ne {s : State} {c o : CoreId} (hs : (s.core o).lm.wf = true) {a x : Nat} (v : Byte)
    (h : s.lmOwner c (a % 2 ^ 24) ≠ some (o, x)) : ((s.lmPut c a v).core o).lm.read x = (s.core o).lm.read x := by
  rcases lmPut_cases s c a v with he | ⟨p, y, hp, he⟩
  · rw [he]
  · rw [he, core_updLm]
    dsimp only
    split
    case isFalse => rfl
    case isTrue ho =>
      subst ho
      exact Mem.read_write_ne _ _ _ _ hs (fun hx => h (by rw [hp, hx]))

/-- Puts into the LM map leave every place that none of them names. -/
theorem lmApply_outside {c o : CoreId} {x : Nat} {ps : List Put} {s : State} (hs : (s.core o).lm.wf = true)
    (h : ∀ p ∈ ps, s.lmOwner c (p.addr.toNat % 2 ^ 24) ≠ some (o, x)) :
    ((lmApply c ps s).core o).lm.read x = (s.core o).lm.read x ∧ (lmApply c ps s).mem = s.mem := by
  induction ps generalizing s with
  | nil => exact ⟨rfl, rfl⟩
  | cons p r ih =>
    have hp := h p (List.mem_cons_self ..)
    obtain ⟨hread, hmem⟩ := ih (s := s.lmPut c p.addr.toNat ((s.lmByte c p.addr.toNat &&& p.keep) ||| p.val))
      (lmWf_lmPut hs c _ _) (fun q hq => by rw [lmOwner_lmPut]; exact h q (List.mem_cons_of_mem _ hq))
    exact ⟨hread.trans (lm_lmPut_ne hs _ hp), hmem.trans (mem_lmPut ..)⟩

/-- Puts into memory leave every byte that none of them names. -/
theorem memApply_outside {segs : List Seg} {b : Nat} {ps : List Put} {s : State} (hs : s.mem.wf = true)
    (h : ∀ p ∈ ps, dpaOf (segs.filter (fun g => match g.site with | .module .. => false | _ => true)) p.addr ≠ some b) :
    (memApply segs ps s).byte b = s.byte b := by
  induction ps generalizing s with
  | nil => rfl
  | cons p r ih =>
    have hp := h p (List.mem_cons_self ..)
    have hr := fun q hq => h q (List.mem_cons_of_mem _ hq)
    unfold memApply at ih ⊢
    rw [List.foldl_cons]
    split
    case h_2 => exact ih hs hr
    case h_1 a ha =>
      refine (ih (wf_State_putByte _ _ _ hs) hr).trans (byte_putByte_ne hs _ ?_)
      rintro rfl
      exact hp ha

/-- Settles O60. -/
theorem storesLeaveOtherBytes : Obligations.StoresLeaveOtherBytes := by
  intro c s ps segs
  exact ⟨fun hs o x h => lmApply_outside (hs o) h, fun hs b h => memApply_outside hs h⟩

/-! ## Units of a transfer in the LM map -/

/-- A quad whose sluice of the LM has let one unit in. -/
def meterLm (q : Quad) : Quad := { q with sluice := q.sluice.set 0 (q.sluice.get 0 - 128) (by decide) }

theorem letIn_lm {c : CoreId} {s : State} (h : 128 ≤ (s.quad (quadOf c)).sluice.get 0) :
    letIn c 0 [] s = some (s.setQuad (quadOf c) (meterLm (s.quad (quadOf c)))) := by
  unfold letIn
  rw [if_neg (Nat.not_lt.mpr h)]
  rfl

theorem meterLm_left (q : Quad) : (meterLm q).sluice.get 0 = q.sluice.get 0 - 128 := get_set_same q.sluice (0 : Fin 3) _

theorem setQuad_setQuad (s : State) (q : QuadId) (x y : Quad) : (s.setQuad q x).setQuad q y = s.setQuad q y := by
  simp [State.setQuad]

theorem setQuad_quad (s : State) (q : QuadId) : s.setQuad q (s.quad q) = s := by
  simp [State.setQuad, State.quad, get_eq]

/-- Units of the LM map are let in while the sluice has room, and change the quad alone. -/
theorem letAllIn_lm {c : CoreId} {n : Nat} {s : State} (h : 128 * n ≤ (s.quad (quadOf c)).sluice.get 0) :
    ∃ q, letAllIn c (List.replicate n (0, [])) s = (n, s.setQuad (quadOf c) q) := by
  induction n generalizing s with
  | zero => exact ⟨s.quad (quadOf c), by rw [setQuad_quad]; rfl⟩
  | succ n ih =>
    have hin := letIn_lm (c := c) (s := s) (by omega)
    obtain ⟨q, hq⟩ := ih (s := s.setQuad (quadOf c) (meterLm (s.quad (quadOf c)))) (by
      rw [State.quad_setQuad, meterLm_left]
      omega)
    refine ⟨q, ?_⟩
    rw [List.replicate_succ, letAllIn, hin]
    dsimp only
    rw [hq, setQuad_setQuad]

/-! ## The own window of the LM map -/

theorem lmOwner_own {s : State} {c : CoreId} {a : Nat} (h : a < 2 ^ 22) : s.lmOwner c (a % 2 ^ 24) = some (c, a) := by
  unfold State.lmOwner
  rw [Nat.mod_eq_of_lt (by omega : a < 2 ^ 24), Nat.div_eq_of_lt h, Nat.mod_eq_of_lt h]
  rfl

theorem lmOk_own {s : State} {c : CoreId} {a n : Nat} (hn : 0 < n) (h : a + n ≤ 2 ^ 22) : s.lmOk c a n = true := by
  unfold State.lmOk
  have h0 : a / 2 ^ 22 = 0 := Nat.div_eq_of_lt (by omega)
  have h1 : (a + n - 1) / 2 ^ 22 = 0 := Nat.div_eq_of_lt (by omega)
  rw [h0, h1, Bool.or_eq_true]
  exact .inr rfl

theorem putRun_cons (a : W64) (b : Byte) (bs : List Byte) : putRun a (b :: bs) = ⟨a, 0, b⟩ :: putRun (a + 1) bs := by
  unfold putRun
  rw [List.mapIdx_cons, BitVec.add_zero]
  congr 2
  funext i v
  rw [BitVec.add_assoc]
  congr 2
  rw [BitVec.ofNat_add, BitVec.add_comm]
  rfl

theorem updLm_updLm (s : State) (o : CoreId) (f g : Mem → Mem) : updLm (updLm s o f) o g = updLm s o (fun m => g (f m)) := by
  unfold updLm
  rw [State.updCore_updCore]

/-- Bytes put into the own window are written there, one after the other. -/
theorem lmApply_own {c : CoreId} {bs : List Byte} {a : W64} {s : State} (h : a.toNat + bs.length ≤ 2 ^ 22) :
    lmApply c (putRun a bs) s = updLm s c (fun m => m.writes a.toNat bs) := by
  induction bs generalizing a s with
  | nil => exact (updCore_self s c (f := fun k => { k with lm := k.lm.writes a.toNat [] }) rfl).symm
  | cons b r ih =>
    rw [List.length_cons] at h
    have hnext : (a + 1).toNat = a.toNat + 1 := by
      rw [BitVec.toNat_add]
      exact Nat.mod_eq_of_lt (by change a.toNat + 1 < 2 ^ 64; omega)
    have hput : s.lmPut c a.toNat ((s.lmByte c a.toNat &&& 0) ||| b) = updLm s c (fun m => m.write a.toNat b) := by
      rw [lmPut_some _ (lmOwner_own (by omega)), show (s.lmByte c a.toNat &&& 0) ||| b = b by simp]
    rw [putRun_cons]
    change lmApply c (putRun (a + 1) r) (s.lmPut c a.toNat ((s.lmByte c a.toNat &&& 0) ||| b)) = _
    rw [hput, ih (by omega), updLm_updLm, hnext]
    rfl

/-! ## Errors of the LM map -/

theorem lmBad_of_lmBads {s : State} {c o : CoreId} {w : Nat} (h : s.lmBads c = []) (hw : w < 4)
    (ho : (s.core c).owner c w = some o) : (s.core o).lmBad = [] := by
  have hmap := List.flatMap_eq_nil_iff.mp h w (List.mem_range.mpr hw)
  rw [ho] at hmap
  exact List.map_eq_nil_iff.mp hmap

theorem lmMend_none {s : State} {c : CoreId} (h : s.lmBads c = []) (a n : Nat) : s.lmMend c a n = s := by
  have hfold : ∀ l : List Nat, (∀ w ∈ l, w < 4) → l.foldl (fun s w => match (s.core c).owner c w with
      | some o => s.updCore o (fun k => { k with lmBad := k.lmBad.filter (fun g => !lmCovers (w * 2 ^ 22 + 8 * g) a n) })
      | none => s) s = s := by
    intro l hl
    induction l with
    | nil => rfl
    | cons w r ih =>
      have hstep : (match (s.core c).owner c w with
          | some o => s.updCore o (fun k => { k with lmBad := k.lmBad.filter (fun g => !lmCovers (w * 2 ^ 22 + 8 * g) a n) })
          | none => s) = s := by
        split
        case h_2 => rfl
        case h_1 o ho =>
          have hbad := lmBad_of_lmBads h (hl w (List.mem_cons_self ..)) ho
          refine updCore_self s o ?_
          rw [hbad, List.filter_nil, ← hbad]
      rw [List.foldl_cons, hstep]
      exact ih fun x hx => hl x (List.mem_cons_of_mem _ hx)
  exact hfold (List.range 4) fun w hw => List.mem_range.mp hw

theorem lmPart_none {s : State} {c : CoreId} (h : s.lmBads c = []) (a n : Nat) : s.lmPart c a n = none := by
  unfold State.lmPart
  rw [h]
  rfl

theorem lmBads_updLm (s : State) (o c : CoreId) (f : Mem → Mem) : (updLm s o f).lmBads c = s.lmBads c := by
  unfold State.lmBads
  simp only [core_updLm]
  rfl

/-! ## The transfer of a scalar access -/

/-- A scalar load or store through a record. -/
def ScalarAccess (i : Instr) : Prop :=
  (∃ h d i' o sz sx rep, i = .ldsc h d i' o sz sx rep) ∨ (∃ h v i' o sz, i = .stsc h v i' o sz)

/-- A scalar access whose record is there, and that no fault, no push and no earlier store holds, is performed by its plan. -/
theorem transfer_scalar {c : CoreId} {u : MemUnit} {r : Option Reply} {s : State} {a : Active} {sh : Rec}
    (hact : (s.core c).active_ u = some a) (hf : a.fault = false) (hst : u = .lde → (s.core c).loadStands = false)
    (hsh : a.shape = some sh) (hins : ScalarAccess a.q.ins) (hb : storeBehind s c u a = false) (hbusy : a.busy ≤ 1) :
    transfer c u r s = runPlan c u a r s := by
  have hstands : (decide (u = .lde) && (s.core c).loadStands) = false := by
    cases u with
    | lde => rw [hst rfl]; rfl
    | ste => rfl
  have hwait : ¬ 1 < a.busy := Nat.not_lt.mpr hbusy
  unfold transfer
  rcases hins with ⟨h, d, i', o, sz, sx, rep, hi⟩ | ⟨h, v, i', o, sz, hi⟩
  · simp [hact, hf, hstands, hsh, hi, hb, releases, holdsLde, streams, hwait]
  · simp [hact, hf, hstands, hsh, hi, hb, releases, holdsLde, streams, hwait]

theorem planWalks_lm (c : CoreId) (a : Active) (p : Plan) (s : State) : planWalks c a true p s = none := rfl

/-- The units of a scalar store in the LM map are metered by the sluice of the LM alone. -/
theorem unitPaths_stsc {s : State} {c : CoreId} {q : QEntry} {h : Head} {v : SSrc} {tid : Ref} {off : SOp} {sz : Size}
    (hi : q.ins = .stsc h v tid off sz) (va : W64) (n : Nat) (ps : List Put) (fl : Flags) :
    unitPaths s c q true (Plan.store [(va, n)] ps fl) = List.replicate ((va.toNat % 128 + n + 127) / 128) (0, []) := by
  unfold unitPaths
  rw [hi]
  simp [Plan.store]

/-- A scalar store whose range stands in the own window is done. -/
theorem moveLm_store {s : State} {c : CoreId} {va : W64} {bs : List Byte} (i : Instr) (h0 : 0 < bs.length)
    (hva : va.toNat + bs.length ≤ 2 ^ 22) (hbad : s.lmBads c = []) :
    ∃ lat, moveLm c i (Plan.store [(va, bs.length)] (putRun va bs) 0) s =
      .done (updLm s c (fun m => m.writes va.toNat bs)) none lat := by
  refine ⟨lmCycles i ([(va, bs.length)].any (fun x => decide (x.1.toNat / 2 ^ 22 % 4 ≠ 0))), ?_⟩
  have hok : [(va, bs.length)].all (fun x => s.lmOk c x.1.toNat x.2) = true := by simp [lmOk_own h0 hva]
  have hfault : lmFault s c [] [(va, bs.length)] = none := by simp [lmFault, lmPart_none hbad]
  have hmend : lmMended c [(va, bs.length)] (updLm s c (fun m => m.writes va.toNat bs)) =
      updLm s c (fun m => m.writes va.toNat bs) := by
    rw [lmMended, List.foldl_cons, List.foldl_nil]
    exact lmMend_none ((lmBads_updLm ..).trans hbad) _ _
  unfold moveLm Plan.store
  dsimp only [List.nil_append]
  rw [if_pos hok, hfault]
  dsimp only
  rw [lmApply_own hva, hmend]

theorem lm_finishEntry (u : MemUnit) (q : QEntry) (k : Core) : (finishEntry u q k).lm = k.lm := by
  cases u with
  | lde => rfl
  | ste =>
    unfold finishEntry
    dsimp only
    split <;> rfl

/-- The end of a transfer without a result changes no LM, no other core and no memory. -/
theorem moved_store (c : CoreId) (a : Active) (lat : Nat) (fl : Flags) (s : State) :
    (moved c .ste a none lat fl s).mem = s.mem ∧ ((moved c .ste a none lat fl s).core c).lm = (s.core c).lm ∧
    ∀ c', c' ≠ c → (moved c .ste a none lat fl s).core c' = s.core c' := by
  refine ⟨mem_moved .., ?_, fun c' hc => State.core_updCore_ne _ _ _ _ hc.symm⟩
  unfold moved
  rw [State.core_updCore]
  dsimp only
  split
  · exact lm_finishEntry ..
  · rfl

/-- A scalar store in the own window, whose units the sluice lets in, writes its bytes and moves on. -/
theorem performPlan_stsc {c : CoreId} {s : State} {a : Active} {h : Head} {v : SSrc} {tid : Ref} {off : SOp} {sz : Size}
    (hi : a.q.ins = .stsc h v tid off sz) {va : W64} {bs : List Byte} (h0 : 0 < bs.length) (h8 : bs.length ≤ 8)
    (hva : va.toNat + bs.length ≤ 2 ^ 22) (hroom : 256 ≤ (s.quad (quadOf c)).sluice.get 0) (hbad : s.lmBads c = []) :
    ∃ q a' lat, performPlan c .ste a true (Plan.store [(va, bs.length)] (putRun va bs) 0) none s =
      moved c .ste a' none lat 0 (updLm (s.setQuad (quadOf c) q) c (fun m => m.writes va.toNat bs)) := by
  obtain ⟨n, hn, hunits⟩ : ∃ n, n ≤ 2 ∧ (unitPaths s c a.q true (Plan.store [(va, bs.length)] (putRun va bs) 0)).drop a.paid =
      List.replicate n (0, []) :=
    ⟨(va.toNat % 128 + bs.length + 127) / 128 - a.paid, by omega, by rw [unitPaths_stsc hi, List.drop_replicate]⟩
  obtain ⟨q, hq⟩ := letAllIn_lm (c := c) (n := n) (s := s) (by omega)
  obtain ⟨lat, hmove⟩ := moveLm_store (s := s.setQuad (quadOf c) q) a.q.ins h0 hva hbad
  refine ⟨q, { a with paid := a.paid + n }, lat, ?_⟩
  have hplan : movePlan c .ste { a with paid := a.paid + n } (Plan.store [(va, bs.length)] (putRun va bs) 0) true none
      (s.setQuad (quadOf c) q) = .done (updLm (s.setQuad (quadOf c) q) c (fun m => m.writes va.toNat bs)) none lat := by
    rw [← hmove]
    unfold movePlan
    rw [hi]
    rfl
  unfold performPlan
  dsimp only [lmFound]
  rw [hunits, hq, List.length_replicate, if_neg (Nat.lt_irrefl n)]
  dsimp only
  rw [hplan, hi]
  rfl

/-- Settles O59: the transfer's plan is one run of bytes in the own window. -/
theorem scalarStoreToLm : Obligations.ScalarStoreToLm := by
  intro c s a r h src tid off sz hste hf hsh hlm hi hbusy va n hva hwf hroom hbad hb
  have h8 : n ≤ 8 := by cases sz <;> decide
  have h0 : 0 < n := by cases sz <;> decide
  have hlen : (toBytes n (val0 a.q 1).toNat).length = n := toBytes_length ..
  have hplan : planOf a.q r a.n a.src s.cyc = Plan.store [(va, n)] (putRun va (toBytes n (val0 a.q 1).toNat)) 0 := by
    unfold planOf
    rw [hi]
    rfl
  have hrun : runPlan c .ste a none s =
      performPlan c .ste a true (Plan.store [(va, n)] (putRun va (toBytes n (val0 a.q 1).toNat)) 0) none s := by
    unfold runPlan
    rw [hsh]
    dsimp only [Option.getD_some, Option.isSome_some]
    rw [hlm, hplan]
    rfl
  obtain ⟨q, a', lat, hdone⟩ := performPlan_stsc (c := c) (s := s) (va := va) (bs := toBytes n (val0 a.q 1).toNat) hi
    (by omega) (by omega) (by omega) hroom hbad
  rw [hlen] at hdone
  obtain ⟨hmem, hown, hother⟩ := moved_store c a' lat 0
    (updLm (s.setQuad (quadOf c) q) c (fun m => m.writes va.toNat (toBytes n (val0 a.q 1).toNat)))
  have hread : ((updLm (s.setQuad (quadOf c) q) c (fun m => m.writes va.toNat (toBytes n (val0 a.q 1).toNat))).core c).lm =
      (s.core c).lm.writes va.toNat (toBytes n (val0 a.q 1).toNat) := by
    rw [core_updLm]
    exact if_pos rfl
  refine ⟨_, congrArg Host.Outcome.next ((transfer_scalar (u := .ste) hste hf nofun hsh (.inr ⟨_, _, _, _, _, hi⟩) hb hbusy).trans
    (hrun.trans hdone)), hmem, fun i hlt => ?_, fun b hout => ?_, fun c' hc => ?_⟩
  · rw [hown, hread, Mem.read_writes_in _ _ _ _ hwf (by omega), ← byte_of_number, ← toBytes_getD n _ _ hlt]
    exact (List.getD_eq_getElem _ _ (by omega)).symm
  · rw [hown, hread]
    exact Mem.read_writes_out _ _ _ _ hwf (by omega)
  · rw [hother c' hc, core_updLm, if_neg hc.symm]
    rfl

end Sys2Proof.Proofs

/-! Events of the sequencer, of clocks and of power (02 R20 to R24, 07 R103 to R115, 12 R233, 15 R272 to R284). -/

namespace Sys2Proof.Proofs
open Sys2Proof Sys2Proof.Machine Sys2Proof.Laws

/-! ## Events of the sequencer -/

theorem cycGe_eq (a b : W64) : cycGe a b = decide (b.toNat ≤ a.toNat) := rfl

theorem sleepcWake_of {c : CoreId} {b : BerthId} {s : State} {t : W64} (h : (s.berth c b).wait = .sleepc t) :
    execSleepcWake c b s = .next (if t.toNat ≤ s.cyc.toNat then wake c b s else s) := by
  unfold execSleepcWake
  simp only [h, cycGe_eq, decide_eq_true_eq]
  split <;> rfl

theorem waitpWake_of {c : CoreId} {b : BerthId} {s : State} {o : Fin 4096} {ph : Bool} (h : (s.berth c b).wait = .waitp o ph)
    (he : s.objErrs c o = none) :
    execWaitpWake c b s = .next (if (s.core c).objPh o ≠ ph then objectWake c b o s else s) := by
  unfold execWaitpWake
  simp only [h, he]
  split <;> rfl

theorem sleeppWake_of {c : CoreId} {b : BerthId} {s : State} {o : Fin 4096} {ph : Bool} {prom : W64}
    (h : (s.berth c b).wait = .sleepp o ph prom) (he : s.objErrs c o = none) :
    execSleeppWake c b s = .next (if (s.core c).objPh o ≠ ph then objectWake c b o s
      else if prom ≠ 0 ∧ prom.toNat ≤ s.cyc.toNat then wakeTrap c b .pmiss prom s else s) := by
  unfold execSleeppWake
  simp only [h, he, cycGe_eq, decide_eq_true_eq]
  split
  · rfl
  · split <;> rfl

theorem barrierWake_flipped {c : CoreId} {b : BerthId} {s : State} {n : Fin 96} {ph : Bool} {t : W64}
    (h : (s.berth c b).wait = .bar n ph t) (hp : (s.core c).barPh n ≠ ph) :
    execBarrierWake c b s = .next ((wake c b s).updBerth c b (Berth.unmark n)) := by
  unfold execBarrierWake
  simp only [h, if_pos hp]

theorem barrierWake_still {c : CoreId} {b : BerthId} {s : State} {n : Fin 96} {ph : Bool} {t : W64}
    (h : (s.berth c b).wait = .bar n ph t) (hp : (s.core c).barPh n = ph) : execBarrierWake c b s = .next s := by
  unfold execBarrierWake
  simp only [h, if_neg (not_not.mpr hp)]

theorem barrierWaitTimeout_still {c : CoreId} {b : BerthId} {s : State} {n : Fin 96} {ph : Bool} {t : W64}
    (h : (s.berth c b).wait = .bar n ph t) (hp : (s.core c).barPh n = ph) :
    execBarrierWaitTimeout c b s = .next (if t.toNat ≤ s.cyc.toNat
      then wakeTrap c b .barto (((s.core c).bars.get n).2.1.zeroExtend 64) s else s) := by
  unfold execBarrierWaitTimeout
  simp only [h, hp, cycGe_eq, decide_true, Bool.and_true, decide_eq_true_eq]
  split <;> rfl

theorem tokinWake_of {c : CoreId} {b : BerthId} {s : State} {kd : MbKind} {mb : Byte} (h : (s.berth c b).wait = .tokin kd mb) :
    execTokinWake c b s = .next (match takeToken kd mb (s.core c).inbox with
      | some r => wake c b (s.updCore c (fun k => { k with inbox := r }))
      | none => s) := by
  unfold execTokinWake
  simp only [h]
  cases takeToken kd mb (s.core c).inbox <;> rfl

theorem tokoutWake_of {c : CoreId} {b : BerthId} {s : State} {kd : MbKind} {st : BitVec 6} {mb : Byte}
    (h : (s.berth c b).wait = .tokout kd st mb) :
    execTokoutWake c b s = .next (if tokenRoom s c then wake c b (enterToken kd st mb c s) else s) := by
  unfold execTokoutWake
  simp only [h]
  split <;> rfl

/-- Settles O21: each event by what its berth waits for. -/
theorem sequencerEventsRun : Obligations.SequencerEventsRun := by
  intro c b s x k go
  refine ⟨fun h => (exec_stallExpiry s).trans (if_pos h), fun h => (exec_stallExpiry s).trans (if_neg h),
    fun hr hn => (exec_berthSwitch s).trans ?_, fun h => (exec_berthSwitch s).trans ?_,
    fun hw hn hr => (exec_waitWake s).trans (if_pos ⟨hw, hn, hr⟩), fun t hw => (exec_sleepcWake s).trans (sleepcWake_of hw),
    fun o ph hw he => (exec_waitpWake s).trans (waitpWake_of hw he),
    fun o ph prom hw he => (exec_sleeppWake s).trans (sleeppWake_of hw he),
    fun n ph t hw => ⟨fun hp => (exec_barrierWake s).trans (barrierWake_flipped hw hp), fun hp =>
      ⟨(exec_barrierWake s).trans (barrierWake_still hw hp), (exec_barrierWaitTimeout s).trans (barrierWaitTimeout_still hw hp)⟩⟩,
    fun kd mb hw => (exec_tokinWake s).trans (tokinWake_of hw), fun kd st mb hw => (exec_tokoutWake s).trans (tokoutWake_of hw),
    exec_idleWake s, fun i l hg ht => (exec_tokenInboxRoom s).trans ?_⟩
  · unfold execBerthSwitch
    simp [show (s.core c).nextBerth = some b from hn, show (s.core c).running = false from hr, k]
  · unfold execBerthSwitch
    rcases h with h | h
    · simp only [show (s.core c).running = true from h]
      split <;> rfl
    · simp only [show (s.core c).nextBerth = none from h]
  · unfold execTokenInboxRoom
    have hnone : (s.part l.part).tokens.find? (fun t => t.owed.contains c && bit (l.record.get 1) 54
        && decide (fld (l.record.get 1) 61 56 = t.stage.toNat)) = none :=
      List.find?_eq_none.mpr (fun t hm => by simp [ht t hm])
    simp only [hg, hnone]

/-- Settles O22. -/
theorem heldTokenDelivered : Obligations.HeldTokenDelivered := by
  intro c s t i l k hg hf hgive p owed left
  refine (exec_tokenInboxRoom s).trans ?_
  unfold execTokenInboxRoom
  simp only [hg, hf, hgive]
  rfl

/-! ## Clock events -/

theorem weighed_toNat (counts : Fin 48 → Nat) (weight : Fin 48 → W16) : (weighed counts weight).toNat =
    min (((List.finRange 48).map (fun i => counts i * (weight i).toNat)).sum / 1024) 0xFFFFFFFF := by
  unfold weighed
  rw [BitVec.toNat_ofNat]
  exact Nat.mod_eq_of_lt (Nat.lt_of_le_of_lt (Nat.min_le_right _ _) (by decide))

theorem estimate_qest (x : Quad) (counts : Fin 48 → Nat) (l : List Byte) :
    (x.estimate counts l).qest = weighed counts (fun i => x.qpew.get i) := by
  unfold Quad.estimate
  dsimp only
  split
  · rfl
  · split
    · split <;> rfl
    · rfl

theorem estimate_qsig (x : Quad) (counts : Fin 48 → Nat) (l : List Byte) :
    (x.estimate counts l).qsig = weighed counts (Config.qsigWeight l) := by
  unfold Quad.estimate
  dsimp only
  split
  · rfl
  · split
    · split <;> rfl
    · rfl

theorem estimate_fall {x : Quad} {counts : Fin 48 → Nat} {l : List Byte}
    (h : Config.qceil l < weighed counts (Config.qsigWeight l)) : (x.estimate counts l).fall = true := by
  unfold Quad.estimate
  exact congrArg Quad.fall (if_pos (BitVec.lt_def.mp h))

/-- A quad's estimator after a window: its counts are the next 48 free values. -/
def estimated (q : QuadId) (s : State) : State :=
  { s.setQuad q ((s.quad q).estimate (activity s.free) s.ceilings) with free := s.free + 48 }

theorem quad_estimated (q : QuadId) (s : State) :
    (estimated q s).quad q = (s.quad q).estimate (activity s.free) s.ceilings := State.quad_setQuad s q _

theorem estimatorWindow_runs (q : QuadId) (s : State) :
    execEstimatorWindow q s =
      .next { estimated q s with todo := if s.moduleCeil < (estimated q s).estimate then s.todo ++ [.vecStepChange false] else s.todo } := by
  unfold execEstimatorWindow
  change Host.Outcome.next (if s.moduleCeil < (estimated q s).estimate then (estimated q s).push [.vecStepChange false] else estimated q s) = _
  split <;> rfl

theorem vecStepChange_moves {up : Bool} {s : State} (h : ¬(if up then s.vecHigh ≤ s.freq else s.freq ≤ s.vecLow)) :
    ∃ t, execVecStepChange up s = .next t ∧ t.freq = (if up then s.freq + 1 else s.freq - 1) ∧ t.clockStop = true := by
  unfold execVecStepChange
  rw [if_neg h]
  exact ⟨_, rfl, (apply_ite State.freq _ _ _).trans (ite_self _), (apply_ite State.clockStop _ _ _).trans (ite_self _)⟩

theorem clockStopEnd_runs (s : State) :
    execClockStopEnd s = .next (if s.stopEnd.toNat ≤ s.cyc.toNat then { s with clockStop := false } else s) := by
  unfold execClockStopEnd
  simp only [cycGe_eq, decide_eq_true_eq]

/-- Settles O23. -/
theorem clockEventsRun : Obligations.ClockEventsRun := by
  intro q d up s counted x
  refine ⟨exec_droopAlarm s, exec_stretchEnd s, exec_halfRateWindowEnd s,
    ⟨_, (exec_estimatorWindow s).trans (estimatorWindow_runs q s), rfl, ?_, ?_, fun h => ?_, rfl⟩, exec_intervalBoundary s,
    exec_thermalCeiling s, fun h => (exec_vecStepChange s).trans (if_pos h), fun h => ?_,
    (exec_clockStopEnd s).trans (clockStopEnd_runs s), exec_thermalTrip s⟩
  · exact (congrArg (fun y : Quad => y.qest.toNat) (quad_estimated q s)).trans
      ((congrArg BitVec.toNat (estimate_qest ..)).trans (weighed_toNat ..))
  · exact (congrArg (fun y : Quad => y.qsig.toNat) (quad_estimated q s)).trans
      ((congrArg BitVec.toNat (estimate_qsig ..)).trans (weighed_toNat ..))
  · refine (congrArg Quad.fall (quad_estimated q s)).trans (estimate_fall ?_)
    exact lt_of_lt_of_eq h ((congrArg Quad.qsig (quad_estimated q s)).trans (estimate_qsig ..))
  · exact vecStepChange_moves h

/-! ## Power events -/

theorem railsStable_on {q : QuadId} {s : State} (h : (s.quad q).power = .ramping) :
    ∃ t r, execRailsStable q s = .next t ∧ (t.quad q).power = .on ∧
      (t.die (dieOfQuad q)).admitted = (s.die (dieOfQuad q)).admitted.erase q ∧
      t.todo = s.todo ++ .inrushAdmit (dieOfQuad q) :: r := by
  unfold execRailsStable
  simp only [h]
  refine ⟨_, _, rfl, ?_, ?_, rfl⟩
  · exact congrArg Quad.power (State.quad_setQuad s q _)
  · exact congrArg Die.admitted (State.die_setDie _ _ _)

theorem wakeRequest_gated {q : QuadId} {s : State} {t : W64} {w : Bool} (h : (s.quad q).power = .gated t w) :
    execWakeRequest q s = .next (if holdTicks ≤ since s t then enterArbiter q s
      else (s.setQuad q { s.quad q with power := .gated t true }).later (holdTicks - since s t) (.wakeHoldExpiry q)) := by
  unfold execWakeRequest
  simp only [h]
  split <;> rfl

theorem inrushAdmit_full {d : DieId} {s : State} {q : QuadId} {r : List QuadId} (h : (s.die d).rush = q :: r)
    (hfull : 2 ≤ (s.die d).admitted.length) : execInrushAdmit d s = .next s := by
  unfold execInrushAdmit
  simp only [h, if_neg (Nat.not_lt.mpr hfull)]

theorem inrushAdmit_room {d : DieId} {s : State} {q : QuadId} {r : List QuadId} (h : (s.die d).rush = q :: r)
    (hroom : (s.die d).admitted.length < 2) : execInrushAdmit d s = .next
      (((s.setDie d { s.die d with rush := r, admitted := (s.die d).admitted ++ [q] }).setQuad q
        { s.quad q with power := .ramping }).later railTicks (.railsStable q)) := by
  unfold execInrushAdmit
  simp only [h, if_pos hroom]
  rfl

/-- Settles O24. -/
theorem powerEventsRun : Obligations.PowerEventsRun := by
  intro q d r t w s x
  refine ⟨fun he hp => (exec_quadPowerGate s).trans (congrArg Host.Outcome.next (if_pos ⟨he, hp⟩)),
    fun h => (exec_quadPowerGate s).trans (congrArg Host.Outcome.next (if_neg ?_)),
    fun h => (exec_wakeRequest s).trans (wakeRequest_gated h), fun h => (exec_wakeHoldExpiry s).trans ?_,
    fun h hfull => (exec_inrushAdmit s).trans (inrushAdmit_full h hfull),
    fun h hroom => (exec_inrushAdmit s).trans (inrushAdmit_room h hroom), fun h => railsStable_on h,
    fun h => (exec_railsStable s).trans (if_neg h)⟩
  · rintro ⟨he, hp⟩
    exact h.elim (fun hf => by rw [he] at hf; cases hf) (fun hn => hn hp)
  · unfold execWakeHoldExpiry
    simp only [show (s.quad q).power = .gated t true from h]

end Sys2Proof.Proofs

/-! Events of the vector pipe and of the load and store engines (02 R22, 08 R130, 09 R152 to R155). -/

namespace Sys2Proof.Proofs
open Sys2Proof Sys2Proof.Machine Sys2Proof.Laws

theorem updCore_congr {s : State} {c : CoreId} {f g : Core → Core} (h : f (s.core c) = g (s.core c)) :
    s.updCore c f = s.updCore c g := by
  unfold State.updCore
  rw [h]

/-! ## Writeback of one result -/

theorem due_nil (u : ResUnit) : due u [] = [] := rfl

theorem writeUnit_idle {c : CoreId} {u : ResUnit} {n : Nat} {s : State} (h : (s.core c).inflight = []) :
    writeUnit c u n s = s := by
  cases n with
  | zero => rfl
  | succ n =>
    unfold writeUnit takeDue
    rw [h]
    rfl

/-- The one result in flight is written. -/
theorem writeUnit_one {c : CoreId} {n : Nat} {s : State} {y : Pend} (h : (s.core c).inflight = [y]) (hu : y.unit = .seq)
    (hr : y.rem = 0) : writeUnit c .seq (n + 1) s =
      writeUnit c .seq n (writeback c y (s.setCore c { s.core c with inflight := [] })) := by
  have hdue : due .seq [y] = [y] := by simp [due, hu, hr]
  have htake : takeDue .seq (s.core c) = some (y, { s.core c with inflight := [] }) := by
    unfold takeDue
    rw [h, hdue]
    simp
  rw [writeUnit, htake]

/-- A scalar result of the sequencer, in its name and in LS. -/
def scalarWritten (sn : Fin 64) (w : W64) (x : Berth) : Berth := { x.setS sn (x.s.get sn ++ [w]) with ls := w }

theorem writeback_scalar {c : CoreId} {y : Pend} {s : State} {sn : Fin 64} {w : W64} (hu : y.unit = .seq) (ht : y.tok = 0)
    (hd : y.dst = .s sn) (hv : y.val = .s w) (hl : ((s.berth c y.berth).s.get sn).length < 2) :
    writeback c y s = s.updCore c (fun k => (k.updBerth y.berth (scalarWritten sn w)).raise y.flags) := by
  rw [writeback_some (by simp [hd]) (by rw [hd, hv]; exact pushS_room hl), hu, hv]
  change ((s.updBerth c y.berth _).updBerth c y.berth _).updCore c _ = _
  rw [updBerth_updBerth, State.updBerth, State.updCore_updCore]
  congr 1
  funext k
  exact if_pos ht

/-- What step 6 of a cycle does after the units' results: no load result is due. -/
theorem resultWriteback_no_loads {c : CoreId} {s t : State} (hw : writeUnit c .vxe 128 (writeUnit c .seq 128 s) = t)
    (hi : (t.core c).inflight = []) (hl : (t.core c).ldPush = []) : execResultWriteback c s = .next (t.updCore c (fun k =>
      { k with ldPush := [], inflight := [] })) := by
  unfold execResultWriteback
  dsimp only
  rw [hw, hl, hi, due_nil]
  change Host.Outcome.next ((t.updCore c _).updCore c _) = _
  rw [State.updCore_updCore]
  refine congrArg Host.Outcome.next (updCore_congr ?_)
  dsimp only
  rw [hi]
  rfl

theorem resultWriteback_scalar {c : CoreId} {s : State} {y : Pend} {sn : Fin 64} {w : W64} (hi : (s.core c).inflight = [y])
    (hp : (s.core c).ldPush = []) (hu : y.unit = .seq) (hr : y.rem = 0) (ht : y.tok = 0) (hd : y.dst = .s sn) (hv : y.val = .s w)
    (hl : ((s.berth c y.berth).s.get sn).length < 2) :
    ∃ t : State, execResultWriteback c s = .next t ∧ (t.berth c y.berth).s.get sn = (s.berth c y.berth).s.get sn ++ [w] ∧
      (t.berth c y.berth).ls = w ∧ (t.core c).inflight = [] := by
  have hk : ((s.setCore c { s.core c with inflight := [] }).core c) = { s.core c with inflight := [] } := State.core_setCore ..
  have hl' : (((s.setCore c { s.core c with inflight := [] }).berth c y.berth).s.get sn).length < 2 := by
    unfold State.berth
    rw [hk]
    exact hl
  have hw := writeback_scalar hu ht hd hv hl'
  have hcore : ((writeback c y (s.setCore c { s.core c with inflight := [] })).core c) =
      (({ s.core c with inflight := [] } : Core).updBerth y.berth (scalarWritten sn w)).raise y.flags := by
    rw [hw, State.core_updCore, hk]
  have hrun : writeUnit c .vxe 128 (writeUnit c .seq 128 s) = writeback c y (s.setCore c { s.core c with inflight := [] }) := by
    have hnone : ((writeback c y (s.setCore c { s.core c with inflight := [] })).core c).inflight = [] := by rw [hcore]; rfl
    rw [writeUnit_one hi hu hr, writeUnit_idle hnone, writeUnit_idle hnone]
  obtain ⟨t, ht⟩ : ∃ t, t = (writeback c y (s.setCore c { s.core c with inflight := [] })).updCore c (fun k =>
      { k with ldPush := [], inflight := [] }) := ⟨_, rfl⟩
  have hb : t.berth c y.berth = scalarWritten sn w (s.berth c y.berth) := by
    unfold State.berth
    rw [ht, State.core_updCore, hcore]
    exact Core.berth_updBerth _ _ _
  refine ⟨t, ht ▸ resultWriteback_no_loads hrun (by rw [hcore]; rfl) (by rw [hcore]; exact hp), ?_, by rw [hb]; rfl, ?_⟩
  · rw [hb]
    exact setS_get ..
  · rw [ht, State.core_updCore]

/-! ## Load results that wait for room -/

theorem loadPushes_one {c : CoreId} {y : Pend} {s : State} {m : Fin 1024} {e : VEntry} (hu : y.unit = .lde) (ht : y.tok = 0)
    (hd : y.dst = .v m) (hm : m.val < 256) (hv : y.val = .v e) (hl : (s.vFifo c m).length < 2) :
    loadPushes c [y] s = s.updCore c (fun k =>
      { k with file := k.file.set (m.val % 256) (k.file.get (Fin.ofNat 256 m.val) ++ [e]) (Nat.mod_lt _ (by decide)), ll := e,
               fileBad := k.fileBad.filter (· ≠ 265), fpf := k.fpf ||| y.flags }) := by
  have hback : loadback c y s = some _ := loadback_some (by rw [hd, hv]; exact pushV_room hl)
  unfold loadPushes
  rw [hback]
  unfold loadPushes
  dsimp only
  rw [hu, hv, setVFifo_append e hm, writeLatch_ll, State.updCore_updCore, State.updCore_updCore]
  refine updCore_congr ?_
  exact if_pos ht

theorem enginePushResume_one {c : CoreId} {y : Pend} {s : State} {m : Fin 1024} {e : VEntry} (hp : (s.core c).ldPush = [y])
    (hu : y.unit = .lde) (ht : y.tok = 0) (hd : y.dst = .v m) (hm : m.val < 256) (hv : y.val = .v e)
    (hl : (s.vFifo c m).length < 2) : ∃ t : State, execEnginePushResume c s = .next t ∧
      t.vFifo c m = s.vFifo c m ++ [e] ∧ (t.core c).ll = e ∧ (t.core c).ldPush = [] := by
  have hfifo : (s.updCore c (fun k => { k with ldPush := [] })).vFifo c m = s.vFifo c m := by
    rw [vFifo_own hm, vFifo_own hm, State.core_updCore]
  unfold execEnginePushResume
  rw [hp, loadPushes_one hu ht hd hm hv (by rwa [hfifo]), State.updCore_updCore]
  refine ⟨_, rfl, ?_, ?_, ?_⟩
  · rw [vFifo_own hm, vFifo_own hm, State.core_updCore]
    exact get_set_same (s.core c).file (Fin.ofNat 256 m.val) _
  · rw [State.core_updCore]
  · rw [State.core_updCore]

/-! ## Starts of entries -/

/-- An entry that its engine has just started. -/
def begunEntry (q : QEntry) (sh : Option Rec) : Active :=
  { q := q, shape := sh, n := 0, src := none, sent := false, lines := .start, busy := 0, paid := 0, fault := false,
    hold := none, age := 0 }

/-- The core with the entry out of its queue and its tokens taken. -/
def taken (c : CoreId) (u : MemUnit) (q : QEntry) (tk : Tokens) (s : State) : State :=
  s.setCore c { (s.core c).setQueue u (((s.core c).queueOf u).erase q) with tokens := tk, vbuf := (s.core c).vbuf - q.vops.length }

theorem startEntry_opens {c : CoreId} {u : MemUnit} {s : State} {q : QEntry} {tk : Tokens} (hn : nextEntry (s.core c) u = some q)
    (ht : Tokens.pop (s.core c).tokens (unitCls u) (pbOf q) = some tk) (hf : engineFree (s.core c) u = true)
    (hs : (s.core c).stopped = false) : startEntry c u s = openEntry c u q (taken c u q tk s) := by
  unfold startEntry
  simp [hn, ht, hf, hs]
  rfl

theorem startValues_plain {s : State} {c : CoreId} {q : QEntry} (h : usesRecord q.ins = false) :
    startValues s c q = some q ∧ coefErr s c q = none := by
  unfold startValues coefErr
  constructor
  · split
    case h_1 e => rw [e] at h; cases h
    case h_2 e => rw [e] at h; cases h
    case h_3 => rfl
  · split
    case h_1 e => rw [e] at h; cases h
    case h_2 => rfl

theorem openEntry_plain {c : CoreId} {u : MemUnit} {q : QEntry} {s : State} (h : usesRecord q.ins = false)
    (ht : startTrap q none = none) :
    openEntry c u q s = s.updCore c (fun k => k.setActive u (some (begunEntry q none))) := by
  obtain ⟨hv, he⟩ := startValues_plain (s := s) (c := c) h
  unfold openEntry
  simp only [h, ht, hv, he]
  rfl

theorem openEntry_record {c : CoreId} {u : MemUnit} {q p : QEntry} {s z : State} {sh : Rec} (h : usesRecord q.ins = true)
    (hm : recMore c q.ref s = none) (hr : readRec c q.ref s = .ok (sh, z)) (ht : startTrap q (some sh) = none)
    (hv : startValues z c q = some p) (he : coefErr z c q = none) :
    openEntry c u q s = z.updCore c (fun k => k.setActive u (some (begunEntry p (some sh)))) := by
  unfold openEntry
  simp only [h, hm, hr, ht, hv, he]
  rfl

theorem active_setActive (k : Core) (u : MemUnit) (a : Option Active) : (k.setActive u a).active_ u = a := by
  cases u <;> rfl

theorem queueOf_setActive (k : Core) (u : MemUnit) (a : Option Active) : (k.setActive u a).queueOf u = k.queueOf u := by
  cases u <;> rfl

theorem tokens_setActive (k : Core) (u : MemUnit) (a : Option Active) : (k.setActive u a).tokens = k.tokens := by
  cases u <;> rfl

theorem core_taken (c : CoreId) (u : MemUnit) (q : QEntry) (tk : Tokens) (s : State) : (taken c u q tk s).core c =
    { (s.core c).setQueue u (((s.core c).queueOf u).erase q) with tokens := tk, vbuf := (s.core c).vbuf - q.vops.length } :=
  State.core_setCore ..

theorem queueOf_taken (c : CoreId) (u : MemUnit) (q : QEntry) (tk : Tokens) (s : State) :
    ((taken c u q tk s).core c).queueOf u = ((s.core c).queueOf u).erase q := by
  rw [core_taken]
  cases u <;> rfl

/-- What the start of an entry without a record leaves in its core. -/
theorem begun_core (c : CoreId) (u : MemUnit) (q : QEntry) (tk : Tokens) (s : State) (a : Active) :
    (((taken c u q tk s).updCore c (fun k => k.setActive u (some a))).core c).active_ u = some a ∧
    (((taken c u q tk s).updCore c (fun k => k.setActive u (some a))).core c).queueOf u = ((s.core c).queueOf u).erase q ∧
    (((taken c u q tk s).updCore c (fun k => k.setActive u (some a))).core c).tokens = tk := by
  rw [State.core_updCore]
  refine ⟨active_setActive .., (queueOf_setActive ..).trans (queueOf_taken ..), ?_⟩
  rw [tokens_setActive, core_taken]

/-! ## Transfers -/

theorem active_finishEntry (u : MemUnit) (q : QEntry) (k : Core) : (finishEntry u q k).active_ u = none := by
  cases u with
  | lde => rfl
  | ste =>
    unfold finishEntry
    dsimp only
    split <;> rfl

/-- The last transfer of an entry ends it. -/
theorem active_moved {c : CoreId} {u : MemUnit} {a : Active} (h : a.q.rep ≤ a.n) (v : Option RVal) (lat : Nat) (fl : Flags)
    (s : State) : ((moved c u a v lat fl s).core c).active_ u = none := by
  unfold moved
  rw [State.core_updCore, decide_eq_true h]
  exact active_finishEntry ..

theorem holdsLde_scalar {i : Instr} (h : ScalarAccess i) : holdsLde i = false := by
  rcases h with ⟨h, d, i', o, sz, sx, rep, rfl⟩ | ⟨h, v, i', o, sz, rfl⟩ <;> rfl

/-- A plan whose units are all let in and whose transfer is done moves its entry on. -/
theorem performPlan_done {c : CoreId} {u : MemUnit} {a : Active} {lm : Bool} {p : Plan} {r : Option Reply} {s g : State}
    {v : Option RVal} {lat : Nat} (hins : ScalarAccess a.q.ins)
    (hall : (letAllIn c ((unitPaths s c a.q lm p).drop a.paid) s).1 = ((unitPaths s c a.q lm p).drop a.paid).length)
    (hm : movePlan c u { a with paid := a.paid + (letAllIn c ((unitPaths s c a.q lm p).drop a.paid) s).1 } p lm r
      (lmFound c lm r (letAllIn c ((unitPaths s c a.q lm p).drop a.paid) s).2) = .done g v lat) :
    performPlan c u a lm p r s =
      moved c u { a with paid := a.paid + (letAllIn c ((unitPaths s c a.q lm p).drop a.paid) s).1 } v lat p.flags g := by
  unfold performPlan
  dsimp only
  rw [if_neg (by omega), hm]
  dsimp only
  rw [holdsLde_scalar hins]
  rfl

theorem runPlan_of {c : CoreId} {u : MemUnit} {a : Active} {r : Option Reply} {s : State} {sh : Rec} (hsh : a.shape = some sh)
    (hw : planWalks c a (recLm sh) (planOf a.q sh a.n a.src s.cyc) s = none) :
    runPlan c u a r s = performPlan c u a (recLm sh) (planOf a.q sh a.n a.src s.cyc) r s := by
  unfold runPlan
  rw [hsh]
  dsimp only [Option.getD_some, Option.isSome_some]
  rw [Bool.true_and, hw]

theorem memoryTransfer_eq (c : CoreId) (u : MemUnit) (r : Reply) (s : State) :
    execMemoryTransferPerformed c u r s = .next (transfer c u (if r = .ok then none else some r) s) := by
  unfold execMemoryTransferPerformed
  cases r <;> rfl

theorem hostCompletion_sent {c : CoreId} {u : MemUnit} {r : Reply} {s : State} {a : Active} (h : (s.core c).active_ u = some a)
    (hs : a.sent = true) : execHostCompletion c u r s = .next (transfer c u (some r) s) := by
  unfold execHostCompletion
  rw [h]
  simp only [Option.map_some, Option.getD_some, hs]

theorem hostCompletion_good {c : CoreId} {u : MemUnit} {r : Reply} {s : State} (h : ∀ w : W64, r ≠ .uce w) :
    execHostCompletion c u r s = .next (transfer c u (some r) s) := by
  unfold execHostCompletion
  split
  case h_1 a _ => exact absurd rfl (h a)
  case h_2 => rfl

theorem hostCompletion_own {c : CoreId} {u : MemUnit} {w : W64} {s : State} (h : (s.core c).active_ u = none)
    (h1 : hostBase ≤ w.toNat) (h2 : w.toNat < 2 ^ 48) : execHostCompletion c u (.uce w) s = .next { s with
      bad := s.bad.filter (fun g => !decide (g = w.toNat / 8 * 8)) ++ [w.toNat / 8 * 8] } := by
  unfold execHostCompletion
  rw [h]
  exact congrArg Host.Outcome.next (if_pos ⟨h1, h2⟩)

/-! ## Tokens, deferred traps and counts -/

theorem engineEntryComplete_one {c : CoreId} {s : State} {cl : Cls} {pa : BitVec 2} {tk : Tokens} (h : (s.core c).retire = [(cl, pa)])
    (ht : Tokens.push (s.core c).tokens cl pa = some tk) :
    execEngineEntryComplete c s = .next (s.updCore c (fun k => { k with retire := [], tokens := tk })) := by
  unfold execEngineEntryComplete
  refine congrArg Host.Outcome.next (updCore_congr ?_)
  rw [h, List.foldl_cons, List.foldl_nil, if_neg (by simp [Core.retiring])]
  dsimp only
  rw [ht]

theorem engineEntryComplete_none {c : CoreId} {s : State} (h : (s.core c).retire = []) :
    execEngineEntryComplete c s = .next (s.updCore c (fun k => { k with retire := [] })) := by
  unfold execEngineEntryComplete
  refine congrArg Host.Outcome.next (updCore_congr ?_)
  rw [h]
  rfl

/-- A deferred trap of a berth that has exited: its unit's entries go, and a load or store trap posts a record. -/
theorem deferredTrap_exited {c : CoreId} {b : BerthId} {s : State} {t : DTrap} {ts : List DTrap} (h : (s.berth c b).pend = t :: ts)
    (hx : (s.berth c b).exited = true) : execDeferredTrapTaken c b s = .next (match t.unit with
      | .lde | .ste => coreFault c b 0x89 0 (t.code.num.zeroExtend 64) t.tval
          (s.updCore c (fun k => discardUnit t.unit b (k.updBerth b (fun x => { x with pend := ts }))))
      | .arr | .sf => s.updCore c (fun k => discardUnit t.unit b (k.updBerth b (fun x => { x with pend := ts })))) := by
  unfold execDeferredTrapTaken
  simp only [h, hx]
  rfl

theorem deferredTrap_taken {c : CoreId} {b : BerthId} {s : State} {t : DTrap} {ts : List DTrap} (h : (s.berth c b).pend = t :: ts)
    (hx : (s.berth c b).exited = false) (hu : (s.berth c b).unitHandler = false) : execDeferredTrapTaken c b s =
      .next ((if (s.berth c b).wait = .none
        then takeTrap c b t.code 7 t.tval (s.berth c b).pc (s.berth c b).pc (s.updBerth c b (fun x => { x with pend := ts }))
        else takeTrapWaiting c b t.code 7 t.tval (s.berth c b).pc (s.berth c b).pc (s.updBerth c b (fun x => { x with pend := ts }))).updBerth
          c b (fun y => { y with handlers := .unit t.unit :: (s.berth c b).handlers })) := by
  unfold execDeferredTrapTaken
  simp only [h, hx, hu]
  rfl

theorem deferredTrap_none {c : CoreId} {b : BerthId} {s : State}
    (h : (s.berth c b).pend = [] ∨ ((s.berth c b).exited = false ∧ (s.berth c b).unitHandler = true)) :
    execDeferredTrapTaken c b s = .next s := by
  unfold execDeferredTrapTaken
  rcases h with h | ⟨hx, hu⟩
  · simp only [h]
  · simp only [hx, hu]
    split
    case h_1 he => cases he
    case h_2 => rfl

theorem objectCount_good {c : CoreId} {s : State} {n : Count} {ns : List Count} (h : (s.core c).counts = n :: ns)
    (he : s.lmErr c (objAddr n.bo) 32 = none) :
    execObjectCount c s = .next (s.updCore c (fun k => applyCount { k with counts := ns } n)) := by
  unfold execObjectCount
  simp only [h, he]

theorem objectCount_bad {c : CoreId} {s : State} {n : Count} {ns : List Count} {l : Nat} (h : (s.core c).counts = n :: ns)
    (he : s.lmErr c (objAddr n.bo) 32 = some l) : execObjectCount c s = .next (coreFault c 0 0x02 1 (BitVec.ofNat 64 l)
      (BitVec.ofNat 64 l) (bump (hUncorr 0) 1 (s.updCore c (fun k => { k with counts := ns })))) := by
  unfold execObjectCount
  simp only [h, he]

theorem objectCount_none {c : CoreId} {s : State} (h : (s.core c).counts = []) : execObjectCount c s = .next s := by
  unfold execObjectCount
  simp only [h]

theorem vxeEntryStart_ready {c : CoreId} {s : State} {q : QEntry} {rest : List QEntry} (h : (s.core c).vxeQ = q :: rest)
    (hr : vxeReady (s.core c) = true) : execVxeEntryStart c s = .next (s.updCore c (fun k =>
      { k with vxeQ := rest, tokens := (Tokens.pop k.tokens .vxe (pbOf q)).getD k.tokens,
               inflight := k.inflight ++ [vxePend (vxeOut k q) q] })) := by
  unfold execVxeEntryStart
  simp only [h, if_pos hr]

theorem vxeEntryStart_still {c : CoreId} {s : State} (h : (s.core c).vxeQ = [] ∨ vxeReady (s.core c) = false) :
    execVxeEntryStart c s = .next s := by
  unfold execVxeEntryStart
  rcases h with h | h
  · simp only [h]
  · split
    · exact if_neg (by simp [h])
    · rfl

/-- Settles O25. -/
theorem pipeEventsRun : Obligations.PipeEventsRun := by
  intro c b u r q rest n ns t ts y sn m w e tk a sh s k x
  refine ⟨fun hi hp hu hr ht hd hv hl => resultWriteback_scalar hi hp hu hr ht hd hv hl,
    fun hp hu ht hd hm hv hl => enginePushResume_one hp hu ht hd hm hv hl, ?_, ?_,
    fun cl pa h ht => (exec_engineEntryComplete s).trans (engineEntryComplete_one h ht), exec_resultWriteback s,
    exec_enginePushResume s, fun h hr => (exec_vxeEntryStart s).trans (vxeEntryStart_ready h hr),
    fun h => (exec_vxeEntryStart s).trans (vxeEntryStart_still h), exec_ldeEntryStart s, exec_steEntryStart s,
    (exec_memoryTransferPerformed s).trans (memoryTransfer_eq c u r s),
    fun h => (exec_hostCompletion s).trans (hostCompletion_good h),
    fun w ha h1 h2 => ⟨_, (exec_hostCompletion s).trans (hostCompletion_own ha h1 h2), rfl⟩,
    fun h => (exec_engineEntryComplete s).trans (engineEntryComplete_none h),
    fun h => ⟨fun hx => (exec_deferredTrapTaken s).trans (deferredTrap_exited h hx), fun hx hu =>
      (exec_deferredTrapTaken s).trans (deferredTrap_taken h hx hu)⟩,
    fun h => (exec_deferredTrapTaken s).trans (deferredTrap_none h),
    fun h => ⟨fun he => (exec_objectCount s).trans (objectCount_good h he), fun l he =>
      (exec_objectCount s).trans (objectCount_bad h he)⟩,
    fun h => (exec_objectCount s).trans (objectCount_none h)⟩
  · intro starts s' begun hn ht hf hs
    have hstart : starts u = .next (openEntry c u q s') := by
      have := startEntry_opens hn ht hf hs
      cases u with
      | lde => exact congrArg Host.Outcome.next this
      | ste => exact congrArg Host.Outcome.next this
    refine ⟨fun hp htr => ?_, fun z p hrec hm hr htr hv he => ?_⟩
    · exact ⟨_, hstart.trans (congrArg Host.Outcome.next (openEntry_plain hp htr)), begun_core c u q tk s (begunEntry q none)⟩
    · exact hstart.trans (congrArg Host.Outcome.next (openEntry_record hrec hm hr htr hv he))
  · intro l p z hact hf hst hsh hins hb hbusy hw hall g v lat
    have hrun : ∀ r', transfer c u r' s = performPlan c u a (recLm sh) p r' s := fun r' =>
      (transfer_scalar hact hf hst hsh hins hb hbusy).trans (runPlan_of hsh hw)
    refine ⟨fun hr hm => ⟨?_, fun hrep => active_moved hrep _ _ _ _⟩, fun hm => ⟨?_, fun hrep => active_moved hrep _ _ _ _⟩⟩
    · have hhost : execHostCompletion c u r s = .next (transfer c u (some r) s) :=
        hr.elim (hostCompletion_sent hact) hostCompletion_good
      exact (exec_hostCompletion s).trans (hhost.trans (congrArg Host.Outcome.next ((hrun _).trans (performPlan_done hins hall hm))))
    · exact (exec_memoryTransferPerformed s).trans (congrArg Host.Outcome.next ((hrun _).trans (performPlan_done hins hall hm)))

end Sys2Proof.Proofs

/-! Events of the copy engine and the fabric (09 R177 to R187, 22 R345 to R348). -/

namespace Sys2Proof.Proofs
open Sys2Proof Sys2Proof.Machine Sys2Proof.Laws

/-! ## What reading records leaves of the copy engines -/

/-- The commands that stand in a core's copy engine and its queue, and the counts that it has sent. -/
def SameCopies (s t : State) : Prop :=
  ∀ c : CoreId, (t.core c).copies = (s.core c).copies ∧ (t.core c).cpyQ = (s.core c).cpyQ ∧ (t.core c).counts = (s.core c).counts

theorem SameCopies.refl (s : State) : SameCopies s s := fun _ => ⟨rfl, rfl, rfl⟩

theorem SameCopies.trans {s t u : State} (h : SameCopies s t) (k : SameCopies t u) : SameCopies s u := fun c =>
  ⟨(k c).1.trans (h c).1, (k c).2.1.trans (h c).2.1, (k c).2.2.trans (h c).2.2⟩

theorem sameCopies_of_cores {s t : State} (h : t.cores = s.cores) : SameCopies s t := by
  intro c
  unfold State.core
  rw [h]
  exact ⟨rfl, rfl, rfl⟩

theorem sameCopies_updCore (s : State) (c : CoreId) {f : Core → Core}
    (h : ∀ k, (f k).copies = k.copies ∧ (f k).cpyQ = k.cpyQ ∧ (f k).counts = k.counts) : SameCopies s (s.updCore c f) := by
  intro c'
  rw [State.core_updCore_if]
  split
  case isTrue e => exact e ▸ h _
  case isFalse => exact ⟨rfl, rfl, rfl⟩

theorem sameCopies_foldl {f : State → α → State} (hf : ∀ s x, SameCopies s (f s x)) (l : List α) (s : State) :
    SameCopies s (l.foldl f s) := by
  induction l generalizing s with
  | nil => exact SameCopies.refl s
  | cons a r ih => exact (hf s a).trans (ih _)

theorem sameCopies_foldl_snd {f : β × State → α → β × State} (hf : ∀ x a, SameCopies x.2 (f x a).2) (l : List α) (x : β × State) :
    SameCopies x.2 (l.foldl f x).2 := by
  induction l generalizing x with
  | nil => exact SameCopies.refl _
  | cons a r ih => exact (hf x a).trans (ih _)

theorem sameCopies_ite {c : Prop} [Decidable c] {s t u : State} (ht : SameCopies s t) (hu : SameCopies s u) :
    SameCopies s (if c then t else u) := by
  split
  · exact ht
  · exact hu

theorem sameCopies_fillDie (d : DieId) (e : TlbE) (s : State) : SameCopies s (fillDie d e s) := sameCopies_of_cores rfl

theorem sameCopies_fillWalk (d : DieId) (va : W64) (e : TlbE) (s : State) : SameCopies s (fillWalk d va e s) :=
  (sameCopies_foldl (fun s x => sameCopies_fillDie d x s) _ s).trans (sameCopies_fillDie d e _)

theorem sameCopies_useEntry (x : Ctx) (e : TlbE) (s : State) : SameCopies s (useEntry x e s) := by
  have hdie : ∀ s, SameCopies s (useDie x e s) := fun s =>
    sameCopies_ite (sameCopies_fillDie x.die e s) (sameCopies_fillWalk x.die _ e s)
  unfold useEntry
  split
  · exact (sameCopies_ite (SameCopies.refl s) (hdie s)).trans (sameCopies_updCore _ _ fun k => ⟨rfl, rfl, rfl⟩)
  · exact hdie s

theorem sameCopies_useSync (g : Seg) (s : State) : SameCopies s (useSync g s) :=
  sameCopies_of_cores (by unfold useSync; split <;> rfl)

theorem sameCopies_readVa {s t : State} {x : Ctx} {va : W64} {n : Nat} {bs : List Byte} (h : s.readVa x va n = .ok (bs, t)) :
    SameCopies s t := by
  obtain ⟨l, -, h⟩ := ok_of_bind h
  split at h
  · cases h
  · cases h
    have hfold : SameCopies s (l.foldl (fun s (g : Seg × TlbE) => useSync g.1 (useEntry x g.2 s)) s) :=
      sameCopies_foldl (fun s g => (sameCopies_useEntry x g.2 s).trans (sameCopies_useSync g.1 _)) l s
    exact sameCopies_ite (hfold.trans (sameCopies_of_cores rfl)) hfold

/-- What follows a read of memory, where it leaves the copy engines alone. -/
theorem sameCopies_after_readVa {s t : State} {x : Ctx} {va : W64} {n : Nat} {f : List Byte × State → Acc? (α × State)} {r : α}
    (hf : ∀ p z, f p = .ok z → SameCopies p.2 z.2) (h : (s.readVa x va n >>= f) = .ok (r, t)) : SameCopies s t := by
  obtain ⟨p, hp, h⟩ := ok_of_bind h
  exact (sameCopies_readVa hp).trans (hf p _ h)

theorem sameCopies_readRec {c : CoreId} {tid : Nat} {s t : State} {r : Rec} (h : readRec c tid s = .ok (r, t)) :
    SameCopies s t := by
  unfold readRec at h
  dsimp only at h
  split at h
  case h_2 => exact sameCopies_after_readVa (fun p z hz => by cases hz; exact sameCopies_of_cores rfl) h
  case h_1 e _ =>
    split at h
    case isFalse => exact sameCopies_after_readVa (fun p z hz => by cases hz; exact sameCopies_of_cores rfl) h
    case isTrue =>
      cases h
      exact sameCopies_of_cores rfl

theorem sameCopies_headRec {c : CoreId} {id tid : Nat} {s t : State} {r : Rec} (h : headRec c id tid s = .ok (r, t)) :
    SameCopies s t := by
  unfold headRec at h
  split at h
  · cases h
    exact SameCopies.refl s
  · exact sameCopies_readRec h

theorem cores_updChan (p : PartId) (g rank : Fin 64) (f : Channel → Channel) (s : State) : (updChan p g rank f s).cores = s.cores := by
  unfold updChan
  dsimp only
  split <;> rfl

theorem sameCopies_reserveAll (c : CoreId) (q : QEntry) (src dst : Rec) (ts : List Target) (s : State) :
    SameCopies s (reserveAll c q src dst ts s).2 := by
  unfold reserveAll
  refine sameCopies_foldl_snd (fun x t => ?_) ts ([], s)
  split
  · split
    · exact SameCopies.refl _
    · exact sameCopies_of_cores (cores_updChan ..)
  · exact SameCopies.refl _

/-! ## Commands that start -/

theorem freeCopy_congr {k k' : Core} (h : k'.copies = k.copies) : k'.freeCopy = k.freeCopy := by
  unfold Core.freeCopy
  rw [h]

theorem setObj_copies (k : Core) (bo : Fin 4096) (i : Nat) (v : W64) :
    (k.setObj bo i v).copies = k.copies ∧ (k.setObj bo i v).cpyQ = k.cpyQ := ⟨rfl, rfl⟩

theorem putObj_copies (k : Core) (bo : Fin 4096) (o : Obj) :
    (k.putObj bo o).copies = k.copies ∧ (k.putObj bo o).cpyQ = k.cpyQ := by
  unfold Core.putObj
  simp only [setObj_copies, and_self]

theorem promise_core (c : CoreId) (bo : Fin 4096) (p : W64) (s : State) :
    ((promise c bo p s).core c).copies = (s.core c).copies ∧ ((promise c bo p s).core c).cpyQ = (s.core c).cpyQ := by
  unfold promise applyCount
  rw [State.core_updCore]
  exact putObj_copies ..

theorem copies_setCopy (k : Core) (i : Fin 8) (y : Option Copy) : (k.setCopy i y).copies.get i = y := get_set_same k.copies i y

/-- A command that finds a free slot stands there, with its promise, its place behind earlier ones and its first tick. -/
theorem launchCopy_free {c : CoreId} {y : Copy} {lat delay : Nat} {s : State} {i : Fin 8} (h : (s.core c).freeCopy = some i) :
    ((launchCopy c y lat delay s).core c).cpyQ = (s.core c).cpyQ ∧
    ((launchCopy c y lat delay s).core c).copies.get i = some { y with
      at_ := s.cyc + BitVec.ofNat 64 delay, ahead := (s.core c).queued y.path y.q.id, bytes := y.left } := by
  unfold launchCopy
  dsimp only
  rw [h]
  dsimp only
  rw [State.core_updCore]
  exact ⟨(promise_core ..).2, copies_setCopy ..⟩

/-! ## Acceptance -/

theorem copyAccept_none {c : CoreId} {absent : W64} {s : State} (h : acceptable s c = none) : execCopyAccept c absent s = .next s := by
  unfold execCopyAccept
  simp only [h]

theorem copyAccept_reads {c : CoreId} {absent : W64} {s t : State} {q : QEntry} (h : acceptable s c = some q)
    (hr : recsMore c (copyTids q) s = some t) : execCopyAccept c absent s = .next (t.push [.copyAccept c absent]) := by
  unfold execCopyAccept
  simp only [h, hr]

/-- What a free value says of absent members, added to what the event says. -/
def toldAbsent (q : QEntry) (absent : W64) (s : State) : W64 := if needsMembers q then absent ||| Config.free s.free else absent

/-- The machine with the head of the copy queue taken. -/
def headTaken (c : CoreId) (q : QEntry) (s : State) : State :=
  (if needsMembers q then { s with free := s.free + 1 } else s).updCore c (fun k =>
    ({ k with cpyQ := k.cpyQ.drop 1 } : Core).perform q.id 4)

theorem headTaken_core (c : CoreId) (q : QEntry) (s : State) :
    ((headTaken c q s).core c).copies = (s.core c).copies ∧ ((headTaken c q s).core c).cpyQ = (s.core c).cpyQ.drop 1 := by
  unfold headTaken
  rw [State.core_updCore]
  split <;> exact ⟨rfl, rfl⟩

section
variable {c : CoreId} {absent : W64} {s : State} {q : QEntry} (h : acceptable s c = some q)
  (hr : recsMore c (copyTids q) s = none)
include h hr

theorem copyAccept_rls {hd : Head} {bo : Ref} {ch : SSrc} {n : SOp} (hi : q.ins = .rls hd bo ch n) :
    execCopyAccept c absent s = .next (acceptRls c q (toldAbsent q absent s) (headTaken c q s)) := by
  unfold execCopyAccept
  simp only [h, hr, hi]
  rfl

theorem copyAccept_acqw {hd : Head} {bo : Ref} {f n : SOp} (hi : q.ins = .acqw hd bo f n) :
    execCopyAccept c absent s = .next (match acqGroup ((headTaken c q s).part ((headTaken c q s).coreCtx c).part) (val0 q 0) with
      | some g => launchCopy c { plainCopy q with srcPlace := .member g 0 } (flagLat (headTaken c q s) c g (val0 q 0))
          (flagLat (headTaken c q s) c g (val0 q 0)) (headTaken c q s)
      | none => refuse c q (some 8) [] (errDown (val0 q 0)) 0 (headTaken c q s)) := by
  unfold execCopyAccept
  simp only [h, hr, hi]
  rfl

theorem copyAccept_agset {hd : Head} {bo : Ref} {f n : SOp} (hi : q.ins = .agset hd bo f n) :
    execCopyAccept c absent s = .next ((launchCopy c (plainCopy q) 200 0 (headTaken c q s)).push
      (((headTaken c q s).core c).freeCopy.map (fun i => Ev.copyUnitPerformed c i .ok)).toList) := by
  unfold execCopyAccept
  simp only [h, hr, hi]
  rfl

theorem copyAccept_moves (hm : movesBytes q.ins = true) :
    execCopyAccept c absent s = .next (acceptRecords c q (toldAbsent q absent s) (headTaken c q s)) := by
  unfold execCopyAccept
  simp only [h, hr]
  split
  case h_1 e => rw [e] at hm; cases hm
  case h_2 e => rw [e] at hm; cases hm
  case h_3 e => rw [e] at hm; cases hm
  case h_4 => rfl

end

/-- AGSET takes the first free slot, with 8 bytes to count. -/
theorem agset_starts {c : CoreId} {s : State} {q : QEntry} {i : Fin 8} {l : List Ev} (hf : (s.core c).freeCopy = some i) :
    ((((launchCopy c (plainCopy q) 200 0 (headTaken c q s)).push l).core c).cpyQ = (s.core c).cpyQ.drop 1) ∧
    ∃ z : Copy, (((launchCopy c (plainCopy q) 200 0 (headTaken c q s)).push l).core c).copies.get i = some z ∧ z.q = q ∧ z.left = 8 := by
  obtain ⟨hcopies, hq⟩ := headTaken_core c q s
  obtain ⟨hqueue, hslot⟩ := launchCopy_free (y := plainCopy q) (lat := 200) (delay := 0) ((freeCopy_congr hcopies).trans hf)
  exact ⟨hqueue.trans hq, _, hslot, rfl, rfl⟩

section
variable {c : CoreId} {q : QEntry} {told : W64} {t u w : State} {dst src : Rec}
  (hdst : headRec c q.id (lwTid (val0 q 0)) t = .ok (dst, u)) (hgood : recState dst = .good)
  (hfirst : firstError (targetsOf u c q dst told (copyBytes q dst)) = none)
  (hsrc : headRec c q.id (lwTid (val0 q 1)) u = .ok (src, w))
include hdst hgood hfirst hsrc

/-- Records that do not fit refuse their command with SHAPE. -/
theorem acceptRecords_shape (hbad : recState src ≠ .good ∨ shapesOk q.ins src dst = false) :
    acceptRecords c q told t = refuse c q
      (some (copyBytes q dst * (targetsOf u c q dst told (copyBytes q dst)).length + extraBytes q.ins))
      (goodTargets (targetsOf u c q dst told (copyBytes q dst))) errShape 0 w := by
  have hcond : (decide (recState src ≠ .good) || !shapesOk q.ins src dst) = true := by
    rcases hbad with h | h <;> simp [h]
  unfold acceptRecords
  simp only [hdst, hgood, hfirst, hsrc]
  exact if_pos hcond

/-- Records that fit, with their ends in place, start their command. -/
theorem acceptRecords_starts {sp : Place} {i : Fin 8} (hs : recState src = .good) (hshape : shapesOk q.ins src dst = true)
    (hsp : sourceOf w c q src told = .ok sp) (hlm : lmEndOk w sp q src dst false = true)
    (hends : ∀ x ∈ goodTargets (targetsOf u c q dst told (copyBytes q dst)), lmEndOk w x.place q src dst true = true)
    (hfree : (t.core c).freeCopy = some i) :
    ((acceptRecords c q told t).core c).cpyQ = (t.core c).cpyQ ∧ ∃ y : Copy,
      ((acceptRecords c q told t).core c).copies.get i = some y ∧ y.q = q ∧ y.src = src ∧ y.dst = dst ∧ y.srcPlace = sp ∧
      y.left = copyBytes q dst * (targetsOf u c q dst told (copyBytes q dst)).length + extraBytes q.ins ∧ y.unit = 0 := by
  have hany : (goodTargets (targetsOf u c q dst told (copyBytes q dst))).any (fun t => !lmEndOk w t.place q src dst true) = false :=
    List.any_eq_false.mpr (fun x hx => by simp [hends x hx])
  unfold acceptRecords
  simp only [hdst, hgood, hfirst, hsrc, hs, hshape, hsp, hlm, hany, ne_eq, not_true_eq_false, decide_false, Bool.not_true,
    Bool.or_self, if_false, Bool.false_eq_true]
  have hreserve := sameCopies_reserveAll c q src dst (goodTargets (targetsOf u c q dst told (copyBytes q dst))) w
  obtain ⟨hcopies, hqueue, -⟩ := ((sameCopies_headRec hdst).trans (sameCopies_headRec hsrc)).trans hreserve c
  obtain ⟨hq, hslot⟩ := launchCopy_free (lat := _) (delay := _) (y := _) ((freeCopy_congr hcopies).trans hfree)
  exact ⟨hq.trans hqueue, _, hslot, rfl, rfl, rfl, rfl, rfl, rfl⟩

end

/-! ## Units -/

theorem copyUnit_none {c : CoreId} {i : Fin 8} {r : Reply} {s : State} (h : (s.core c).copies.get i = none) :
    execCopyUnitPerformed c i r s = .next s := by
  unfold execCopyUnitPerformed
  simp only [h]

theorem copyUnit_moves {c : CoreId} {i : Fin 8} {r : Reply} {s : State} {y : Copy} (h : (s.core c).copies.get i = some y)
    (hm : movesBytes y.q.ins = true) : execCopyUnitPerformed c i r s = .next (moveCopy c i y r s) := by
  unfold execCopyUnitPerformed
  simp only [h]
  split
  case h_1 e => rw [e] at hm; cases hm
  case h_2 e => rw [e] at hm; cases hm
  case h_3 e => rw [e] at hm; cases hm
  case h_4 => rfl

theorem copyUnit_acqw {c : CoreId} {i : Fin 8} {r : Reply} {s : State} {y : Copy} (h : (s.core c).copies.get i = some y)
    {hd : Head} {bo : Ref} {f n : SOp} (hi : y.q.ins = .acqw hd bo f n) :
    execCopyUnitPerformed c i r s = .next (moveAcqw c i y s) := by
  unfold execCopyUnitPerformed
  simp only [h, hi]

theorem moveCopy_end {c : CoreId} {i : Fin 8} {r : Reply} {s : State} {y : Copy} (h : y.current = none) :
    moveCopy c i y r s = endCopy c i y s := by
  unfold moveCopy
  simp only [h]

theorem moveCopy_done {c : CoreId} {i : Fin 8} {r : Reply} {s w z : State} {y : Copy} {n : Nat} {t : Target} {data : List Byte}
    (h : y.current = some (n, t)) (hs : y.sent = false) (hp : y.paced s c (unitCount y.q y.dst y.unit) = true)
    (hw : unitWalks c y t s = none)
    (hl : letIn c (unitClass s c y.q y.src y.dst (sourceEnds s c y.q y.srcPlace) (s.endOf c t.place) y.unit) (copyDies s c y t) s = some w)
    (hr : runUnit c y t r w = .done z data) : moveCopy c i y r s = unitDone c i y n t data z := by
  unfold moveCopy
  simp [h, hs, hp, hw, hl, hr]

theorem counts_count (k : Core) (ev n : Nat) : (k.count ev n).counts = k.counts := rfl

theorem sameCopies_lookLines (c : CoreId) (home wr : Bool) (l : List Nat) (x : Lines × State) :
    SameCopies x.2 (lookLines c home wr l x).2 := by
  unfold lookLines
  refine sameCopies_foldl_snd (fun x n => ?_) l x
  split
  · exact SameCopies.refl _
  · refine sameCopies_ite (SameCopies.refl _) (sameCopies_ite ?_ (sameCopies_ite ?_ ?_))
    · exact sameCopies_updCore _ _ fun k => ⟨rfl, rfl, rfl⟩
    · exact sameCopies_updCore _ _ fun k => ⟨rfl, rfl, rfl⟩
    · exact sameCopies_updCore _ _ fun k => ⟨rfl, rfl, rfl⟩

/-- A look at a flag word sends no count. -/
theorem counts_countLook (c : CoreId) (i : Fin 8) (y : Copy) (g : Fin 64) (s : State) :
    ((countLook c i y g s).core c).counts = (s.core c).counts := by
  unfold countLook
  split
  · rfl
  · split
    · rfl
    · have hset : ((s.updCore c (fun k => k.setCopy i (some { y with unit := 1 }))).core c).counts = (s.core c).counts := by
        rw [State.core_updCore]
        rfl
      dsimp only
      split
      · rw [State.core_updCore, counts_count]
        exact (sameCopies_lookLines _ _ _ _ _ c).2.2.trans hset
      · exact hset

theorem sendCount_core (c : CoreId) (bo : Fin 4096) (n : Option Nat) (e : Option Err) (s : State) :
    (sendCount c bo n e s).core c =
      { s.core c with counts := (s.core c).counts ++ [{ bo := bo, n := n, err := e, prom := none }] } :=
  State.core_updCore s c (fun k => { k with counts := k.counts ++ [{ bo := bo, n := n, err := e, prom := none }] })

/-- A command of 8 bytes that ends without an error counts them, and leaves its slot. -/
theorem endPlain_core (c : CoreId) (i : Fin 8) (q : QEntry) (a : W64) (s : State) :
    ((endPlain c i q none a s).core c).copies.get i = none ∧
    ((endPlain c i q none a s).core c).counts = (s.core c).counts ++ [{ bo := issuerObj q, n := some 8, err := none, prom := none }] := by
  have hcore : (endPlain c i q none a s).core c = (((sendCount c (issuerObj q) (some 8) none s).core c).setCopy i none).counted q.id :=
    State.core_updCore (sendCount c (issuerObj q) (some 8) none s) c (fun k => (k.setCopy i none).counted q.id)
  rw [hcore, sendCount_core]
  exact ⟨copies_setCopy _ i none, rfl⟩

theorem moveAcqw_met {c : CoreId} {i : Fin 8} {y : Copy} {s : State} {g rank : Fin 64} {w : W64} (hp : y.srcPlace = .member g rank)
    (hf : flagWord (countLook c i y g s) c g (val0 y.q 0) = .ok w) (hv : (val0 y.q 1).toNat ≤ w.toNat) :
    moveAcqw c i y s = endPlain c i y.q none 0 (countLook c i y g s) := by
  unfold moveAcqw
  simp only [hp, hf, if_pos hv]

/-! ## Groups -/

theorem agsetInstall_none {c : CoreId} {s : State} (h : agsetReady (s.core c) = none) : execAgsetInstall c s = .next s := by
  unfold execAgsetInstall
  simp only [h]

/-- The group that an AGSET names, as its record gives it. -/
def newGroup (c : CoreId) (y : Copy) (s : State) : Group :=
  { record := groupRecord (s.core c) (val0 y.q 1).toNat, chans := .replicate 64 Channel.zero }

section
variable {c : CoreId} {s : State} {i : Fin 8} {y : Copy} (h : agsetReady (s.core c) = some (i, y))
  (he : s.lmErr c (val0 y.q 1).toNat 512 = none)
include h he

theorem agsetInstall_defect {d : Nat × Bool} (hd : (groupDefects s (s.coreCtx c).part (Fin.ofNat 64 (val0 y.q 0).toNat)
      (newGroup c y s)).find? (fun d => d.2) = some d) :
    execAgsetInstall c s = .next (endPlain c i y.q (some ⟨0x0B, BitVec.ofNat 64 d.1⟩) 0 s) := by
  unfold newGroup at hd
  unfold execAgsetInstall
  simp only [h, he, hd]

theorem agsetInstall_good (hd : (groupDefects s (s.coreCtx c).part (Fin.ofNat 64 (val0 y.q 0).toNat)
      (newGroup c y s)).find? (fun d => d.2) = none) :
    execAgsetInstall c s = .next (endPlain c i y.q none 0
      ((groupDown (s.coreCtx c).part (Fin.ofNat 64 (val0 y.q 0).toNat) s).setPart (s.coreCtx c).part
        { (groupDown (s.coreCtx c).part (Fin.ofNat 64 (val0 y.q 0).toNat) s).part (s.coreCtx c).part with
          groups := ((groupDown (s.coreCtx c).part (Fin.ofNat 64 (val0 y.q 0).toNat) s).part (s.coreCtx c).part).groups.set
            (Fin.ofNat 64 (val0 y.q 0).toNat : Fin 64).val (some (newGroup c y s)) (Fin.ofNat 64 (val0 y.q 0).toNat : Fin 64).isLt })) := by
  unfold newGroup at hd ⊢
  unfold execAgsetInstall
  simp only [h, he, hd]

end

/-! ## Flags and writes -/

/-- Charging the ingress of dies changes no partition. -/
theorem parts_enterDies {p : PartId} {l : List DieId} {s t : State} (h : enterDies p l s = some t) : t.parts = s.parts := by
  have hfold : ∀ (l : List DieId) (s : State), (l.foldl (fun (t : State) d =>
      t.setDie d { t.die d with ingress := (t.die d).ingress.set p.val ((t.die d).ingress.get p - 1) p.isLt }) s).parts = s.parts := by
    intro l
    induction l with
    | nil => exact fun _ => rfl
    | cons d r ih => exact fun s => (ih _).trans rfl
  unfold enterDies at h
  split at h
  · cases h
  · cases h
    exact hfold l s

theorem part_enterDies {p p' : PartId} {l : List DieId} {s t : State} (h : enterDies p l s = some t) : t.part p' = s.part p' := by
  unfold State.part
  rw [parts_enterDies h]

theorem applyFlag_new {p : PartId} {g rank : Fin 64} {x : Group} {m : FlagMsg} {s u : State} (hx : (s.part p).groups.get g = some x)
    (hn : serialGe (x.chans.get rank).rseq m.sseq = false)
    (hw : (updChan p g rank (fun ch => { ch with rseq := m.sseq }) s).writeVa ⟨p, x.fctx, 0, none⟩
      (x.flagva + BitVec.ofNat 64 (8 * m.flag.toNat)) (toBytes 8 m.val.toNat) = .ok u) :
    applyFlag p g rank x m s = if s.isSelf x rank.val then u.later 1900 (.rlsAckReceived p g rank m.sseq) else u := by
  unfold applyFlag
  simp only [hx, hn, hw]
  rfl

theorem flagAcked_unacked (b : W32) (ch : Channel) :
    (ch.flagAcked b).unackedFlags = ch.unackedFlags.filter (fun m => !decide (m.sseq = b)) := by
  unfold Channel.flagAcked
  dsimp only
  split <;> rfl

section
variable {p : PartId} {g rank : Fin 64} {s : State} (h : (s.part p).groups.get g = none)
include h

theorem rlsMessage_absent (a b : W32) (flag : BitVec 12) (v : W64) : execRlsMessageReceived p g rank a b flag v s = .next s := by
  unfold execRlsMessageReceived
  simp only [h]

theorem fabricWrite_absent (m : FabMsg) :
    execFabricWriteReceived p g rank m.num m.ppa m.va m.bytes m.comb (m.obj, m.err) s = .next s := by
  unfold execFabricWriteReceived
  simp only [h]

theorem fabricResend_absent : execFabricResend p g rank s = .next s := by
  unfold execFabricResend
  simp only [h]

end

section
variable {p : PartId} {g rank : Fin 64} {s : State} {x : Group} (h : (s.part p).groups.get g = some x)
include h

theorem rlsMessage_present (a b : W32) (flag : BitVec 12) (v : W64) :
    execRlsMessageReceived p g rank a b flag v s = .next (match enterDies p (if s.isSelf x rank.val then [] else
        portDies s (x.mod rank.val) (arriving s p x (x.mod rank.val) false false true (x.flagva + BitVec.ofNat 64 (8 * flag.toNat)) 8)) s with
      | none => s.later s.nextInterval (.rlsMessageReceived p g rank a b flag v)
      | some s => if serialGe (x.chans.get rank).rcnt a
          then applyFlag p g rank x { scnt := a, sseq := b, flag := flag, val := v, via := none } s
          else updChan p g rank (fun ch => { ch with
            heldFlags := ch.heldFlags ++ [{ scnt := a, sseq := b, flag := flag, val := v, via := none }] }) s) := by
  unfold execRlsMessageReceived
  simp only [h]
  cases enterDies p (if s.isSelf x rank.val then [] else portDies s (x.mod rank.val)
    (arriving s p x (x.mod rank.val) false false true (x.flagva + BitVec.ofNat 64 (8 * flag.toNat)) 8)) s with
  | none => rfl
  | some w =>
    dsimp only
    split <;> rfl

theorem fabricWrite_old {m : FabMsg} (hn : serialGe (x.chans.get rank).rcnt m.num = true) :
    execFabricWriteReceived p g rank m.num m.ppa m.va m.bytes m.comb (m.obj, m.err) s = .next s := by
  unfold execFabricWriteReceived
  simp only [h, hn]
  rfl

theorem fabricWrite_waits {m : FabMsg} (hn : serialGe (x.chans.get rank).rcnt m.num = false)
    (hw : enterDies p (portDies s (x.mod rank.val) (arriving s p x (x.mod rank.val) m.ppa false true m.va m.bytes.length)) s = none) :
    execFabricWriteReceived p g rank m.num m.ppa m.va m.bytes m.comb (m.obj, m.err) s =
      .next (s.later s.nextInterval (.fabricWriteReceived p g rank m.num m.ppa m.va m.bytes m.comb (m.obj, m.err))) := by
  unfold execFabricWriteReceived
  simp only [h, hn, hw]
  rfl

theorem fabricWrite_taken {m : FabMsg} {t : State} (hn : serialGe (x.chans.get rank).rcnt m.num = false)
    (hw : enterDies p (portDies s (x.mod rank.val) (arriving s p x (x.mod rank.val) m.ppa false true m.va m.bytes.length)) s = some t) :
    execFabricWriteReceived p g rank m.num m.ppa m.va m.bytes m.comb (m.obj, m.err) s =
      .next (releaseFlags p g rank (applyWrites p g rank ((x.chans.get rank).early.length + 1)
        (updChan p g rank (fun ch => { ch with early := ch.early ++ [{ m with via := none }] }) t))) := by
  unfold execFabricWriteReceived
  simp only [h, hn, hw]
  rfl

theorem fabricResend_other (hs : s.isSelf x rank.val = false) :
    execFabricResend p g rank s = .next (updChan p g rank (Channel.resent (s.portTo (x.mod rank.val))) s) := by
  unfold execFabricResend
  simp only [h, hs]
  rfl

theorem fabricResend_self {f : FlagMsg} (hs : s.isSelf x rank.val = true) (hf : (x.chans.get rank).unackedFlags = [f]) :
    execFabricResend p g rank s = .next (s.later 1900 (.rlsMessageReceived p g rank f.scnt f.sseq f.flag f.val)) := by
  unfold execFabricResend
  simp only [h, hs, hf]
  rfl

end

theorem rlsAck_eq (p : PartId) (g rank : Fin 64) (b : W32) (s : State) : execRlsAckReceived p g rank b s =
    .next (match rlsWaiting (updChan p g rank (Channel.flagAcked b) s) p g rank b with
      | some (c, i, q) => endPlain c i q none 0 (updChan p g rank (Channel.flagAcked b) s)
      | none => updChan p g rank (Channel.flagAcked b) s) := by
  unfold execRlsAckReceived
  dsimp only
  cases rlsWaiting (updChan p g rank (Channel.flagAcked b) s) p g rank b <;> rfl

/-- A request for a partition without EN, or of a module that no group of it names, finds nothing that serves it. -/
theorem servedBy_none {s : State} {p : PartId} {grp : Option (Fin 64)} {m : Nat}
    (h : (s.part p).en = false ∨ (∃ k, grp = some k ∧ (s.part p).groups.get k = none) ∨ (grp = none ∧ (s.part p).groupOf m = none)) :
    servedBy s p grp m = none := by
  unfold servedBy
  rcases h with h | ⟨k, rfl, h⟩ | ⟨rfl, h⟩
  · simp [h]
  · simp [h]
  · simp [h]

theorem fabricRequest_unserved {p : PartId} {grp : Option (Fin 64)} {va : W64} {n : Fin 129} {op : Option (AmoOp × Bool × W64 × W64)}
    {m : BitVec 6} {s : State} (h : servedBy s p grp m.toNat = none) : execFabricRequestReceived p grp va n op m s = .next s := by
  unfold execFabricRequestReceived
  simp only [h]

/-- Settles O26. -/
theorem copyEventsRun : Obligations.CopyEventsRun := by
  intro c absent i r q y p g rank a b flag v m x s
  refine ⟨fun h => (exec_copyAccept s).trans (copyAccept_none h),
    fun t h hr => (exec_copyAccept s).trans (copyAccept_reads h hr), ?_,
    fun h => (exec_copyUnitPerformed s).trans (copyUnit_none h), ?_,
    fun h => (exec_agsetInstall s).trans (agsetInstall_none h),
    fun h he => ⟨fun d hd => (exec_agsetInstall s).trans (agsetInstall_defect h he hd),
      fun hd => (exec_agsetInstall s).trans (agsetInstall_good h he hd)⟩,
    fun h => ⟨(exec_rlsMessageReceived s).trans (rlsMessage_absent h a b flag v),
      (exec_fabricWriteReceived s).trans (fabricWrite_absent h m), (exec_fabricResend s).trans (fabricResend_absent h)⟩, ?_,
    ⟨flagAcked_unacked b, (exec_rlsAckReceived s).trans (rlsAck_eq p g rank b s)⟩,
    fun grp n op from_ h => (exec_fabricRequestReceived s).trans (fabricRequest_unserved (servedBy_none h))⟩
  · intro h hr
    refine ⟨fun hd bo ch n hi => (exec_copyAccept s).trans (copyAccept_rls h hr hi),
      fun hd bo f n hi => (exec_copyAccept s).trans (copyAccept_acqw h hr hi),
      fun hd bo f n hi => (exec_copyAccept s).trans (copyAccept_agset h hr hi),
      fun hd bo f n hi hf => ?_,
      fun hm => ⟨(exec_copyAccept s).trans (copyAccept_moves h hr hm), fun dst src u w hdst hgood hfirst hsrc => ⟨fun hbad => ?_, ?_⟩⟩⟩
    · obtain ⟨hq, z, hz⟩ := agset_starts (q := q) (l := (((headTaken c q s).core c).freeCopy.map
        (fun i => Ev.copyUnitPerformed c i .ok)).toList) hf
      exact ⟨_, z, (exec_copyAccept s).trans (copyAccept_agset h hr hi), hq, hz⟩
    · exact (exec_copyAccept s).trans ((copyAccept_moves h hr hm).trans
        (congrArg Host.Outcome.next (acceptRecords_shape hdst hgood hfirst hsrc hbad)))
    · intro sp hs hshape hsp hlm hends hfree
      obtain ⟨hcopies, hqueue⟩ := headTaken_core c q s
      obtain ⟨hq, z, hz⟩ := acceptRecords_starts hdst hgood hfirst hsrc hs hshape hsp hlm hends
        ((freeCopy_congr hcopies).trans hfree)
      exact ⟨_, z, (exec_copyAccept s).trans (copyAccept_moves h hr hm), hq.trans hqueue, hz⟩
  · intro h
    refine ⟨fun hm => ?_, fun hd bo f n hi => ?_⟩
    · have hmoves := (exec_copyUnitPerformed s).trans (copyUnit_moves (r := r) h hm)
      exact ⟨hmoves, fun hcur => hmoves.trans (congrArg Host.Outcome.next (moveCopy_end hcur)),
        fun n t w z data hcur hs hp hw hl hr => hmoves.trans (congrArg Host.Outcome.next (moveCopy_done hcur hs hp hw hl hr))⟩
    · have hmoves := (exec_copyUnitPerformed s).trans (copyUnit_acqw (r := r) h hi)
      refine ⟨hmoves, fun g' rank' w hp hf hv => ?_⟩
      obtain ⟨hslot, hcounts⟩ := endPlain_core c i y.q 0 (countLook c i y g' s)
      rw [counts_countLook] at hcounts
      exact ⟨_, hmoves.trans (congrArg Host.Outcome.next (moveAcqw_met hp hf hv)), hslot, hcounts⟩
  · intro h msg flagDies
    refine ⟨(exec_rlsMessageReceived s).trans (rlsMessage_present h a b flag v), fun w u hw hcnt hseq hwrite => ?_,
      fun hn => (exec_fabricWriteReceived s).trans (fabricWrite_old h hn), fun hn =>
        ⟨fun hw => (exec_fabricWriteReceived s).trans (fabricWrite_waits h hn hw),
          fun t hw => (exec_fabricWriteReceived s).trans (fabricWrite_taken h hn hw)⟩,
      fun hs => (exec_fabricResend s).trans (fabricResend_other h hs),
      fun f hs hf => (exec_fabricResend s).trans (fabricResend_self h hs hf)⟩
    refine (exec_rlsMessageReceived s).trans ((rlsMessage_present h a b flag v).trans (congrArg Host.Outcome.next ?_))
    have hgroup : (w.part p).groups.get g = some x := (congrArg (fun z => z.groups.get g) (part_enterDies hw)).trans h
    have happly := applyFlag_new (m := msg) hgroup hseq hwrite
    change enterDies p (if s.isSelf x rank.val then [] else portDies s (x.mod rank.val)
      (arriving s p x (x.mod rank.val) false false true (x.flagva + BitVec.ofNat 64 (8 * flag.toNat)) 8)) s = some w at hw
    rw [hw]
    exact (if_pos hcnt).trans happly

end Sys2Proof.Proofs

/-! Atomics that other modules ask for (09 R165, 22 R347, R348), and barges of the array engine and of the special-function die (10
R194 to R200, R212). -/

namespace Sys2Proof.Proofs
open Sys2Proof Sys2Proof.Machine Sys2Proof.Laws

/-! ## Requests of other modules -/

/-- A PPA is served by the group that names the sender. -/
theorem servedBy_ppa {s : State} {p : PartId} {g : Fin 64} {m rank : Nat} {x : Group} (he : (s.part p).en = true)
    (hx : (s.part p).groups.get g = some x) (hg : (s.part p).groupOf m = some (g, rank)) : servedBy s p none m = some x := by
  unfold servedBy
  simp [he, hg, hx]

/-- A VA is served by the group that the command names, where it names the sender. -/
theorem servedBy_va {s : State} {p : PartId} {g : Fin 64} {m rank : Nat} {x : Group} (he : (s.part p).en = true)
    (hx : (s.part p).groups.get g = some x) (hr : x.rankOf m = some rank) : servedBy s p (some g) m = some x := by
  unfold servedBy
  simp [he, hr, hx]

/-- An atomic that is served and let in is performed at its word of the sync window. -/
theorem fabricRequest_atomic {p : PartId} {grp : Option (Fin 64)} {va b c : W64} {n : Fin 129} {op : AmoOp} {dbl : Bool}
    {m : BitVec 6} {x : Group} {e : Seg} {s t : State} (hs : servedBy s p grp m.toNat = some x)
    (ha : arriving s p x m.toNat grp.isNone true true va (wordBytes dbl) = .ok [e]) (hsite : e.site = .sync)
    (hw : enterDies p (portDies s m.toNat (.ok [e])) s = some t) (hb : t.badIn e.dpa (wordBytes dbl) = none) :
    execFabricRequestReceived p grp va n (some (op, dbl, b, c)) m s =
      .next (useSync e (t.putBytes e.dpa (toBytes (wordBytes dbl)
        (amoNew op (wordBytes dbl) (BitVec.ofNat 64 (ofBytes (t.bytes e.dpa (wordBytes dbl)))) b c).toNat))) := by
  unfold execFabricRequestReceived
  simp only [hs, Option.isSome_some, ha, hw, hsite, hb, decide_true, Option.isNone_none, Bool.and_self, if_true]

/-- Settles O27. -/
theorem moduleAtomicPerformed : Obligations.ModuleAtomicPerformed := by
  intro p g rank x ppa dbl va b c n op from_ e s t he hx hfrom k ha hsite hw hb
  have hk : k = wordBytes dbl := rfl
  rw [hk] at ha hb ⊢
  refine (exec_fabricRequestReceived s).trans ?_
  cases ppa with
  | false => exact fabricRequest_atomic (servedBy_va he hx hfrom) ha hsite hw hb
  | true => exact fabricRequest_atomic (servedBy_ppa he hx hfrom) ha hsite hw hb

/-! ## What writing memory leaves of the chips -/

theorem foldl_keeps {γ : Type} {g : State → γ} {f : State → α → State} (hf : ∀ s x, g (f s x) = g s) (l : List α) (s : State) :
    g (l.foldl f s) = g s := by
  induction l generalizing s with
  | nil => rfl
  | cons a r ih => exact (ih _).trans (hf s a)

/-- The cores, launches, pairs and quads of a machine. -/
def chips (s : State) : Vector Core 128 × List Launch × Vector Pair 1088 × Vector Quad 32 :=
  (s.cores, s.launches, s.pairs, s.quads)

theorem chips_fillWalk (d : DieId) (va : W64) (e : TlbE) (s : State) : chips (fillWalk d va e s) = chips s :=
  foldl_keeps (g := chips) (f := fun s x => fillDie d x s) (fun _ _ => rfl) _ s

theorem chips_useEntry {x : Ctx} (hx : x.copy = none) (e : TlbE) (s : State) : chips (useEntry x e s) = chips s := by
  unfold useEntry useDie
  rw [hx]
  dsimp only
  split
  · rfl
  · exact chips_fillWalk ..

theorem chips_useSync (g : Seg) (s : State) : chips (useSync g s) = chips s := by
  unfold useSync
  split <;> rfl

theorem chips_updChan (p : PartId) (g rank : Fin 64) (f : Channel → Channel) (s : State) : chips (updChan p g rank f s) = chips s := by
  unfold updChan
  dsimp only
  split <;> rfl

theorem chips_sendPpa (p : PartId) (m ppa : Nat) (bs : List Byte) (comb : Option (Comb3 × Fmt)) (s : State) :
    chips (sendPpa p m ppa bs comb s) = chips s := by
  unfold sendPpa
  split
  · exact (chips_updChan ..).trans (chips_updChan ..)
  · rfl

theorem chips_coherent (m : Mem) (l : List TokLine) (k : List TokMsg) (s : State) :
    chips { s with mem := m, lines := l, tokMsgs := k } = chips s := rfl

theorem chips_gather (n : Nat) (s : State) : chips (gather n s) = chips s := by
  unfold gather
  split
  · rfl
  · exact chips_coherent _ _ _ s

theorem chips_putHome (a : Nat) (v : Byte) (s : State) : chips (s.putHome a v) = chips s :=
  (chips_coherent _ _ _ _).trans (chips_gather (a / 128) s)

theorem chips_putRun (a : Nat) (bs : List Byte) (s : State) : chips (s.putRun a bs) = chips s := by
  induction bs generalizing a s with
  | nil => rfl
  | cons b r ih =>
    exact (ih (a + 1) _).trans (chips_putHome a b s)

theorem chips_homeObeys (n : Nat) (s : State) : chips (homeObeys n s) = chips s := by
  unfold homeObeys
  dsimp only
  split
  · split <;> rfl
  · rfl

theorem chips_putBytes (a : Nat) (bs : List Byte) (s : State) : chips (s.putBytes a bs) = chips s :=
  (foldl_keeps (g := chips) (fun s n => chips_homeObeys n s) _ _).trans (chips_putRun a bs s)

theorem chips_writeSeg (p : PartId) (g : Seg) (bs : List Byte) (s : State) : chips (writeSeg p g bs s) = chips s := by
  unfold writeSeg
  split
  · exact chips_sendPpa ..
  · exact (chips_useSync ..).trans ((chips_putBytes ..).trans rfl)

theorem chips_writeVa {x : Ctx} {va : W64} {bs : List Byte} {s t : State} (hx : x.copy = none) (h : s.writeVa x va bs = .ok t) :
    chips t = chips s := by
  obtain ⟨l, -, h⟩ := ok_of_bind h
  split at h
  · cases h
  · cases h
    refine foldl_keeps (g := chips) (fun s g => ?_) l s
    rw [chips_writeSeg, chips_useEntry hx]

theorem chips_setBlock (b : Block) (x : QBlock) (s : State) : chips (s.setBlock b x) = chips s := by
  cases b <;> rfl

theorem chips_writeSlot {b : Block} {va : W64} {bs : List Byte} {s t : State} (h : writeSlot b va bs s = some t) :
    chips t = chips s := by
  unfold writeSlot at h
  split at h
  · cases h
    exact chips_putBytes ..
  · split at h
    case h_1 p t' hw =>
      cases h
      exact chips_writeVa rfl hw
    case h_2 => cases h

/-- A fault record changes no core, launch, pair or quad. -/
theorem chips_postFault (b : Block) (f : FRec) (s : State) : chips (postFault b f s) = chips s := by
  unfold postFault
  dsimp only
  split
  · exact chips_setBlock ..
  · split
    · exact chips_setBlock ..
    · next t ht => exact (chips_setBlock ..).trans (chips_writeSlot ht)

theorem chips_gangFault (i : Option Nat) (c : CoreId) (b : BerthId) (code : Byte) (src : Nat) (det addr : W64) (s : State) :
    chips (gangFault i c b code src det addr s) = chips s := by
  unfold gangFault
  split
  · exact chips_postFault ..
  · rfl

theorem core_of_chips {s t : State} (h : chips t = chips s) (c : CoreId) : t.core c = s.core c :=
  congrArg (fun x : Vector Core 128 × List Launch × Vector Pair 1088 × Vector Quad 32 => x.1.get c) h

/-! ## What a failed command leaves of its queue -/

theorem arrQ_updCore (s : State) (c c' : CoreId) {f : Core → Core} (hf : ∀ k, (f k).arrQ = k.arrQ) :
    ((s.updCore c' f).core c).arrQ = (s.core c).arrQ := by
  rw [State.core_updCore_if]
  split
  case isTrue e => exact e ▸ hf _
  case isFalse => rfl

theorem arrQ_lmStore (s : State) (c c' : CoreId) (a : Nat) (bs : List Byte) :
    ((s.lmStore c' a bs).core c).arrQ = (s.core c).arrQ := by
  have hput : ∀ (s : State) (a : Nat) (v : Byte), ((s.lmPut c' a v).core c).arrQ = (s.core c).arrQ := by
    intro s a v
    unfold State.lmPut
    split
    · exact arrQ_updCore _ _ _ fun _ => rfl
    · rfl
  have hwrites : ∀ (bs : List Byte) (a : Nat) (s : State), ((s.lmWrites c' a bs).core c).arrQ = (s.core c).arrQ := by
    intro bs
    induction bs with
    | nil => exact fun _ _ => rfl
    | cons b r ih => exact fun a s => (ih (a + 1) _).trans (hput s a b)
  have hmend : ∀ (n : Nat) (s : State), ((s.lmMend c' a n).core c).arrQ = (s.core c).arrQ := by
    intro n s
    refine foldl_keeps (g := fun s => (s.core c).arrQ) (fun s w => ?_) _ s
    split
    · exact arrQ_updCore _ _ _ fun _ => rfl
    · rfl
  exact (hmend _ _).trans (hwrites bs a s)

theorem arrQ_failArray (i : Option Nat) (c : CoreId) (q : QEntry) (e : Err) (s : State) :
    ((failArray i c q e s).core c).arrQ = (s.core c).arrQ := by
  unfold failArray
  dsimp only
  refine (arrQ_updCore _ c c (f := fun k => k.counted q.id) fun _ => rfl).trans ((congrArg Core.arrQ (sendCount_core ..)).trans ?_)
  refine (congrArg Core.arrQ (core_of_chips (chips_gangFault ..) c)).trans ?_
  split
  · exact arrQ_lmStore ..
  · rfl

end Sys2Proof.Proofs

/-! Barges of the array engine and of the special-function die, and the joints between dies (10 R194 to R200, R212, 01 R16). -/

namespace Sys2Proof.Proofs
open Sys2Proof Sys2Proof.Machine Sys2Proof.Laws

/-! ## The array queue -/

theorem bargeSend_reads {c : CoreId} {sf : Bool} {s u : State}
    (h : recsMore c (if sf then sfTids s c else arrayTids s c) s = some u) :
    execBargeSend c sf s = .next (u.push [.bargeSend c sf]) := by
  unfold execBargeSend
  simp only [h]

theorem bargeSend_array {c : CoreId} {s : State} (h : recsMore c (arrayTids s c) s = none) :
    execBargeSend c false s = .next (sendArray c s) := by
  unfold execBargeSend
  simp only [Bool.false_eq_true, if_false, h]

theorem bargeSend_sf {c : CoreId} {s : State} (h : recsMore c (sfTids s c) s = none) :
    execBargeSend c true s = .next (sendSf c s) := by
  unfold execBargeSend
  simp only [if_true, h]

theorem endReleases_none {c : CoreId} {s : State} (h : ∀ y ∈ (s.core c).arrQ, isRel y = false) : endReleases c s = s := by
  have hfilter : (s.core c).arrQ.filter (fun q => isRel q && !boPending (s.core c) q) = [] :=
    List.filter_eq_nil_iff.mpr (fun y hy => by simp [h y hy])
  unfold endReleases
  rw [hfilter]
  rfl

theorem sendArray_head {c : CoreId} {s : State} {q : QEntry} (hrel : ∀ y ∈ (s.core c).arrQ, isRel y = false)
    (hq : arrayHead (s.core c) = some q) (hw : headWaits (s.core c) q = false) (hf : fenceAll q = false) :
    sendArray c s = sendHead c q s := by
  unfold sendArray
  simp only [endReleases_none hrel, hq, hw, hf]
  rfl

/-- A barge is the issuing core's own. -/
theorem checkArray_core {c : CoreId} {q : QEntry} {t : PairId} {s u : State} {b : Barge}
    (h : checkArray c q (some t) s = .ok (b, u)) : b.core = c := by
  unfold checkArray at h
  dsimp only at h
  split at h
  · cases h
  · cases hr : arrayRecords c q s with
    | error e => rw [hr] at h; cases h
    | ok r =>
      obtain ⟨r1, r2, r3, s'⟩ := r
      rw [hr] at h
      dsimp only [bind, Except.bind] at h
      generalize (if lmIndices q = true then q else withIndices s' c q r2) = q' at h
      split at h
      · cases h
      · split at h
        · cases h
        · cases h
          rfl

theorem watch_keeps (b : Barge) (s : State) (seen : W64) :
    (b.watch s seen).q = b.q ∧ (b.watch s seen).core = b.core ∧ (b.watch s seen).state = b.state := by
  unfold Barge.watch
  split
  · exact ⟨rfl, rfl, rfl⟩
  · split <;> exact ⟨rfl, rfl, rfl⟩

/-- The machine with an entry out of the array queue. -/
def arrTaken (c : CoreId) (q : QEntry) (s : State) : State :=
  s.updCore c (fun k => ({ k with arrQ := k.arrQ.erase q, vbuf := k.vbuf - q.vops.length } : Core).perform q.id 4)

/-- A head that passes its checks stands behind the barges of its pair. -/
theorem sendHead_barge {c : CoreId} {q : QEntry} {t : PairId} {s u : State} {b : Barge} (ht : s.pairOf c (entryTile q) = some t)
    (hfree : s.slotFree t = true) (hcheck : checkArray c q (some t) (arrTaken c q s) = .ok (b, u))
    (hj : u.joints.get (pairJoint t) = true) :
    ∃ b' : Barge, ((sendHead c q s).pair t).slots = (u.pair t).slots ++ [b'] ∧ b'.q = b.q ∧ b'.core = c ∧ b'.state = b.state := by
  have hcore := checkArray_core hcheck
  unfold arrTaken at hcheck
  unfold sendHead
  simp only [ht, hfree, hcheck, hj, Bool.not_true, Bool.false_eq_true, if_false, State.pair_setPair]
  obtain ⟨hq, hc, hs⟩ := watch_keeps b u u.cyc
  split
  · next n _ _ =>
    obtain ⟨hq, hc, hs⟩ := watch_keeps b (promise c (entryObj q) (entryStamp q + BitVec.ofNat 64 n) u) u.cyc
    exact ⟨_, rfl, hq, hc.trans hcore, hs⟩
  · exact ⟨_, rfl, hq, hc.trans hcore, hs⟩

/-! ## Releases of a hold -/

section
variable {c : CoreId} {s : State} {q : QEntry} (hq : (s.core c).arrQ = [q]) (hrel : isRel q = true)
include hq hrel

theorem arrayHead_rel : arrayHead (s.core c) = none := by
  unfold arrayHead
  simp [hq, hrel]

theorem recsMore_rel : recsMore c (arrayTids s c) s = none := by
  unfold arrayTids
  rw [arrayHead_rel hq hrel]
  rfl

/-- A release that waits for nothing ends, and leaves nothing to send. -/
theorem bargeSend_rel (hp : boPending (s.core c) q = false) (hempty : ((endOrRefuse c q s).core c).arrQ = []) :
    execBargeSend c false s = .next (endOrRefuse c q s) := by
  have hend : endReleases c s = endOrRefuse c q s := by
    unfold endReleases
    simp [hq, hrel, hp]
  have hhead : arrayHead ((endOrRefuse c q s).core c) = none := by
    unfold arrayHead
    rw [hempty]
    rfl
  refine (bargeSend_array (recsMore_rel hq hrel)).trans (congrArg Host.Outcome.next ?_)
  unfold sendArray
  simp only [hend, hhead]

end

theorem endFence_core (c : CoreId) (q : QEntry) (s : State) :
    ((endFence c q s).core c).arrQ = (s.core c).arrQ.erase q ∧ ((endFence c q s).core c).counts =
      (s.core c).counts ++ [{ bo := issuerObj q, n := some 8, err := none, prom := none }] := by
  unfold endFence
  rw [sendCount_core, State.core_updCore]
  exact ⟨rfl, rfl⟩

theorem endOrRefuse_own {c : CoreId} {q : QEntry} {s : State} (h : foreignTile s c q = none) : endOrRefuse c q s = endFence c q s := by
  unfold endOrRefuse
  simp only [h]

/-- The machine with a release out of the array queue. -/
def relTaken (c : CoreId) (q : QEntry) (s : State) : State :=
  s.updCore c (fun k => ({ k with arrQ := k.arrQ.erase q } : Core).perform q.id 4)

theorem relTaken_arrQ (c : CoreId) (q : QEntry) (s : State) : ((relTaken c q s).core c).arrQ = (s.core c).arrQ.erase q := by
  unfold relTaken
  rw [State.core_updCore]
  rfl

theorem endOrRefuse_foreign {c : CoreId} {q : QEntry} {s : State} {n : Nat} (h : foreignTile s c q = some n) :
    endOrRefuse c q s = failArray (s.core c).launch c q ⟨xNotBound, arrayDet s n 0⟩ (relTaken c q s) := by
  unfold endOrRefuse
  simp only [h]
  rfl

/-! ## The special-function queue -/

/-- The machine with an entry out of the special-function queue. -/
def sfTaken (c : CoreId) (q : QEntry) (s : State) : State :=
  s.updCore c (fun k => ({ k with sfQ := k.sfQ.erase q } : Core).perform q.id 4)

theorem sendSf_barge {c : CoreId} {q : QEntry} {s u : State} {r1 r3 : Rec} (hq : sfHead (s.core c) = some q)
    (hs : (s.core c).stopped = false) (hp : boPending (s.core c) q = false) (hr : sfRecords c q (sfTaken c q s) = .ok (r1, r3, u)) :
    ∃ b' : Barge, (sendSf c s).sfRun = u.sfRun ++ [b'] ∧ b'.q = q ∧ b'.core = c ∧ b'.state = .latched ∧ b'.count = sfCount q r3 := by
  unfold sfTaken at hr
  unfold sendSf
  simp only [hq, hs, hp, Bool.or_self, Bool.false_eq_true, if_false, hr]
  refine ⟨_, rfl, ?_⟩
  unfold Barge.watch
  split
  · exact ⟨rfl, rfl, rfl, rfl⟩
  · split <;> exact ⟨rfl, rfl, rfl, rfl⟩

/-! ## Latches, gates and windows of a pair -/

theorem operandLatched_sent {t : PairId} {s : State} {b : Barge}
    (h : (s.pair t).slots.find? (fun b => decide (b.state = .sent)) = some b) :
    execOperandLatched t s = .next (if b.at_.toNat ≤ s.cyc.toNat ∧ (s.pair t).latched s.cyc + latchNeed b.q ≤ 2
      then (s.putBarge t b { b with state := .latched }).push [.operandLatched t] else s) := by
  unfold execOperandLatched
  simp only [h, cycGe_eq, ← Bool.decide_and, decide_eq_true_eq]
  split <;> rfl

theorem setPair_self (s : State) (t : PairId) : s.setPair t (s.pair t) = s := by
  unfold State.setPair State.pair
  rw [show s.pairs.set t.val (s.pairs.get t) t.isLt = s.pairs from Vector.set_getElem_self ..]

/-- The gates of a pair of one barge: what a look leaves of it, and whether it then fails. -/
theorem gateFlipSeen_one {t : PairId} {s : State} {b : Barge} (h : (s.pair t).slots = [b]) :
    execGateFlipSeen t s = .next (if gateFails s.cyc (watchGate s b) then
        failBarge (watchGate s b) ⟨xGateErr, arrayDet (s.setPair t { s.pair t with slots := [watchGate s b] })
          (entryTile (watchGate s b).q) 0⟩ ((s.setPair t { s.pair t with slots := [watchGate s b] }).dropBarge t (watchGate s b))
      else s.setPair t { s.pair t with slots := [watchGate s b] }) := by
  unfold execGateFlipSeen
  simp only [h, List.map_cons, List.map_nil, State.pair_setPair, State.setPair_cyc, List.filter_cons, List.filter_nil]
  split <;> rfl

section
variable {t : PairId} {s : State} {b : Barge} (h : (s.pair t).slots = [b])
include h

theorem setPair_one : s.setPair t { s.pair t with slots := [b] } = s := by
  rw [← h]
  exact setPair_self s t

theorem gateFlipSeen_still (hw : watchGate s b = b) (hf : gateFails s.cyc b = false) : execGateFlipSeen t s = .next s := by
  rw [gateFlipSeen_one h, hw, hf, setPair_one h]
  rfl

theorem gateFlipSeen_fails (hw : watchGate s b = b) (hf : gateFails s.cyc b = true) :
    execGateFlipSeen t s = .next (failBarge b ⟨xGateErr, arrayDet s (entryTile b.q) 0⟩ (s.dropBarge t b)) := by
  rw [gateFlipSeen_one h, hw, hf, setPair_one h]
  rfl

theorem gateFlipSeen_flip {e : Bool} (hs : b.started = false) (hm : entryMode b.q = 2) (hg : b.gate = none)
    (hc : s.cyc.toNat + 39 < 2 ^ 64) (hflip : gateFlipped s b = some e) :
    execGateFlipSeen t s = .next (s.setPair t { s.pair t with slots := [{ b with gate := some (s.cyc + 39, e) }] }) := by
  have hw : watchGate s b = { b with gate := some (s.cyc + 39, e) } := by
    unfold watchGate Barge.watch
    simp [hs, hm, hg, hflip]
  have hnot : cycGe s.cyc (s.cyc + 39) = false := by
    rw [cycGe_eq]
    exact decide_eq_false (by bv_omega)
  have hf : gateFails s.cyc { b with gate := some (s.cyc + 39, e) } = false := by
    unfold gateFails
    dsimp only
    rw [hnot, Bool.and_false, Bool.and_false]
  rw [gateFlipSeen_one h, hw, hf]
  rfl

end

theorem watchGate_unflipped {s : State} {b : Barge} (h : gateFlipped s b = none) : watchGate s b = b := by
  unfold watchGate Barge.watch
  split
  · rfl
  · simp only [h]

theorem watchGate_seen {s : State} {b : Barge} {g : W64 × Bool} (h : b.gate = some g) : watchGate s b = b := by
  unfold watchGate Barge.watch
  rw [if_pos (by simp [h])]

theorem gateFails_none {cyc : W64} {b : Barge} (h : b.gate = none) : gateFails cyc b = false := by
  unfold gateFails
  simp [h]

theorem gateFails_error {cyc g : W64} {b : Barge} (hs : b.started = false) (h : b.gate = some (g, true)) (hg : g.toNat ≤ cyc.toNat) :
    gateFails cyc b = true := by
  unfold gateFails
  simp [hs, h, cycGe_eq, hg]

theorem bargeIssue_next {t : PairId} {s : State} {b : Barge} (h : (s.pair t).next = some b) (hm : mayIssue s (s.pair t) b = true) :
    execBargeIssue t s = .next ((issueBarge t b s).push [.bargeIssue t]) := by
  unfold execBargeIssue
  simp only [h, hm, if_true]

theorem issueBarge_fence {t : PairId} {s : State} {b : Barge} (hf : isFence b.q = true) :
    issueBarge t b s = (s.putBarge t b { b with state := .fenced }).push [.arrayCommandComplete t false] := if_pos hf

section
variable {t : PairId} {s : State} {b : Barge} (hf : isFence b.q = false)
include hf

theorem issueBarge_programs (hp : programs b = true) : issueBarge t b s =
    ({ s.putBarge t b { b with state := .ceiling } with writeWait := s.writeWait ++ [t] }).push [.arrCeilingAdmit t] := by
  unfold issueBarge
  simp only [hf, hp, Bool.false_eq_true, if_false, if_true]

theorem issueBarge_drives (hp : programs b = false) (hi : lmIndices b.q = false) : issueBarge t b s = startDrive t b s := by
  unfold issueBarge
  simp only [hf, hp, hi, Bool.false_and, Bool.false_eq_true, if_false]

end

theorem stampWindow_expired {t : PairId} {s : State} {b : Barge} (h : (s.pair t).slots.find? (expired s) = some b) :
    execStampWindowExpiry t s = .next ((missBarge .arr b.core b.q
      (failBarge b ⟨xSmiss, arrayDet s (entryTile b.q) (missReason (s.pair t) b)⟩ (s.dropBarge t b))).push [.stampWindowExpiry t]) := by
  unfold execStampWindowExpiry
  simp only [h]

/-! ## The write ceiling -/

/-- The write phases that still run. -/
def writesHeld (s : State) : List W64 := s.writing.filter (fun e => decide (s.cyc.toNat < e.toNat))

theorem writesHeld_eq (s : State) : s.writing.filter (fun e => !cycGe s.cyc e) = writesHeld s := by
  unfold writesHeld
  simp only [cycGe_eq, ← decide_not, Nat.not_le]

theorem arrCeilingAdmit_admits {t : PairId} {s : State} {b : Barge} {r : List PairId}
    (h : (s.pair t).slots.find? (fun b => decide (b.state = .ceiling)) = some b) (hw : s.writeWait = t :: r)
    (hn : (writesHeld s).length < writeCeiling) :
    execArrCeilingAdmit t s = .next (startDrive t b (({ s with
      writing := writesHeld s ++ [s.cyc + BitVec.ofNat 64 (programTicks (entryWin b.q))], writeWait := r } : State).push
        (r.head?.toList.map Ev.arrCeilingAdmit))) := by
  unfold execArrCeilingAdmit
  simp only [writesHeld_eq, hw, h, hn, and_self, if_true]

theorem arrCeilingAdmit_full {t : PairId} {s : State} (hn : writeCeiling ≤ (writesHeld s).length) :
    execArrCeilingAdmit t s = .next s := by
  unfold execArrCeilingAdmit
  simp only [writesHeld_eq]
  split
  · exact if_neg (fun h => absurd h.2 (Nat.not_lt.mpr hn))
  · rfl

/-! ## The end of a command -/

theorem arrayCommandComplete_none {t : PairId} {fail : Bool} {s : State} (h : dueBarge s (s.pair t) = none) :
    execArrayCommandComplete t fail s = .next s := by
  unfold execArrayCommandComplete
  simp only [h]

theorem dropBarge_joints {t : PairId} {s : State} {b : Barge} (hf : isFence b.q = false) : (s.dropBarge t b).joints = s.joints := by
  unfold State.dropBarge
  rw [hf]
  rfl

theorem arrayCommandComplete_good {t : PairId} {s : State} {b : Barge} (h : dueBarge s (s.pair t) = some b) (hn : b.count ≠ 0)
    (hf : isFence b.q = false) (hj : s.joints.get (pairJoint t) = true) (hst : fld b.status 7 0 ≠ 0x42)
    (he : outErr (s.dropBarge t b) b = none) :
    execArrayCommandComplete t false s = .next (afterEnd t b.core
      ((sendCount b.core (entryObj b.q) (some b.count) none (writeOutputs b (s.dropBarge t b))).updCore b.core
        (fun k => k.counted b.q.id))) := by
  have hjoint : (s.dropBarge t b).joints.get (pairJoint t) = true := (congrArg (fun j => j.get (pairJoint t)) (dropBarge_joints hf)).trans hj
  unfold execArrayCommandComplete
  simp only [h, hn, hf, hjoint, he, if_neg hst, Bool.false_eq_true, if_false, Bool.not_true, Option.isSome_none, Bool.false_and]

/-! ## The special-function die -/

theorem sfBargeStart_eq (s : State) : execSfBargeStart s =
    match ({ s with sfRun := s.sfRun.map (watchGate s) } : State).sfRun.findSome? (fun b =>
      (sfAct { s with sfRun := s.sfRun.map (watchGate s) } b).map (fun a => (b, a))) with
    | none => .next { s with sfRun := s.sfRun.map (watchGate s) }
    | some (b, a) => .next ((sfServe b { s with sfRun := s.sfRun.map (watchGate s) } a).push [.sfBargeStart]) := rfl

section
variable {k : Nat} {s : State} {b : Barge} {start ready : W64} (h : s.sfRun[k]? = some b) (hd : b.state = .driving start ready)
include h hd

theorem sfTransfer_early (fail : Bool) (hr : s.cyc.toNat < ready.toNat) : execSfTransferComplete k fail s = .next s := by
  have hnot : cycGe s.cyc ready = false := decide_eq_false (Nat.not_le.mpr hr)
  unfold execSfTransferComplete
  simp only [h, hd, hnot]
  rfl

variable (hr : ready.toNat ≤ s.cyc.toNat)
include hr

theorem sfTransfer_fails : execSfTransferComplete k true s = .next (failSf b.launch b.core b.q b.status (some b.count)
    ⟨0x60, arrayDet s 0 0⟩ (bump (hUncorr 8) 1 (s.dropSf b))) := by
  have hge : cycGe s.cyc ready = true := decide_eq_true hr
  unfold execSfTransferComplete
  simp only [h, hd, hge]
  rfl

theorem sfTransfer_goesOn (hj : s.joints.get (sfJoint b.core) = true) (he : sfErr s b = none) (hn : b.n < b.q.rep) :
    execSfTransferComplete k false s = .next ((sfTransfer b.core b s).1.putSf b { b with
      n := b.n + 1, status := b.status ||| (sfTransfer b.core b s).2.zeroExtend 64,
      state := .driving start (ready + BitVec.ofNat 64 (sfTicks s b.q b.inR)) }) := by
  have hge : cycGe s.cyc ready = true := decide_eq_true hr
  unfold execSfTransferComplete
  simp only [h, hd, hge, hj, he, hn, if_true, Bool.not_true, Bool.false_eq_true, if_false]

end

/-! ## Joints -/

/-- The machine with a joint out of service, and the failure counted. -/
def jointDown (j : Fin 24) (s : State) : State := bump (hUncorr 10) 1 { s with joints := s.joints.set j.val false j.isLt }

theorem hop_fin24 {n : Nat} (h : n < 4) : (Fin.ofNat 24 n).val = n := Nat.mod_eq_of_lt (by omega)

theorem mem_hopsDown {s : State} {n : Nat} : n ∈ s.hopsDown ↔ n < 4 ∧ s.joints.get (Fin.ofNat 24 n) = false := by
  unfold State.hopsDown
  simp [List.mem_filter]

theorem dieJointFailure_ring {j : Fin 24} {s : State} (hj : j.val < 4) (h : ∀ h : Fin 24, h.val < 4 → s.joints.get h = true) :
    execDieJointFailure j s = .next (jointDown j s) := by
  have hnone : s.hopsDown = [] := by
    refine List.eq_nil_iff_forall_not_mem.mpr (fun n hn => ?_)
    obtain ⟨hlt, hdown⟩ := mem_hopsDown.mp hn
    have hup := h (Fin.ofNat 24 n) ((hop_fin24 hlt).trans_lt hlt)
    exact Bool.false_ne_true (hdown.symm.trans hup)
  unfold execDieJointFailure
  simp only [hnone, List.any_nil, Bool.and_false, Bool.false_eq_true, if_false]
  rw [if_neg (by omega), if_neg (by omega)]
  rfl

theorem dieJointFailure_cut {j h : Fin 24} {s : State} (hj : j.val < 4) (hh : h.val < 4) (hne : h ≠ j) (hd : s.joints.get h = false) :
    execDieJointFailure j s = .next ((trafficParts s).foldl (fun s p => moduleFault (.part p) 0x03 5 (jointLink j.val) 0 s)
      (jointDown j s)) := by
  have hmem : h.val ∈ s.hopsDown := mem_hopsDown.mpr ⟨hh, (congrArg _ (Fin.ext (hop_fin24 hh))).trans hd⟩
  have hany : s.hopsDown.any (fun h => decide (h ≠ j.val)) = true :=
    List.any_eq_true.mpr ⟨h.val, hmem, decide_eq_true (fun e => hne (Fin.ext e))⟩
  unfold execDieJointFailure
  simp only [hany, hj, decide_true, Bool.and_self, if_true]
  rfl

theorem dieJointFailure_pairs {j : Fin 24} {s : State} (h4 : 4 ≤ j.val) (h12 : j.val < 12) :
    execDieJointFailure j s = .next (failPairs (j.val - 4) (jointDown j s)) := by
  have hnot : ¬ j.val < 4 := by omega
  unfold execDieJointFailure
  simp only [hnot, decide_false, Bool.false_and, Bool.false_eq_true, if_false]
  rw [if_pos ⟨h4, h12⟩]
  rfl

theorem dieJointFailure_sfs {j : Fin 24} {s : State} (h12 : 12 ≤ j.val) (h16 : j.val < 16) :
    execDieJointFailure j s = .next (failSfs (j.val - 12) (jointDown j s)) := by
  have hnot : ¬ j.val < 4 := by omega
  unfold execDieJointFailure
  simp only [hnot, decide_false, Bool.false_and, Bool.false_eq_true, if_false]
  rw [if_neg (by omega), if_pos ⟨h12, h16⟩]
  rfl

theorem dieJointFailure_other {j : Fin 24} {s : State} (h16 : 16 ≤ j.val) : execDieJointFailure j s = .next (jointDown j s) := by
  have hnot : ¬ j.val < 4 := by omega
  unfold execDieJointFailure
  simp only [hnot, decide_false, Bool.false_and, Bool.false_eq_true, if_false]
  rw [if_neg (by omega), if_neg (by omega)]
  rfl

theorem dieJointRetrained_eq (j : Fin 24) (s : State) : execDieJointRetrained j s = .next (if s.joints.get j then s
    else bump (hRetrain (48 + j.val)) 1 { s with joints := s.joints.set j.val true j.isLt }) := by
  unfold execDieJointRetrained
  split <;> rfl

/-- Settles O28. -/
theorem arrayEventsRun : Obligations.ArrayEventsRun := by
  intro c t b b' q fail j k s u p x
  refine ⟨fun h => (exec_bargeSend s).trans (bargeSend_array h), fun h => (exec_bargeSend s).trans (bargeSend_sf h),
    fun h => (exec_bargeSend s).trans (bargeSend_reads h), fun h => (exec_bargeSend s).trans (bargeSend_reads h), ?_, ?_, ?_, ?_,
    fun h => (exec_operandLatched s).trans (operandLatched_sent h), fun h hs hm hg hc => ⟨fun hflip => ?_, fun e hflip => ?_⟩,
    fun g h hs hg hle => ?_, fun h hm hf => ⟨fun hp hi => ?_, fun hp => ?_⟩, fun h hm hf => ?_,
    fun h => (exec_stampWindowExpiry s).trans (stampWindow_expired h),
    fun h => ⟨fun r hw hn => (exec_arrCeilingAdmit s).trans (arrCeilingAdmit_admits h hw hn),
      fun hn => (exec_arrCeilingAdmit s).trans (arrCeilingAdmit_full hn)⟩,
    fun h => (exec_arrayCommandComplete s).trans (arrayCommandComplete_none h),
    fun h hn hf hj hst he => (exec_arrayCommandComplete s).trans (arrayCommandComplete_good h hn hf hj hst he),
    ⟨fun h => ?_, fun h => ?_⟩,
    fun start ready h hd => ⟨fun hr => (exec_sfTransferComplete s).trans (sfTransfer_early h hd fail hr),
      fun hr => (exec_sfTransferComplete s).trans (sfTransfer_fails h hd hr),
      fun hr hj he hn => (exec_sfTransferComplete s).trans (sfTransfer_goesOn h hd hr hj he hn)⟩,
    ⟨fun hj h => (exec_dieJointFailure s).trans (dieJointFailure_ring hj h),
      fun h hj hh hne hd => (exec_dieJointFailure s).trans (dieJointFailure_cut hj hh hne hd),
      fun h4 h12 => (exec_dieJointFailure s).trans (dieJointFailure_pairs h4 h12),
      fun h12 h16 => (exec_dieJointFailure s).trans (dieJointFailure_sfs h12 h16),
      fun h16 => (exec_dieJointFailure s).trans (dieJointFailure_other h16)⟩,
    (exec_dieJointRetrained s).trans (dieJointRetrained_eq j s)⟩
  · intro s' hrec hrel hq hw hf ht hfree hcheck hj
    obtain ⟨z, hz⟩ := sendHead_barge ht hfree hcheck hj
    exact ⟨_, (exec_bargeSend s).trans ((bargeSend_array hrec).trans
      (congrArg Host.Outcome.next (sendArray_head hrel hq hw hf))), z, hz⟩
  · intro hq hrel hp hown
    obtain ⟨hqueue, hcounts⟩ := endFence_core c q s
    have hempty : ((endFence c q s).core c).arrQ = [] := by
      rw [hqueue, hq, List.erase_cons_head]
    have hend := endOrRefuse_own hown
    exact ⟨_, (exec_bargeSend s).trans ((bargeSend_rel hq hrel hp (hend ▸ hempty)).trans (congrArg Host.Outcome.next hend)),
      hempty, hcounts⟩
  · intro n hq hrel hp hforeign
    have hend := endOrRefuse_foreign hforeign
    have hempty : ((endOrRefuse c q s).core c).arrQ = [] := by
      rw [hend, arrQ_failArray, relTaken_arrQ, hq, List.erase_cons_head]
    exact ⟨_, (exec_bargeSend s).trans (bargeSend_rel hq hrel hp hempty), hend⟩
  · intro s' hrec hq hs hp r1 r3 hr
    exact ⟨_, (exec_bargeSend s).trans (bargeSend_sf hrec), sendSf_barge hq hs hp hr⟩
  · exact (exec_gateFlipSeen s).trans (gateFlipSeen_still h (watchGate_unflipped hflip) (gateFails_none hg))
  · exact (exec_gateFlipSeen s).trans (gateFlipSeen_flip h hs hm hg hc hflip)
  · exact (exec_gateFlipSeen s).trans (gateFlipSeen_fails h (watchGate_seen hg) (gateFails_error hs hg hle))
  · exact (exec_bargeIssue s).trans ((bargeIssue_next h hm).trans
      (congrArg (fun z => Host.Outcome.next (State.push z [.bargeIssue t])) (issueBarge_drives hf hp hi)))
  · exact (exec_bargeIssue s).trans ((bargeIssue_next h hm).trans
      (congrArg (fun z => Host.Outcome.next (State.push z [.bargeIssue t])) (issueBarge_programs hf hp)))
  · exact (exec_bargeIssue s).trans ((bargeIssue_next h hm).trans
      (congrArg (fun z => Host.Outcome.next (State.push z [.bargeIssue t])) (issueBarge_fence hf)))
  · rw [exec_sfBargeStart, sfBargeStart_eq, h]
    rfl
  · rw [exec_sfBargeStart, sfBargeStart_eq, h]

end Sys2Proof.Proofs

/-! Events of the lock and of named barriers (07 R110, 12 R225, R226, R229, R230, 19 R304). -/

namespace Sys2Proof.Proofs
open Sys2Proof Sys2Proof.Machine Sys2Proof.Laws

/-! ## Reports -/

/-- A launch with the report of a module's die. -/
def reported (m : BitVec 6) (e : Bool) (d : DieId) (s : State) (l : Launch) : Launch :=
  { l with
    reports := l.reports ++ [(m, d)], gone := if e = true ∧ (m, d) ∉ l.gone then l.gone ++ [(m, d)] else l.gone,
    firstReport := if l.firstReport.isNone then some s.cyc else l.firstReport }

/-- What a die's report leads to. -/
theorem lockReport_counts {i : Nat} {m : BitVec 6} {e : Bool} {d : DieId} {l : Launch} {s : State} (h : s.launch i = some l)
    (ha : l.alive = true) (hg : l.gang = .running) (hm : s.hasMaster l = true) (hr : (m, d) ∉ l.reports) :
    execLockReportReceived i (m, e) d s = .next (if s.allGone (reported m e d s l)
      then masterWord i (reported m e d s l) none (s.setLaunch i (reported m e d s l))
      else if l.state = .started ∧ s.allReported (reported m e d s l) then setTrel i (reported m e d s l) s
      else s.setLaunch i (reported m e d s l)) := by
  have hnew : (!l.reports.contains (m, d)) = true := by simp [hr]
  have hgone : (e = true ∧ (!l.gone.contains (m, d)) = true) = (e = true ∧ (m, d) ∉ l.gone) := by simp
  unfold execLockReportReceived
  simp only [h]
  rw [if_pos ⟨ha, hg, hm, hnew⟩, apply_ite Host.Outcome.next, apply_ite Host.Outcome.next]
  simp only [hgone]
  rfl

theorem alive_started {l : Launch} (h : l.state = .started) : l.alive = true := decide_eq_true (Or.inl h)

theorem alive_saved {l : Launch} (h : l.state = .held ∨ l.state = .saved ∨ l.state = .resuming) : l.alive = true :=
  decide_eq_true (Or.inr h)

/-! ## The broadcast -/

section
variable {i : Nat} {d : DieId} {l : Launch} {s : State} (h : s.launch i = some l)
include h

theorem trelReceived_new {trel : W64} (ha : l.alive = true) (hg : l.gang = .running ∨ l.gang = .releasing) (hd : d ∈ l.dies)
    (hn : d ∉ l.trelAt) : execTrelReceived i d (some trel) s =
      .next (s.setLaunch i { l with gang := .releasing, trel := trel, trelAt := l.trelAt ++ [d] }) := by
  unfold execTrelReceived
  simp only [h]
  exact if_pos ⟨ha, hg, List.contains_iff_mem.mpr hd, by simp [hn]⟩

theorem trelReceived_again {trel : W64} (hd : d ∈ l.trelAt) : execTrelReceived i d (some trel) s = .next s := by
  unfold execTrelReceived
  simp only [h]
  exact if_neg (fun hc => by simp [hd] at hc)

theorem trelReceived_over (ha : l.alive = true) (hm : l.mmod = true) (hd : d ∈ l.dies) :
    execTrelReceived i d none s = .next (s.setLaunch i { l with allOver := true }) := by
  unfold execTrelReceived
  simp only [h]
  rw [if_pos ⟨ha, hm, List.contains_iff_mem.mpr hd⟩]

/-! ## The release -/

theorem lockRelease_early (hc : s.cyc.toNat < l.trel.toNat) : execLockRelease i s = .next s := by
  have hnot : cycGe s.cyc l.trel = false := decide_eq_false (Nat.not_le.mpr hc)
  unfold execLockRelease
  simp [h, hnot]

theorem startingLockRelease_early (hc : s.cyc.toNat < l.trel.toNat) : execStartingLockRelease i s = .next s := by
  have hnot : cycGe s.cyc l.trel = false := decide_eq_false (Nat.not_le.mpr hc)
  unfold execStartingLockRelease
  simp [h, hnot]

end

/-- The dies that release now. -/
def releasing (l : Launch) : List DieId := l.trelAt.filter (fun d => !l.released.contains d)

/-- The machine after the release of the strands of some dies. -/
def released (i : Nat) (l : Launch) (s : State) : State :=
  let free := releaseDies l (releasing l)
    (if l.released = [] then passTokens l.part (fun t => decide (t.launch = i) && !t.passed) s else s)
  if l.pre.isSome then takeDeferred l (releasing l) free else free

theorem lockRelease_due {i : Nat} {l : Launch} {s : State} (h : s.launch i = some l) (hs : l.state = .started)
    (hg : l.gang = .releasing) (hc : l.trel.toNat ≤ s.cyc.toNat) (hd : ∃ d ∈ l.trelAt, d ∉ l.released)
    (hcores : ∀ c ∈ l.cores, dieOf c ∈ l.released ∨ ((s.core c).stopped = false ∧ (s.core c).stopping = false)) :
    execLockRelease i s = if l.dies.all l.trelAt.contains
      then .next (applyAdd l.part ((released i l s).setLaunch i { l with
        gang := .running, comm := !l.comm, phs := l.trel, counted := [], reports := [], firstReport := none, trelAt := [],
        released := [] }))
      else .next ((released i l s).setLaunch i { l with phs := l.trel, released := l.released ++ releasing l }) := by
  have hds : l.trelAt.filter (fun d => !l.released.contains d) ≠ [] := by
    obtain ⟨d, hd, hn⟩ := hd
    exact List.ne_nil_of_mem (List.mem_filter.mpr ⟨hd, by simp [hn]⟩)
  have hall : (l.cores.filter (fun c => !l.released.contains (dieOf c))).all (fun c => !(s.core c).stopped && !(s.core c).stopping)
      = true := by
    refine List.all_eq_true.mpr (fun c hc => ?_)
    obtain ⟨hmem, hnot⟩ := List.mem_filter.mp hc
    rcases hcores c hmem with hr | ⟨hs, hg⟩
    · simp [hr] at hnot
    · simp [hs, hg]
  have hge : cycGe s.cyc l.trel = true := decide_eq_true hc
  unfold execLockRelease
  simp only [h]
  rw [if_pos ⟨hs, hg, hge, hds, hall⟩]
  rfl

/-- Cores that a pre-emption stops stay so while others are. -/
theorem stopping_preempted {c : CoreId} {cs : List CoreId} {s : State} (h : c ∈ cs ∨ (s.core c).stopping = true) :
    ((cs.foldl (fun s c => s.updCore c Core.preempted) s).core c).stopping = true := by
  induction cs generalizing s with
  | nil => exact h.resolve_left List.not_mem_nil
  | cons a r ih =>
    refine ih ?_
    rcases h with h | h
    · rcases List.mem_cons.mp h with rfl | h
      · exact Or.inr (by rw [State.core_updCore]; rfl)
      · exact Or.inl h
    · refine Or.inr ?_
      rw [State.core_updCore_if]
      split
      · rfl
      · exact h

theorem released_stopping {i : Nat} {l : Launch} {s : State} {c : CoreId} (hc : c ∈ l.cores) (hd : dieOf c ∈ releasing l)
    (hp : l.pre.isSome = true) : ((released i l s).core c).stopping = true := by
  unfold released
  simp only [hp, if_true]
  exact stopping_preempted (Or.inl (List.mem_filter.mpr ⟨hc, List.contains_iff_mem.mpr hd⟩))

theorem startingLockRelease_due {i : Nat} {l : Launch} {s : State} (h : s.launch i = some l)
    (hs : l.state = .started ∨ l.state = .prepared) (hg : l.gang = .starting) (hc : l.trel.toNat ≤ s.cyc.toNat) (hp : l.pre = none) :
    execStartingLockRelease i s = .next ((stageTokens l
      ((l.cores.foldl (fun s c => s.updCore c (fun k => k.begin l.trel)) s).setLaunch i { l with
        state := .started, gang := .running, comm := false, phs := l.trel, start := l.trel, resumed := l.trel,
        counted := [], reports := [], trelAt := [], released := [] })).push [.placement l.part]) := by
  unfold execStartingLockRelease
  simp only [h]
  exact if_pos ⟨hs, hg, hp, decide_eq_true hc⟩

/-! ## Named barriers, timeouts and arrivals -/

theorem barrierRelease_own {i : Nat} {d : DieId} {n : Fin 96} {l : Launch} {s : State} (h : s.launch i = some l)
    (hm : l.mmod = false) : execBarrierReleaseMessage i d n s =
      .next ((l.cores.filter (fun c => decide (dieOf c = d))).foldl (fun s c => s.updCore c (Core.flipBar n)) s) := by
  have hfar : farRelease i l d n s = s := by
    unfold farRelease
    simp [hm]
  unfold execBarrierReleaseMessage
  simp only [h, hfar]

theorem gangBarrierTimeout_eq {i : Nat} {l : Launch} {s : State} {t : W64} (h : s.launch i = some l) (hf : l.firstReport = some t) :
    execGangBarrierTimeout i s =
      .next (if l.mmod = true ∧ l.alive = true ∧ l.gang = .running ∧ l.gbt ≤ since s t then abortGang i l s else s) := by
  unfold execGangBarrierTimeout
  simp only [h, hf]
  exact (apply_ite Host.Outcome.next _ _ _).symm

/-- The machine with a strand counted. -/
def counted (i : Nat) (c : CoreId) (l : Launch) (s : State) : State :=
  (s.setLaunch i { l with counted := l.counted ++ [c] }).setQuad (quadOf c) { s.quad (quadOf c) with countedAt := s.cyc }

theorem lockArrivalCount_counts {i : Nat} {c : CoreId} {l : Launch} {s : State} (h : s.gangOf c = some (i, l)) (hs : l.state = .started)
    (hg : l.gang = .running) (hn : c ∉ l.counted) (hc : c ∈ l.cores) (ha : s.strandArrived c = true)
    (hstopped : (s.core c).stopped = false) (hstopping : (s.core c).stopping = false) :
    execLockArrivalCount c s = .next (
      if (counted i c l s).hasMaster { l with counted := l.counted ++ [c] } &&
          (l.cores.filter (fun x => decide (dieOf x = dieOf c))).all (l.counted ++ [c]).contains
      then (counted i c l s).lockSend ((counted i c l s).lockTicks (dieOf c) l.master)
        (.lockReportReceived i ((counted i c l s).modid,
          (l.cores.filter (fun x => decide (dieOf x = dieOf c))).all (counted i c l s).strandEnded) (dieOf c))
      else counted i c l s) := by
  unfold execLockArrivalCount
  simp only [h]
  rw [if_pos ⟨hs, hg, by simp [hn], List.contains_iff_mem.mpr hc, ha, by simp [hstopped], by simp [hstopping]⟩,
    apply_ite Host.Outcome.next]
  rfl

/-- Settles O29. -/
theorem lockEventsRun : Obligations.LockEventsRun := by
  intro i m e d trel n c l s h
  refine ⟨fun hg hm hr => ⟨fun hs hgone => ?_, fun ha hgone => ?_, fun hs hgone => ?_⟩,
    fun ha hg hd hn => (exec_trelReceived s).trans (trelReceived_new h ha hg hd hn),
    fun hd => (exec_trelReceived s).trans (trelReceived_again h hd),
    fun ha hm hd => (exec_trelReceived s).trans (trelReceived_over h ha hm hd),
    fun hc => ⟨(exec_lockRelease s).trans (lockRelease_early h hc),
      (exec_startingLockRelease s).trans (startingLockRelease_early h hc)⟩,
    fun hs hg hc hd hcores => ⟨fun c hmem hdie hp => released_stopping hmem hdie hp, fun hall => ?_, fun hsome => ?_⟩,
    fun hm => (exec_barrierReleaseMessage s).trans (barrierRelease_own h hm),
    fun hs hg hc hp => (exec_startingLockRelease s).trans (startingLockRelease_due h hs hg hc hp),
    fun t hf => (exec_gangBarrierTimeout s).trans (gangBarrierTimeout_eq h hf),
    fun hgang hs hg hn hc ha hstopped hstopping =>
      (exec_lockArrivalCount s).trans (lockArrivalCount_counts hgang hs hg hn hc ha hstopped hstopping)⟩
  · refine (exec_lockReportReceived s).trans ((lockReport_counts h (alive_started hs) hg hm hr).trans (congrArg Host.Outcome.next ?_))
    have hstate : (l.state = .started ∧ s.allReported (reported m e d s l) = true) = (s.allReported (reported m e d s l) = true) :=
      propext ⟨And.right, fun hall => ⟨hs, hall⟩⟩
    refine (if_neg (by rw [show s.allGone (reported m e d s l) = false from hgone]; exact Bool.false_ne_true)).trans ?_
    simp only [hstate]
    rfl
  · exact (exec_lockReportReceived s).trans ((lockReport_counts h ha hg hm hr).trans
      (congrArg Host.Outcome.next (if_pos hgone)))
  · refine (exec_lockReportReceived s).trans ((lockReport_counts h (alive_saved hs) hg hm hr).trans (congrArg Host.Outcome.next ?_))
    refine (if_neg (by rw [show s.allGone (reported m e d s l) = false from hgone]; exact Bool.false_ne_true)).trans (if_neg ?_)
    rintro ⟨hstarted, -⟩
    rw [hstarted] at hs
    rcases hs with hs | hs | hs <;> cases hs
  · exact (exec_lockRelease s).trans ((lockRelease_due h hs hg hc hd hcores).trans
      (if_pos (List.all_eq_true.mpr (fun d hd => List.contains_iff_mem.mpr (hall d hd)))))
  · obtain ⟨x, hx, hnot⟩ := hsome
    exact (exec_lockRelease s).trans ((lockRelease_due h hs hg hc hd hcores).trans
      (if_neg (fun hall => hnot (List.contains_iff_mem.mp (List.all_eq_true.mp hall x hx)))))

end Sys2Proof.Proofs

/-! Token requests, messages, persistent turns and evictions (14 R264 to R267). -/

namespace Sys2Proof.Proofs
open Sys2Proof Sys2Proof.Machine Sys2Proof.Laws

/-! ## Requests -/

section
variable {d : DieId} {line : Nat} {r : TokReq} {s : State} (h : s.request d line = some r)
include h

theorem transientRequest_stands (wr : Bool) : execTransientRequest d line wr s = .next s := by
  unfold execTransientRequest
  simp only [h]

theorem resend_early (hc : (s.cyc - r.sent).toNat < 512) : execRequestResendTimeout d line s = .next s := by
  unfold execRequestResendTimeout
  simp only [h]
  exact if_pos (decide_eq_true hc)

variable (hc : 512 ≤ (s.cyc - r.sent).toNat)
include hc

/-- A request that has its tokens is over. -/
theorem resend_met (hm : s.mayAccess line (holderOf line d) r.wr = true) :
    execRequestResendTimeout d line s = .next (dropRequest d line s) := by
  unfold execRequestResendTimeout
  simp only [h, hm, decide_eq_false (Nat.not_lt.mpr hc)]
  rfl

theorem resend_unmet (hm : s.mayAccess line (holderOf line d) r.wr = false) : execRequestResendTimeout d line s = .next (
    if r.resent && decide ((s.die d).active d < 8) then activate d line r.wr (dropRequest d line s)
    else broadcast d line r.wr { s with
      tokReqs := s.tokReqs.map (fun x => if x = r then ({ r with resent := true, sent := s.cyc } : TokReq) else x) }) := by
  unfold execRequestResendTimeout
  simp only [h, hm, decide_eq_false (Nat.not_lt.mpr hc)]
  exact (apply_ite Host.Outcome.next _ _ _).symm

end

theorem request_dropRequest (d : DieId) (line : Nat) (s : State) : (dropRequest d line s).request d line = none := by
  unfold State.request dropRequest
  refine List.find?_eq_none.mpr (fun x hx => ?_)
  have hnot := (List.mem_filter.mp hx).2
  simpa [imp_iff_not_or] using hnot

section
variable {d : DieId} {line : Nat} {s : State} (h : s.request d line = none)
include h

theorem transientRequest_new (wr : Bool) : execTransientRequest d line wr s = .next (broadcast d line wr
    { s with tokReqs := s.tokReqs ++ [{ die := d, line := line, wr := wr, sent := s.cyc, resent := false }] }) := by
  unfold execTransientRequest
  simp only [h]

theorem resend_none (ho : (s.die d).own d line = none) : execRequestResendTimeout d line s = .next s := by
  unfold execRequestResendTimeout
  simp only [h, ho]

theorem resend_own {y : Persist} (ho : (s.die d).own d line = some y) : execRequestResendTimeout d line s =
    .next (if s.mayAccess line (holderOf line d) y.wr then deactivate d line s else lookAgain d line s) := by
  unfold execRequestResendTimeout
  simp only [h, ho]

end

/-! ## Answers -/

/-- The asker itself, and a holder whose die has won the line, do not answer. -/
theorem answer_silent {line : Nat} {req h : Holder} {wr : Bool} {s : State}
    (hh : h = req ∨ (s.die (holderDie line h)).winner line = some (holderDie line h)) : answer line req h wr s = s :=
  if_pos (by simpa using hh)

section
variable {line : Nat} {req h : Holder} {s : State} (hr : h ≠ req)
  (hw : ¬ (s.die (holderDie line h)).winner line = some (holderDie line h))
include hr hw

theorem answer_write : answer line req h true s = if ((s.tokLine line).get h).t = 0 then s
    else sendTokens line h req ((s.tokLine line).get h).t ((s.tokLine line).get h).owner s := by
  unfold answer
  simp [hr, hw]

theorem answer_read : answer line req h false s = if ((s.tokLine line).get h).owner
    then sendTokens line h req 1 (decide (((s.tokLine line).get h).t < 2)) s else s := by
  unfold answer
  simp [hr, hw]

end

/-! ## Messages and evictions -/

theorem tokenMessage_none {k : Nat} {s : State} (h : s.tokMsgs[k]? = none) : execTokenMessageReceived k s = .next s := by
  unfold execTokenMessageReceived
  simp only [h]

section
variable {k : Nat} {s t : State} {m : TokMsg} (h : s.tokMsgs[k]? = some m)
  (ht : takeTokens m { s with tokMsgs := s.tokMsgs.eraseIdx k } = t)
include h ht

theorem tokenMessage_won {w : DieId} (hw : (t.die (holderDie m.line m.dest)).winner m.line = some w) :
    execTokenMessageReceived k s = .next (if w = holderDie m.line m.dest then evictFor m.line m.dest t
      else sendTokens m.line m.dest (holderOf m.line w) ((t.tokLine m.line).get m.dest).t ((t.tokLine m.line).get m.dest).owner t) := by
  unfold execTokenMessageReceived
  simp only [h, ht, hw]
  exact (apply_ite Host.Outcome.next _ _ _).symm

theorem tokenMessage_free (hw : (t.die (holderDie m.line m.dest)).winner m.line = none) :
    execTokenMessageReceived k s = .next (if t.wants m.line m.dest then evictFor m.line m.dest t
      else if m.dest = .home then t else sendTokens m.line m.dest .home m.t m.owner t) := by
  unfold execTokenMessageReceived
  simp only [h, ht, hw]
  rw [apply_ite Host.Outcome.next, apply_ite Host.Outcome.next]

end

/-- Settles O30. -/
theorem coherenceEventsRun : Obligations.CoherenceEventsRun := by
  intro d e line k wr h r s
  refine ⟨fun hreq => ⟨(exec_transientRequest s).trans (transientRequest_stands hreq wr),
      fun hc => (exec_requestResendTimeout s).trans (resend_early hreq hc),
      fun hc => ⟨fun hm => ⟨_, (exec_requestResendTimeout s).trans (resend_met hreq hc hm), request_dropRequest d line s⟩,
        fun hm => (exec_requestResendTimeout s).trans (resend_unmet hreq hc hm)⟩⟩,
    fun hreq => ⟨(exec_transientRequest s).trans (transientRequest_new hreq wr),
      fun ho => (exec_requestResendTimeout s).trans (resend_none hreq ho),
      fun y ho => (exec_requestResendTimeout s).trans (resend_own hreq ho)⟩,
    ⟨answer_silent, fun hr hw => ⟨fun ht => (answer_write hr hw).trans (if_neg ht), fun ho => (answer_read hr hw).trans (if_pos ho),
      fun ht => (answer_write hr hw).trans (if_pos ht), fun ho => (answer_read hr hw).trans (if_neg (by simp [ho]))⟩⟩,
    fun hm => (exec_tokenMessageReceived s).trans (tokenMessage_none hm),
    fun m hm => ⟨fun w hw => (exec_tokenMessageReceived s).trans (tokenMessage_won hm rfl hw),
      fun hw => (exec_tokenMessageReceived s).trans (tokenMessage_free hm rfl hw)⟩,
    exec_persistentActivation s, exec_persistentDeactivation s, exec_lineEviction s⟩

end Sys2Proof.Proofs

/-! Launch events: tail writes, slots, dependences, the turn, placement, loading, copy launches and the watchdog (19 R292 to R303). -/

namespace Sys2Proof.Proofs
open Sys2Proof Sys2Proof.Machine Sys2Proof.Laws

/-! ## Queues and slots -/

theorem qtailWrite_closed {b : Block} {q : Fin 64} {v : W16} {s : State} (h : hasQueue b q = false ∨ s.blockOpen b = false) :
    execQtailWrite b q v s = .next s := by
  unfold execQtailWrite
  exact if_pos (by rcases h with h | h <;> simp [h])

section
variable {b : Block} {q : Fin 64} {v : W16} {s : State} (hq : hasQueue b q = true) (hb : s.blockOpen b = true)
include hq hb

theorem qtailWrite_disabled (he : (s.queue b q).en = false) : execQtailWrite b q v s =
    .next (retest (s.queuePart b q) (s.setQueue b q { s.queue b q with tail := v, head := v })) := by
  unfold execQtailWrite
  exact (if_neg (by simp [hq, hb])).trans (if_pos (by simp [he]))

/-- The machine with a tail written to an enabled queue. -/
def tailWritten (b : Block) (q : Fin 64) (v : W16) (s : State) : State :=
  let y : Queue := { s.queue b q with tail := v }
  if y.overfull then stopQueue b q (s.queue b q).head 0x86 0 (s.setQueue b q y)
  else if (s.queue b q).head = (s.queue b q).tail then readLater b q (s.setQueue b q y) else s.setQueue b q y

theorem qtailWrite_enabled (he : (s.queue b q).en = true) :
    execQtailWrite b q v s = .next (retest ((tailWritten b q v s).queuePart b q) (tailWritten b q v s)) := by
  unfold execQtailWrite
  exact (if_neg (by simp [hq, hb])).trans (if_neg (by simp [he]))

end

theorem slotRead_nothing {b : Block} {q : Fin 64} {s : State} (h : (s.queue b q).en = false ∨ (s.queue b q).head = (s.queue b q).tail) :
    execSlotRead b q s = .next s := by
  unfold execSlotRead
  exact if_pos (by rcases h with h | h <;> simp [h])

theorem slotRead_record {b : Block} {q : Fin 64} {s t : State} {bs : List Byte} (hq : hasQueue b q = true)
    (he : (s.queue b q).en = true) (hne : (s.queue b q).head ≠ (s.queue b q).tail) (hp : (s.part (s.queuePart b q)).en = true)
    (hr : s.readVa ⟨s.queuePart b q, (s.queue b q).ctx, 0, none⟩
      ((s.queue b q).base + BitVec.ofNat 64 (128 * ((s.queue b q).head.toNat % 2 ^ (s.queue b q).logn.toNat))) 128 = .ok (bs, t)) :
    execSlotRead b q s = .next (enterLaunch (Launch.fresh b q (s.queue b q) (s.queuePart b q) (launchRecord bs))
      (if (s.queue b q).head + 1 = (s.queue b q).tail then t.setQueue b q { s.queue b q with head := (s.queue b q).head + 1 }
        else readLater b q (t.setQueue b q { s.queue b q with head := (s.queue b q).head + 1 }))) := by
  unfold execSlotRead
  simp only [hq, he, decide_eq_false hne, hp, Bool.not_true, Bool.or_self, Bool.false_eq_true, if_false, hr]

/-! ## The turn -/

theorem turnGrant_held {p : PartId} {s : State} (h : (s.holder p).isSome = true) : execTurnGrant p s = .next s := if_pos h

/-- The highest priority among the candidates of a partition. -/
def topPrio (s : State) (p : PartId) : Nat := (s.candidates p).foldl (fun (a : Nat) (x : Nat × Launch) => max a x.2.prio) 0

/-- The candidates of that priority, and the order in which their queues are served. -/
def topLevel (s : State) (p : PartId) : List (Nat × Launch) := (s.candidates p).filter (fun x => decide (x.2.prio = topPrio s p))
def serviceOrder (s : State) (p : PartId) : List (Nat × Launch) :=
  afterLast ((s.part p).last.get (Fin.ofNat 4 (topPrio s p))).val (byRound (topLevel s p))

theorem turnGrant_free {p : PartId} {s : State} (h : s.holder p = none) : execTurnGrant p s =
    match (topLevel s p).find? (fun x => decide (x.2.state = .held)) with
    | some x => .next ((s.setLaunch x.1 { x.2 with turn := true }).push [.placement p])
    | none => match (serviceOrder s p).find? (fun x => decide (0 < (s.queue x.2.blk x.2.queue).credit)) with
      | some x => .next (serve p x s)
      | none => match (serviceOrder s p).head? with
        | some x => .next (serve p x (refill p s))
        | none => .next s := by
  unfold execTurnGrant
  rw [h]
  rfl

theorem serviceOrder_nil {s : State} {p : PartId} (h : s.candidates p = []) : topLevel s p = [] ∧ serviceOrder s p = [] := by
  have hlevel : topLevel s p = [] := by
    unfold topLevel
    rw [h]
    rfl
  refine ⟨hlevel, ?_⟩
  unfold serviceOrder afterLast byRound
  simp [hlevel]

theorem turnGrant_nobody {p : PartId} {s : State} (h : s.holder p = none) (hc : s.candidates p = []) :
    execTurnGrant p s = .next s := by
  obtain ⟨hlevel, horder⟩ := serviceOrder_nil hc
  rw [turnGrant_free h, hlevel, horder]
  rfl

/-! ## Placement -/

theorem placement_free {p : PartId} {s : State} (h : s.holder p = none) : execPlacement p s = .next (beginLoads p s) := by
  unfold execPlacement
  simp only [h]

section
variable {p : PartId} {i : Nat} {l : Launch} {s : State} (h : s.holder p = some (i, l)) (hs : l.state ≠ .held)
include h hs

theorem placement_copy (hc : l.isCopy = true) : execPlacement p s =
    .next ((s.setLaunch i { l with state := .loading, turn := false }).push [.loadingComplete i, .turnGrant p]) := by
  unfold execPlacement
  simp only [h, if_neg hs, hc, if_true]

theorem placement_quads {qs : List QuadId} (hc : l.isCopy = false) (hq : chooseQuads l.need (s.freeQuads p) = some qs) :
    execPlacement p s = .next ((beginLoads p (reserve i l qs s)).push [.turnGrant p]) := by
  unfold execPlacement
  simp only [h, if_neg hs, hc, Bool.false_eq_true, if_false, hq]

end

/-! ## Dependences and loading -/

/-- The launches and the clock of a machine. -/
def timed (s : State) : List Launch × W64 := (s.launches, s.cyc)

theorem timed_loadImages {i : Nat} {l : Launch} {bytes : Mem} {ds : List DieId} {s u : State}
    (h : loadImages i l bytes s ds = some u) : timed u = timed s := by
  induction ds generalizing s with
  | nil =>
    cases h
    rfl
  | cons d r ih =>
    unfold loadImages at h
    split at h
    · exact (ih h).trans rfl
    · cases h

theorem timed_cores (f : Core → Core) (cs : List CoreId) (s : State) :
    timed (cs.foldl (fun s c => s.updCore c f) s) = timed s :=
  foldl_keeps (g := timed) (f := fun s c => s.updCore c f) (fun _ _ => rfl) cs s

theorem timed_sit (i : Nat) (l : Launch) (x : Seat) (s : State) : timed (sit i l x s) = timed s := by
  unfold sit
  exact timed_cores ..

/-- A strand takes its seat, with what is loaded into its core. -/
def seated (i : Nat) (l : Launch) (areas : List (Nat × List Byte)) (args : List Byte) (s : State) (x : Seat) : State :=
  let s := sit i l x (s.updCore x.core (fun k => (k.cleared l).loaded areas args))
  (s.lendCores x.core).foldl (fun s c => s.updCore c (fun k => { k with file := .replicate 256 [], fileBad := [] })) s

theorem timed_seated (i : Nat) (l : Launch) (areas : List (Nat × List Byte)) (args : List Byte) (s : State) (x : Seat) :
    timed (seated i l areas args s x) = timed s :=
  (timed_cores ..).trans (timed_sit i l x _)

/-- A gang on one module starts 96 ticks on. -/
theorem startGang_single {i : Nat} {l : Launch} {s : State} (hm : l.mmod = false) (hi : i < s.launches.length) :
    (startGang i l s).launch i = some { l with state := .started, gang := .starting, trel := s.cyc + 96 } := by
  have hlrd : s.lrd l = 96 := by
    unfold State.lrd State.gangGroup
    rw [hm]
    rfl
  unfold startGang
  rw [hm]
  simp only [Bool.false_eq_true, if_false, hlrd]
  exact List.getElem?_set_self hi

section
variable {i : Nat} {l : Launch} {s : State} (h : s.launch i = some l)
include h

theorem dependenceTest_waiting (hs : l.state = .waiting) : execDependenceTest i s = .next (match depState s l.ctxOf 0 l.deps with
    | .ready => (s.setLaunch i { l with state := .ready }).push [.turnGrant l.part]
    | .wait => s
    | .fail k => refuseLaunch i l 3 0x81 (BitVec.ofNat 64 k) 0 s
    | .fault f => refuseLaunch i l 2 f.code f.det f.addr s) := by
  unfold execDependenceTest
  simp only [h]
  rw [if_pos hs]
  cases depState s l.ctxOf 0 l.deps <;> rfl

theorem dependenceTest_other (hs : l.state ≠ .waiting) : execDependenceTest i s = .next s := by
  unfold execDependenceTest
  simp only [h]
  exact if_neg hs

theorem loadingComplete_other (hs : l.state ≠ .loading) : execLoadingComplete i s = .next s := by
  unfold execLoadingComplete
  simp only [h]
  exact if_pos hs

theorem copyLaunch_other (hs : l.state ≠ .started ∨ l.isCopy = false) : execCopyLaunch i s = .next s := by
  unfold execCopyLaunch
  simp only [h]
  exact if_pos (by simpa using hs)

theorem completionWrite_eq : execCompletionWrite i s = .next (if l.state = .completing then endLaunch i 1 0 0 s else s) := by
  unfold execCompletionWrite
  simp only [h]

variable (hs : l.state = .loading)
include hs

theorem loadingComplete_behind (hb : s.behind i l = true) : execLoadingComplete i s = .next (s.later 1 (.loadingComplete i)) := by
  unfold execLoadingComplete
  simp only [h]
  rw [if_neg (not_not.mpr hs), if_pos hb]

variable (hb : s.behind i l = false)
include hb

theorem loadingComplete_copy (hc : l.isCopy = true) :
    execLoadingComplete i s = .next ((s.setLaunch i { l with state := .started }).push [.copyLaunch i]) := by
  unfold execLoadingComplete
  simp only [h]
  rw [if_neg (not_not.mpr hs), if_neg (by simp [hb]), if_pos hc]

variable (hc : l.isCopy = false)
include hc

theorem loadingComplete_maintained (hm : s.maintained l = true) :
    execLoadingComplete i s = .next (s.later loadRetry (.loadingComplete i)) := by
  unfold execLoadingComplete
  simp only [h]
  rw [if_neg (not_not.mpr hs), if_neg (by simp [hb]), if_neg (by simp [hc]), if_pos hm]

theorem loadingComplete_loads (hm : s.maintained l = false) {code : Mem} {areas : List (Nat × List Byte)} {args : List Byte}
    {u : State} (hl : s.loads l = .ok (code, areas, args)) (hu : loadImages i l code s l.dies = some u) :
    execLoadingComplete i s = .next (startGang i l (l.seats.foldl (seated i l areas args) u)) := by
  unfold execLoadingComplete
  simp only [h]
  rw [if_neg (not_not.mpr hs), if_neg (by simp [hb]), if_neg (by simp [hc]), if_neg (by simp [hm])]
  simp only [hl, hu]
  rfl

end

theorem loaded_launch {i : Nat} {l : Launch} {s u : State} {code : Mem} {areas : List (Nat × List Byte)} {args : List Byte}
    (h : s.launch i = some l) (hu : loadImages i l code s l.dies = some u) (hm : l.mmod = false) :
    (startGang i l (l.seats.foldl (seated i l areas args) u)).launch i =
      some { l with state := .started, gang := .starting, trel := s.cyc + 96 } := by
  have htimed : timed (l.seats.foldl (seated i l areas args) u) = timed s :=
    (foldl_keeps (fun s x => timed_seated i l areas args s x) _ _).trans (timed_loadImages hu)
  have hlaunches : (l.seats.foldl (seated i l areas args) u).launches = s.launches := congrArg Prod.fst htimed
  have hcyc : (l.seats.foldl (seated i l areas args) u).cyc = s.cyc := congrArg Prod.snd htimed
  have hi : i < s.launches.length := (List.getElem?_eq_some_iff.mp h).1
  rw [startGang_single hm (hlaunches ▸ hi), hcyc]

/-! ## The watchdog -/

theorem watchdogTest_none {s : State} (h : s.launches = []) : execWatchdogTest s = .next s := by
  unfold execWatchdogTest
  rw [h]
  rfl

theorem watchdogTest_fires {s : State} {l : Launch} {d : W64} (h : s.launches = [l]) (hp : l.pre = none)
    (hd : watchdogDet s l = some d) : execWatchdogTest s = .next (fire 0 l d s) := by
  have hl : s.launch 0 = some l := by
    unfold State.launch
    rw [h]
    rfl
  unfold execWatchdogTest
  rw [h]
  simp only [List.length_singleton, List.range_one, List.foldl_cons, List.foldl_nil, hl, hp, hd]
  rfl

/-- Settles O31. -/
theorem launchEventsRun : Obligations.LaunchEventsRun := by
  intro b q v i l p s x
  refine ⟨fun h => (exec_qtailWrite s).trans (qtailWrite_closed h),
    fun hq hb => ⟨fun he => (exec_qtailWrite s).trans (qtailWrite_disabled hq hb he),
      fun he => (exec_qtailWrite s).trans (qtailWrite_enabled hq hb he)⟩,
    fun h => (exec_slotRead s).trans (slotRead_nothing h),
    fun bs t hq he hne hp hr => (exec_slotRead s).trans (slotRead_record hq he hne hp hr), fun _ => rfl,
    fun h => (exec_turnGrant s).trans (turnGrant_held h), fun h hc => (exec_turnGrant s).trans (turnGrant_nobody h hc),
    fun k h => ⟨fun hheld => ?_, fun hnone hk => ?_⟩, fun h => (exec_placement s).trans (placement_free h),
    fun h => ⟨fun hs => (exec_dependenceTest s).trans (dependenceTest_waiting h hs),
      fun hs => (exec_dependenceTest s).trans (dependenceTest_other h hs),
      fun hs => (exec_loadingComplete s).trans (loadingComplete_other h hs),
      fun hs hb => (exec_loadingComplete s).trans (loadingComplete_behind h hs hb),
      fun hs hb hc => (exec_loadingComplete s).trans (loadingComplete_copy h hs hb hc),
      fun hs hb hc hm => (exec_loadingComplete s).trans (loadingComplete_maintained h hs hb hc hm),
      fun code areas args u hs hb hc hm hl hu hmmod =>
        ⟨_, (exec_loadingComplete s).trans (loadingComplete_loads h hs hb hc hm hl hu), loaded_launch h hu hmmod⟩,
      fun hs => (exec_copyLaunch s).trans (copyLaunch_other h hs), (exec_completionWrite s).trans (completionWrite_eq h)⟩,
    fun h hs => ⟨fun hc => (exec_placement s).trans (placement_copy h hs hc),
      fun qs hc hq => (exec_placement s).trans (placement_quads h hs hc hq)⟩,
    fun h => (exec_watchdogTest s).trans (watchdogTest_none h),
    fun d h hp hd => (exec_watchdogTest s).trans (watchdogTest_fires h hp hd)⟩
  · change (topLevel s p).find? (fun x => decide (x.2.state = .held)) = some k at hheld
    rw [exec_turnGrant, turnGrant_free h, hheld]
  · change (topLevel s p).find? (fun x => decide (x.2.state = .held)) = none at hnone
    change (serviceOrder s p).find? _ = some k at hk
    rw [exec_turnGrant, turnGrant_free h, hnone]
    simp only [hk]

/-! ## Copy launches -/

section
variable {i : Nat} {l : Launch} {bs : List Byte} {src dst : W64} {len : Nat} {s t : State} (h : s.launch i = some l)
  (hs : l.state = .started) (hc : l.isCopy = true) (hr : s.readVa l.ctxOf (l.record.get 2) 64 = .ok (bs, t))
  (hb : copyBlock bs = some (src, dst, len))
include h hs hc hr hb

theorem copyLaunch_done (hl : len ≤ l.copied) :
    execCopyLaunch i s = .next (s.setLaunch i { l with state := .completing, gang := .ended, ended := s.cyc }) := by
  unfold execCopyLaunch
  simp only [h]
  rw [if_neg (by simp [hs, hc])]
  simp only [hr, hb]
  rw [if_pos hl]

theorem copyLaunch_moves {data : List Byte} {u w : State} (hl : l.copied < len)
    (hu : s.readVa l.ctxOf (src + BitVec.ofNat 64 l.copied) 128 = .ok (data, u))
    (hw : u.writeVa l.ctxOf (dst + BitVec.ofNat 64 l.copied) data = .ok w) :
    execCopyLaunch i s = .next ((w.setLaunch i { l with copied := l.copied + 128 }).later 1 (.copyLaunch i)) := by
  unfold execCopyLaunch
  simp only [h]
  rw [if_neg (by simp [hs, hc])]
  simp only [hr, hb]
  rw [if_neg (Nat.not_le.mpr hl)]
  simp only [hu, hw]

end

/-- Settles O32. -/
theorem copyLaunchMoves : Obligations.CopyLaunchMoves := by
  intro i l bs data src dst len s t u w h hs hc hr hb
  exact ⟨fun hl => (exec_copyLaunch s).trans (copyLaunch_done h hs hc hr hb hl),
    fun hl hu hw => (exec_copyLaunch s).trans (copyLaunch_moves h hs hc hr hb hl hu hw)⟩

end Sys2Proof.Proofs

/-! Pre-emption, images, resuming, GCTL and gangs over modules (12 R230, 19 R299 to R304, 20 R317 to R319). -/

namespace Sys2Proof.Proofs
open Sys2Proof Sys2Proof.Machine Sys2Proof.Laws

/-! ## Pre-emption, images and resuming -/

section
variable {i : Nat} {l : Launch} {s : State} (h : s.launch i = some l)
include h

theorem preemptionRequest_none (hp : l.pre = none) : execPreemptionRequest i s = .next s := by
  unfold execPreemptionRequest
  simp only [h, hp]

theorem preemptionRequest_other {w : PreWhy} (hp : l.pre = some w) (hs : l.state ≠ .started) : execPreemptionRequest i s = .next s := by
  unfold execPreemptionRequest
  simp only [h, hp]
  exact if_pos hs

theorem preemptionRequest_started {w : PreWhy} (hp : l.pre = some w) (hs : l.state = .started) : execPreemptionRequest i s =
    .next (if (w = .priority ∨ w = .drain) ∧ s.inLock l = true then s else stopGang l s) := by
  unfold execPreemptionRequest
  simp only [h, hp]
  rw [if_neg (not_not.mpr hs)]
  exact (apply_ite Host.Outcome.next _ _ _).symm

theorem imageWritten_snap {c : CoreId} {va : W64} (hs : s.snapCore l = some (c, va)) :
    execImageWritten i s = .next (snapWrite i l c va s) := by
  unfold execImageWritten
  simp only [h, hs]

theorem imageWritten_none (hs : s.snapCore l = none) (hp : l.pre = none) : execImageWritten i s = .next s := by
  unfold execImageWritten
  simp only [h, hs, hp]

theorem imageWritten_saved {w : PreWhy} {t : State} (hs : s.snapCore l = none) (hp : l.pre = some w) (hst : l.state = .started)
    (hq : l.cores.all s.quiet = true) (hb : s.barPending i = false) (ht : saveAll l s = .ok t) :
    execImageWritten i s = .next (saved i l w t) := by
  unfold execImageWritten
  simp only [h, hs, hp]
  rw [if_pos ⟨hst, hq, by simp [hb]⟩]
  simp only [ht]

theorem gangResume_other (hh : l.state ≠ .held) (hs : l.state ≠ .saved) (hr : l.state ≠ .resuming) :
    execGangResume i s = .next s := by
  unfold execGangResume
  simp only [h]
  rw [if_neg (by simp [hh, hs]), if_neg (by simp [hr])]

/-- A launch that resumes, as it goes on. -/
def resumed (l : Launch) : Launch := { l with state := .started, fcode := 0, det := 0 }

theorem gangResume_due (hr : l.state = .resuming) (ht : l.turn = false) (hc : l.resumed.toNat ≤ s.cyc.toNat) :
    execGangResume i s = .next ((goOn i (resumed l) (s.setLaunch i (resumed l))).push
      ((if l.pre.isSome then [.preemptionRequest i] else []) ++ [.placement l.part])) := by
  unfold execGangResume
  simp only [h]
  rw [if_neg (by simp [ht]), if_pos ⟨hr, decide_eq_true hc⟩]
  rfl

end

/-! ## GCTL -/

theorem gctlResume_named {b : Block} {q : Fin 64} {seq : W16} {i : Nat} {l : Launch} {s : State} (h : s.gctl b q seq = some (i, l)) :
    execGctlResume b q seq s = .next ((s.setLaunch i { l with turn := true }).push [.gangResume i]) := by
  unfold execGctlResume
  simp only [h]

theorem gctlDiscard_named {b : Block} {q : Fin 64} {seq : W16} {i : Nat} {l : Launch} {s : State} (h : s.gctl b q seq = some (i, l)) :
    execGctlDiscard b q seq s = .next (if l.fcode = 0 then endLaunch i 2 0x84 l.det (launchFault l 0x84 l.det 0 s)
      else endLaunch i 2 l.fcode l.det s) := by
  unfold execGctlDiscard
  simp only [h]
  rfl

theorem gctlResume_none {b : Block} {q : Fin 64} {seq : W16} {s : State} (h : s.gctl b q seq = none) :
    execGctlResume b q seq s = .next s := by
  unfold execGctlResume
  simp only [h]

theorem gctlDiscard_none {b : Block} {q : Fin 64} {seq : W16} {s : State} (h : s.gctl b q seq = none) :
    execGctlDiscard b q seq s = .next s := by
  unfold execGctlDiscard
  simp only [h]

/-! ## Gangs over modules -/

section
variable {i : Nat} {l : Launch} {s : State} (h : s.launch i = some l)
include h

theorem prepare_member {gid : W32} {tlim : W64} {gang heat : Nat} (hp : l.pending = true) (hg : l.gid = gid)
    (hm : s.hasMaster l = false) :
    execPrepare i gid tlim gang heat s = .next (applyPrepare i l { gid := gid, tlim := tlim, gang := gang, heat := heat } s) := by
  unfold execPrepare
  simp only [h]
  rw [if_pos ⟨hp, hg, by simp [hm]⟩]

theorem prepare_other {gid : W32} {tlim : W64} {gang heat : Nat} (hg : l.gid ≠ gid) : execPrepare i gid tlim gang heat s = .next s := by
  unfold execPrepare
  simp only [h]
  rw [if_neg (by simp [hg])]

theorem prepareReply_other (hs : l.state ≠ .prepared) (rank : Fin 64) (ack : Option (BitVec 4)) :
    execPrepareReply i rank ack s = .next s := by
  unfold execPrepareReply
  simp only [h]
  exact if_neg (fun hc => hs hc.1)

theorem tlimExpiry_eq : execTlimExpiry i s = .next (if l.pending = true ∧ l.tlim ≠ 0 ∧
      (if s.hasMaster l then l.tlim - BitVec.ofNat 64 commitTicks else l.tlim).toNat ≤ s.cyc.toNat
    then (if s.hasMaster l = false ∧ l.state = .prepared ∧ l.acks ≠ [] then abortGang i l s else prepFail i s) else s) := by
  unfold execTlimExpiry
  simp only [h, cycGe_eq, decide_eq_true_eq, Bool.not_eq_true']

variable (hs : l.state = .prepared) (hg : l.gang = .placed) (hm : s.hasMaster l = true)
include hs hg hm

theorem prepareReply_nack (rank : Fin 64) : execPrepareReply i rank none s = .next (prepFail i s) := by
  unfold execPrepareReply
  simp only [h]
  exact if_pos ⟨hs, hg, hm⟩

theorem prepareReply_commits {rank : Fin 64} (hr : rank ∈ l.acks) (ha : s.allAcks l = true)
    (ht : s.cyc.toNat + commitTicks ≤ l.tlim.toNat) (dies : BitVec 4) : execPrepareReply i rank (some dies) s =
      .next ((s.setLaunch i { l with gang := .starting, trel := s.cyc + BitVec.ofNat 64 commitTicks }).later commitTicks
        (.startingLockRelease i)) := by
  unfold execPrepareReply
  simp only [h]
  rw [if_pos ⟨hs, hg, hm⟩, if_pos (List.contains_iff_mem.mpr hr), if_pos ⟨ha, ht⟩]

end

theorem commit_one {gid : W32} {tc : W64} {i : Nat} {s : State}
    (h : s.ofGid gid (fun l => decide (l.state = .prepared ∧ l.gang = .placed ∧ l.acks ≠ []) && cycGe l.tlim s.cyc) = [i]) :
    execCommit gid tc s = .next ((s.updLaunch i (fun l => { l with gang := .starting, trel := tc })).later ((tc - s.cyc).toNat)
      (.startingLockRelease i)) := by
  unfold execCommit
  rw [h]
  rfl

theorem abort_one {gid : W32} {i j : Nat} {m : Launch} {s : State} (hp : s.ofGid gid Launch.pending = [j])
    (ho : (prepFail j s).ofGid gid (fun l => l.occupies && decide (l.state ≠ .completing) && decide (l.gang ≠ .placed)) = [i])
    (hm : (prepFail j s).launch i = some m) : execAbort gid s = .next (abortGang i m (prepFail j s)) := by
  unfold execAbort
  simp only [hp, List.foldl_cons, List.foldl_nil, ho, hm]

/-- Settles O33. -/
theorem gangEventsRun : Obligations.GangEventsRun := by
  intro i l w b q seq gid tlim gang heat rank dies s h
  refine ⟨fun hp => (exec_preemptionRequest s).trans (preemptionRequest_none h hp),
    fun hp => ⟨fun hs => (exec_preemptionRequest s).trans (preemptionRequest_other h hp hs),
      fun hs => (exec_preemptionRequest s).trans (preemptionRequest_started h hp hs)⟩,
    fun c va hs => (exec_imageWritten s).trans (imageWritten_snap h hs),
    fun hs hp => (exec_imageWritten s).trans (imageWritten_none h hs hp),
    fun t hs hp hst hq hb ht => (exec_imageWritten s).trans (imageWritten_saved h hs hp hst hq hb ht),
    fun hh hs hr => (exec_gangResume s).trans (gangResume_other h hh hs hr),
    fun hr ht hc => (exec_gangResume s).trans (gangResume_due h hr ht hc),
    fun hn => ⟨(exec_gctlResume s).trans (gctlResume_named hn), (exec_gctlDiscard s).trans (gctlDiscard_named hn)⟩,
    fun hn => ⟨(exec_gctlResume s).trans (gctlResume_none hn), (exec_gctlDiscard s).trans (gctlDiscard_none hn)⟩,
    fun hp hg hm => ?_, fun hg => (exec_prepare s).trans (prepare_other h hg),
    fun hs hg hm => (exec_prepareReply s).trans (prepareReply_nack h hs hg hm rank),
    fun hs hg hm hr ha ht => (exec_prepareReply s).trans (prepareReply_commits h hs hg hm hr ha ht dies),
    fun hs ack => (exec_prepareReply s).trans (prepareReply_other h hs rank ack),
    (exec_tlimExpiry s).trans (tlimExpiry_eq h), fun ho => (exec_commit s).trans (commit_one ho),
    fun j m hp ho hm => (exec_abort s).trans (abort_one hp ho hm)⟩
  refine (exec_prepare s).trans ((prepare_member h hp hg hm).trans (congrArg Host.Outcome.next ?_))
  unfold applyPrepare
  simp only [cycGe_eq, decide_eq_true_eq]
  cases s.gangGroup l <;> rfl

end Sys2Proof.Proofs

/-! Partition events: the table, its twins, releases, the scrub gate, invalidation, page walks and bindings (21 R325 to R335). -/

namespace Sys2Proof.Proofs
open Sys2Proof Sys2Proof.Machine Sys2Proof.Laws

/-! ## The partition table -/

theorem partitionTable_booting {p : PartId} {r : PtReg} {v : W64} {s : State} (h : s.boot ≠ .running) :
    execPartitionTableWrite p r v s = .next s := if_pos h

section
variable {p : PartId} {r : PtReg} {v : W64} {s : State} (h : s.boot = .running)
include h

theorem partitionTable_refused (hb : badPtWrite (s.part p) r v = true) :
    execPartitionTableWrite p r v s = .next (s.setPart p ((s.part p).refused 3)) :=
  (if_neg (not_not.mpr h)).trans (if_pos hb)

theorem partitionTable_written (hb : badPtWrite (s.part p) r v = false) :
    execPartitionTableWrite p r v s = .next (if !(s.part p).en && ((s.setPart p ((s.part p).setReg r v)).part p).en
      then enableReads p (s.setPart p ((s.part p).setReg r v)) else s.setPart p ((s.part p).setReg r v)) :=
  (if_neg (not_not.mpr h)).trans (if_neg (by simp [hb]))

end

/-! ## The twins -/

/-- A mask register reads what was written to it. -/
theorem reg_setReg_same {r : PtReg} (h : isMask r = true) (a b : Masks) (v : W64) : (a.setReg r v).reg r = (b.setReg r v).reg r := by
  cases r with
  | quad => rfl
  | hbm => rfl
  | l2 k => exact (get_set_same a.l2 k v).trans (get_set_same b.l2 k v).symm
  | l2m k => exact (get_set_same a.stg k v).trans (get_set_same b.stg k v).symm
  | sync d => exact (get_set_same a.sync d v).trans (get_set_same b.sync d v).symm
  | ctl => cases h
  | s2 => cases h
  | mem => cases h
  | ingb => cases h
  | fab => cases h

/-- The other mask registers stay. -/
theorem reg_setReg_ne {r r' : PtReg} (h : r' ≠ r) (a : Masks) (v : W64) : (a.setReg r v).reg r' = a.reg r' := by
  cases r with
  | quad =>
    cases r' with
    | quad => exact absurd rfl h
    | _ => rfl
  | hbm =>
    cases r' with
    | hbm => exact absurd rfl h
    | _ => rfl
  | l2 k =>
    cases r' with
    | l2 k' => exact get_set_ne a.l2 k k' v (fun e => h (congrArg PtReg.l2 e.symm))
    | _ => rfl
  | l2m k =>
    cases r' with
    | l2m k' => exact get_set_ne a.stg k k' v (fun e => h (congrArg PtReg.l2m e.symm))
    | _ => rfl
  | sync d =>
    cases r' with
    | sync d' => exact get_set_ne a.sync d d' v (fun e => h (congrArg PtReg.sync e.symm))
    | _ => rfl
  | ctl => rfl
  | s2 => rfl
  | mem => rfl
  | ingb => rfl
  | fab => rfl

theorem addTwin_other {p : PartId} {r : PtReg} {v : W64} {s : State} (h : isMask r = false) : execAddTwinWrite p r v s = .next s :=
  if_pos (by simp [h])

theorem relTwin_other {p : PartId} {r : PtReg} {v dl : W64} {s : State} (h : isMask r = false) :
    execRelTwinWrite p r v dl s = .next s :=
  if_pos (by simp [h])

theorem relTwin_refused {p : PartId} {r : PtReg} {v dl : W64} {s : State} (h : isMask r = true)
    (hr : ((s.part p).resizing = true ∧ (s.part p).joins r s.cyc = false) ∨
    ((Masks.ofReg r v).minus (s.part p).held).empty = false) :
    execRelTwinWrite p r v dl s = .next (s.setPart p ((s.part p).refused 3)) := by
  refine (if_neg (by simp [h])).trans (if_pos ?_)
  rcases hr with ⟨hz, hj⟩ | hm
  · exact Or.inl ⟨hz, by simp [hj]⟩
  · exact Or.inr (Or.inl (by simp [hm]))

section
variable {p : PartId} {r : PtReg} {v dl : W64} {s : State} (h : isMask r = true) (hv : ¬(r = .quad ∧ fld v 63 32 ≠ 0))
include h hv

theorem addTwin_held (hh : ((Masks.ofReg r v).and (s.part p).held).empty = false) :
    execAddTwinWrite p r v s = .next (s.setPart p ((s.part p).refused 2)) :=
  (if_neg (by simp [h])).trans ((if_neg hv).trans (if_pos (by simp [hh])))

theorem addTwin_taken (hh : ((Masks.ofReg r v).and (s.part p).held).empty = true)
    (hf : ((Masks.ofReg r v).minus (s.freeRes.or (Masks.ofReg r ((s.part p).add.reg r)))).empty = false) :
    execAddTwinWrite p r v s = .next (s.setPart p ((s.part p).refused 1)) :=
  (if_neg (by simp [h])).trans ((if_neg hv).trans ((if_neg (by simp [hh])).trans (if_pos (by simp [hf]))))

/-- The machine with free resources named for a partition. -/
def granted (p : PartId) (r : PtReg) (v : W64) (s : State) : State :=
  { s.setPart p { s.part p with add := (s.part p).add.setReg r v, pendAdd := !((s.part p).add.setReg r v).empty } with
    freeRes := (s.freeRes.or (Masks.ofReg r ((s.part p).add.reg r))).minus (Masks.ofReg r v) }

theorem addTwin_granted (hh : ((Masks.ofReg r v).and (s.part p).held).empty = true)
    (hf : ((Masks.ofReg r v).minus (s.freeRes.or (Masks.ofReg r ((s.part p).add.reg r)))).empty = true) :
    execAddTwinWrite p r v s = .next (grow p (granted p r v s)) :=
  (if_neg (by simp [h])).trans ((if_neg hv).trans ((if_neg (by simp [hh])).trans (if_neg (by simp [hf]))))

theorem relTwin_joins (hj : (s.part p).joins r s.cyc = true) (hm : ((Masks.ofReg r v).minus (s.part p).held).empty = true) :
    execRelTwinWrite p r v dl s = .next (s.setPart p { s.part p with
      rel := (s.part p).rel.setReg r v, rsz := (s.part p).rel.setReg r v }) := by
  have hreq : (s.part p).requested = true := (Bool.and_eq_true_iff.mp hj).1
  exact (if_neg (by simp [h])).trans ((if_neg (by simp [hj, hm]; simpa using hv)).trans (if_pos hreq))

/-- A partition with a new request. -/
def requested (r : PtReg) (v dl now : W64) (x : Partition) : Partition := { x with
  rel := x.rel.setReg r v, rsz := x.rel.setReg r v, rid := x.rid + 1, requested := true, reqAt := now, deadline := dl }

theorem relTwin_requests (hz : (s.part p).resizing = false) (hm : ((Masks.ofReg r v).minus (s.part p).held).empty = true)
    (he : (Masks.ofReg r v).empty = false) :
    execRelTwinWrite p r v dl s = .next ((postInt (.part p) 2 0 0 (((s.part p).rid + 1).zeroExtend 64) dl
      (s.setPart p (requested r v dl s.cyc (s.part p)))).later
        ((dl - (postInt (.part p) 2 0 0 (((s.part p).rid + 1).zeroExtend 64) dl
          (s.setPart p (requested r v dl s.cyc (s.part p)))).cyc).toNat) (.resizeDeadline p)) := by
  have hreq : ¬ (s.part p).requested = true := by
    rw [(Bool.or_eq_false_iff.mp hz).1]
    exact Bool.false_ne_true
  exact (if_neg (by simp [h])).trans ((if_neg (by simp [hz, hm]; simpa using hv)).trans ((if_neg hreq).trans (if_neg (by simp [he]))))

end

theorem rszackWrite_eq (p : PartId) (rid : W16) (s : State) : execRszackWrite p rid s =
    .next (if (s.part p).requested = true ∧ (s.part p).rid = rid then beginRelease p s else s) := rfl

theorem resizeDeadline_eq (p : PartId) (s : State) : execResizeDeadline p s =
    .next (if (s.part p).requested = true ∧ (s.part p).deadline.toNat ≤ s.cyc.toNat then beginRelease p s else s) := by
  unfold execResizeDeadline
  simp only [cycGe_eq, decide_eq_true_eq]

/-! ## The scrub gate -/

theorem scrubGate_other {z : Resource} {fails : W32} {s : State} (h : s.scrubbing.contains z = false) :
    execScrubGateDone z fails s = .next s := if_pos (by rw [h]; rfl)

theorem scrubGate_pending {z : Resource} {fails : W32} {s t : State} (h : s.scrubbing.contains z = true)
    (hp : gatePending z s = some t) : execScrubGateDone z fails s = .next t := by
  unfold execScrubGateDone
  rw [if_neg (by rw [h]; exact Bool.false_ne_true), hp]

/-- The machine after the gate is done with a resource. -/
def gateDone (z : Resource) (fails : W32) (s : State) : State :=
  let t := scrub z fails { s with scrubbing := s.scrubbing.erase z }
  if t.gatePasses z then { t with freeRes := t.freeRes.or (Masks.one z) } else t

theorem scrubGate_done {z : Resource} {fails : W32} {s : State} (h : s.scrubbing.contains z = true) (hp : gatePending z s = none)
    (hr : (gateDone z fails s).releaser z = none) : execScrubGateDone z fails s = .next (bringUp (gateDone z fails s)) := by
  unfold gateDone at hr ⊢
  unfold execScrubGateDone
  rw [if_neg (by rw [h]; exact Bool.false_ne_true), hp]
  simp only [hr]

/-! ## Invalidation, walks and bindings -/

theorem tinvWrite_eq (p : PartId) (v : W64) (s : State) : execTinvWrite p v s =
    .next (if s.blockOpen (.part p) = true ∧ (s.part p).tinvDone = true ∧ fld v 1 0 ≠ 3
      then (s.setPart p { s.part p with tinv := v, tinvDone := false, tinvWait := none }).later tinvTicks (.tinvComplete p) else s) := by
  have hcond : (!s.blockOpen (.part p) || !(s.part p).tinvDone || decide (fld v 1 0 = 3)) = true ↔
      ¬ (s.blockOpen (.part p) = true ∧ (s.part p).tinvDone = true ∧ fld v 1 0 ≠ 3) := by
    cases s.blockOpen (.part p) <;> cases (s.part p).tinvDone <;> simp
  unfold execTinvWrite
  by_cases hc : s.blockOpen (.part p) = true ∧ (s.part p).tinvDone = true ∧ fld v 1 0 ≠ 3
  · rw [if_pos hc]
    exact if_neg (fun e => hcond.mp e hc)
  · rw [if_neg hc]
    exact if_pos (hcond.mpr hc)

theorem tinvComplete_done {p : PartId} {s : State} (h : (s.part p).tinvDone = true) : execTinvComplete p s = .next s := if_pos h

/-- The machine with the entries of an invalidation dropped, and what it still awaits there. -/
def invalidated (p : PartId) (s : State) : State :=
  if (s.part p).tinvWait.isNone then dropTlb (tinvHits p (s.part p).tinv) s else s
def awaited (p : PartId) (s : State) : List (Fin 64 × Fin 64 × W32) × List (CoreId × Nat) :=
  stillOut (invalidated p s) p ((s.part p).tinvWait.getD ((s.part p).sentPpa, (invalidated p s).askedBy p))

theorem tinvComplete_looks {p : PartId} {s : State} (h : (s.part p).tinvDone = false) : execTinvComplete p s =
    .next (if awaited p s = ([], []) then (invalidated p s).setPart p { s.part p with tinvDone := true, tinvWait := none }
      else ((invalidated p s).setPart p { s.part p with tinvWait := some (awaited p s) }).later tinvLook (.tinvComplete p)) := by
  have hcond : ((awaited p s).1.isEmpty && (awaited p s).2.isEmpty) = true ↔ awaited p s = ([], []) := by
    rw [Bool.and_eq_true, List.isEmpty_iff, List.isEmpty_iff, Prod.ext_iff]
  refine (if_neg (by simp [h])).trans ?_
  rw [apply_ite Host.Outcome.next]
  by_cases hc : awaited p s = ([], [])
  · exact (if_pos (hcond.mpr hc)).trans (if_pos hc).symm
  · exact (if_neg (fun e => hc (hcond.mp e))).trans (if_neg hc).symm

/-- A walk of a request, as the end of a walk looks for it. -/
def walkOf (p : PartId) (ctx : Byte) (va : W64) (w : Walk) : Bool :=
  w.begun && decide (w.part = p ∧ w.ctx = ctx ∧ w.va = va ∧ w.failed = false)

theorem pageWalk_none {d : DieId} {p : PartId} {ctx : Byte} {va : W64} {s : State}
    (h : (s.die d).walks.find? (walkOf p ctx va) = none) : execPageWalkComplete d p ctx va s = .next s := by
  unfold walkOf at h
  unfold execPageWalkComplete
  simp only [h]

theorem pageWalk_ends {d : DieId} {p : PartId} {ctx : Byte} {va : W64} {s t : State} {w : Walk}
    (h : (s.die d).walks.find? (walkOf p ctx va) = some w)
    (ht : s.setDie d { s.die d with walks := (s.die d).walks.erase w } = t) :
    execPageWalkComplete d p ctx va s = .next (beginWalks d (match t.walkVa d p ctx va with
      | .ok e => fillWalk d va e t
      | .error _ => t.setDie d { t.die d with walks := { w with failed := true } :: (t.die d).walks })) := by
  unfold walkOf at h
  unfold execPageWalkComplete
  simp only [h, ht] <;> cases t.walkVa d p ctx va <;> rfl

theorem bindUnbind_closed {p : PartId} {idx : Fin 1024} {s : State} (h : s.blockOpen (.part p) = false) :
    execBindUnbind p idx s = .next s := if_pos (by simp [h])

theorem bindUnbind_open {p : PartId} {idx : Fin 1024} {s : State} {t : Fin 1024} (h : s.blockOpen (.part p) = true)
    (ht : s.bindTile p idx.val = some t) : execBindUnbind p idx s =
      .next (s.setPart p { s.part p with bind := (s.part p).bind.set t.val none t.isLt }) := by
  unfold execBindUnbind
  rw [if_neg (by simp [h]), ht]

/-- Settles O34. -/
theorem partitionEventsRun : Obligations.PartitionEventsRun := by
  intro p r v dl rid z fails d ctx idx s x m
  refine ⟨fun h => (exec_partitionTableWrite s).trans (partitionTable_booting h),
    fun h hb => (exec_partitionTableWrite s).trans (partitionTable_refused h hb),
    fun h hb => (exec_partitionTableWrite s).trans (partitionTable_written h hb),
    fun h => ⟨(exec_addTwinWrite s).trans (addTwin_other h), (exec_relTwinWrite s).trans (relTwin_other h)⟩,
    fun h hv => ⟨⟨reg_setReg_same h _ _ v, reg_setReg_same h _ _ v, fun r' hr => ⟨reg_setReg_ne hr _ v, reg_setReg_ne hr _ v⟩⟩,
      fun hh => (exec_addTwinWrite s).trans (addTwin_held h hv hh),
      fun hh hf => (exec_addTwinWrite s).trans (addTwin_taken h hv hh hf),
      fun hh hf => (exec_addTwinWrite s).trans (addTwin_granted h hv hh hf),
      fun hr => (exec_relTwinWrite s).trans (relTwin_refused h hr),
      fun hj hm => (exec_relTwinWrite s).trans (relTwin_joins h hv hj hm),
      fun hz hm he => (exec_relTwinWrite s).trans (relTwin_requests h hv hz hm he)⟩,
    (exec_rszackWrite s).trans (rszackWrite_eq p rid s), (exec_resizeDeadline s).trans (resizeDeadline_eq p s),
    fun h => (exec_scrubGateDone s).trans (scrubGate_other h),
    fun t h hp => (exec_scrubGateDone s).trans (scrubGate_pending h hp),
    fun h hp hr => (exec_scrubGateDone s).trans (scrubGate_done h hp hr),
    (exec_tinvWrite s).trans (tinvWrite_eq p v s), fun h => (exec_tinvComplete s).trans (tinvComplete_done h),
    fun h => (exec_tinvComplete s).trans (tinvComplete_looks h),
    ⟨fun h => (exec_pageWalkComplete s).trans (pageWalk_none h), fun w h => (exec_pageWalkComplete s).trans (pageWalk_ends h rfl)⟩,
    fun h => (exec_bindUnbind s).trans (bindUnbind_closed h), fun t h ht => (exec_bindUnbind s).trans (bindUnbind_open h ht)⟩

end Sys2Proof.Proofs

/-! The host port: function resets, the host window and registers (21 R324, R335, 22 R337 to R342, R351, 27 R383). -/

namespace Sys2Proof.Proofs
open Sys2Proof Sys2Proof.Machine Sys2Proof.Laws

/-! ## The host window -/

theorem closed_cond {p : PartId} {s : State} (h : s.pcieUp = false ∨ s.blockOpen (.part p) = false) :
    (!s.pcieUp || !s.blockOpen (.part p)) = true := by
  rcases h with h | h <;> simp [h]

theorem hostWindowRead_closed {p : PartId} {off : BitVec 36} {n : Fin 4097} {s : State}
    (h : s.pcieUp = false ∨ s.blockOpen (.part p) = false) : execHostWindowRead p off n s = .next { s with hostData := none } :=
  if_pos (closed_cond h)

theorem hostWindowWrite_closed {p : PartId} {off : BitVec 36} {bs : List Byte} {s : State}
    (h : s.pcieUp = false ∨ s.blockOpen (.part p) = false) : execHostWindowWrite p off bs s = .next s :=
  if_pos (closed_cond h)

section
variable {p : PartId} {off : BitVec 36} {s : State} (hu : s.pcieUp = true) (hb : s.blockOpen (.part p) = true)
include hu hb

theorem open_cond : ¬ (!s.pcieUp || !s.blockOpen (.part p)) = true := by simp [hu, hb]

theorem hostWindowRead_open (n : Fin 4097) : execHostWindowRead p off n s =
    .next (match s.readVa (s.windowCtx p) ((s.part p).windowVa off) n.val with
      | .ok r => { r.2 with hostData := some r.1 }
      | .error f => { windowFault p f s with hostData := none }) := by
  refine (if_neg (open_cond hu hb)).trans ?_
  cases s.readVa (s.windowCtx p) ((s.part p).windowVa off) n.val <;> rfl

theorem hostWindowWrite_open (bs : List Byte) : execHostWindowWrite p off bs s =
    .next (match s.writeVa (s.windowCtx p) ((s.part p).windowVa off) bs with
      | .ok t => t
      | .error f => windowFault p f s) := by
  refine (if_neg (open_cond hu hb)).trans ?_
  cases s.writeVa (s.windowCtx p) ((s.part p).windowVa off) bs <;> rfl

end

/-! ## Registers -/

theorem registerWrite_down {r : HostReg} {v : W64} {s : State} (h : s.pcieUp = false) : execRegisterWrite r v s = .next s :=
  if_pos (by simp [h])

theorem rcRegisterRead_down {r : HostReg} {s : State} (h : s.pcieUp = false) :
    execRcRegisterRead r s = .next { s with hostData := none } := by
  unfold execRcRegisterRead
  simp [h]

section
variable {r : HostReg} {v : W64} {s : State} (h : s.pcieUp = true)
include h

theorem registerWrite_rel {p : PartId} {x : PtReg} (hr : regOf r = .ptRel p x) : execRegisterWrite r v s =
    .next (({ s with free := s.free + 1 } : State).push [.relTwinWrite p x v (Config.free s.free)]) := by
  unfold execRegisterWrite
  simp [h, hr, regBlock, State.draw]

theorem registerWrite_other (hr : ∀ q x, regOf r ≠ .ptRel q x) : execRegisterWrite r v s = .next (match regBlock (regOf r) with
    | some b => if s.blockOpen b then (writePartReg (regOf r) v (writeQueueReg (regOf r) v s)).push (writeEvents (regOf r) v) else s
    | none => (writeModuleReg (regOf r) v s).push (writeEvents (regOf r) v)) := by
  refine (if_neg (by simp [h])).trans ?_
  split
  · next p x e => exact absurd e (hr p x)
  · next b hb _ =>
    rw [hb]
    exact (apply_ite Host.Outcome.next _ _ _).symm
  · next hb _ => rw [hb]

theorem rcRegisterRead_closed (hr : ∃ b, regBlock (regOf r) = some b ∧ s.blockOpen b = false) :
    execRcRegisterRead r s = .next { s with hostData := none } := by
  obtain ⟨b, hb, hc⟩ := hr
  have hsome : (regBlock (regOf r)).filter (fun b => !s.blockOpen b) = some b :=
    Option.filter_eq_some_iff.mpr ⟨hb, by simp [hc]⟩
  refine (if_neg (by simp [h])).trans ?_
  rw [hsome]

/-- A register that answers gives its value, and then its clear-on-read fields are cleared. -/
theorem rcRegisterRead_open (hr : ∀ b, regBlock (regOf r) = some b → s.blockOpen b = true) : execRcRegisterRead r s =
    .next { clearOnRead (regOf r) s with hostData := some (toBytes 8 (hostRegister s (regOf r)).toNat) } := by
  have hnone : (regBlock (regOf r)).filter (fun b => !s.blockOpen b) = none := by
    rw [Option.filter_eq_none_iff]
    intro b hb
    simp [hr b hb]
  refine (if_neg (by simp [h])).trans ?_
  rw [hnone]

end

/-- Only FQOVF and the port registers have fields that a read clears. -/
theorem clearOnRead_plain {r : HostReg} (hf : ∀ b, r ≠ .fqovf b) (hp : ∀ n, r ≠ .bport n) (s : State) : clearOnRead r s = s := by
  unfold clearOnRead
  split
  · exact absurd rfl (hf _)
  · exact absurd rfl (hp _)
  · rfl

/-- Registers that read as zero. -/
theorem hostRegister_zero {r : HostReg} {b : Block} {p : PartId} (s : State)
    (h : r = .unassigned ∨ r = .mbcmd ∨ r = .domctl ∨ r = .gctl b ∨ r = .rszack p) : hostRegister s r = 0 := by
  rcases h with rfl | rfl | rfl | rfl | rfl <;> rfl

theorem fqovf_bytes (s : State) (b : Block) :
    toBytes 8 (hostRegister s (.fqovf b)).toNat = toBytes 8 (s.block b).fq.ovf.toNat :=
  congrArg (toBytes 8) (BitVec.toNat_setWidth_of_le (by decide))

/-- Settles O35. -/
theorem hostEventsRun : Obligations.HostEventsRun := by
  intro p off n bs r v b k s
  refine ⟨exec_flr s, exec_flrReady s,
    fun h => ⟨(exec_hostWindowRead s).trans (hostWindowRead_closed h), (exec_hostWindowWrite s).trans (hostWindowWrite_closed h)⟩,
    fun hu hb => ⟨(exec_hostWindowRead s).trans (hostWindowRead_open hu hb n),
      (exec_hostWindowWrite s).trans (hostWindowWrite_open hu hb bs)⟩,
    fun h => ⟨(exec_registerWrite s).trans (registerWrite_down h), (exec_rcRegisterRead s).trans (rcRegisterRead_down h)⟩,
    fun h => ⟨fun x hr => ⟨_, (exec_registerWrite s).trans (registerWrite_rel h hr), rfl, rfl⟩,
      fun hr => (exec_registerWrite s).trans (registerWrite_other h hr), fun hb => ?_,
      (exec_rcRegisterRead s).trans (rcRegisterRead_open h (fun _ e => nomatch e)),
      fun hr => (exec_rcRegisterRead s).trans (rcRegisterRead_closed h hr), fun hf hp hb => ?_⟩,
    ⟨rfl, rfl, rfl, rfl⟩, hostRegister_zero s, exec_doeRequest s⟩
  · refine (exec_rcRegisterRead s).trans ((rcRegisterRead_open h (fun b' e => ?_)).trans (congrArg Host.Outcome.next ?_))
    · cases e
      exact hb
    · exact congrArg (fun l => { clearOnRead (.fqovf b) s with hostData := some l }) (fqovf_bytes s b)
  · refine (exec_rcRegisterRead s).trans ((rcRegisterRead_open h hb).trans (congrArg Host.Outcome.next ?_))
    rw [clearOnRead_plain hf hp]

end Sys2Proof.Proofs

/-! The time domain and the Bluvy ports (02 R20, 22 R341 to R346). -/

namespace Sys2Proof.Proofs
open Sys2Proof Sys2Proof.Machine Sys2Proof.Laws

/-! ## The domain -/

theorem domainJoin_refused {s : State} (h : s.boot ≠ .running ∨ s.dom ≠ .alone ∨ s.domLock = false) : execDomainJoin s = .next s := by
  refine if_pos ?_
  rcases h with h | h | h
  · exact Or.inl h
  · exact Or.inr (Or.inl h)
  · exact Or.inr (Or.inr (Or.inl (by simp [h])))

/-- A module with no link up knows itself the first. -/
theorem domainJoin_first {s : State} (hb : s.boot = .running) (hd : s.dom = .alone) (hl : s.domLock = true)
    (hp : ∀ q ∈ s.parts.toList, q.en = false) (hu : ∀ y ∈ s.ports.toList, y.state ≠ .up) :
    execDomainJoin s = .next (joined { s with domOffs := 0 }) := by
  have hparts : s.parts.toList.any (fun p => p.en) = false := List.any_eq_false.mpr (fun q hq => by simp [hp q hq])
  have hports : s.ports.toList.all (fun x => decide (x.state ≠ .up)) = true :=
    List.all_eq_true.mpr (fun y hy => decide_eq_true (hu y hy))
  refine (if_neg ?_).trans (if_pos hports)
  simp [hb, hd, hl, hparts]

theorem offsetMeasure_eq (off : Byte) (s : State) : execOffsetMeasure off s = .next (if s.dom = .joined then
    (if 8 < off.toInt ∨ off.toInt < -8 then lose { s with domOffs := off } else { s with domOffs := off }) else s) := by
  unfold execOffsetMeasure
  by_cases h : s.dom = .joined
  · rw [if_neg (not_not.mpr h), if_pos h]
  · rw [if_pos h, if_neg h]

theorem timeExchange_other {t : W64} {s : State} (h : s.dom ≠ .joining) : execTimeExchange t s = .next s := if_pos h

theorem timeExchange_early {t : W64} {s : State} (h : s.dom = .joining) (hn : s.joinRounds + 1 < 16) :
    execTimeExchange t s = .next { s with joinRounds := s.joinRounds + 1, joinSum := s.joinSum + t.toInt } :=
  (if_neg (not_not.mpr h)).trans (if_pos hn)

/-! ## Ports -/

theorem bportEnable_booting {n : Fin 48} {en : Bool} {s : State} (h : s.boot ≠ .running) : execBportEnableWrite n en s = .next s :=
  if_pos h

theorem bportEnable_running {n : Fin 48} {en : Bool} {s : State} (h : s.boot = .running) : execBportEnableWrite n en s =
    .next (if en then (if (s.port n).state = .off then train n (s.setPort n { s.port n with en := true }) else s)
      else reroute (s.setPort n { s.port n with en := false, state := .off, peer := 0x3F, fails := 0 })) :=
  (if_neg (not_not.mpr h)).trans (apply_ite Host.Outcome.next _ _ _).symm

section
variable {n : Fin 48} {s : State} (h : (s.port n).state = .retraining)
include h

theorem retrainResult_up : execRetrainResult n true s = .next (reroute (s.setPort n { s.port n with state := .up, fails := 0 })) :=
  if_neg (not_not.mpr h)

theorem retrainResult_again (hf : (s.port n).fails + 1 < 3) :
    execRetrainResult n false s = .next (s.setPort n { s.port n with fails := (s.port n).fails + 1 }) :=
  (if_neg (not_not.mpr h)).trans (if_pos hf)

theorem retrainResult_down (hf : 3 ≤ (s.port n).fails + 1) : execRetrainResult n false s =
    .next (everyFault 0x03 5 (BitVec.ofNat 64 n.val) 0 (reroute (bump (hUncorr 11) 1 ((s.setPort n { s.port n with
      state := .down, peer := 0x3F, fails := 0, since := s.cyc }).later downTicks (.downRetry n))))) :=
  (if_neg (not_not.mpr h)).trans (if_neg (Nat.not_lt.mpr hf))

end

/-- Settles O36. -/
theorem domainEventsRun : Obligations.DomainEventsRun := by
  intro n en ok peer m off t ups s x
  refine ⟨fun h => ⟨(exec_domainJoin s).trans (domainJoin_refused (Or.inl h)),
      (exec_bportEnableWrite s).trans (bportEnable_booting h)⟩,
    fun h => (exec_domainJoin s).trans (domainJoin_refused (Or.inr h)),
    fun hb hd hl hp hu => (exec_domainJoin s).trans (domainJoin_first hb hd hl hp hu), exec_domainLeave s,
    (exec_offsetMeasure s).trans (offsetMeasure_eq off s), exec_pllLockLoss s, exec_fabricPllLock s,
    fun h => (exec_timeExchange s).trans (timeExchange_other h), fun h hn => (exec_timeExchange s).trans (timeExchange_early h hn),
    fun h => (exec_bportEnableWrite s).trans (bportEnable_running h), exec_linkTrained s,
    (exec_trainingTimeout s).trans (apply_ite Host.Outcome.next _ _ _).symm,
    (exec_linkError s).trans (apply_ite Host.Outcome.next _ _ _).symm,
    fun h => ⟨fun hok => ?_, fun hok hf => ?_, fun hok hf => ?_⟩, exec_downRetry s, exec_flitReplay s,
    fun h => (exec_portStateFlit s).trans (dif_pos h)⟩
  · exact hok ▸ (exec_retrainResult s).trans (retrainResult_up h)
  · exact hok ▸ (exec_retrainResult s).trans (retrainResult_again h hf)
  · exact hok ▸ (exec_retrainResult s).trans (retrainResult_down h hf)

end Sys2Proof.Proofs

/-! Maintenance, wear, the patrol scrubber, temperatures, the mailbox, boot, power and reset (25 R359, R361, 27 R372 to R383). -/

namespace Sys2Proof.Proofs
open Sys2Proof Sys2Proof.Machine Sys2Proof.Laws

/-! ## Maintenance and wear -/

theorem maintenanceDue_serves {t : PairId} {sym : Bool} {s : State} (h : s.servable t sym = true)
    (hl : ∀ u : PairId, u.val < t.val → arrayDie u = arrayDie t → s.servable u sym = false) :
    execMaintenanceDue t sym s = .next (maintain t sym s) := by
  have hlower : (List.finRange 1088).any (fun u => decide (u.val < t.val ∧ arrayDie u = arrayDie t) && s.servable u sym) = false := by
    refine List.any_eq_false.mpr (fun u _ => ?_)
    rw [Bool.and_eq_true, decide_eq_true_eq]
    rintro ⟨⟨hlt, hdie⟩, hserve⟩
    exact Bool.false_ne_true ((hl u hlt hdie).symm.trans hserve)
  unfold execMaintenanceDue
  rw [hlower, h]
  rfl

theorem maintenanceDue_rests {t : PairId} {sym : Bool} {s : State} (h : s.servable t sym = false) :
    execMaintenanceDue t sym s = .next s := by
  unfold execMaintenanceDue
  rw [h]
  rfl

/-- A maintenance command stands behind the barges of its pair, with nothing to count. -/
theorem maintain_slots (t : PairId) (sym : Bool) (s : State) : ∃ b : Barge,
    ((maintain t sym s).pair t).slots = (s.pair t).slots ++ [b] ∧ b.q = maintenanceEntry s sym ∧ b.count = 0 := by
  unfold maintain
  rw [State.pair_setPair]
  exact ⟨_, rfl, rfl, rfl⟩

theorem wornSet_other {t : PairId} {s : State} (h : (s.pair t).worn = true ∨ (s.pair t).insv = false) : execWornSet t s = .next s :=
  if_pos (h.imp_right (fun h => by simp [h]))

theorem wornSet_marks {t : PairId} {s u w : State} {det : W64} (hw : (s.pair t).worn = false) (hi : (s.pair t).insv = true)
    (hu : bump (hTile (arrayDie t) 2) 1 (s.setPair t { s.pair t with worn := true }) = u)
    (hd : arrayDet u ((s.pair t).tile.val % 8) 4 = det) (hf : moduleFault .pf0 xTileFault 5 det 0 u = w) :
    execWornSet t s = .next (match w.binder t with
      | some (q, _) => moduleFault (.part q) xTileFault 5 det 0 w
      | none => w) := by
  refine (if_neg (by simp [hw, hi])).trans ?_
  rw [hu, hd, hf] <;> cases w.binder t <;> rfl

/-! ## The patrol scrubber and temperatures -/

theorem patrolScrub_none {e : ErrAt} {bad : Bool} {s : State} (h : errClass e = none) : execPatrolScrub e bad s = .next s := by
  unfold execPatrolScrub
  simp only [h]

theorem patrolScrub_mends {e : ErrAt} {bad : Bool} {k : Nat} {s : State} (h : errClass e = some k)
    (hm : (alwaysMends k || (!bad && !neverMends k)) = true) : execPatrolScrub e bad s = .next (bump (hCorr k) 1 (dropEntry e s)) := by
  unfold execPatrolScrub
  simp only [h]
  exact if_pos hm

/-- An uncorrectable error in what the patrol reads. -/
theorem patrolScrub_finds {a : W64} {k : Nat} {s : State} (h : errClass (.mem a) = some k) (hp : patrolled a.toNat = true)
    (hm : alwaysMends k = false) : execPatrolScrub (.mem a) true s = .next (patrolFinds a.toNat s) := by
  unfold execPatrolScrub
  simp only [h, hm, hp, Bool.not_true, Bool.false_and, Bool.or_self, Bool.false_eq_true, if_false, if_true]

/-- The ceiling holds where a sensor is at it. -/
theorem sensors_any (ts : List Byte) (s : State) : (readSensors ts s).temps.toList.any (fun x => decide (ceilingTemp ≤ x.toNat)) = true ↔
    ∃ d : Fin 13, ceilingTemp ≤ (ts.getD d.val 0).toNat := by
  have hlist : (readSensors ts s).temps.toList = (List.finRange 13).map (fun d => ts.getD d.val 0) := by
    unfold readSensors
    simp
  rw [hlist]
  simp

theorem junctionTemperature_sample {ts : List Byte} {s : State} (h : ts.length = 13) :
    ∃ u, execJunctionTemperatureSample ts s = .next u ∧
      (u.thermal = true ↔ ∃ d : Fin 13, ceilingTemp ≤ (ts.getD d.val 0).toNat) := by
  have hne : ts.isEmpty = false := by
    rw [List.isEmpty_eq_false_iff]
    rintro rfl
    cases h
  refine ⟨_, rfl, ?_⟩
  rw [hne]
  exact sensors_any ts s

/-- The hourly record goes into the ring and the totals, and a new one begins. -/
theorem healthRecord_appended (s : State) : ∃ u, execHealthRecordAppend s = .next u ∧
    u.flash.hours = (s.flash.hours ++ [hourRecord s]).drop ((s.flash.hours ++ [hourRecord s]).length - hourRing) ∧
    u.flash.totals = (s.flash.total (hourRecord s)).totals ∧ u.flash.trips = 0 ∧ u.health = [] ∧ u.hourly = s.hourly + 1 ∧
    u.mem = s.mem := by
  unfold execHealthRecordAppend
  generalize hourRecord s = r
  exact ⟨_, rfl, by dsimp only, rfl, rfl, rfl, rfl, rfl⟩

/-! ## The mailbox -/

/-- The machine after a write of MBCMD. -/
def commandStarted (op : Byte) (s : State) : State :=
  if s.mbox.busy = true ∨ s.boot = .rom then s
  else ({ s with mbox := { s.mbox with
    op := op, busy := true, input := s.mbox.buf.reads 0 mbBytes, inLen := s.mbox.filled, flashBad := false,
    inArg := s.mbox.args.get 0 } }).later 1 .mailboxDone

theorem startCommand_eq (op : Byte) (s : State) : startCommand op s = .next (commandStarted op s) :=
  (apply_ite Host.Outcome.next _ _ _).symm

theorem mailboxBadOp_eq {op : Byte} {s : State} (h : op = 0 ∨ 8 < op.toNat) : execMailboxBadOp op s = .next (commandStarted op s) := by
  refine (if_neg ?_).trans (startCommand_eq op s)
  rintro ⟨h1, h8⟩
  rcases h with rfl | h
  · exact absurd h1 (by decide)
  · omega

theorem mailboxDone_idle {s : State} (h : s.mbox.busy = false) : execMailboxDone s = .next s := if_pos (by rw [h]; rfl)

theorem mailboxDone_busy {s : State} (h : s.mbox.busy = true) : execMailboxDone s = .next (match runCommand s with
    | .error c => { s with mbox := s.mbox.ended (some c) [] }
    | .ok r => { r.2 with mbox := r.2.mbox.ended none (r.1.take mbBytes) }) := by
  refine (if_neg (by rw [h]; exact Bool.false_ne_true)).trans ?_
  cases runCommand s <;> rfl

/-! ## Boot -/

theorem bootVerify_rests {s : State} (h : s.boot = .gate ∨ s.boot = .running ∨ s.boot = .recovery) : execBootVerify s = .next s := by
  unfold execBootVerify
  rcases h with h | h | h <;> rw [h]

/-- The boot ROM's check leaves the joints to train, or recovery. -/
theorem verifyImages_boot (s : State) : ((verifyImages s).boot = .joints ∧ (verifyImages s).pcieUp = s.pcieUp) ∨
    (verifyImages s).boot = .recovery := by
  unfold verifyImages
  dsimp only
  generalize (s.pufBad || !s.flash.minGood || (!fwGood s false && !fwGood s true)) = bad
  cases bad with
  | true => exact Or.inr rfl
  | false => exact Or.inl ⟨rfl, rfl⟩

theorem bootVerify_rom {s : State} (h : s.boot = .rom) : ∃ u, execBootVerify s = .next u ∧
    (u.boot = .joints ∨ u.boot = .recovery) ∧ (u.boot = .joints → u.pcieUp = s.pcieUp) := by
  unfold execBootVerify
  rw [h]
  refine ⟨_, rfl, ?_⟩
  rcases verifyImages_boot { s with free := s.free + 1, pufBad := bit (Config.free s.free) 0 } with ⟨hj, hp⟩ | hr
  · rw [if_neg (fun e => by rw [hj] at e; cases e)]
    exact ⟨Or.inl hj, fun _ => hp⟩
  · rw [if_pos hr]
    exact ⟨Or.inr hr, fun e => by rw [hr] at e; cases e⟩

theorem bootVerify_joints {s : State} (h : s.boot = .joints) :
    execBootVerify s = .next ((raiseJoints 0 16 { s with boot := .stacks }).later stackTicks .bootVerify) := by
  unfold execBootVerify
  rw [h]

theorem bootVerify_stacks {s : State} (h : s.boot = .stacks) :
    execBootVerify s = .next (enterGate 0 Masks.all (raiseJoints 16 24 { s with boot := .gate })) := by
  unfold execBootVerify
  rw [h]

/-- Settles O37. -/
theorem moduleEventsRun : Obligations.ModuleEventsRun := by
  intro t sym a e k op ts s
  refine ⟨fun h hl => ⟨(exec_maintenanceDue s).trans (maintenanceDue_serves h hl), maintain_slots t sym s⟩,
    fun h => (exec_maintenanceDue s).trans (maintenanceDue_rests h), fun h => (exec_wornSet s).trans (wornSet_other h),
    fun hw hi => (exec_wornSet s).trans (wornSet_marks hw hi rfl rfl rfl),
    fun h bad => (exec_patrolScrub s).trans (patrolScrub_none h),
    fun h => ⟨fun hn => (exec_patrolScrub s).trans (patrolScrub_mends h (by simp [hn])),
      fun hm => (exec_patrolScrub s).trans (patrolScrub_mends h (by simp [hm]))⟩,
    fun h hp hm => (exec_patrolScrub s).trans (patrolScrub_finds h hp hm), fun h => junctionTemperature_sample h,
    healthRecord_appended s,
    ⟨(exec_readhealth s).trans (startCommand_eq 1 s), (exec_readtotals s).trans (startCommand_eq 2 s),
      (exec_readcert s).trans (startCommand_eq 3 s), (exec_quote s).trans (startCommand_eq 4 s),
      (exec_signman s).trans (startCommand_eq 5 s), (exec_install s).trans (startCommand_eq 6 s),
      (exec_remap s).trans (startCommand_eq 7 s), (exec_loadfw s).trans (startCommand_eq 8 s),
      fun h => (exec_mailboxBadOp s).trans (mailboxBadOp_eq h)⟩,
    fun h => (exec_mailboxDone s).trans (mailboxDone_idle h), fun h => (exec_mailboxDone s).trans (mailboxDone_busy h),
    exec_moduleReset s, fun h => (exec_bootVerify s).trans (bootVerify_rests h), fun h => bootVerify_rom h,
    fun h => (exec_bootVerify s).trans (bootVerify_joints h), fun h => (exec_bootVerify s).trans (bootVerify_stacks h), rfl,
    exec_perstRelease s, exec_powerLoss s⟩

end Sys2Proof.Proofs

/-! Vector results (08 R128 to R143): the fields of a packed lane, lane blocks under a mask, and the flags that a fold
gathers. -/

namespace Sys2Proof.Proofs
open Sys2Proof Sys2Proof.Machine Sys2Proof.Laws

/-! ## Fields of a lane -/

theorem count_mul_width (t : Fmt) : count t * width t = 32 := by cases t <;> rfl

theorem width_le_32 (t : Fmt) : width t ≤ 32 := by cases t <;> decide

theorem toNat_sub (x : W32) (lo w : Nat) : (sub x lo w).toNat = x.toNat / 2 ^ lo % 2 ^ w := by
  have hle : x.toNat / 2 ^ lo % 2 ^ w ≤ x.toNat := (Nat.mod_le _ _).trans (Nat.div_le_self _ _)
  exact (BitVec.toNat_ofNat _ _).trans (Nat.mod_eq_of_lt (hle.trans_lt x.isLt))

theorem sub_whole (x : W32) : sub x 0 32 = x :=
  BitVec.eq_of_toNat_eq (by rw [toNat_sub, pow_zero, Nat.div_one, Nat.mod_eq_of_lt x.isLt])

theorem sub_zero_eq_iff {x y : W32} {w : Nat} : sub x 0 w = sub y 0 w ↔ x.toNat % 2 ^ w = y.toNat % 2 ^ w := by
  rw [← BitVec.toNat_inj, toNat_sub, toNat_sub, pow_zero, Nat.div_one, Nat.div_one]

theorem sub_of_zero (lo w : Nat) : sub 0 lo w = 0 := by simp [sub]

/-- The number that the fields of a packed lane add up to. -/
def fieldSum (w n : Nat) (f : Nat → Nat) : Nat := (List.range n).foldl (fun a i => a + (f i % 2 ^ w) <<< (i * w)) 0

theorem fieldSum_succ (w n : Nat) (f : Nat → Nat) :
    fieldSum w (n + 1) f = fieldSum w n f + 2 ^ (n * w) * (f n % 2 ^ w) := by
  simp [fieldSum, List.range_succ, Nat.shiftLeft_eq, Nat.mul_comm]

theorem fieldSum_lt (w n : Nat) (f : Nat → Nat) : fieldSum w n f < 2 ^ (n * w) := by
  induction n with
  | zero => simp [fieldSum]
  | succ n ih =>
    have hf : f n % 2 ^ w + 1 ≤ 2 ^ w := Nat.mod_lt _ (by positivity)
    calc fieldSum w (n + 1) f < 2 ^ (n * w) * (f n % 2 ^ w + 1) := by rw [fieldSum_succ]; linarith
      _ ≤ 2 ^ (n * w) * 2 ^ w := Nat.mul_le_mul_left _ hf
      _ = 2 ^ ((n + 1) * w) := by rw [← pow_add, Nat.succ_mul]

theorem fieldSum_field {w n i : Nat} (f : Nat → Nat) (hi : i < n) :
    fieldSum w n f / 2 ^ (i * w) % 2 ^ w = f i % 2 ^ w := by
  induction n with
  | zero => omega
  | succ n ih =>
    rw [fieldSum_succ]
    obtain rfl | hlt : i = n ∨ i < n := by omega
    · rw [Nat.add_mul_div_left _ _ (by positivity), Nat.div_eq_of_lt (fieldSum_lt ..), zero_add, Nat.mod_mod]
    · obtain ⟨j, rfl⟩ : ∃ j, n = i + 1 + j := ⟨n - (i + 1), by omega⟩
      have hpow : 2 ^ ((i + 1 + j) * w) = 2 ^ (i * w) * (2 ^ w * 2 ^ (j * w)) := by
        rw [← pow_add, ← pow_add]; congr 1; ring
      rw [hpow, mul_assoc, Nat.add_mul_div_left _ _ (by positivity), mul_assoc, Nat.add_mul_mod_self_left]
      exact ih hlt

theorem packLane_eq_ofNat (w n : Nat) (f : Nat → W32) :
    packLane w n f = BitVec.ofNat 32 (fieldSum w n (fun i => (f i).toNat)) := rfl

theorem packLane_field {w n i : Nat} (f : Nat → W32) (hn : n * w ≤ 32) (hi : i < n) :
    sub (packLane w n f) (i * w) w = sub (f i) 0 w := by
  refine BitVec.eq_of_toNat_eq ?_
  have hlt : fieldSum w n (fun i => (f i).toNat) < 2 ^ 32 :=
    (fieldSum_lt ..).trans_le (Nat.pow_le_pow_right (by decide) hn)
  rw [toNat_sub, toNat_sub, packLane_eq_ofNat, BitVec.toNat_ofNat, Nat.mod_eq_of_lt hlt, fieldSum_field _ hi, pow_zero,
    Nat.div_one]

theorem packLane_one (f : Nat → W32) : packLane 32 1 f = f 0 := by
  rw [← sub_whole (packLane 32 1 f), ← Nat.zero_mul 32, packLane_field f (by decide) (by decide), sub_whole]

theorem laneOf_succ (w n : Nat) (f : Nat → CF) :
    laneOf w (n + 1) f =
      (BitVec.ofNat 32 ((laneOf w n f).1.toNat + ((f n).1.toNat % 2 ^ w) <<< (n * w)), (laneOf w n f).2 ||| (f n).2) := by
  simp [laneOf, List.range_succ]

/-- The codes of `laneOf` are packed as by `packLane`. -/
theorem laneOf_fst (w n : Nat) (f : Nat → CF) : (laneOf w n f).1 = packLane w n (fun i => (f i).1) := by
  induction n with
  | zero => rfl
  | succ n ih =>
    rw [laneOf_succ, ih, packLane_eq_ofNat, packLane_eq_ofNat, fieldSum_succ]
    refine BitVec.eq_of_toNat_eq ?_
    simp only [BitVec.toNat_ofNat, Nat.shiftLeft_eq, Nat.mod_add_mod, Nat.mul_comm]

theorem laneOf_flags (w n j : Nat) (f : Nat → CF) :
    (laneOf w n f).2.getLsbD j = true ↔ ∃ i, i < n ∧ (f i).2.getLsbD j = true := by
  induction n with
  | zero => simp [laneOf]
  | succ n ih =>
    rw [laneOf_succ, BitVec.getLsbD_or, Bool.or_eq_true, ih]
    simp only [Nat.lt_succ_iff_lt_or_eq, or_and_right, exists_or, exists_eq_left]

theorem laneOf_field {i : Nat} (t : Fmt) (f : Nat → CF) (hi : i < count t) :
    sub (laneOf (width t) (count t) f).1 (i * width t) (width t) = sub (f i).1 0 (width t) := by
  rw [laneOf_fst, packLane_field _ (count_mul_width t).le hi]

/-! ## Lane blocks -/

theorem mkLanes_at (f : Nat → W32) {l : Nat} (hl : l < 1024) : (mkLanes f).at l = f l := by
  simp only [Lanes.at, mkLanes, Vector.get, List.getElem_toArray, List.getElem_map, List.getElem_range]
  exact congrArg f (Nat.mod_eq_of_lt hl)

theorem maskedLanes_fst (m : Mask) (f : Nat → CF) :
    (maskedLanes m f).1 = mkLanes (fun l => if m.at l then (f l).1 else 0) := by
  simp only [maskedLanes, mkLanes, List.map_map, Function.comp_def, apply_ite Prod.fst]

theorem maskedLanes_at (m : Mask) (f : Nat → CF) {l : Nat} (hl : l < 1024) :
    (maskedLanes m f).1.at l = if m.at l then (f l).1 else 0 := by
  rw [maskedLanes_fst, mkLanes_at _ hl]

/-- A fold that joins flags raises what its start or one of its terms does. -/
theorem foldl_or_getLsbD {α : Type} (g : α → Flags) (j : Nat) (xs : List α) (a : Flags) :
    (xs.foldl (fun a x => a ||| g x) a).getLsbD j = true ↔
      a.getLsbD j = true ∨ ∃ x ∈ xs, (g x).getLsbD j = true := by
  induction xs generalizing a with
  | nil => simp
  | cons x xs ih => simp [ih, or_assoc]

theorem maskedLanes_flags (m : Mask) (f : Nat → CF) (j : Nat) :
    (maskedLanes m f).2.getLsbD j = true ↔ ∃ l, l < 1024 ∧ m.at l = true ∧ (f l).2.getLsbD j = true := by
  rw [maskedLanes, foldl_or_getLsbD]
  simp only [List.mem_map, List.mem_range, exists_exists_and_eq_and]
  refine ⟨?_, fun ⟨l, hl, hm, hf⟩ => .inr ⟨l, hl, by rwa [if_pos hm]⟩⟩
  rintro (h | ⟨l, hl, hf⟩)
  · simp at h
  · by_cases hm : m.at l = true
    · exact ⟨l, hl, hm, by rwa [if_pos hm] at hf⟩
    · simp [hm] at hf

theorem norm_tag (e : VEntry) : e.norm.tag = e.tag := by
  unfold VEntry.norm
  split <;> rfl

theorem norm_at (e : VEntry) {l : Nat} (hl : l < 1024) :
    e.norm.lanes.at l = if e.tag = .acc12 then e.lanes.at l &&& 0xFFFFF800 else e.lanes.at l := by
  unfold VEntry.norm
  split
  · exact mkLanes_at _ hl
  · rfl

end Sys2Proof.Proofs

/-! The frames of vector results: words on element codes, on exact values and on raw lanes, conversions and dot products
(08 R128, R129, R132 to R137, R141). -/

namespace Sys2Proof.Proofs
open Sys2Proof Sys2Proof.Machine Sys2Proof.Laws

/-! ## Results element by element -/

/-- A lane block computed under a mask is the result element by element whose codes and flags its lanes hold. -/
theorem elementsAre_vout {t : Fmt} {imm : Flags} {f : Nat → Nat → CF} {g : Nat → CF} (x : Nat) (vs : List VOp) (d : VDst)
    (side : Vector W16 256) (m : Mask)
    (hval : ∀ l i, i < count t → sub (g l).1 (i * width t) (width t) = sub (f l i).1 0 (width t))
    (hfl : ∀ l j, (g l).2.getLsbD j = true ↔
      imm.getLsbD j = true ∨ ∃ i, i < count t ∧ (f l i).2.getLsbD j = true) :
    ElementsAre (vout x vs d ⟨(maskedLanes m g).1, t, side⟩ (maskedLanes m g).2) d t m imm f := by
  refine ⟨rfl, ⟨_, rfl, norm_tag _, fun l i hl hi => ?_⟩, fun j => ?_⟩
  · rw [norm_at _ hl, maskedLanes_at m g hl]
    by_cases hm : m.at l = true
    · rw [if_pos hm, if_pos hm]
      by_cases ht : t = .acc12
      · rw [if_pos ht, if_pos ht]
        obtain ⟨hw, rfl⟩ : width t = 32 ∧ i = 0 := by
          subst ht
          exact ⟨rfl, Nat.lt_one_iff.mp hi⟩
        have hcode := hval l 0 hi
        rw [hw, Nat.zero_mul, sub_whole, sub_whole] at hcode
        rw [hcode, Nat.zero_mul]
      · rw [if_neg ht, if_neg ht]
        exact hval l i hi
    · rw [if_neg hm, if_neg hm]
      split <;> simp [sub]
  · simp only [vout, maskedLanes_flags, hfl]

/-- Only the element bits of a code are seen. -/
theorem elementsAre_congr {o : VOut} {d : VDst} {t : Fmt} {m : Mask} {imm : Flags} {f f' : Nat → Nat → CF}
    (h : ElementsAre o d t m imm f)
    (hc : ∀ l i, i < count t → sub (f l i).1 0 (width t) = sub (f' l i).1 0 (width t) ∧ (f l i).2 = (f' l i).2) :
    ElementsAre o d t m imm f' := by
  obtain ⟨hd, ⟨e, he, ht, hv⟩, hf⟩ := h
  refine ⟨hd, ⟨e, he, ht, fun l i hl hi => ?_⟩, fun j => (hf j).trans ?_⟩
  · obtain ⟨hcode, -⟩ := hc l i hi
    rw [hv l i hl hi]
    by_cases hacc : t = .acc12
    · subst hacc
      have : (f l i).1 = (f' l i).1 := by
        rw [← sub_whole (f l i).1, ← sub_whole (f' l i).1]
        exact hcode
      simp only [this]
    · simp only [if_neg hacc, hcode]
  · refine exists_congr fun l => and_congr_right fun _ => and_congr_right fun _ => or_congr_right ?_
    exact exists_congr fun i => and_congr_right fun hi => by rw [(hc l i hi).2]

/-- Two element functions that agree within the lane give one result. -/
theorem elementsAre_of_eq {o : VOut} {d : VDst} {t : Fmt} {m : Mask} {imm : Flags} {f f' : Nat → Nat → CF}
    (h : ElementsAre o d t m imm f) (hc : ∀ l i, i < count t → f l i = f' l i) : ElementsAre o d t m imm f' :=
  elementsAre_congr h fun l i hi => by rw [hc l i hi]; exact ⟨rfl, rfl⟩

/-! ## Words on codes and on values -/

/-- The flags of every immediate of a word (06 R88). -/
def immFlags (t : Fmt) (xs : List VArg) : Flags := xs.foldl (fun a y => a ||| y.flags t) 0

theorem elementsAre_vcodes (x : Nat) (d : VDst) {vs : List VOp} (m : Mask) {q : QEntry} {xs : List VArg}
    (f : Fmt → List VArg → Nat → Nat → CF) (hxs : rebuild vs q.vops = xs) :
    ElementsAre (vcodes x d vs m q f) d (argAt xs 0).tag m (immFlags (argAt xs 0).tag xs)
      (f (argAt xs 0).tag xs) := by
  subst hxs
  refine elementsAre_vout x vs d zeroSide m (fun l i hi => laneOf_field _ _ hi) fun l j => ?_
  rw [BitVec.getLsbD_or, Bool.or_eq_true, laneOf_flags, or_comm]
  rfl

theorem elementsAre_vvals (x : Nat) (d : VDst) {vs : List VOp} (m : Mask) (rm : RM) (sat : Bool) {q : QEntry}
    {xs : List VArg} (op : XR → XR → XR → XR × Flags) (hxs : rebuild vs q.vops = xs) :
    ElementsAre (vvals x d vs m rm sat q op) d (argAt xs 0).tag m (immFlags (argAt xs 0).tag xs) (fun l i =>
      finish (argAt xs 0).tag rm sat (op ((argAt xs 0).val (argAt xs 0).tag l i) ((argAt xs 1).val (argAt xs 0).tag l i)
        ((argAt xs 2).val (argAt xs 0).tag l i))) :=
  elementsAre_vcodes x d m _ hxs

/-! ## Raw lanes -/

theorem lanesAre_vlanes (x : Nat) (d : VDst) {vs : List VOp} (m : Mask) {q : QEntry} {y : Src} {r : List VArg}
    (f : Fmt → List VArg → Nat → W32) (hxs : rebuild vs q.vops = .src y :: r) :
    LanesAre (vlanes x d vs m q f) d y.e.tag m (f y.e.tag (.src y :: r)) := by
  unfold vlanes
  rw [hxs]
  refine ⟨rfl, rfl, _, rfl, norm_tag _, fun l hl => ?_⟩
  rw [norm_at _ hl, mkLanes_at _ hl]
  change (if y.e.tag = .acc12 then (if m.at l then _ else _) &&& _ else if m.at l then _ else _) = _
  by_cases hm : m.at l = true
  · simp only [if_pos hm]
    rfl
  · simp [hm]

/-! ## Conversions and packing -/

theorem elementsAre_vconv (x : Nat) (d : VDst) {b : VSrc} (m : Mask) {q : QEntry} {y : Src} {r : List VArg}
    (t : Src → Fmt) (p : Src → Nat) (side : Src → Vector W16 256) (f : Src → Nat → Nat → CF)
    (hxs : rebuild [.src b] q.vops = .src y :: r) :
    ElementsAre (vconv x d b m q t p side f) d (t y) m 0 (fun l i => if i < p y then f y l i else (0, 0)) := by
  unfold vconv
  rw [hxs]
  refine elementsAre_vout x _ d _ m (fun l i hi => laneOf_field _ _ hi) fun l j => ?_
  rw [laneOf_flags]
  simp

theorem elementsAre_vpackOut (d : VDst) {b c : VSrc} (m : Mask) (rm : RM) (ft : Fmt) {q : QEntry} {xs : List VArg}
    (hxs : rebuild [.src b, .src c] q.vops = xs) :
    ElementsAre (vpackOut d b c m rm ft q) d ft m 0 (fun l i =>
      if i < count (argAt xs 0).tag then roundTo ((argAt xs 0).val (argAt xs 0).tag l i) ft rm 0
      else roundTo ((argAt xs 1).val (argAt xs 0).tag l (i - count (argAt xs 0).tag)) ft rm 0) := by
  subst hxs
  refine elementsAre_vout 4 _ d _ m (fun l i hi => laneOf_field _ _ hi) fun l j => ?_
  rw [laneOf_flags]
  simp

/-! ## Dot products -/

/-- The exact products of a dot product, in order. -/
theorem dotTerms_fst (a b : Src) (k l : Nat) :
    (dotTerms a b k l).1 = (List.range k).map (fun i => (XR.mul (a.val l i) (b.val l i)).1) := by
  induction k with
  | zero => rfl
  | succ k ih =>
    have hstep : (dotTerms a b (k + 1) l).1 = (dotTerms a b k l).1 ++ [(XR.mul (a.val l k) (b.val l k)).1] := by
      simp [dotTerms, List.range_succ]
    rw [hstep, ih, List.range_succ, List.map_append]
    rfl

theorem foldl_add_mant (ps : List XR) (c : Int) :
    ps.foldl (fun s p => s + p.mant 0) c = c + (ps.map (fun p => p.mant 0)).sum := by
  induction ps generalizing c with
  | nil => simp
  | cons p ps ih => rw [List.foldl_cons, ih, List.map_cons, List.sum_cons, add_assoc]

theorem dotInt_eq (a b : Src) (c : XR) (k l : Nat) :
    dotInt a b c k l = satInt .int32 (c.mant 0 + ((List.range k).map (fun i =>
      (XR.mul (a.val l i) (b.val l i)).1.mant 0)).sum) := by
  rw [dotInt, foldl_add_mant, dotTerms_fst, List.map_map]
  rfl

section
variable {d : VDst} {a b : VSrc} {c : VOp} {m : Mask} {k : Nat} {q : QEntry} {x y : Src} {w : VArg}
variable (hxs : rebuild [.src a, .src b, c] q.vops = [.src x, .src y, w])
include hxs

theorem elementsAre_vdot_int (hint : isInt x.e.tag = true) :
    ElementsAre (vdot d a b c m k q) d .int32 m 0 (fun l _ =>
      satInt .int32 ((w.val .int32 l 0).mant 0 + ((List.range k).map (fun i =>
        (XR.mul (x.val l i) (y.val l i)).1.mant 0)).sum)) := by
  simp only [vdot, hxs, hint, if_true, dotInt_eq]
  refine elementsAre_vout 6 _ d _ m (fun l i hi => ?_) fun l j => ?_
  · obtain rfl : i = 0 := Nat.lt_one_iff.mp hi
    rw [Nat.zero_mul]
  · exact ⟨fun h => .inr ⟨0, by decide, h⟩, fun h => h.elim (by simp) fun ⟨_, _, h⟩ => h⟩

theorem elementsAre_vdot_float (hint : isInt x.e.tag = false) :
    ElementsAre (vdot d a b c m k q) d .fp32 m 0 (fun l _ =>
      dotFloat x y (w.val .fp32 l 0) (w.code .fp32 l 0) k l) := by
  simp only [vdot, hxs, hint, Bool.false_eq_true, if_false]
  refine elementsAre_vout 6 _ d _ m (fun l i hi => ?_) fun l j => ?_
  · obtain rfl : i = 0 := Nat.lt_one_iff.mp hi
    rw [Nat.zero_mul]
  · exact ⟨fun h => .inr ⟨0, by decide, h⟩, fun h => h.elim (by simp) fun ⟨_, _, h⟩ => h⟩

end

end Sys2Proof.Proofs

/-! Integer vector arithmetic: exact sums and products of integers, wrapping and clipping on INT32, its order, and shifts
(08 R132 to R134, 04 R48 to R50). -/

namespace Sys2Proof.Proofs
open Sys2Proof Sys2Proof.Machine Sys2Proof.Laws

/-! ## Exact integers -/

theorem fin_mant_zero (n : Bool) (m : Nat) (st : Bool) :
    (XR.fin n m 0 st).mant 0 = if n then -(m : Int) else m := by
  simp [XR.mant]

theorem mant_signed (v : Int) (st : Bool) : (XR.fin (decide (v < 0)) v.natAbs 0 st).mant 0 = v := by
  rw [fin_mant_zero]
  by_cases h : v < 0 <;> simp only [h, decide_true, decide_false, if_true, Bool.false_eq_true, if_false] <;> omega

theorem ofInt_mant (i : Int) : (XR.ofInt i).mant 0 = i := mant_signed i false

theorem add_fin_mant (rd na nb : Bool) (ma mb : Nat) :
    (XR.add rd (.fin na ma 0 false) (.fin nb mb 0 false)).1.mant 0 =
      (XR.fin na ma 0 false).mant 0 + (XR.fin nb mb 0 false).mant 0 := by
  simp only [XR.add, le_refl, if_true]
  split
  · next h => rw [h, fin_mant_zero]; simp
  · exact mant_signed _ _

theorem addOp_ofInt (rm : RM) (i j : Int) : (addOp rm (.ofInt i) (.ofInt j)).1.mant 0 = i + j := by
  refine (add_fin_mant ..).trans ?_
  rw [mant_signed, mant_signed]

theorem negate_ofInt_mant (i : Int) : (XR.ofInt i).negate.mant 0 = -i := by
  simp only [XR.ofInt, XR.negate, fin_mant_zero]
  by_cases h : i < 0 <;> simp [h] <;> omega

theorem subOp_ofInt (rm : RM) (i j : Int) : (subOp rm (.ofInt i) (.ofInt j)).1.mant 0 = i - j := by
  refine (add_fin_mant ..).trans ?_
  rw [mant_signed]
  exact (congrArg (i + ·) (negate_ofInt_mant j)).trans (sub_eq_add_neg i j).symm

theorem mul_ofInt (i j : Int) : (XR.mul (.ofInt i) (.ofInt j)).1.mant 0 = i * j := by
  simp only [XR.ofInt, XR.mul]
  rw [add_zero, fin_mant_zero, Nat.cast_mul]
  rcases lt_or_ge i 0 with hi | hi <;> rcases lt_or_ge j 0 with hj | hj <;>
    simp [hi, hj, abs_of_neg, abs_of_nonneg, not_lt.mpr]

theorem ofInt_lt (i j : Int) : (XR.ofInt i).lt (.ofInt j) = decide (i < j) := by
  change decide ((XR.ofInt i).mant 0 < (XR.ofInt j).mant 0) = _
  rw [ofInt_mant, ofInt_mant]

theorem belowOp_ofInt (i j : Int) : belowOp (.ofInt i) (.ofInt j) = decide (i < j) := by
  rw [belowOp, ofInt_lt, ofInt_lt]
  change (_ || (_ && decide (i < 0) && !decide (j < 0))) = _
  by_cases h : i < j
  · simp [h]
  · by_cases hi : i < 0
    · have hj : j < 0 := by omega
      simp [h, hj]
    · simp [h, hi]

theorem minOp_ofInt (i j : Int) : minOp (.ofInt i) (.ofInt j) = .ofInt (if i ≤ j then i else j) := by
  refine (if_neg Bool.false_ne_true).trans ?_
  rw [belowOp_ofInt, apply_ite XR.ofInt]
  by_cases h : i ≤ j
  · simp [h, not_lt.mpr h]
  · simp [h, not_le.mp h]

theorem maxOp_ofInt (i j : Int) : maxOp (.ofInt i) (.ofInt j) = .ofInt (if i ≤ j then j else i) := by
  refine (if_neg Bool.false_ne_true).trans ?_
  rw [belowOp_ofInt, apply_ite XR.ofInt]
  by_cases h : i < j
  · simp [h, h.le]
  · obtain rfl | hlt := eq_or_lt_of_le (not_lt.mp h)
    · simp
    · simp [h, not_le.mpr hlt]

/-! ## INT32 codes -/

theorem encInt_int32 (v : Int) : encInt .int32 v = BitVec.ofInt 32 v :=
  BitVec.eq_of_toNat_eq (by
    rw [encInt, BitVec.toNat_ofNat, BitVec.toNat_ofInt, Nat.mod_eq_of_lt]
    · rfl
    · have : (0 : Int) ≤ v % 2 ^ 32 ∧ v % 2 ^ 32 < 2 ^ 32 := by omega
      change (v % 2 ^ 32).toNat < _
      omega)

theorem encInt_toInt (x : W32) : encInt .int32 x.toInt = x := by rw [encInt_int32, BitVec.ofInt_toInt]

theorem decInt_int32 (c : W32) : decInt .int32 c = c.toInt := by
  have hc := c.isLt
  rw [decInt, BitVec.toInt_eq_toNat_cond]
  simp only [width, reduceCtorEq, false_or]
  rw [Nat.mod_eq_of_lt hc]
  by_cases h : 2 * c.toNat < 2 ^ 32
  · rw [if_pos (by omega), if_pos h]
  · rw [if_neg (by omega), if_neg h]

theorem decPlain_int32 (c : W32) : decPlain .int32 c = .ofInt c.toInt := congrArg XR.ofInt (decInt_int32 c)

/-- An operand of a word on INT32: a register with that tag, or an immediate. -/
def OnInt32 (y : VArg) : Prop := ∀ w, y = .src w → w.e.tag = .int32

theorem val_int32 {y : VArg} (hy : OnInt32 y) (l i : Nat) : y.val .int32 l i = .ofInt (y.code .int32 l i).toInt := by
  cases y with
  | imm v => exact decPlain_int32 _
  | src x =>
    change x.val l i = .ofInt (x.code l i).toInt
    rw [Src.val, hy x rfl]
    exact decPlain_int32 _

theorem isFloat_of_isInt {t : Fmt} (ht : isInt t = true) : isFloat t = false := by
  cases t <;> simp [isInt, isFloat] at ht ⊢

theorem flags_of_isInt {t : Fmt} (ht : isInt t = true) (y : VArg) : y.flags t = 0 := by
  cases y with
  | src _ => rfl
  | imm v => simp [VArg.flags, immCode, isFloat_of_isInt ht]

theorem finish_int32 (rm : RM) (x : XR × Flags) : finish .int32 rm false x = (encInt .int32 (x.1.mant 0), 0) := rfl

section
variable (rm : RM) (a b : W32)

theorem finish_add_int32 : finish .int32 rm false (addOp rm (.ofInt a.toInt) (.ofInt b.toInt)) = (a + b, 0) := by
  rw [finish_int32, addOp_ofInt, encInt_int32, BitVec.ofInt_add, BitVec.ofInt_toInt, BitVec.ofInt_toInt]

theorem finish_sub_int32 : finish .int32 rm false (subOp rm (.ofInt a.toInt) (.ofInt b.toInt)) = (a - b, 0) := by
  rw [finish_int32, subOp_ofInt, encInt_int32, sub_eq_add_neg, BitVec.ofInt_add, BitVec.ofInt_neg, BitVec.ofInt_toInt,
    BitVec.ofInt_toInt, BitVec.sub_eq_add_neg]

theorem finish_mul_int32 : finish .int32 rm false (XR.mul (.ofInt a.toInt) (.ofInt b.toInt)) = (a * b, 0) := by
  rw [finish_int32, mul_ofInt, encInt_int32, BitVec.ofInt_mul, BitVec.ofInt_toInt, BitVec.ofInt_toInt]

theorem finish_add_sat_int32 :
    finish .int32 rm true (addOp rm (.ofInt a.toInt) (.ofInt b.toInt)) =
      if a.toInt + b.toInt < -2 ^ 31 then (0x80000000, Flags.sat)
      else if 2 ^ 31 ≤ a.toInt + b.toInt then (0x7FFFFFFF, Flags.sat) else (a + b, 0) := by
  have hcode : encInt .int32 (a.toInt + b.toInt) = a + b := by
    rw [encInt_int32, BitVec.ofInt_add, BitVec.ofInt_toInt, BitVec.ofInt_toInt]
  have hmax : iMax .int32 < a.toInt + b.toInt ↔ 2 ^ 31 ≤ a.toInt + b.toInt := by
    rw [iMax]; omega
  change satInt .int32 ((addOp rm _ _).1.mant 0) = _
  rw [addOp_ofInt, satInt, hcode]
  simp only [hmax]
  rfl

theorem finish_min_int32 :
    finish .int32 .rne false (minOp (.ofInt a.toInt) (.ofInt b.toInt), 0) = (if a.toInt ≤ b.toInt then a else b, 0) := by
  rw [finish_int32, minOp_ofInt, ofInt_mant, apply_ite (encInt .int32), encInt_toInt, encInt_toInt]

theorem finish_max_int32 :
    finish .int32 .rne false (maxOp (.ofInt a.toInt) (.ofInt b.toInt), 0) = (if a.toInt ≤ b.toInt then b else a, 0) := by
  rw [finish_int32, maxOp_ofInt, ofInt_mant, apply_ite (encInt .int32), encInt_toInt, encInt_toInt]

end

/-! ## Shifts -/

theorem two_pow_width_dvd (t : Fmt) : 2 ^ width t ∣ 2 ^ 32 := Nat.pow_dvd_pow 2 (width_le_32 t)

/-- A shift to the left within the element is one of the whole word, cut to the element. -/
theorem shlElem_code (t : Fmt) (x c : W32) :
    sub (shlElem t x c).1 0 (width t) = sub (if width t ≤ c.toNat then 0 else x <<< c.toNat) 0 (width t) := by
  rw [shlElem]
  split
  · rfl
  · rw [sub_zero_eq_iff, BitVec.toNat_ofNat, BitVec.toNat_shiftLeft, Nat.mod_mod_of_dvd _ (two_pow_width_dvd t),
      Nat.mod_mod_of_dvd _ (two_pow_width_dvd t), Nat.mod_mod]

theorem shrElem_eq (t : Fmt) (x c : W32) : shrElem t x c = (if width t ≤ c.toNat then 0 else x >>> c.toNat, 0) := by
  rw [shrElem, ← BitVec.toNat_ushiftRight, BitVec.ofNat_toNat, BitVec.setWidth_eq]

theorem encInt_code (t : Fmt) (v : Int) : sub (encInt t v) 0 (width t) = sub (BitVec.ofInt 32 v) 0 (width t) := by
  have hdvd : ((2 : Int) ^ width t) ∣ 2 ^ 32 := by exact_mod_cast two_pow_width_dvd t
  have hmod (b : Nat) : (((v % 2 ^ b).toNat : Nat) : Int) = v % 2 ^ b :=
    Int.toNat_of_nonneg (Int.emod_nonneg _ (by positivity))
  rw [sub_zero_eq_iff, encInt, BitVec.toNat_ofNat, BitVec.toNat_ofInt, Nat.mod_mod_of_dvd _ (two_pow_width_dvd t)]
  zify
  rw [hmod, Int.emod_emod]
  exact ((congrArg (· % 2 ^ width t) (hmod 32)).trans (Int.emod_emod_of_dvd v hdvd)).symm

theorem decInt_bounds (t : Fmt) (c : W32) : -(2 ^ width t) ≤ decInt t c ∧ decInt t c < 2 ^ width t := by
  have hlt : ((c.toNat % 2 ^ width t : Nat) : Int) < 2 ^ width t := by
    exact_mod_cast Nat.mod_lt _ (by positivity)
  rw [decInt]
  push_cast at hlt ⊢
  have h0 : (0 : Int) ≤ (c.toNat : Int) % 2 ^ width t := Int.emod_nonneg _ (by positivity)
  split <;> constructor <;> linarith

/-- A quotient of a small number by a power beyond it is the sign fill. -/
theorem ediv_two_pow_of_bounds {v : Int} {w k : Nat} (hv : -(2 ^ w) ≤ v ∧ v < 2 ^ w) (hk : w ≤ k) :
    v / 2 ^ k = if v < 0 then -1 else 0 := by
  obtain ⟨hlo, hhi⟩ := hv
  have hpow : (2 : Int) ^ w ≤ 2 ^ k := pow_le_pow_right₀ (by decide) hk
  split
  · next h =>
    exact ((Int.ediv_emod_unique (r := v + 2 ^ k) (q := -1) (by positivity)).mpr
      ⟨by ring, by linarith, by linarith⟩).1
  · next h => exact Int.ediv_eq_zero_of_lt (not_lt.mp h) (by linarith)

theorem sarElem_code (t : Fmt) (x c : W32) :
    sub (sarElem t x c).1 0 (width t) = sub (BitVec.ofInt 32 (decInt t x / 2 ^ c.toNat)) 0 (width t) := by
  have hquot : decInt t x / (2 ^ (if width t ≤ c.toNat then width t else c.toNat) : Nat) = decInt t x / 2 ^ c.toNat := by
    push_cast
    split
    · next h =>
      rw [ediv_two_pow_of_bounds (decInt_bounds t x) le_rfl, ediv_two_pow_of_bounds (decInt_bounds t x) h]
    · rfl
  rw [sarElem, encInt_code, hquot]

end Sys2Proof.Proofs

/-! Reductions and scans (08 R143): the line of a lane, the results of its line, the flags that enabled lanes raise, and
trees over associative operations. -/

namespace Sys2Proof.Proofs
open Sys2Proof Sys2Proof.Machine Sys2Proof.Laws

/-! ## Lines -/

/-- The number of a lane's line among `linesOf`, and its place in it. -/
def lineIdx (row : Bool) (l : Nat) : Nat := if row then l / 64 else l % 64
def lineAt (row : Bool) (l : Nat) : Nat := if row then l % 64 else l / 64

theorem linesOf_getElem? (row : Bool) {l : Nat} (hl : l < 1024) :
    (linesOf row)[lineIdx row l]? = some (lanesBeside row l) := by
  cases row with
  | true =>
    have h : l / 64 < 16 := by omega
    simp [linesOf, lineIdx, lineOf, lanesBeside, laneRC, h]
  | false =>
    have h : l % 64 < 64 := by omega
    simp [linesOf, lineIdx, lineOf, lanesBeside, laneRC, h]

theorem mem_lanesBeside_self (row : Bool) {l : Nat} (hl : l < 1024) : l ∈ lanesBeside row l := by
  cases row with
  | true => exact List.mem_map.mpr ⟨l % 64, List.mem_range.mpr (by omega), by omega⟩
  | false => exact List.mem_map.mpr ⟨l / 64, List.mem_range.mpr (by omega), by omega⟩

/-- A line of the register is the line of each of its lanes. -/
theorem line_of_mem_linesOf {row : Bool} {ln : List Nat} {l : Nat} (hln : ln ∈ linesOf row) (hl : l ∈ ln) :
    l < 1024 ∧ ln = lanesBeside row l := by
  cases row with
  | true =>
    obtain ⟨r, hr, rfl⟩ := List.mem_map.mp hln
    obtain ⟨c, hc, rfl⟩ := List.mem_map.mp hl
    rw [List.mem_range] at hr hc
    have h : (r * 64 + c) / 64 = r := by omega
    simp [lineOf, lanesBeside, laneRC, h]
    omega
  | false =>
    obtain ⟨c, hc, rfl⟩ := List.mem_map.mp hln
    obtain ⟨r, hr, rfl⟩ := List.mem_map.mp hl
    rw [List.mem_range] at hr hc
    have h : (r * 64 + c % 64) % 64 = c % 64 := by omega
    simp [lineOf, lanesBeside, laneRC, h]
    omega

theorem lanesBeside_ne_nil (row : Bool) (l : Nat) : lanesBeside row l ≠ [] := by cases row <;> simp [lanesBeside]

theorem length_lanesBeside (row : Bool) (l : Nat) : (lanesBeside row l).length = 2 ^ (if row then 6 else 4) := by
  cases row <;> simp [lanesBeside]

/-! ## The results of a register -/

/-- What element position i of lane l's line gives (08 R143). -/
def lineRes (sc row : Bool) (f : CF → CF → CF) (get : Nat → Nat → W32) (l i : Nat) : List CF :=
  lineResult sc row f ((lanesBeside row l).map (fun n => (get n i, 0)))

theorem reduce_at (m : Mask) (sc row : Bool) (w n : Nat) (f : CF → CF → CF) (get : Nat → Nat → W32) {l : Nat}
    (hl : l < 1024) :
    (reduce m sc row w n f get).1.at l =
      if m.at l then packLane w n (fun i =>
        ((((List.range n).map (lineRes sc row f get l)).getD i []).getD (lineAt row l) (0, 0)).1) else 0 := by
  have hidx := linesOf_getElem? row hl
  unfold lineIdx at hidx
  simp only [reduce, mkLanes_at _ hl, List.getD_eq_getElem?_getD, List.getElem?_map, hidx, Option.map_some,
    Option.getD_some, if_neg (lanesBeside_ne_nil row l)]
  rfl

theorem packLane_congr {w n : Nat} {f g : Nat → W32} (h : ∀ i, i < n → f i = g i) : packLane w n f = packLane w n g := by
  rw [packLane, packLane]
  congr 1
  exact List.foldl_ext _ _ _ fun a i hi => by rw [h i (List.mem_range.mp hi)]

theorem reduce_lane (m : Mask) (sc row : Bool) (w n : Nat) (f : CF → CF → CF) (get : Nat → Nat → W32) {l : Nat}
    (hl : l < 1024) :
    (reduce m sc row w n f get).1.at l =
      if m.at l then packLane w n (fun i => ((lineRes sc row f get l i).getD (lineAt row l) (0, 0)).1) else 0 := by
  rw [reduce_at _ _ _ _ _ _ _ hl]
  refine congrArg (fun x => if m.at l = true then x else 0) (packLane_congr fun i hi => ?_)
  simp [List.getD_eq_getElem?_getD, hi]

theorem foldl_or_flatten_getLsbD (j : Nat) (rs : List (List CF)) (a : Flags) :
    (rs.foldl (fun a r => r.foldl (fun a c => a ||| c.2) a) a).getLsbD j = true ↔
      a.getLsbD j = true ∨ ∃ r ∈ rs, ∃ x ∈ r, x.2.getLsbD j = true := by
  induction rs generalizing a with
  | nil => simp
  | cons r rs ih => rw [List.foldl_cons, ih, foldl_or_getLsbD]; simp [or_assoc]

theorem foldl_or_guarded_getLsbD {α : Type} (p : α → Bool) (g : α → List (List CF)) (j : Nat) (xs : List α) (a : Flags) :
    (xs.foldl (fun a x => if p x then (g x).foldl (fun a r => r.foldl (fun a c => a ||| c.2) a) a else a) a).getLsbD j = true ↔
      a.getLsbD j = true ∨ ∃ x ∈ xs, p x = true ∧ ∃ r ∈ g x, ∃ y ∈ r, y.2.getLsbD j = true := by
  induction xs generalizing a with
  | nil => simp
  | cons x xs ih =>
    rw [List.foldl_cons, ih]
    by_cases hp : p x = true
    · simp [hp, foldl_or_flatten_getLsbD, or_assoc]
    · simp [hp]

theorem reduce_flags (m : Mask) (sc row : Bool) (w n : Nat) (f : CF → CF → CF) (get : Nat → Nat → W32) (j : Nat) :
    (reduce m sc row w n f get).2.getLsbD j = true ↔
      ∃ l i, l < 1024 ∧ i < n ∧ m.at l = true ∧ ∃ x ∈ lineRes sc row f get l i, x.2.getLsbD j = true := by
  unfold reduce
  simp only
  rw [foldl_or_guarded_getLsbD (p := fun x : List Nat × List (List CF) => x.1.any (fun l => m.at l)) (g := Prod.snd)]
  simp only [List.mem_map, exists_exists_and_eq_and, List.any_eq_true, List.mem_range]
  refine ⟨?_, fun ⟨l, i, hl, hi, hm, x, hx, hj⟩ => .inr ⟨_, List.mem_of_getElem? (linesOf_getElem? row hl),
    ⟨l, mem_lanesBeside_self row hl, hm⟩, i, hi, x, hx, hj⟩⟩
  rintro (h | ⟨ln, hln, ⟨l, hmem, hm⟩, i, hi, x, hx, hj⟩)
  · simp at h
  · obtain ⟨hl, rfl⟩ := line_of_mem_linesOf hln hmem
    exact ⟨l, i, hl, hi, hm, x, hx, hj⟩

/-! ## Trees over associative operations -/

section
variable {op : W32 → W32 → W32} {e0 : W32} [Std.Associative op] [Std.Commutative op] [Std.LawfulIdentity op e0]

theorem foldl_zipWith_op (s t : W32) : ∀ (xs ys : List W32), xs.length = ys.length →
    (List.zipWith op xs ys).foldl op (op s t) = op (xs.foldl op s) (ys.foldl op t)
  | [], [], _ => rfl
  | x :: xs, y :: ys, h => by
    have hswap : op (op s t) (op x y) = op (op s x) (op t y) := by ac_rfl
    rw [List.zipWith_cons_cons, List.foldl_cons, hswap]
    exact foldl_zipWith_op (op s x) (op t y) xs ys (Nat.succ.inj h)

omit [Std.Commutative op] in
theorem foldl_halves (xs ys : List W32) :
    (xs ++ ys).foldl op e0 = op (xs.foldl op e0) (ys.foldl op e0) := by
  rw [List.foldl_append, ← List.foldl_assoc (op := op), Std.LawfulRightIdentity.right_id (op := op)]

/-- A tree over codes without flags is the fold of its operation. -/
theorem tree_eq_foldl {f : CF → CF → CF} (hf : ∀ x y, f (x, 0) (y, 0) = (op x y, 0)) :
    ∀ (n : Nat) (xs : List W32), xs.length = 2 ^ n → tree f n (xs.map (·, 0)) = (xs.foldl op e0, 0)
  | 0, [x], _ => congrArg (·, (0 : Flags)) (Std.LawfulLeftIdentity.left_id x).symm
  | n + 1, xs, h => by
    have hlevel : treeLevel f (2 ^ n) (xs.map (·, 0)) =
        (List.zipWith op (xs.take (2 ^ n)) (xs.drop (2 ^ n))).map (·, 0) := by
      simp only [treeLevel, ← List.map_take, ← List.map_drop, List.zipWith_map, List.map_zipWith, hf]
    have hlen : (xs.take (2 ^ n)).length = (xs.drop (2 ^ n)).length := by
      rw [pow_succ] at h
      simp; omega
    have hid : op e0 e0 = e0 := Std.LawfulLeftIdentity.left_id e0
    rw [tree, hlevel, tree_eq_foldl hf n _ (by rw [pow_succ] at h; simp; omega)]
    conv_lhs => rw [← hid]
    rw [foldl_zipWith_op _ _ _ _ hlen, ← foldl_halves (op := op), List.take_append_drop]

end

/-! ## Words -/

/-- A result of lines: `res l i` is what element position i of lane l's line gives, of which lane l takes its own place
where it is enabled, and a line with an enabled lane raises its flags. -/
def LinesAre (o : VOut) (d : VDst) (t : Fmt) (m : Mask) (row : Bool) (res : Nat → Nat → List CF) : Prop :=
  (∀ j, o.flags.getLsbD j = true ↔
    ∃ l i, l < 1024 ∧ i < count t ∧ m.at l = true ∧ ∃ x ∈ res l i, x.2.getLsbD j = true) ∧
  o.dst = dstV d ∧ ∃ e : VEntry, o.val = .v e ∧ e.tag = t ∧ ∀ l i, l < 1024 → i < count t → t ≠ .acc12 →
    sub (e.lanes.at l) (i * width t) (width t) =
      if m.at l then sub ((res l i).getD (lineAt row l) (0, 0)).1 0 (width t) else 0

theorem lineRes_tree (row : Bool) (f : CF → CF → CF) (get : Nat → Nat → W32) (l i : Nat) :
    lineRes false row f get l i = (lanesBeside row l).map (fun _ =>
      tree f (if row then 6 else 4) ((lanesBeside row l).map (fun n => (get n i, 0)))) := by
  simp only [lineRes, lineResult, Bool.false_eq_true, if_false, List.map_map]
  rfl

theorem lineAt_lt (row : Bool) {l : Nat} (hl : l < 1024) : lineAt row l < (lanesBeside row l).length := by
  cases row <;> simp [lineAt, lanesBeside] <;> omega

theorem lineRes_tree_getD (row : Bool) (f : CF → CF → CF) (get : Nat → Nat → W32) {l : Nat} (i : Nat) (hl : l < 1024) :
    (lineRes false row f get l i).getD (lineAt row l) (0, 0) =
      tree f (if row then 6 else 4) ((lanesBeside row l).map (fun n => (get n i, 0))) := by
  rw [lineRes_tree, List.getD_eq_getElem?_getD, List.getElem?_map, List.getElem?_eq_getElem (lineAt_lt row hl)]
  rfl

section
variable {x : Nat} {sc row : Bool} {d : VDst} {b : VSrc} {m : Mask} {rm : RM} {kind : RedKind} {q : QEntry} {y : Src}
variable (hxs : rebuild [.src b] q.vops = [.src y])
include hxs

theorem vred_elements (hk : kind ∉ [RedKind.and, .or, .xor]) :
    vred x sc row d b m rm kind q = vout x [.src b] d
      ⟨(reduce m sc row (width y.e.tag) (count y.e.tag) (combElem y.e.tag rm kind) y.code).1, y.e.tag,
        carriedSide y.e.tag y.e⟩
      (reduce m sc row (width y.e.tag) (count y.e.tag) (combElem y.e.tag rm kind) y.code).2 := by
  cases kind with
  | and | or | xor => exact absurd (by decide) hk
  | add | max | min => simp only [vred, hxs, Bool.false_eq_true, if_false]

theorem linesAre_vred (hk : kind ∉ [RedKind.and, .or, .xor]) :
    LinesAre (vred x sc row d b m rm kind q) d y.e.tag m row (lineRes sc row (combElem y.e.tag rm kind) y.code) := by
  rw [vred_elements hxs hk]
  refine ⟨reduce_flags _ _ _ (width y.e.tag) _ _ _, rfl, _, rfl, norm_tag _, fun l i hl hi ht => ?_⟩
  rw [norm_at _ hl, if_neg ht, reduce_lane _ _ _ _ _ _ _ hl]
  split
  · rw [packLane_field _ (count_mul_width _).le hi]
  · exact sub_of_zero _ _

end

/-- A reduction of whole lanes by an associative operation, which raises nothing. -/
theorem lanesAre_reduce {op : W32 → W32 → W32} {e0 : W32} [Std.Associative op] [Std.Commutative op]
    [Std.LawfulIdentity op e0] {f : CF → CF → CF} (hf : ∀ x y, f (x, 0) (y, 0) = (op x y, 0)) (x : Nat) (vs : List VOp)
    (d : VDst) (t : Fmt) (side : Vector W16 256) (m : Mask) (row : Bool) (get : Nat → Nat → W32) :
    LanesAre (vout x vs d ⟨(reduce m false row 32 1 f get).1, t, side⟩ (reduce m false row 32 1 f get).2) d t m
      (fun l => (lanesBeside row l).foldl (fun s n => op s (get n 0)) e0) := by
  have htree (l i : Nat) : tree f (if row then 6 else 4) ((lanesBeside row l).map (fun n => (get n i, 0))) =
      ((lanesBeside row l).foldl (fun s n => op s (get n i)) e0, 0) := by
    have h := tree_eq_foldl (e0 := e0) hf _ ((lanesBeside row l).map (get · i))
      (by rw [List.length_map, length_lanesBeside])
    rwa [List.map_map, List.foldl_map] at h
  refine ⟨rfl, BitVec.eq_of_getLsbD_eq fun j _ => (Bool.eq_false_iff.mpr fun h => ?_).trans BitVec.getLsbD_zero.symm, _, rfl, norm_tag _, fun l hl => ?_⟩
  · obtain ⟨l, i, -, -, -, c, hc, hj⟩ := (reduce_flags _ _ _ 32 _ _ _ j).mp h
    rw [lineRes_tree, htree] at hc
    obtain ⟨-, -, rfl⟩ := List.mem_map.mp hc
    simp at hj
  · rw [norm_at _ hl]
    simp only [reduce_lane _ _ _ _ _ _ _ hl, packLane_one, lineRes_tree_getD row f get 0 hl, htree]
    split <;> split <;> simp

end Sys2Proof.Proofs

/-! Vector results form by form (08 R132 to R143). -/

namespace Sys2Proof.Proofs
open Sys2Proof Sys2Proof.Machine Sys2Proof.Laws

/-! ## Captured operands -/

/-- The first source is captured as a register, and the same whatever operands follow it. -/
theorem rebuild_src (b : VSrc) (es : List VEntry) :
    ∃ (y : Src) (es' : List VEntry), ∀ r, rebuild (.src b :: r) es = .src y :: rebuild r es' := by
  cases es with
  | nil => exact ⟨_, _, fun _ => rfl⟩
  | cons e es => exact ⟨_, _, fun _ => rfl⟩

theorem rebuild_op (c : VOp) (es : List VEntry) :
    ∃ (y : VArg) (es' : List VEntry), ∀ r, rebuild (c :: r) es = y :: rebuild r es' := by
  cases c with
  | imm v => exact ⟨_, _, fun _ => rfl⟩
  | src b =>
    obtain ⟨y, es', h⟩ := rebuild_src b es
    exact ⟨_, es', h⟩

/-- Words of one, two and three operands capture the same first ones. -/
theorem rebuild_prefixes (b : VSrc) (c z : VOp) (es : List VEntry) :
    ∃ (x : Src) (y w : VArg), rebuild [.src b] es = [.src x] ∧ rebuild [.src b, c] es = [.src x, y] ∧
      rebuild [.src b, c, z] es = [.src x, y, w] := by
  obtain ⟨x, es1, h1⟩ := rebuild_src b es
  obtain ⟨y, es2, h2⟩ := rebuild_op c es1
  obtain ⟨w, es3, h3⟩ := rebuild_op z es2
  exact ⟨x, y, w, h1 [], by rw [h1, h2]; rfl, by rw [h1, h2, h3]; rfl⟩

theorem immFlags_one (t : Fmt) (x : VArg) : immFlags t [x] = x.flags t := by simp [immFlags]

theorem immFlags_two (t : Fmt) (x y : VArg) : immFlags t [x, y] = x.flags t ||| y.flags t := by simp [immFlags]

theorem immFlags_three (t : Fmt) (x y w : VArg) : immFlags t [x, y, w] = x.flags t ||| y.flags t ||| w.flags t := by
  simp [immFlags]

/-! ## Reductions -/

section
variable {x : Nat} {row : Bool} {d : VDst} {b : VSrc} {m : Mask} {rm : RM} {q : QEntry} {y : Src}
variable (hxs : rebuild [.src b] q.vops = [.src y])
include hxs

theorem lanesAre_vred_bits {op : W32 → W32 → W32} {e0 : W32} [Std.Associative op] [Std.Commutative op]
    [Std.LawfulIdentity op e0] {kind : RedKind} (hk : kind ∈ [RedKind.and, .or, .xor])
    (hf : ∀ u v, combElem y.e.tag rm kind (u, 0) (v, 0) = (op u v, 0)) :
    LanesAre (vred x false row d b m rm kind q) d y.e.tag m
      (fun l => (lanesBeside row l).foldl (fun s n => op s (y.raw n)) e0) := by
  have hred : vred x false row d b m rm kind q = vout x [.src b] d
      ⟨(reduce m false row 32 1 (combElem y.e.tag rm kind) (fun l _ => y.raw l)).1, y.e.tag, carriedSide y.e.tag y.e⟩
      (reduce m false row 32 1 (combElem y.e.tag rm kind) (fun l _ => y.raw l)).2 := by
    cases kind with
    | and | or | xor => simp only [vred, hxs, if_true]
    | add | max | min => exact absurd hk (by decide)
  rw [hred]
  exact lanesAre_reduce hf ..

theorem lanesAre_vred_add (ht : y.e.tag = .int32) (hp : y.part = .whole) :
    LanesAre (vred x false row d b m rm .add q) d y.e.tag m
      (fun l => (lanesBeside row l).foldl (fun s n => s + y.raw n) 0) := by
  have hf (u v : W32) : combElem .int32 rm .add (u, 0) (v, 0) = (u + v, 0) := by
    simp [combElem, decPlain_int32, finish_add_int32]
  have hcode (n : Nat) : y.raw n = y.code n 0 := by
    simp [Src.raw, Src.code, hp, partPlace, ht, width]
  rw [vred_elements hxs (by decide), ht]
  simp only [hcode]
  exact lanesAre_reduce hf ..

theorem linesAre_vred_tree {kind : RedKind} (hk : kind ∉ [RedKind.and, .or, .xor]) :
    LinesAre (vred x false row d b m rm kind q) d y.e.tag m row (fun l i => (lanesBeside row l).map (fun _ =>
      tree (combElem y.e.tag rm kind) (if row then 6 else 4)
        ((lanesBeside row l).map (fun n => (y.code n i, (0 : Flags)))))) := by
  have h := linesAre_vred (x := x) (sc := false) (row := row) (d := d) (m := m) (rm := rm) hxs hk
  rwa [funext₂ (lineRes_tree row _ y.code)] at h

end

/-! ## The forms -/

section
variable {x : Nat} {d : VDst} {b : VSrc} {c z : VOp} {m : Mask} {rm : RM} {sat : Bool} {q : QEntry} {y0 : Src} {y1 y2 : VArg}

/-- The tag of a word is that of its first register. -/
theorem elementsAre_vvals_one (op : XR → XR × Flags) (hxs : rebuild [.src b] q.vops = [.src y0]) :
    ElementsAre (vvals x d [.src b] m rm sat q (fun u _ _ => op u)) d y0.e.tag m ((VArg.src y0).flags y0.e.tag)
      (fun l i => finish y0.e.tag rm sat (op (y0.val l i))) := by
  rw [← immFlags_one]
  exact elementsAre_vvals x d m rm sat _ hxs

theorem elementsAre_vvals_two (op : XR → XR → XR × Flags) (hxs : rebuild [.src b, c] q.vops = [.src y0, y1]) :
    ElementsAre (vvals x d [.src b, c] m rm sat q (fun u v _ => op u v)) d y0.e.tag m
      ((VArg.src y0).flags y0.e.tag ||| y1.flags y0.e.tag)
      (fun l i => finish y0.e.tag rm sat (op (y0.val l i) (y1.val y0.e.tag l i))) := by
  rw [← immFlags_two]
  exact elementsAre_vvals x d m rm sat _ hxs

theorem elementsAre_vvals_three (op : XR → XR → XR → XR × Flags)
    (hxs : rebuild [.src b, c, z] q.vops = [.src y0, y1, y2]) :
    ElementsAre (vvals x d [.src b, c, z] m rm sat q op) d y0.e.tag m
      ((VArg.src y0).flags y0.e.tag ||| y1.flags y0.e.tag ||| y2.flags y0.e.tag)
      (fun l i => finish y0.e.tag rm sat (op (y0.val l i) (y1.val y0.e.tag l i) (y2.val y0.e.tag l i))) := by
  rw [← immFlags_three]
  exact elementsAre_vvals x d m rm sat _ hxs

/-- A word of two operands on INT32, where its exact results have the codes `g`. -/
theorem elementsAre_vvals_int32 (op : XR → XR → XR × Flags) (g : W32 → W32 → CF)
    (hg : ∀ u v : W32, finish .int32 rm sat (op (.ofInt u.toInt) (.ofInt v.toInt)) = g u v)
    (hxs : rebuild [.src b, c] q.vops = [.src y0, y1]) (ht : y0.e.tag = .int32) (h1 : OnInt32 y1) :
    ElementsAre (vvals x d [.src b, c] m rm sat q (fun u v _ => op u v)) d y0.e.tag m 0
      (fun l _ => g (y0.code l 0) (y1.code y0.e.tag l 0)) := by
  have hint : isInt y0.e.tag = true := by rw [ht]; rfl
  have h := elementsAre_vvals_two (x := x) (d := d) (m := m) (rm := rm) (sat := sat) op hxs
  rw [flags_of_isInt hint, flags_of_isInt hint, BitVec.or_self] at h
  refine elementsAre_of_eq h fun l i hi => ?_
  obtain rfl : i = 0 := by
    rw [ht] at hi
    exact Nat.lt_one_iff.mp hi
  have h0 : OnInt32 (.src y0) := fun w hw => by cases hw; exact ht
  change finish y0.e.tag rm sat (op ((VArg.src y0).val y0.e.tag l 0) (y1.val y0.e.tag l 0)) = _
  rw [ht, val_int32 h0, val_int32 h1]
  exact hg _ _

theorem elementsAre_vcodes_two (f : Fmt → W32 → W32 → CF) (hxs : rebuild [.src b, c] q.vops = [.src y0, y1]) :
    ElementsAre (vcodes x d [.src b, c] m q (fun t xs l i => f t ((argAt xs 0).code t l i) ((argAt xs 1).code t l i))) d
      y0.e.tag m ((VArg.src y0).flags y0.e.tag ||| y1.flags y0.e.tag)
      (fun l i => f y0.e.tag (y0.code l i) (y1.code y0.e.tag l i)) := by
  rw [← immFlags_two]
  exact elementsAre_vcodes x d m _ hxs

end

theorem elementsAre_of_ins {k : Core} {q : QEntry} {ins : Instr} {d : VDst} {t : Fmt} {m : Mask} {imm : Flags}
    {f : Nat → Nat → CF} (hq : q.ins = ins) (h : ElementsAre (vxeOut k { q with ins := ins }) d t m imm f) :
    ElementsAre (vxeOut k q) d t m imm f := by
  subst hq
  exact h

theorem lanesAre_of_ins {k : Core} {q : QEntry} {ins : Instr} {d : VDst} {t : Fmt} {m : Mask} {f : Nat → W32}
    (hq : q.ins = ins) (h : LanesAre (vxeOut k { q with ins := ins }) d t m f) : LanesAre (vxeOut k q) d t m f := by
  subst hq
  exact h

theorem unpackAt_low {y : Src} (rm : RM) (l i : Nat) (ht : y.e.tag ≠ .e2m1s) :
    unpackAt rm false y l i = roundTo (y.val l i) (widePartner y.e.tag) rm 0 := if_neg ht

theorem unpackAt_high {y : Src} (rm : RM) (l i : Nat) (ht : y.e.tag ≠ .e2m1s) :
    unpackAt rm true y l i = roundTo (y.val l (i + count y.e.tag / 2)) (widePartner y.e.tag) rm 0 := if_neg ht

theorem vxeOut_dot {h : Head} {d : VDst} {a b : VSrc} {c : VOp} {n : Nat} {q : QEntry} (k : Core) (hn : n ∈ [2, 4, 8])
    (hq : q.ins = if n = 2 then .vdot2 h d a b c else if n = 4 then .vdot4 h d a b c else .vdot8 h d a b c) :
    vxeOut k q = vdot d a b c (k.masks.get 0) n q := by
  simp only [List.mem_cons, List.not_mem_nil, or_false] at hn
  rcases hn with rfl | rfl | rfl <;> simp [vxeOut, hq]

/-- The reductions and scans of rows, and those of columns. -/
theorem vxeOut_reduce {h : Head} {d : VDst} {b : VSrc} {g : Fin 8} {rm : RM} {kind : RedKind} {q : QEntry} (k : Core)
    (row : Bool) (hq : q.ins = if row then .vredr h d b g rm kind else .vredc h d b g rm kind) :
    vxeOut k q = vred (if row then 5 else 9) false row d b (k.masks.get g) rm kind q := by
  cases row <;> simp [vxeOut, hq]

theorem vxeOut_scan {h : Head} {d : VDst} {b : VSrc} {g : Fin 8} {rm : RM} {kind : RedKind} {q : QEntry} (k : Core)
    (row : Bool) (hq : q.ins = if row then .vscanr h d b g rm kind else .vscanc h d b g rm kind) :
    vxeOut k q = vred (if row then 8 else 12) true row d b (k.masks.get g) rm kind q := by
  cases row <;> simp [vxeOut, hq]

/-- Settles O53: every form is one of a few frames (codes, exact values, raw lanes, conversions, dot products, lines), whose
element by element results the frames' lemmas give; on INT32 exact sums and products are integers. -/
theorem vectorLanes : Obligations.VectorLanes := by
  intro h d a b c z g rm sat q k
  obtain ⟨y0, y1, y2, h1, h2, h3⟩ := rebuild_prefixes b c z q.vops
  intro o m xs t v u r fl1 fl2 fl3 fin near
  have hxs : xs = [.src y0, y1, y2] := h3
  clear_value xs
  subst hxs
  have hv1 (x : Nat) (m : Mask) (rm : RM) (op : XR → XR × Flags) :=
    elementsAre_vvals_one (x := x) (d := d) (m := m) (rm := rm) (sat := false) op h1
  have hv2 (x : Nat) (m : Mask) (rm : RM) (sat : Bool) (op : XR → XR → XR × Flags) :=
    elementsAre_vvals_two (x := x) (d := d) (m := m) (rm := rm) (sat := sat) op h2
  have hv3 (x : Nat) (op : XR → XR → XR → XR × Flags) :=
    elementsAre_vvals_three (x := x) (d := d) (m := k.masks.get 0) (rm := .rne) (sat := false) op h3
  refine ⟨fun hq => elementsAre_of_ins hq (hv2 4 _ rm sat (addOp rm)),
    fun hq => elementsAre_of_ins hq (hv2 4 _ rm sat (subOp rm)),
    fun hq => elementsAre_of_ins hq (hv2 4 _ rm sat XR.mul),
    fun hq => elementsAre_of_ins hq (hv3 4 (fmaOp false false)),
    fun hq => elementsAre_of_ins hq (hv3 4 (fmaOp false true)),
    fun hq => elementsAre_of_ins hq (hv3 4 (fmaOp true false)),
    fun hq => elementsAre_of_ins hq (hv3 2 (fun u v w => (minOp (maxOp u v) w, 0))),
    fun hq => elementsAre_of_ins hq (hv2 2 _ .rne false (fun u v => (minOp u v, 0))),
    fun hq => elementsAre_of_ins hq (hv2 2 _ .rne false (fun u v => (maxOp u v, 0))),
    fun hq => elementsAre_of_ins hq (hv1 2 _ .rne (fun u => (u.abs, 0))),
    fun hq => elementsAre_of_ins hq (hv1 2 _ .rne (fun u => (u.negate, 0))),
    fun hq => elementsAre_of_ins hq (hv1 4 _ .rne (integral rm)),
    fun ht hs => ⟨
      fun hq => elementsAre_of_ins hq (elementsAre_vvals_int32 (addOp rm) (fun u v => (u + v, 0))
        (finish_add_int32 rm) h2 ht hs),
      fun hq => elementsAre_of_ins hq (elementsAre_vvals_int32 (subOp rm) (fun u v => (u - v, 0))
        (finish_sub_int32 rm) h2 ht hs),
      fun hq => elementsAre_of_ins hq (elementsAre_vvals_int32 XR.mul (fun u v => (u * v, 0))
        (finish_mul_int32 rm) h2 ht hs),
      fun hq => elementsAre_of_ins hq (elementsAre_vvals_int32 (addOp rm) (fun u v =>
        if u.toInt + v.toInt < -2 ^ 31 then (0x80000000, Flags.sat)
        else if 2 ^ 31 ≤ u.toInt + v.toInt then (0x7FFFFFFF, Flags.sat) else (u + v, 0))
        (finish_add_sat_int32 rm) h2 ht hs),
      fun hq => elementsAre_of_ins hq (elementsAre_vvals_int32 (fun u v => (minOp u v, 0))
        (fun u v => (if u.toInt ≤ v.toInt then u else v, 0)) finish_min_int32 h2 ht hs),
      fun hq => elementsAre_of_ins hq (elementsAre_vvals_int32 (fun u v => (maxOp u v, 0))
        (fun u v => (if u.toInt ≤ v.toInt then v else u, 0)) finish_max_int32 h2 ht hs)⟩,
    fun _ => ⟨
      fun hq => elementsAre_of_ins hq (elementsAre_congr (elementsAre_vcodes_two shlElem h2)
        fun _ _ _ => ⟨shlElem_code _ _ _, rfl⟩),
      fun hq => elementsAre_of_ins hq (elementsAre_of_eq (elementsAre_vcodes_two shrElem h2)
        fun _ _ _ => shrElem_eq _ _ _),
      fun hq => elementsAre_of_ins hq (elementsAre_congr (elementsAre_vcodes_two sarElem h2)
        fun _ _ _ => ⟨sarElem_code _ _ _, rfl⟩)⟩,
    fun hq => lanesAre_of_ins hq (lanesAre_vlanes (r := [y1]) 2 d _ (fun t xs l => (argAt xs 0).raw t l &&& (argAt xs 1).raw t l) h2),
    fun hq => lanesAre_of_ins hq (lanesAre_vlanes (r := [y1]) 2 d _ (fun t xs l => (argAt xs 0).raw t l ||| (argAt xs 1).raw t l) h2),
    fun hq => lanesAre_of_ins hq (lanesAre_vlanes (r := [y1]) 2 d _ (fun t xs l => (argAt xs 0).raw t l ^^^ (argAt xs 1).raw t l) h2),
    fun hq => lanesAre_of_ins hq (lanesAre_vlanes (r := []) 2 d _ (fun t xs l => ~~~((argAt xs 0).raw t l)) h1),
    fun y hy => ?_, fun n x y w hxy hq hn => ?_⟩
  · obtain rfl : y0 = y := by simpa using hy
    refine ⟨fun ft s hrm hq => elementsAre_of_ins hq ?_, fun ft s hq => elementsAre_of_ins hq ?_,
      fun ft w hc hq => elementsAre_of_ins hq (elementsAre_vpackOut (xs := [.src y0, y1]) d _ rm ft (hc ▸ h2)),
      fun ht => ⟨fun hq => elementsAre_of_ins hq ?_, fun hq => elementsAre_of_ins hq ?_⟩,
      fun row kind hk => ⟨fun hq => ?_, fun hq => ?_⟩,
      fun row => ⟨fun hq => ?_, fun hq => ?_, fun hq => ?_, fun ht hp hq => ?_⟩⟩
    · exact elementsAre_of_eq (elementsAre_vconv 4 d _ _ _ _ _ h1) fun l i _ => by simp only [if_neg hrm]
    · exact elementsAre_vconv 4 d _ _ _ _ _ h1
    · exact elementsAre_of_eq (elementsAre_vconv 4 d _ _ _ _ _ h1) fun l i _ =>
        congrArg (fun z => if i < count y0.e.tag / 2 then z else (0, 0)) (unpackAt_low rm l i ht)
    · exact elementsAre_of_eq (elementsAre_vconv 4 d _ _ _ _ _ h1) fun l i _ =>
        congrArg (fun z => if i < count y0.e.tag / 2 then z else (0, 0)) (unpackAt_high rm l i ht)
    · rw [show o = _ from vxeOut_reduce k row hq]
      exact linesAre_vred_tree h1 hk
    · rw [show o = _ from vxeOut_scan k row hq]
      exact linesAre_vred h1 hk
    · rw [show o = _ from vxeOut_reduce k row hq]
      exact lanesAre_vred_bits (op := (· &&& ·)) h1 (by decide) fun _ _ => by simp [combElem]
    · rw [show o = _ from vxeOut_reduce k row hq]
      exact lanesAre_vred_bits (op := (· ||| ·)) h1 (by decide) fun _ _ => by simp [combElem]
    · rw [show o = _ from vxeOut_reduce k row hq]
      exact lanesAre_vred_bits (op := (· ^^^ ·)) h1 (by decide) fun _ _ => by simp [combElem]
    · rw [show o = _ from vxeOut_reduce k row hq]
      exact lanesAre_vred_add h1 ht hp
  · rw [show o = _ from vxeOut_dot k hn hq]
    split
    next hint => exact elementsAre_vdot_int hxy hint
    next hint => exact elementsAre_vdot_float hxy (Bool.eq_false_iff.mpr hint)

end Sys2Proof.Proofs
